-- ==== Sys2Proof/Word.lean ====
section
/-! DEFINITION. The register word of the part and the byte of its memories (R8, R477). -/

namespace Sys2Proof

/-- A register word: every register is 32 or 64 bits wide and is held zero-extended to 64 bits (R477). -/
abbrev Word := BitVec 64

/-- One byte of DRAM, of a scratchpad, of a control-core memory or of the NOR (R8). -/
abbrev Byte := BitVec 8

end Sys2Proof
end

