-- ==== Sys2Proof/Syntax.lean ====
section
/-! DEFINITION. The commands of the block: one constructor per row of spec/opcode_table.json, with the operands that the row's
rule gives the command. An operand is what comes from outside the part with the command (a written value and the source
code of its writer, R475; a packet; a measurement); what the part itself decides is read from State. -/

namespace Sys2Proof

/-- A descriptor in flight is named by its queue, its ring index and its place in the chain (R243): `pos` is 0 for a ring
descriptor and k + 1 for chain descriptor k. -/
structure DescRef where
  queue : Nat
  index : Nat
  pos : Nat
  deriving DecidableEq, Repr

/-- An IEEE 802.1AE SecTAG as it stands on a received frame (R365). -/
structure SecTag where
  an : Nat
  pn : Nat
  sci : Nat
  encrypted : Bool
  icv : Nat
  deriving DecidableEq, Repr

/-- An Ethernet frame on the wire (R361, R362): addresses, an optional VLAN tag, an optional R-TAG sequence number, an
optional SecTAG with its ICV, the EtherType and the bytes that follow it, and whether the MAC found it good. With a SecTAG
the bytes of `payload` are the secured bytes as they stand on the wire. -/
structure EthFrame where
  da : Nat
  sa : Nat
  vlan : Option Nat
  rtag : Option Nat
  sectag : Option SecTag
  etherType : Nat
  payload : List Byte
  good : Bool
  deriving DecidableEq, Repr

/-- An access of a register path or of a memory (R475, R477): write or read, address, width in bytes, value. -/
structure Access where
  write : Bool
  addr : Nat
  width : Nat
  value : Nat
  deriving DecidableEq, Repr

/-- A CSI-2 long packet as the port receives it (R320, R321): virtual channel, data type, payload, whether the header's ECC
needed a correction, and whether header and payload checks passed. -/
structure CsiPacket where
  vc : Nat
  dataType : Nat
  payload : List Byte
  eccCorrected : Bool
  eccBad : Bool
  crcBad : Bool
  deriving DecidableEq, Repr

/-- The frame number of a frame start or frame end packet (R335), and whether the packet's header needed a correction (R321). -/
structure CsiFrameNo where
  number : Nat
  corrected : Bool
  deriving DecidableEq, Repr

/-- The lines of a TDM port at an edge of its frame sync (R339): the edge's direction, and the data line at the rising and at the falling
edges of the bit clocks since the active edge before and of the one after, the earliest bit most significant. -/
structure TdmLines where
  rising : Bool
  onRise : Nat
  onFall : Nat
  deriving DecidableEq, Repr

/-- A measurement of one package rail (R410): millivolts and milliamperes. -/
structure RailSample where
  mv : Nat
  ma : Nat
  deriving DecidableEq, Repr

/-- The commands of the block, one per row of spec/opcode_table.json, in the table's order. -/
inductive Instr where
  | resetAssert
  | resetRelease (straps : Nat)
  | clocksStart
  | pllLockLoss
  | referenceLoss
  | clocksRestart
  | rationPeriodBoundary
  | linkReplay (link bytes : Nat) (success : Bool)
  | descriptorFetch (queue : Nat)
  | descriptorForward (core : Nat)
  | nop (ref : DescRef)
  | caravanBegin (queue : Nat)
  | caravanPlace
  | caravanEnd (core : Nat)
  | fence (queue : Nat)
  | groupOpen (core : Nat)
  | groupStart (core : Nat)
  | memberStart (core : Nat)
  | groupEnd (core : Nat)
  | mxaStream (core array : Nat)
  | mxaPacked (core array : Nat)
  | mxaThrough (core array : Nat)
  | mvpMatvec (core : Nat)
  | winFeed (core : Nat)
  | winRegroup (core : Nat)
  | add (core : Nat)
  | sub (core : Nat)
  | mul (core : Nat)
  | fma (core : Nat)
  | min (core : Nat)
  | max (core : Nat)
  | abs (core : Nat)
  | neg (core : Nat)
  | clamp (core : Nat)
  | select (core : Nat)
  | curve (core : Nat)
  | convert (core : Nat)
  | slotAdd (core : Nat)
  | slotToFp32 (core : Nat)
  | reduceSum (core : Nat)
  | reduceMax (core : Nat)
  | curveLoad (core : Nat)
  | qntConvert (core : Nat)
  | qntAdapt (core : Nat)
  | windowPooling (core : Nat)
  | boxPooling (core : Nat)
  | cropAndResize (core : Nat)
  | movStream (core : Nat)
  | movWayInTake (core : Nat)
  | movWayOutPut (core : Nat)
  | descriptorComplete (ref : DescRef)
  | completionRecordPost (queue : Nat)
  | stagePush (src stage queue : Nat)
  | tailWrite (src queue value : Nat)
  | headWrite (src queue value : Nat)
  | stop (src queue : Nat)
  | resume (src queue : Nat)
  | resetIndex (src queue : Nat)
  | queueCfgWrite (src queue : Nat) (base : Bool) (value : Nat)
  | tlyAdd (src tally inc : Nat)
  | tlySet (src tally value : Nat)
  | wayPut (src way handle status : Nat)
  | wayTake (src way : Nat)
  | kill (src caravanId : Nat)
  | runLimitExpiry (core : Nat)
  | mailboxCancel (src mailbox : Nat)
  | mailboxClaim (src claim mailbox want : Nat)
  | taskRelease (src core tasks : Nat)
  | zeroingBegin (core task : Nat)
  | zeroingComplete (core task : Nat)
  | packhorseDrain (core row : Nat)
  | correctionWriteBack (core space : Nat)
  | scrubRead (core space bank : Nat)
  | eccInjectArm (src core value : Nat)
  | scratchpadWindowAccess (src : Nat) (access : Access)
  | wcInvalidate (src cache value : Nat)
  | wcInvalidateDone (cache : Nat)
  | csiFrameStart (port vc : Nat) (frameNumber : CsiFrameNo)
  | csiLongPacket (port : Nat) (packet : CsiPacket)
  | csiFrameEnd (port vc : Nat) (frameNumber : CsiFrameNo)
  | frameTimeout (port stream : Nat)
  | byteClkMeasure (port khz : Nat)
  | ispStreamEnable (src port stream value : Nat)
  | ispStreamDisable (src port stream value : Nat)
  | ispParamPush (src port handle stream : Nat)
  | ispParamCheckDone (port : Nat)
  | ispFrameDeliver (port stream : Nat)
  | ispEntryPut (port stream : Nat)
  /-- An edge of a port's frame sync, the bit clocks since the active one before, and the lines. -/
  | tdmFrameSync (port bitsSeen : Nat) (samples : TdmLines)
  | tdmRateMeasure (port hz : Nat)
  | spxStreamEnable (src stream value : Nat)
  | spxStreamDisable (src stream value : Nat)
  | featureFrameCompute (stream : Nat)
  | spxBufferPut (stream : Nat)
  | spxBudgetExpiry (stream : Nat)
  | vcdSessionOpen (src session value : Nat)
  | vcdSessionClose (src session value : Nat)
  | vcdPictureStart (session : Nat)
  | vcdPictureDone (session : Nat)
  | vcdPictureBudgetExpiry (session : Nat)
  | ethFrameReceive (port : Nat) (frame : EthFrame)
  | ethLinkLoss (port : Nat)
  | sessionOpen
  | sessionClose
  | keepalive
  | regRead
  | regWrite
  | queuePush
  | mailboxGet
  | commitGet
  | journalGet
  | modelAdmit
  | firmware
  | sessionTimeout (session : Nat)
  | hmpSessionCloseWrite (src session : Nat)
  | fwDone (src slot : Nat)
  | fwResponseTimeout (slot : Nat)
  | lastWordCopy (copy : Nat)
  | macsecKeyWrite (src addr value : Nat)
  | ethFrameTransmit (port : Nat)
  | qbvCommit (src port value : Nat)
  | qbvCycleBoundary (port : Nat)
  | cbRecoveryReset (port stream : Nat)
  | mdioAccess (src value : Nat)
  | mdioDone (data : Nat)
  | ptpTxGo (src slot : Nat)
  | ptpTxDone (slot : Nat)
  | timeSet (src ns : Nat)
  | timeStep (src step : Nat)
  | timeRateWrite (src increment : Nat)
  | timeKick (src : Nat)
  | timLock (src : Nat)
  | timHold (src : Nat)
  | timRelease (src : Nat)
  | syncTimeout
  | timeNowRead (src : Nat)
  | triggerArm (src trigger value : Nat)
  | triggerDisarm (src trigger value : Nat)
  | triggerFire (trigger : Nat)
  | triggerPulseEnd (trigger : Nat)
  | controlTimerArm (src timer value : Nat)
  | controlTimerFire (timer : Nat)
  | captureEdge (input : Nat) (rising : Bool)
  | capturePop (src input : Nat)
  | powerSample (rails : List RailSample)
  | controlIntervalEnd (estimates : List Nat)
  | activityLevelChange (array : Nat)
  | thermalSample (readings : List (Option Int))
  | powerModeWrite (src value : Nat)
  | powerCapWrite (src value : Nat)
  | phaseWrite (src phase value : Nat)
  | faultReport (source cls : Nat)
  | wireFault (source pair level : Nat)
  | levelFaultRereport (source cls : Nat)
  | quietPeriodExpiry (core : Option Nat)
  | recoveryPhaseComplete (core : Option Nat) (failed : List Nat)
  | fcuClearLatch (src value : Nat)
  | fcuCoreClear (src cores : Nat)
  | faultForce (src source cls : Nat)
  | faultInjectArm (src value : Nat)
  | wireTest (src value : Nat)
  | bootAttempt
  | bootBlockLoad
  | bootComplete
  | bootRetry
  | bootRestart (src : Nat)
  | controlCoreRelease (src cores : Nat)
  | rollbackAdvance (src value : Nat)
  | keyProgram (src slot : Nat)
  | revoke (src slots : Nat)
  | nvmLock (src : Nat)
  | nvmProgramDone (ok : Bool)
  | begin_
  | manifest
  | data
  | finish
  | abort
  | remove
  | admitTimeout (context : Nat)
  | attestGo (src value : Nat)
  | attestDone
  | registerWrite (src addr width value : Nat)
  | crcCommit (src : Nat)
  | crcPassEnd
  | irqSet (src : Nat)
  | mvpSatRowsRead (src core : Nat)
  | movOutstandingMaxRead (src core : Nat)
  | rationMaxHoldRead (src cls : Nat)
  | wbFillMaxRead (src port : Nat)
  | tempPeakRead (src : Nat)
  | busAccess (shift : Nat)
  | idcode
  | extest
  | samplePreload
  | bypass
  | debugPortReset
  | cmbWrite (addr reg : Nat) (data : List Nat)
  | cmbRead (addr reg : Nat)
  | railCheck (millivolts : List Nat)
  | ethLinkUp (port : Nat)
  | csiSkewCalibration (port : Nat) (initial : Bool)
  | csiClockLaneModeChange (port : Nat) (highSpeed : Bool)
  | bootHardwareInitComplete (failedCores : List Nat) (hubFailed : Bool)
  deriving DecidableEq, Repr

end Sys2Proof
end

