-- ==== Sys2Proof/Decode.lean ====
section
/-! DEFINITION. The decoder of table words. Commands reach the block as bus accesses, messages, events and pins, and the table gives none
of its rows any bits, so no word spells a command. -/

namespace Sys2Proof

/-- The command that a word spells by the table's bits [DESIGN CHOICE, log entry 12]. -/
def decodeTableWord (_nbits _w : Nat) : Option Instr := none

end Sys2Proof
end

