-- ==== Sys2Proof/Machine/Bits.lean ====
section
/-! DEFINITION. Bit fields, two's complement, little-endian byte lists and counters that wrap (R8). -/

namespace Sys2Proof.Machine

/-- Bits `[lo + len - 1 : lo]` of `x` (R8). -/
def bits (x lo len : Nat) : Nat := (x >>> lo) % 2 ^ len

/-- Bit `i` of `x`. -/
def bitAt (x i : Nat) : Bool := x.testBit i

/-- `x` with its bits `[lo + len - 1 : lo]` replaced by the low bits of `v`. -/
def putBits (x lo len v : Nat) : Nat :=
  x - (bits x lo len) * 2 ^ lo + (v % 2 ^ len) * 2 ^ lo

/-- The two's complement value of the low `w` bits of `x`. -/
def sext (w x : Nat) : Int :=
  let y := x % 2 ^ w
  if y < 2 ^ (w - 1) then (y : Int) else (y : Int) - 2 ^ w

/-- The low `w` bits of an integer in two's complement. -/
def wrapInt (w : Nat) (i : Int) : Nat := (i % (2 ^ w : Nat)).toNat

/-- `n` wrapped to `w` bits. -/
def wrap (w n : Nat) : Nat := n % 2 ^ w

/-- Quotient rounded upwards. -/
def ceilDiv (a b : Nat) : Nat := (a + b - 1) / b

/-- Little-endian value of a byte list (R8). -/
def leVal : List Byte → Nat
  | [] => 0
  | b :: bs => b.toNat + 256 * leVal bs

/-- The `n` little-endian bytes of `v` (R8). -/
def leBytes : Nat → Nat → List Byte
  | 0, _ => []
  | n + 1, v => BitVec.ofNat 8 v :: leBytes n (v / 256)

/-- Big-endian value of a byte list, as the wire carries it (R369). -/
def beVal (bs : List Byte) : Nat := bs.foldl (fun a b => a * 256 + b.toNat) 0

/-- The `n` big-endian bytes of `v`. -/
def beBytes (n v : Nat) : List Byte := (leBytes n v).reverse

/-- Slice of `len` elements from `off`. -/
def slice {α : Type} (l : List α) (off len : Nat) : List α := (l.drop off).take len

/-- Replaces element `i` of a list; a position past its end changes nothing. -/
def setAt {α : Type} (l : List α) (i : Nat) (x : α) : List α := l.set i x

/-- Applies `f` to element `i` of a list. -/
def modAt {α : Type} : List α → Nat → (α → α) → List α
  | [], _, _ => []
  | x :: xs, 0, f => f x :: xs
  | x :: xs, i + 1, f => x :: modAt xs i f

/-- The numbers `0 .. n - 1` for which `p` holds, ascending. -/
def whichBelow (n : Nat) (p : Nat → Bool) : List Nat := (List.range n).filter p

/-- `1` for true, `0` for false: the value a status bit reads. -/
def b2n (b : Bool) : Nat := if b then 1 else 0

/-- Modulo-2^32 order of R232: `a` is at or after `b`. -/
def atOrAfter32 (a b : Nat) : Bool := (a + 2 ^ 32 - b % 2 ^ 32) % 2 ^ 32 < 2 ^ 31

/-- Difference modulo 2^32. -/
def sub32 (a b : Nat) : Nat := (a + 2 ^ 32 - b % 2 ^ 32) % 2 ^ 32

/-- Clamp of an integer to a closed range. -/
def clampInt (lo hi x : Int) : Int := if x < lo then lo else if hi < x then hi else x

/-- Division rounded to nearest, ties away from zero (R8). -/
def divRound (a : Int) (b : Nat) : Int :=
  if a < 0 then -(((-a).toNat * 2 + b) / (2 * b) : Nat) else ((a.toNat * 2 + b) / (2 * b) : Nat)

end Sys2Proof.Machine
end

