-- ==== Sys2Proof/Machine/Hash.lean ====
section
/-! DEFINITION. The hash functions and the cyclic check that the spec names by standard: SHA-256 and SHA-512 (R302, R309, R452,
R467, R486) and CRC-32C (R311, R486). Their definitions are those of FIPS 180-4 and of the Castagnoli polynomial of R486. -/

namespace Sys2Proof.Machine

/-! ### CRC-32C (R486): polynomial 0x1EDC6F41 reflected, initial value and final XOR 0xFFFFFFFF -/

/-- One bit of the reflected division. -/
def crcBit (c : Nat) : Nat := if c % 2 = 1 then (c / 2) ^^^ 0x82F63B78 else c / 2

/-- One byte. -/
def crcByte (c : Nat) (b : Byte) : Nat :=
  crcBit (crcBit (crcBit (crcBit (crcBit (crcBit (crcBit (crcBit (c ^^^ b.toNat))))))))

/-- CRC-32C of a byte list. -/
def crc32c (bs : List Byte) : Nat := (bs.foldl crcByte 0xFFFFFFFF) ^^^ 0xFFFFFFFF

/-! ### SHA-2 (FIPS 180-4) -/

/-- The words of 64 bits of a number of `n` words, the most significant first. -/
def words64 (n v : Nat) : List Nat := (List.range n).map (fun i => v / 2 ^ (64 * (n - 1 - i)) % 2 ^ 64)

/-- The fractional parts of the cube roots of the first eighty primes, 64 bits each: ten primes a number. -/
def cubeRootBits : List Nat := [
  0x428a2f98d728ae227137449123ef65cdb5c0fbcfec4d3b2fe9b5dba58189dbbc3956c25bf348b53859f111f1b605d019923f82a4af194f9bab1c5ed5da6d8118d807aa98a303024212835b0145706fbe,
  0x243185be4ee4b28c550c7dc3d5ffb4e272be5d74f27b896f80deb1fe3b1696b19bdc06a725c71235c19bf174cf692694e49b69c19ef14ad2efbe4786384f25e30fc19dc68b8cd5b5240ca1cc77ac9c65,
  0x2de92c6f592b02754a7484aa6ea6e4835cb0a9dcbd41fbd476f988da831153b5983e5152ee66dfaba831c66d2db43210b00327c898fb213fbf597fc7beef0ee4c6e00bf33da88fc2d5a79147930aa725,
  0x06ca6351e003826f142929670a0e6e7027b70a8546d22ffc2e1b21385c26c9264d2c6dfc5ac42aed53380d139d95b3df650a73548baf63de766a0abb3c77b2a881c2c92e47edaee692722c851482353b,
  0xa2bfe8a14cf10364a81a664bbc423001c24b8b70d0f89791c76c51a30654be30d192e819d6ef5218d69906245565a910f40e35855771202a106aa07032bbd1b819a4c116b8d2d0c81e376c085141ab53,
  0x2748774cdf8eeb9934b0bcb5e19b48a8391c0cb3c5c95a634ed8aa4ae3418acb5b9cca4f7763e373682e6ff3d6b2b8a3748f82ee5defb2fc78a5636f43172f6084c87814a1f0ab728cc702081a6439ec,
  0x90befffa23631e28a4506cebde82bde9bef9a3f7b2c67915c67178f2e372532bca273eceea26619cd186b8c721c0c207eada7dd6cde0eb1ef57d4f7fee6ed17806f067aa72176fba0a637dc5a2c898a6,
  0x113f9804bef90dae1b710b35131c471b28db77f523047d8432caab7b40c724933c9ebe0a15c9bebc431d67c49c100d4c4cc5d4becb3e42b6597f299cfc657e2a5fcb6fab3ad6faec6c44198c4a475817]

/-- The fractional parts of the square roots of the first eight primes, 64 bits each. -/
def squareRootBits : Nat := 0x6a09e667f3bcc908bb67ae8584caa73b3c6ef372fe94f82ba54ff53a5f1d36f1510e527fade682d19b05688c2b3e6c1f1f83d9abfb41bd6b5be0cd19137e2179

/-- Round constants and initial value of SHA-512. -/
def sha512K : List Nat := cubeRootBits.flatMap (words64 10)
def sha512H : List Nat := words64 8 squareRootBits

/-- Those of SHA-256: the upper 32 bits of the first sixty-four, and of the eight. -/
def sha256K : List Nat := (sha512K.take 64).map (· / 2 ^ 32)
def sha256H : List Nat := sha512H.map (· / 2 ^ 32)

/-- Rotation right in a word of `w` bits. -/
def rotr (w n x : Nat) : Nat := (x >>> n) ||| ((x <<< (w - n)) % 2 ^ w)

/-- The parameters of one SHA-2 function: word bits, rounds' constants, and the rotation amounts of its four sigmas. -/
structure Sha where
  w : Nat
  k : List Nat
  h : List Nat
  bigA : List Nat
  bigE : List Nat
  smallA : List Nat
  smallE : List Nat

def sha256P : Sha := ⟨32, sha256K, sha256H, [2, 13, 22], [6, 11, 25], [7, 18, 3], [17, 19, 10]⟩
def sha512P : Sha := ⟨64, sha512K, sha512H, [28, 34, 39], [14, 18, 41], [1, 8, 7], [19, 61, 6]⟩

/-- A sigma of three rotations. -/
def Sha.big (p : Sha) (r : List Nat) (x : Nat) : Nat :=
  rotr p.w (r.getD 0 0) x ^^^ rotr p.w (r.getD 1 0) x ^^^ rotr p.w (r.getD 2 0) x

/-- A sigma of two rotations and a shift. -/
def Sha.small (p : Sha) (r : List Nat) (x : Nat) : Nat :=
  rotr p.w (r.getD 0 0) x ^^^ rotr p.w (r.getD 1 0) x ^^^ (x >>> r.getD 2 0)

/-- The message schedule, last sixteen words first: `n` words more. -/
def Sha.extend (p : Sha) : Nat → List Nat → List Nat
  | 0, l => l
  | n + 1, l =>
    p.extend n (((p.small p.smallE (l.getD 1 0) + l.getD 6 0 + p.small p.smallA (l.getD 14 0) + l.getD 15 0) % 2 ^ p.w) :: l)

/-- One round on the eight working variables a to h. -/
def Sha.round (p : Sha) (v : List Nat) (kw : Nat × Nat) : List Nat :=
  let a := v.getD 0 0
  let b := v.getD 1 0
  let c := v.getD 2 0
  let d := v.getD 3 0
  let e := v.getD 4 0
  let f := v.getD 5 0
  let g := v.getD 6 0
  let h := v.getD 7 0
  let ch := (e &&& f) ^^^ ((2 ^ p.w - 1 - e) &&& g)
  let mj := (a &&& b) ^^^ (a &&& c) ^^^ (b &&& c)
  let t1 := h + p.big p.bigE e + ch + kw.1 + kw.2
  [(t1 + p.big p.bigA a + mj) % 2 ^ p.w, a, b, c, (d + t1) % 2 ^ p.w, e, f, g]

/-- One block of sixteen big-endian words. -/
def Sha.block (p : Sha) (h : List Nat) (ws : List Nat) : List Nat :=
  let sched := (p.extend (p.k.length - 16) ws.reverse).reverse
  let v := (p.k.zip sched).foldl p.round h
  (h.zip v).map (fun x => (x.1 + x.2) % 2 ^ p.w)

/-- The big-endian words of a byte list. -/
def beWords (n : Nat) : Nat → List Byte → List Nat
  | 0, _ => []
  | k + 1, bs => beVal (bs.take n) :: beWords n k (bs.drop n)

/-- The blocks of a padded message. -/
def Sha.blocks (p : Sha) : Nat → List Byte → List Nat → List Nat
  | 0, _, h => h
  | k + 1, bs, h => p.blocks k (bs.drop (2 * p.w)) (p.block h (beWords (p.w / 8) 16 (bs.take (2 * p.w))))

/-- The padded message: 1 bit, zeros, and the bit length in the last two words. -/
def Sha.pad (p : Sha) (bs : List Byte) : List Byte :=
  let blk := 2 * p.w
  let n := bs.length + 1 + p.w / 4
  bs ++ [0x80] ++ List.replicate ((blk - n % blk) % blk) 0 ++ beBytes (p.w / 4) (8 * bs.length)

/-- The digest as bytes. -/
def Sha.hash (p : Sha) (bs : List Byte) : List Byte :=
  let m := p.pad bs
  (p.blocks (m.length / (2 * p.w)) m p.h).flatMap (beBytes (p.w / 8))

/-- SHA-256 digest: 32 bytes. -/
def sha256 (bs : List Byte) : List Byte := sha256P.hash bs

/-- SHA-512 digest: 64 bytes. -/
def sha512 (bs : List Byte) : List Byte := sha512P.hash bs

end Sys2Proof.Machine
end

