-- ==== Sys2Proof/Config.lean ====
section
/-! DEFINITION. Values the spec leaves to the implementation or to a named standard whose arithmetic it does not give, as
constants without a body: nothing can be proved about a value of theirs, so a statement holds whatever it is. -/

namespace Sys2Proof.Config

/-- A value the spec leaves open, `w` bits wide: the `n`-th one the machine draws (State.freeIndex; log entry 5). -/
opaque freeValue (w : Nat) : Nat → BitVec w

/-- A value the spec leaves open that depends on the numbers given and on nothing else, so that what a caravan writes repeats when its
inputs do (R65; log entry 83). -/
opaque freeOf : List Nat → BitVec 64

/-- Cycles of a VEC or QNT descriptor's own run at which it captures its first link word and issues its first one, by FUNC for VEC
(R114 and R194 do not give them) [DESIGN CHOICE, log entry 37]. -/
opaque vecCapture : Nat → Nat
opaque vecIssue : Nat → Nat
opaque qntCapture : Nat
opaque qntIssue : Nat

/-- Sample `i` of a CSI-2 RAW line of `n`-bit samples, whose packing the MIPI standard gives (R319) [DESIGN CHOICE, log entry 49]. -/
opaque csiSample : Nat → List Byte → Nat → Nat

/-- R, G and B of a pixel by the gradient-directed interpolation over its 5 × 5 window (R324), from the CFA code, the parities of row and
column, and the window's samples row by row, none where it leaves the frame [DESIGN CHOICE, log entry 49]. -/
opaque demosaic : Nat → Nat → Nat → List (Option Nat) → Nat × (Nat × Nat)

/-- SPX's ROM of 1,024 segments (R345): by segment, the constant, linear and quadratic coefficient in units of 2^-64; and what it gives for
an argument that is no finite number, as mantissa and exponent of 2 [DESIGN CHOICE, log entry 49]. -/
opaque romLogCoef : BitVec 10 → Int × Int × Int
opaque romLog2 : Nat → Int × Int

/-- What decoding an access unit gives under ITU-T H.265 (R348, R352, R354): whether its slice header was parsed and whether an error
was met, the SPS it activates, if any (profile, tier, level, chroma format, luma and chroma depth, width, height, DPB size), whether
it is IRAP, the pictures it references, the cropped size, bit depth, POC, and the sample planes. -/
structure HevcPicture where
  parsed : Bool
  broken : Bool
  sps : List Nat
  irap : Bool
  refs : List Nat
  w : Nat
  h : Nat
  depth : Nat
  poc : Int
  y : List Nat
  cb : List Nat
  cr : List Nat
  deriving DecidableEq, Repr, Inhabited

/-- The last of a sequence of access units as decoded after the others [DESIGN CHOICE, log entry 49]. -/
opaque hevcDecode : List (List Byte) → HevcPicture

/-- The pictures, by access unit number, that the HEVC output process outputs once the last of a sequence of access units is in, in order;
with true, every one that it has output or outputs if the sequence ends there [DESIGN CHOICE, log entry 49]. -/
opaque hevcOutput : Bool → List (List Byte) → List Nat

/-- How a picture is coded: at a constant quantiser, or to a target of bits (numerator and denominator) with a virtual buffer of a size
(R350, R356). -/
inductive HevcRate where
  | cqp (qp : Nat)
  | cbr (bits per size : Nat)
  deriving DecidableEq, Repr

/-- A picture as coded: the payload of its slice, the picture that a decoder gets, and where the rate control then stands. -/
structure HevcCoded where
  slice : List Byte
  picture : List Byte
  rate : Nat
  deriving DecidableEq, Repr, Inhabited

/-- The one slice of a picture, from the parameter block, the rate, the reference picture, the rate control's state and the image (R348,
R356); the payloads of VPS, PPS and of an SPS after its level; the tier, the profile compatibility and constraint flags, and whether an
IDR picture is of type IDR_N_LP [DESIGN CHOICE, log entry 49]. -/
opaque hevcSlice (param : List Byte) (rate : HevcRate) (ref : Option (List Byte)) (rc : Nat) (im : List Byte) : HevcCoded
opaque hevcVps : List Byte → List Byte
opaque hevcPps : List Byte → List Byte
opaque hevcSpsRest : List Byte → List Byte
opaque hevcHighTier : Bool
opaque hevcCompat : BitVec 80
opaque hevcIdrNlp : Bool

/-- The quantised coefficients in zigzag order of a block of samples, by rows, under a quantisation table: R357's integer DCT, which it does
not give. JFIF's units and densities [DESIGN CHOICE, log entry 49]. -/
opaque jpegDct : List (List Nat) → List Byte → List Int
opaque jfifDensity : BitVec 40

/-- POC of a HEVC-encoded picture by its distance from the latest IDR (R355, R356 do not give it) [DESIGN CHOICE, log entry 49]. -/
opaque hevcPoc : Nat → Int

/-- The 32 bytes of a firmware ring's record (R386 gives its contents and no layout), from session, port, source MAC, VID, UDP partner as
over IPv6, address and port, and PTP seconds and nanoseconds of arrival [DESIGN CHOICE, log entry 60]. -/
opaque fwRecord (session port mac vid : Nat) (udp : Option (Bool × (Nat × Nat))) (sec ns : Nat) : BitVec 256

/-- Ed25519 and ML-DSA-65 verification of a signature under a public key over a message (R453) [DESIGN CHOICE, log entry 49]. -/
opaque edVerify (key sig msg : List Byte) : Bool
opaque mlVerify (key sig msg : List Byte) : Bool

/-- The attestation keys' public halves, as bytes of SEC_ATTEST_PK, and the two signatures of a report, of 64 and 3,309 bytes (R467)
[DESIGN CHOICE, log entry 49]. -/
opaque attestKey : List Byte
opaque edSign (msg : List Byte) : List Byte
opaque mlSign (msg : List Byte) : List Byte

/-- Length in bits of the debug port's boundary register (R504) [PRESUMED, log entry 73]. -/
opaque boundaryBits : Nat

end Sys2Proof.Config
end

