-- ==== Sys2Proof/Machine/Flags.lean ====
section
/-! DEFINITION. The status codes every block reports with, which of them deliver signals, and their order (R241, R242). -/

namespace Sys2Proof.Machine

/-- Status codes of R241. -/
def stOK : Nat := 0x00
def stVoidInput : Nat := 0x01
def stBudgetExpired : Nat := 0x02
def stContainedFault : Nat := 0x03
def stKilled : Nat := 0x04
def stBoundViolation : Nat := 0x05
def stTimingSkew : Nat := 0x06
def stSat : Nat := 0x07
def stPartFailed : Nat := 0x08
def stLimitReject : Nat := 0x09
def stFlushed : Nat := 0x0A
def stQueueFull : Nat := 0x0B
def stNotReady : Nat := 0x0C
def stBusError : Nat := 0x0D
def stZeroing : Nat := 0x0E
def stWireFault : Nat := 0x0F

/-- Statuses whose descriptors deliver their signals (R241). -/
def delivers (st : Nat) : Bool := st == stOK || st == stVoidInput || st == stBudgetExpired || st == stSat

/-- Rank of a status in the order of R242, first is 0. -/
def statusRank (st : Nat) : Nat :=
  ([stFlushed, stKilled, stBoundViolation, stTimingSkew, stContainedFault, stLimitReject, stBudgetExpired, stVoidInput,
    stSat, stOK].idxOf st)

/-- The first of two statuses in the order of R242. -/
def worse (a b : Nat) : Nat := if statusRank a ≤ statusRank b then a else b

end Sys2Proof.Machine
end

