-- ==== Sys2Proof/Machine/FaultTable.lean ====
section
/-! DEFINITION. The fault sources of R431: classes, reset reaction, escalation and level of every source ID. -/

namespace Sys2Proof.Machine

/-- Class codes of R430. -/
def clsC : Nat := 1
def clsU : Nat := 2
def clsF : Nat := 3

/-- Reactions of FCU_REACT_id.U_ACT (R449). -/
def actRelease : Nat := 0
def actReset : Nat := 1
def actCoreRecover : Nat := 2
def actFold : Nat := 3

/-- One row of R431: classes (bit 0 C, bit 1 U, bit 2 F), U_ACT and ESCALATE at reset, LEVEL. -/
structure SrcInfo where
  classes : Nat
  uAct : Nat
  escalate : Bool
  level : Bool
  deriving DecidableEq, Repr

/-- The sources within a core, by their offset from 0x100 + 0x40 × c (R431). -/
def coreSrcInfo (o : Nat) : Option SrcInfo :=
  if o = 0x00 ∨ o = 0x08 then some ⟨2, actReset, true, false⟩
  else if o = 0x01 ∨ o = 0x09 then some ⟨3, actReset, true, false⟩
  else if o = 0x02 ∨ o = 0x0A then some ⟨2, actReset, false, false⟩
  else if 0x10 ≤ o ∧ o ≤ 0x16 then some ⟨2, actReset, false, false⟩
  else if 0x18 ≤ o ∧ o ≤ 0x1A then some ⟨3, actReset, true, false⟩
  else if o = 0x1B then some ⟨2, actCoreRecover, true, false⟩
  else none

/-- The sources within a compute die, by their offset from 0x300 + 0x10 × k (R431). -/
def dieSrcInfo (o : Nat) : Option SrcInfo :=
  if o = 0 then some ⟨3, actReset, true, false⟩
  else if o = 1 then some ⟨4, actRelease, true, false⟩
  else if o = 2 then some ⟨1, actRelease, false, false⟩
  else if o = 3 then some ⟨5, actRelease, true, false⟩
  else none

/-- The row of R431 for a source ID; `none` for an unimplemented ID. A source without a class U report of its own reads
U_ACT RELEASE from reset. -/
def srcInfo (id : Nat) : Option SrcInfo :=
  if id = 0x001 then some ⟨2, actReset, false, false⟩
  else if id = 0x002 then some ⟨2, actReset, false, false⟩
  else if id = 0x003 then some ⟨2, actRelease, false, false⟩
  else if id = 0x004 then some ⟨6, actFold, true, false⟩
  else if id = 0x008 then some ⟨5, actRelease, true, false⟩
  else if 0x010 ≤ id ∧ id ≤ 0x019 then some ⟨3, actRelease, true, false⟩
  else if 0x020 ≤ id ∧ id ≤ 0x022 then some ⟨3, actRelease, true, false⟩
  else if id = 0x030 then some ⟨4, actRelease, true, true⟩
  else if id = 0x031 then some ⟨5, actRelease, false, true⟩
  else if id = 0x032 then some ⟨5, actRelease, false, true⟩
  else if id = 0x033 then some ⟨4, actRelease, true, true⟩
  else if 0x038 ≤ id ∧ id ≤ 0x03F then some ⟨3, actFold, true, false⟩
  else if id = 0x040 then some ⟨3, actFold, true, false⟩
  else if id = 0x041 then some ⟨6, actFold, true, false⟩
  else if id = 0x042 then some ⟨2, actRelease, false, false⟩
  else if id = 0x043 then some ⟨4, actRelease, true, true⟩
  else if 0x100 ≤ id ∧ id < 0x300 then coreSrcInfo ((id - 0x100) % 0x40)
  else if 0x300 ≤ id ∧ id < 0x320 then dieSrcInfo ((id - 0x300) % 0x10)
  else if 0x320 ≤ id ∧ id ≤ 0x322 then some ⟨5, actRelease, true, false⟩
  else none

/-- Whether a source raises reports of a class (1 C, 2 U, 3 F). -/
def srcRaises (id cls : Nat) : Bool :=
  match srcInfo id with
  | some i => decide (1 ≤ cls) && i.classes.testBit (cls - 1)
  | none => false

/-- Reset word of FCU_REACT_id (R431, R449): WIRE_F_FOLD 1, IRQ_C 0, IRQ_U 1. -/
def reactReset (id : Nat) : Nat :=
  match srcInfo id with
  | some i => i.uAct + 4 * b2n i.escalate + 8 + 32 + 0x100 * i.classes + 0x800 * b2n i.level
  | none => 0

/-- Sources that FCU_INJECT can arm (R510). -/
def srcHasCheckBits (id : Nat) : Bool :=
  (0x010 ≤ id && id ≤ 0x019) || (0x020 ≤ id && id ≤ 0x022) || (0x038 ≤ id && id ≤ 0x040) ||
  (0x100 ≤ id && id < 0x300 && [0x00, 0x01, 0x08, 0x09].contains ((id - 0x100) % 0x40)) ||
  (0x300 ≤ id && id < 0x320 && [0, 2].contains ((id - 0x300) % 0x10)) || (0x320 ≤ id && id ≤ 0x322)

/-- First source ID of core `c` (R431). -/
def coreSrc (c off : Nat) : Nat := 0x100 + 0x40 * c + off

/-- First source ID of compute die `k` (R431). -/
def dieSrc (k off : Nat) : Nat := 0x300 + 0x10 * k + off

/-- The core of a core source, `none` for a source outside every core. -/
def srcCore (id : Nat) : Option Nat := if 0x100 ≤ id ∧ id < 0x300 then some ((id - 0x100) / 0x40) else none

/-- Sources inside the domain of a fold (R439): compute dies with their cores, bonded DRAM, links, and the hub's Drover,
tally, waystation and mailbox units, hub fabric, CSI, ISP, SPX and VCD. -/
def srcInFoldDomain (id : Nat) : Bool :=
  (1 ≤ id && id ≤ 0x019) || (0x100 ≤ id && id ≤ 0x322)

end Sys2Proof.Machine
end

