-- ==== Sys2Proof/Machine/Fields.lean ====
section
/-! DEFINITION. Every register of the address map (R471 to R474 and the register maps of the blocks' chapters): its first
address, the strides of its indices and its reset word, and every field's place. A fused field (R6, R98, R128, R455, R470,
R490) has reset bits 0 here; its value comes from State.fuses and State.nvm when it is read. -/

namespace Sys2Proof.Machine

/-- One register of the map: the address of its first copy, the strides of up to four indices, and the reset word, which
the first index may select (the third index of a per-core register is never selected on). -/
structure Reg where
  base : Nat
  s1 : Nat
  s2 : Nat
  s3 : Nat
  s4 : Nat
  rst : Nat → Word

/-- A field of a register: its lowest bit and its width. -/
structure Field where
  reg : Reg
  lo : Nat
  len : Nat

/-- Address of one copy of a register. -/
def Reg.addr (r : Reg) (i j k l : Nat) : Nat := r.base + r.s1 * i + r.s2 * j + r.s3 * k + r.s4 * l

/-- Reset budget of ration class `c` (R278): the class table's budgets in transactions. -/
def rationResetBudget (c : Nat) : Nat :=
  if c ≤ 7 then 20000 else if c = 12 then 800 else if c = 13 then 16 else if c = 14 then 128 else 400

/-- SYS_ID (R490). -/
def SYS_ID : Reg := ⟨0x10000000000, 0x0, 0x0, 0x0, 0x0, fun _ => 0x4160⟩
def SYS_ID_PART : Field := ⟨SYS_ID, 0, 16⟩
def SYS_ID_ARRAYS : Field := ⟨SYS_ID, 16, 5⟩
def SYS_ID_STEPPING : Field := ⟨SYS_ID, 24, 8⟩
/-- SYS_UPTIME_US (R490). -/
def SYS_UPTIME_US : Reg := ⟨0x10000000008, 0x0, 0x0, 0x0, 0x0, fun _ => 0x0⟩
def SYS_UPTIME_US_UPTIME_US : Field := ⟨SYS_UPTIME_US, 0, 64⟩
/-- SYS_BUS_ERRORS (R490). -/
def SYS_BUS_ERRORS : Reg := ⟨0x10000000010, 0x0, 0x0, 0x0, 0x0, fun _ => 0x0⟩
def SYS_BUS_ERRORS_COUNT : Field := ⟨SYS_BUS_ERRORS, 0, 32⟩
/-- SYS_BUS_ERR_LAST (R490). -/
def SYS_BUS_ERR_LAST : Reg := ⟨0x10000000018, 0x0, 0x0, 0x0, 0x0, fun _ => 0x0⟩
def SYS_BUS_ERR_LAST_ADDRESS : Field := ⟨SYS_BUS_ERR_LAST, 0, 48⟩
def SYS_BUS_ERR_LAST_STATUS : Field := ⟨SYS_BUS_ERR_LAST, 48, 8⟩
def SYS_BUS_ERR_LAST_SOURCE : Field := ⟨SYS_BUS_ERR_LAST, 56, 4⟩
def SYS_BUS_ERR_LAST_WRITE : Field := ⟨SYS_BUS_ERR_LAST, 60, 1⟩
def SYS_BUS_ERR_LAST_VALID : Field := ⟨SYS_BUS_ERR_LAST, 63, 1⟩
/-- SYS_IRQ_PENDING (R491). -/
def SYS_IRQ_PENDING : Reg := ⟨0x10000000020, 0x0, 0x0, 0x0, 0x0, fun _ => 0x0⟩
def SYS_IRQ_PENDING_QM_NOTIFY : Field := ⟨SYS_IRQ_PENDING, 0, 1⟩
def SYS_IRQ_PENDING_HMP_FW : Field := ⟨SYS_IRQ_PENDING, 1, 1⟩
def SYS_IRQ_PENDING_PTP_RX : Field := ⟨SYS_IRQ_PENDING, 2, 1⟩
def SYS_IRQ_PENDING_MACSEC : Field := ⟨SYS_IRQ_PENDING, 3, 1⟩
def SYS_IRQ_PENDING_POWER : Field := ⟨SYS_IRQ_PENDING, 4, 1⟩
def SYS_IRQ_PENDING_FAULT : Field := ⟨SYS_IRQ_PENDING, 5, 1⟩
def SYS_IRQ_PENDING_ADMIT : Field := ⟨SYS_IRQ_PENDING, 6, 1⟩
def SYS_IRQ_PENDING_SOFT : Field := ⟨SYS_IRQ_PENDING, 7, 1⟩
/-- SYS_IRQ_SET (R491). -/
def SYS_IRQ_SET : Reg := ⟨0x10000000028, 0x0, 0x0, 0x0, 0x0, fun _ => 0x0⟩
def SYS_IRQ_SET_SOFT : Field := ⟨SYS_IRQ_SET, 0, 1⟩
/-- SYS_IRQ_ENABLE_k (R491). -/
def SYS_IRQ_ENABLE_k : Reg := ⟨0x10000000030, 0x8, 0x0, 0x0, 0x0, fun k => if k = 0 then 0x20 else 0⟩
def SYS_IRQ_ENABLE_k_ENABLE : Field := ⟨SYS_IRQ_ENABLE_k, 0, 8⟩
/-- SYS_RATION_STATUS (R286). -/
def SYS_RATION_STATUS : Reg := ⟨0x10000004000, 0x0, 0x0, 0x0, 0x0, fun _ => 0x0⟩
def SYS_RATION_STATUS_EXHAUSTED : Field := ⟨SYS_RATION_STATUS, 0, 16⟩
def SYS_RATION_STATUS_EXHAUSTED_SEEN : Field := ⟨SYS_RATION_STATUS, 16, 16⟩
/-- SYS_RATION_PERIODS (R286). -/
def SYS_RATION_PERIODS : Reg := ⟨0x10000004008, 0x0, 0x0, 0x0, 0x0, fun _ => 0x0⟩
def SYS_RATION_PERIODS_COUNT : Field := ⟨SYS_RATION_PERIODS, 0, 64⟩
/-- SYS_RATION_LEND (R286). -/
def SYS_RATION_LEND : Reg := ⟨0x10000004010, 0x0, 0x0, 0x0, 0x0, fun _ => 0x0⟩
def SYS_RATION_LEND_LENDERS : Field := ⟨SYS_RATION_LEND, 0, 16⟩
def SYS_RATION_LEND_BORROWERS : Field := ⟨SYS_RATION_LEND, 16, 16⟩
/-- SYS_RATION_c_CFG (R286). -/
def SYS_RATION_c_CFG : Reg := ⟨0x10000004100, 0x20, 0x0, 0x0, 0x0, fun c => BitVec.ofNat 64 (rationResetBudget c)⟩
def SYS_RATION_c_CFG_BUDGET_TX : Field := ⟨SYS_RATION_c_CFG, 0, 20⟩
def SYS_RATION_c_CFG_RESERVE_TX : Field := ⟨SYS_RATION_c_CFG, 20, 20⟩
/-- SYS_RATION_c_USED (R286). -/
def SYS_RATION_c_USED : Reg := ⟨0x10000004108, 0x20, 0x0, 0x0, 0x0, fun _ => 0x0⟩
def SYS_RATION_c_USED_USED_TX : Field := ⟨SYS_RATION_c_USED, 0, 20⟩
def SYS_RATION_c_USED_LAST_TX : Field := ⟨SYS_RATION_c_USED, 20, 20⟩
def SYS_RATION_c_USED_BORROWED_TX : Field := ⟨SYS_RATION_c_USED, 40, 20⟩
/-- SYS_RATION_c_WAITS (R286). -/
def SYS_RATION_c_WAITS : Reg := ⟨0x10000004110, 0x20, 0x0, 0x0, 0x0, fun _ => 0x0⟩
def SYS_RATION_c_WAITS_COUNT : Field := ⟨SYS_RATION_c_WAITS, 0, 32⟩
/-- SYS_RATION_c_MAX_HOLD_NS (R286). -/
def SYS_RATION_c_MAX_HOLD_NS : Reg := ⟨0x10000004118, 0x20, 0x0, 0x0, 0x0, fun _ => 0x0⟩
def SYS_RATION_c_MAX_HOLD_NS_HOLD_NS : Field := ⟨SYS_RATION_c_MAX_HOLD_NS, 0, 32⟩
/-- SYS_WCk_CTRL (R287). -/
def SYS_WCk_CTRL : Reg := ⟨0x10000005000, 0x100, 0x0, 0x0, 0x0, fun _ => 0x1⟩
def SYS_WCk_CTRL_ENABLE : Field := ⟨SYS_WCk_CTRL, 0, 1⟩
def SYS_WCk_CTRL_INVALIDATE : Field := ⟨SYS_WCk_CTRL, 1, 1⟩
def SYS_WCk_CTRL_INVALIDATING : Field := ⟨SYS_WCk_CTRL, 2, 1⟩
def SYS_WCk_CTRL_ECC_SEEN : Field := ⟨SYS_WCk_CTRL, 3, 1⟩
/-- SYS_WCk_LOOKUPS (R287). -/
def SYS_WCk_LOOKUPS : Reg := ⟨0x10000005008, 0x100, 0x0, 0x0, 0x0, fun _ => 0x0⟩
def SYS_WCk_LOOKUPS_COUNT : Field := ⟨SYS_WCk_LOOKUPS, 0, 64⟩
/-- SYS_WCk_HITS (R287). -/
def SYS_WCk_HITS : Reg := ⟨0x10000005010, 0x100, 0x0, 0x0, 0x0, fun _ => 0x0⟩
def SYS_WCk_HITS_COUNT : Field := ⟨SYS_WCk_HITS, 0, 64⟩
/-- SYS_WCk_MERGED (R287). -/
def SYS_WCk_MERGED : Reg := ⟨0x10000005018, 0x100, 0x0, 0x0, 0x0, fun _ => 0x0⟩
def SYS_WCk_MERGED_COUNT : Field := ⟨SYS_WCk_MERGED, 0, 64⟩
/-- SYS_WCk_MISSES (R287). -/
def SYS_WCk_MISSES : Reg := ⟨0x10000005020, 0x100, 0x0, 0x0, 0x0, fun _ => 0x0⟩
def SYS_WCk_MISSES_COUNT : Field := ⟨SYS_WCk_MISSES, 0, 64⟩
/-- SYS_WCk_EVICTIONS (R287). -/
def SYS_WCk_EVICTIONS : Reg := ⟨0x10000005028, 0x100, 0x0, 0x0, 0x0, fun _ => 0x0⟩
def SYS_WCk_EVICTIONS_COUNT : Field := ⟨SYS_WCk_EVICTIONS, 0, 64⟩
/-- SYS_WCk_INVALIDATIONS (R287). -/
def SYS_WCk_INVALIDATIONS : Reg := ⟨0x10000005030, 0x100, 0x0, 0x0, 0x0, fun _ => 0x0⟩
def SYS_WCk_INVALIDATIONS_COUNT : Field := ⟨SYS_WCk_INVALIDATIONS, 0, 64⟩
/-- SYS_WCk_ECC_CORR (R287). -/
def SYS_WCk_ECC_CORR : Reg := ⟨0x10000005038, 0x100, 0x0, 0x0, 0x0, fun _ => 0x0⟩
def SYS_WCk_ECC_CORR_COUNT : Field := ⟨SYS_WCk_ECC_CORR, 0, 32⟩
/-- SYS_WCk_ECC_REFETCH (R287). -/
def SYS_WCk_ECC_REFETCH : Reg := ⟨0x10000005040, 0x100, 0x0, 0x0, 0x0, fun _ => 0x0⟩
def SYS_WCk_ECC_REFETCH_COUNT : Field := ⟨SYS_WCk_ECC_REFETCH, 0, 32⟩
/-- SYS_CORE_RELEASE (R468). -/
def SYS_CORE_RELEASE : Reg := ⟨0x10000006000, 0x0, 0x0, 0x0, 0x0, fun _ => 0x0⟩
def SYS_CORE_RELEASE_RELEASE : Field := ⟨SYS_CORE_RELEASE, 0, 8⟩
def SYS_CORE_RELEASE_RELEASED : Field := ⟨SYS_CORE_RELEASE, 8, 8⟩
/-- SYS_CORE_START_k (R468). -/
def SYS_CORE_START_k : Reg := ⟨0x10000006108, 0x8, 0x0, 0x0, 0x0, fun _ => 0x0⟩
def SYS_CORE_START_k_OFFSET : Field := ⟨SYS_CORE_START_k, 0, 18⟩
/-- CLK_STATUS (R31). -/
def CLK_STATUS : Reg := ⟨0x10000100000, 0x0, 0x0, 0x0, 0x0, fun _ => 0x0⟩
def CLK_STATUS_PLL_LOCK : Field := ⟨CLK_STATUS, 0, 1⟩
def CLK_STATUS_REF_PRESENT : Field := ⟨CLK_STATUS, 1, 1⟩
def CLK_STATUS_LOCK_LOST : Field := ⟨CLK_STATUS, 2, 1⟩
def CLK_STATUS_REF_LOST : Field := ⟨CLK_STATUS, 3, 1⟩
def CLK_STATUS_LOCK_TIME_US : Field := ⟨CLK_STATUS, 16, 16⟩
/-- CLK_CORE_STEP (R31). -/
def CLK_CORE_STEP : Reg := ⟨0x10000100008, 0x0, 0x0, 0x0, 0x0, fun _ => 0x0⟩
def CLK_CORE_STEP_STEP : Field := ⟨CLK_CORE_STEP, 0, 16⟩
/-- CLK_STEP_CHANGES (R31). -/
def CLK_STEP_CHANGES : Reg := ⟨0x10000100010, 0x0, 0x0, 0x0, 0x0, fun _ => 0x0⟩
def CLK_STEP_CHANGES_COUNT : Field := ⟨CLK_STEP_CHANGES, 0, 32⟩
/-- CFG_JOURNAL_NEXT (R492). -/
def CFG_JOURNAL_NEXT : Reg := ⟨0x10000200000, 0x0, 0x0, 0x0, 0x0, fun _ => 0x0⟩
def CFG_JOURNAL_NEXT_INDEX : Field := ⟨CFG_JOURNAL_NEXT, 0, 32⟩
/-- CFG_CRC_CTRL (R492). -/
def CFG_CRC_CTRL : Reg := ⟨0x10000200008, 0x0, 0x0, 0x0, 0x0, fun _ => 0x1⟩
def CFG_CRC_CTRL_CHECK_EN : Field := ⟨CFG_CRC_CTRL, 0, 1⟩
/-- CFG_CRC_COMMIT (R492). -/
def CFG_CRC_COMMIT : Reg := ⟨0x10000200010, 0x0, 0x0, 0x0, 0x0, fun _ => 0x0⟩
def CFG_CRC_COMMIT_COMMIT : Field := ⟨CFG_CRC_COMMIT, 0, 1⟩
/-- CFG_CRC_STATUS (R492). -/
def CFG_CRC_STATUS : Reg := ⟨0x10000200018, 0x0, 0x0, 0x0, 0x0, fun _ => 0x0⟩
def CFG_CRC_STATUS_REF_VALID : Field := ⟨CFG_CRC_STATUS, 0, 1⟩
def CFG_CRC_STATUS_COMMIT_PENDING : Field := ⟨CFG_CRC_STATUS, 1, 1⟩
def CFG_CRC_STATUS_MISMATCH : Field := ⟨CFG_CRC_STATUS, 2, 1⟩
def CFG_CRC_STATUS_MISMATCH_SEEN : Field := ⟨CFG_CRC_STATUS, 3, 1⟩
/-- CFG_CRC_REF (R492). -/
def CFG_CRC_REF : Reg := ⟨0x10000200020, 0x0, 0x0, 0x0, 0x0, fun _ => 0x0⟩
def CFG_CRC_REF_CRC : Field := ⟨CFG_CRC_REF, 0, 32⟩
/-- CFG_CRC_LAST (R492). -/
def CFG_CRC_LAST : Reg := ⟨0x10000200028, 0x0, 0x0, 0x0, 0x0, fun _ => 0x0⟩
def CFG_CRC_LAST_CRC : Field := ⟨CFG_CRC_LAST, 0, 32⟩
/-- CFG_CRC_PASSES (R492). -/
def CFG_CRC_PASSES : Reg := ⟨0x10000200030, 0x0, 0x0, 0x0, 0x0, fun _ => 0x0⟩
def CFG_CRC_PASSES_CLEAN : Field := ⟨CFG_CRC_PASSES, 0, 32⟩
def CFG_CRC_PASSES_DISCARDED : Field := ⟨CFG_CRC_PASSES, 32, 32⟩
/-- CFG_CRC_COVERED (R492). -/
def CFG_CRC_COVERED : Reg := ⟨0x10000200038, 0x0, 0x0, 0x0, 0x0, fun _ => 0x0⟩
def CFG_CRC_COVERED_REGISTERS : Field := ⟨CFG_CRC_COVERED, 0, 20⟩
/-- CFG_CRC_PASS_US (R492). -/
def CFG_CRC_PASS_US : Reg := ⟨0x10000200040, 0x0, 0x0, 0x0, 0x0, fun _ => 0x0⟩
def CFG_CRC_PASS_US_PASS_US : Field := ⟨CFG_CRC_PASS_US, 0, 32⟩
/-- CFG_JOURNAL_e_Ww (R492). -/
def CFG_JOURNAL_e_Ww : Reg := ⟨0x10000210000, 0x20, 0x8, 0x0, 0x0, fun _ => 0x0⟩
def CFG_JOURNAL_e_Ww_DATA : Field := ⟨CFG_JOURNAL_e_Ww, 0, 64⟩
/-- FCU_CTRL (R449). -/
def FCU_CTRL : Reg := ⟨0x10000300000, 0x0, 0x0, 0x0, 0x0, fun _ => 0x640000⟩
def FCU_CTRL_TEST : Field := ⟨FCU_CTRL, 0, 1⟩
def FCU_CTRL_CLEAR_LATCH : Field := ⟨FCU_CTRL, 1, 1⟩
def FCU_CTRL_LOG_C : Field := ⟨FCU_CTRL, 2, 1⟩
def FCU_CTRL_QUIET_MS : Field := ⟨FCU_CTRL, 16, 16⟩
/-- FCU_STATUS (R449). -/
def FCU_STATUS : Reg := ⟨0x10000300008, 0x0, 0x0, 0x0, 0x0, fun _ => 0x0⟩
def FCU_STATUS_STATE : Field := ⟨FCU_STATUS, 0, 2⟩
def FCU_STATUS_FAULT_N : Field := ⟨FCU_STATUS, 2, 1⟩
def FCU_STATUS_FOLD_SEEN : Field := ⟨FCU_STATUS, 3, 1⟩
def FCU_STATUS_ESCALATED_SEEN : Field := ⟨FCU_STATUS, 4, 1⟩
def FCU_STATUS_WIRE_SEEN : Field := ⟨FCU_STATUS, 5, 1⟩
def FCU_STATUS_LATCH_SEEN : Field := ⟨FCU_STATUS, 6, 1⟩
def FCU_STATUS_SELFTEST_FAIL_SEEN : Field := ⟨FCU_STATUS, 7, 1⟩
def FCU_STATUS_QUIET_LEFT_MS : Field := ⟨FCU_STATUS, 16, 16⟩
/-- FCU_RECOVERIES (R449). -/
def FCU_RECOVERIES : Reg := ⟨0x10000300010, 0x0, 0x0, 0x0, 0x0, fun _ => 0x0⟩
def FCU_RECOVERIES_COUNT : Field := ⟨FCU_RECOVERIES, 0, 32⟩
/-- FCU_FOLDS (R449). -/
def FCU_FOLDS : Reg := ⟨0x10000300018, 0x0, 0x0, 0x0, 0x0, fun _ => 0x0⟩
def FCU_FOLDS_COUNT : Field := ⟨FCU_FOLDS, 0, 32⟩
/-- FCU_FOLD_CAUSE (R449). -/
def FCU_FOLD_CAUSE : Reg := ⟨0x10000300020, 0x0, 0x0, 0x0, 0x0, fun _ => 0x0⟩
def FCU_FOLD_CAUSE_SOURCE : Field := ⟨FCU_FOLD_CAUSE, 0, 12⟩
def FCU_FOLD_CAUSE_CLASS_REPORTED : Field := ⟨FCU_FOLD_CAUSE, 12, 2⟩
def FCU_FOLD_CAUSE_ESCALATED : Field := ⟨FCU_FOLD_CAUSE, 14, 1⟩
def FCU_FOLD_CAUSE_WIRE : Field := ⟨FCU_FOLD_CAUSE, 15, 1⟩
def FCU_FOLD_CAUSE_LOG_INDEX : Field := ⟨FCU_FOLD_CAUSE, 16, 32⟩
/-- FCU_RECOVERY_LAST (R449). -/
def FCU_RECOVERY_LAST : Reg := ⟨0x10000300028, 0x0, 0x0, 0x0, 0x0, fun _ => 0x0⟩
def FCU_RECOVERY_LAST_QUIET_US : Field := ⟨FCU_RECOVERY_LAST, 0, 32⟩
def FCU_RECOVERY_LAST_SEQUENCE_US : Field := ⟨FCU_RECOVERY_LAST, 32, 32⟩
/-- FCU_CORE_STATE (R449). -/
def FCU_CORE_STATE : Reg := ⟨0x10000300030, 0x0, 0x0, 0x0, 0x0, fun _ => 0x0⟩
def FCU_CORE_STATE_STATE : Field := ⟨FCU_CORE_STATE, 0, 16⟩
/-- FCU_CORE_CLEAR (R449). -/
def FCU_CORE_CLEAR : Reg := ⟨0x10000300038, 0x0, 0x0, 0x0, 0x0, fun _ => 0x0⟩
def FCU_CORE_CLEAR_CLEAR : Field := ⟨FCU_CORE_CLEAR, 0, 8⟩
/-- FCU_CORE_RECOVERIES (R449). -/
def FCU_CORE_RECOVERIES : Reg := ⟨0x10000300040, 0x0, 0x0, 0x0, 0x0, fun _ => 0x0⟩
def FCU_CORE_RECOVERIES_COUNT : Field := ⟨FCU_CORE_RECOVERIES, 0, 64⟩
/-- FCU_COUNT_C (R449). -/
def FCU_COUNT_C : Reg := ⟨0x10000300048, 0x0, 0x0, 0x0, 0x0, fun _ => 0x0⟩
def FCU_COUNT_C_COUNT : Field := ⟨FCU_COUNT_C, 0, 32⟩
/-- FCU_COUNT_U (R449). -/
def FCU_COUNT_U : Reg := ⟨0x10000300050, 0x0, 0x0, 0x0, 0x0, fun _ => 0x0⟩
def FCU_COUNT_U_COUNT : Field := ⟨FCU_COUNT_U, 0, 32⟩
/-- FCU_COUNT_F (R449). -/
def FCU_COUNT_F : Reg := ⟨0x10000300058, 0x0, 0x0, 0x0, 0x0, fun _ => 0x0⟩
def FCU_COUNT_F_COUNT : Field := ⟨FCU_COUNT_F, 0, 32⟩
/-- FCU_COUNT_ESCALATED (R449). -/
def FCU_COUNT_ESCALATED : Reg := ⟨0x10000300060, 0x0, 0x0, 0x0, 0x0, fun _ => 0x0⟩
def FCU_COUNT_ESCALATED_COUNT : Field := ⟨FCU_COUNT_ESCALATED, 0, 32⟩
/-- FCU_COUNT_MASKED (R449). -/
def FCU_COUNT_MASKED : Reg := ⟨0x10000300068, 0x0, 0x0, 0x0, 0x0, fun _ => 0x0⟩
def FCU_COUNT_MASKED_COUNT : Field := ⟨FCU_COUNT_MASKED, 0, 32⟩
/-- FCU_LOG_NEXT (R449). -/
def FCU_LOG_NEXT : Reg := ⟨0x10000300070, 0x0, 0x0, 0x0, 0x0, fun _ => 0x0⟩
def FCU_LOG_NEXT_INDEX : Field := ⟨FCU_LOG_NEXT, 0, 32⟩
/-- FCU_INJECT (R449). -/
def FCU_INJECT : Reg := ⟨0x10000300078, 0x0, 0x0, 0x0, 0x0, fun _ => 0x1000⟩
def FCU_INJECT_SOURCE : Field := ⟨FCU_INJECT, 0, 12⟩
def FCU_INJECT_FLIPS : Field := ⟨FCU_INJECT, 12, 2⟩
def FCU_INJECT_ARM : Field := ⟨FCU_INJECT, 14, 1⟩
/-- FCU_WIRE_TEST (R449). -/
def FCU_WIRE_TEST : Reg := ⟨0x10000300080, 0x0, 0x0, 0x0, 0x0, fun _ => 0x0⟩
def FCU_WIRE_TEST_SOURCE : Field := ⟨FCU_WIRE_TEST, 0, 12⟩
def FCU_WIRE_TEST_PAIR : Field := ⟨FCU_WIRE_TEST, 12, 2⟩
def FCU_WIRE_TEST_LEVEL : Field := ⟨FCU_WIRE_TEST, 14, 1⟩
def FCU_WIRE_TEST_GO : Field := ⟨FCU_WIRE_TEST, 15, 1⟩
/-- FCU_LOG_e_Ww (R449). -/
def FCU_LOG_e_Ww : Reg := ⟨0x10000304000, 0x20, 0x8, 0x0, 0x0, fun _ => 0x0⟩
def FCU_LOG_e_Ww_DATA : Field := ⟨FCU_LOG_e_Ww, 0, 64⟩
/-- FCU_REACT_id (R449). -/
def FCU_REACT_id : Reg := ⟨0x10000310000, 0x8, 0x0, 0x0, 0x0, fun id => BitVec.ofNat 64 (reactReset id)⟩
def FCU_REACT_id_U_ACT : Field := ⟨FCU_REACT_id, 0, 2⟩
def FCU_REACT_id_ESCALATE : Field := ⟨FCU_REACT_id, 2, 1⟩
def FCU_REACT_id_WIRE_F_FOLD : Field := ⟨FCU_REACT_id, 3, 1⟩
def FCU_REACT_id_IRQ_C : Field := ⟨FCU_REACT_id, 4, 1⟩
def FCU_REACT_id_IRQ_U : Field := ⟨FCU_REACT_id, 5, 1⟩
def FCU_REACT_id_CLASSES : Field := ⟨FCU_REACT_id, 8, 3⟩
def FCU_REACT_id_LEVEL : Field := ⟨FCU_REACT_id, 11, 1⟩
/-- FCU_SRC_id (R449). -/
def FCU_SRC_id : Reg := ⟨0x10000320000, 0x8, 0x0, 0x0, 0x0, fun _ => 0x0⟩
def FCU_SRC_id_COUNT_C : Field := ⟨FCU_SRC_id, 0, 16⟩
def FCU_SRC_id_COUNT_U : Field := ⟨FCU_SRC_id, 16, 16⟩
def FCU_SRC_id_COUNT_F : Field := ⟨FCU_SRC_id, 32, 8⟩
def FCU_SRC_id_COUNT_WIRE : Field := ⟨FCU_SRC_id, 40, 8⟩
def FCU_SRC_id_WIRE : Field := ⟨FCU_SRC_id, 48, 3⟩
def FCU_SRC_id_FORCE : Field := ⟨FCU_SRC_id, 51, 2⟩
/-- PWR_CTRL (R429). -/
def PWR_CTRL : Reg := ⟨0x10000400000, 0x0, 0x0, 0x0, 0x0, fun _ => 0xb00⟩
def PWR_CTRL_MODE : Field := ⟨PWR_CTRL, 0, 1⟩
def PWR_CTRL_FIXED_STEP : Field := ⟨PWR_CTRL, 1, 2⟩
def PWR_CTRL_LEARN_SHIFT : Field := ⟨PWR_CTRL, 8, 3⟩
def PWR_CTRL_LEARN_EN : Field := ⟨PWR_CTRL, 11, 1⟩
/-- PWR_CAP (R429). -/
def PWR_CAP : Reg := ⟨0x10000400008, 0x0, 0x0, 0x0, 0x0, fun _ => 0x249f0⟩
def PWR_CAP_CAP_MW : Field := ⟨PWR_CAP, 0, 18⟩
/-- PWR_MARGIN (R429). -/
def PWR_MARGIN : Reg := ⟨0x10000400010, 0x0, 0x0, 0x0, 0x0, fun _ => 0xbb8⟩
def PWR_MARGIN_MARGIN_MW : Field := ⟨PWR_MARGIN, 0, 16⟩
/-- PWR_STATUS (R429). -/
def PWR_STATUS : Reg := ⟨0x10000400018, 0x0, 0x0, 0x0, 0x0, fun _ => 0x0⟩
def PWR_STATUS_CAP_BOUND : Field := ⟨PWR_STATUS, 0, 1⟩
def PWR_STATUS_UNMET : Field := ⟨PWR_STATUS, 1, 1⟩
def PWR_STATUS_UNMET_SEEN : Field := ⟨PWR_STATUS, 2, 1⟩
def PWR_STATUS_OVER_CAP_SEEN : Field := ⟨PWR_STATUS, 3, 1⟩
def PWR_STATUS_FIXED_AT_RISK : Field := ⟨PWR_STATUS, 4, 1⟩
def PWR_STATUS_THERM_WARN : Field := ⟨PWR_STATUS, 5, 1⟩
def PWR_STATUS_THERM_WARN_SEEN : Field := ⟨PWR_STATUS, 6, 1⟩
def PWR_STATUS_SENSOR_BAD_SEEN : Field := ⟨PWR_STATUS, 7, 1⟩
def PWR_STATUS_ABS_LIMIT_SEEN : Field := ⟨PWR_STATUS, 8, 1⟩
/-- PWR_MEAS (R429). -/
def PWR_MEAS : Reg := ⟨0x10000400020, 0x0, 0x0, 0x0, 0x0, fun _ => 0x927c00000⟩
def PWR_MEAS_MEAS_MW : Field := ⟨PWR_MEAS, 0, 18⟩
def PWR_MEAS_CAP_EFF_MW : Field := ⟨PWR_MEAS, 18, 18⟩
def PWR_MEAS_UNCORE_MW : Field := ⟨PWR_MEAS, 36, 18⟩
/-- PWR_ENERGY_UJ (R429). -/
def PWR_ENERGY_UJ : Reg := ⟨0x10000400028, 0x0, 0x0, 0x0, 0x0, fun _ => 0x0⟩
def PWR_ENERGY_UJ_ENERGY_UJ : Field := ⟨PWR_ENERGY_UJ, 0, 64⟩
/-- PWR_INTERVALS (R429). -/
def PWR_INTERVALS : Reg := ⟨0x10000400030, 0x0, 0x0, 0x0, 0x0, fun _ => 0x0⟩
def PWR_INTERVALS_COUNT : Field := ⟨PWR_INTERVALS, 0, 64⟩
/-- PWR_GUARANTEE (R429). -/
def PWR_GUARANTEE : Reg := ⟨0x10000400038, 0x0, 0x0, 0x0, 0x0, fun _ => 0x0⟩
def PWR_GUARANTEE_STEP0_W : Field := ⟨PWR_GUARANTEE, 0, 8⟩
def PWR_GUARANTEE_STEP1_W : Field := ⟨PWR_GUARANTEE, 8, 8⟩
def PWR_GUARANTEE_STEP2_W : Field := ⟨PWR_GUARANTEE, 16, 8⟩
def PWR_GUARANTEE_STEP3_W : Field := ⟨PWR_GUARANTEE, 24, 8⟩
/-- PWR_CORE_c (R429). -/
def PWR_CORE_c : Reg := ⟨0x10000400100, 0x8, 0x0, 0x0, 0x0, fun _ => 0x1000000⟩
def PWR_CORE_c_EST_MW : Field := ⟨PWR_CORE_c, 0, 16⟩
def PWR_CORE_c_PHASE : Field := ⟨PWR_CORE_c, 16, 8⟩
def PWR_CORE_c_IDLE : Field := ⟨PWR_CORE_c, 24, 1⟩
def PWR_CORE_c_DEMAND_MW : Field := ⟨PWR_CORE_c, 32, 16⟩
/-- PWR_RAMP_c (R429). -/
def PWR_RAMP_c : Reg := ⟨0x10000400200, 0x8, 0x0, 0x0, 0x0, fun _ => 0x0⟩
def PWR_RAMP_c_WAIT_ARRC : Field := ⟨PWR_RAMP_c, 0, 64⟩
/-- PWR_RAMP_LEVEL (R429). -/
def PWR_RAMP_LEVEL : Reg := ⟨0x10000400280, 0x0, 0x0, 0x0, 0x0, fun _ => 0x0⟩
def PWR_RAMP_LEVEL_LEVEL : Field := ⟨PWR_RAMP_LEVEL, 0, 48⟩
/-- PWR_PHASE_CFG (R429). -/
def PWR_PHASE_CFG : Reg := ⟨0x10000400300, 0x0, 0x0, 0x0, 0x0, fun _ => 0x38440a6⟩
def PWR_PHASE_CFG_DEFAULT_MW : Field := ⟨PWR_PHASE_CFG, 0, 16⟩
def PWR_PHASE_CFG_IDLE_MW : Field := ⟨PWR_PHASE_CFG, 16, 16⟩
/-- PWR_THERM_CTRL (R429). -/
def PWR_THERM_CTRL : Reg := ⟨0x10000400400, 0x0, 0x0, 0x0, 0x0, fun _ => 0x6b6c17318⟩
def PWR_THERM_CTRL_WARN_MC : Field := ⟨PWR_THERM_CTRL, 0, 18⟩
def PWR_THERM_CTRL_CRIT_MC : Field := ⟨PWR_THERM_CTRL, 18, 18⟩
/-- PWR_THERM_CURVEi (R429). -/
def PWR_THERM_CURVEi : Reg := ⟨0x10000400410, 0x8, 0x0, 0x0, 0x0, fun i => BitVec.ofNat 64 (90000 + 2500 * i + 180000 * 2 ^ 18)⟩
def PWR_THERM_CURVEi_T_MC : Field := ⟨PWR_THERM_CURVEi, 0, 18⟩
def PWR_THERM_CURVEi_CAP_MW : Field := ⟨PWR_THERM_CURVEi, 18, 18⟩
/-- PWR_TEMP_s (R429). -/
def PWR_TEMP_s : Reg := ⟨0x10000400500, 0x8, 0x0, 0x0, 0x0, fun _ => 0x0⟩
def PWR_TEMP_s_TEMP_MC : Field := ⟨PWR_TEMP_s, 0, 20⟩
def PWR_TEMP_s_BAD : Field := ⟨PWR_TEMP_s, 20, 1⟩
/-- PWR_TEMP_MAX (R429). -/
def PWR_TEMP_MAX : Reg := ⟨0x10000400580, 0x0, 0x0, 0x0, 0x0, fun _ => 0x0⟩
def PWR_TEMP_MAX_MAX_MC : Field := ⟨PWR_TEMP_MAX, 0, 20⟩
def PWR_TEMP_MAX_SENSOR : Field := ⟨PWR_TEMP_MAX, 20, 4⟩
/-- PWR_TEMP_PEAK (R429). -/
def PWR_TEMP_PEAK : Reg := ⟨0x10000400588, 0x0, 0x0, 0x0, 0x0, fun _ => 0x0⟩
def PWR_TEMP_PEAK_PEAK_MC : Field := ⟨PWR_TEMP_PEAK, 0, 20⟩
/-- PWR_PHASE_p (R429). -/
def PWR_PHASE_p : Reg := ⟨0x10000401000, 0x8, 0x0, 0x0, 0x0, fun _ => 0x0⟩
def PWR_PHASE_p_E_MW : Field := ⟨PWR_PHASE_p, 0, 16⟩
def PWR_PHASE_p_VALID : Field := ⟨PWR_PHASE_p, 16, 1⟩
def PWR_PHASE_p_UPDATES : Field := ⟨PWR_PHASE_p, 32, 32⟩
/-- TIM_CTRL (R409). -/
def TIM_CTRL : Reg := ⟨0x10000500000, 0x0, 0x0, 0x0, 0x0, fun _ => 0x7d00000⟩
def TIM_CTRL_LOCK : Field := ⟨TIM_CTRL, 0, 1⟩
def TIM_CTRL_HOLD : Field := ⟨TIM_CTRL, 1, 1⟩
def TIM_CTRL_RELEASE : Field := ⟨TIM_CTRL, 2, 1⟩
def TIM_CTRL_SYNC_TIMEOUT_MS : Field := ⟨TIM_CTRL, 16, 16⟩
/-- TIM_STATUS (R409). -/
def TIM_STATUS : Reg := ⟨0x10000500008, 0x0, 0x0, 0x0, 0x0, fun _ => 0x0⟩
def TIM_STATUS_STATE : Field := ⟨TIM_STATUS, 0, 2⟩
def TIM_STATUS_HOLDOVER : Field := ⟨TIM_STATUS, 2, 1⟩
def TIM_STATUS_TIME_LOST : Field := ⟨TIM_STATUS, 3, 1⟩
def TIM_STATUS_HOLDOVER_SEEN : Field := ⟨TIM_STATUS, 4, 1⟩
def TIM_STATUS_LATE_SEEN : Field := ⟨TIM_STATUS, 5, 1⟩
def TIM_STATUS_TIMER_MISS_SEEN : Field := ⟨TIM_STATUS, 6, 1⟩
def TIM_STATUS_HOLDOVER_MS : Field := ⟨TIM_STATUS, 32, 32⟩
/-- TIM_NOW_S (R409). -/
def TIM_NOW_S : Reg := ⟨0x10000500010, 0x0, 0x0, 0x0, 0x0, fun _ => 0x0⟩
def TIM_NOW_S_SECONDS : Field := ⟨TIM_NOW_S, 0, 48⟩
/-- TIM_NOW_NS (R409). -/
def TIM_NOW_NS : Reg := ⟨0x10000500018, 0x0, 0x0, 0x0, 0x0, fun _ => 0x0⟩
def TIM_NOW_NS_NS : Field := ⟨TIM_NOW_NS, 0, 30⟩
def TIM_NOW_NS_FNS : Field := ⟨TIM_NOW_NS, 32, 16⟩
/-- TIM_RATE (R409). -/
def TIM_RATE : Reg := ⟨0x10000500020, 0x0, 0x0, 0x0, 0x0, fun _ => 0x800000000⟩
def TIM_RATE_INCREMENT : Field := ⟨TIM_RATE, 0, 40⟩
/-- TIM_SET_S (R409). -/
def TIM_SET_S : Reg := ⟨0x10000500028, 0x0, 0x0, 0x0, 0x0, fun _ => 0x0⟩
def TIM_SET_S_SECONDS : Field := ⟨TIM_SET_S, 0, 48⟩
/-- TIM_SET_NS (R409). -/
def TIM_SET_NS : Reg := ⟨0x10000500030, 0x0, 0x0, 0x0, 0x0, fun _ => 0x0⟩
def TIM_SET_NS_NS : Field := ⟨TIM_SET_NS, 0, 30⟩
/-- TIM_STEP (R409). -/
def TIM_STEP : Reg := ⟨0x10000500038, 0x0, 0x0, 0x0, 0x0, fun _ => 0x0⟩
def TIM_STEP_STEP_NS : Field := ⟨TIM_STEP, 0, 40⟩
/-- TIM_KICK (R409). -/
def TIM_KICK : Reg := ⟨0x10000500040, 0x0, 0x0, 0x0, 0x0, fun _ => 0x0⟩
def TIM_KICK_KICK : Field := ⟨TIM_KICK, 0, 1⟩
/-- TIM_ETHn_LAT (R409). -/
def TIM_ETHn_LAT : Reg := ⟨0x10000500050, 0x8, 0x0, 0x0, 0x0, fun _ => 0x0⟩
def TIM_ETHn_LAT_RX_LAT_NS : Field := ⟨TIM_ETHn_LAT, 0, 16⟩
def TIM_ETHn_LAT_TX_LAT_NS : Field := ⟨TIM_ETHn_LAT, 16, 16⟩
/-- TIM_PTP_RING (R409). -/
def TIM_PTP_RING : Reg := ⟨0x10000500060, 0x0, 0x0, 0x0, 0x0, fun _ => 0x0⟩
def TIM_PTP_RING_OFFSET : Field := ⟨TIM_PTP_RING, 0, 21⟩
/-- TIM_PTP_TX_GO (R409). -/
def TIM_PTP_TX_GO : Reg := ⟨0x10000500068, 0x0, 0x0, 0x0, 0x0, fun _ => 0x0⟩
def TIM_PTP_TX_GO_SLOT : Field := ⟨TIM_PTP_TX_GO, 0, 4⟩
/-- TIM_PTP_DROPPED (R409). -/
def TIM_PTP_DROPPED : Reg := ⟨0x10000500070, 0x0, 0x0, 0x0, 0x0, fun _ => 0x0⟩
def TIM_PTP_DROPPED_COUNT : Field := ⟨TIM_PTP_DROPPED, 0, 32⟩
/-- TIM_TRIGn_CFG (R409). -/
def TIM_TRIGn_CFG : Reg := ⟨0x10000501000, 0x40, 0x0, 0x0, 0x0, fun _ => 0x2⟩
def TIM_TRIGn_CFG_ARM : Field := ⟨TIM_TRIGn_CFG, 0, 1⟩
def TIM_TRIGn_CFG_ACTIVE_HIGH : Field := ⟨TIM_TRIGn_CFG, 1, 1⟩
def TIM_TRIGn_CFG_SAFE_HIGH : Field := ⟨TIM_TRIGn_CFG, 2, 1⟩
def TIM_TRIGn_CFG_PULSE_NS : Field := ⟨TIM_TRIGn_CFG, 8, 24⟩
def TIM_TRIGn_CFG_COUNT : Field := ⟨TIM_TRIGn_CFG, 32, 32⟩
/-- TIM_TRIGn_START_S (R409). -/
def TIM_TRIGn_START_S : Reg := ⟨0x10000501008, 0x40, 0x0, 0x0, 0x0, fun _ => 0x0⟩
def TIM_TRIGn_START_S_SECONDS : Field := ⟨TIM_TRIGn_START_S, 0, 48⟩
/-- TIM_TRIGn_START_NS (R409). -/
def TIM_TRIGn_START_NS : Reg := ⟨0x10000501010, 0x40, 0x0, 0x0, 0x0, fun _ => 0x0⟩
def TIM_TRIGn_START_NS_NS : Field := ⟨TIM_TRIGn_START_NS, 0, 30⟩
/-- TIM_TRIGn_PERIOD (R409). -/
def TIM_TRIGn_PERIOD : Reg := ⟨0x10000501018, 0x40, 0x0, 0x0, 0x0, fun _ => 0x0⟩
def TIM_TRIGn_PERIOD_PERIOD_NS : Field := ⟨TIM_TRIGn_PERIOD, 0, 32⟩
/-- TIM_TRIGn_STATUS (R409). -/
def TIM_TRIGn_STATUS : Reg := ⟨0x10000501020, 0x40, 0x0, 0x0, 0x0, fun _ => 0x0⟩
def TIM_TRIGn_STATUS_FIRED : Field := ⟨TIM_TRIGn_STATUS, 0, 32⟩
def TIM_TRIGn_STATUS_LATE : Field := ⟨TIM_TRIGn_STATUS, 32, 16⟩
def TIM_TRIGn_STATUS_SKIPPED : Field := ⟨TIM_TRIGn_STATUS, 48, 16⟩
/-- TIM_TRIGn_LAST_S (R409). -/
def TIM_TRIGn_LAST_S : Reg := ⟨0x10000501028, 0x40, 0x0, 0x0, 0x0, fun _ => 0x0⟩
def TIM_TRIGn_LAST_S_SECONDS : Field := ⟨TIM_TRIGn_LAST_S, 0, 48⟩
/-- TIM_TRIGn_LAST_NS (R409). -/
def TIM_TRIGn_LAST_NS : Reg := ⟨0x10000501030, 0x40, 0x0, 0x0, 0x0, fun _ => 0x0⟩
def TIM_TRIGn_LAST_NS_NS : Field := ⟨TIM_TRIGn_LAST_NS, 0, 30⟩
/-- TIM_CAPn_CFG (R409). -/
def TIM_CAPn_CFG : Reg := ⟨0x10000502000, 0x20, 0x0, 0x0, 0x0, fun _ => 0x0⟩
def TIM_CAPn_CFG_ENABLE : Field := ⟨TIM_CAPn_CFG, 0, 1⟩
def TIM_CAPn_CFG_EDGE : Field := ⟨TIM_CAPn_CFG, 1, 2⟩
def TIM_CAPn_CFG_TALLY_EN : Field := ⟨TIM_CAPn_CFG, 3, 1⟩
def TIM_CAPn_CFG_TALLY : Field := ⟨TIM_CAPn_CFG, 4, 15⟩
/-- TIM_CAPn_STATUS (R409). -/
def TIM_CAPn_STATUS : Reg := ⟨0x10000502008, 0x20, 0x0, 0x0, 0x0, fun _ => 0x0⟩
def TIM_CAPn_STATUS_FILL : Field := ⟨TIM_CAPn_STATUS, 0, 5⟩
def TIM_CAPn_STATUS_OVF_SEEN : Field := ⟨TIM_CAPn_STATUS, 5, 1⟩
def TIM_CAPn_STATUS_LOST : Field := ⟨TIM_CAPn_STATUS, 16, 16⟩
/-- TIM_CAPn_POP_S (R409). -/
def TIM_CAPn_POP_S : Reg := ⟨0x10000502010, 0x20, 0x0, 0x0, 0x0, fun _ => 0x0⟩
def TIM_CAPn_POP_S_SECONDS : Field := ⟨TIM_CAPn_POP_S, 0, 48⟩
def TIM_CAPn_POP_S_RISING : Field := ⟨TIM_CAPn_POP_S, 48, 1⟩
def TIM_CAPn_POP_S_VALID : Field := ⟨TIM_CAPn_POP_S, 49, 1⟩
/-- TIM_CAPn_POP_NS (R409). -/
def TIM_CAPn_POP_NS : Reg := ⟨0x10000502018, 0x20, 0x0, 0x0, 0x0, fun _ => 0x0⟩
def TIM_CAPn_POP_NS_NS : Field := ⟨TIM_CAPn_POP_NS, 0, 30⟩
/-- TIM_CTk_CFG (R409). -/
def TIM_CTk_CFG : Reg := ⟨0x10000503000, 0x80, 0x0, 0x0, 0x0, fun _ => 0x0⟩
def TIM_CTk_CFG_ARM : Field := ⟨TIM_CTk_CFG, 0, 1⟩
def TIM_CTk_CFG_PUSH_EN : Field := ⟨TIM_CTk_CFG, 1, 1⟩
def TIM_CTk_CFG_TALLY_EN : Field := ⟨TIM_CTk_CFG, 2, 1⟩
def TIM_CTk_CFG_TALLY : Field := ⟨TIM_CTk_CFG, 3, 15⟩
def TIM_CTk_CFG_QUEUE : Field := ⟨TIM_CTk_CFG, 32, 16⟩
/-- TIM_CTk_START_S (R409). -/
def TIM_CTk_START_S : Reg := ⟨0x10000503008, 0x80, 0x0, 0x0, 0x0, fun _ => 0x0⟩
def TIM_CTk_START_S_SECONDS : Field := ⟨TIM_CTk_START_S, 0, 48⟩
/-- TIM_CTk_START_NS (R409). -/
def TIM_CTk_START_NS : Reg := ⟨0x10000503010, 0x80, 0x0, 0x0, 0x0, fun _ => 0x0⟩
def TIM_CTk_START_NS_NS : Field := ⟨TIM_CTk_START_NS, 0, 30⟩
/-- TIM_CTk_SCHED (R409). -/
def TIM_CTk_SCHED : Reg := ⟨0x10000503018, 0x80, 0x0, 0x0, 0x0, fun _ => 0x0⟩
def TIM_CTk_SCHED_PERIOD_NS : Field := ⟨TIM_CTk_SCHED, 0, 32⟩
def TIM_CTk_SCHED_COUNT : Field := ⟨TIM_CTk_SCHED, 32, 32⟩
/-- TIM_CTk_STATUS (R409). -/
def TIM_CTk_STATUS : Reg := ⟨0x10000503020, 0x80, 0x0, 0x0, 0x0, fun _ => 0x0⟩
def TIM_CTk_STATUS_FIRED : Field := ⟨TIM_CTk_STATUS, 0, 32⟩
def TIM_CTk_STATUS_REFUSED : Field := ⟨TIM_CTk_STATUS, 32, 16⟩
def TIM_CTk_STATUS_SKIPPED : Field := ⟨TIM_CTk_STATUS, 48, 16⟩
/-- TIM_CTk_DATAw (R409). -/
def TIM_CTk_DATAw : Reg := ⟨0x10000503040, 0x80, 0x8, 0x0, 0x0, fun _ => 0x0⟩
def TIM_CTk_DATAw_DATA : Field := ⟨TIM_CTk_DATAw, 0, 64⟩
/-- D2D_Ln_STATUS (R21). -/
def D2D_Ln_STATUS : Reg := ⟨0x10000600000, 0x100, 0x0, 0x0, 0x0, fun _ => 0x0⟩
def D2D_Ln_STATUS_UP : Field := ⟨D2D_Ln_STATUS, 0, 1⟩
def D2D_Ln_STATUS_DOWN_LATCHED : Field := ⟨D2D_Ln_STATUS, 1, 1⟩
def D2D_Ln_STATUS_CRC_SEEN : Field := ⟨D2D_Ln_STATUS, 2, 1⟩
def D2D_Ln_STATUS_SPARES_USED : Field := ⟨D2D_Ln_STATUS, 8, 8⟩
/-- D2D_Ln_REPLAYS (R21). -/
def D2D_Ln_REPLAYS : Reg := ⟨0x10000600008, 0x100, 0x0, 0x0, 0x0, fun _ => 0x0⟩
def D2D_Ln_REPLAYS_COUNT : Field := ⟨D2D_Ln_REPLAYS, 0, 32⟩
/-- D2D_Ln_TX_B (R21). -/
def D2D_Ln_TX_B : Reg := ⟨0x10000600010, 0x100, 0x0, 0x0, 0x0, fun _ => 0x0⟩
def D2D_Ln_TX_B_BYTES_B : Field := ⟨D2D_Ln_TX_B, 0, 64⟩
/-- D2D_Ln_RX_B (R21). -/
def D2D_Ln_RX_B : Reg := ⟨0x10000600018, 0x100, 0x0, 0x0, 0x0, fun _ => 0x0⟩
def D2D_Ln_RX_B_BYTES_B : Field := ⟨D2D_Ln_RX_B, 0, 64⟩
/-- BOOT_STATUS (R468). -/
def BOOT_STATUS : Reg := ⟨0x10000700000, 0x0, 0x0, 0x0, 0x0, fun _ => 0x0⟩
def BOOT_STATUS_STATE : Field := ⟨BOOT_STATUS, 0, 3⟩
def BOOT_STATUS_ATTEMPTS : Field := ⟨BOOT_STATUS, 32, 32⟩
/-- BOOT_FAIL (R468). -/
def BOOT_FAIL : Reg := ⟨0x10000700008, 0x0, 0x0, 0x0, 0x0, fun _ => 0x0⟩
def BOOT_FAIL_REASON : Field := ⟨BOOT_FAIL, 0, 8⟩
def BOOT_FAIL_DETAIL : Field := ⟨BOOT_FAIL, 32, 32⟩
/-- BOOT_IMAGE (R468). -/
def BOOT_IMAGE : Reg := ⟨0x10000700010, 0x0, 0x0, 0x0, 0x0, fun _ => 0x0⟩
def BOOT_IMAGE_SEQUENCE : Field := ⟨BOOT_IMAGE, 0, 32⟩
def BOOT_IMAGE_BLOCKS : Field := ⟨BOOT_IMAGE, 32, 16⟩
def BOOT_IMAGE_KEY_SLOT : Field := ⟨BOOT_IMAGE, 48, 3⟩
/-- BOOT_TIMES (R468). -/
def BOOT_TIMES : Reg := ⟨0x10000700018, 0x0, 0x0, 0x0, 0x0, fun _ => 0x0⟩
def BOOT_TIMES_VERIFY_US : Field := ⟨BOOT_TIMES, 0, 32⟩
def BOOT_TIMES_RELEASE_US : Field := ⟨BOOT_TIMES, 32, 32⟩
/-- BOOT_CTRL (R468). -/
def BOOT_CTRL : Reg := ⟨0x10000700020, 0x0, 0x0, 0x0, 0x0, fun _ => 0x0⟩
def BOOT_CTRL_RESTART : Field := ⟨BOOT_CTRL, 0, 1⟩
/-- BOOT_DIGEST_w (R468). -/
def BOOT_DIGEST_w : Reg := ⟨0x10000700100, 0x8, 0x0, 0x0, 0x0, fun _ => 0x0⟩
def BOOT_DIGEST_w_DIGEST : Field := ⟨BOOT_DIGEST_w, 0, 64⟩
/-- SEC_PART_SERIAL (R469). -/
def SEC_PART_SERIAL : Reg := ⟨0x10000800000, 0x0, 0x0, 0x0, 0x0, fun _ => 0x0⟩
def SEC_PART_SERIAL_SERIAL : Field := ⟨SEC_PART_SERIAL, 0, 64⟩
/-- SEC_ATTEST_CTRL (R469). -/
def SEC_ATTEST_CTRL : Reg := ⟨0x10000800008, 0x0, 0x0, 0x0, 0x0, fun _ => 0x0⟩
def SEC_ATTEST_CTRL_GO : Field := ⟨SEC_ATTEST_CTRL, 0, 1⟩
def SEC_ATTEST_CTRL_BUSY : Field := ⟨SEC_ATTEST_CTRL, 1, 1⟩
def SEC_ATTEST_CTRL_COUNT : Field := ⟨SEC_ATTEST_CTRL, 8, 6⟩
/-- SEC_ATTEST_NONCE_w (R469). -/
def SEC_ATTEST_NONCE_w : Reg := ⟨0x10000800010, 0x8, 0x0, 0x0, 0x0, fun _ => 0x0⟩
def SEC_ATTEST_NONCE_w_NONCE : Field := ⟨SEC_ATTEST_NONCE_w, 0, 64⟩
/-- SEC_REPORT_B (R469). -/
def SEC_REPORT_B : Reg := ⟨0x10000800080, 0x0, 0x0, 0x0, 0x0, fun _ => 0x0⟩
def SEC_REPORT_B_REPORT_B : Field := ⟨SEC_REPORT_B, 0, 16⟩
/-- SEC_ATTEST_MODEL_j (R469). -/
def SEC_ATTEST_MODEL_j : Reg := ⟨0x10000800100, 0x8, 0x0, 0x0, 0x0, fun _ => 0x0⟩
def SEC_ATTEST_MODEL_j_MODEL_ID : Field := ⟨SEC_ATTEST_MODEL_j, 0, 32⟩
/-- SEC_ADMIT_BASE (R469). -/
def SEC_ADMIT_BASE : Reg := ⟨0x10000800400, 0x0, 0x0, 0x0, 0x0, fun _ => 0x0⟩
def SEC_ADMIT_BASE_BASE : Field := ⟨SEC_ADMIT_BASE, 23, 12⟩
/-- SEC_ADMIT_REQ (R469). -/
def SEC_ADMIT_REQ : Reg := ⟨0x10000800408, 0x0, 0x0, 0x0, 0x0, fun _ => 0x0⟩
def SEC_ADMIT_REQ_SLOT_ADDR : Field := ⟨SEC_ADMIT_REQ, 8, 27⟩
/-- SEC_ADMIT_STATUS (R469). -/
def SEC_ADMIT_STATUS : Reg := ⟨0x10000800410, 0x0, 0x0, 0x0, 0x0, fun _ => 0x0⟩
def SEC_ADMIT_STATUS_BUSY : Field := ⟨SEC_ADMIT_STATUS, 0, 1⟩
def SEC_ADMIT_STATUS_DONE_SEEN : Field := ⟨SEC_ADMIT_STATUS, 1, 1⟩
def SEC_ADMIT_STATUS_CONTEXTS_OPEN : Field := ⟨SEC_ADMIT_STATUS, 2, 3⟩
def SEC_ADMIT_STATUS_LAST_REASON : Field := ⟨SEC_ADMIT_STATUS, 8, 8⟩
def SEC_ADMIT_STATUS_ADMITTED : Field := ⟨SEC_ADMIT_STATUS, 16, 13⟩
/-- SEC_ADMIT_TIMEOUT (R469). -/
def SEC_ADMIT_TIMEOUT : Reg := ⟨0x10000800418, 0x0, 0x0, 0x0, 0x0, fun _ => 0x2710⟩
def SEC_ADMIT_TIMEOUT_TIMEOUT_MS : Field := ⟨SEC_ADMIT_TIMEOUT, 0, 16⟩
/-- SEC_ATTEST_PK_w (R469). -/
def SEC_ATTEST_PK_w : Reg := ⟨0x10000801000, 0x8, 0x0, 0x0, 0x0, fun _ => 0x0⟩
def SEC_ATTEST_PK_w_PK : Field := ⟨SEC_ATTEST_PK_w, 0, 64⟩
/-- SEC_REPORT_w (R469). -/
def SEC_REPORT_w : Reg := ⟨0x10000802000, 0x8, 0x0, 0x0, 0x0, fun _ => 0x0⟩
def SEC_REPORT_w_DATA : Field := ⟨SEC_REPORT_w, 0, 64⟩
/-- NVM_STATUS (R470). -/
def NVM_STATUS : Reg := ⟨0x10000900000, 0x0, 0x0, 0x0, 0x0, fun _ => 0x0⟩
def NVM_STATUS_BUSY : Field := ⟨NVM_STATUS, 0, 1⟩
def NVM_STATUS_LOCKED : Field := ⟨NVM_STATUS, 1, 1⟩
def NVM_STATUS_PROGRAMMED : Field := ⟨NVM_STATUS, 2, 8⟩
def NVM_STATUS_REVOKED : Field := ⟨NVM_STATUS, 10, 8⟩
def NVM_STATUS_FAIL_SEEN : Field := ⟨NVM_STATUS, 18, 1⟩
/-- NVM_ROLLBACK (R470). -/
def NVM_ROLLBACK : Reg := ⟨0x10000900008, 0x0, 0x0, 0x0, 0x0, fun _ => 0x0⟩
def NVM_ROLLBACK_COUNTER : Field := ⟨NVM_ROLLBACK, 0, 32⟩
def NVM_ROLLBACK_ADVANCES_LEFT : Field := ⟨NVM_ROLLBACK, 32, 7⟩
/-- NVM_ROLLBACK_ADVANCE (R470). -/
def NVM_ROLLBACK_ADVANCE : Reg := ⟨0x10000900010, 0x0, 0x0, 0x0, 0x0, fun _ => 0x0⟩
def NVM_ROLLBACK_ADVANCE_VALUE : Field := ⟨NVM_ROLLBACK_ADVANCE, 0, 32⟩
/-- NVM_KEY_STAGE_w (R470). -/
def NVM_KEY_STAGE_w : Reg := ⟨0x10000900100, 0x8, 0x0, 0x0, 0x0, fun _ => 0x0⟩
def NVM_KEY_STAGE_w_HASH : Field := ⟨NVM_KEY_STAGE_w, 0, 64⟩
/-- NVM_KEY_PROGRAM (R470). -/
def NVM_KEY_PROGRAM : Reg := ⟨0x10000900140, 0x0, 0x0, 0x0, 0x0, fun _ => 0x0⟩
def NVM_KEY_PROGRAM_SLOT : Field := ⟨NVM_KEY_PROGRAM, 0, 3⟩
def NVM_KEY_PROGRAM_GO : Field := ⟨NVM_KEY_PROGRAM, 8, 1⟩
/-- NVM_REVOKE (R470). -/
def NVM_REVOKE : Reg := ⟨0x10000900148, 0x0, 0x0, 0x0, 0x0, fun _ => 0x0⟩
def NVM_REVOKE_SLOTS : Field := ⟨NVM_REVOKE, 0, 8⟩
/-- NVM_LOCK (R470). -/
def NVM_LOCK : Reg := ⟨0x10000900150, 0x0, 0x0, 0x0, 0x0, fun _ => 0x0⟩
def NVM_LOCK_LOCK : Field := ⟨NVM_LOCK, 0, 1⟩
/-- HMP_CFG (R390). -/
def HMP_CFG : Reg := ⟨0x10000a00000, 0x0, 0x0, 0x0, 0x0, fun _ => 0xf000003e80043⟩
def HMP_CFG_UDP_EN : Field := ⟨HMP_CFG, 0, 1⟩
def HMP_CFG_RAW_EN : Field := ⟨HMP_CFG, 1, 1⟩
def HMP_CFG_CB_MODE : Field := ⟨HMP_CFG, 2, 1⟩
def HMP_CFG_TC : Field := ⟨HMP_CFG, 3, 3⟩
def HMP_CFG_MGT_EN : Field := ⟨HMP_CFG, 6, 1⟩
def HMP_CFG_DEFAULT_TIMEOUT_MS : Field := ⟨HMP_CFG, 16, 16⟩
def HMP_CFG_REQ_LIMIT : Field := ⟨HMP_CFG, 32, 16⟩
def HMP_CFG_CB_HISTORY : Field := ⟨HMP_CFG, 48, 5⟩
/-- HMP_MAC (R390). -/
def HMP_MAC : Reg := ⟨0x10000a00008, 0x0, 0x0, 0x0, 0x0, fun _ => 0x0⟩
def HMP_MAC_MAC : Field := ⟨HMP_MAC, 0, 48⟩
/-- HMP_IPV4 (R390). -/
def HMP_IPV4 : Reg := ⟨0x10000a00010, 0x0, 0x0, 0x0, 0x0, fun _ => 0x0⟩
def HMP_IPV4_ADDR : Field := ⟨HMP_IPV4, 0, 32⟩
/-- HMP_IPV6_HI (R390). -/
def HMP_IPV6_HI : Reg := ⟨0x10000a00018, 0x0, 0x0, 0x0, 0x0, fun _ => 0x0⟩
def HMP_IPV6_HI_ADDR : Field := ⟨HMP_IPV6_HI, 0, 64⟩
/-- HMP_IPV6_LO (R390). -/
def HMP_IPV6_LO : Reg := ⟨0x10000a00020, 0x0, 0x0, 0x0, 0x0, fun _ => 0x0⟩
def HMP_IPV6_LO_ADDR : Field := ⟨HMP_IPV6_LO, 0, 64⟩
/-- HMP_VLAN (R390). -/
def HMP_VLAN : Reg := ⟨0x10000a00028, 0x0, 0x0, 0x0, 0x0, fun _ => 0x0⟩
def HMP_VLAN_VID : Field := ⟨HMP_VLAN, 0, 12⟩
def HMP_VLAN_PCP : Field := ⟨HMP_VLAN, 12, 3⟩
/-- HMP_LW_DA (R390). -/
def HMP_LW_DA : Reg := ⟨0x10000a00030, 0x0, 0x0, 0x0, 0x0, fun _ => 0xffffffffffff⟩
def HMP_LW_DA_DA : Field := ⟨HMP_LW_DA, 0, 48⟩
/-- HMP_STATUS (R390). -/
def HMP_STATUS : Reg := ⟨0x10000a00038, 0x0, 0x0, 0x0, 0x0, fun _ => 0x0⟩
def HMP_STATUS_SESSIONS_OPEN : Field := ⟨HMP_STATUS, 0, 7⟩
def HMP_STATUS_MALFORMED_SEEN : Field := ⟨HMP_STATUS, 7, 1⟩
def HMP_STATUS_LIMITED_SEEN : Field := ⟨HMP_STATUS, 8, 1⟩
def HMP_STATUS_FW_TIMEOUT_SEEN : Field := ⟨HMP_STATUS, 9, 1⟩
def HMP_STATUS_LW_SENT : Field := ⟨HMP_STATUS, 10, 1⟩
/-- HMP_MALFORMED (R390). -/
def HMP_MALFORMED : Reg := ⟨0x10000a00040, 0x0, 0x0, 0x0, 0x0, fun _ => 0x0⟩
def HMP_MALFORMED_COUNT : Field := ⟨HMP_MALFORMED, 0, 32⟩
/-- HMP_MISMATCH (R390). -/
def HMP_MISMATCH : Reg := ⟨0x10000a00048, 0x0, 0x0, 0x0, 0x0, fun _ => 0x0⟩
def HMP_MISMATCH_COUNT : Field := ⟨HMP_MISMATCH, 0, 32⟩
/-- HMP_STALE (R390). -/
def HMP_STALE : Reg := ⟨0x10000a00050, 0x0, 0x0, 0x0, 0x0, fun _ => 0x0⟩
def HMP_STALE_COUNT : Field := ⟨HMP_STALE, 0, 32⟩
/-- HMP_IN_PROGRESS (R390). -/
def HMP_IN_PROGRESS : Reg := ⟨0x10000a00058, 0x0, 0x0, 0x0, 0x0, fun _ => 0x0⟩
def HMP_IN_PROGRESS_COUNT : Field := ⟨HMP_IN_PROGRESS, 0, 32⟩
/-- HMP_LIMITED (R390). -/
def HMP_LIMITED : Reg := ⟨0x10000a00060, 0x0, 0x0, 0x0, 0x0, fun _ => 0x0⟩
def HMP_LIMITED_COUNT : Field := ⟨HMP_LIMITED, 0, 32⟩
/-- HMP_REPLAYED (R390). -/
def HMP_REPLAYED : Reg := ⟨0x10000a00068, 0x0, 0x0, 0x0, 0x0, fun _ => 0x0⟩
def HMP_REPLAYED_COUNT : Field := ⟨HMP_REPLAYED, 0, 32⟩
/-- HMP_GAPS (R390). -/
def HMP_GAPS : Reg := ⟨0x10000a00070, 0x0, 0x0, 0x0, 0x0, fun _ => 0x0⟩
def HMP_GAPS_COUNT : Field := ⟨HMP_GAPS, 0, 32⟩
/-- HMP_EXPIRED (R390). -/
def HMP_EXPIRED : Reg := ⟨0x10000a00078, 0x0, 0x0, 0x0, 0x0, fun _ => 0x0⟩
def HMP_EXPIRED_COUNT : Field := ⟨HMP_EXPIRED, 0, 32⟩
/-- HMP_FW_BASE (R390). -/
def HMP_FW_BASE : Reg := ⟨0x10000a00080, 0x0, 0x0, 0x0, 0x0, fun _ => 0x0⟩
def HMP_FW_BASE_BASE : Field := ⟨HMP_FW_BASE, 12, 23⟩
/-- HMP_FW_CTRL (R390). -/
def HMP_FW_CTRL : Reg := ⟨0x10000a00088, 0x0, 0x0, 0x0, 0x0, fun _ => 0x3e8⟩
def HMP_FW_CTRL_FW_TIMEOUT_MS : Field := ⟨HMP_FW_CTRL, 0, 16⟩
def HMP_FW_CTRL_NEXT_SLOT : Field := ⟨HMP_FW_CTRL, 16, 6⟩
/-- HMP_FW_DONE (R390). -/
def HMP_FW_DONE : Reg := ⟨0x10000a00090, 0x0, 0x0, 0x0, 0x0, fun _ => 0x0⟩
def HMP_FW_DONE_SLOT : Field := ⟨HMP_FW_DONE, 0, 6⟩
/-- HMP_SESSIONs_STATE (R390). -/
def HMP_SESSIONs_STATE : Reg := ⟨0x10000a01000, 0x20, 0x0, 0x0, 0x0, fun _ => 0x0⟩
def HMP_SESSIONs_STATE_ID : Field := ⟨HMP_SESSIONs_STATE, 0, 32⟩
def HMP_SESSIONs_STATE_OPEN : Field := ⟨HMP_SESSIONs_STATE, 32, 1⟩
def HMP_SESSIONs_STATE_PORT : Field := ⟨HMP_SESSIONs_STATE, 33, 2⟩
def HMP_SESSIONs_STATE_UDP : Field := ⟨HMP_SESSIONs_STATE, 35, 1⟩
/-- HMP_SESSIONs_SEQ (R390). -/
def HMP_SESSIONs_SEQ : Reg := ⟨0x10000a01008, 0x20, 0x0, 0x0, 0x0, fun _ => 0x0⟩
def HMP_SESSIONs_SEQ_EXPECTED : Field := ⟨HMP_SESSIONs_SEQ, 0, 32⟩
def HMP_SESSIONs_SEQ_IDLE_MS : Field := ⟨HMP_SESSIONs_SEQ, 32, 32⟩
/-- HMP_SESSIONs_CTRL (R390). -/
def HMP_SESSIONs_CTRL : Reg := ⟨0x10000a01010, 0x20, 0x0, 0x0, 0x0, fun _ => 0x0⟩
def HMP_SESSIONs_CTRL_CLOSE : Field := ⟨HMP_SESSIONs_CTRL, 0, 1⟩
/-- ETHn_CTRL (R391). -/
def ETHn_CTRL : Reg := ⟨0x10000b00000, 0x100000, 0x0, 0x0, 0x0, fun _ => 0x3fc20⟩
def ETHn_CTRL_ENABLE : Field := ⟨ETHn_CTRL, 0, 1⟩
def ETHn_CTRL_MODE : Field := ⟨ETHn_CTRL, 1, 2⟩
def ETHn_CTRL_FEC : Field := ⟨ETHn_CTRL, 3, 1⟩
def ETHn_CTRL_JUMBO : Field := ⟨ETHn_CTRL, 4, 1⟩
def ETHn_CTRL_HMP_EN : Field := ⟨ETHn_CTRL, 5, 1⟩
def ETHn_CTRL_REQUIRE_MACSEC : Field := ⟨ETHn_CTRL, 6, 1⟩
def ETHn_CTRL_MACSEC_EN : Field := ⟨ETHn_CTRL, 7, 1⟩
def ETHn_CTRL_PREEMPT_EN : Field := ⟨ETHn_CTRL, 8, 1⟩
def ETHn_CTRL_QBV_EN : Field := ⟨ETHn_CTRL, 9, 1⟩
def ETHn_CTRL_EXPRESS : Field := ⟨ETHn_CTRL, 10, 8⟩
def ETHn_CTRL_ADD_FRAG_SIZE : Field := ⟨ETHn_CTRL, 18, 2⟩
/-- ETHn_STATUS (R391). -/
def ETHn_STATUS : Reg := ⟨0x10000b00008, 0x100000, 0x0, 0x0, 0x0, fun _ => 0x0⟩
def ETHn_STATUS_LINK_UP : Field := ⟨ETHn_STATUS, 0, 1⟩
def ETHn_STATUS_PREEMPT_ACTIVE : Field := ⟨ETHn_STATUS, 1, 1⟩
def ETHn_STATUS_QBV_OPER : Field := ⟨ETHn_STATUS, 2, 1⟩
def ETHn_STATUS_LINK_LOST_SEEN : Field := ⟨ETHn_STATUS, 3, 1⟩
def ETHn_STATUS_QBV_ERROR_SEEN : Field := ⟨ETHn_STATUS, 4, 1⟩
def ETHn_STATUS_PN_THRESHOLD_SEEN : Field := ⟨ETHn_STATUS, 5, 1⟩
def ETHn_STATUS_PN_EXHAUSTED_SEEN : Field := ⟨ETHn_STATUS, 6, 1⟩
/-- ETHn_RX_FRAMES (R391). -/
def ETHn_RX_FRAMES : Reg := ⟨0x10000b00010, 0x100000, 0x0, 0x0, 0x0, fun _ => 0x0⟩
def ETHn_RX_FRAMES_COUNT : Field := ⟨ETHn_RX_FRAMES, 0, 64⟩
/-- ETHn_RX_ERRORS (R391). -/
def ETHn_RX_ERRORS : Reg := ⟨0x10000b00018, 0x100000, 0x0, 0x0, 0x0, fun _ => 0x0⟩
def ETHn_RX_ERRORS_COUNT : Field := ⟨ETHn_RX_ERRORS, 0, 64⟩
/-- ETHn_RX_DROPPED (R391). -/
def ETHn_RX_DROPPED : Reg := ⟨0x10000b00020, 0x100000, 0x0, 0x0, 0x0, fun _ => 0x0⟩
def ETHn_RX_DROPPED_COUNT : Field := ⟨ETHn_RX_DROPPED, 0, 64⟩
/-- ETHn_RX_MACSEC_DROP (R391). -/
def ETHn_RX_MACSEC_DROP : Reg := ⟨0x10000b00028, 0x100000, 0x0, 0x0, 0x0, fun _ => 0x0⟩
def ETHn_RX_MACSEC_DROP_COUNT : Field := ⟨ETHn_RX_MACSEC_DROP, 0, 64⟩
/-- ETHn_RX_QCI_DROP (R391). -/
def ETHn_RX_QCI_DROP : Reg := ⟨0x10000b00030, 0x100000, 0x0, 0x0, 0x0, fun _ => 0x0⟩
def ETHn_RX_QCI_DROP_COUNT : Field := ⟨ETHn_RX_QCI_DROP, 0, 64⟩
/-- ETHn_RX_CB_ELIM (R391). -/
def ETHn_RX_CB_ELIM : Reg := ⟨0x10000b00038, 0x100000, 0x0, 0x0, 0x0, fun _ => 0x0⟩
def ETHn_RX_CB_ELIM_COUNT : Field := ⟨ETHn_RX_CB_ELIM, 0, 64⟩
/-- ETHn_TX_FRAMES (R391). -/
def ETHn_TX_FRAMES : Reg := ⟨0x10000b00040, 0x100000, 0x0, 0x0, 0x0, fun _ => 0x0⟩
def ETHn_TX_FRAMES_COUNT : Field := ⟨ETHn_TX_FRAMES, 0, 64⟩
/-- ETHn_TX_DROPPED (R391). -/
def ETHn_TX_DROPPED : Reg := ⟨0x10000b00048, 0x100000, 0x0, 0x0, 0x0, fun _ => 0x0⟩
def ETHn_TX_DROPPED_COUNT : Field := ⟨ETHn_TX_DROPPED, 0, 64⟩
/-- ETHn_TX_ABORTED (R391). -/
def ETHn_TX_ABORTED : Reg := ⟨0x10000b00050, 0x100000, 0x0, 0x0, 0x0, fun _ => 0x0⟩
def ETHn_TX_ABORTED_COUNT : Field := ⟨ETHn_TX_ABORTED, 0, 64⟩
/-- ETHn_QBV_BASE (R391). -/
def ETHn_QBV_BASE : Reg := ⟨0x10000b00100, 0x100000, 0x0, 0x0, 0x0, fun _ => 0x0⟩
def ETHn_QBV_BASE_SECONDS : Field := ⟨ETHn_QBV_BASE, 0, 48⟩
/-- ETHn_QBV_BASE_NS (R391). -/
def ETHn_QBV_BASE_NS : Reg := ⟨0x10000b00108, 0x100000, 0x0, 0x0, 0x0, fun _ => 0x0⟩
def ETHn_QBV_BASE_NS_NS : Field := ⟨ETHn_QBV_BASE_NS, 0, 30⟩
/-- ETHn_QBV_CYCLE (R391). -/
def ETHn_QBV_CYCLE : Reg := ⟨0x10000b00110, 0x100000, 0x0, 0x0, 0x0, fun _ => 0xf4240⟩
def ETHn_QBV_CYCLE_CYCLE_NS : Field := ⟨ETHn_QBV_CYCLE, 0, 30⟩
/-- ETHn_QBV_LEN (R391). -/
def ETHn_QBV_LEN : Reg := ⟨0x10000b00118, 0x100000, 0x0, 0x0, 0x0, fun _ => 0x1⟩
def ETHn_QBV_LEN_LEN : Field := ⟨ETHn_QBV_LEN, 0, 9⟩
def ETHn_QBV_LEN_COMMIT : Field := ⟨ETHn_QBV_LEN, 16, 1⟩
/-- ETHn_QBV_GCLe (R391). -/
def ETHn_QBV_GCLe : Reg := ⟨0x10000b01000, 0x100000, 0x8, 0x0, 0x0, fun _ => 0xff⟩
def ETHn_QBV_GCLe_GATES : Field := ⟨ETHn_QBV_GCLe, 0, 8⟩
def ETHn_QBV_GCLe_INTERVAL : Field := ⟨ETHn_QBV_GCLe, 8, 24⟩
/-- ETHn_QCI_Fi (R391). -/
def ETHn_QCI_Fi : Reg := ⟨0x10000b02000, 0x100000, 0x10, 0x0, 0x0, fun _ => 0x0⟩
def ETHn_QCI_Fi_DA : Field := ⟨ETHn_QCI_Fi, 0, 48⟩
def ETHn_QCI_Fi_VID : Field := ⟨ETHn_QCI_Fi, 48, 12⟩
def ETHn_QCI_Fi_ENABLE : Field := ⟨ETHn_QCI_Fi, 60, 1⟩
/-- ETHn_QCI_Mi (R391). -/
def ETHn_QCI_Mi : Reg := ⟨0x10000b02008, 0x100000, 0x10, 0x0, 0x0, fun _ => 0x0⟩
def ETHn_QCI_Mi_CIR_MBPS : Field := ⟨ETHn_QCI_Mi, 0, 16⟩
def ETHn_QCI_Mi_CBS_B : Field := ⟨ETHn_QCI_Mi, 16, 24⟩
/-- ETHn_MACSEC_CTRL (R391). -/
def ETHn_MACSEC_CTRL : Reg := ⟨0x10000b03000, 0x100000, 0x0, 0x0, 0x0, fun _ => 0x3⟩
def ETHn_MACSEC_CTRL_ENCRYPT : Field := ⟨ETHn_MACSEC_CTRL, 0, 1⟩
def ETHn_MACSEC_CTRL_VALIDATE_STRICT : Field := ⟨ETHn_MACSEC_CTRL, 1, 1⟩
def ETHn_MACSEC_CTRL_TX_AN : Field := ⟨ETHn_MACSEC_CTRL, 2, 2⟩
/-- ETHn_MACSEC_WINDOW (R391). -/
def ETHn_MACSEC_WINDOW : Reg := ⟨0x10000b03008, 0x100000, 0x0, 0x0, 0x0, fun _ => 0x0⟩
def ETHn_MACSEC_WINDOW_REPLAY_WINDOW : Field := ⟨ETHn_MACSEC_WINDOW, 0, 32⟩
/-- ETHn_MACSEC_TX_SCI (R391). -/
def ETHn_MACSEC_TX_SCI : Reg := ⟨0x10000b03010, 0x100000, 0x0, 0x0, 0x0, fun _ => 0x0⟩
def ETHn_MACSEC_TX_SCI_SCI : Field := ⟨ETHn_MACSEC_TX_SCI, 0, 64⟩
/-- ETHn_MACSEC_TXa_KEYw (R391). -/
def ETHn_MACSEC_TXa_KEYw : Reg := ⟨0x10000b03100, 0x100000, 0x40, 0x8, 0x0, fun _ => 0x0⟩
def ETHn_MACSEC_TXa_KEYw_KEY : Field := ⟨ETHn_MACSEC_TXa_KEYw, 0, 64⟩
/-- ETHn_MACSEC_TXa_PN (R391). -/
def ETHn_MACSEC_TXa_PN : Reg := ⟨0x10000b03120, 0x100000, 0x40, 0x0, 0x0, fun _ => 0x1⟩
def ETHn_MACSEC_TXa_PN_NEXT_PN : Field := ⟨ETHn_MACSEC_TXa_PN, 0, 32⟩
def ETHn_MACSEC_TXa_PN_IN_USE : Field := ⟨ETHn_MACSEC_TXa_PN, 32, 1⟩
/-- ETHn_MACSEC_RXc_SCI (R391). -/
def ETHn_MACSEC_RXc_SCI : Reg := ⟨0x10000b04000, 0x100000, 0x100, 0x0, 0x0, fun _ => 0x0⟩
def ETHn_MACSEC_RXc_SCI_SCI : Field := ⟨ETHn_MACSEC_RXc_SCI, 0, 64⟩
/-- ETHn_MACSEC_RXc_Aa_KEYw (R391). -/
def ETHn_MACSEC_RXc_Aa_KEYw : Reg := ⟨0x10000b04010, 0x100000, 0x100, 0x30, 0x8, fun _ => 0x0⟩
def ETHn_MACSEC_RXc_Aa_KEYw_KEY : Field := ⟨ETHn_MACSEC_RXc_Aa_KEYw, 0, 64⟩
/-- ETHn_MACSEC_RXc_Aa_PN (R391). -/
def ETHn_MACSEC_RXc_Aa_PN : Reg := ⟨0x10000b04030, 0x100000, 0x100, 0x30, 0x0, fun _ => 0x1⟩
def ETHn_MACSEC_RXc_Aa_PN_LOWEST_PN : Field := ⟨ETHn_MACSEC_RXc_Aa_PN, 0, 32⟩
def ETHn_MACSEC_RXc_Aa_PN_IN_USE : Field := ⟨ETHn_MACSEC_RXc_Aa_PN, 32, 1⟩
/-- MGT_CTRL (R392). -/
def MGT_CTRL : Reg := ⟨0x10000d00000, 0x0, 0x0, 0x0, 0x0, fun _ => 0x4⟩
def MGT_CTRL_ENABLE : Field := ⟨MGT_CTRL, 0, 1⟩
def MGT_CTRL_SPEED : Field := ⟨MGT_CTRL, 1, 2⟩
def MGT_CTRL_RX_DELAY : Field := ⟨MGT_CTRL, 3, 1⟩
def MGT_CTRL_TX_DELAY : Field := ⟨MGT_CTRL, 4, 1⟩
def MGT_CTRL_LINK : Field := ⟨MGT_CTRL, 5, 1⟩
/-- MGT_MDIO (R392). -/
def MGT_MDIO : Reg := ⟨0x10000d00008, 0x0, 0x0, 0x0, 0x0, fun _ => 0x0⟩
def MGT_MDIO_REG : Field := ⟨MGT_MDIO, 0, 5⟩
def MGT_MDIO_PHY : Field := ⟨MGT_MDIO, 5, 5⟩
def MGT_MDIO_WRITE : Field := ⟨MGT_MDIO, 10, 1⟩
def MGT_MDIO_GO : Field := ⟨MGT_MDIO, 11, 1⟩
def MGT_MDIO_BUSY : Field := ⟨MGT_MDIO, 12, 1⟩
def MGT_MDIO_DATA : Field := ⟨MGT_MDIO, 16, 16⟩
/-- MGT_RX_FRAMES (R392). -/
def MGT_RX_FRAMES : Reg := ⟨0x10000d00010, 0x0, 0x0, 0x0, 0x0, fun _ => 0x0⟩
def MGT_RX_FRAMES_COUNT : Field := ⟨MGT_RX_FRAMES, 0, 64⟩
/-- MGT_RX_DROPPED (R392). -/
def MGT_RX_DROPPED : Reg := ⟨0x10000d00018, 0x0, 0x0, 0x0, 0x0, fun _ => 0x0⟩
def MGT_RX_DROPPED_COUNT : Field := ⟨MGT_RX_DROPPED, 0, 64⟩
/-- MGT_TX_FRAMES (R392). -/
def MGT_TX_FRAMES : Reg := ⟨0x10000d00020, 0x0, 0x0, 0x0, 0x0, fun _ => 0x0⟩
def MGT_TX_FRAMES_COUNT : Field := ⟨MGT_TX_FRAMES, 0, 64⟩
/-- CSIn_CTRL (R336). -/
def CSIn_CTRL : Reg := ⟨0x10000e00000, 0x100000, 0x0, 0x0, 0x0, fun _ => 0xc⟩
def CSIn_CTRL_ENABLE : Field := ⟨CSIn_CTRL, 0, 1⟩
def CSIn_CTRL_LANES : Field := ⟨CSIn_CTRL, 1, 2⟩
def CSIn_CTRL_DESKEW : Field := ⟨CSIn_CTRL, 3, 1⟩
/-- CSIn_VC_MAP (R336). -/
def CSIn_VC_MAP : Reg := ⟨0x10000e00008, 0x100000, 0x0, 0x0, 0x0, fun _ => 0x3020100⟩
def CSIn_VC_MAP_VC_S0 : Field := ⟨CSIn_VC_MAP, 0, 5⟩
def CSIn_VC_MAP_VC_S1 : Field := ⟨CSIn_VC_MAP, 8, 5⟩
def CSIn_VC_MAP_VC_S2 : Field := ⟨CSIn_VC_MAP, 16, 5⟩
def CSIn_VC_MAP_VC_S3 : Field := ⟨CSIn_VC_MAP, 24, 5⟩
/-- CSIn_STATUS (R336). -/
def CSIn_STATUS : Reg := ⟨0x10000e00010, 0x100000, 0x0, 0x0, 0x0, fun _ => 0x0⟩
def CSIn_STATUS_LINK_ACTIVE : Field := ⟨CSIn_STATUS, 0, 1⟩
def CSIn_STATUS_DESKEW_DONE : Field := ⟨CSIn_STATUS, 1, 1⟩
def CSIn_STATUS_ECC_CORR_SEEN : Field := ⟨CSIn_STATUS, 2, 1⟩
def CSIn_STATUS_ECC_UNCORR_SEEN : Field := ⟨CSIn_STATUS, 3, 1⟩
def CSIn_STATUS_CRC_SEEN : Field := ⟨CSIn_STATUS, 4, 1⟩
def CSIn_STATUS_DROPPED_SEEN : Field := ⟨CSIn_STATUS, 5, 1⟩
def CSIn_STATUS_STORE_FULL_SEEN : Field := ⟨CSIn_STATUS, 6, 1⟩
/-- CSIn_BYTE_CLK_KHZ (R336). -/
def CSIn_BYTE_CLK_KHZ : Reg := ⟨0x10000e00018, 0x100000, 0x0, 0x0, 0x0, fun _ => 0x0⟩
def CSIn_BYTE_CLK_KHZ_BYTE_CLK_KHZ : Field := ⟨CSIn_BYTE_CLK_KHZ, 0, 32⟩
/-- CSIn_ECC_CORR (R336). -/
def CSIn_ECC_CORR : Reg := ⟨0x10000e00020, 0x100000, 0x0, 0x0, 0x0, fun _ => 0x0⟩
def CSIn_ECC_CORR_COUNT : Field := ⟨CSIn_ECC_CORR, 0, 32⟩
/-- CSIn_ECC_UNCORR (R336). -/
def CSIn_ECC_UNCORR : Reg := ⟨0x10000e00028, 0x100000, 0x0, 0x0, 0x0, fun _ => 0x0⟩
def CSIn_ECC_UNCORR_COUNT : Field := ⟨CSIn_ECC_UNCORR, 0, 32⟩
/-- CSIn_CRC_ERR (R336). -/
def CSIn_CRC_ERR : Reg := ⟨0x10000e00030, 0x100000, 0x0, 0x0, 0x0, fun _ => 0x0⟩
def CSIn_CRC_ERR_COUNT : Field := ⟨CSIn_CRC_ERR, 0, 32⟩
/-- CSIn_DROPPED (R336). -/
def CSIn_DROPPED : Reg := ⟨0x10000e00038, 0x100000, 0x0, 0x0, 0x0, fun _ => 0x0⟩
def CSIn_DROPPED_COUNT : Field := ⟨CSIn_DROPPED, 0, 32⟩
/-- ISPn_STATUS (R337). -/
def ISPn_STATUS : Reg := ⟨0x10001200000, 0x100000, 0x0, 0x0, 0x0, fun _ => 0x0⟩
def ISPn_STATUS_BUSY : Field := ⟨ISPn_STATUS, 0, 1⟩
def ISPn_STATUS_PARAM_REJECT_SEEN : Field := ⟨ISPn_STATUS, 1, 1⟩
def ISPn_STATUS_WB_FULL_SEEN : Field := ⟨ISPn_STATUS, 2, 1⟩
def ISPn_STATUS_ECC_SEEN : Field := ⟨ISPn_STATUS, 3, 1⟩
/-- ISPn_PIXELS_IN (R337). -/
def ISPn_PIXELS_IN : Reg := ⟨0x10001200008, 0x100000, 0x0, 0x0, 0x0, fun _ => 0x0⟩
def ISPn_PIXELS_IN_COUNT : Field := ⟨ISPn_PIXELS_IN, 0, 64⟩
/-- ISPn_PIXELS_OUT (R337). -/
def ISPn_PIXELS_OUT : Reg := ⟨0x10001200010, 0x100000, 0x0, 0x0, 0x0, fun _ => 0x0⟩
def ISPn_PIXELS_OUT_COUNT : Field := ⟨ISPn_PIXELS_OUT, 0, 64⟩
/-- ISPn_PARAM_TAG (R337). -/
def ISPn_PARAM_TAG : Reg := ⟨0x10001200020, 0x100000, 0x0, 0x0, 0x0, fun _ => 0x0⟩
def ISPn_PARAM_TAG_FRAME_TAG : Field := ⟨ISPn_PARAM_TAG, 0, 32⟩
/-- ISPn_PARAM_PUSH (R337). -/
def ISPn_PARAM_PUSH : Reg := ⟨0x10001200028, 0x100000, 0x0, 0x0, 0x0, fun _ => 0x0⟩
def ISPn_PARAM_PUSH_HANDLE : Field := ⟨ISPn_PARAM_PUSH, 0, 32⟩
def ISPn_PARAM_PUSH_STREAM : Field := ⟨ISPn_PARAM_PUSH, 32, 2⟩
/-- ISPn_PARAM_RESULT (R337). -/
def ISPn_PARAM_RESULT : Reg := ⟨0x10001200030, 0x100000, 0x0, 0x0, 0x0, fun _ => 0x0⟩
def ISPn_PARAM_RESULT_BUSY : Field := ⟨ISPn_PARAM_RESULT, 0, 1⟩
def ISPn_PARAM_RESULT_STATUS : Field := ⟨ISPn_PARAM_RESULT, 8, 8⟩
def ISPn_PARAM_RESULT_REASON : Field := ⟨ISPn_PARAM_RESULT, 16, 8⟩
/-- ISPn_WB_FILL_MAX_B (R337). -/
def ISPn_WB_FILL_MAX_B : Reg := ⟨0x10001200038, 0x100000, 0x0, 0x0, 0x0, fun _ => 0x0⟩
def ISPn_WB_FILL_MAX_B_FILL_MAX_B : Field := ⟨ISPn_WB_FILL_MAX_B, 0, 32⟩
/-- ISPn_Sv_CTRL (R338). -/
def ISPn_Sv_CTRL : Reg := ⟨0x10001201000, 0x100000, 0x100, 0x0, 0x0, fun _ => 0x0⟩
def ISPn_Sv_CTRL_ENABLE : Field := ⟨ISPn_Sv_CTRL, 0, 1⟩
def ISPn_Sv_CTRL_DONE_EN : Field := ⟨ISPn_Sv_CTRL, 1, 1⟩
def ISPn_Sv_CTRL_DONE_TALLY : Field := ⟨ISPn_Sv_CTRL, 2, 15⟩
def ISPn_Sv_CTRL_TRIG : Field := ⟨ISPn_Sv_CTRL, 17, 3⟩
def ISPn_Sv_CTRL_TRIG_LINK : Field := ⟨ISPn_Sv_CTRL, 20, 1⟩
def ISPn_Sv_CTRL_MAX_FRAME_US : Field := ⟨ISPn_Sv_CTRL, 21, 16⟩
def ISPn_Sv_CTRL_START_WINDOW_US : Field := ⟨ISPn_Sv_CTRL, 37, 16⟩
/-- ISPn_Sv_FORMAT (R338). -/
def ISPn_Sv_FORMAT : Reg := ⟨0x10001201008, 0x100000, 0x100, 0x0, 0x0, fun _ => 0x2c⟩
def ISPn_Sv_FORMAT_DT : Field := ⟨ISPn_Sv_FORMAT, 0, 8⟩
def ISPn_Sv_FORMAT_CFA : Field := ⟨ISPn_Sv_FORMAT, 8, 2⟩
def ISPn_Sv_FORMAT_MONO : Field := ⟨ISPn_Sv_FORMAT, 10, 1⟩
def ISPn_Sv_FORMAT_WIDTH : Field := ⟨ISPn_Sv_FORMAT, 16, 14⟩
def ISPn_Sv_FORMAT_HEIGHT : Field := ⟨ISPn_Sv_FORMAT, 32, 14⟩
/-- ISPn_Sv_OUT (R338). -/
def ISPn_Sv_OUT : Reg := ⟨0x10001201010, 0x100000, 0x100, 0x0, 0x0, fun _ => 0x0⟩
def ISPn_Sv_OUT_OUT_FMT : Field := ⟨ISPn_Sv_OUT, 0, 3⟩
def ISPn_Sv_OUT_TAP : Field := ⟨ISPn_Sv_OUT, 3, 3⟩
def ISPn_Sv_OUT_FX : Field := ⟨ISPn_Sv_OUT, 6, 3⟩
def ISPn_Sv_OUT_FY : Field := ⟨ISPn_Sv_OUT, 9, 3⟩
def ISPn_Sv_OUT_OUT_W : Field := ⟨ISPn_Sv_OUT, 16, 14⟩
def ISPn_Sv_OUT_OUT_H : Field := ⟨ISPn_Sv_OUT, 32, 14⟩
/-- ISPn_Sv_WAY (R338). -/
def ISPn_Sv_WAY : Reg := ⟨0x10001201018, 0x100000, 0x100, 0x0, 0x0, fun _ => 0x0⟩
def ISPn_Sv_WAY_FREE_WAY : Field := ⟨ISPn_Sv_WAY, 0, 16⟩
def ISPn_Sv_WAY_OUT_WAY : Field := ⟨ISPn_Sv_WAY, 16, 16⟩
def ISPn_Sv_WAY_TAP_FREE_WAY : Field := ⟨ISPn_Sv_WAY, 32, 16⟩
def ISPn_Sv_WAY_TAP_OUT_WAY : Field := ⟨ISPn_Sv_WAY, 48, 16⟩
/-- ISPn_Sv_DELAY (R338). -/
def ISPn_Sv_DELAY : Reg := ⟨0x10001201020, 0x100000, 0x100, 0x0, 0x0, fun _ => 0x0⟩
def ISPn_Sv_DELAY_DELAY : Field := ⟨ISPn_Sv_DELAY, 0, 14⟩
/-- ISPn_Sv_VOID_HANDLE (R338). -/
def ISPn_Sv_VOID_HANDLE : Reg := ⟨0x10001201028, 0x100000, 0x100, 0x0, 0x0, fun _ => 0x0⟩
def ISPn_Sv_VOID_HANDLE_HANDLE : Field := ⟨ISPn_Sv_VOID_HANDLE, 0, 32⟩
/-- ISPn_Sv_STATUS (R338). -/
def ISPn_Sv_STATUS : Reg := ⟨0x10001201030, 0x100000, 0x100, 0x0, 0x0, fun _ => 0x0⟩
def ISPn_Sv_STATUS_ENABLED : Field := ⟨ISPn_Sv_STATUS, 0, 1⟩
def ISPn_Sv_STATUS_IN_FRAME : Field := ⟨ISPn_Sv_STATUS, 1, 1⟩
def ISPn_Sv_STATUS_REJECT_SEEN : Field := ⟨ISPn_Sv_STATUS, 2, 1⟩
def ISPn_Sv_STATUS_REJECT_STATUS : Field := ⟨ISPn_Sv_STATUS, 8, 8⟩
def ISPn_Sv_STATUS_REJECT_REASON : Field := ⟨ISPn_Sv_STATUS, 16, 8⟩
def ISPn_Sv_STATUS_LAST_VOID_REASON : Field := ⟨ISPn_Sv_STATUS, 24, 8⟩
/-- ISPn_Sv_BUF (R338). -/
def ISPn_Sv_BUF : Reg := ⟨0x10001201038, 0x100000, 0x100, 0x0, 0x0, fun _ => 0x0⟩
def ISPn_Sv_BUF_BUF_B : Field := ⟨ISPn_Sv_BUF, 0, 32⟩
def ISPn_Sv_BUF_TAP_BUF_B : Field := ⟨ISPn_Sv_BUF, 32, 32⟩
/-- ISPn_Sv_FRAME (R338). -/
def ISPn_Sv_FRAME : Reg := ⟨0x10001201040, 0x100000, 0x100, 0x0, 0x0, fun _ => 0xffffffff⟩
def ISPn_Sv_FRAME_CURRENT : Field := ⟨ISPn_Sv_FRAME, 0, 32⟩
/-- ISPn_Sv_COUNTS (R338). -/
def ISPn_Sv_COUNTS : Reg := ⟨0x10001201048, 0x100000, 0x100, 0x0, 0x0, fun _ => 0x0⟩
def ISPn_Sv_COUNTS_OK : Field := ⟨ISPn_Sv_COUNTS, 0, 16⟩
def ISPn_Sv_COUNTS_VOID : Field := ⟨ISPn_Sv_COUNTS, 16, 16⟩
def ISPn_Sv_COUNTS_NO_BUFFER : Field := ⟨ISPn_Sv_COUNTS, 32, 16⟩
def ISPn_Sv_COUNTS_SKIPPED : Field := ⟨ISPn_Sv_COUNTS, 48, 16⟩
/-- ISPn_Sv_PARAM_COUNTS (R338). -/
def ISPn_Sv_PARAM_COUNTS : Reg := ⟨0x10001201050, 0x100000, 0x100, 0x0, 0x0, fun _ => 0x0⟩
def ISPn_Sv_PARAM_COUNTS_APPLIED : Field := ⟨ISPn_Sv_PARAM_COUNTS, 0, 16⟩
def ISPn_Sv_PARAM_COUNTS_PARAM_LATE : Field := ⟨ISPn_Sv_PARAM_COUNTS, 16, 16⟩
def ISPn_Sv_PARAM_COUNTS_SUPERSEDED : Field := ⟨ISPn_Sv_PARAM_COUNTS, 32, 16⟩
/-- SPX_STATUS (R358). -/
def SPX_STATUS : Reg := ⟨0x10001600000, 0x0, 0x0, 0x0, 0x0, fun _ => 0x0⟩
def SPX_STATUS_BUSY : Field := ⟨SPX_STATUS, 0, 1⟩
def SPX_STATUS_SYNC_ERR_SEEN : Field := ⟨SPX_STATUS, 1, 1⟩
def SPX_STATUS_STORE_FULL_SEEN : Field := ⟨SPX_STATUS, 2, 1⟩
def SPX_STATUS_REJECT_SEEN : Field := ⟨SPX_STATUS, 3, 1⟩
def SPX_STATUS_EXPIRED_SEEN : Field := ⟨SPX_STATUS, 4, 1⟩
/-- SPX_TDMp_CFG (R358). -/
def SPX_TDMp_CFG : Reg := ⟨0x10001600100, 0x10, 0x0, 0x0, 0x0, fun _ => 0xbb80000000ae⟩
def SPX_TDMp_CFG_ENABLE : Field := ⟨SPX_TDMp_CFG, 0, 1⟩
def SPX_TDMp_CFG_SLOTS : Field := ⟨SPX_TDMp_CFG, 1, 3⟩
def SPX_TDMp_CFG_SLOT_BITS : Field := ⟨SPX_TDMp_CFG, 4, 2⟩
def SPX_TDMp_CFG_SAMPLE_BITS : Field := ⟨SPX_TDMp_CFG, 6, 2⟩
def SPX_TDMp_CFG_FS_DELAY : Field := ⟨SPX_TDMp_CFG, 8, 1⟩
def SPX_TDMp_CFG_EDGE : Field := ⟨SPX_TDMp_CFG, 9, 1⟩
def SPX_TDMp_CFG_FS_POL : Field := ⟨SPX_TDMp_CFG, 10, 1⟩
def SPX_TDMp_CFG_RATE_HZ : Field := ⟨SPX_TDMp_CFG, 32, 18⟩
/-- SPX_TDMp_STATUS (R358). -/
def SPX_TDMp_STATUS : Reg := ⟨0x10001600108, 0x10, 0x0, 0x0, 0x0, fun _ => 0x0⟩
def SPX_TDMp_STATUS_LOCKED : Field := ⟨SPX_TDMp_STATUS, 0, 1⟩
def SPX_TDMp_STATUS_RATE_ERR : Field := ⟨SPX_TDMp_STATUS, 1, 1⟩
def SPX_TDMp_STATUS_SYNC_ERRS : Field := ⟨SPX_TDMp_STATUS, 16, 16⟩
def SPX_TDMp_STATUS_MEASURED_HZ : Field := ⟨SPX_TDMp_STATUS, 32, 18⟩
/-- SPX_Ff_CFG (R358). -/
def SPX_Ff_CFG : Reg := ⟨0x10001601000, 0x40, 0x0, 0x0, 0x0, fun _ => 0x100000140⟩
def SPX_Ff_CFG_ENABLE : Field := ⟨SPX_Ff_CFG, 0, 1⟩
def SPX_Ff_CFG_PORT : Field := ⟨SPX_Ff_CFG, 1, 1⟩
def SPX_Ff_CFG_SLOT : Field := ⟨SPX_Ff_CFG, 2, 3⟩
def SPX_Ff_CFG_LOG2_N : Field := ⟨SPX_Ff_CFG, 5, 4⟩
def SPX_Ff_CFG_BANK : Field := ⟨SPX_Ff_CFG, 9, 1⟩
def SPX_Ff_CFG_OUT_FMT : Field := ⟨SPX_Ff_CFG, 10, 1⟩
def SPX_Ff_CFG_EXP : Field := ⟨SPX_Ff_CFG, 11, 5⟩
def SPX_Ff_CFG_Z : Field := ⟨SPX_Ff_CFG, 16, 8⟩
def SPX_Ff_CFG_HOP : Field := ⟨SPX_Ff_CFG, 24, 13⟩
def SPX_Ff_CFG_BANDS : Field := ⟨SPX_Ff_CFG, 37, 9⟩
def SPX_Ff_CFG_FRAMES : Field := ⟨SPX_Ff_CFG, 46, 8⟩
/-- SPX_Ff_TABLES (R358). -/
def SPX_Ff_TABLES : Reg := ⟨0x10001601008, 0x40, 0x0, 0x0, 0x0, fun _ => 0x0⟩
def SPX_Ff_TABLES_WINDOW : Field := ⟨SPX_Ff_TABLES, 0, 32⟩
def SPX_Ff_TABLES_BANK_TABLE : Field := ⟨SPX_Ff_TABLES, 32, 32⟩
/-- SPX_Ff_WAY (R358). -/
def SPX_Ff_WAY : Reg := ⟨0x10001601010, 0x40, 0x0, 0x0, 0x0, fun _ => 0x0⟩
def SPX_Ff_WAY_FREE_WAY : Field := ⟨SPX_Ff_WAY, 0, 16⟩
def SPX_Ff_WAY_OUT_WAY : Field := ⟨SPX_Ff_WAY, 16, 16⟩
def SPX_Ff_WAY_VOID_HANDLE : Field := ⟨SPX_Ff_WAY, 32, 32⟩
/-- SPX_Ff_SCALE (R358). -/
def SPX_Ff_SCALE : Reg := ⟨0x10001601018, 0x40, 0x0, 0x0, 0x0, fun _ => 0x0⟩
def SPX_Ff_SCALE_LOG_SCALE : Field := ⟨SPX_Ff_SCALE, 0, 32⟩
def SPX_Ff_SCALE_FLOOR : Field := ⟨SPX_Ff_SCALE, 32, 32⟩
/-- SPX_Ff_BUDGET (R358). -/
def SPX_Ff_BUDGET : Reg := ⟨0x10001601020, 0x40, 0x0, 0x0, 0x0, fun _ => 0x0⟩
def SPX_Ff_BUDGET_BUDGET_US : Field := ⟨SPX_Ff_BUDGET, 0, 16⟩
/-- SPX_Ff_STATUS (R358). -/
def SPX_Ff_STATUS : Reg := ⟨0x10001601028, 0x40, 0x0, 0x0, 0x0, fun _ => 0x0⟩
def SPX_Ff_STATUS_ENABLED : Field := ⟨SPX_Ff_STATUS, 0, 1⟩
def SPX_Ff_STATUS_REJECT_SEEN : Field := ⟨SPX_Ff_STATUS, 1, 1⟩
def SPX_Ff_STATUS_REJECT_STATUS : Field := ⟨SPX_Ff_STATUS, 8, 8⟩
def SPX_Ff_STATUS_REJECT_REASON : Field := ⟨SPX_Ff_STATUS, 16, 8⟩
def SPX_Ff_STATUS_LAST_VOID_REASON : Field := ⟨SPX_Ff_STATUS, 24, 8⟩
def SPX_Ff_STATUS_BUF_B : Field := ⟨SPX_Ff_STATUS, 32, 32⟩
/-- SPX_Ff_COUNTS (R358). -/
def SPX_Ff_COUNTS : Reg := ⟨0x10001601030, 0x40, 0x0, 0x0, 0x0, fun _ => 0x0⟩
def SPX_Ff_COUNTS_OK : Field := ⟨SPX_Ff_COUNTS, 0, 16⟩
def SPX_Ff_COUNTS_VOID : Field := ⟨SPX_Ff_COUNTS, 16, 16⟩
def SPX_Ff_COUNTS_EXPIRED : Field := ⟨SPX_Ff_COUNTS, 32, 16⟩
def SPX_Ff_COUNTS_NO_BUFFER : Field := ⟨SPX_Ff_COUNTS, 48, 16⟩
/-- VCD_STATUS (R359). -/
def VCD_STATUS : Reg := ⟨0x10001700000, 0x0, 0x0, 0x0, 0x0, fun _ => 0x0⟩
def VCD_STATUS_BUSY : Field := ⟨VCD_STATUS, 0, 1⟩
def VCD_STATUS_REJECT_SEEN : Field := ⟨VCD_STATUS, 1, 1⟩
def VCD_STATUS_EXPIRED_SEEN : Field := ⟨VCD_STATUS, 2, 1⟩
def VCD_STATUS_ECC_SEEN : Field := ⟨VCD_STATUS, 3, 1⟩
/-- VCD_LUMA_DECODED (R359). -/
def VCD_LUMA_DECODED : Reg := ⟨0x10001700008, 0x0, 0x0, 0x0, 0x0, fun _ => 0x0⟩
def VCD_LUMA_DECODED_COUNT : Field := ⟨VCD_LUMA_DECODED, 0, 64⟩
/-- VCD_Sn_CTRL (R359). -/
def VCD_Sn_CTRL : Reg := ⟨0x10001701000, 0x40, 0x0, 0x0, 0x0, fun _ => 0x0⟩
def VCD_Sn_CTRL_OPEN : Field := ⟨VCD_Sn_CTRL, 0, 1⟩
def VCD_Sn_CTRL_KIND : Field := ⟨VCD_Sn_CTRL, 1, 2⟩
/-- VCD_Sn_PARAM (R359). -/
def VCD_Sn_PARAM : Reg := ⟨0x10001701008, 0x40, 0x0, 0x0, 0x0, fun _ => 0x0⟩
def VCD_Sn_PARAM_HANDLE : Field := ⟨VCD_Sn_PARAM, 0, 32⟩
/-- VCD_Sn_WAY (R359). -/
def VCD_Sn_WAY : Reg := ⟨0x10001701010, 0x40, 0x0, 0x0, 0x0, fun _ => 0x0⟩
def VCD_Sn_WAY_IN_WAY : Field := ⟨VCD_Sn_WAY, 0, 16⟩
def VCD_Sn_WAY_IN_FREE_WAY : Field := ⟨VCD_Sn_WAY, 16, 16⟩
def VCD_Sn_WAY_FREE_WAY : Field := ⟨VCD_Sn_WAY, 32, 16⟩
def VCD_Sn_WAY_OUT_WAY : Field := ⟨VCD_Sn_WAY, 48, 16⟩
/-- VCD_Sn_VOID (R359). -/
def VCD_Sn_VOID : Reg := ⟨0x10001701018, 0x40, 0x0, 0x0, 0x0, fun _ => 0x0⟩
def VCD_Sn_VOID_VOID_HANDLE : Field := ⟨VCD_Sn_VOID, 0, 32⟩
def VCD_Sn_VOID_BUDGET_US : Field := ⟨VCD_Sn_VOID, 32, 16⟩
/-- VCD_Sn_STATUS (R359). -/
def VCD_Sn_STATUS : Reg := ⟨0x10001701020, 0x40, 0x0, 0x0, 0x0, fun _ => 0x0⟩
def VCD_Sn_STATUS_IS_OPEN : Field := ⟨VCD_Sn_STATUS, 0, 1⟩
def VCD_Sn_STATUS_REJECT_SEEN : Field := ⟨VCD_Sn_STATUS, 1, 1⟩
def VCD_Sn_STATUS_WAIT_IRAP : Field := ⟨VCD_Sn_STATUS, 2, 1⟩
def VCD_Sn_STATUS_REJECT_STATUS : Field := ⟨VCD_Sn_STATUS, 8, 8⟩
def VCD_Sn_STATUS_REJECT_REASON : Field := ⟨VCD_Sn_STATUS, 16, 8⟩
def VCD_Sn_STATUS_LAST_VOID_REASON : Field := ⟨VCD_Sn_STATUS, 24, 8⟩
def VCD_Sn_STATUS_AVG_NS : Field := ⟨VCD_Sn_STATUS, 32, 32⟩
/-- VCD_Sn_BUF (R359). -/
def VCD_Sn_BUF : Reg := ⟨0x10001701028, 0x40, 0x0, 0x0, 0x0, fun _ => 0x0⟩
def VCD_Sn_BUF_BUF_B : Field := ⟨VCD_Sn_BUF, 0, 32⟩
def VCD_Sn_BUF_REF_B : Field := ⟨VCD_Sn_BUF, 32, 32⟩
/-- VCD_Sn_COUNTS (R359). -/
def VCD_Sn_COUNTS : Reg := ⟨0x10001701030, 0x40, 0x0, 0x0, 0x0, fun _ => 0x0⟩
def VCD_Sn_COUNTS_OK : Field := ⟨VCD_Sn_COUNTS, 0, 16⟩
def VCD_Sn_COUNTS_VOID : Field := ⟨VCD_Sn_COUNTS, 16, 16⟩
def VCD_Sn_COUNTS_EXPIRED : Field := ⟨VCD_Sn_COUNTS, 32, 16⟩
def VCD_Sn_COUNTS_REJECTED : Field := ⟨VCD_Sn_COUNTS, 48, 16⟩
/-- QM_STATUS (R252). -/
def QM_STATUS : Reg := ⟨0x10001800000, 0x0, 0x0, 0x0, 0x0, fun _ => 0x0⟩
def QM_STATUS_COMPL_STALL_SEEN : Field := ⟨QM_STATUS, 0, 1⟩
def QM_STATUS_MALFORMED_SEEN : Field := ⟨QM_STATUS, 1, 1⟩
def QM_STATUS_NOTIFY_PENDING : Field := ⟨QM_STATUS, 2, 1⟩
/-- QM_FETCHED (R252). -/
def QM_FETCHED : Reg := ⟨0x10001800008, 0x0, 0x0, 0x0, 0x0, fun _ => 0x0⟩
def QM_FETCHED_COUNT : Field := ⟨QM_FETCHED, 0, 64⟩
/-- QM_RETIRED (R252). -/
def QM_RETIRED : Reg := ⟨0x10001800010, 0x0, 0x0, 0x0, 0x0, fun _ => 0x0⟩
def QM_RETIRED_COUNT : Field := ⟨QM_RETIRED, 0, 64⟩
/-- QM_MALFORMED (R252). -/
def QM_MALFORMED : Reg := ⟨0x10001800018, 0x0, 0x0, 0x0, 0x0, fun _ => 0x0⟩
def QM_MALFORMED_COUNT : Field := ⟨QM_MALFORMED, 0, 32⟩
/-- QM_REFUSED (R252). -/
def QM_REFUSED : Reg := ⟨0x10001800020, 0x0, 0x0, 0x0, 0x0, fun _ => 0x0⟩
def QM_REFUSED_COUNT : Field := ⟨QM_REFUSED, 0, 32⟩
/-- QM_STAGEs_DATAw (R252). -/
def QM_STAGEs_DATAw : Reg := ⟨0x10001801000, 0x80, 0x8, 0x0, 0x0, fun _ => 0x0⟩
def QM_STAGEs_DATAw_DATA : Field := ⟨QM_STAGEs_DATAw, 0, 64⟩
/-- QM_STAGEs_PUSH (R252). -/
def QM_STAGEs_PUSH : Reg := ⟨0x10001801040, 0x80, 0x0, 0x0, 0x0, fun _ => 0x0⟩
def QM_STAGEs_PUSH_QUEUE : Field := ⟨QM_STAGEs_PUSH, 0, 16⟩
def QM_STAGEs_PUSH_RESULT : Field := ⟨QM_STAGEs_PUSH, 16, 8⟩
/-- QM_WAY_PUT (R272). -/
def QM_WAY_PUT : Reg := ⟨0x10001802000, 0x0, 0x0, 0x0, 0x0, fun _ => 0x0⟩
def QM_WAY_PUT_HANDLE : Field := ⟨QM_WAY_PUT, 0, 32⟩
def QM_WAY_PUT_STATUS : Field := ⟨QM_WAY_PUT, 32, 8⟩
def QM_WAY_PUT_WAYSTATION : Field := ⟨QM_WAY_PUT, 48, 16⟩
/-- QM_MODEL_BASE (R316). -/
def QM_MODEL_BASE : Reg := ⟨0x10001803000, 0x0, 0x0, 0x0, 0x0, fun _ => 0x0⟩
def QM_MODEL_BASE_BASE : Field := ⟨QM_MODEL_BASE, 12, 23⟩
/-- QM_MBX_BASE (R316). -/
def QM_MBX_BASE : Reg := ⟨0x10001803008, 0x0, 0x0, 0x0, 0x0, fun _ => 0x0⟩
def QM_MBX_BASE_BASE : Field := ⟨QM_MBX_BASE, 12, 23⟩
/-- QM_CORE_AVAIL (R316). -/
def QM_CORE_AVAIL : Reg := ⟨0x10001803010, 0x0, 0x0, 0x0, 0x0, fun _ => 0xff⟩
def QM_CORE_AVAIL_AVAIL : Field := ⟨QM_CORE_AVAIL, 0, 8⟩
def QM_CORE_AVAIL_OCCUPIED : Field := ⟨QM_CORE_AVAIL, 8, 8⟩
/-- QM_COMMIT_BASE (R316). -/
def QM_COMMIT_BASE : Reg := ⟨0x10001803018, 0x0, 0x0, 0x0, 0x0, fun _ => 0x4000000000⟩
def QM_COMMIT_BASE_BASE : Field := ⟨QM_COMMIT_BASE, 6, 29⟩
def QM_COMMIT_BASE_SIZE_LOG2 : Field := ⟨QM_COMMIT_BASE, 35, 5⟩
def QM_COMMIT_BASE_ENABLE : Field := ⟨QM_COMMIT_BASE, 40, 1⟩
/-- QM_COMMIT_NEXT (R316). -/
def QM_COMMIT_NEXT : Reg := ⟨0x10001803020, 0x0, 0x0, 0x0, 0x0, fun _ => 0x0⟩
def QM_COMMIT_NEXT_INDEX : Field := ⟨QM_COMMIT_NEXT, 0, 32⟩
/-- QM_KILL (R316). -/
def QM_KILL : Reg := ⟨0x10001803028, 0x0, 0x0, 0x0, 0x0, fun _ => 0x0⟩
def QM_KILL_CARAVAN_ID : Field := ⟨QM_KILL, 0, 32⟩
def QM_KILL_RESULT : Field := ⟨QM_KILL, 32, 2⟩
/-- QM_PLACEMENTS (R316). -/
def QM_PLACEMENTS : Reg := ⟨0x10001803030, 0x0, 0x0, 0x0, 0x0, fun _ => 0x0⟩
def QM_PLACEMENTS_COUNT : Field := ⟨QM_PLACEMENTS, 0, 64⟩
/-- QM_SWITCH_B (R316). -/
def QM_SWITCH_B : Reg := ⟨0x10001803038, 0x0, 0x0, 0x0, 0x0, fun _ => 0x0⟩
def QM_SWITCH_B_COUNT : Field := ⟨QM_SWITCH_B, 0, 64⟩
/-- QM_KILLS (R316). -/
def QM_KILLS : Reg := ⟨0x10001803040, 0x0, 0x0, 0x0, 0x0, fun _ => 0x0⟩
def QM_KILLS_COUNT : Field := ⟨QM_KILLS, 0, 32⟩
/-- QM_ROLLBACKS (R316). -/
def QM_ROLLBACKS : Reg := ⟨0x10001803048, 0x0, 0x0, 0x0, 0x0, fun _ => 0x0⟩
def QM_ROLLBACKS_COUNT : Field := ⟨QM_ROLLBACKS, 0, 32⟩
/-- QM_REQ_FAILED (R316). -/
def QM_REQ_FAILED : Reg := ⟨0x10001803050, 0x0, 0x0, 0x0, 0x0, fun _ => 0x0⟩
def QM_REQ_FAILED_COUNT : Field := ⟨QM_REQ_FAILED, 0, 32⟩
/-- QM_SWITCH_LAST (R316). -/
def QM_SWITCH_LAST : Reg := ⟨0x10001803058, 0x0, 0x0, 0x0, 0x0, fun _ => 0x0⟩
def QM_SWITCH_LAST_MOVED_B : Field := ⟨QM_SWITCH_LAST, 0, 32⟩
def QM_SWITCH_LAST_TIME_NS : Field := ⟨QM_SWITCH_LAST, 32, 32⟩
/-- QM_MBX_CLAIMk (R317). -/
def QM_MBX_CLAIMk : Reg := ⟨0x10001803100, 0x10, 0x0, 0x0, 0x0, fun _ => 0x0⟩
def QM_MBX_CLAIMk_MAILBOX : Field := ⟨QM_MBX_CLAIMk, 0, 12⟩
def QM_MBX_CLAIMk_WANT : Field := ⟨QM_MBX_CLAIMk, 32, 32⟩
/-- QM_MBX_CLAIMk_RESULT (R317). -/
def QM_MBX_CLAIMk_RESULT : Reg := ⟨0x10001803108, 0x10, 0x0, 0x0, 0x0, fun _ => 0x0⟩
def QM_MBX_CLAIMk_RESULT_SEQ : Field := ⟨QM_MBX_CLAIMk_RESULT, 0, 32⟩
def QM_MBX_CLAIMk_RESULT_STATUS : Field := ⟨QM_MBX_CLAIMk_RESULT, 32, 8⟩
def QM_MBX_CLAIMk_RESULT_SEEN : Field := ⟨QM_MBX_CLAIMk_RESULT, 40, 1⟩
def QM_MBX_CLAIMk_RESULT_OVERTAKEN : Field := ⟨QM_MBX_CLAIMk_RESULT, 41, 1⟩
def QM_MBX_CLAIMk_RESULT_PENDING : Field := ⟨QM_MBX_CLAIMk_RESULT, 42, 1⟩
def QM_MBX_CLAIMk_RESULT_HALF : Field := ⟨QM_MBX_CLAIMk_RESULT, 43, 1⟩
/-- QM_MBXm_CFG (R318). -/
def QM_MBXm_CFG : Reg := ⟨0x10001810000, 0x10, 0x0, 0x0, 0x0, fun _ => 0x0⟩
def QM_MBXm_CFG_PARTS : Field := ⟨QM_MBXm_CFG, 0, 4⟩
def QM_MBXm_CFG_PART_STRIDE : Field := ⟨QM_MBXm_CFG, 4, 13⟩
def QM_MBXm_CFG_ENABLE : Field := ⟨QM_MBXm_CFG, 17, 1⟩
def QM_MBXm_CFG_CANCEL : Field := ⟨QM_MBXm_CFG, 18, 1⟩
/-- QM_MBXm_STATE (R318). -/
def QM_MBXm_STATE : Reg := ⟨0x10001810008, 0x10, 0x0, 0x0, 0x0, fun _ => 0x0⟩
def QM_MBXm_STATE_SEQ : Field := ⟨QM_MBXm_STATE, 0, 32⟩
def QM_MBXm_STATE_STATE : Field := ⟨QM_MBXm_STATE, 32, 2⟩
def QM_MBXm_STATE_SEEN : Field := ⟨QM_MBXm_STATE, 34, 1⟩
def QM_MBXm_STATE_HALF : Field := ⟨QM_MBXm_STATE, 35, 1⟩
def QM_MBXm_STATE_BEGUN : Field := ⟨QM_MBXm_STATE, 36, 16⟩
/-- QM_WAYw_TAKE (R272). -/
def QM_WAYw_TAKE : Reg := ⟨0x10001880000, 0x8, 0x0, 0x0, 0x0, fun _ => 0x0⟩
def QM_WAYw_TAKE_HANDLE : Field := ⟨QM_WAYw_TAKE, 0, 32⟩
def QM_WAYw_TAKE_STATUS : Field := ⟨QM_WAYw_TAKE, 32, 8⟩
def QM_WAYw_TAKE_VALID : Field := ⟨QM_WAYw_TAKE, 40, 8⟩
def QM_WAYw_TAKE_SEQ : Field := ⟨QM_WAYw_TAKE, 48, 16⟩
/-- QM_Qq_BASE (R253). -/
def QM_Qq_BASE : Reg := ⟨0x10001900000, 0x40, 0x0, 0x0, 0x0, fun _ => 0x0⟩
def QM_Qq_BASE_BASE : Field := ⟨QM_Qq_BASE, 6, 29⟩
/-- QM_Qq_CFG (R253). -/
def QM_Qq_CFG : Reg := ⟨0x10001900008, 0x40, 0x0, 0x0, 0x0, fun _ => 0x4⟩
def QM_Qq_CFG_SIZE_LOG2 : Field := ⟨QM_Qq_CFG, 0, 5⟩
def QM_Qq_CFG_KIND : Field := ⟨QM_Qq_CFG, 5, 2⟩
def QM_Qq_CFG_ENABLE : Field := ⟨QM_Qq_CFG, 7, 1⟩
def QM_Qq_CFG_COMPL_QUEUE : Field := ⟨QM_Qq_CFG, 8, 16⟩
def QM_Qq_CFG_PUSH_LIMIT : Field := ⟨QM_Qq_CFG, 24, 16⟩
/-- QM_Qq_HEAD (R253). -/
def QM_Qq_HEAD : Reg := ⟨0x10001900010, 0x40, 0x0, 0x0, 0x0, fun _ => 0x0⟩
def QM_Qq_HEAD_INDEX : Field := ⟨QM_Qq_HEAD, 0, 32⟩
/-- QM_Qq_TAIL (R253). -/
def QM_Qq_TAIL : Reg := ⟨0x10001900018, 0x40, 0x0, 0x0, 0x0, fun _ => 0x0⟩
def QM_Qq_TAIL_INDEX : Field := ⟨QM_Qq_TAIL, 0, 32⟩
/-- QM_Qq_PROGRESS (R253). -/
def QM_Qq_PROGRESS : Reg := ⟨0x10001900020, 0x40, 0x0, 0x0, 0x0, fun _ => 0x0⟩
def QM_Qq_PROGRESS_FETCH : Field := ⟨QM_Qq_PROGRESS, 0, 32⟩
def QM_Qq_PROGRESS_RETIRED : Field := ⟨QM_Qq_PROGRESS, 32, 32⟩
/-- QM_Qq_STATUS (R253). -/
def QM_Qq_STATUS : Reg := ⟨0x10001900028, 0x40, 0x0, 0x0, 0x0, fun _ => 0x0⟩
def QM_Qq_STATUS_HALTED : Field := ⟨QM_Qq_STATUS, 0, 1⟩
def QM_Qq_STATUS_DRAINED : Field := ⟨QM_Qq_STATUS, 1, 1⟩
def QM_Qq_STATUS_HALT_CAUSE : Field := ⟨QM_Qq_STATUS, 2, 2⟩
def QM_Qq_STATUS_BREAK_HIT : Field := ⟨QM_Qq_STATUS, 4, 1⟩
def QM_Qq_STATUS_STALLED : Field := ⟨QM_Qq_STATUS, 5, 1⟩
def QM_Qq_STATUS_NOTIFY_PENDING : Field := ⟨QM_Qq_STATUS, 6, 1⟩
def QM_Qq_STATUS_LAST_PUSH : Field := ⟨QM_Qq_STATUS, 8, 8⟩
def QM_Qq_STATUS_REFUSED : Field := ⟨QM_Qq_STATUS, 16, 16⟩
/-- QM_Qq_CTRL (R253). -/
def QM_Qq_CTRL : Reg := ⟨0x10001900030, 0x40, 0x0, 0x0, 0x0, fun _ => 0x0⟩
def QM_Qq_CTRL_STOP : Field := ⟨QM_Qq_CTRL, 0, 1⟩
def QM_Qq_CTRL_RESUME : Field := ⟨QM_Qq_CTRL, 1, 1⟩
def QM_Qq_CTRL_RESET_INDEX : Field := ⟨QM_Qq_CTRL, 2, 1⟩
/-- QM_Qq_BREAK (R253). -/
def QM_Qq_BREAK : Reg := ⟨0x10001900038, 0x40, 0x0, 0x0, 0x0, fun _ => 0x0⟩
def QM_Qq_BREAK_RETIRED_AT : Field := ⟨QM_Qq_BREAK, 0, 32⟩
def QM_Qq_BREAK_TAG : Field := ⟨QM_Qq_BREAK, 32, 16⟩
def QM_Qq_BREAK_ON_RETIRED : Field := ⟨QM_Qq_BREAK, 48, 1⟩
def QM_Qq_BREAK_ON_TAG : Field := ⟨QM_Qq_BREAK, 49, 1⟩
/-- TLY_t_COUNT (R254). -/
def TLY_t_COUNT : Reg := ⟨0x10001d00000, 0x8, 0x0, 0x0, 0x0, fun _ => 0x0⟩
def TLY_t_COUNT_COUNT : Field := ⟨TLY_t_COUNT, 0, 32⟩
/-- TLY_t_ADD (R254). -/
def TLY_t_ADD : Reg := ⟨0x10001e00000, 0x8, 0x0, 0x0, 0x0, fun _ => 0x0⟩
def TLY_t_ADD_INC : Field := ⟨TLY_t_ADD, 0, 16⟩
/-- TLY_STATUS (R254). -/
def TLY_STATUS : Reg := ⟨0x10001d80000, 0x0, 0x0, 0x0, 0x0, fun _ => 0x0⟩
def TLY_STATUS_SET_WITH_WAITERS : Field := ⟨TLY_STATUS, 0, 1⟩
/-- TLY_SET (R254). -/
def TLY_SET : Reg := ⟨0x10001d80008, 0x0, 0x0, 0x0, 0x0, fun _ => 0x0⟩
def TLY_SET_TALLY : Field := ⟨TLY_SET, 0, 16⟩
def TLY_SET_VALUE : Field := ⟨TLY_SET, 32, 32⟩
/-- TLY_SIGNALS (R254). -/
def TLY_SIGNALS : Reg := ⟨0x10001d80010, 0x0, 0x0, 0x0, 0x0, fun _ => 0x0⟩
def TLY_SIGNALS_COUNT : Field := ⟨TLY_SIGNALS, 0, 64⟩
/-- TLY_WAITING (R254). -/
def TLY_WAITING : Reg := ⟨0x10001d80018, 0x0, 0x0, 0x0, 0x0, fun _ => 0x0⟩
def TLY_WAITING_COUNT : Field := ⟨TLY_WAITING, 0, 16⟩
/-- CORE_ARRAYS_PRESENT (R98). -/
def CORE_ARRAYS_PRESENT : Reg := ⟨0x10200000008, 0x1000000, 0x0, 0x0, 0x0, fun _ => 0x0⟩
def CORE_ARRAYS_PRESENT_MXA0 : Field := ⟨CORE_ARRAYS_PRESENT, 0, 1⟩
def CORE_ARRAYS_PRESENT_MXA1 : Field := ⟨CORE_ARRAYS_PRESENT, 1, 1⟩
/-- CORE_SP_GEOMETRY (R128). -/
def CORE_SP_GEOMETRY : Reg := ⟨0x10200000010, 0x1000000, 0x0, 0x0, 0x0, fun _ => 0x0⟩
def CORE_SP_GEOMETRY_WSP_BANKS : Field := ⟨CORE_SP_GEOMETRY, 0, 9⟩
def CORE_SP_GEOMETRY_ASP_BANKS : Field := ⟨CORE_SP_GEOMETRY, 9, 9⟩
def CORE_SP_GEOMETRY_PSP_BANKS : Field := ⟨CORE_SP_GEOMETRY, 18, 9⟩
def CORE_SP_GEOMETRY_WSP_ROWS : Field := ⟨CORE_SP_GEOMETRY, 32, 10⟩
def CORE_SP_GEOMETRY_ASP_ROWS : Field := ⟨CORE_SP_GEOMETRY, 42, 10⟩
def CORE_SP_GEOMETRY_PSP_ROWS : Field := ⟨CORE_SP_GEOMETRY, 52, 10⟩
/-- CORE_TASKn_BASE (R144). -/
def CORE_TASKn_BASE : Reg := ⟨0x10200000100, 0x1000000, 0x10, 0x0, 0x0, fun _ => 0x0⟩
def CORE_TASKn_BASE_WSP_ROW : Field := ⟨CORE_TASKn_BASE, 0, 20⟩
def CORE_TASKn_BASE_ASP_ROW : Field := ⟨CORE_TASKn_BASE, 20, 20⟩
def CORE_TASKn_BASE_PSP_ROW : Field := ⟨CORE_TASKn_BASE, 40, 20⟩
/-- CORE_TASKn_BOUND (R144). -/
def CORE_TASKn_BOUND : Reg := ⟨0x10200000108, 0x1000000, 0x10, 0x0, 0x0, fun _ => 0x0⟩
def CORE_TASKn_BOUND_WSP_ROW : Field := ⟨CORE_TASKn_BOUND, 0, 20⟩
def CORE_TASKn_BOUND_ASP_ROW : Field := ⟨CORE_TASKn_BOUND, 20, 20⟩
def CORE_TASKn_BOUND_PSP_ROW : Field := ⟨CORE_TASKn_BOUND, 40, 20⟩
def CORE_TASKn_BOUND_ENABLE : Field := ⟨CORE_TASKn_BOUND, 63, 1⟩
/-- CORE_TASK_CURRENT (R151). -/
def CORE_TASK_CURRENT : Reg := ⟨0x10200000200, 0x1000000, 0x0, 0x0, 0x0, fun _ => 0x0⟩
def CORE_TASK_CURRENT_TASK : Field := ⟨CORE_TASK_CURRENT, 0, 4⟩
/-- CORE_TASK_RELEASE (R151). -/
def CORE_TASK_RELEASE : Reg := ⟨0x10200000208, 0x1000000, 0x0, 0x0, 0x0, fun _ => 0x0⟩
def CORE_TASK_RELEASE_RELEASE : Field := ⟨CORE_TASK_RELEASE, 0, 16⟩
/-- CORE_TASK_ZEROING (R151). -/
def CORE_TASK_ZEROING : Reg := ⟨0x10200000210, 0x1000000, 0x0, 0x0, 0x0, fun _ => 0x0⟩
def CORE_TASK_ZEROING_ZEROING : Field := ⟨CORE_TASK_ZEROING, 0, 16⟩
/-- CORE_LOCK_STATUS (R125). -/
def CORE_LOCK_STATUS : Reg := ⟨0x10200000400, 0x1000000, 0x0, 0x0, 0x0, fun _ => 0x0⟩
def CORE_LOCK_STATUS_IN_GROUP : Field := ⟨CORE_LOCK_STATUS, 0, 1⟩
def CORE_LOCK_STATUS_SKEW_SEEN : Field := ⟨CORE_LOCK_STATUS, 1, 1⟩
def CORE_LOCK_STATUS_OVERRUN_SEEN : Field := ⟨CORE_LOCK_STATUS, 2, 1⟩
def CORE_LOCK_STATUS_REJECT_SEEN : Field := ⟨CORE_LOCK_STATUS, 3, 1⟩
def CORE_LOCK_STATUS_SLIP_SEEN : Field := ⟨CORE_LOCK_STATUS, 4, 1⟩
/-- CORE_LOCK_CYCLE (R125). -/
def CORE_LOCK_CYCLE : Reg := ⟨0x10200000408, 0x1000000, 0x0, 0x0, 0x0, fun _ => 0x0⟩
def CORE_LOCK_CYCLE_GROUP_CYCLE : Field := ⟨CORE_LOCK_CYCLE, 0, 32⟩
/-- CORE_LOCK_GROUPS (R125). -/
def CORE_LOCK_GROUPS : Reg := ⟨0x10200000410, 0x1000000, 0x0, 0x0, 0x0, fun _ => 0x0⟩
def CORE_LOCK_GROUPS_COUNT : Field := ⟨CORE_LOCK_GROUPS, 0, 32⟩
/-- CORE_LOCK_SKEWS (R125). -/
def CORE_LOCK_SKEWS : Reg := ⟨0x10200000418, 0x1000000, 0x0, 0x0, 0x0, fun _ => 0x0⟩
def CORE_LOCK_SKEWS_COUNT : Field := ⟨CORE_LOCK_SKEWS, 0, 32⟩
/-- CORE_LOCK_SLIPS (R125). -/
def CORE_LOCK_SLIPS : Reg := ⟨0x10200000420, 0x1000000, 0x0, 0x0, 0x0, fun _ => 0x0⟩
def CORE_LOCK_SLIPS_COUNT : Field := ⟨CORE_LOCK_SLIPS, 0, 32⟩
/-- CORE_LOCK_FIRST_SKEW (R125). -/
def CORE_LOCK_FIRST_SKEW : Reg := ⟨0x10200000428, 0x1000000, 0x0, 0x0, 0x0, fun _ => 0x0⟩
def CORE_LOCK_FIRST_SKEW_TAG : Field := ⟨CORE_LOCK_FIRST_SKEW, 0, 16⟩
def CORE_LOCK_FIRST_SKEW_GROUP_CYCLE : Field := ⟨CORE_LOCK_FIRST_SKEW, 16, 32⟩
def CORE_LOCK_FIRST_SKEW_ENGINE : Field := ⟨CORE_LOCK_FIRST_SKEW, 48, 5⟩
def CORE_LOCK_FIRST_SKEW_VALID : Field := ⟨CORE_LOCK_FIRST_SKEW, 63, 1⟩
/-- MXAn_STATUS (R101). -/
def MXAn_STATUS : Reg := ⟨0x10200010000, 0x1000000, 0x10000, 0x0, 0x0, fun _ => 0x0⟩
def MXAn_STATUS_BUSY : Field := ⟨MXAn_STATUS, 0, 1⟩
def MXAn_STATUS_MODE : Field := ⟨MXAn_STATUS, 1, 2⟩
def MXAn_STATUS_PARITY_SEEN : Field := ⟨MXAn_STATUS, 3, 1⟩
def MXAn_STATUS_ACC_CORRECTED : Field := ⟨MXAn_STATUS, 4, 1⟩
def MXAn_STATUS_ACC_UNCORRECTED : Field := ⟨MXAn_STATUS, 5, 1⟩
def MXAn_STATUS_SCALE_FAULT_SEEN : Field := ⟨MXAn_STATUS, 6, 1⟩
def MXAn_STATUS_SPAN_BUSY : Field := ⟨MXAn_STATUS, 16, 8⟩
/-- MXAn_INSTR_COUNT (R101). -/
def MXAn_INSTR_COUNT : Reg := ⟨0x10200010008, 0x1000000, 0x10000, 0x0, 0x0, fun _ => 0x0⟩
def MXAn_INSTR_COUNT_COUNT : Field := ⟨MXAn_INSTR_COUNT, 0, 32⟩
/-- MXAn_BUSY_ARRC (R101). -/
def MXAn_BUSY_ARRC : Reg := ⟨0x10200010010, 0x1000000, 0x10000, 0x0, 0x0, fun _ => 0x0⟩
def MXAn_BUSY_ARRC_BUSY_ARRC : Field := ⟨MXAn_BUSY_ARRC, 0, 64⟩
/-- MXAn_TERMS (R101). -/
def MXAn_TERMS : Reg := ⟨0x10200010018, 0x1000000, 0x10000, 0x0, 0x0, fun _ => 0x0⟩
def MXAn_TERMS_TERMS : Field := ⟨MXAn_TERMS, 0, 64⟩
/-- MXAn_FLUSH_SLOTS (R101). -/
def MXAn_FLUSH_SLOTS : Reg := ⟨0x10200010020, 0x1000000, 0x10000, 0x0, 0x0, fun _ => 0x0⟩
def MXAn_FLUSH_SLOTS_SLOTS : Field := ⟨MXAn_FLUSH_SLOTS, 0, 64⟩
/-- MVP_STATUS (R102). -/
def MVP_STATUS : Reg := ⟨0x10200030000, 0x1000000, 0x0, 0x0, 0x0, fun _ => 0x0⟩
def MVP_STATUS_BUSY : Field := ⟨MVP_STATUS, 0, 1⟩
def MVP_STATUS_SAT_SEEN : Field := ⟨MVP_STATUS, 1, 1⟩
/-- MVP_ROWS (R102). -/
def MVP_ROWS : Reg := ⟨0x10200030008, 0x1000000, 0x0, 0x0, 0x0, fun _ => 0x0⟩
def MVP_ROWS_COUNT : Field := ⟨MVP_ROWS, 0, 32⟩
/-- MVP_SAT_ROWS (R102). -/
def MVP_SAT_ROWS : Reg := ⟨0x10200030010, 0x1000000, 0x0, 0x0, 0x0, fun _ => 0x0⟩
def MVP_SAT_ROWS_COUNT : Field := ⟨MVP_SAT_ROWS, 0, 32⟩
/-- WIN_STATUS (R187). -/
def WIN_STATUS : Reg := ⟨0x10200040000, 0x1000000, 0x0, 0x0, 0x0, fun _ => 0x0⟩
def WIN_STATUS_BUSY : Field := ⟨WIN_STATUS, 0, 1⟩
def WIN_STATUS_MODE : Field := ⟨WIN_STATUS, 1, 2⟩
def WIN_STATUS_REJECT_SEEN : Field := ⟨WIN_STATUS, 3, 1⟩
def WIN_STATUS_SHIFT_SEEN : Field := ⟨WIN_STATUS, 4, 1⟩
def WIN_STATUS_POISON_SEEN : Field := ⟨WIN_STATUS, 5, 1⟩
/-- WIN_WORDS (R187). -/
def WIN_WORDS : Reg := ⟨0x10200040008, 0x1000000, 0x0, 0x0, 0x0, fun _ => 0x0⟩
def WIN_WORDS_COUNT : Field := ⟨WIN_WORDS, 0, 64⟩
/-- WIN_PAD_WORDS (R187). -/
def WIN_PAD_WORDS : Reg := ⟨0x10200040010, 0x1000000, 0x0, 0x0, 0x0, fun _ => 0x0⟩
def WIN_PAD_WORDS_COUNT : Field := ⟨WIN_PAD_WORDS, 0, 64⟩
/-- WIN_FILL_WORDS (R187). -/
def WIN_FILL_WORDS : Reg := ⟨0x10200040018, 0x1000000, 0x0, 0x0, 0x0, fun _ => 0x0⟩
def WIN_FILL_WORDS_COUNT : Field := ⟨WIN_FILL_WORDS, 0, 64⟩
/-- WIN_GATED_WORDS (R187). -/
def WIN_GATED_WORDS : Reg := ⟨0x10200040020, 0x1000000, 0x0, 0x0, 0x0, fun _ => 0x0⟩
def WIN_GATED_WORDS_COUNT : Field := ⟨WIN_GATED_WORDS, 0, 64⟩
/-- WIN_REGROUP_SHIFTS (R187). -/
def WIN_REGROUP_SHIFTS : Reg := ⟨0x10200040028, 0x1000000, 0x0, 0x0, 0x0, fun _ => 0x0⟩
def WIN_REGROUP_SHIFTS_COUNT : Field := ⟨WIN_REGROUP_SHIFTS, 0, 32⟩
/-- WIN_LAST_REJECT (R187). -/
def WIN_LAST_REJECT : Reg := ⟨0x10200040030, 0x1000000, 0x0, 0x0, 0x0, fun _ => 0x0⟩
def WIN_LAST_REJECT_TAG : Field := ⟨WIN_LAST_REJECT, 0, 16⟩
def WIN_LAST_REJECT_REASON : Field := ⟨WIN_LAST_REJECT, 16, 4⟩
def WIN_LAST_REJECT_VALID : Field := ⟨WIN_LAST_REJECT, 63, 1⟩
/-- VEC_STATUS (R211). -/
def VEC_STATUS : Reg := ⟨0x10200050000, 0x1000000, 0x0, 0x0, 0x0, fun _ => 0x0⟩
def VEC_STATUS_BUSY : Field := ⟨VEC_STATUS, 0, 1⟩
def VEC_STATUS_FUNC : Field := ⟨VEC_STATUS, 1, 5⟩
def VEC_STATUS_NAN_SEEN : Field := ⟨VEC_STATUS, 6, 1⟩
def VEC_STATUS_CLAMP_SEEN : Field := ⟨VEC_STATUS, 7, 1⟩
def VEC_STATUS_POISON_SEEN : Field := ⟨VEC_STATUS, 8, 1⟩
def VEC_STATUS_CURVE_REJECT_SEEN : Field := ⟨VEC_STATUS, 9, 1⟩
def VEC_STATUS_CURVES_LOADED : Field := ⟨VEC_STATUS, 10, 4⟩
/-- VEC_ELEMENTS (R211). -/
def VEC_ELEMENTS : Reg := ⟨0x10200050008, 0x1000000, 0x0, 0x0, 0x0, fun _ => 0x0⟩
def VEC_ELEMENTS_COUNT : Field := ⟨VEC_ELEMENTS, 0, 64⟩
/-- VEC_NAN (R211). -/
def VEC_NAN : Reg := ⟨0x10200050010, 0x1000000, 0x0, 0x0, 0x0, fun _ => 0x0⟩
def VEC_NAN_COUNT : Field := ⟨VEC_NAN, 0, 32⟩
/-- VEC_CURVE_CLAMPS (R211). -/
def VEC_CURVE_CLAMPS : Reg := ⟨0x10200050018, 0x1000000, 0x0, 0x0, 0x0, fun _ => 0x0⟩
def VEC_CURVE_CLAMPS_COUNT : Field := ⟨VEC_CURVE_CLAMPS, 0, 32⟩
/-- VEC_SAT_SLOTS (R211). -/
def VEC_SAT_SLOTS : Reg := ⟨0x10200050020, 0x1000000, 0x0, 0x0, 0x0, fun _ => 0x0⟩
def VEC_SAT_SLOTS_COUNT : Field := ⟨VEC_SAT_SLOTS, 0, 32⟩
/-- QNT_STATUS (R212). -/
def QNT_STATUS : Reg := ⟨0x10200060000, 0x1000000, 0x0, 0x0, 0x0, fun _ => 0x0⟩
def QNT_STATUS_BUSY : Field := ⟨QNT_STATUS, 0, 1⟩
def QNT_STATUS_ADAPTING : Field := ⟨QNT_STATUS, 1, 1⟩
def QNT_STATUS_SAT_SEEN : Field := ⟨QNT_STATUS, 2, 1⟩
def QNT_STATUS_INVALID_SEEN : Field := ⟨QNT_STATUS, 3, 1⟩
def QNT_STATUS_MULT_FAULT_SEEN : Field := ⟨QNT_STATUS, 4, 1⟩
def QNT_STATUS_LIMIT_SEEN : Field := ⟨QNT_STATUS, 5, 1⟩
def QNT_STATUS_POISON_SEEN : Field := ⟨QNT_STATUS, 6, 1⟩
/-- QNT_OUTPUTS (R212). -/
def QNT_OUTPUTS : Reg := ⟨0x10200060008, 0x1000000, 0x0, 0x0, 0x0, fun _ => 0x0⟩
def QNT_OUTPUTS_COUNT : Field := ⟨QNT_OUTPUTS, 0, 64⟩
/-- QNT_SATS (R212). -/
def QNT_SATS : Reg := ⟨0x10200060010, 0x1000000, 0x0, 0x0, 0x0, fun _ => 0x0⟩
def QNT_SATS_COUNT : Field := ⟨QNT_SATS, 0, 64⟩
/-- QNT_INVALID (R212). -/
def QNT_INVALID : Reg := ⟨0x10200060018, 0x1000000, 0x0, 0x0, 0x0, fun _ => 0x0⟩
def QNT_INVALID_COUNT : Field := ⟨QNT_INVALID, 0, 32⟩
/-- QNT_POISONED (R212). -/
def QNT_POISONED : Reg := ⟨0x10200060020, 0x1000000, 0x0, 0x0, 0x0, fun _ => 0x0⟩
def QNT_POISONED_COUNT : Field := ⟨QNT_POISONED, 0, 32⟩
/-- QNT_LAST_STATS (R212). -/
def QNT_LAST_STATS : Reg := ⟨0x10200060028, 0x1000000, 0x0, 0x0, 0x0, fun _ => 0x0⟩
def QNT_LAST_STATS_TAG : Field := ⟨QNT_LAST_STATS, 0, 16⟩
def QNT_LAST_STATS_MAX_MAG : Field := ⟨QNT_LAST_STATS, 16, 16⟩
def QNT_LAST_STATS_SATS : Field := ⟨QNT_LAST_STATS, 32, 32⟩
/-- QNT_ADAPT_RISES (R212). -/
def QNT_ADAPT_RISES : Reg := ⟨0x10200060030, 0x1000000, 0x0, 0x0, 0x0, fun _ => 0x0⟩
def QNT_ADAPT_RISES_COUNT : Field := ⟨QNT_ADAPT_RISES, 0, 32⟩
/-- QNT_ADAPT_FALLS (R212). -/
def QNT_ADAPT_FALLS : Reg := ⟨0x10200060038, 0x1000000, 0x0, 0x0, 0x0, fun _ => 0x0⟩
def QNT_ADAPT_FALLS_COUNT : Field := ⟨QNT_ADAPT_FALLS, 0, 32⟩
/-- QNT_ADAPT_LIMITS (R212). -/
def QNT_ADAPT_LIMITS : Reg := ⟨0x10200060040, 0x1000000, 0x0, 0x0, 0x0, fun _ => 0x0⟩
def QNT_ADAPT_LIMITS_COUNT : Field := ⟨QNT_ADAPT_LIMITS, 0, 32⟩
/-- ROI_STATUS (R188). -/
def ROI_STATUS : Reg := ⟨0x10200070000, 0x1000000, 0x0, 0x0, 0x0, fun _ => 0x0⟩
def ROI_STATUS_BUSY : Field := ⟨ROI_STATUS, 0, 1⟩
def ROI_STATUS_OP : Field := ⟨ROI_STATUS, 1, 2⟩
def ROI_STATUS_TRUNCATED_SEEN : Field := ⟨ROI_STATUS, 3, 1⟩
def ROI_STATUS_EXTRAP_SEEN : Field := ⟨ROI_STATUS, 4, 1⟩
def ROI_STATUS_POISON_SEEN : Field := ⟨ROI_STATUS, 5, 1⟩
/-- ROI_BOXES (R188). -/
def ROI_BOXES : Reg := ⟨0x10200070008, 0x1000000, 0x0, 0x0, 0x0, fun _ => 0x0⟩
def ROI_BOXES_COUNT : Field := ⟨ROI_BOXES, 0, 64⟩
/-- ROI_BOXES_DROPPED (R188). -/
def ROI_BOXES_DROPPED : Reg := ⟨0x10200070010, 0x1000000, 0x0, 0x0, 0x0, fun _ => 0x0⟩
def ROI_BOXES_DROPPED_COUNT : Field := ⟨ROI_BOXES_DROPPED, 0, 32⟩
/-- ROI_EXTRAP (R188). -/
def ROI_EXTRAP : Reg := ⟨0x10200070018, 0x1000000, 0x0, 0x0, 0x0, fun _ => 0x0⟩
def ROI_EXTRAP_COUNT : Field := ⟨ROI_EXTRAP, 0, 32⟩
/-- ROI_OUTPUTS (R188). -/
def ROI_OUTPUTS : Reg := ⟨0x10200070020, 0x1000000, 0x0, 0x0, 0x0, fun _ => 0x0⟩
def ROI_OUTPUTS_COUNT : Field := ⟨ROI_OUTPUTS, 0, 64⟩
/-- MOV_STATUS (R285). -/
def MOV_STATUS : Reg := ⟨0x10200080000, 0x1000000, 0x0, 0x0, 0x0, fun _ => 0x0⟩
def MOV_STATUS_BUSY : Field := ⟨MOV_STATUS, 0, 1⟩
def MOV_STATUS_WAY_WAIT : Field := ⟨MOV_STATUS, 1, 1⟩
def MOV_STATUS_RATION_WAIT : Field := ⟨MOV_STATUS, 2, 1⟩
def MOV_STATUS_POISON_SEEN : Field := ⟨MOV_STATUS, 3, 1⟩
def MOV_STATUS_MALFORMED_SEEN : Field := ⟨MOV_STATUS, 4, 1⟩
def MOV_STATUS_WAY_LOST_SEEN : Field := ⟨MOV_STATUS, 5, 1⟩
def MOV_STATUS_OUTSTANDING : Field := ⟨MOV_STATUS, 16, 9⟩
/-- MOV_READ_B (R285). -/
def MOV_READ_B : Reg := ⟨0x10200080008, 0x1000000, 0x0, 0x0, 0x0, fun _ => 0x0⟩
def MOV_READ_B_COUNT : Field := ⟨MOV_READ_B, 0, 64⟩
/-- MOV_WRITE_B (R285). -/
def MOV_WRITE_B : Reg := ⟨0x10200080010, 0x1000000, 0x0, 0x0, 0x0, fun _ => 0x0⟩
def MOV_WRITE_B_COUNT : Field := ⟨MOV_WRITE_B, 0, 64⟩
/-- MOV_RUNS (R285). -/
def MOV_RUNS : Reg := ⟨0x10200080018, 0x1000000, 0x0, 0x0, 0x0, fun _ => 0x0⟩
def MOV_RUNS_COUNT : Field := ⟨MOV_RUNS, 0, 64⟩
/-- MOV_OUTSTANDING_MAX (R285). -/
def MOV_OUTSTANDING_MAX : Reg := ⟨0x10200080020, 0x1000000, 0x0, 0x0, 0x0, fun _ => 0x0⟩
def MOV_OUTSTANDING_MAX_MAX : Field := ⟨MOV_OUTSTANDING_MAX, 0, 9⟩
/-- MOV_WAY_LOST (R285). -/
def MOV_WAY_LOST : Reg := ⟨0x10200080028, 0x1000000, 0x0, 0x0, 0x0, fun _ => 0x0⟩
def MOV_WAY_LOST_COUNT : Field := ⟨MOV_WAY_LOST, 0, 32⟩
/-- SP_STATUS (R154). -/
def SP_STATUS : Reg := ⟨0x10200090000, 0x1000000, 0x0, 0x0, 0x0, fun _ => 0x0⟩
def SP_STATUS_ECC_CORR_SEEN : Field := ⟨SP_STATUS, 0, 1⟩
def SP_STATUS_ECC_UNCORR_SEEN : Field := ⟨SP_STATUS, 1, 1⟩
def SP_STATUS_COLLIDE_SEEN : Field := ⟨SP_STATUS, 2, 1⟩
def SP_STATUS_ZERO_DISCARD_SEEN : Field := ⟨SP_STATUS, 3, 1⟩
def SP_STATUS_SCRUB_LATE : Field := ⟨SP_STATUS, 4, 1⟩
/-- SP_COLLIDE (R154). -/
def SP_COLLIDE : Reg := ⟨0x10200090008, 0x1000000, 0x0, 0x0, 0x0, fun _ => 0x0⟩
def SP_COLLIDE_COUNT : Field := ⟨SP_COLLIDE, 0, 32⟩
/-- SP_ECC_CORR (R154). -/
def SP_ECC_CORR : Reg := ⟨0x10200090010, 0x1000000, 0x0, 0x0, 0x0, fun _ => 0x0⟩
def SP_ECC_CORR_COUNT : Field := ⟨SP_ECC_CORR, 0, 32⟩
/-- SP_ECC_UNCORR (R154). -/
def SP_ECC_UNCORR : Reg := ⟨0x10200090018, 0x1000000, 0x0, 0x0, 0x0, fun _ => 0x0⟩
def SP_ECC_UNCORR_COUNT : Field := ⟨SP_ECC_UNCORR, 0, 32⟩
/-- SP_ECC_LAST (R154). -/
def SP_ECC_LAST : Reg := ⟨0x10200090020, 0x1000000, 0x0, 0x0, 0x0, fun _ => 0x0⟩
def SP_ECC_LAST_SPACE : Field := ⟨SP_ECC_LAST, 0, 2⟩
def SP_ECC_LAST_WORD : Field := ⟨SP_ECC_LAST, 2, 4⟩
def SP_ECC_LAST_ROW : Field := ⟨SP_ECC_LAST, 6, 16⟩
def SP_ECC_LAST_UNCORR : Field := ⟨SP_ECC_LAST, 22, 1⟩
def SP_ECC_LAST_SYNDROME : Field := ⟨SP_ECC_LAST, 24, 8⟩
def SP_ECC_LAST_VALID : Field := ⟨SP_ECC_LAST, 63, 1⟩
/-- SP_SCRUB_CTRL (R154). -/
def SP_SCRUB_CTRL : Reg := ⟨0x10200090028, 0x1000000, 0x0, 0x0, 0x0, fun _ => 0x4000001⟩
def SP_SCRUB_CTRL_ENABLE : Field := ⟨SP_SCRUB_CTRL, 0, 1⟩
def SP_SCRUB_CTRL_INTERVAL_ARRC : Field := ⟨SP_SCRUB_CTRL, 16, 13⟩
/-- SP_SCRUB_PASSES (R154). -/
def SP_SCRUB_PASSES : Reg := ⟨0x10200090030, 0x1000000, 0x0, 0x0, 0x0, fun _ => 0x0⟩
def SP_SCRUB_PASSES_COUNT : Field := ⟨SP_SCRUB_PASSES, 0, 32⟩
/-- SP_SCRUB_PASS_NS (R154). -/
def SP_SCRUB_PASS_NS : Reg := ⟨0x10200090038, 0x1000000, 0x0, 0x0, 0x0, fun _ => 0x0⟩
def SP_SCRUB_PASS_NS_PASS_NS : Field := ⟨SP_SCRUB_PASS_NS, 0, 32⟩
/-- SP_ZERO_DISCARDS (R154). -/
def SP_ZERO_DISCARDS : Reg := ⟨0x10200090040, 0x1000000, 0x0, 0x0, 0x0, fun _ => 0x0⟩
def SP_ZERO_DISCARDS_COUNT : Field := ⟨SP_ZERO_DISCARDS, 0, 32⟩
/-- SP_PH_STATUS (R154). -/
def SP_PH_STATUS : Reg := ⟨0x10200090048, 0x1000000, 0x0, 0x0, 0x0, fun _ => 0x0⟩
def SP_PH_STATUS_ENTRIES_USED : Field := ⟨SP_PH_STATUS, 0, 6⟩
/-- SP_PH_COUNTS (R154). -/
def SP_PH_COUNTS : Reg := ⟨0x10200090050, 0x1000000, 0x0, 0x0, 0x0, fun _ => 0x0⟩
def SP_PH_COUNTS_FULL : Field := ⟨SP_PH_COUNTS, 0, 16⟩
def SP_PH_COUNTS_MASKED : Field := ⟨SP_PH_COUNTS, 16, 16⟩
def SP_PH_COUNTS_RMW : Field := ⟨SP_PH_COUNTS, 32, 16⟩
def SP_PH_COUNTS_RETRY : Field := ⟨SP_PH_COUNTS, 48, 16⟩
/-- SP_ECC_INJECT (R154). -/
def SP_ECC_INJECT : Reg := ⟨0x10200090058, 0x1000000, 0x0, 0x0, 0x0, fun _ => 0x0⟩
def SP_ECC_INJECT_CHECK_XOR : Field := ⟨SP_ECC_INJECT, 0, 8⟩
def SP_ECC_INJECT_SPACE : Field := ⟨SP_ECC_INJECT, 8, 2⟩
def SP_ECC_INJECT_ARM : Field := ⟨SP_ECC_INJECT, 10, 1⟩

end Sys2Proof.Machine
end

