-- ==== Sys2Proof/Machine/RegMap.lean ====
section
/-! DEFINITION. The table of implemented registers that the register interface decodes (R472 to R478): for every register
its indices, its width and its fields' types (R9) as masks, and the cover mask of the configuration CRC (R486, R487). -/

namespace Sys2Proof.Machine

/-- One row of the register table: the number of copies per index, the width in bits, and the masks of its RW, W1C, WO
and RC fields and of its covered bits. -/
structure Tmpl where
  reg : Reg
  n1 : Nat
  n2 : Nat
  n3 : Nat
  n4 : Nat
  width : Nat
  rw : Nat
  w1c : Nat
  wo : Nat
  rc : Nat
  cover : Nat

/-- Registers of the SYS_ block (part 1). -/
def regTableSysA : List Tmpl := [
  ⟨SYS_ID, 1, 1, 1, 1, 64, 0x0, 0x0, 0x0, 0x0, 0x0⟩,
  ⟨SYS_UPTIME_US, 1, 1, 1, 1, 64, 0x0, 0x0, 0x0, 0x0, 0x0⟩,
  ⟨SYS_BUS_ERRORS, 1, 1, 1, 1, 32, 0x0, 0x0, 0x0, 0x0, 0x0⟩,
  ⟨SYS_BUS_ERR_LAST, 1, 1, 1, 1, 64, 0x0, 0x8000000000000000, 0x0, 0x0, 0x0⟩,
  ⟨SYS_IRQ_PENDING, 1, 1, 1, 1, 32, 0x0, 0xff, 0x0, 0x0, 0x0⟩,
  ⟨SYS_IRQ_SET, 1, 1, 1, 1, 32, 0x0, 0x0, 0x1, 0x0, 0x0⟩,
  ⟨SYS_IRQ_ENABLE_k, 8, 1, 1, 1, 32, 0xff, 0x0, 0x0, 0x0, 0xff⟩,
  ⟨SYS_RATION_STATUS, 1, 1, 1, 1, 32, 0x0, 0xffff0000, 0x0, 0x0, 0x0⟩,
  ⟨SYS_RATION_PERIODS, 1, 1, 1, 1, 64, 0x0, 0x0, 0x0, 0x0, 0x0⟩,
  ⟨SYS_RATION_LEND, 1, 1, 1, 1, 32, 0xffffffff, 0x0, 0x0, 0x0, 0xffffffff⟩,
  ⟨SYS_RATION_c_CFG, 16, 1, 1, 1, 64, 0xffffffffff, 0x0, 0x0, 0x0, 0xffffffffff⟩,
  ⟨SYS_RATION_c_USED, 16, 1, 1, 1, 64, 0x0, 0x0, 0x0, 0x0, 0x0⟩,
  ⟨SYS_RATION_c_WAITS, 16, 1, 1, 1, 32, 0x0, 0x0, 0x0, 0x0, 0x0⟩,
  ⟨SYS_RATION_c_MAX_HOLD_NS, 16, 1, 1, 1, 32, 0x0, 0x0, 0x0, 0xffffffff, 0x0⟩,
  ⟨SYS_WCk_CTRL, 2, 1, 1, 1, 32, 0x1, 0x8, 0x2, 0x0, 0x1⟩,
  ⟨SYS_WCk_LOOKUPS, 2, 1, 1, 1, 64, 0x0, 0x0, 0x0, 0x0, 0x0⟩,
  ⟨SYS_WCk_HITS, 2, 1, 1, 1, 64, 0x0, 0x0, 0x0, 0x0, 0x0⟩,
  ⟨SYS_WCk_MERGED, 2, 1, 1, 1, 64, 0x0, 0x0, 0x0, 0x0, 0x0⟩,
  ⟨SYS_WCk_MISSES, 2, 1, 1, 1, 64, 0x0, 0x0, 0x0, 0x0, 0x0⟩,
  ⟨SYS_WCk_EVICTIONS, 2, 1, 1, 1, 64, 0x0, 0x0, 0x0, 0x0, 0x0⟩]

/-- Registers of the SYS_ block (part 2). -/
def regTableSysB : List Tmpl := [
  ⟨SYS_WCk_INVALIDATIONS, 2, 1, 1, 1, 64, 0x0, 0x0, 0x0, 0x0, 0x0⟩,
  ⟨SYS_WCk_ECC_CORR, 2, 1, 1, 1, 32, 0x0, 0x0, 0x0, 0x0, 0x0⟩,
  ⟨SYS_WCk_ECC_REFETCH, 2, 1, 1, 1, 32, 0x0, 0x0, 0x0, 0x0, 0x0⟩,
  ⟨SYS_CORE_RELEASE, 1, 1, 1, 1, 32, 0x0, 0x0, 0xff, 0x0, 0x0⟩,
  ⟨SYS_CORE_START_k, 7, 1, 1, 1, 32, 0x3ffff, 0x0, 0x0, 0x0, 0x3ffff⟩]

/-- Registers of the CLK_ block. -/
def regTableClk : List Tmpl := [
  ⟨CLK_STATUS, 1, 1, 1, 1, 32, 0x0, 0xc, 0x0, 0x0, 0x0⟩,
  ⟨CLK_CORE_STEP, 1, 1, 1, 1, 32, 0x0, 0x0, 0x0, 0x0, 0x0⟩,
  ⟨CLK_STEP_CHANGES, 1, 1, 1, 1, 32, 0x0, 0x0, 0x0, 0x0, 0x0⟩]

/-- Registers of the CFG_ block. -/
def regTableCfg : List Tmpl := [
  ⟨CFG_JOURNAL_NEXT, 1, 1, 1, 1, 32, 0x0, 0x0, 0x0, 0x0, 0x0⟩,
  ⟨CFG_CRC_CTRL, 1, 1, 1, 1, 32, 0x1, 0x0, 0x0, 0x0, 0x0⟩,
  ⟨CFG_CRC_COMMIT, 1, 1, 1, 1, 32, 0x0, 0x0, 0x1, 0x0, 0x0⟩,
  ⟨CFG_CRC_STATUS, 1, 1, 1, 1, 32, 0x0, 0x8, 0x0, 0x0, 0x0⟩,
  ⟨CFG_CRC_REF, 1, 1, 1, 1, 32, 0x0, 0x0, 0x0, 0x0, 0x0⟩,
  ⟨CFG_CRC_LAST, 1, 1, 1, 1, 32, 0x0, 0x0, 0x0, 0x0, 0x0⟩,
  ⟨CFG_CRC_PASSES, 1, 1, 1, 1, 64, 0x0, 0x0, 0x0, 0x0, 0x0⟩,
  ⟨CFG_CRC_COVERED, 1, 1, 1, 1, 32, 0x0, 0x0, 0x0, 0x0, 0x0⟩,
  ⟨CFG_CRC_PASS_US, 1, 1, 1, 1, 32, 0x0, 0x0, 0x0, 0x0, 0x0⟩,
  ⟨CFG_JOURNAL_e_Ww, 4096, 4, 1, 1, 64, 0x0, 0x0, 0x0, 0x0, 0x0⟩]

/-- Registers of the FCU_ block. -/
def regTableFcu : List Tmpl := [
  ⟨FCU_CTRL, 1, 1, 1, 1, 32, 0xffff0005, 0x0, 0x2, 0x0, 0xffff0005⟩,
  ⟨FCU_STATUS, 1, 1, 1, 1, 32, 0x0, 0xf8, 0x0, 0x0, 0x0⟩,
  ⟨FCU_RECOVERIES, 1, 1, 1, 1, 32, 0x0, 0x0, 0x0, 0x0, 0x0⟩,
  ⟨FCU_FOLDS, 1, 1, 1, 1, 32, 0x0, 0x0, 0x0, 0x0, 0x0⟩,
  ⟨FCU_FOLD_CAUSE, 1, 1, 1, 1, 64, 0x0, 0x0, 0x0, 0x0, 0x0⟩,
  ⟨FCU_RECOVERY_LAST, 1, 1, 1, 1, 64, 0x0, 0x0, 0x0, 0x0, 0x0⟩,
  ⟨FCU_CORE_STATE, 1, 1, 1, 1, 32, 0x0, 0x0, 0x0, 0x0, 0x0⟩,
  ⟨FCU_CORE_CLEAR, 1, 1, 1, 1, 32, 0x0, 0x0, 0xff, 0x0, 0x0⟩,
  ⟨FCU_CORE_RECOVERIES, 1, 1, 1, 1, 64, 0x0, 0x0, 0x0, 0x0, 0x0⟩,
  ⟨FCU_COUNT_C, 1, 1, 1, 1, 32, 0x0, 0x0, 0x0, 0x0, 0x0⟩,
  ⟨FCU_COUNT_U, 1, 1, 1, 1, 32, 0x0, 0x0, 0x0, 0x0, 0x0⟩,
  ⟨FCU_COUNT_F, 1, 1, 1, 1, 32, 0x0, 0x0, 0x0, 0x0, 0x0⟩,
  ⟨FCU_COUNT_ESCALATED, 1, 1, 1, 1, 32, 0x0, 0x0, 0x0, 0x0, 0x0⟩,
  ⟨FCU_COUNT_MASKED, 1, 1, 1, 1, 32, 0x0, 0x0, 0x0, 0x0, 0x0⟩,
  ⟨FCU_LOG_NEXT, 1, 1, 1, 1, 32, 0x0, 0x0, 0x0, 0x0, 0x0⟩,
  ⟨FCU_INJECT, 1, 1, 1, 1, 32, 0x7fff, 0x0, 0x0, 0x0, 0x3fff⟩,
  ⟨FCU_WIRE_TEST, 1, 1, 1, 1, 32, 0x0, 0x0, 0xffff, 0x0, 0x0⟩,
  ⟨FCU_LOG_e_Ww, 256, 4, 1, 1, 64, 0x0, 0x0, 0x0, 0x0, 0x0⟩,
  ⟨FCU_REACT_id, 4096, 1, 1, 1, 32, 0x3f, 0x0, 0x0, 0x0, 0x3f⟩,
  ⟨FCU_SRC_id, 4096, 1, 1, 1, 64, 0x0, 0x0, 0x18000000000000, 0x0, 0x0⟩]

/-- Registers of the PWR_ block. -/
def regTablePwr : List Tmpl := [
  ⟨PWR_CTRL, 1, 1, 1, 1, 32, 0xf07, 0x0, 0x0, 0x0, 0xf07⟩,
  ⟨PWR_CAP, 1, 1, 1, 1, 32, 0x3ffff, 0x0, 0x0, 0x0, 0x3ffff⟩,
  ⟨PWR_MARGIN, 1, 1, 1, 1, 32, 0xffff, 0x0, 0x0, 0x0, 0xffff⟩,
  ⟨PWR_STATUS, 1, 1, 1, 1, 32, 0x0, 0x1cc, 0x0, 0x0, 0x0⟩,
  ⟨PWR_MEAS, 1, 1, 1, 1, 64, 0x0, 0x0, 0x0, 0x0, 0x0⟩,
  ⟨PWR_ENERGY_UJ, 1, 1, 1, 1, 64, 0x0, 0x0, 0x0, 0x0, 0x0⟩,
  ⟨PWR_INTERVALS, 1, 1, 1, 1, 64, 0x0, 0x0, 0x0, 0x0, 0x0⟩,
  ⟨PWR_GUARANTEE, 1, 1, 1, 1, 32, 0x0, 0x0, 0x0, 0x0, 0x0⟩,
  ⟨PWR_CORE_c, 8, 1, 1, 1, 64, 0x0, 0x0, 0x0, 0x0, 0x0⟩,
  ⟨PWR_RAMP_c, 8, 1, 1, 1, 64, 0x0, 0x0, 0x0, 0x0, 0x0⟩,
  ⟨PWR_RAMP_LEVEL, 1, 1, 1, 1, 64, 0x0, 0x0, 0x0, 0x0, 0x0⟩,
  ⟨PWR_PHASE_CFG, 1, 1, 1, 1, 32, 0xffffffff, 0x0, 0x0, 0x0, 0xffffffff⟩,
  ⟨PWR_THERM_CTRL, 1, 1, 1, 1, 64, 0xfffffffff, 0x0, 0x0, 0x0, 0xfffffffff⟩,
  ⟨PWR_THERM_CURVEi, 8, 1, 1, 1, 64, 0xfffffffff, 0x0, 0x0, 0x0, 0xfffffffff⟩,
  ⟨PWR_TEMP_s, 16, 1, 1, 1, 32, 0x0, 0x0, 0x0, 0x0, 0x0⟩,
  ⟨PWR_TEMP_MAX, 1, 1, 1, 1, 32, 0x0, 0x0, 0x0, 0x0, 0x0⟩,
  ⟨PWR_TEMP_PEAK, 1, 1, 1, 1, 32, 0x0, 0x0, 0x0, 0xfffff, 0x0⟩,
  ⟨PWR_PHASE_p, 256, 1, 1, 1, 64, 0x1ffff, 0x0, 0x0, 0x0, 0x0⟩]

/-- Registers of the TIM_ block (part 1). -/
def regTableTimA : List Tmpl := [
  ⟨TIM_CTRL, 1, 1, 1, 1, 32, 0xffff0000, 0x0, 0x7, 0x0, 0xffff0000⟩,
  ⟨TIM_STATUS, 1, 1, 1, 1, 64, 0x0, 0x78, 0x0, 0x0, 0x0⟩,
  ⟨TIM_NOW_S, 1, 1, 1, 1, 64, 0x0, 0x0, 0x0, 0x0, 0x0⟩,
  ⟨TIM_NOW_NS, 1, 1, 1, 1, 64, 0x0, 0x0, 0x0, 0x0, 0x0⟩,
  ⟨TIM_RATE, 1, 1, 1, 1, 64, 0xffffffffff, 0x0, 0x0, 0x0, 0x0⟩,
  ⟨TIM_SET_S, 1, 1, 1, 1, 64, 0x0, 0x0, 0xffffffffffff, 0x0, 0x0⟩,
  ⟨TIM_SET_NS, 1, 1, 1, 1, 32, 0x0, 0x0, 0x3fffffff, 0x0, 0x0⟩,
  ⟨TIM_STEP, 1, 1, 1, 1, 64, 0x0, 0x0, 0xffffffffff, 0x0, 0x0⟩,
  ⟨TIM_KICK, 1, 1, 1, 1, 32, 0x0, 0x0, 0x1, 0x0, 0x0⟩,
  ⟨TIM_ETHn_LAT, 2, 1, 1, 1, 32, 0xffffffff, 0x0, 0x0, 0x0, 0xffffffff⟩,
  ⟨TIM_PTP_RING, 1, 1, 1, 1, 32, 0x1fffff, 0x0, 0x0, 0x0, 0x1fffff⟩,
  ⟨TIM_PTP_TX_GO, 1, 1, 1, 1, 32, 0x0, 0x0, 0xf, 0x0, 0x0⟩,
  ⟨TIM_PTP_DROPPED, 1, 1, 1, 1, 32, 0x0, 0x0, 0x0, 0x0, 0x0⟩,
  ⟨TIM_TRIGn_CFG, 8, 1, 1, 1, 64, 0xffffffffffffff07, 0x0, 0x0, 0x0, 0xffffffffffffff06⟩,
  ⟨TIM_TRIGn_START_S, 8, 1, 1, 1, 64, 0xffffffffffff, 0x0, 0x0, 0x0, 0xffffffffffff⟩,
  ⟨TIM_TRIGn_START_NS, 8, 1, 1, 1, 32, 0x3fffffff, 0x0, 0x0, 0x0, 0x3fffffff⟩,
  ⟨TIM_TRIGn_PERIOD, 8, 1, 1, 1, 32, 0xffffffff, 0x0, 0x0, 0x0, 0xffffffff⟩,
  ⟨TIM_TRIGn_STATUS, 8, 1, 1, 1, 64, 0x0, 0x0, 0x0, 0x0, 0x0⟩,
  ⟨TIM_TRIGn_LAST_S, 8, 1, 1, 1, 64, 0x0, 0x0, 0x0, 0x0, 0x0⟩,
  ⟨TIM_TRIGn_LAST_NS, 8, 1, 1, 1, 32, 0x0, 0x0, 0x0, 0x0, 0x0⟩]

/-- Registers of the TIM_ block (part 2). -/
def regTableTimB : List Tmpl := [
  ⟨TIM_CAPn_CFG, 4, 1, 1, 1, 32, 0x7ffff, 0x0, 0x0, 0x0, 0x7ffff⟩,
  ⟨TIM_CAPn_STATUS, 4, 1, 1, 1, 32, 0x0, 0x20, 0x0, 0x0, 0x0⟩,
  ⟨TIM_CAPn_POP_S, 4, 1, 1, 1, 64, 0x0, 0x0, 0x0, 0x3ffffffffffff, 0x0⟩,
  ⟨TIM_CAPn_POP_NS, 4, 1, 1, 1, 32, 0x0, 0x0, 0x0, 0x0, 0x0⟩,
  ⟨TIM_CTk_CFG, 16, 1, 1, 1, 64, 0xffff0003ffff, 0x0, 0x0, 0x0, 0xffff0003fffe⟩,
  ⟨TIM_CTk_START_S, 16, 1, 1, 1, 64, 0xffffffffffff, 0x0, 0x0, 0x0, 0xffffffffffff⟩,
  ⟨TIM_CTk_START_NS, 16, 1, 1, 1, 32, 0x3fffffff, 0x0, 0x0, 0x0, 0x3fffffff⟩,
  ⟨TIM_CTk_SCHED, 16, 1, 1, 1, 64, 0xffffffffffffffff, 0x0, 0x0, 0x0, 0xffffffffffffffff⟩,
  ⟨TIM_CTk_STATUS, 16, 1, 1, 1, 64, 0x0, 0x0, 0x0, 0x0, 0x0⟩,
  ⟨TIM_CTk_DATAw, 16, 8, 1, 1, 64, 0xffffffffffffffff, 0x0, 0x0, 0x0, 0xffffffffffffffff⟩]

/-- Registers of the D2D_ block. -/
def regTableD2d : List Tmpl := [
  ⟨D2D_Ln_STATUS, 3, 1, 1, 1, 32, 0x0, 0x6, 0x0, 0x0, 0x0⟩,
  ⟨D2D_Ln_REPLAYS, 3, 1, 1, 1, 32, 0x0, 0x0, 0x0, 0x0, 0x0⟩,
  ⟨D2D_Ln_TX_B, 3, 1, 1, 1, 64, 0x0, 0x0, 0x0, 0x0, 0x0⟩,
  ⟨D2D_Ln_RX_B, 3, 1, 1, 1, 64, 0x0, 0x0, 0x0, 0x0, 0x0⟩]

/-- Registers of the BOOT_ block. -/
def regTableBoot : List Tmpl := [
  ⟨BOOT_STATUS, 1, 1, 1, 1, 64, 0x0, 0x0, 0x0, 0x0, 0x0⟩,
  ⟨BOOT_FAIL, 1, 1, 1, 1, 64, 0x0, 0x0, 0x0, 0x0, 0x0⟩,
  ⟨BOOT_IMAGE, 1, 1, 1, 1, 64, 0x0, 0x0, 0x0, 0x0, 0x0⟩,
  ⟨BOOT_TIMES, 1, 1, 1, 1, 64, 0x0, 0x0, 0x0, 0x0, 0x0⟩,
  ⟨BOOT_CTRL, 1, 1, 1, 1, 32, 0x0, 0x0, 0x1, 0x0, 0x0⟩,
  ⟨BOOT_DIGEST_w, 8, 1, 1, 1, 64, 0x0, 0x0, 0x0, 0x0, 0x0⟩]

/-- Registers of the SEC_ block. -/
def regTableSec : List Tmpl := [
  ⟨SEC_PART_SERIAL, 1, 1, 1, 1, 64, 0x0, 0x0, 0x0, 0x0, 0x0⟩,
  ⟨SEC_ATTEST_CTRL, 1, 1, 1, 1, 32, 0x3f00, 0x0, 0x1, 0x0, 0x0⟩,
  ⟨SEC_ATTEST_NONCE_w, 8, 1, 1, 1, 64, 0xffffffffffffffff, 0x0, 0x0, 0x0, 0x0⟩,
  ⟨SEC_REPORT_B, 1, 1, 1, 1, 32, 0x0, 0x0, 0x0, 0x0, 0x0⟩,
  ⟨SEC_ATTEST_MODEL_j, 32, 1, 1, 1, 32, 0xffffffff, 0x0, 0x0, 0x0, 0x0⟩,
  ⟨SEC_ADMIT_BASE, 1, 1, 1, 1, 64, 0x7ff800000, 0x0, 0x0, 0x0, 0x7ff800000⟩,
  ⟨SEC_ADMIT_REQ, 1, 1, 1, 1, 64, 0x0, 0x0, 0x7ffffff00, 0x0, 0x0⟩,
  ⟨SEC_ADMIT_STATUS, 1, 1, 1, 1, 32, 0x0, 0x2, 0x0, 0x0, 0x0⟩,
  ⟨SEC_ADMIT_TIMEOUT, 1, 1, 1, 1, 32, 0xffff, 0x0, 0x0, 0x0, 0xffff⟩,
  ⟨SEC_ATTEST_PK_w, 248, 1, 1, 1, 64, 0x0, 0x0, 0x0, 0x0, 0x0⟩,
  ⟨SEC_REPORT_w, 768, 1, 1, 1, 64, 0x0, 0x0, 0x0, 0x0, 0x0⟩]

/-- Registers of the NVM_ block. -/
def regTableNvm : List Tmpl := [
  ⟨NVM_STATUS, 1, 1, 1, 1, 32, 0x0, 0x40000, 0x0, 0x0, 0x0⟩,
  ⟨NVM_ROLLBACK, 1, 1, 1, 1, 64, 0x0, 0x0, 0x0, 0x0, 0x0⟩,
  ⟨NVM_ROLLBACK_ADVANCE, 1, 1, 1, 1, 32, 0x0, 0x0, 0xffffffff, 0x0, 0x0⟩,
  ⟨NVM_KEY_STAGE_w, 8, 1, 1, 1, 64, 0x0, 0x0, 0xffffffffffffffff, 0x0, 0x0⟩,
  ⟨NVM_KEY_PROGRAM, 1, 1, 1, 1, 32, 0x0, 0x0, 0x107, 0x0, 0x0⟩,
  ⟨NVM_REVOKE, 1, 1, 1, 1, 32, 0x0, 0x0, 0xff, 0x0, 0x0⟩,
  ⟨NVM_LOCK, 1, 1, 1, 1, 32, 0x0, 0x0, 0x1, 0x0, 0x0⟩]

/-- Registers of the HMP_ block (part 1). -/
def regTableHmpA : List Tmpl := [
  ⟨HMP_CFG, 1, 1, 1, 1, 64, 0x1fffffffff007f, 0x0, 0x0, 0x0, 0x1fffffffff007f⟩,
  ⟨HMP_MAC, 1, 1, 1, 1, 64, 0x0, 0x0, 0x0, 0x0, 0x0⟩,
  ⟨HMP_IPV4, 1, 1, 1, 1, 32, 0xffffffff, 0x0, 0x0, 0x0, 0xffffffff⟩,
  ⟨HMP_IPV6_HI, 1, 1, 1, 1, 64, 0xffffffffffffffff, 0x0, 0x0, 0x0, 0xffffffffffffffff⟩,
  ⟨HMP_IPV6_LO, 1, 1, 1, 1, 64, 0xffffffffffffffff, 0x0, 0x0, 0x0, 0xffffffffffffffff⟩,
  ⟨HMP_VLAN, 1, 1, 1, 1, 32, 0x7fff, 0x0, 0x0, 0x0, 0x7fff⟩,
  ⟨HMP_LW_DA, 1, 1, 1, 1, 64, 0xffffffffffff, 0x0, 0x0, 0x0, 0xffffffffffff⟩,
  ⟨HMP_STATUS, 1, 1, 1, 1, 32, 0x0, 0x780, 0x0, 0x0, 0x0⟩,
  ⟨HMP_MALFORMED, 1, 1, 1, 1, 32, 0x0, 0x0, 0x0, 0x0, 0x0⟩,
  ⟨HMP_MISMATCH, 1, 1, 1, 1, 32, 0x0, 0x0, 0x0, 0x0, 0x0⟩,
  ⟨HMP_STALE, 1, 1, 1, 1, 32, 0x0, 0x0, 0x0, 0x0, 0x0⟩,
  ⟨HMP_IN_PROGRESS, 1, 1, 1, 1, 32, 0x0, 0x0, 0x0, 0x0, 0x0⟩,
  ⟨HMP_LIMITED, 1, 1, 1, 1, 32, 0x0, 0x0, 0x0, 0x0, 0x0⟩,
  ⟨HMP_REPLAYED, 1, 1, 1, 1, 32, 0x0, 0x0, 0x0, 0x0, 0x0⟩,
  ⟨HMP_GAPS, 1, 1, 1, 1, 32, 0x0, 0x0, 0x0, 0x0, 0x0⟩,
  ⟨HMP_EXPIRED, 1, 1, 1, 1, 32, 0x0, 0x0, 0x0, 0x0, 0x0⟩,
  ⟨HMP_FW_BASE, 1, 1, 1, 1, 64, 0x7fffff000, 0x0, 0x0, 0x0, 0x7fffff000⟩,
  ⟨HMP_FW_CTRL, 1, 1, 1, 1, 32, 0xffff, 0x0, 0x0, 0x0, 0xffff⟩,
  ⟨HMP_FW_DONE, 1, 1, 1, 1, 32, 0x0, 0x0, 0x3f, 0x0, 0x0⟩,
  ⟨HMP_SESSIONs_STATE, 64, 1, 1, 1, 64, 0x0, 0x0, 0x0, 0x0, 0x0⟩]

/-- Registers of the HMP_ block (part 2). -/
def regTableHmpB : List Tmpl := [
  ⟨HMP_SESSIONs_SEQ, 64, 1, 1, 1, 64, 0x0, 0x0, 0x0, 0x0, 0x0⟩,
  ⟨HMP_SESSIONs_CTRL, 64, 1, 1, 1, 32, 0x0, 0x0, 0x1, 0x0, 0x0⟩]

/-- Registers of the ETH_ block (part 1). -/
def regTableEthA : List Tmpl := [
  ⟨ETHn_CTRL, 2, 1, 1, 1, 64, 0xfffff, 0x0, 0x0, 0x0, 0xfffff⟩,
  ⟨ETHn_STATUS, 2, 1, 1, 1, 32, 0x0, 0x78, 0x0, 0x0, 0x0⟩,
  ⟨ETHn_RX_FRAMES, 2, 1, 1, 1, 64, 0x0, 0x0, 0x0, 0x0, 0x0⟩,
  ⟨ETHn_RX_ERRORS, 2, 1, 1, 1, 64, 0x0, 0x0, 0x0, 0x0, 0x0⟩,
  ⟨ETHn_RX_DROPPED, 2, 1, 1, 1, 64, 0x0, 0x0, 0x0, 0x0, 0x0⟩,
  ⟨ETHn_RX_MACSEC_DROP, 2, 1, 1, 1, 64, 0x0, 0x0, 0x0, 0x0, 0x0⟩,
  ⟨ETHn_RX_QCI_DROP, 2, 1, 1, 1, 64, 0x0, 0x0, 0x0, 0x0, 0x0⟩,
  ⟨ETHn_RX_CB_ELIM, 2, 1, 1, 1, 64, 0x0, 0x0, 0x0, 0x0, 0x0⟩,
  ⟨ETHn_TX_FRAMES, 2, 1, 1, 1, 64, 0x0, 0x0, 0x0, 0x0, 0x0⟩,
  ⟨ETHn_TX_DROPPED, 2, 1, 1, 1, 64, 0x0, 0x0, 0x0, 0x0, 0x0⟩,
  ⟨ETHn_TX_ABORTED, 2, 1, 1, 1, 64, 0x0, 0x0, 0x0, 0x0, 0x0⟩,
  ⟨ETHn_QBV_BASE, 2, 1, 1, 1, 64, 0xffffffffffff, 0x0, 0x0, 0x0, 0xffffffffffff⟩,
  ⟨ETHn_QBV_BASE_NS, 2, 1, 1, 1, 32, 0x3fffffff, 0x0, 0x0, 0x0, 0x3fffffff⟩,
  ⟨ETHn_QBV_CYCLE, 2, 1, 1, 1, 32, 0x3fffffff, 0x0, 0x0, 0x0, 0x3fffffff⟩,
  ⟨ETHn_QBV_LEN, 2, 1, 1, 1, 32, 0x1ff, 0x0, 0x10000, 0x0, 0x1ff⟩,
  ⟨ETHn_QBV_GCLe, 2, 256, 1, 1, 64, 0xffffffff, 0x0, 0x0, 0x0, 0xffffffff⟩,
  ⟨ETHn_QCI_Fi, 2, 64, 1, 1, 64, 0x1fffffffffffffff, 0x0, 0x0, 0x0, 0x1fffffffffffffff⟩,
  ⟨ETHn_QCI_Mi, 2, 64, 1, 1, 64, 0xffffffffff, 0x0, 0x0, 0x0, 0xffffffffff⟩,
  ⟨ETHn_MACSEC_CTRL, 2, 1, 1, 1, 32, 0xf, 0x0, 0x0, 0x0, 0xf⟩,
  ⟨ETHn_MACSEC_WINDOW, 2, 1, 1, 1, 32, 0xffffffff, 0x0, 0x0, 0x0, 0xffffffff⟩]

/-- Registers of the ETH_ block (part 2). -/
def regTableEthB : List Tmpl := [
  ⟨ETHn_MACSEC_TX_SCI, 2, 1, 1, 1, 64, 0xffffffffffffffff, 0x0, 0x0, 0x0, 0xffffffffffffffff⟩,
  ⟨ETHn_MACSEC_TXa_KEYw, 2, 4, 4, 1, 64, 0x0, 0x0, 0xffffffffffffffff, 0x0, 0x0⟩,
  ⟨ETHn_MACSEC_TXa_PN, 2, 4, 1, 1, 64, 0x1ffffffff, 0x0, 0x0, 0x0, 0x100000000⟩,
  ⟨ETHn_MACSEC_RXc_SCI, 2, 8, 1, 1, 64, 0xffffffffffffffff, 0x0, 0x0, 0x0, 0xffffffffffffffff⟩,
  ⟨ETHn_MACSEC_RXc_Aa_KEYw, 2, 8, 4, 4, 64, 0x0, 0x0, 0xffffffffffffffff, 0x0, 0x0⟩,
  ⟨ETHn_MACSEC_RXc_Aa_PN, 2, 8, 4, 1, 64, 0x1ffffffff, 0x0, 0x0, 0x0, 0x100000000⟩]

/-- Registers of the MGT_ block. -/
def regTableMgt : List Tmpl := [
  ⟨MGT_CTRL, 1, 1, 1, 1, 32, 0x3f, 0x0, 0x0, 0x0, 0x1f⟩,
  ⟨MGT_MDIO, 1, 1, 1, 1, 32, 0xffff07ff, 0x0, 0x800, 0x0, 0x0⟩,
  ⟨MGT_RX_FRAMES, 1, 1, 1, 1, 64, 0x0, 0x0, 0x0, 0x0, 0x0⟩,
  ⟨MGT_RX_DROPPED, 1, 1, 1, 1, 64, 0x0, 0x0, 0x0, 0x0, 0x0⟩,
  ⟨MGT_TX_FRAMES, 1, 1, 1, 1, 64, 0x0, 0x0, 0x0, 0x0, 0x0⟩]

/-- Registers of the CSI_ block. -/
def regTableCsi : List Tmpl := [
  ⟨CSIn_CTRL, 4, 1, 1, 1, 32, 0xf, 0x0, 0x0, 0x0, 0xf⟩,
  ⟨CSIn_VC_MAP, 4, 1, 1, 1, 32, 0x1f1f1f1f, 0x0, 0x0, 0x0, 0x1f1f1f1f⟩,
  ⟨CSIn_STATUS, 4, 1, 1, 1, 32, 0x0, 0x7c, 0x0, 0x0, 0x0⟩,
  ⟨CSIn_BYTE_CLK_KHZ, 4, 1, 1, 1, 32, 0x0, 0x0, 0x0, 0x0, 0x0⟩,
  ⟨CSIn_ECC_CORR, 4, 1, 1, 1, 32, 0x0, 0x0, 0x0, 0x0, 0x0⟩,
  ⟨CSIn_ECC_UNCORR, 4, 1, 1, 1, 32, 0x0, 0x0, 0x0, 0x0, 0x0⟩,
  ⟨CSIn_CRC_ERR, 4, 1, 1, 1, 32, 0x0, 0x0, 0x0, 0x0, 0x0⟩,
  ⟨CSIn_DROPPED, 4, 1, 1, 1, 32, 0x0, 0x0, 0x0, 0x0, 0x0⟩]

/-- Registers of the ISP_ block. -/
def regTableIsp : List Tmpl := [
  ⟨ISPn_STATUS, 4, 1, 1, 1, 32, 0x0, 0xe, 0x0, 0x0, 0x0⟩,
  ⟨ISPn_PIXELS_IN, 4, 1, 1, 1, 64, 0x0, 0x0, 0x0, 0x0, 0x0⟩,
  ⟨ISPn_PIXELS_OUT, 4, 1, 1, 1, 64, 0x0, 0x0, 0x0, 0x0, 0x0⟩,
  ⟨ISPn_PARAM_TAG, 4, 1, 1, 1, 32, 0xffffffff, 0x0, 0x0, 0x0, 0x0⟩,
  ⟨ISPn_PARAM_PUSH, 4, 1, 1, 1, 64, 0x0, 0x0, 0x3ffffffff, 0x0, 0x0⟩,
  ⟨ISPn_PARAM_RESULT, 4, 1, 1, 1, 32, 0x0, 0x0, 0x0, 0x0, 0x0⟩,
  ⟨ISPn_WB_FILL_MAX_B, 4, 1, 1, 1, 32, 0x0, 0x0, 0x0, 0xffffffff, 0x0⟩,
  ⟨ISPn_Sv_CTRL, 4, 4, 1, 1, 64, 0x1fffffffffffff, 0x0, 0x0, 0x0, 0x1fffffffffffff⟩,
  ⟨ISPn_Sv_FORMAT, 4, 4, 1, 1, 64, 0x3fff3fff07ff, 0x0, 0x0, 0x0, 0x3fff3fff07ff⟩,
  ⟨ISPn_Sv_OUT, 4, 4, 1, 1, 64, 0x3fff3fff0fff, 0x0, 0x0, 0x0, 0x3fff3fff0fff⟩,
  ⟨ISPn_Sv_WAY, 4, 4, 1, 1, 64, 0xffffffffffffffff, 0x0, 0x0, 0x0, 0xffffffffffffffff⟩,
  ⟨ISPn_Sv_DELAY, 4, 4, 1, 1, 32, 0x3fff, 0x0, 0x0, 0x0, 0x3fff⟩,
  ⟨ISPn_Sv_VOID_HANDLE, 4, 4, 1, 1, 32, 0xffffffff, 0x0, 0x0, 0x0, 0xffffffff⟩,
  ⟨ISPn_Sv_STATUS, 4, 4, 1, 1, 32, 0x0, 0x4, 0x0, 0x0, 0x0⟩,
  ⟨ISPn_Sv_BUF, 4, 4, 1, 1, 64, 0x0, 0x0, 0x0, 0x0, 0x0⟩,
  ⟨ISPn_Sv_FRAME, 4, 4, 1, 1, 32, 0x0, 0x0, 0x0, 0x0, 0x0⟩,
  ⟨ISPn_Sv_COUNTS, 4, 4, 1, 1, 64, 0x0, 0x0, 0x0, 0x0, 0x0⟩,
  ⟨ISPn_Sv_PARAM_COUNTS, 4, 4, 1, 1, 64, 0x0, 0x0, 0x0, 0x0, 0x0⟩]

/-- Registers of the SPX_ block. -/
def regTableSpx : List Tmpl := [
  ⟨SPX_STATUS, 1, 1, 1, 1, 32, 0x0, 0x1e, 0x0, 0x0, 0x0⟩,
  ⟨SPX_TDMp_CFG, 2, 1, 1, 1, 64, 0x3ffff000007ff, 0x0, 0x0, 0x0, 0x3ffff000007ff⟩,
  ⟨SPX_TDMp_STATUS, 2, 1, 1, 1, 64, 0x0, 0x0, 0x0, 0x0, 0x0⟩,
  ⟨SPX_Ff_CFG, 16, 1, 1, 1, 64, 0x3fffffffffffff, 0x0, 0x0, 0x0, 0x3fffffffffffff⟩,
  ⟨SPX_Ff_TABLES, 16, 1, 1, 1, 64, 0xffffffffffffffff, 0x0, 0x0, 0x0, 0xffffffffffffffff⟩,
  ⟨SPX_Ff_WAY, 16, 1, 1, 1, 64, 0xffffffffffffffff, 0x0, 0x0, 0x0, 0xffffffffffffffff⟩,
  ⟨SPX_Ff_SCALE, 16, 1, 1, 1, 64, 0xffffffffffffffff, 0x0, 0x0, 0x0, 0xffffffffffffffff⟩,
  ⟨SPX_Ff_BUDGET, 16, 1, 1, 1, 32, 0xffff, 0x0, 0x0, 0x0, 0xffff⟩,
  ⟨SPX_Ff_STATUS, 16, 1, 1, 1, 64, 0x0, 0x2, 0x0, 0x0, 0x0⟩,
  ⟨SPX_Ff_COUNTS, 16, 1, 1, 1, 64, 0x0, 0x0, 0x0, 0x0, 0x0⟩]

/-- Registers of the VCD_ block. -/
def regTableVcd : List Tmpl := [
  ⟨VCD_STATUS, 1, 1, 1, 1, 32, 0x0, 0xe, 0x0, 0x0, 0x0⟩,
  ⟨VCD_LUMA_DECODED, 1, 1, 1, 1, 64, 0x0, 0x0, 0x0, 0x0, 0x0⟩,
  ⟨VCD_Sn_CTRL, 16, 1, 1, 1, 32, 0x7, 0x0, 0x0, 0x0, 0x7⟩,
  ⟨VCD_Sn_PARAM, 16, 1, 1, 1, 32, 0xffffffff, 0x0, 0x0, 0x0, 0xffffffff⟩,
  ⟨VCD_Sn_WAY, 16, 1, 1, 1, 64, 0xffffffffffffffff, 0x0, 0x0, 0x0, 0xffffffffffffffff⟩,
  ⟨VCD_Sn_VOID, 16, 1, 1, 1, 64, 0xffffffffffff, 0x0, 0x0, 0x0, 0xffffffffffff⟩,
  ⟨VCD_Sn_STATUS, 16, 1, 1, 1, 64, 0x0, 0x2, 0x0, 0x0, 0x0⟩,
  ⟨VCD_Sn_BUF, 16, 1, 1, 1, 64, 0x0, 0x0, 0x0, 0x0, 0x0⟩,
  ⟨VCD_Sn_COUNTS, 16, 1, 1, 1, 64, 0x0, 0x0, 0x0, 0x0, 0x0⟩]

/-- Registers of the QM_ block (part 1). -/
def regTableQmA : List Tmpl := [
  ⟨QM_STATUS, 1, 1, 1, 1, 32, 0x0, 0x7, 0x0, 0x0, 0x0⟩,
  ⟨QM_FETCHED, 1, 1, 1, 1, 64, 0x0, 0x0, 0x0, 0x0, 0x0⟩,
  ⟨QM_RETIRED, 1, 1, 1, 1, 64, 0x0, 0x0, 0x0, 0x0, 0x0⟩,
  ⟨QM_MALFORMED, 1, 1, 1, 1, 32, 0x0, 0x0, 0x0, 0x0, 0x0⟩,
  ⟨QM_REFUSED, 1, 1, 1, 1, 32, 0x0, 0x0, 0x0, 0x0, 0x0⟩,
  ⟨QM_STAGEs_DATAw, 16, 8, 1, 1, 64, 0x0, 0x0, 0xffffffffffffffff, 0x0, 0x0⟩,
  ⟨QM_STAGEs_PUSH, 16, 1, 1, 1, 32, 0x0, 0x0, 0xffff, 0x0, 0x0⟩,
  ⟨QM_WAY_PUT, 1, 1, 1, 1, 64, 0x0, 0x0, 0xffff00ffffffffff, 0x0, 0x0⟩,
  ⟨QM_MODEL_BASE, 1, 1, 1, 1, 64, 0x7fffff000, 0x0, 0x0, 0x0, 0x7fffff000⟩,
  ⟨QM_MBX_BASE, 1, 1, 1, 1, 64, 0x7fffff000, 0x0, 0x0, 0x0, 0x7fffff000⟩,
  ⟨QM_CORE_AVAIL, 1, 1, 1, 1, 32, 0xff, 0x0, 0x0, 0x0, 0xff⟩,
  ⟨QM_COMMIT_BASE, 1, 1, 1, 1, 64, 0x1ffffffffc0, 0x0, 0x0, 0x0, 0x1ffffffffc0⟩,
  ⟨QM_COMMIT_NEXT, 1, 1, 1, 1, 32, 0x0, 0x0, 0x0, 0x0, 0x0⟩,
  ⟨QM_KILL, 1, 1, 1, 1, 64, 0x0, 0x0, 0xffffffff, 0x0, 0x0⟩,
  ⟨QM_PLACEMENTS, 1, 1, 1, 1, 64, 0x0, 0x0, 0x0, 0x0, 0x0⟩,
  ⟨QM_SWITCH_B, 1, 1, 1, 1, 64, 0x0, 0x0, 0x0, 0x0, 0x0⟩,
  ⟨QM_KILLS, 1, 1, 1, 1, 32, 0x0, 0x0, 0x0, 0x0, 0x0⟩,
  ⟨QM_ROLLBACKS, 1, 1, 1, 1, 32, 0x0, 0x0, 0x0, 0x0, 0x0⟩,
  ⟨QM_REQ_FAILED, 1, 1, 1, 1, 32, 0x0, 0x0, 0x0, 0x0, 0x0⟩,
  ⟨QM_SWITCH_LAST, 1, 1, 1, 1, 64, 0x0, 0x0, 0x0, 0x0, 0x0⟩]

/-- Registers of the QM_ block (part 2). -/
def regTableQmB : List Tmpl := [
  ⟨QM_MBX_CLAIMk, 8, 1, 1, 1, 64, 0x0, 0x0, 0xffffffff00000fff, 0x0, 0x0⟩,
  ⟨QM_MBX_CLAIMk_RESULT, 8, 1, 1, 1, 64, 0x0, 0x0, 0x0, 0x0, 0x0⟩,
  ⟨QM_MBXm_CFG, 4096, 1, 1, 1, 32, 0x3ffff, 0x0, 0x40000, 0x0, 0x3ffff⟩,
  ⟨QM_MBXm_STATE, 4096, 1, 1, 1, 64, 0x0, 0x0, 0x0, 0x0, 0x0⟩,
  ⟨QM_WAYw_TAKE, 65536, 1, 1, 1, 64, 0x0, 0x0, 0x0, 0xffffffffffffffff, 0x0⟩,
  ⟨QM_Qq_BASE, 65536, 1, 1, 1, 64, 0x7ffffffc0, 0x0, 0x0, 0x0, 0x7ffffffc0⟩,
  ⟨QM_Qq_CFG, 65536, 1, 1, 1, 64, 0xffffffffff, 0x0, 0x0, 0x0, 0xffffffffff⟩,
  ⟨QM_Qq_HEAD, 65536, 1, 1, 1, 32, 0xffffffff, 0x0, 0x0, 0x0, 0x0⟩,
  ⟨QM_Qq_TAIL, 65536, 1, 1, 1, 32, 0xffffffff, 0x0, 0x0, 0x0, 0x0⟩,
  ⟨QM_Qq_PROGRESS, 65536, 1, 1, 1, 64, 0x0, 0x0, 0x0, 0x0, 0x0⟩,
  ⟨QM_Qq_STATUS, 65536, 1, 1, 1, 32, 0x0, 0x50, 0x0, 0x0, 0x0⟩,
  ⟨QM_Qq_CTRL, 65536, 1, 1, 1, 32, 0x0, 0x0, 0x7, 0x0, 0x0⟩,
  ⟨QM_Qq_BREAK, 65536, 1, 1, 1, 64, 0x3ffffffffffff, 0x0, 0x0, 0x0, 0x0⟩]

/-- Registers of the TLY_ block. -/
def regTableTly : List Tmpl := [
  ⟨TLY_t_COUNT, 65536, 1, 1, 1, 32, 0x0, 0x0, 0x0, 0x0, 0x0⟩,
  ⟨TLY_t_ADD, 65536, 1, 1, 1, 32, 0x0, 0x0, 0xffff, 0x0, 0x0⟩,
  ⟨TLY_STATUS, 1, 1, 1, 1, 32, 0x0, 0x1, 0x0, 0x0, 0x0⟩,
  ⟨TLY_SET, 1, 1, 1, 1, 64, 0x0, 0x0, 0xffffffff0000ffff, 0x0, 0x0⟩,
  ⟨TLY_SIGNALS, 1, 1, 1, 1, 64, 0x0, 0x0, 0x0, 0x0, 0x0⟩,
  ⟨TLY_WAITING, 1, 1, 1, 1, 32, 0x0, 0x0, 0x0, 0x0, 0x0⟩]

/-- Registers of the CORE_ block. -/
def regTableCore : List Tmpl := [
  ⟨CORE_ARRAYS_PRESENT, 8, 1, 1, 1, 32, 0x0, 0x0, 0x0, 0x0, 0x0⟩,
  ⟨CORE_SP_GEOMETRY, 8, 1, 1, 1, 64, 0x0, 0x0, 0x0, 0x0, 0x0⟩,
  ⟨CORE_TASKn_BASE, 8, 16, 1, 1, 64, 0xfffffffffffffff, 0x0, 0x0, 0x0, 0xfffffffffffffff⟩,
  ⟨CORE_TASKn_BOUND, 8, 16, 1, 1, 64, 0x8fffffffffffffff, 0x0, 0x0, 0x0, 0xfffffffffffffff⟩,
  ⟨CORE_TASK_CURRENT, 8, 1, 1, 1, 32, 0xf, 0x0, 0x0, 0x0, 0x0⟩,
  ⟨CORE_TASK_RELEASE, 8, 1, 1, 1, 32, 0x0, 0x0, 0xffff, 0x0, 0x0⟩,
  ⟨CORE_TASK_ZEROING, 8, 1, 1, 1, 32, 0x0, 0x0, 0x0, 0x0, 0x0⟩,
  ⟨CORE_LOCK_STATUS, 8, 1, 1, 1, 32, 0x0, 0x1e, 0x0, 0x0, 0x0⟩,
  ⟨CORE_LOCK_CYCLE, 8, 1, 1, 1, 32, 0x0, 0x0, 0x0, 0x0, 0x0⟩,
  ⟨CORE_LOCK_GROUPS, 8, 1, 1, 1, 32, 0x0, 0x0, 0x0, 0x0, 0x0⟩,
  ⟨CORE_LOCK_SKEWS, 8, 1, 1, 1, 32, 0x0, 0x0, 0x0, 0x0, 0x0⟩,
  ⟨CORE_LOCK_SLIPS, 8, 1, 1, 1, 32, 0x0, 0x0, 0x0, 0x0, 0x0⟩,
  ⟨CORE_LOCK_FIRST_SKEW, 8, 1, 1, 1, 64, 0x0, 0x8000000000000000, 0x0, 0x0, 0x0⟩]

/-- Registers of the MXA_ block. -/
def regTableMxa : List Tmpl := [
  ⟨MXAn_STATUS, 8, 2, 1, 1, 32, 0x0, 0x78, 0x0, 0x0, 0x0⟩,
  ⟨MXAn_INSTR_COUNT, 8, 2, 1, 1, 32, 0x0, 0x0, 0x0, 0x0, 0x0⟩,
  ⟨MXAn_BUSY_ARRC, 8, 2, 1, 1, 64, 0x0, 0x0, 0x0, 0x0, 0x0⟩,
  ⟨MXAn_TERMS, 8, 2, 1, 1, 64, 0x0, 0x0, 0x0, 0x0, 0x0⟩,
  ⟨MXAn_FLUSH_SLOTS, 8, 2, 1, 1, 64, 0x0, 0x0, 0x0, 0x0, 0x0⟩]

/-- Registers of the MVP_ block. -/
def regTableMvp : List Tmpl := [
  ⟨MVP_STATUS, 8, 1, 1, 1, 32, 0x0, 0x2, 0x0, 0x0, 0x0⟩,
  ⟨MVP_ROWS, 8, 1, 1, 1, 32, 0x0, 0x0, 0x0, 0x0, 0x0⟩,
  ⟨MVP_SAT_ROWS, 8, 1, 1, 1, 32, 0x0, 0x0, 0x0, 0xffffffff, 0x0⟩]

/-- Registers of the WIN_ block. -/
def regTableWin : List Tmpl := [
  ⟨WIN_STATUS, 8, 1, 1, 1, 32, 0x0, 0x38, 0x0, 0x0, 0x0⟩,
  ⟨WIN_WORDS, 8, 1, 1, 1, 64, 0x0, 0x0, 0x0, 0x0, 0x0⟩,
  ⟨WIN_PAD_WORDS, 8, 1, 1, 1, 64, 0x0, 0x0, 0x0, 0x0, 0x0⟩,
  ⟨WIN_FILL_WORDS, 8, 1, 1, 1, 64, 0x0, 0x0, 0x0, 0x0, 0x0⟩,
  ⟨WIN_GATED_WORDS, 8, 1, 1, 1, 64, 0x0, 0x0, 0x0, 0x0, 0x0⟩,
  ⟨WIN_REGROUP_SHIFTS, 8, 1, 1, 1, 32, 0x0, 0x0, 0x0, 0x0, 0x0⟩,
  ⟨WIN_LAST_REJECT, 8, 1, 1, 1, 64, 0x0, 0x8000000000000000, 0x0, 0x0, 0x0⟩]

/-- Registers of the VEC_ block. -/
def regTableVec : List Tmpl := [
  ⟨VEC_STATUS, 8, 1, 1, 1, 32, 0x0, 0x3c0, 0x0, 0x0, 0x0⟩,
  ⟨VEC_ELEMENTS, 8, 1, 1, 1, 64, 0x0, 0x0, 0x0, 0x0, 0x0⟩,
  ⟨VEC_NAN, 8, 1, 1, 1, 32, 0x0, 0x0, 0x0, 0x0, 0x0⟩,
  ⟨VEC_CURVE_CLAMPS, 8, 1, 1, 1, 32, 0x0, 0x0, 0x0, 0x0, 0x0⟩,
  ⟨VEC_SAT_SLOTS, 8, 1, 1, 1, 32, 0x0, 0x0, 0x0, 0x0, 0x0⟩]

/-- Registers of the QNT_ block. -/
def regTableQnt : List Tmpl := [
  ⟨QNT_STATUS, 8, 1, 1, 1, 32, 0x0, 0x7c, 0x0, 0x0, 0x0⟩,
  ⟨QNT_OUTPUTS, 8, 1, 1, 1, 64, 0x0, 0x0, 0x0, 0x0, 0x0⟩,
  ⟨QNT_SATS, 8, 1, 1, 1, 64, 0x0, 0x0, 0x0, 0x0, 0x0⟩,
  ⟨QNT_INVALID, 8, 1, 1, 1, 32, 0x0, 0x0, 0x0, 0x0, 0x0⟩,
  ⟨QNT_POISONED, 8, 1, 1, 1, 32, 0x0, 0x0, 0x0, 0x0, 0x0⟩,
  ⟨QNT_LAST_STATS, 8, 1, 1, 1, 64, 0x0, 0x0, 0x0, 0x0, 0x0⟩,
  ⟨QNT_ADAPT_RISES, 8, 1, 1, 1, 32, 0x0, 0x0, 0x0, 0x0, 0x0⟩,
  ⟨QNT_ADAPT_FALLS, 8, 1, 1, 1, 32, 0x0, 0x0, 0x0, 0x0, 0x0⟩,
  ⟨QNT_ADAPT_LIMITS, 8, 1, 1, 1, 32, 0x0, 0x0, 0x0, 0x0, 0x0⟩]

/-- Registers of the ROI_ block. -/
def regTableRoi : List Tmpl := [
  ⟨ROI_STATUS, 8, 1, 1, 1, 32, 0x0, 0x38, 0x0, 0x0, 0x0⟩,
  ⟨ROI_BOXES, 8, 1, 1, 1, 64, 0x0, 0x0, 0x0, 0x0, 0x0⟩,
  ⟨ROI_BOXES_DROPPED, 8, 1, 1, 1, 32, 0x0, 0x0, 0x0, 0x0, 0x0⟩,
  ⟨ROI_EXTRAP, 8, 1, 1, 1, 32, 0x0, 0x0, 0x0, 0x0, 0x0⟩,
  ⟨ROI_OUTPUTS, 8, 1, 1, 1, 64, 0x0, 0x0, 0x0, 0x0, 0x0⟩]

/-- Registers of the MOV_ block. -/
def regTableMov : List Tmpl := [
  ⟨MOV_STATUS, 8, 1, 1, 1, 32, 0x0, 0x38, 0x0, 0x0, 0x0⟩,
  ⟨MOV_READ_B, 8, 1, 1, 1, 64, 0x0, 0x0, 0x0, 0x0, 0x0⟩,
  ⟨MOV_WRITE_B, 8, 1, 1, 1, 64, 0x0, 0x0, 0x0, 0x0, 0x0⟩,
  ⟨MOV_RUNS, 8, 1, 1, 1, 64, 0x0, 0x0, 0x0, 0x0, 0x0⟩,
  ⟨MOV_OUTSTANDING_MAX, 8, 1, 1, 1, 32, 0x0, 0x0, 0x0, 0x1ff, 0x0⟩,
  ⟨MOV_WAY_LOST, 8, 1, 1, 1, 32, 0x0, 0x0, 0x0, 0x0, 0x0⟩]

/-- Registers of the SP_ block. -/
def regTableSp : List Tmpl := [
  ⟨SP_STATUS, 8, 1, 1, 1, 32, 0x0, 0x1f, 0x0, 0x0, 0x0⟩,
  ⟨SP_COLLIDE, 8, 1, 1, 1, 32, 0x0, 0x0, 0x0, 0x0, 0x0⟩,
  ⟨SP_ECC_CORR, 8, 1, 1, 1, 32, 0x0, 0x0, 0x0, 0x0, 0x0⟩,
  ⟨SP_ECC_UNCORR, 8, 1, 1, 1, 32, 0x0, 0x0, 0x0, 0x0, 0x0⟩,
  ⟨SP_ECC_LAST, 8, 1, 1, 1, 64, 0x0, 0x8000000000000000, 0x0, 0x0, 0x0⟩,
  ⟨SP_SCRUB_CTRL, 8, 1, 1, 1, 32, 0x1fff0001, 0x0, 0x0, 0x0, 0x1fff0001⟩,
  ⟨SP_SCRUB_PASSES, 8, 1, 1, 1, 32, 0x0, 0x0, 0x0, 0x0, 0x0⟩,
  ⟨SP_SCRUB_PASS_NS, 8, 1, 1, 1, 32, 0x0, 0x0, 0x0, 0x0, 0x0⟩,
  ⟨SP_ZERO_DISCARDS, 8, 1, 1, 1, 32, 0x0, 0x0, 0x0, 0x0, 0x0⟩,
  ⟨SP_PH_STATUS, 8, 1, 1, 1, 32, 0x0, 0x0, 0x0, 0x0, 0x0⟩,
  ⟨SP_PH_COUNTS, 8, 1, 1, 1, 64, 0x0, 0x0, 0x0, 0x0, 0x0⟩,
  ⟨SP_ECC_INJECT, 8, 1, 1, 1, 32, 0x7ff, 0x0, 0x0, 0x0, 0x3ff⟩]

/-- Every register of the map. -/
def regTable : List Tmpl :=
  regTableSysA ++ regTableSysB ++ regTableClk ++ regTableCfg ++
  regTableFcu ++ regTablePwr ++ regTableTimA ++ regTableTimB ++ regTableD2d ++ regTableBoot ++ regTableSec ++ regTableNvm ++
  regTableHmpA ++
  regTableHmpB ++ regTableEthA ++ regTableEthB ++ regTableMgt ++ regTableCsi ++ regTableIsp ++ regTableSpx ++ regTableVcd ++
  regTableQmA ++
  regTableQmB ++ regTableTly ++ regTableCore ++ regTableMxa ++ regTableMvp ++ regTableWin ++ regTableVec ++ regTableQnt ++ regTableRoi ++ regTableMov ++ regTableSp

/-- Takes an index of `n` copies at stride `s` off an offset (`none` where the offset passes the last copy). -/
def takeIndex (d n s : Nat) : Option (Nat × Nat) :=
  if n = 1 then some (0, d)
  else if d / s < n then some (d / s, d % s) else none

/-- The indices of the copy of `t` that stands at address `a`, if one does. -/
def Tmpl.at? (t : Tmpl) (a : Nat) : Option (Nat × Nat × Nat × Nat) :=
  if a < t.reg.base then none
  else
    match takeIndex (a - t.reg.base) t.n1 t.reg.s1 with
    | none => none
    | some (i, d) =>
      match takeIndex d t.n2 t.reg.s2 with
      | none => none
      | some (j, d) =>
        match takeIndex d t.n3 t.reg.s3 with
        | none => none
        | some (k, d) =>
          match takeIndex d t.n4 t.reg.s4 with
          | none => none
          | some (l, d) => if d = 0 then some (i, j, k, l) else none

/-- A register copy found at an address: its row and its indices. -/
structure RegAt where
  t : Tmpl
  i : Nat
  j : Nat
  k : Nat
  l : Nat

/-- The register whose copy starts at address `a` (`none`: no register starts there, R472). -/
def regAt? (a : Nat) : List Tmpl → Option RegAt
  | [] => none
  | t :: ts =>
    match t.at? a with
    | some (i, j, k, l) => some ⟨t, i, j, k, l⟩
    | none => regAt? a ts

/-- The reset word of a register copy. -/
def RegAt.rst (r : RegAt) : Word := r.t.reg.rst r.i

end Sys2Proof.Machine
end

