-- ==== Sys2Proof/Machine/State.lean ====
section
/-! DEFINITION. The state of the part as plain data: the register store, the memories, and per block everything its chapter
gives it beside its registers; the faults and refusals of the model; and the state after reset. Registers that no entry of
`regs` lists hold their reset word (Machine/Fields.lean). -/

namespace Sys2Proof.Machine

/-- The ways the model itself stops. -/
inductive Fault where
  /-- Raised by a command that names a core, queue, port, stream, slot or other unit the part does not have. Safe: the
  part has no such unit, so it could not have executed the command. -/
  | noSuchUnit
  deriving DecidableEq, Repr

/-- Commands the model does not execute. -/
inductive Refusal where
  /-- Raised by the dispatcher alone, for a command without a meaning. Safe: the model stops where the part goes on. -/
  | notModelled (mnemonic : String)
  deriving DecidableEq, Repr

/-- What fuses fix on one part (R2, R6, R98, R362, R455, R490): enabled arrays of the eight cores (bit 0 MXA0, bit 1
MXA1), serial number, MAC address, stepping [DESIGN CHOICE, log entry 3]. -/
structure Fuses where
  arrays : List Nat
  serial : Nat
  mac : Nat
  stepping : Nat
  deriving DecidableEq, Repr

/-- One boot key slot (R455): the 512-bit hash once programmed, and revocation. -/
structure KeySlot where
  hash : Option Nat
  revoked : Bool
  deriving DecidableEq, Repr

/-- A one-time-programmable write under way (R455, R456): what it will set, and when it began. -/
inductive NvmJob where
  | advance (value : Nat)
  | key (slot hash : Nat)
  | revoke (slots : Nat)
  | lock
  deriving DecidableEq, Repr

/-- The one-time-programmable store (R455, R456), with the writes whose words fail their check at the next boot (R501)
[DESIGN CHOICE, log entry 3]. -/
structure Nvm where
  slots : List KeySlot
  counter : Nat
  advancesLeft : Nat
  locked : Bool
  job : Option (NvmJob × Nat)
  broken : List NvmJob := []
  deriving DecidableEq, Repr

/-- Clock unit and reset pins (R25 to R30, R499, R509): whether RESET_N is held, whether the divided clocks run and have run
since release, the tick at which RESET_N was released, requested divider steps, per core the tick from which its ARR cycles are counted
at its present step with their count until then, and failed replays of each link's transfer at hand. -/
structure Clk where
  inReset : Bool
  running : Bool
  started : Bool
  releasedAt : Nat
  periodStart : Nat
  pendingStep : List (Option Nat)
  arrBase : List (Nat × Nat)
  linkFails : List Nat
  deriving DecidableEq, Repr

/-- What waits for held transactions (R280): nothing that the ration keeps, an access of a path, a write of DRAM, a timer's push, the
response of firmware in a slot, or the admission engine's response with its reason. -/
inductive HeldOp where
  | none
  | access (src : Nat) (a : Access)
  | write (addr : Nat) (bytes : List Byte)
  | push (timer : Nat)
  | respond (slot : Nat)
  | answer (addr : Nat) (bytes : List Byte) (reason : Nat)
  deriving DecidableEq, Repr

/-- Held transactions of one request: how many, since which tick, and what they let go. -/
structure HeldTx where
  count : Nat
  since : Nat
  op : HeldOp
  deriving DecidableEq, Repr

/-- Ration state beside the registers (R279 to R281): budgets, reserves and lend masks in force, the requests on hold per class, oldest
first, and which classes have already counted a wait in this period. -/
structure Ration where
  budget : List Nat
  reserve : List Nat
  lenders : Nat
  borrowers : Nat
  held : List (List HeldTx)
  waited : List Bool
  deriving DecidableEq, Repr

/-- An entry of a waystation (R265). -/
structure WayEntry where
  handle : Nat
  status : Nat
  seq : Nat
  deriving DecidableEq, Repr

/-- Where a fetched descriptor stands (R232, R235, R238, R251). -/
inductive Stage where
  | fetched   -- with the Drover
  | broken    -- held unforwarded by a TAG break
  | intake    -- in its engine's intake
  | running   -- a lockstep member or a mover descriptor in progress
  | moved     -- a mover descriptor whose runs are done and whose WAY_OUT put is outstanding
  | ended     -- ended, signals not yet delivered or withheld
  | done      -- signals delivered or withheld, record not yet posted
  deriving DecidableEq, Repr

/-- The task a descriptor latched when it entered its engine (R146): number, ENABLE, and base and bound rows of WSP, ASP
and PSP. -/
structure TaskLatch where
  task : Nat
  enable : Bool
  base : List Nat
  bound : List Nat
  deriving DecidableEq, Repr

/-- A descriptor fetched and not yet retired (R214, R232, R235, R243). `desc` holds its 64 bytes as a little-endian
number; `member` marks a lockstep member or an opener's member slot (R103); `met` has bit j set once wait j has been met
(R232); `released` records the release reaction (R236), `discarded` that a write of it was discarded (R150). -/
structure Flight where
  queue : Nat
  index : Nat
  pos : Nat
  desc : Nat
  core : Nat
  stage : Stage
  member : Bool
  opener : Nat
  met : Nat
  status : Nat
  fclass : Nat
  fsource : Nat
  released : Bool
  latch : TaskLatch
  entry : Option WayEntry
  discarded : Bool := false
  deriving DecidableEq, Repr

/-- A caravan in flight (R288 to R299): its CARAVAN_BEGIN's fields, READY_TIME, core and placement tick, descriptors of
its chain fetched, the status under which the Drover has ended it, the statuses with which its descriptors completed, what its
commit record will hold (R302, R311), its model entry as read (R291), TABLE_HANDLE of its QNT_ADAPT (R206), whether its mailbox and entry
have been checked (R291), and the chain position from which the Drover has ended it (R218) [DEDUCED, log entry 16]. -/
structure Caravan where
  queue : Nat
  index : Nat
  id : Nat
  model : Nat
  mailbox : Nat
  part : Nat
  pin : Nat
  task : Nat
  tallyBase : Nat
  tallyCount : Nat
  chain : Nat
  len : Nat
  readyAt : Option Nat
  core : Option Nat
  placedAt : Nat
  fetched : Nat
  membersLeft : Nat
  openerPos : Nat
  begun : Bool
  ending : Option Nat
  killed : Bool
  statuses : List Nat
  lenB : Nat
  ended : Bool
  posted : Bool
  digest : Nat
  stateStep : Nat
  entry : Nat
  adapt : Option Nat
  checked : Bool := false
  endFrom : Nat := 0
  deriving DecidableEq, Repr

/-- A part of a pending request that has ended (R305 to R307): its index, final status, bytes copied, whether it succeeded,
and the caravan that ran it, if one did. -/
structure PartEnd where
  part : Nat
  status : Nat
  ok : Bool
  lenB : Nat
  run : Option Caravan
  deriving DecidableEq, Repr

/-- A completion record waiting for its completion ring (R244). -/
structure HeldRecord where
  ring : Nat
  bytes : List Byte
  notify : Bool
  queue : Nat
  deriving DecidableEq, Repr

/-- Signals withheld from a completed descriptor (R236): the descriptor and its signals as (tally, increment). -/
structure Withheld where
  ref : DescRef
  signals : List (Nat × Nat)
  deriving DecidableEq, Repr

/-- Drover, tally, waystation and mailbox state beside the registers and DRAM: flights in descriptor order, caravans in
flight, withheld signals, ended parts per mailbox, pushes accepted per queue in this ration period (R247), and cores whose
Packhorse the next FENCE of a queue drains (R248). -/
structure Drover where
  flights : List Flight
  caravans : List Caravan
  withheld : List Withheld
  parts : List (Nat × List PartEnd)
  pushes : List (Nat × Nat)
  fenceCores : List (Nat × Nat)
  records : List HeldRecord
  deriving DecidableEq, Repr

/-- A Packhorse entry (R134): the scratchpad row by its first address, 128 data bytes with their valid mask, poison per
word, the task of the writing descriptor (none for a control core or the debug path), the descriptors whose writes it holds, latest
first, and the core's ARR cycle of the last write. Entries are listed oldest first. -/
structure PhEntry where
  row : Nat
  data : List Byte
  mask : Nat
  poison : Nat
  task : Option Nat
  refs : List DescRef
  stamp : Nat
  deriving DecidableEq, Repr

/-- A word waiting for its correction write-back (R139): address, data, poison. -/
structure CorrEntry where
  addr : Nat
  value : Nat
  poison : Bool
  deriving DecidableEq, Repr

/-- A task whose regions are being zeroed (R148): number and row ranges of WSP, ASP and PSP. -/
structure ZeroTask where
  task : Nat
  lo : List Nat
  hi : List Nat
  deriving DecidableEq, Repr

/-- A word on a lock link (R114, R115): its producer, the group cycle at which it is present, VALID is its being here, POISON, tag and
payload. -/
structure LinkWord where
  ref : DescRef
  cycle : Nat
  poison : Bool
  tag : Nat
  payload : List Int
  deriving DecidableEq, Repr

/-- A member of the lockstep group in progress (R107, R108, R112): its descriptor, engine, LOCK_OFFSET, from which cycle of its own run its
events come later and by how many slips, whether it has started and run, and the group cycle at which it ends. -/
structure Member where
  ref : DescRef
  engine : Nat
  offset : Nat
  slipAt : Nat
  slip : Nat
  started : Bool
  ran : Bool
  endCycle : Nat
  deriving DecidableEq, Repr

/-- A member's write of one bank row (R118): its writer, its rank among writes of one cycle (R112, R118), the row, the group cycle at which
the bank takes it, its stamp's tag, the words written (value, poison) and the sixteen words as they were. -/
structure RowWrite where
  ref : DescRef
  rank : Nat
  row : Nat
  cycle : Nat
  tag : Nat
  words : List (Option (Nat × Bool))
  old : List (Nat × Bool)
  deriving DecidableEq, Repr

/-- The lockstep group of a core (R103 to R109, R111): opener, LENGTH, whether group cycle 0 has come and at which count of the core's ARR
cycles, its members in queue order, the four links' words (WF0, WF1, QV, VQ) and the row writes of the members that have run; those that
members which have not run yet are going to make; the earliest cause of TIMING_SKEW with its member, the cycle that it has put into
CORE_LOCK_FIRST_SKEW, and whether a member had BOUND_VIOLATION (R123). -/
structure Group where
  opener : DescRef
  length : Nat
  started : Bool
  members : List Member
  links : List (List LinkWord) := [[], [], [], []]
  writes : List RowWrite := []
  aheadLinks : List (List LinkWord) := [[], [], [], []]
  ahead : List RowWrite := []
  skew : Option (Nat × DescRef) := none
  record : Option Nat := none
  bound : Bool := false
  since : Nat := 0
  seed : Nat := 0
  deriving DecidableEq, Repr

/-- A curve store of VEC (R195): breakpoints and coefficients as FP32 bit patterns in the order of the table. -/
structure CurveStore where
  count : Nat
  words : List Nat
  deriving DecidableEq, Repr

/-- A model's live state resident on a core (R296): model, dirty or clean, and the base rows (WSP, ASP, PSP) of the task it lies
in. -/
structure Resident where
  model : Nat
  dirty : Bool
  base : List Nat
  deriving DecidableEq, Repr

/-- What a mover has still to do for the descriptor it runs (R255 to R261, R280): its block list as read, blocks and runs of the present
block that are done, whether the next run's transactions have been charged, what each granule held before the descriptor wrote it, and
whether poison was met [DEDUCED, log entry 43]. -/
structure MovWork where
  list : List Nat
  block : Nat
  run : Nat
  charged : Bool
  before : List (Nat × List (Byte × Bool))
  poison : Bool
  deriving DecidableEq, Repr

/-- One core beside its registers and scratchpads. Of its times, `scrubStart` is a tick and `scrubTick`, `levelTick` and `arrayEnd` (where an
array last ended an instruction) are counts of its
ARR cycles. `ctx` is the 512-byte engine context of R295 as a little-endian number
[DESIGN CHOICE, log entry 26]. -/
structure CoreState where
  zeroing : List ZeroTask
  release : List Nat
  packhorse : List PhEntry
  corrections : List (List CorrEntry)
  scrubRow : List (Nat × Nat)
  scrubTick : List (Nat × Nat)
  scrubStart : Nat
  group : Option Group
  arrayEnd : List (Option Nat) := [none, none]
  curves : List (Option CurveStore)
  resident : Option Resident
  ctx : Nat
  levelTick : List Nat
  mover : Option MovWork
  fills : List Nat
  deriving DecidableEq, Repr

/-- A report asserted by a source and not yet collected by the FCU (R432): source, class, the attributed descriptor with
its caravan and core (R433), and whether it was injected (R447). -/
structure Report where
  source : Nat
  cls : Nat
  ref : Option DescRef
  caravanId : Nat
  core : Option Nat
  injected : Bool
  deriving DecidableEq, Repr

/-- A fault state (R440 to R443) of the part or of one core: the source that began it, the tick its quiet period runs out
and its start, the recovery phase, and the ticks at which recoveries of this scope began. -/
structure FaultScope where
  source : Nat
  quietStart : Nat
  quietEnd : Nat
  seqStart : Nat
  phase : Nat
  begun : List Nat
  deriving DecidableEq, Repr

/-- FCU state beside its registers: reports asserted, the part's and the cores' fault states, wire tests in progress (source, pair and
level), and the tick of the last report of a LEVEL source's class. -/
structure Fcu where
  reports : List Report
  part : FaultScope
  cores : List FaultScope
  wireTests : List (Nat × (Nat × Nat))
  levelAt : List (Nat × Nat)
  deriving DecidableEq, Repr

/-- A capture stamp (R407). -/
structure CapStamp where
  sec : Nat
  ns : Nat
  rising : Bool
  deriving DecidableEq, Repr

/-- A trigger output (R403 to R406): index of the next target, whether a pulse is in progress and its ticks left, level of the
ball, whether the fold holds it at its SAFE level, and one more than the tick of its last firing. -/
structure Trig where
  next : Nat
  pulsing : Bool
  pulseLeft : Nat
  level : Bool
  safe : Bool
  fired : Nat
  deriving DecidableEq, Repr

/-- The time unit (R393 to R409): the clock and the INCREMENT in force in this tick (R397); a SET or STEP write waiting for the end of the tick; the TIM_NOW latches by path;
triggers; per timer its next target and one more than the tick of its last firing; capture FIFOs; starts of the watchdog and of the holdover; PTP slots being sent and the next receive slot. -/
structure Tim where
  sec : Nat
  ns : Nat
  frac : Nat
  inc : Nat
  pendingSet : Option (Nat × Nat)
  pendingStep : Option Int
  latches : List (Nat × (Nat × Nat))
  trigs : List Trig
  timerNext : List Nat
  timerFired : List Nat
  caps : List (List CapStamp)
  watchStart : Nat
  holdStart : Nat
  ptpTx : List Nat
  ptpRx : Nat
  deriving DecidableEq, Repr

/-- A line of a weight cache (R273): its tag is the line number. Sets are listed by number, most recently used way first. -/
abbrev WcSets := List (Nat × List Nat)

/-- What the last register or memory access returned on its path (R478): status code and value. -/
structure AccessResult where
  status : Nat
  value : Nat
  deriving DecidableEq, Repr

/-- The configuration CRC engine's pass (R488, R489): whether it is still clean, when it began, and whether it began after
the pending commit. -/
structure CrcPass where
  clean : Bool
  start : Nat
  commit : Bool
  deriving DecidableEq, Repr

/-- Pins that no register holds (R450, R499, R502): FAULT_N asserted, xSPI balls driven. -/
structure Pins where
  faultN : Bool
  xspi : Bool
  deriving DecidableEq, Repr

/-- The debug port (R504): instruction register, the data register as last captured, and the access register's fields. -/
structure Dbg where
  ir : Nat
  dr : Nat
  done : Bool
  overrun : Bool
  status : Nat
  data : Nat
  deriving DecidableEq, Repr

/-- The CMB (R505, R506): sampled address straps, alert bits and mask, rail registers, the value that the last read returned, and the tick
of the last comparison of the rails. -/
structure Cmb where
  straps : Nat
  alert : Nat
  mask : Nat
  rails : List Nat
  lastRead : Nat
  checked : Nat
  deriving DecidableEq, Repr

/-- An ISP parameter set (R333 to R335): group, ID, the tag it was pushed with, payload. -/
structure ParamSet where
  group : Nat
  id : Nat
  tag : Nat
  data : List Byte
  deriving DecidableEq, Repr

/-- A frame in reception (R329, R331, R332, R335): numbers, PTP time and tick of its start, its lines as received, the sets in force by
group, LATE_PARAM, whether its first line has come, and the main and tap buffers taken for it, none where it is discarded. -/
structure IspFrame where
  number : Nat
  csiNo : Nat
  fsS : Nat
  fsN : Nat
  start : Nat
  lines : List (List Byte)
  force : List (Option ParamSet)
  late : Bool
  begun : Bool
  buf : Option Nat
  tap : Option Nat
  deriving DecidableEq, Repr

/-- An entry on its way to a waystation (R329, R330): handle, status, the header to write first once the frame's writes are visible, and
whether its put signals. -/
structure OutItem where
  handle : Nat
  status : Nat
  header : Option (List Byte)
  signal : Bool
  deriving DecidableEq, Repr

/-- A stream of an image pipeline (R322 to R335): frame in reception, entries to put in frame order, parameter queues in order of
push, the sets in force by group, and whether a frame start has come whose frame end has not (R332). -/
structure IspStream where
  frame : Option IspFrame
  outQ : List OutItem
  tapQ : List OutItem
  queue : List ParamSet
  force : List (Option ParamSet)
  started : Bool := false
  deriving DecidableEq, Repr

/-- A camera port and its pipeline (R321, R322, R333): its streams, the parameter push being checked (handle, stream, tag), bytes in the line
store and the tick of that count. -/
structure IspPort where
  streams : List IspStream
  push : Option (Nat × (Nat × Nat))
  storeB : Nat
  storeTick : Nat
  deriving DecidableEq, Repr

/-- A sample of a feature stream (R340, R341, R346): FP32 pattern, the reason for which it is lost or 0, PTP time of the frame sync that
began it, tick of its arrival. -/
structure SpxSample where
  v : Nat
  lost : Nat
  sec : Nat
  ns : Nat
  tick : Nat
  deriving DecidableEq, Repr

/-- A feature buffer not yet put (R346, R347): first frame, its handle if one was free, the frames computed as they will be stored, the
lost map, the first void reason or 0, the header's time, the tick of its last frame's last sample, and whether it has expired. -/
structure SpxBuf where
  first : Nat
  handle : Option Nat
  frames : List (List Nat)
  lostMap : Nat
  reason : Nat
  sec : Nat
  ns : Nat
  tick : Nat
  expired : Bool
  deriving DecidableEq, Repr

/-- A feature stream (R342 to R347): samples from number `base` on, the window and bank tables as copied, the next frame, the
buffer being filled, and buffers to put in order. -/
structure SpxStream where
  samples : List SpxSample
  base : Nat
  window : List Nat
  bank : List (Nat × (Nat × Nat))
  weights : List Nat
  next : Nat
  cur : Option SpxBuf
  outQ : List SpxBuf
  deriving DecidableEq, Repr

/-- A TDM port (R340): whether a sync has come, good syncs since the last error, PTP time of the sync that began the frame in progress. What
its sample store holds is the samples of its streams that no computation has taken. -/
structure TdmPort where
  synced : Bool
  good : Nat
  sec : Nat
  ns : Nat
  deriving DecidableEq, Repr

/-- A picture of a codec session (R353 to R355): number, start tick, time stamp, buffer if one was free, void reason or 0, payload bytes,
header fields. -/
structure VcdPic where
  seq : Nat
  start : Nat
  pts : Nat
  buf : Option Nat
  reason : Nat
  lenB : Nat
  w : Nat
  h : Nat
  depth : Nat
  irap : Bool
  poc : Int
  deriving DecidableEq, Repr

/-- A codec session (R349 to R356): its parameter block, access units or input pictures since it opened, lost ones, the picture on a
core, pictures waiting for their place in output order, entries to put (handle, status), times of the last pictures in
nanoseconds, whether it is closing, and an encoder's previous picture and rate control. -/
structure VcdSession where
  param : List Byte
  inputs : List (List Byte)
  lost : List Nat
  run : Option VcdPic
  held : List VcdPic
  outQ : List (Nat × Nat)
  times : List Nat
  closing : Bool
  ref : List Byte := []
  rc : Nat := 0
  deriving DecidableEq, Repr

/-- The partner of a session or the sender of a request (R372): port, source MAC, VID, and for UDP whether over IPv6, address and port. -/
structure Partner where
  port : Nat
  mac : Nat
  vid : Nat
  udp : Option (Bool × (Nat × Nat))
  deriving DecidableEq, Repr

/-- A request accepted and not yet answered (R375): its session's slot, none for SESSION_OPEN and once the session has closed, the session
ID it named, its sender, type, number, numbers skipped, whether it is a repeat, its payload, whether MACsec verified it, the PTP
time of its arrival, and whether its transactions are charged and hold it (R378). -/
structure HmpReq where
  slot : Option Nat
  session : Nat
  partner : Partner
  type : Nat
  seq : Nat
  gap : Nat
  replayed : Bool
  payload : List Byte
  secured : Bool
  sec : Nat
  ns : Nat
  charged : Bool
  deriving DecidableEq, Repr

/-- A replay entry (R375, R376): the number executed, the request's type and payload, and the response where it is kept. -/
structure Replay where
  seq : Nat
  type : Nat
  payload : List Byte
  kept : Option (List Byte)
  deriving DecidableEq, Repr

/-- An HMP session slot (R372 to R376): last generation, partner, S0, TIMEOUT_MS, tick of the last accepted request, replay entries of the
last numbers executed, newest first, and requests accepted in the ration period that began at a tick. -/
structure HmpSession where
  gen : Nat
  partner : Partner
  s0 : Nat
  timeout : Nat
  last : Nat
  replays : List Replay
  period : Nat
  accepted : Nat
  deriving DecidableEq, Repr

/-- A slot of the firmware ring in use (R386): its request, the tick of its arrival, and whether its response waits for held
transactions. -/
structure FwJob where
  slot : Nat
  req : HmpReq
  since : Nat
  answered : Bool
  deriving DecidableEq, Repr

/-- A received stream under sequence recovery (R363): its key, highest number, history bits, and the tick of its last frame. -/
structure CbStream where
  mac : Nat
  vid : Nat
  fresh : Bool
  recov : Nat
  history : Nat
  tick : Nat
  deriving DecidableEq, Repr

/-- A frame queued for a port, or the last one it sent: destination, tag control, R-TAG number, EtherType, the IP and UDP headers before
its bytes where they go as a datagram, its bytes, traffic class, HMP type or 0, whether it leaves under MACsec, and the SecTAG it was sent with. Of a frame sent under MACsec, `bytes` are the secured bytes, tags and headers among them. -/
structure TxFrame where
  da : Nat
  tag : Option Nat
  rtag : Option Nat
  etherType : Nat
  head : List Byte
  bytes : List Byte
  tc : Nat
  type : Nat
  secure : Bool
  sectag : Option SecTag
  deriving DecidableEq, Repr

/-- A gate control list (R363): first cycle boundary in nanoseconds, cycle time, entries (gates, interval in 8 ns). -/
structure GateList where
  start : Nat
  cycle : Nat
  entries : List (Nat × Nat)
  deriving DecidableEq, Repr

/-- A port (R360 to R368): queued frames in order, the last one sent and the tick at which it has left the wire (R388), the admin list
waiting for its boundary, the operational list, per metered filter its tokens in thousandths of a bit with the tick of that count, and
the receive SAs, 4 c + a, whose LOWEST_PN has passed the last packet number (R367). -/
structure EthPort where
  txq : List TxFrame
  lastTx : Option TxFrame
  txUntil : Nat
  admin : Option GateList
  oper : Option GateList
  meters : List (Nat × (Nat × Nat))
  rxSpent : List Nat
  deriving DecidableEq, Repr

/-- The last word of a fold (R388, R389): tick of fold entry, copies sent, PTP time, source, FCU_RECOVERIES, QM_COMMIT_NEXT, folds. -/
structure LastWord where
  tick : Nat
  copies : Nat
  sec : Nat
  ns : Nat
  source : Nat
  recoveries : Nat
  commit : Nat
  folds : Nat
  deriving DecidableEq, Repr

/-- The HMP engine (R369 to R389): session slots, accepted requests in order, firmware ring slots in use, the firmware receive ring (port and
frame), streams under sequence recovery, the next R-TAG number, and the last word. -/
structure Hmp where
  sessions : List HmpSession
  queue : List HmpReq
  fw : List FwJob
  fwRx : List (Nat × EthFrame)
  cb : List CbStream
  rtag : Nat
  lastWord : Option LastWord
  deriving DecidableEq, Repr

/-- Power telemetry of a core in the present interval (R416, R420), in counts of its ARR cycles: those at the interval's start, at the latest
change of phase, by phase, and in which each engine was busy. -/
structure PwrCore where
  start : Nat
  since : Nat
  held : List (Nat × Nat)
  busy : List Nat
  deriving DecidableEq, Repr

/-- The CPB beside its registers (R410 to R428): samples of the interval and their sum in microwatts, ticks of the interval's start and of the
last power and thermal samples, tenths of a microjoule not yet counted, intervals in a row over the cap, phases written in the interval,
curve points reached, samples in a row at CRIT_MC or above, and per core its telemetry. -/
structure Pwr where
  samples : Nat
  sum : Nat
  start : Nat
  sampled : Nat
  thermal : Nat
  rest : Nat
  overCap : Nat
  written : List Nat
  reached : List Bool
  crit : Nat
  cores : List PwrCore
  deriving DecidableEq, Repr

/-- Boot (R457 to R459): whether RESTART asked for the attempt, tick of the attempt's start, the manifest's bytes once accepted,
PAYLOAD_OFFSET, the next block, the bytes of CONFIG, whether links, DRAM and self-test are done, and the tick of the last failure. -/
structure Boot where
  forced : Bool
  start : Nat
  manifest : List Byte
  payloadAt : Nat
  next : Nat
  config : List Byte
  hwDone : Bool
  failTick : Nat
  deriving DecidableEq, Repr

/-- An admission context (R462 to R465): its ADMISSION, MANIFEST_B, NEXT_OFFSET, the manifest once it has passed, the block buffer, blocks
done, bytes of ENTRY and PHASES by payload offset, and the tick of its last request. -/
structure AdmCtx where
  id : Nat
  manifestB : Nat
  next : Nat
  manifest : Option (List Byte)
  block : List Byte
  done : Nat
  entry : List Byte
  phases : List Byte
  last : Nat
  deriving DecidableEq, Repr

/-- An admission record (R465): MODEL_ID, SEQUENCE, measurement as 64 bytes, and the model's DRAM ranges (R463). -/
structure AdmRecord where
  model : Nat
  sequence : Nat
  measurement : List Byte
  ranges : List (Nat × Nat)
  deriving DecidableEq, Repr

/-- The admission engine of the CSB (R461 to R466): contexts, per context the last ADMISSION that a timeout, the fold or ABORT closed, the
address of the request in hand, admission records in ascending MODEL_ID order. -/
structure Adm where
  ctxs : List (Option AdmCtx)
  closed : List (Option Nat)
  req : Option Nat
  records : List AdmRecord
  deriving DecidableEq, Repr


/-- The state of the part. -/
structure State where
  /-- Commands waiting, first in, first out. -/
  pending : List Instr
  /-- Register words that differ from reset or have been written, by address (R471 to R474). -/
  regs : List (Nat × Word)
  /-- Bytes of DRAM, scratchpads (at their debug window addresses) and control-core memories (R471). -/
  mem : List Host.Cell
  /-- Poisoned DRAM granules and scratchpad words, by first address (R140, R261). -/
  poison : List Nat
  /-- Stored check bits of a scratchpad word XORed with the right ones (R138, R143). -/
  checkFlips : List (Nat × Nat)
  /-- Stamp tags of scratchpad rows whose VALID is set (R118). -/
  stamps : List (Nat × Nat)
  /-- Bytes of the boot NOR (R450). -/
  nor : List Host.Cell
  fuses : Fuses
  nvm : Nvm
  clk : Clk
  /-- Ticks of 8 ns of the reference since RESET_N release (R490). -/
  refTick : Nat
  ration : Ration
  wc : List WcSets
  drover : Drover
  cores : List CoreState
  fcu : Fcu
  tim : Tim
  crc : CrcPass
  pins : Pins
  dbg : Dbg
  cmb : Cmb
  isp : List IspPort
  spx : List SpxStream
  tdm : List TdmPort
  vcd : List VcdSession
  /-- The session of each KIND that a codec core served last (R353). -/
  vcdLast : List Nat
  eth : List EthPort
  hmp : Hmp
  pwr : Pwr
  boot : Boot
  adm : Adm
  /-- Result of the last access on any register path. -/
  lastAccess : AccessResult
  /-- The model's own index of the next free value. -/
  freeIndex : Nat
  deriving DecidableEq, Repr

/-- A core with nothing in it. -/
def CoreState.empty : CoreState :=
  { zeroing := [], release := [], packhorse := [], corrections := [[], [], []], scrubRow := [], scrubTick := [],
    scrubStart := 0, group := none, curves := [none, none, none, none], resident := none, ctx := 0, levelTick := [0, 0]
    mover := none, fills := [] }

/-- A fault state that has never begun. -/
def FaultScope.empty : FaultScope :=
  { source := 0, quietStart := 0, quietEnd := 0, seqStart := 0, phase := 0, begun := [] }

/-- A trigger output at reset: driven low (R499). -/
def Trig.empty : Trig := { next := 0, pulsing := false, pulseLeft := 0, level := false, safe := false, fired := 0 }

/-- Ration budgets in force at reset (R277). -/
def Ration.resetBudgets : List Nat :=
  [20000, 20000, 20000, 20000, 20000, 20000, 20000, 20000, 400, 400, 400, 400, 800, 16, 128, 400]

/-- An image stream at reset. -/
def IspStream.empty : IspStream := { frame := none, outQ := [], tapQ := [], queue := [], force := List.replicate 7 none }

/-- A camera port at reset. -/
def IspPort.empty : IspPort := { streams := List.replicate 4 IspStream.empty, push := none, storeB := 0, storeTick := 0 }

/-- A feature stream, a TDM port and a codec session at reset. -/
def SpxStream.empty : SpxStream :=
  { samples := [], base := 0, window := [], bank := [], weights := [], next := 0, cur := none, outQ := [] }
def TdmPort.empty : TdmPort := { synced := false, good := 0, sec := 0, ns := 0 }
def VcdSession.empty : VcdSession :=
  { param := [], inputs := [], lost := [], run := none, held := [], outQ := [], times := [], closing := false }

/-- Ports, HMP engine, CPB, boot and admission at reset. -/
def EthPort.empty : EthPort :=
  { txq := [], lastTx := none, txUntil := 0, admin := none, oper := none, meters := [], rxSpent := [] }
def HmpSession.empty : HmpSession :=
  { gen := 0, partner := ⟨0, 0, 0, none⟩, s0 := 0, timeout := 0, last := 0, replays := [], period := 0, accepted := 0 }
def Hmp.empty : Hmp :=
  { sessions := List.replicate 64 HmpSession.empty, queue := [], fw := [], fwRx := [], cb := [], rtag := 0, lastWord := none }
def PwrCore.empty : PwrCore := { start := 0, since := 0, held := [], busy := List.replicate 16 0 }
def Pwr.empty : Pwr :=
  { samples := 0, sum := 0, start := 0, sampled := 0, thermal := 0, rest := 0, overCap := 0, written := [],
    reached := List.replicate 8 false, crit := 0, cores := List.replicate 8 PwrCore.empty }
def Boot.empty : Boot :=
  { forced := false, start := 0, manifest := [], payloadAt := 0, next := 0, config := [], hwDone := false, failTick := 0 }
def Adm.empty : Adm := { ctxs := List.replicate 4 none, closed := List.replicate 4 none, req := none, records := [] }


/-- The part right after reset: RESET_N has just been released and the clocks have not started (R25, R499), every register
at its reset word, nothing in flight. What fuses, keys and memories hold is not given by the spec: log entries 2 and 3 [PRESUMED, log entry 4]. -/
def State.reset : State :=
  { pending := []
    regs := []
    mem := []
    poison := []
    checkFlips := []
    stamps := []
    nor := []
    fuses := { arrays := List.replicate 8 3, serial := 0, mac := 0, stepping := 0 }
    nvm := { slots := List.replicate 8 ⟨none, false⟩, counter := 0, advancesLeft := 64, locked := false, job := none }
    clk := { inReset := false, running := false, started := false, releasedAt := 0, periodStart := 0, pendingStep := List.replicate 8 none, arrBase := List.replicate 8 (0, 0), linkFails := [0, 0, 0] }
    refTick := 0
    ration := { budget := Ration.resetBudgets, reserve := List.replicate 16 0, lenders := 0, borrowers := 0, held := List.replicate 16 [], waited := List.replicate 16 false }
    wc := [[], []]
    drover := { flights := [], caravans := [], withheld := [], parts := [], pushes := [], fenceCores := [], records := [] }
    cores := List.replicate 8 CoreState.empty
    fcu := { reports := [], part := FaultScope.empty, cores := List.replicate 8 FaultScope.empty, wireTests := [], levelAt := [] }
    tim := { sec := 0, ns := 0, frac := 0, inc := 0x8_0000_0000, pendingSet := none, pendingStep := none, latches := [], trigs := List.replicate 8 Trig.empty, timerNext := List.replicate 16 0, timerFired := List.replicate 16 0, caps := [[], [], [], []], watchStart := 0, holdStart := 0, ptpTx := [], ptpRx := 0 }
    crc := { clean := true, start := 0, commit := false }
    pins := { faultN := true, xspi := false }
    dbg := { ir := 1, dr := 0, done := false, overrun := false, status := 0, data := 0 }
    cmb := { straps := 0, alert := 0, mask := 0x17, rails := List.replicate 8 0, lastRead := 0, checked := 0 }
    isp := List.replicate 4 IspPort.empty
    spx := List.replicate 16 SpxStream.empty
    tdm := [TdmPort.empty, TdmPort.empty]
    vcd := List.replicate 16 VcdSession.empty
    vcdLast := [0, 0, 0, 0]
    eth := List.replicate 3 EthPort.empty
    hmp := Hmp.empty
    pwr := Pwr.empty
    boot := Boot.empty
    adm := Adm.empty
    lastAccess := { status := 0, value := 0 }
    freeIndex := 0 }

end Sys2Proof.Machine
end

