-- ==== Sys2Proof/Machine/Store.lean ====
section
/-! DEFINITION. Association lists in rising order of a numeric key: the form in which State holds memories, registers
and marks, and the reads and writes that keep the form. -/

namespace Sys2Proof.Machine

/-- The value stored under a key. -/
def AMap.get? {α : Type} : List (Nat × α) → Nat → Option α
  | [], _ => none
  | (k, v) :: m, a => if a = k then some v else if a < k then none else AMap.get? m a

/-- Stores a value under a key, in place or at the key's position in rising order. -/
def AMap.set {α : Type} : List (Nat × α) → Nat → α → List (Nat × α)
  | [], a, x => [(a, x)]
  | (k, v) :: m, a, x =>
    if a = k then (a, x) :: m
    else if a < k then (a, x) :: (k, v) :: m
    else (k, v) :: AMap.set m a x

/-- Removes a key. -/
def AMap.del {α : Type} : List (Nat × α) → Nat → List (Nat × α)
  | [], _ => []
  | (k, v) :: m, a =>
    if a = k then m else if a < k then (k, v) :: m else (k, v) :: AMap.del m a

/-- Strictly rising keys, all above `lo`. -/
def AMap.sortedFrom {α : Type} : Nat → List (Nat × α) → Bool
  | _, [] => true
  | lo, (k, _) :: m => decide (lo ≤ k) && AMap.sortedFrom (k + 1) m

/-- A memory: byte cells in rising order of address. -/
abbrev Memory := List Host.Cell

/-- What reading address `a` gives: the listed byte, or `d`, the byte that an unlisted address reads as. -/
def Memory.get (d : Byte) (m : Memory) (a : Nat) : Byte := (AMap.get? m a).getD d

/-- Writing a byte; the value an unlisted address reads as removes the entry. -/
def Memory.put (d : Byte) (m : Memory) (a : Nat) (b : Byte) : Memory :=
  if b = d then AMap.del m a else AMap.set m a b

/-- The canonical form: addresses strictly rising, no entry equal to what an unlisted address reads as. -/
def Memory.wf (d : Byte) (m : Memory) : Bool :=
  AMap.sortedFrom 0 m && m.all (fun c => c.2 != d)

/-- `n` bytes from address `a` upwards. -/
def Memory.read (d : Byte) (m : Memory) (a : Nat) : Nat → List Byte
  | 0 => []
  | n + 1 => Memory.get d m a :: Memory.read d m (a + 1) n

/-- Writes a list of bytes from address `a` upwards. -/
def Memory.write (d : Byte) (m : Memory) (a : Nat) : List Byte → Memory
  | [] => m
  | b :: bs => Memory.write d (Memory.put d m a b) (a + 1) bs

/-- A set of numbers held as a rising list: membership. -/
def NSet.mem : List Nat → Nat → Bool
  | [], _ => false
  | k :: m, a => if a = k then true else if a < k then false else NSet.mem m a

/-- Adds a number to a rising list. -/
def NSet.add : List Nat → Nat → List Nat
  | [], a => [a]
  | k :: m, a => if a = k then k :: m else if a < k then a :: k :: m else k :: NSet.add m a

/-- Removes a number from a rising list. -/
def NSet.del : List Nat → Nat → List Nat
  | [], _ => []
  | k :: m, a => if a = k then m else if a < k then k :: m else k :: NSet.del m a

/-- Adds or removes. -/
def NSet.put (m : List Nat) (a : Nat) (b : Bool) : List Nat := if b then NSet.add m a else NSet.del m a

end Sys2Proof.Machine
end

