-- ==== Sys2Proof/Machine/Ops.lean ====
section
/-! DEFINITION. The named operations over registers, memories, marks and fault reports that every meaning is written with,
and the register path's common end: status, bus-error capture and journal (R478, R483). -/

namespace Sys2Proof.Machine

/-- The outcome of a meaning. -/
abbrev Result := Host.Outcome State Fault Refusal

/-- An event command: where its conditions hold it has its effect, otherwise the event has not come about and nothing
changes (log entry 6). -/
@[inline] def due (c : Bool) (s t : State) : Result := .next (if c then t else s)

/-- A command naming a unit: the model stops where the part has no such unit. -/
@[inline] def unit (exists_ : Bool) (r : Result) : Result := if exists_ then r else .fault .noSuchUnit

/-! ### Registers -/

/-- The word of a register copy: as last written, else its reset word. -/
def State.rword (s : State) (r : Reg) (i : Nat := 0) (j : Nat := 0) (k : Nat := 0) (l : Nat := 0) : Word :=
  (AMap.get? s.regs (r.addr i j k l)).getD (r.rst i)

/-- Stores the word of a register copy. -/
def State.rset (s : State) (r : Reg) (w : Word) (i : Nat := 0) (j : Nat := 0) (k : Nat := 0) (l : Nat := 0) : State :=
  { s with regs := AMap.set s.regs (r.addr i j k l) w }

/-- A field of a register copy. -/
def State.fget (s : State) (f : Field) (i : Nat := 0) (j : Nat := 0) (k : Nat := 0) (l : Nat := 0) : Nat :=
  bits (s.rword f.reg i j k l).toNat f.lo f.len

/-- A one-bit field of a register copy. -/
def State.fbit (s : State) (f : Field) (i : Nat := 0) (j : Nat := 0) (k : Nat := 0) (l : Nat := 0) : Bool :=
  s.fget f i j k l == 1

/-- A word with one field replaced. -/
def putField (w : Word) (lo len v : Nat) : Word :=
  (w &&& ~~~(BitVec.ofNat 64 ((2 ^ len - 1) * 2 ^ lo))) ||| BitVec.ofNat 64 ((v % 2 ^ len) * 2 ^ lo)

/-- Sets a field of a register copy. -/
def State.fset (s : State) (f : Field) (v : Nat) (i : Nat := 0) (j : Nat := 0) (k : Nat := 0) (l : Nat := 0) : State :=
  s.rset f.reg (putField (s.rword f.reg i j k l) f.lo f.len v) i j k l

/-- Sets or clears a one-bit field. -/
def State.fflag (s : State) (f : Field) (b : Bool) (i : Nat := 0) (j : Nat := 0) (k : Nat := 0) (l : Nat := 0) : State :=
  s.fset f (b2n b) i j k l

/-- Adds to a counter field, wrapping at its width. -/
def State.fadd (s : State) (f : Field) (n : Nat) (i : Nat := 0) (j : Nat := 0) (k : Nat := 0) (l : Nat := 0) : State :=
  s.fset f (s.fget f i j k l + n) i j k l

/-! ### Memory (R471) -/

def dram0End : Nat := 0x0004_0000_0000
def dramEnd : Nat := 0x0008_0000_0000
def windowBase : Nat := 0x0104_0000_0000
def windowEnd : Nat := windowBase + 0x2000_0000
def ccBase : Nat := 0x0106_0000_0000
def sharedBase : Nat := 0x0106_0100_0000

/-- One byte of the address space's memories. An address nothing has been written to reads 0 (log entry 2). -/
def State.readByte (s : State) (a : Nat) : Byte := Memory.get 0 s.mem a

/-- Writes one byte. -/
def State.writeByte (s : State) (a : Nat) (b : Byte) : State := { s with mem := Memory.put 0 s.mem a b }

/-- `n` bytes from an address. -/
def State.readBytes (s : State) (a n : Nat) : List Byte := Memory.read 0 s.mem a n

/-- Writes bytes from an address upwards. -/
def State.writeBytes (s : State) (a : Nat) (bs : List Byte) : State := { s with mem := Memory.write 0 s.mem a bs }

/-- A little-endian number of `n` bytes. -/
def State.readLE (s : State) (a n : Nat) : Nat := leVal (s.readBytes a n)

/-- Writes a little-endian number of `n` bytes. -/
def State.writeLE (s : State) (a n v : Nat) : State := s.writeBytes a (leBytes n v)

/-! ### Marks (R138, R140, R261) -/

/-- Poison mark of the granule or word at an address. -/
def State.poisoned (s : State) (a : Nat) : Bool := NSet.mem s.poison a

/-- Sets or clears a poison mark. -/
def State.setPoison (s : State) (a : Nat) (b : Bool) : State := { s with poison := NSet.put s.poison a b }

/-- The granules of DRAM that `n` bytes from address `a` touch (R16). -/
def granulesOf (a n : Nat) : List Nat :=
  if n = 0 then [] else (List.range ((a + n - 1) / 32 - a / 32 + 1)).map (fun k => 32 * (a / 32 + k))

/-- Whether any granule of a DRAM range carries a poison mark (R261). -/
def State.dramPoisoned (s : State) (a n : Nat) : Bool := (granulesOf a n).any (fun g => s.poisoned g)

/-- The weight-cache line that a write to DRAM invalidates (R274). -/
def wcDropLine (sets : WcSets) (line : Nat) : WcSets × Bool :=
  match AMap.get? sets (line % 16384) with
  | some ways =>
    if ways.contains line then (AMap.set sets (line % 16384) (ways.filter (· != line)), true) else (sets, false)
  | none => (sets, false)

/-- Invalidates in a weight cache every line that a write of `n` bytes at address `a` matches, and counts them (R274). -/
def State.wcWrite (s : State) (a n : Nat) : State :=
  if n = 0 then s
  else
    let k := if a < dram0End then 0 else 1
    let off := a - k * dram0End
    (List.range ((off + n - 1) / 128 - off / 128 + 1)).foldl (fun s i =>
      let r := wcDropLine (s.wc.getD k []) (off / 128 + i)
      if r.2 then ({ s with wc := s.wc.set k r.1 }).fadd SYS_WCk_INVALIDATIONS_COUNT 1 k else s) s

/-- A write to DRAM of unpoisoned bytes (R261, R274): a granule wholly covered loses its mark, a partly covered one keeps
it. -/
def State.dramWrite (s : State) (a : Nat) (bs : List Byte) : State :=
  let s := s.writeBytes a bs
  let s := (granulesOf a bs.length).foldl (fun s g =>
    if a ≤ g ∧ g + 32 ≤ a + bs.length then s.setPoison g false else s) s
  s.wcWrite a bs.length

/-- A write to DRAM whose granules carry the given marks, one mark per touched granule (R261). -/
def State.dramWriteMarked (s : State) (a : Nat) (bs : List Byte) (marks : List Nat) : State :=
  let s := s.dramWrite a bs
  marks.foldl (fun s g => s.setPoison g true) s

/-- Whether a source's check bits are a parity (R89, R510): cells and shadow copies of an array. -/
def parityChecked (source : Nat) : Bool := 0x100 ≤ source && source < 0x300 && (source % 0x40 == 0x00 || source % 0x40 == 0x08)

/-- The check that an armed FCU_INJECT feeds (R447, R510): when the source's checker next checks, ARM clears and the report
is one of class C for one inverted bit, of `twoBits` for two or for a parity; the class raised is answered, 0 for none. -/
def State.injectCheck (s : State) (source twoBits : Nat) (ref : Option DescRef) (caravanId : Nat) (core : Option Nat) :
    State × Nat :=
  if s.fbit FCU_INJECT_ARM && s.fget FCU_INJECT_SOURCE == source then
    let cls := if s.fget FCU_INJECT_FLIPS = 2 || parityChecked source then twoBits else clsC
    let s := s.fset FCU_INJECT_ARM 0
    ({ s with fcu := { s.fcu with reports := s.fcu.reports ++ [⟨source, cls, ref, caravanId, core, true⟩] } }, cls)
  else (s, 0)

/-- A transfer received on a die-to-die link: an injection at the link's CRC check makes it fail once, and it is replayed (R19, R510)
[DEDUCED, log entry 24]. -/
def State.linkCheck (s : State) (link : Nat) : State :=
  let r := s.injectCheck (0x320 + link) clsC none 0 none
  if r.2 = 0 then s else (r.1.fadd D2D_Ln_REPLAYS_COUNT 1 link).fset D2D_Ln_STATUS_CRC_SEEN 1 link

/-- Payload bytes sent over a die-to-die link (R21), from the hub side or the CD0 side [DEDUCED, log entry 24]. -/
def State.linkTx (s : State) (link n : Nat) : State :=
  if n = 0 then s else (s.linkCheck link).fadd D2D_Ln_TX_B_BYTES_B n link

/-- Payload bytes received over a die-to-die link (R21) [DEDUCED, log entry 24]. -/
def State.linkRx (s : State) (link n : Nat) : State :=
  if n = 0 then s else (s.linkCheck link).fadd D2D_Ln_RX_B_BYTES_B n link

/-- The hub link that reaches a DRAM address (R15). -/
def hubLinkOf (a : Nat) : Nat := if a < dram0End then 0 else 1

/-- A write to DRAM by a hub block, over its hub link (R15). -/
def State.hubWrite (s : State) (a : Nat) (bs : List Byte) : State := (s.dramWrite a bs).linkTx (hubLinkOf a) bs.length

/-! ### DRAM handles (R219) -/

def handleSpace (h : Nat) : Nat := bits h 29 3
def handleIndex (h : Nat) : Nat := bits h 0 29
def spDRAM0 : Nat := 0
def spDRAM1 : Nat := 1
def spWSP : Nat := 2
def spASP : Nat := 3
def spPSP : Nat := 4
def spWay : Nat := 5

/-- Whether a handle names DRAM. -/
def isDram (h : Nat) : Bool := handleSpace h ≤ 1

/-- DRAM address of a DRAM handle (R219). -/
def dramAddr (h : Nat) : Nat := handleSpace h * dram0End + 32 * handleIndex h

/-- End of the die a DRAM address lies on (R14). -/
def dieEnd (a : Nat) : Nat := if a < dram0End then dram0End else dramEnd

/-! ### Scratchpads (R126 to R128, R152) -/

/-- Number of enabled arrays' bits of a core (R6). -/
def State.arraysOf (s : State) (c : Nat) : Nat := s.fuses.arrays.getD c 0

/-- Whether array `a` of core `c` is enabled (R6). -/
def State.arrayPresent (s : State) (c a : Nat) : Bool := (s.arraysOf c).testBit a

/-- Banks of a scratchpad, by space code (R126). -/
def spBanks (sp : Nat) : Nat := if sp = spWSP then 256 else if sp = spASP then 128 else 64

/-- Rows per bank of a scratchpad of a core: half a PSP on a one-array core (R3, R126). -/
def State.spRows (s : State) (c sp : Nat) : Nat :=
  if sp = spWSP then 256 else if sp = spASP then 512 else if s.arraysOf c = 3 then 512 else 256

/-- Global rows of a scratchpad. -/
def State.spRowCount (s : State) (c sp : Nat) : Nat := spBanks sp * s.spRows c sp

/-- Offset of a scratchpad in its core's debug window (R152). -/
def spWindow (sp : Nat) : Nat := if sp = spWSP then 0 else if sp = spASP then 0x100_0000 else 0x200_0000

/-- Address of byte `b` of a scratchpad of core `c` (R152). -/
def spAddr (c sp b : Nat) : Nat := windowBase + 0x400_0000 * c + spWindow sp + b

/-! ### Lists of per-unit state -/

/-- The state of core `c`. -/
def State.coreAt (s : State) (c : Nat) : CoreState := s.cores.getD c CoreState.empty

/-- Changes the state of core `c`. -/
def State.modCore (s : State) (c : Nat) (f : CoreState → CoreState) : State := { s with cores := modAt s.cores c f }

/-! ### Free values -/

/-- Draws the next free value of `w` bits (log entry 5). -/
def State.free (s : State) (w : Nat) : Nat × State :=
  ((Config.freeValue w s.freeIndex).toNat, { s with freeIndex := s.freeIndex + 1 })

/-- A result as a field of `w` bits takes it: where it does not fit, the spec states no result and the field takes a free value
[DESIGN CHOICE, log entry 79]. -/
def State.fits (s : State) (w : Nat) (v : Int) : Nat × State :=
  if 0 ≤ v ∧ v < 2 ^ w then (v.toNat, s) else s.free w

/-! ### Conditions of the whole part -/

/-- Divided clocks running, RESET_N released (R25, R509) [DEDUCED, log entry 13]. -/
def State.up (s : State) : Bool := s.clk.running && !s.clk.inReset

/-- FCU_STATUS.STATE is RUN: the part is not in a fault state (R442). -/
def State.inRun (s : State) : Bool := s.fget FCU_STATUS_STATE == 0

/-- The Drover and the engines work: clocks running and no fold (R437). -/
def State.works (s : State) : Bool := s.up && s.inRun

/-- State of core `c` in FCU_CORE_STATE (R449). -/
def State.coreState (s : State) (c : Nat) : Nat := bits (s.fget FCU_CORE_STATE_STATE) (2 * c) 2

/-- Core `c` exists, runs, and is in no fault state of its own. -/
def State.coreWorks (s : State) (c : Nat) : Bool := s.works && s.coreState c == 0

/-! ### ARR cycles (R22, R27, R28) -/

/-- Current ARR_CLK step of a core (R28). -/
def State.coreStep (s : State) (c : Nat) : Nat := bits (s.fget CLK_CORE_STEP_STEP) (2 * c) 2

/-- Root-PLL cycles per ARR cycle at a step (R28). -/
def stepDiv (step : Nat) : Nat := if step = 0 then 4 else if step = 1 then 5 else if step = 2 then 6 else 8

/-- ARR cycles that a divider completes in `x` ticks of 8 ns, 40 root cycles each, from the start of a ration period: whole cycles only in
each period of 1,250 ticks, so that the root cycles left at its end are held (R28). -/
def gridCycles (div x : Nat) : Nat := x / 1250 * (50000 / div) + 40 * (x % 1250) / div

/-- ARR cycles of core `c` by tick `t`, counted from the start of its clock. -/
def State.arrAt (s : State) (c t : Nat) : Nat :=
  let b := s.clk.arrBase.getD c (0, 0)
  let g := s.clk.periodStart % 1250
  let d := stepDiv (s.coreStep c)
  b.2 + if s.clk.running then gridCycles d (t - g) - gridCycles d (b.1 - g) else 0

/-- ARR cycles of core `c` until now. -/
def State.arrNow (s : State) (c : Nat) : Nat := s.arrAt c s.refTick

/-- The count of ARR cycles of a core goes on from tick `t`. -/
def State.rebaseArr (s : State) (c t : Nat) : State :=
  { s with clk := { s.clk with arrBase := s.clk.arrBase.set c (t, s.arrAt c t) } }

/-- Those of every core. -/
def State.rebaseAll (s : State) (t : Nat) : State := (List.range 8).foldl (fun s c => s.rebaseArr c t) s

/-- Microseconds since RESET_N release (R490). -/
def State.uptimeUs (s : State) : Nat := s.refTick / 125

/-- Ticks of 8 ns in `us` microseconds. -/
def usTicks (us : Nat) : Nat := us * 125

/-- Ticks of 8 ns in `ms` milliseconds. -/
def msTicks (ms : Nat) : Nat := ms * 125000

/-- Whether `t` ticks have passed since tick `since` [DESIGN CHOICE, log entry 14]. -/
def State.elapsed (s : State) (since t : Nat) : Bool := since + t ≤ s.refTick

/-! ### Interrupts and fault reports -/

/-- Sets a bit of SYS_IRQ_PENDING (R491). -/
def State.irq (s : State) (f : Field) : State := s.fset f 1

/-- Asserts a report of a source (R432); the FCU collects it with FAULT_REPORT. -/
def State.report (s : State) (source cls : Nat) (ref : Option DescRef := none) (caravanId : Nat := 0)
    (core : Option Nat := none) (injected : Bool := false) : State :=
  { s with fcu := { s.fcu with reports := s.fcu.reports ++ [⟨source, cls, ref, caravanId, core, injected⟩] } }

/-- A read of DRAM by a hub block: its bytes cross the hub link (R15, R21), and its first word is the next word read from the
die (R510). -/
def State.hubRead (s : State) (a n : Nat) : State :=
  if n = 0 then s
  else ((s.linkRx (hubLinkOf a) n).injectCheck (dieSrc (hubLinkOf a) 0) clsU none 0 none).1

/-! ### The register path's common end -/

/-- Captures a refused access (R478, R490): every BUS_ERROR and ZEROING counts, the first since VALID was cleared is kept. -/
def State.busError (s : State) (src addr status : Nat) (write : Bool) : State :=
  if status = stBusError ∨ status = stZeroing then
    let s := s.fadd SYS_BUS_ERRORS_COUNT 1
    if s.fbit SYS_BUS_ERR_LAST_VALID then s
    else s.rset SYS_BUS_ERR_LAST
      (BitVec.ofNat 64 (addr % 2 ^ 48 + status * 2 ^ 48 + src % 16 * 2 ^ 56 + b2n write * 2 ^ 60 + 2 ^ 63))
  else s

/-- Whether an address is that of a MACsec key register, whose value the journal keeps as 0 (R484). -/
def isKeyAddr (addr : Nat) : Bool :=
  match regAt? addr regTable with
  | some r => r.t.reg.base == ETHn_MACSEC_TXa_KEYw.base || r.t.reg.base == ETHn_MACSEC_RXc_Aa_KEYw.base
  | none => false

/-- Appends an entry to the configuration journal (R483, R484). -/
def State.journal (s : State) (src session addr width value status : Nat) : State :=
  let i := s.fget CFG_JOURNAL_NEXT_INDEX
  let e := i % 4096
  let v := if isKeyAddr addr then 0 else value
  let s := s.rset CFG_JOURNAL_e_Ww (BitVec.ofNat 64 (addr % 2 ^ 48 + width % 256 * 2 ^ 48 + src % 16 * 2 ^ 56)) e 0
  let s := s.rset CFG_JOURNAL_e_Ww (BitVec.ofNat 64 v) e 1
  let s := s.rset CFG_JOURNAL_e_Ww (BitVec.ofNat 64 (s.tim.sec % 2 ^ 48 + bits s.tim.ns 0 16 * 2 ^ 48)) e 2
  let s := s.rset CFG_JOURNAL_e_Ww
    (BitVec.ofNat 64 (bits s.tim.ns 16 16 + status % 256 * 2 ^ 16 + session % 256 * 2 ^ 24 + i * 2 ^ 32)) e 3
  s.fset CFG_JOURNAL_NEXT_INDEX (i + 1)

/-- Whether an address is in a register range of R471 (hub or core blocks). -/
def isRegSpace (a : Nat) : Bool :=
  (0x0100_0000_0000 ≤ a && a < 0x0100_0000_0000 + 8192 * 0x10_0000) ||
  (0x0102_0000_0000 ≤ a && a < 0x0102_0000_0000 + 8 * 0x100_0000)

/-- Whether a performed write to this register address discards the running CRC pass (R488): the register is covered. -/
def isCovered (a : Nat) : Bool :=
  match regAt? a regTable with
  | some r => r.t.cover != 0
  | none => false

/-- The common end of a register write: its effect `r` with its status, the bus-error capture, the journal entry (R478,
R483), the CRC pass's discard (R488), and the status the writer sees. -/
def State.writeEnd (r : State × Nat) (src session addr width value : Nat) : State :=
  let s := r.1.busError src addr r.2 true
  let s := s.journal src session addr width value r.2
  let s := if r.2 = stOK ∧ isCovered addr then { s with crc := { s.crc with clean := false } } else s
  { s with lastAccess := ⟨r.2, 0⟩ }

/-- Whether the part is in a phase of a part recovery in which registers of the domain do not answer (R443). -/
def State.domainDown (s : State) : Bool :=
  s.fget FCU_STATUS_STATE == 2 && 2 ≤ s.fcu.part.phase && s.fcu.part.phase ≤ 6

/-- The same for the registers of one core, in a part or a core recovery. -/
def State.coreDown (s : State) (c : Nat) : Bool :=
  let p := (s.fcu.cores.getD c FaultScope.empty).phase
  s.domainDown || (s.coreState c == 2 && 2 ≤ p && p ≤ 6)

/-- Whether a register address lies in a block that returns BUS_ERROR under R443: link registers, CSI to VCD, QM, TLY, and
the blocks of a recovering core [DEDUCED, log entry 13]. -/
def State.blocked (s : State) (a : Nat) : Bool :=
  let n := (a - 0x0100_0000_0000) / 0x10_0000
  if a < 0x0102_0000_0000 then s.domainDown && (n == 6 || (14 ≤ n && n ≤ 30))
  else s.coreDown ((a - 0x0102_0000_0000) / 0x100_0000)

/-- Whether DRAM die `k` answers BUS_ERROR (R438, R443): its controller, fabric or link caused the fold, or the recovery has it
[DEDUCED, log entry 66]. -/
def State.dieDown (s : State) (k : Nat) : Bool :=
  s.domainDown || (!s.inRun && (s.fcu.part.source == dieSrc k 1 || s.fcu.part.source == dieSrc k 3 || s.fcu.part.source == 0x320 + k))

/-- A register write command that comes on source `src` outside HMP: no session (R484). -/
def State.regCommand (s : State) (src addr width value : Nat) (effect : State → State × Nat) : State :=
  State.writeEnd (if s.blocked addr then (s, stBusError) else effect s) src 0xFF addr width value

/-- The common end of a read with a read side effect: the value goes to the reading path (R480). -/
def State.readCommand (s : State) (src addr : Nat) (effect : State → State × Nat) : State :=
  if s.blocked addr then { s.busError src addr stBusError false with lastAccess := ⟨stBusError, 0⟩ }
  else { (effect s).1 with lastAccess := ⟨stOK, (effect s).2⟩ }

/-- A word after a write of `v` as its fields' types take it (R9): RW and WO fields take their bits, W1C fields are cleared by 1s. -/
def Tmpl.written (t : Tmpl) (old v : Nat) : Nat := ((old &&& t.w1c) &&& (old ^^^ v)) ||| (v &&& (t.rw ||| t.wo)) |||
  (old - (old &&& (t.rw ||| t.w1c ||| t.wo)))

/-- The plain effect of a write on the register at an address, by its fields' types (R9, R478). -/
def State.plainWrite (s : State) (a v : Nat) : State :=
  match regAt? a regTable with
  | none => s
  | some r =>
    let old := ((AMap.get? s.regs a).getD r.rst).toNat
    { s with regs := AMap.set s.regs a (BitVec.ofNat 64 (r.t.written old v)) }

/-- Whether a source code of R475 can send a command: HMP ports, the debug port, boot CONFIG, control cores. The CSB's admission engine,
code 5, reaches PWR_PHASE_p only, and does so in FINISH (R465). -/
def isSource (src : Nat) : Bool := src ≤ 4 || (8 ≤ src && src ≤ 15)

/-- A register write command on a unit that exists, from a writer of R475, while the clocks run
[DESIGN CHOICE, log entry 6; DEDUCED, log entry 13]. -/
def regCmd (exists_ : Bool) (s : State) (src addr width value : Nat) (effect : State → State × Nat) : Result :=
  unit (exists_ && isSource src) (due s.up s (s.regCommand src addr width value effect))

/-- A register read command with a side effect on a unit that exists. -/
def readCmd (exists_ : Bool) (s : State) (src addr : Nat) (effect : State → State × Nat) : Result :=
  unit (exists_ && isSource src) (due s.up s (s.readCommand src addr effect))

/-- Address of a copy of a register. -/
def regAddr (r : Reg) (i : Nat := 0) (j : Nat := 0) (k : Nat := 0) (l : Nat := 0) : Nat := r.addr i j k l

end Sys2Proof.Machine
end

