-- ==== Sys2Proof/Machine/Manifest.lean ====
section
/-! DEFINITION. The manifest of boot images and model packages and its checks (R452 to R454). -/

namespace Sys2Proof.Machine

/-- Little-endian field of a manifest: `n` bytes from byte `o`. -/
def mf (m : List Byte) (o n : Nat) : Nat := leVal (slice m o n)

def mfKind (m : List Byte) : Nat := mf m 5 1
def mfSlot (m : List Byte) : Nat := mf m 6 1
def mfSequence (m : List Byte) : Nat := mf m 8 4
def mfPayloadB (m : List Byte) : Nat := mf m 12 4
def mfBlocks (m : List Byte) : Nat := mf m 16 4
def mfSegments (m : List Byte) : Nat := mf m 20 2
def mfModel (m : List Byte) : Nat := mf m 24 4
def mfEntry (m : List Byte) : Nat := mf m 28 4
def mfEdPk (m : List Byte) : List Byte := slice m 32 32

/-- Offset of the block hash table, and of the ML-DSA-65 public key. -/
def mfHashes (m : List Byte) : Nat := 256 + 32 * mfSegments m
def mfMlAt (m : List Byte) : Nat := mfHashes m + 64 * mfBlocks m
def mfMlPk (m : List Byte) : List Byte := slice m (mfMlAt m) 1952

/-- The body: everything before ED_SIG. -/
def mfBody (m : List Byte) : List Byte := m.take (mfMlAt m + 1952)
def mfEdSig (m : List Byte) : List Byte := slice m (mfMlAt m + 1952) 64
def mfMlSig (m : List Byte) : List Byte := slice m (mfMlAt m + 2016) 3309

/-- MANIFEST_B as the layout gives it. -/
def mfLength (m : List Byte) : Nat := 256 + 32 * mfSegments m + 64 * mfBlocks m + 5325

/-- The measurement of a manifest (R453). -/
def mfMeasurement (m : List Byte) : List Byte := sha512 (mfBody m)

/-- Bytes of a payload block. -/
def blockLen (payloadB b : Nat) : Nat := min 65536 (payloadB - 65536 * b)

/-- The digest that the manifest gives block `b`. -/
def mfDigest (m : List Byte) (b : Nat) : List Byte := slice m (mfHashes m + 64 * b) 64

/-- A segment of the table (R454). -/
structure Segment where
  kind : Nat
  arg : Nat
  len : Nat
  off : Nat
  dest : Nat
  zeros : Bool
  deriving DecidableEq, Repr

/-- Segment `i`. -/
def mfSegment (m : List Byte) (i : Nat) : Segment :=
  let o := 256 + 32 * i
  { kind := mf m o 1, arg := mf m (o + 1) 1, len := mf m (o + 4) 4, off := mf m (o + 8) 4, dest := mf m (o + 16) 8
    zeros := mf m (o + 2) 2 == 0 && mf m (o + 12) 4 == 0 && mf m (o + 24) 8 == 0 }

/-- Every segment. -/
def mfTable (m : List Byte) : List Segment := (List.range (mfSegments m)).map (mfSegment m)

def sgLocal : Nat := 1
def sgShared : Nat := 2
def sgDram : Nat := 3
def sgConfig : Nat := 4
def sgEntry : Nat := 5
def sgPhases : Nat := 6

/-- Whether a segment's destination lies where its KIND allows it (R454). -/
def Segment.placed (g : Segment) : Bool :=
  if g.kind = sgLocal then g.arg < 8 && decide (g.dest + g.len ≤ 0x4_0000)
  else if g.kind = sgShared then decide (g.dest + g.len ≤ 0x10_0000)
  else if g.kind = sgDram then decide (g.dest + g.len ≤ dramEnd) && decide (g.dest + g.len ≤ dieEnd g.dest)
  else if g.kind = sgConfig then g.len % 16 == 0 && decide (g.len ≤ 65536)
  else if g.kind = sgEntry then g.len == 128
  else g.len % 4 == 0 && decide (g.len ≤ 1024)

/-- Where a segment's bytes go in the address space (R471), for the kinds with a destination. -/
def Segment.base (g : Segment) : Nat :=
  if g.kind = sgLocal then ccBase + 0x10_0000 * g.arg + g.dest else if g.kind = sgShared then sharedBase + g.dest else g.dest

/-- Whether a segment has a destination range. -/
def Segment.hasDest (g : Segment) : Bool := g.kind ≤ sgDram

/-- Whether the ranges of `n` bytes from `a` and `k` bytes from `b` overlap. -/
def overlap (a n b k : Nat) : Bool := decide (a < b + k) && decide (b < a + n)

/-- Whether a segment breaks R454 in a manifest of a KIND, given the segments before it. -/
def Segment.bad (g : Segment) (kind payloadB : Nat) (before : List Segment) : Bool :=
  let allowed := if kind = 1 then [sgLocal, sgShared, sgDram, sgConfig] else [sgDram, sgEntry, sgPhases]
  !allowed.contains g.kind || !g.zeros || g.len == 0 || decide (payloadB < g.off + g.len) || !g.placed ||
  (sgConfig ≤ g.kind && before.any (fun h => h.kind == g.kind)) ||
  (g.hasDest && before.any (fun h => h.hasDest && overlap g.base g.len h.base h.len))

/-- The first segment that breaks R454. -/
def badSegment (kind payloadB : Nat) (l : List Segment) : Option Nat :=
  (List.range l.length).find? (fun i =>
    match l[i]? with
    | some g => g.bad kind payloadB (l.take i)
    | none => false)

/-- Whether a manifest of `n` bytes keeps the header's layout (R452). -/
def headerOk (m : List Byte) (kind n : Nat) : Bool :=
  let p := mfPayloadB m
  mf m 0 4 == 0x3146_4D4B && mf m 4 1 == 1 && mfKind m == kind && mfSlot m < 8 && mf m 7 1 == 0 && 1 ≤ p && p ≤ 2 ^ 30 &&
  mfBlocks m == ceilDiv p 65536 && mfBlocks m ≤ (if kind = 1 then 8192 else 16384) && 1 ≤ mfSegments m && mfSegments m ≤ 64 &&
  mf m 22 2 == 0 && (if kind = 1 then mfModel m == 0 else mfEntry m == 0) && (slice m 64 192).all (· == 0) && n == mfLength m

/-- Reasons of a manifest refused (R458, R462). -/
def rsLayout : Nat := 3
def rsKey : Nat := 4
def rsEd : Nat := 5
def rsMl : Nat := 6

/-- R453 over a manifest of `n` bytes: none if it is accepted, else the reason, with the segment index where a segment breaks R454. -/
def State.manifestFails (s : State) (m : List Byte) (kind n : Nat) : Option (Nat × Option Nat) :=
  let l := mfTable m
  if !headerOk m kind n then some (rsLayout, none)
  else
    match badSegment kind (mfPayloadB m) l with
    | some i => some (rsLayout, some i)
    | none =>
      if kind = 2 ∧ !l.any (fun g => g.kind == sgEntry) then some (rsLayout, none)
      else
        let k := s.nvm.slots.getD (mfSlot m) ⟨none, true⟩
        if decide (mfSlot m < 4) != decide (kind = 1) ∨ k.revoked ∨ k.hash ≠ some (leVal (sha512 (mfEdPk m ++ mfMlPk m))) then
          some (rsKey, some (mfSlot m))
        else if !Config.edVerify (mfEdPk m) (mfEdSig m) (mfBody m) then some (rsEd, none)
        else if !Config.mlVerify (mfMlPk m) (mfMlSig m) (mfBody m) then some (rsMl, none)
        else none

/-- The part of a segment that a block holds: the segment, the offset into it, and the bytes. -/
def Segment.piece (g : Segment) (b : Nat) (block : List Byte) : Option (Nat × List Byte) :=
  let lo := max g.off (65536 * b)
  let hi := min (g.off + g.len) (65536 * b + block.length)
  if lo < hi then some (lo - g.off, slice block (lo - 65536 * b) (hi - lo)) else none

end Sys2Proof.Machine
end

