-- ==== Sys2Proof/Machine/Gcm.lean ====
section
/-! DEFINITION. GCM-AES-256, the one cipher suite of the ports (R365): the cipher of FIPS 197 with a key of 256 bits and the
mode of SP 800-38D with a vector of 96 bits, as IEEE 802.1AE uses them. Blocks of the mode are numbers of 128 bits, their first
byte the most significant. -/

namespace Sys2Proof.Machine

/-! ### The field of the cipher: polynomials over two elements modulo x⁸ + x⁴ + x³ + x + 1 -/

/-- Product by x. -/
def gfTwice (a : Nat) : Nat := if a < 128 then 2 * a else (2 * a) ^^^ 0x11B

/-- Product. -/
def gfMul (a b : Nat) : Nat :=
  ((List.range 8).foldl (fun (s : Nat × Nat) i => (if b.testBit i then s.1 ^^^ s.2 else s.1, gfTwice s.2)) (0, a)).1

/-- Inverse, the 254th power; that of 0 is 0. -/
def gfInv (a : Nat) : Nat :=
  ((List.range 7).foldl (fun (s : Nat × Nat) _ => (gfMul s.1 (gfMul s.2 s.2), gfMul s.2 s.2)) (1, a)).1

/-- Substitution of a byte: inverse, then the affine map. -/
def subByte (a : Nat) : Nat := [0, 1, 2, 3, 4].foldl (fun s n => s ^^^ ((gfInv a * 2 ^ n) % 256 + gfInv a * 2 ^ n / 256)) 0x63

/-! ### The cipher -/

/-- A word's bytes, most significant first, and back. -/
def wordBytes (w : Nat) : List Nat := [w / 2 ^ 24 % 256, w / 2 ^ 16 % 256, w / 2 ^ 8 % 256, w % 256]
def bytesWord (b : List Nat) : Nat := b.foldl (fun a x => a * 256 + x) 0

/-- Substitution of a word. -/
def subWord (w : Nat) : Nat := bytesWord ((wordBytes w).map subByte)

/-- Word `i` of the key schedule from the words before it, the latest first. -/
def nextKeyWord (i : Nat) (ws : List Nat) : Nat :=
  let t := ws.headD 0
  let u := if i % 8 = 0 then subWord (t * 2 ^ 8 % 2 ^ 32 + t / 2 ^ 24) ^^^ (2 ^ (i / 8 - 1) * 2 ^ 24)
    else if i % 8 = 4 then subWord t else t
  ws.getD 7 0 ^^^ u

/-- The fifteen round keys, each of sixteen bytes, from a key of 256 bits. -/
def roundKeys (key : Nat) : List (List Nat) :=
  let start := (List.range 8).map (fun i => key / 2 ^ (32 * i) % 2 ^ 32)
  let ws := ((List.range 52).foldl (fun ws i => nextKeyWord (i + 8) ws :: ws) start).reverse
  (List.range 15).map (fun r => ((ws.drop (4 * r)).take 4).flatMap wordBytes)

/-- Rotation of the rows: byte `i` of the state stands in row `i % 4` of column `i / 4`. -/
def shiftRows (b : List Nat) : List Nat := (List.range 16).map (fun i => b.getD ((i + 4 * (i % 4)) % 16) 0)

/-- Mixing of the columns. -/
def mixColumns (b : List Nat) : List Nat :=
  (List.range 16).map (fun i =>
    let at_ (k : Nat) : Nat := b.getD (i / 4 * 4 + (i + k) % 4) 0
    gfTwice (at_ 0) ^^^ gfTwice (at_ 1) ^^^ at_ 1 ^^^ at_ 2 ^^^ at_ 3)

/-- The rounds after the first key addition; the last one mixes no columns. -/
def aesRounds : List (List Nat) → List Nat → List Nat
  | [], b => b
  | [k], b => List.zipWith (· ^^^ ·) (shiftRows (b.map subByte)) k
  | k :: ks, b => aesRounds ks (List.zipWith (· ^^^ ·) (mixColumns (shiftRows (b.map subByte))) k)

/-- The cipher on a block of 128 bits under round keys. -/
def aesBlock (ks : List (List Nat)) (x : Nat) : Nat :=
  let b := (List.range 16).map (fun i => x / 2 ^ (8 * (15 - i)) % 256)
  bytesWord (aesRounds (ks.drop 1) (List.zipWith (· ^^^ ·) b (ks.headD [])))

/-! ### The mode -/

/-- Product of blocks: polynomials modulo x¹²⁸ + x⁷ + x² + x + 1, the first bit being the constant term. -/
def blockMul (x y : Nat) : Nat :=
  ((List.range 128).foldl (fun (s : Nat × Nat) i =>
    (if x.testBit (127 - i) then s.1 ^^^ s.2 else s.1, if s.2 % 2 = 1 then (s.2 / 2) ^^^ (0xE1 * 2 ^ 120) else s.2 / 2)) (0, y)).1

/-- The blocks of a byte list, the last filled up with zeros. -/
def blocksOf (b : List Byte) : List Nat :=
  (List.range (ceilDiv b.length 16)).map (fun i =>
    let c := slice b (16 * i) 16
    beVal c * 256 ^ (16 - c.length))

/-- The hash of additional data and text under `h`. -/
def ghash (h : Nat) (aad text : List Byte) : Nat :=
  (blocksOf aad ++ blocksOf text ++ [8 * aad.length * 2 ^ 64 + 8 * text.length]).foldl (fun s x => blockMul (s ^^^ x) h) 0

/-- The key stream of `n` bytes after the vector's first counter. -/
def keyStream (ks : List (List Nat)) (iv n : Nat) : List Byte :=
  ((List.range (ceilDiv n 16)).flatMap (fun i => beBytes 16 (aesBlock ks (iv * 2 ^ 32 + (i + 2) % 2 ^ 32)))).take n

/-- Text under the key stream: encryption and decryption alike. -/
def gcmCrypt (key iv : Nat) (text : List Byte) : List Byte :=
  List.zipWith (· ^^^ ·) text (keyStream (roundKeys key) iv text.length)

/-- The tag of additional data and encrypted text. -/
def gcmTag (key iv : Nat) (aad text : List Byte) : Nat :=
  let ks := roundKeys key
  ghash (aesBlock ks 0) aad text ^^^ aesBlock ks (iv * 2 ^ 32 + 1)

end Sys2Proof.Machine
end

