-- ==== Sys2Proof/Machine/Ration.lean ====
section
/-! DEFINITION. Rations: charging transactions, holding, lending, and the period boundary (R277 to R281). -/

namespace Sys2Proof.Machine

/-- Transactions a class has charged in this period. -/
def State.usedTx (s : State) (c : Nat) : Nat := s.fget SYS_RATION_c_USED_USED_TX c

/-- Budget in force of a class (R279). -/
def State.budgetOf (s : State) (c : Nat) : Nat := s.ration.budget.getD c 0

/-- Sets EXHAUSTED of a class as its used transactions stand against its budget (R280). -/
def State.markExhausted (s : State) (c : Nat) : State :=
  let e := s.fget SYS_RATION_STATUS_EXHAUSTED
  let n := s.fget SYS_RATION_STATUS_EXHAUSTED_SEEN
  if s.budgetOf c ≤ s.usedTx c then
    (s.fset SYS_RATION_STATUS_EXHAUSTED (putBits e c 1 1)).fset SYS_RATION_STATUS_EXHAUSTED_SEEN (putBits n c 1 1)
  else s.fset SYS_RATION_STATUS_EXHAUSTED (putBits e c 1 0)

/-- Transactions a lender can still lend (R281). -/
def State.lendable (s : State) (c l : Nat) : Nat :=
  if l ≠ c ∧ bitAt s.ration.lenders l then s.budgetOf l - s.usedTx l - s.ration.reserve.getD l 0 else 0

/-- Borrows up to `n` transactions for class `c`, from the lowest-numbered lender that can lend, and answers how many are
left (R281). -/
def State.borrow (s : State) (c n : Nat) : State × Nat :=
  if bitAt s.ration.borrowers c then
    (List.range 16).foldl (fun (r : State × Nat) l =>
      let k := min r.2 (r.1.lendable c l)
      if k = 0 then r
      else
        (((r.1.fadd SYS_RATION_c_USED_USED_TX k l).markExhausted l).fadd SYS_RATION_c_USED_BORROWED_TX k c, r.2 - k))
      (s, n)
  else (s, n)

/-- Issues up to `n` transactions of class `c`: own ration first, then borrowed; answers how many are left (R280, R281). -/
def State.issueTx (s : State) (c n : Nat) : State × Nat :=
  let own := min n (s.budgetOf c - s.usedTx c)
  let s := (s.fadd SYS_RATION_c_USED_USED_TX own c).markExhausted c
  s.borrow c (n - own)

/-- The requests of a class on hold, oldest first. -/
def State.heldOf (s : State) (c : Nat) : List HeldTx := s.ration.held.getD c []

/-- Transactions of a class on hold. -/
def State.heldTx (s : State) (c : Nat) : Nat := ((s.heldOf c).map (·.count)).sum

/-- Puts `n` transactions of class `c` on hold, with what they let go (R280): the period counts once in WAITS. -/
def State.holdTx (s : State) (c n : Nat) (op : HeldOp := .none) : State :=
  if n = 0 then s
  else
    let r := s.ration
    let s := if r.waited.getD c false then s else s.fadd SYS_RATION_c_WAITS_COUNT 1 c
    { s with ration := { r with
        held := r.held.set c (r.held.getD c [] ++ [⟨n, s.refTick, op⟩])
        waited := r.waited.set c true } }

/-- A requester of class `c` makes `n` transactions: they are charged and issued, or held behind those already held, with what they let
go (R278, R280) [DEDUCED, log entry 78]. -/
def State.chargeTx (s : State) (c n : Nat) (op : HeldOp := .none) : State :=
  if s.heldTx c ≠ 0 then s.holdTx c n op
  else
    let r := s.issueTx c n
    r.1.holdTx c r.2 op

/-- What a charge of `n` transactions lets go: done at once where all are issued, kept with the held ones otherwise (R280). -/
def State.chargeFor (s : State) (c n : Nat) (op : HeldOp) (act : State → State) : State :=
  let t := s.chargeTx c n op
  if n = 0 ∨ t.heldTx c = 0 then act t else t

/-- Transactions of `n` bytes from address `a`: one per 256-byte aligned piece (R263, R278). -/
def txCount (a n : Nat) : Nat := if n = 0 then 0 else (a + n - 1) / 256 - a / 256 + 1

/-- A write of DRAM by a hub block of class `c` (R15, R278, R280). -/
def State.chargedWrite (s : State) (c a : Nat) (bs : List Byte) : State :=
  s.chargeFor c (txCount a bs.length) (.write a bs) (fun s => s.hubWrite a bs)

/-- The state with the writes of a class on hold done: memory as their requester knows it. -/
def State.withHeld (s : State) (c : Nat) : State :=
  (s.heldOf c).foldl (fun s h =>
    match h.op with
    | .write a bs => s.dramWrite a bs
    | _ => s) s

/-- Drops the transactions a class holds: its requester issues no further request (R262). -/
def State.dropHeld (s : State) (c : Nat) : State :=
  { s with ration := { s.ration with held := s.ration.held.set c [] } }

/-- Drops the writes of a class on hold that lie in a range of DRAM: its requester has abandoned them (R347, R353). -/
def State.dropWrites (s : State) (c lo hi : Nat) : State :=
  { s with ration := { s.ration with held := s.ration.held.set c ((s.heldOf c).filter (fun h =>
      match h.op with
      | .write a _ => !(decide (lo ≤ a) && decide (a < hi))
      | _ => true)) } }

/-- Takes `g` granted transactions off requests on hold: those granted whole, and what stays on hold. -/
def takeGranted : Nat → List HeldTx → List HeldTx × List HeldTx
  | _, [] => ([], [])
  | g, h :: l =>
    if h.count ≤ g then
      let r := takeGranted (g - h.count) l
      (h :: r.1, r.2)
    else ([], { h with count := h.count - g } :: l)

/-- At a boundary a class's held transactions are issued as far as its ration goes; the longest time that one was held is kept (R286).
Answered with what the transactions granted whole let go. -/
def State.releaseHeld (s : State) (c : Nat) : State × List HeldOp :=
  let l := s.heldOf c
  let n := s.heldTx c
  if n = 0 then (s, [])
  else
    let r := (s.dropHeld c).issueTx c n
    let s := r.1
    let x := takeGranted (n - r.2) l
    let ns := 8 * (s.refTick - (l.headD ⟨0, s.refTick, .none⟩).since)
    let s := if r.2 < n ∧ s.fget SYS_RATION_c_MAX_HOLD_NS_HOLD_NS c < ns then s.fset SYS_RATION_c_MAX_HOLD_NS_HOLD_NS ns c else s
    if r.2 = 0 then (s, x.1.map (·.op))
    else
      let s := s.fadd SYS_RATION_c_WAITS_COUNT 1 c
      ({ s with ration := { s.ration with
          held := s.ration.held.set c x.2
          waited := s.ration.waited.set c true } }, x.1.map (·.op))

/-- One class at the start of a period (R279): USED_TX returns to 0. -/
def State.newPeriod (s : State) (c : Nat) : State :=
  let u := s.usedTx c
  ((s.fset SYS_RATION_c_USED_LAST_TX u c).fset SYS_RATION_c_USED_USED_TX 0 c).fset SYS_RATION_c_USED_BORROWED_TX 0 c

/-- The budgets, reserves and lend masks written so far come into force (R279). -/
def State.takeRations (s : State) : State :=
  { s with ration := { s.ration with
      budget := (List.range 16).map (fun c => s.fget SYS_RATION_c_CFG_BUDGET_TX c)
      reserve := (List.range 16).map (fun c => s.fget SYS_RATION_c_CFG_RESERVE_TX c)
      lenders := s.fget SYS_RATION_LEND_LENDERS
      borrowers := s.fget SYS_RATION_LEND_BORROWERS
      waited := List.replicate 16 false } }

/-- The ration part of a period boundary (R279 to R281), with what it lets go, in class order [DEDUCED, log entry 78]. -/
def State.rationBoundary (s : State) : State × List HeldOp :=
  let s := (List.range 16).foldl State.newPeriod s
  let s := s.takeRations
  let s := (List.range 16).foldl State.markExhausted s
  let r := (List.range 16).foldl (fun (x : State × List HeldOp) c =>
    let y := x.1.releaseHeld c
    (y.1, x.2 ++ y.2)) (s, [])
  let s := { r.1 with drover := { r.1.drover with pushes := [] } }
  (s.fadd SYS_RATION_PERIODS_COUNT 1, r.2)

end Sys2Proof.Machine
end

