-- ==== Sys2Proof/Machine/Clock.lean ====
section
/-! DEFINITION. The clock unit: start, loss and restart of the divided clocks, divider steps at the ration-period boundary, and
the links' replays (R19, R25 to R31, R509). -/

namespace Sys2Proof.Machine

/-- The time unit enters HOLDOVER (R401, R402). -/
def State.enterHoldover (s : State) : State :=
  if s.fget TIM_STATUS_STATE = 2 then s
  else
    let s := ((s.fset TIM_STATUS_STATE 2).fset TIM_STATUS_HOLDOVER 1).fset TIM_STATUS_HOLDOVER_SEEN 1
    { s with tim := { s.tim with holdStart := s.refTick } }

/-- The time unit loses its clock (R395, R401): TIME_LOST, and the state machine goes to HOLDOVER. -/
def State.timeLost (s : State) : State := (s.fset TIM_STATUS_TIME_LOST 1).enterHoldover

/-- The divided clocks stop, and divider requests still pending are discarded (R509). -/
def State.stopClocks (s : State) : State :=
  let s := s.rebaseAll s.refTick
  { s with clk := { s.clk with running := false, pendingStep := List.replicate 8 none } }

/-- All six clocks start on one root edge, which begins a new grid of ration periods and control intervals
(R25, R411, R509). -/
def State.startClocks (s : State) : State :=
  let s := (s.fset CLK_STATUS_PLL_LOCK 1).fset CLK_STATUS_REF_PRESENT 1
  let s := s.fset CLK_STATUS_LOCK_TIME_US (s.refTick / 125)
  let s := s.rebaseAll s.refTick
  let s := { s with clk := { s.clk with running := true, started := true, periodStart := s.refTick } }
  let core (c : Nat) : PwrCore := { PwrCore.empty with start := s.arrNow c, since := s.arrNow c }
  { s with pwr := { s.pwr with
    samples := 0, sum := 0, start := s.refTick, sampled := s.refTick, thermal := s.refTick, cores := (List.range 8).map core } }

/-- CLOCKS_START (R25): every ARR_CLK at step 0, the PTP clock at 0 (R395), and the boot attempt begins (R457). -/
def execClocksStart (s : State) : Result :=
  let t := (s.startClocks).fset CLK_CORE_STEP_STEP 0
  due (!s.clk.inReset && !s.clk.started) s
    { t with tim := { t.tim with sec := 0, ns := 0, frac := 0 }, boot := { t.boot with start := s.refTick } }

/-- PLL_LOCK_LOSS (R30, R509): the divided clocks stop and the clock unit reports class F. -/
def execPllLockLoss (s : State) : Result :=
  let t := (s.fset CLK_STATUS_PLL_LOCK 0).fset CLK_STATUS_LOCK_LOST 1
  due (s.fbit CLK_STATUS_PLL_LOCK && s.clk.started) s ((t.stopClocks.timeLost).report 0x030 clsF)

/-- REFERENCE_LOSS (R30): after more than 1 µs without the reference the divided clocks are held, FAULT_N is asserted and the
clock unit reports class F. -/
def execReferenceLoss (s : State) : Result :=
  let t := (s.fset CLK_STATUS_REF_PRESENT 0).fset CLK_STATUS_REF_LOST 1
  let t := { t with pins := { t.pins with faultN := true } }
  due (s.fbit CLK_STATUS_REF_PRESENT && s.clk.started) s ((t.stopClocks.timeLost).report 0x030 clsF)

/-- CLOCKS_RESTART (R509): the six clocks restart together; every core keeps its step. -/
def execClocksRestart (s : State) : Result :=
  due (!s.clk.inReset && s.clk.started && !s.clk.running) s s.startClocks

/-- Applies the divider step requested for a core at the boundary that ends the present ration period (R27). -/
def State.applyStep (s : State) (c : Nat) : State :=
  match s.clk.pendingStep.getD c none with
  | none => s
  | some st =>
    let s' := { s with clk := { s.clk with pendingStep := s.clk.pendingStep.set c none } }
    if st = s.coreStep c then s'
    else ((s'.rebaseArr c (s.clk.periodStart + usTicks 10)).fset CLK_CORE_STEP_STEP (putBits (s.fget CLK_CORE_STEP_STEP) (2 * c) 2 st)).fadd CLK_STEP_CHANGES_COUNT 1

/-- A divider step is requested of a core; a later request in the same period replaces it (R27). -/
def State.requestStep (s : State) (c st : Nat) : State :=
  { s with clk := { s.clk with pendingStep := s.clk.pendingStep.set c (some st) } }

/-- LINK_REPLAY (R19): a transfer that failed its CRC is replayed. A replay that succeeds is a class C fault; the sixteenth
consecutive failure declares the link down, class F. Every replay counts in REPLAYS, one that fails too, and the bytes of one that
succeeds count as received whatever the transfer's direction [DESIGN CHOICE, log entry 80]. -/
def execLinkReplay (link bytes : Nat) (ok : Bool) (s : State) : Result :=
  let t := (s.fadd D2D_Ln_REPLAYS_COUNT 1 link).fset D2D_Ln_STATUS_CRC_SEEN 1 link
  let fails := s.clk.linkFails.getD link 0
  let setFails (t : State) (n : Nat) : State := { t with clk := { t.clk with linkFails := t.clk.linkFails.set link n } }
  let t :=
    if ok then ((setFails t 0).linkRx link bytes).report (0x320 + link) clsC
    else if fails = 15 then
      (((setFails t 0).fset D2D_Ln_STATUS_UP 0 link).fset D2D_Ln_STATUS_DOWN_LATCHED 1 link).report (0x320 + link) clsF
    else setFails t (fails + 1)
  unit (link < 3) (due (s.up && s.fbit D2D_Ln_STATUS_UP link) s t)

end Sys2Proof.Machine
end

