-- ==== Sys2Proof/Machine/Operands.lean ====
section
/-! DEFINITION. The operand forms of descriptors: header, sync area, opcodes and field blocks (R215 to R230), tally numbers
(R231), and scratchpad handles resolved against a latched task (R145 to R147). -/

namespace Sys2Proof.Machine

/-- `len` bits from bit `lo` of byte `byte` of a 64-byte descriptor held as a little-endian number. -/
def dbits (d byte lo len : Nat) : Nat := bits d (8 * byte + lo) len

/-- A little-endian field of `n` bytes. -/
def dbytes (d byte n : Nat) : Nat := bits d (8 * byte) (8 * n)

/-! ### Header (R215) -/

def dOpcode (d : Nat) : Nat := dbytes d 0 1
def dEngine (d : Nat) : Nat := dbits d 1 0 5
def dNotify (d : Nat) : Bool := dbits d 1 5 1 == 1
def dStopAfter (d : Nat) : Bool := dbits d 1 6 1 == 1
def dTag (d : Nat) : Nat := dbytes d 2 2
def dPhase (d : Nat) : Nat := dbytes d 4 1
def dLockOffset (d : Nat) : Nat := dbytes d 6 2
def dFormat (d : Nat) : Nat := dbytes d 8 1

/-- Number of waits W: 3 codes four (R215). -/
def dWaits (d : Nat) : Nat := let c := dbits d 5 0 2; if c = 3 then 4 else c

/-- Number of signals S. -/
def dSignals (d : Nat) : Nat := dbits d 5 2 2

/-- CHECK_COUNT of a lockstep member (R217). -/
def dChecks (d : Nat) : Nat := dbits d 5 4 3

/-- Signal `i`: TALLY and INC (R216). -/
def dSignal (d i : Nat) : Nat × Nat := (dbytes d (60 - 4 * i) 2, dbytes d (62 - 4 * i) 2)

/-- Wait `j`: TALLY and THRESHOLD (R216). -/
def dWait (d j : Nat) : Nat × Nat :=
  let b := 58 - 4 * dSignals d - 6 * j
  (dbytes d b 2, dbytes d (b + 2) 4)

/-- Producer check `i` of a member: PRODUCER_OFFSET and OPERAND (R217). -/
def dCheck (d i : Nat) : Nat × Nat := (dbytes d (60 - 4 * i) 2, dbits d (62 - 4 * i) 0 5)

/-! ### Opcodes (R220) -/

def opNOP : Nat := 0x00
def opCARAVAN_BEGIN : Nat := 0x01
def opCARAVAN_END : Nat := 0x02
def opFENCE : Nat := 0x03
def opGROUP_OPEN : Nat := 0x08
def opMXA_STREAM : Nat := 0x10
def opMXA_PACKED : Nat := 0x11
def opMXA_THROUGH : Nat := 0x12
def opMVP_MATVEC : Nat := 0x18
def opWIN_FEED : Nat := 0x20
def opWIN_REGROUP : Nat := 0x21
def opVEC_OP : Nat := 0x28
def opQNT_CONVERT : Nat := 0x30
def opQNT_ADAPT : Nat := 0x31
def opROI_OP : Nat := 0x38
def opMOV_STREAM : Nat := 0x40

def enDrover : Nat := 0
def enSEQ : Nat := 1
def enMXA0 : Nat := 2
def enMXA1 : Nat := 3
def enMVP : Nat := 4
def enWIN : Nat := 5
def enVEC : Nat := 6
def enQNT : Nat := 7
def enROI : Nat := 8
def enMOV : Nat := 9

/-- Row of the opcode table of R220: whether the ENGINE is the opcode's, whether it stands in rings, in chains, and L. -/
structure OpRow where
  engineOk : Nat → Bool
  ring : Bool
  chain : Bool
  len : Nat

/-- The opcode table of R220; `none` for a reserved opcode. -/
def opRow (op : Nat) : Option OpRow :=
  if op = opNOP then some ⟨(· == enDrover), true, true, 0⟩
  else if op = opCARAVAN_BEGIN then some ⟨(· == enDrover), true, false, 24⟩
  else if op = opCARAVAN_END then some ⟨(· == enDrover), false, true, 8⟩
  else if op = opFENCE then some ⟨(· == enDrover), true, false, 4⟩
  else if op = opGROUP_OPEN then some ⟨(· == enSEQ), false, true, 4⟩
  else if op = opMXA_STREAM then some ⟨fun e => e == enMXA0 || e == enMXA1, false, true, 32⟩
  else if op = opMXA_PACKED then some ⟨fun e => e == enMXA0 || e == enMXA1, false, true, 8⟩
  else if op = opMXA_THROUGH then some ⟨fun e => e == enMXA0 || e == enMXA1, false, true, 28⟩
  else if op = opMVP_MATVEC then some ⟨(· == enMVP), false, true, 28⟩
  else if op = opWIN_FEED then some ⟨(· == enWIN), false, true, 44⟩
  else if op = opWIN_REGROUP then some ⟨(· == enWIN), false, true, 36⟩
  else if op = opVEC_OP then some ⟨(· == enVEC), false, true, 28⟩
  else if op = opQNT_CONVERT then some ⟨(· == enQNT), false, true, 36⟩
  else if op = opQNT_ADAPT then some ⟨(· == enQNT), false, true, 20⟩
  else if op = opROI_OP then some ⟨(· == enROI), false, true, 16⟩
  else if op = opMOV_STREAM then some ⟨(· == enMOV), false, true, 16⟩
  else none

/-- Whether the Drover executes an opcode itself (R218, R220). -/
def isDroverOp (op : Nat) : Bool := op ≤ 3

/-! ### Field blocks of the Drover's own opcodes (R221) -/

def cbId (d : Nat) : Nat := dbytes d 16 4
def cbModel (d : Nat) : Nat := dbytes d 20 4
def cbMailbox (d : Nat) : Nat := dbits d 24 0 12
def cbPin (d : Nat) : Nat := dbytes d 26 1
def cbTask (d : Nat) : Nat := dbits d 27 0 4
def cbTallyBase (d : Nat) : Nat := dbytes d 28 2
def cbTallyCount (d : Nat) : Nat := dbytes d 30 2
def cbChain (d : Nat) : Nat := dbytes d 32 4
def cbChainLen (d : Nat) : Nat := dbits d 36 0 21
def ceResult (d : Nat) : Nat := dbytes d 16 4
def ceResultB (d : Nat) : Nat := dbits d 20 0 17
def fePause (d : Nat) : Bool := dbits d 16 0 1 == 1
def goMembers (d : Nat) : Nat := dbytes d 16 1
def goLength (d : Nat) : Nat := dbytes d 17 3

/-- The field-block check that R218 makes of the Drover's own opcodes: reserved bits and the ranges of R221. -/
def droverFieldsBad (d : Nat) : Bool :=
  let op := dOpcode d
  if op = opCARAVAN_BEGIN then
    dbits d 24 12 4 != 0 || dbits d 27 4 4 != 0 || dbits d 36 21 11 != 0 ||
    !(cbPin d == 0xFF || cbPin d ≤ 7) || 32768 < cbTallyCount d || 65536 < cbTallyBase d + cbTallyCount d ||
    !isDram (cbChain d) || handleIndex (cbChain d) % 4 != 0 || cbChainLen d == 0 || 1048576 < cbChainLen d
  else if op = opCARAVAN_END then
    dbits d 20 17 15 != 0 || 65536 < ceResultB d || !isDram (ceResult d)
  else if op = opFENCE then dbits d 16 1 7 != 0 || dbytes d 17 3 != 0
  else false

/-- Whether a tally number is valid (R231): relative numbers only in a chain, below the caravan's TALLY_COUNT. -/
def tallyOk (t : Nat) (own : Option (Nat × Nat)) : Bool :=
  if t < 0x8000 then true
  else match own with
    | none => false
    | some (_, n) => t - 0x8000 < n

/-- The tally a TALLY field names (R231). -/
def tallyNum (t : Nat) (own : Option (Nat × Nat)) : Nat :=
  if t < 0x8000 then t
  else match own with
    | none => t
    | some (b, _) => b + (t - 0x8000)

/-- The header and sync-area check of R218: `ring` where the descriptor was read from a ring slot, `last` where it is the
chain's last, `member` where it follows an opener as one of its members, `own` the caravan's tally range. -/
def malformed (d : Nat) (ring last member : Bool) (own : Option (Nat × Nat)) : Bool :=
  match opRow (dOpcode d) with
  | none => true
  | some row =>
    let w := dWaits d
    let sg := dSignals d
    let c := dChecks d
    dFormat d != 1 || dbits d 1 7 1 != 0 || dbits d 5 7 1 != 0 || dbytes d 9 7 != 0 ||
    sg == 3 ||
    !row.engineOk (dEngine d) ||
    (if ring then !row.ring else !row.chain) ||
    (!ring && (dOpcode d == opCARAVAN_END) != last) ||
    4 < c || (c != 0 && (!member || w != 0 || sg != 0)) ||
    (if c != 0 then
      48 < row.len + 4 * c || dbytes d (16 + row.len) (48 - row.len - 4 * c) != 0 ||
      (List.range c).any (fun i => dbits d (62 - 4 * i) 5 11 != 0)
    else if member && (w != 0 || sg != 0) then false
    else
      48 < row.len + 6 * w + 4 * sg || dbytes d (16 + row.len) (48 - row.len - 6 * w - 4 * sg) != 0 ||
      (List.range sg).any (fun i => (dSignal d i).2 == 0 || !tallyOk (dSignal d i).1 own) ||
      (List.range w).any (fun j => !tallyOk (dWait d j).1 own)) ||
    droverFieldsBad d

/-! ### Scratchpad handles (R145 to R147) -/

/-- Index of a scratchpad space in a latch's lists: 0 WSP, 1 ASP, 2 PSP. -/
def spIx (sp : Nat) : Nat := sp - 2

/-- Byte offset in scratchpad `sp` that granule index `g` addresses for a latched task (R145). -/
def TaskLatch.byteOf (t : TaskLatch) (sp g : Nat) : Nat := 128 * t.base.getD (spIx sp) 0 + 32 * g

/-- Byte offset in PSP of slot `p` for a latched task (R145). -/
def TaskLatch.slotByte (t : TaskLatch) (p : Nat) : Nat := 128 * t.base.getD 2 0 + 16 * p

/-- Whether `n` bytes from offset `b` of scratchpad `sp` of core `c` lie within a latched task's bounds (R145). -/
def State.inBounds (s : State) (c : Nat) (t : TaskLatch) (sp b n : Nat) : Bool :=
  t.enable && decide (t.base.getD (spIx sp) 0 < t.bound.getD (spIx sp) 0) &&
  decide (b + n ≤ 128 * min (t.bound.getD (spIx sp) 0) (s.spRowCount c sp))

/-- BASE and BOUND of task `n` of core `c` as a latch (R144, R146). -/
def State.taskLatch (s : State) (c n : Nat) : TaskLatch :=
  { task := n
    enable := s.fbit CORE_TASKn_BOUND_ENABLE c n
    base := [s.fget CORE_TASKn_BASE_WSP_ROW c n, s.fget CORE_TASKn_BASE_ASP_ROW c n, s.fget CORE_TASKn_BASE_PSP_ROW c n]
    bound := [s.fget CORE_TASKn_BOUND_WSP_ROW c n, s.fget CORE_TASKn_BOUND_ASP_ROW c n, s.fget CORE_TASKn_BOUND_PSP_ROW c n] }

/-- The latch of a descriptor that has entered no engine. -/
def TaskLatch.none : TaskLatch := { task := 0, enable := false, base := [], bound := [] }

end Sys2Proof.Machine
end

