-- ==== Sys2Proof/Machine/Drover.lean ====
section
/-! DEFINITION. Flights, tallies and completion: what the Drover and the tally unit do with every descriptor (R231 to R236,
R242, R433). -/

namespace Sys2Proof.Machine

/-! ### Flights and caravans -/

/-- The name of a flight. -/
def Flight.ref (f : Flight) : DescRef := ⟨f.queue, f.index, f.pos⟩

/-- Whether a descriptor has completed (its status is settled, R242). -/
def Flight.completed (f : Flight) : Bool := f.stage == .ended || f.stage == .done

/-- A flight by name. -/
def State.flight? (s : State) (r : DescRef) : Option Flight := s.drover.flights.find? (fun f => f.ref == r)

/-- Replaces the list of flights. -/
def State.setFlights (s : State) (l : List Flight) : State := { s with drover := { s.drover with flights := l } }

/-- Replaces the list of caravans in flight. -/
def State.setCaravans (s : State) (l : List Caravan) : State := { s with drover := { s.drover with caravans := l } }

/-- Replaces the list of withheld signals. -/
def State.setWithheld (s : State) (l : List Withheld) : State := { s with drover := { s.drover with withheld := l } }

/-- Changes one flight. -/
def State.modFlight (s : State) (r : DescRef) (g : Flight → Flight) : State :=
  s.setFlights (s.drover.flights.map (fun f => if f.ref = r then g f else f))

/-- The caravan of a queue's ring index. -/
def State.caravan? (s : State) (q idx : Nat) : Option Caravan :=
  s.drover.caravans.find? (fun c => c.queue == q && c.index == idx)

/-- Changes the caravan of a queue's ring index. -/
def State.modCaravan (s : State) (q idx : Nat) (g : Caravan → Caravan) : State :=
  s.setCaravans (s.drover.caravans.map (fun c => if c.queue = q ∧ c.index = idx then g c else c))

/-- The caravan that a flight belongs to: none for a ring NOP or FENCE (R243). -/
def State.caravanOf (s : State) (f : Flight) : Option Caravan := s.caravan? f.queue f.index

/-- The CARAVAN_ID of a flight (R243, R433): its caravan's, that of a CARAVAN_BEGIN that opened none, or 0. -/
def State.caravanId (s : State) (f : Flight) : Nat :=
  (s.caravanOf f).elim (if f.pos = 0 ∧ dOpcode f.desc = opCARAVAN_BEGIN then cbId f.desc else 0) (·.id)

/-- The caravan that occupies a core (R292). -/
def State.occupant (s : State) (c : Nat) : Option Caravan := s.drover.caravans.find? (fun k => k.core == some c)

/-- The tally range a descriptor may name relatively (R231): its caravan's, for a chain descriptor. -/
def State.ownRange (s : State) (f : Flight) : Option (Nat × Nat) :=
  if f.pos = 0 then none else (s.caravanOf f).map (fun c => (c.tallyBase, c.tallyCount))

/-- Flights of a queue, in descriptor order. -/
def State.flightsOf (s : State) (q : Nat) : List Flight := s.drover.flights.filter (fun f => f.queue == q)

/-! ### Tallies (R231 to R234) -/

/-- R232's test that a count has met a threshold. -/
def tallyMet (count thr : Nat) : Bool := atOrAfter32 count thr

/-- Count of a tally. -/
def State.tally (s : State) (n : Nat) : Nat := s.fget TLY_t_COUNT_COUNT n

/-- Whether the FCU has still to act on a lock checker's report of a flight's caravan: its reaction applies when the group ends (R122), so
no later descriptor of the caravan goes ahead of it [DEDUCED, log entry 41]. -/
def State.lockReported (s : State) (f : Flight) : Bool :=
  s.fcu.reports.any (fun r => r.source == coreSrc f.core 0x11 && r.ref.elim false (fun x => x.queue == f.queue && x.index == f.index))

/-- Whether flight `f` stands where its waits are watched (R232, R238, R254): at the head of its engine's intake, or, for a
descriptor the Drover executes, first of its queue that has not completed, or, for a chain NOP, first not forwarded [DEDUCED, log entry 41]. -/
def State.atHead (s : State) (f : Flight) : Bool :=
  if isDroverOp (dOpcode f.desc) then
    f.stage == .fetched &&
      (let before := (s.flightsOf f.queue).takeWhile (fun g => g.ref != f.ref)
       if dOpcode f.desc = opNOP ∧ f.pos ≠ 0 then before.all (fun g => g.stage != .fetched && g.stage != .broken)
       else before.all (fun g => g.completed))
  else
    f.stage == .intake &&
      (s.drover.flights.takeWhile (fun g => g.ref != f.ref)).all (fun g =>
        !(g.core == f.core && dEngine g.desc == dEngine f.desc && g.stage == .intake))

/-- Whether the engine of flight `f` has ended its previous descriptor (R232). -/
def State.engineFree (s : State) (f : Flight) : Bool :=
  isDroverOp (dOpcode f.desc) || (s.drover.flights.takeWhile (fun g => g.ref != f.ref)).all (fun g =>
    !(g.core == f.core && dEngine g.desc == dEngine f.desc && (g.stage == .running || g.stage == .moved)))

/-- Whether flight `f` may start as soon as its waits have been met (R232). -/
def State.mayStart (s : State) (f : Flight) : Bool := s.atHead f && s.engineFree f && !s.lockReported f

/-- The waits of a flight met so far, the counts as they now stand included (R232). -/
def State.metNow (s : State) (f : Flight) : Nat :=
  let own := s.ownRange f
  (List.range (dWaits f.desc)).foldl (fun m j =>
    let w := dWait f.desc j
    if bitAt f.met j || tallyMet (s.tally (tallyNum w.1 own)) w.2 then putBits m j 1 1 else m) 0

/-- Whether every wait of a flight has been met since it reached its head (R232). A lockstep member has none (R217). -/
def State.waitsMet (s : State) (f : Flight) : Bool :=
  f.member || s.metNow f == 2 ^ dWaits f.desc - 1

/-- Records the waits that the counts now meet, for every flight at its head: a wait once met stays met (R232). -/
def State.latchWaits (s : State) : State :=
  s.setFlights (s.drover.flights.map (fun f => if s.atHead f then { f with met := s.metNow f } else f))

/-- Gives a tally a new count, waits already met staying met (R232, R254). -/
def State.tallyPut (s : State) (n v : Nat) : State := s.latchWaits.fset TLY_t_COUNT_COUNT v n

/-- signal(n, inc) of R232. -/
def State.signal (s : State) (n inc : Nat) : State :=
  (s.tallyPut n (s.tally n + inc)).fadd TLY_SIGNALS_COUNT 1

/-- A flight's signals as tally numbers and increments. -/
def State.signalsOf (s : State) (f : Flight) : List (Nat × Nat) :=
  if f.member then []
  else (List.range (dSignals f.desc)).map (fun i =>
    (tallyNum (dSignal f.desc i).1 (s.ownRange f), (dSignal f.desc i).2))

/-- Applies signals in order (R233). -/
def State.deliver (s : State) (l : List (Nat × Nat)) : State := l.foldl (fun s x => s.signal x.1 x.2) s

/-- Descriptors held by an unmet wait (TLY_WAITING.COUNT, R254). -/
def State.waiting (s : State) : Nat :=
  min 65535 (s.drover.flights.filter (fun f => s.atHead f && !s.waitsMet f)).length

/-! ### Ending and completing a descriptor -/

/-- Asserts a report attributed to a descriptor (R433), and keeps the class and source for its record (R243). -/
def State.reportFor (s : State) (r : DescRef) (source cls : Nat) (injected : Bool := false) : State :=
  match s.flight? r with
  | none => s.report source cls none 0 none injected
  | some f =>
    let s := s.report source cls (some r) (s.caravanId f) (if f.pos = 0 then none else some f.core) injected
    s.modFlight r (fun f =>
      { f with fclass := max f.fclass cls, fsource := if f.fclass = 0 then source else f.fsource })

/-- A descriptor has ended with a status (R235, R242). -/
def State.endFlight (s : State) (r : DescRef) (status : Nat) : State :=
  s.modFlight r (fun f => { f with stage := .ended, status := worse f.status status })

/-- A descriptor ends with a failing status as a class U fault of a source. -/
def State.endFault (s : State) (r : DescRef) (status source : Nat) : State :=
  (s.reportFor r source clsU).endFlight r status

/-- The Drover ends a caravan (R218, R236, R313, R446): every descriptor of it from chain position `from_` on that has not
completed ends with `status`, one that has started first running to its end unless `running` stops it too; those not yet
fetched take it when they are. -/
def State.endCaravan (s : State) (q idx from_ status : Nat) (running : Bool) : State :=
  let s := s.modCaravan q idx (fun c => { c with
    ending := some (c.ending.elim status (worse status)), endFrom := c.ending.elim from_ (fun _ => min c.endFrom from_) })
  s.setFlights (s.drover.flights.map (fun f =>
    if f.queue = q ∧ f.index = idx ∧ from_ ≤ f.pos ∧ f.pos ≠ 0 ∧ !f.completed then
      { f with
        stage := if running ∨ (f.stage ≠ .running ∧ f.stage ≠ .moved) then .ended else f.stage
        status := worse f.status status }
    else f))

/-- Signals of a completed descriptor are delivered, or withheld and kept for the reaction to its fault (R235, R236). -/
def State.settle (s : State) (f : Flight) : State :=
  let sg := s.signalsOf f
  if delivers f.status || f.released then s.deliver sg
  else if sg = [] then s
  else s.setWithheld (s.drover.withheld ++ [⟨f.ref, sg⟩])

/-- A descriptor that has ended completes: signals settled, its status kept for its part (R288), its record queued. -/
def State.completeFlight (s : State) (r : DescRef) : State :=
  match s.flight? r with
  | none => s
  | some f =>
    let s := s.settle f
    let s := s.modFlight r (fun f => { f with stage := .done })
    s.modCaravan f.queue f.index (fun c => { c with statuses := c.statuses ++ [f.status] })

/-- The release reaction for one descriptor: its withheld signals are delivered now, or when it completes. -/
def State.releaseOne (s : State) (r : DescRef) : State :=
  let hit := s.drover.withheld.filter (fun w => w.ref == r)
  let s := s.setWithheld (s.drover.withheld.filter (fun w => w.ref != r))
  let s := s.modFlight r (fun f => { f with released := true })
  hit.foldl (fun s w => s.deliver w.signals) s

/-- The release reaction for a descriptor (R236, R436): its signals and, for a member, those of its group. -/
def State.releaseSignals (s : State) (r : DescRef) : State :=
  match s.flight? r with
  | some f => if f.member then (s.releaseOne r).releaseOne ⟨f.queue, f.index, f.opener⟩ else s.releaseOne r
  | none => s.releaseOne r

/-! ### Queue registers that the Drover moves -/

def State.qHead (s : State) (q : Nat) : Nat := s.fget QM_Qq_HEAD_INDEX q
def State.qTail (s : State) (q : Nat) : Nat := s.fget QM_Qq_TAIL_INDEX q
def State.qFetch (s : State) (q : Nat) : Nat := s.fget QM_Qq_PROGRESS_FETCH q
def State.qSize (s : State) (q : Nat) : Nat := 2 ^ s.fget QM_Qq_CFG_SIZE_LOG2 q
def State.qKind (s : State) (q : Nat) : Nat := s.fget QM_Qq_CFG_KIND q
def State.qEnabled (s : State) (q : Nat) : Bool := s.fbit QM_Qq_CFG_ENABLE q

/-- Address of slot 0 of a queue's ring (R253). -/
def State.qBase (s : State) (q : Nat) : Nat := 64 * s.fget QM_Qq_BASE_BASE q

/-- Fill of a queue (R245). -/
def State.qFill (s : State) (q : Nat) : Nat := sub32 (s.qTail q) (s.qHead q)

/-- Halts fetching from a queue (R249, R251): the first cause stands [DEDUCED, log entry 77]. -/
def State.haltQueue (s : State) (q cause : Nat) : State :=
  if s.fbit QM_Qq_STATUS_HALTED q then s
  else (s.fset QM_Qq_STATUS_HALTED 1 q).fset QM_Qq_STATUS_HALT_CAUSE cause q

/-- The caravan whose chain the queue is still fetching: placed or ended, with descriptors of its chain to come (R214). -/
def State.chainOpen (s : State) (q : Nat) : Option Caravan :=
  s.drover.caravans.find? (fun c => c.queue == q && c.core.isSome && c.fetched < c.len)

/-- Sets DRAINED of a halted queue once every fetched descriptor has retired (R249). -/
def State.updateDrained (s : State) (q : Nat) : State :=
  if s.fbit QM_Qq_STATUS_HALTED q && s.flightsOf q == [] && (s.chainOpen q).isNone then
    s.fset QM_Qq_STATUS_DRAINED 1 q
  else s

/-- A completion ring can take a record now (R244). -/
def State.ringTakes (s : State) (ring : Nat) : Bool :=
  s.qEnabled ring && s.qKind ring == 1 && decide (s.qFill ring < s.qSize ring)

/-! ### Pushes (R246, R247) -/

/-- Pushes accepted by a queue in this ration period. -/
def State.pushesOf (s : State) (q : Nat) : Nat := (AMap.get? s.drover.pushes q).getD 0

/-- Whether R247 refuses `n` pushes of kind `kind` to a queue. -/
def State.pushRefused (s : State) (q kind n : Nat) : Bool :=
  !s.qEnabled q || s.qKind q != kind || decide (s.qSize q < s.qFill q + n) ||
  (s.fget QM_Qq_CFG_PUSH_LIMIT q != 0 && decide (s.fget QM_Qq_CFG_PUSH_LIMIT q < s.pushesOf q + n))

/-- Records an accepted push of `n` slots. -/
def State.pushTaken (s : State) (q n : Nat) : State :=
  let s := { s with drover := { s.drover with pushes := AMap.set s.drover.pushes q (s.pushesOf q + n) } }
  s.fset QM_Qq_STATUS_LAST_PUSH stOK q

/-- Records a refused push (R247). -/
def State.pushRefusal (s : State) (q : Nat) : State :=
  ((s.fset QM_Qq_STATUS_LAST_PUSH stQueueFull q).fadd QM_Qq_STATUS_REFUSED 1 q).fadd QM_REFUSED_COUNT 1

/-- A stage, HMP or timer push of a 64-byte descriptor: the slot at TAIL is written, then TAIL advances (R246). In the fold
it is refused (R438). -/
def State.pushDesc (s : State) (q desc : Nat) : State × Nat :=
  if s.pushRefused q 0 1 || !s.inRun then (s.pushRefusal q, stQueueFull)
  else
    let s1 := s.hubWrite (s.qBase q + 64 * (s.qTail q % s.qSize q)) (leBytes 64 desc)
    ((s1.fset QM_Qq_TAIL_INDEX (s.qTail q + 1) q).pushTaken q 1, stOK)

/-! ### Waystations (R265 to R267) -/

/-- A put: the entry goes to TAIL, or is refused (R266, R267). -/
def State.wayPut (s : State) (w handle status : Nat) : State × Bool :=
  if s.pushRefused w 2 1 then (s.pushRefusal w, false)
  else
    let t := s.qTail w
    let s1 := s.hubWrite (s.qBase w + 8 * (t % s.qSize w))
      (leBytes 4 handle ++ [BitVec.ofNat 8 status, 1] ++ leBytes 2 t)
    ((s1.fset QM_Qq_TAIL_INDEX (t + 1) w).pushTaken w 1, true)

/-- A take: the entry at HEAD, or none (R266, R267). -/
def State.wayTake (s : State) (w : Nat) : State × Option WayEntry :=
  if !s.qEnabled w || s.qKind w != 2 || s.qFill w == 0 then (s, none)
  else
    let a := s.qBase w + 8 * (s.qHead w % s.qSize w)
    ((s.hubRead a 8).fset QM_Qq_HEAD_INDEX (s.qHead w + 1) w,
      some ⟨s.readLE a 4, s.readLE (a + 4) 1, s.readLE (a + 6) 2⟩)

/-- Whether a put has to wait: its waystation is full (R269), or its ring's die cannot be reached (R438). -/
def State.wayFull (s : State) (w : Nat) : Bool := decide (s.qSize w ≤ s.qFill w) || s.dieDown (hubLinkOf (s.qBase w))

/-! ### Telemetry of the power unit (R416, R420) -/

/-- Changes a core's power telemetry. -/
def State.modPwrCore (s : State) (c : Nat) (g : PwrCore → PwrCore) : State :=
  { s with pwr := { s.pwr with cores := modAt s.pwr.cores c g } }

/-- Counts the ARR cycles for which a core has had its phase until now. -/
def State.notePhase (s : State) (c : Nat) : State :=
  let p := s.fget PWR_CORE_c_PHASE c
  s.modPwrCore c (fun k => { k with
    held := AMap.set k.held p ((AMap.get? k.held p).getD 0 + (s.arrNow c - k.since)), since := s.arrNow c })

/-- A core takes a phase. -/
def State.setPhase (s : State) (c p : Nat) : State := (s.notePhase c).fset PWR_CORE_c_PHASE p c

/-- An engine of a core was busy for `n` ARR cycles. -/
def State.addBusy (s : State) (c e n : Nat) : State :=
  s.modPwrCore c (fun k => { k with busy := modAt k.busy e (fun b => b + n) })

end Sys2Proof.Machine
end

