-- ==== Sys2Proof/Machine/Scratch.lean ====
section
/-! DEFINITION. The scratchpads of a core: bank reads with their error checks, bank writes with poison, check bits and stamps,
Packhorse, zeroing, the scrubber, and the debug window (R126 to R153). -/

namespace Sys2Proof.Machine

/-! ### Where a row lies -/

/-- First address of global row `r` of a scratchpad. -/
def rowAddr (c sp r : Nat) : Nat := spAddr c sp (128 * r)

/-- Core, scratchpad and byte offset of a scratchpad address in the debug windows. -/
def spOf (a : Nat) : Nat × Nat × Nat :=
  let o := (a - windowBase) % 0x400_0000
  ((a - windowBase) / 0x400_0000,
    if o < 0x100_0000 then spWSP else if o < 0x200_0000 then spASP else spPSP,
    o % 0x100_0000)

/-- Whether a global row of a scratchpad lies in a region of core `c` that is being zeroed for a task other than `task`
(R150). -/
def State.rowZeroing (s : State) (c sp r : Nat) (task : Option Nat) : Bool :=
  (s.coreAt c).zeroing.any (fun z =>
    some z.task != task && decide (z.lo.getD (spIx sp) 0 ≤ r) && decide (r < z.hi.getD (spIx sp) 0))

/-! ### Bank reads (R138, R139) -/

/-- Number of set bits of an 8-bit number. -/
def pop8 (x : Nat) : Nat := ((List.range 8).filter (fun i => x.testBit i)).length

/-- Puts a corrected or poisoned word into the correction queue of its scratchpad; a full queue drops it (R139). -/
def State.queueCorrection (s : State) (c sp : Nat) (e : CorrEntry) : State :=
  s.modCore c (fun k =>
    { k with corrections := modAt k.corrections (spIx sp) (fun l =>
        if l.length < 4 && !l.any (fun x => x.addr == e.addr) then l ++ [e] else l) })

/-- One word error found by a bank read (R139, R154): counted, captured, reported as injected (only SP_ECC_INJECT makes one, R447), and
queued for its write-back [DEDUCED, log entry 25]. -/
def State.eccFound (s : State) (c sp a syn : Nat) (ref : Option DescRef) : State :=
  let un := decide (2 ≤ pop8 syn)
  let off := (spOf a).2.2
  let s :=
    if un then (s.fadd SP_ECC_UNCORR_COUNT 1 c).fset SP_STATUS_ECC_UNCORR_SEEN 1 c
    else (s.fadd SP_ECC_CORR_COUNT 1 c).fset SP_STATUS_ECC_CORR_SEEN 1 c
  let cap := spIx sp + (off % 128 / 8) * 2 ^ 2 + (off / 128) * 2 ^ 6 + b2n un * 2 ^ 22 + syn * 2 ^ 24
  let s := if s.fbit SP_ECC_LAST_VALID c then s else s.rset SP_ECC_LAST (BitVec.ofNat 64 (cap + 2 ^ 63)) c
  let s := s.queueCorrection c sp ⟨a, s.readLE a 8, un || s.poisoned a⟩
  let cls := if un then clsU else clsC
  match ref with
  | some r => s.reportFor r (coreSrc c (0x18 + spIx sp)) cls true
  | none => s.report (coreSrc c (0x18 + spIx sp)) cls none 0 (some c) true

/-- The error checks of bank reads of `n` bytes from offset `b`: every word of every row read is checked (R138). -/
def State.eccRead (s : State) (c sp b n : Nat) (ref : Option DescRef) : State :=
  if n = 0 then s
  else
    let lo := spAddr c sp (b / 128 * 128)
    let hi := spAddr c sp ((b + n + 127) / 128 * 128)
    (s.checkFlips.filter (fun e => lo ≤ e.1 && e.1 < hi)).foldl (fun s e => s.eccFound c sp e.1 e.2 ref) s

/-- Whether a bank read of `n` bytes from offset `b` finds an uncorrectable error in a row it reads. -/
def State.eccUncorrectable (s : State) (c sp b n : Nat) : Bool :=
  let lo := spAddr c sp (b / 128 * 128)
  let hi := spAddr c sp ((b + n + 127) / 128 * 128)
  s.checkFlips.any (fun e => decide (lo ≤ e.1 ∧ e.1 < hi) && decide (2 ≤ pop8 e.2))

/-- Whether an engine's read of the word at offset `b` delivers it poisoned: its mark is set, its check finds two or more
errors, or its row is being zeroed for another task (R139, R140, R150). -/
def State.wordPoison (s : State) (c sp b : Nat) (task : Option Nat) : Bool :=
  let a := spAddr c sp (b / 8 * 8)
  s.poisoned a || decide (2 ≤ pop8 ((AMap.get? s.checkFlips a).getD 0)) || s.rowZeroing c sp (b / 128) task

/-- Whether any word of an engine's read of `n` bytes from offset `b` is poisoned [DEDUCED, log entry 27]. -/
def State.rangePoison (s : State) (c sp b n : Nat) (task : Option Nat) : Bool :=
  if n = 0 then false
  else (List.range ((b + n - 1) / 8 - b / 8 + 1)).any (fun i => s.wordPoison c sp (8 * (b / 8 + i)) task)

/-- The byte an engine reads at offset `b` (R150: zero while the row is zeroed for another task). -/
def State.spByte (s : State) (c sp b : Nat) (task : Option Nat) : Byte :=
  if s.rowZeroing c sp (b / 128) task then 0 else s.readByte (spAddr c sp b)

/-- The bytes an engine reads from offset `b`. -/
def State.spBytes (s : State) (c sp b n : Nat) (task : Option Nat) : List Byte :=
  (List.range n).map (fun i => s.spByte c sp (b + i) task)

/-- A little-endian number an engine reads. -/
def State.spLE (s : State) (c sp b n : Nat) (task : Option Nat) : Nat := leVal (s.spBytes c sp b n task)

/-! ### Bank writes (R126, R138, R140, R143) -/

/-- What a bank write does to the row's stamp (R118, R139). -/
inductive StampOp where
  | clear
  | set (tag : Nat)
  | keep
  deriving DecidableEq, Repr

/-- One bank write: for each of the sixteen words, its new value and poison, or nothing (R126). Written words get valid
check bits, or the armed injection's (R143); pending corrections of written words are dropped (R139) [DESIGN CHOICE, log entry 35]. -/
def State.bankWrite (s : State) (c sp r : Nat) (ws : List (Option (Nat × Bool))) (st : StampOp) : State :=
  let inj := s.fbit SP_ECC_INJECT_ARM c && s.fget SP_ECC_INJECT_SPACE c == spIx sp
  let x := if inj then s.fget SP_ECC_INJECT_CHECK_XOR c else 0
  let s := if inj then s.fset SP_ECC_INJECT_ARM 0 c else s
  let s := (List.range 16).foldl (fun s i =>
    match ws.getD i none with
    | none => s
    | some (v, p) =>
      let a := rowAddr c sp r + 8 * i
      let s := (s.writeLE a 8 v).setPoison a p
      let s := { s with checkFlips := if x = 0 then AMap.del s.checkFlips a else AMap.set s.checkFlips a x }
      s.modCore c (fun k => { k with corrections := modAt k.corrections (spIx sp) (·.filter (fun e => e.addr != a)) })) s
  match st with
  | .keep => s
  | .clear => { s with stamps := AMap.del s.stamps (rowAddr c sp r) }
  | .set t => { s with stamps := AMap.set s.stamps (rowAddr c sp r) t }

/-- The class U fault of a descriptor whose write was discarded, which completes CONTAINED_FAULT (R150). The source's pair that already
reports for the descriptor goes on reporting [DEDUCED, log entry 46]. -/
def State.discardFault (s : State) (c : Nat) (r : DescRef) : State :=
  let on := s.fcu.reports.any (fun x => x.source == coreSrc c 0x15 && x.ref == some r)
  (if on then s else s.reportFor r (coreSrc c 0x15) clsU).modFlight r (fun f =>
    { f with status := worse f.status stContainedFault, discarded := true })

/-- A write discarded because its row is being zeroed (R150): counted, and a class U fault. -/
def State.zeroDiscard (s : State) (c : Nat) (ref : Option DescRef) : State :=
  let s := (s.fadd SP_ZERO_DISCARDS_COUNT 1 c).fset SP_STATUS_ZERO_DISCARD_SEEN 1 c
  match ref with
  | some r => s.discardFault c r
  | none => s.report (coreSrc c 0x15) clsU none 0 (some c)

/-- An engine's write of words to one row on behalf of a descriptor: discarded where the row is being zeroed (R150). -/
def State.rowWrite (s : State) (c sp r : Nat) (ws : List (Option (Nat × Bool))) (st : StampOp) (task : Option Nat)
    (ref : Option DescRef) : State :=
  if s.rowZeroing c sp r task then s.zeroDiscard c ref else s.bankWrite c sp r ws st

/-- Whether an engine other than the mover has a descriptor on a core, so that its bank accesses may meet others'. -/
def State.enginesAtWork (s : State) (c : Nat) : Bool :=
  s.drover.flights.any (fun f => f.core == c && f.pos != 0 && dEngine f.desc != enMOV && (f.stage == .intake || f.stage == .running))

/-- A write of MOV or Packhorse to a bank row: whether it and an engine's read of that row were requested in one ARR cycle is a free bit
where an engine is at work, and such a pair counts (R131) [DESIGN CHOICE, log entry 35]. -/
def State.mayCollide (s : State) (c : Nat) : State :=
  if !s.enginesAtWork c then s
  else
    let x := s.free 1
    if x.1 = 0 then x.2 else (x.2.fadd SP_COLLIDE_COUNT 1 c).fset SP_STATUS_COLLIDE_SEEN 1 c

/-- A run of words (value, poison) from byte offset `b`, a multiple of 8, written row by row [DEDUCED, log entry 45]. -/
def State.spWriteWords (s : State) (c sp b : Nat) (ws : List (Nat × Bool)) (st : StampOp) (task : Option Nat)
    (ref : Option DescRef) : State :=
  let w0 := b / 8
  (List.range ((w0 + ws.length + 15) / 16 - w0 / 16)).foldl (fun s k =>
    let r := w0 / 16 + k
    s.rowWrite c sp r ((List.range 16).map (fun i => if 16 * r + i < w0 then none else ws[16 * r + i - w0]?)) st task ref) s

/-- Bytes grouped into eight-byte words, all with one poison mark. -/
def wordsOf (p : Bool) : List Byte → Nat → List (Nat × Bool)
  | _, 0 => []
  | bs, n + 1 => (leVal (bs.take 8), p) :: wordsOf p (bs.drop 8) n

/-- Whole words of bytes with one poison mark. -/
def toWords (bs : List Byte) (p : Bool) : List (Nat × Bool) := wordsOf p bs ((bs.length + 7) / 8)

/-! ### Packhorse (R133 to R137) -/

/-- Entry of Packhorse for a row address. -/
def State.phEntry? (s : State) (c row : Nat) : Option PhEntry := (s.coreAt c).packhorse.find? (fun e => e.row == row)

/-- Removes the entry of a row. -/
def State.phRemove (s : State) (c row : Nat) : State :=
  s.modCore c (fun k => { k with packhorse := k.packhorse.filter (fun e => e.row != row) })

/-- Valid bytes of word `i` of an entry, as an 8-bit mask [DEDUCED, log entry 45]. -/
def PhEntry.wordMask (e : PhEntry) (i : Nat) : Nat := bits e.mask (8 * i) 8

/-- An entry is discarded because its row is being zeroed for another task (R150): one discard, a fault of each descriptor whose writes it
holds. -/
def State.phDiscard (s : State) (c : Nat) (e : PhEntry) : State :=
  match e.refs with
  | [] => s.zeroDiscard c none
  | r :: rs => rs.foldl (fun s r => s.discardFault c r) (s.zeroDiscard c (some r))

/-- How often Packhorse repeats a read-modify-write because a write of a higher rank reached the row in between: a free value where an
engine is at work (R136) [DESIGN CHOICE, log entry 35]. -/
def State.phRetries (s : State) (c : Nat) : State :=
  if !s.enginesAtWork c then s
  else
    let x := s.free 16
    x.2.fadd SP_PH_COUNTS_RETRY x.1 c

/-- Drains an entry to its bank (R136): whole row, word mask, or read-modify-write of the touched words. -/
def State.phDrain (s : State) (c : Nat) (e : PhEntry) : State :=
  let o := spOf e.row
  let sp := o.2.1
  let r := o.2.2 / 128
  let full := e.mask == 2 ^ 128 - 1
  let whole := (List.range 16).all (fun i => e.wordMask i == 0 || e.wordMask i == 255)
  let s := s.phRemove c e.row
  if s.rowZeroing c sp r e.task then s.phDiscard c e
  else
    let s := if full || whole then s else (s.eccRead c sp (128 * r) 128 e.refs.head?).phRetries c
    let ws := (List.range 16).map (fun i =>
      if e.wordMask i = 0 then none
      else
        let v := leVal ((List.range 8).map (fun j =>
          if bitAt (e.wordMask i) j then e.data.getD (8 * i + j) 0 else s.readByte (e.row + 8 * i + j)))
        some (v, bitAt e.poison i || (e.wordMask i != 255 && s.wordPoison c sp (128 * r + 8 * i) e.task)))
    let s := (s.bankWrite c sp r ws .clear).mayCollide c
    if full then s.fadd SP_PH_COUNTS_FULL 1 c
    else if whole then s.fadd SP_PH_COUNTS_MASKED 1 c
    else s.fadd SP_PH_COUNTS_RMW 1 c

/-- Drains every entry of a core that a test picks. -/
def State.phDrainAll (s : State) (c : Nat) (p : PhEntry → Bool) : State :=
  ((s.coreAt c).packhorse.filter p).foldl (fun s e => s.phDrain c e) s

/-- A narrow write into one row (R134, R135): it merges into the row's entry, which then is its writer's task's, or takes a new entry, the
oldest draining first when all 32 are in use; a full entry drains at once [DEDUCED, log entry 45]. -/
def State.phWriteRow (s : State) (c row off : Nat) (bs : List Byte) (poison : Nat) (task : Option Nat)
    (ref : Option DescRef) : State :=
  let s :=
    match s.phEntry? c row with
    | some _ => s
    | none =>
      match (s.coreAt c).packhorse with
      | e :: es => if 31 ≤ es.length then s.phDrain c e else s
      | [] => s
  let e := (s.phEntry? c row).getD ⟨row, List.replicate 128 0, 0, 0, task, [], 0⟩
  let covered (i : Nat) : Bool := decide (off ≤ 8 * i) && decide (8 * i + 8 ≤ off + bs.length)
  let e := { e with
    data := (List.range 128).map (fun i => if off ≤ i ∧ i < off + bs.length then bs.getD (i - off) 0 else e.data.getD i 0)
    mask := e.mask ||| ((2 ^ bs.length - 1) <<< off)
    poison := (List.range 16).foldl (fun m i =>
      putBits m i 1 (b2n (bitAt poison i || (bitAt e.poison i && !covered i)))) 0
    task := task, refs := ref.elim e.refs (fun r => r :: e.refs.filter (· != r)), stamp := s.arrNow c }
  let s :=
    if (s.phEntry? c row).isSome then
      s.modCore c (fun k => { k with packhorse := k.packhorse.map (fun x => if x.row = row then e else x) })
    else s.modCore c (fun k => { k with packhorse := k.packhorse ++ [e] })
  if e.mask = 2 ^ 128 - 1 then s.phDrain c e else s

/-- The byte that a read through Packhorse finds: the entry's valid byte, else the bank's (R134). -/
def State.phByte (s : State) (c a : Nat) : Byte :=
  match s.phEntry? c (a / 128 * 128) with
  | some e => if bitAt e.mask (a % 128) then e.data.getD (a % 128) 0 else s.readByte a
  | none => s.readByte a

/-- What accesses through Packhorse find (R134): the banks with every entry of the core merged over them. A view to read from, never a
state that is kept. -/
def State.phView (s : State) (c : Nat) : State := s.phDrainAll c (fun _ => true)

/-- Whether a descriptor has issued its last write: it is no longer in progress in its engine. -/
def State.lastWritten (s : State) (r : DescRef) : Bool :=
  !s.drover.flights.any (fun f => f.ref == r && (f.stage == .intake || f.stage == .running))

/-- Whether an entry is to drain: 64 ARR cycles without a write to it, or a descriptor that wrote into it has issued its last write; the
other triggers drain it where they arise (R135). -/
def State.phDue (s : State) (c : Nat) (e : PhEntry) : Bool := decide (e.stamp + 64 ≤ s.arrNow c) || e.refs.any s.lastWritten

/-- PACKHORSE_DRAIN (R135, R136): the entry of the row that starts at an address drains [DESIGN CHOICE, log entry 14]. -/
def execPackhorseDrain (c row : Nat) (s : State) : Result :=
  unit (c < 8) (match s.phEntry? c row with
    | some e => due (s.up && s.phDue c e) s (s.phDrain c e)
    | none => .next s)

/-! ### Correction, scrubbing, injection (R139 to R143) -/

/-- CORRECTION_WRITE_BACK (R139): the oldest queued word of a scratchpad is written, its row's stamp left as it is [DESIGN CHOICE, log entry 14]. -/
def execCorrectionWriteBack (c sp : Nat) (s : State) : Result :=
  unit (c < 8 && 2 ≤ sp && sp ≤ 4) (match (s.coreAt c).corrections.getD (spIx sp) [] with
    | [] => .next s
    | e :: _ =>
      let off := (spOf e.addr).2.2
      let ws := (List.range 16).map (fun i => if i = off % 128 / 8 then some (e.value, e.poison) else none)
      due s.up s (s.bankWrite c sp (off / 128) ws .keep))

/-- Key of a bank in the scrubber's tables. -/
def bankKey (sp bank : Nat) : Nat := 256 * sp + bank

/-- Whether every bank of a core has been read through in this pass (R141). -/
def State.scrubDone (s : State) (c : Nat) : Bool :=
  [spWSP, spASP, spPSP].all (fun sp => (List.range (spBanks sp)).all (fun b =>
    decide (s.spRows c sp ≤ (AMap.get? (s.coreAt c).scrubRow (bankKey sp b)).getD 0)))

/-- A scrub pass ends (R141, R142): counted, its duration kept, all banks start the next pass together. -/
def State.scrubPassEnd (s : State) (c : Nat) : State :=
  let t := s.refTick - (s.coreAt c).scrubStart
  let s := (s.fadd SP_SCRUB_PASSES_COUNT 1 c).fset SP_SCRUB_PASS_NS_PASS_NS (min (8 * t) 0xFFFF_FFFF) c
  let s := if msTicks 50 < t then s.fset SP_STATUS_SCRUB_LATE 1 c else s
  s.modCore c (fun k => { k with scrubRow := [], scrubStart := s.refTick })

/-- Whether the scrubber may read a bank now: ENABLE, INTERVAL_ARRC passed, rows of this pass left (R141). -/
def State.scrubDue (s : State) (c sp bank : Nat) : Bool :=
  s.fbit SP_SCRUB_CTRL_ENABLE c &&
  decide ((AMap.get? (s.coreAt c).scrubRow (bankKey sp bank)).getD 0 < s.spRows c sp) &&
  (match AMap.get? (s.coreAt c).scrubTick (bankKey sp bank) with
   | none => true
   | some t => decide (t + s.fget SP_SCRUB_CTRL_INTERVAL_ARRC c ≤ s.arrNow c))

/-- SCRUB_READ (R141): the scrubber reads and checks the bank's next row. -/
def execScrubRead (c sp bank : Nat) (s : State) : Result :=
  let row := (AMap.get? (s.coreAt c).scrubRow (bankKey sp bank)).getD 0
  let t := s.eccRead c sp (128 * (row * spBanks sp + bank)) 128 none
  let t := t.modCore c (fun k => { k with
    scrubRow := AMap.set k.scrubRow (bankKey sp bank) (row + 1)
    scrubTick := AMap.set k.scrubTick (bankKey sp bank) (s.arrNow c) })
  let t := if t.scrubDone c then t.scrubPassEnd c else t
  unit (c < 8 && 2 ≤ sp && sp ≤ 4 && bank < spBanks sp) (due (s.coreWorks c && s.scrubDue c sp bank) s t)

/-- A write of SP_ECC_INJECT (R143). -/
def eccInjectEffect (c v : Nat) (s : State) : State × Nat := (s.rset SP_ECC_INJECT (BitVec.ofNat 64 (v % 2 ^ 11)) c, stOK)

/-- ECC_INJECT_ARM (R143). -/
def execEccInjectArm (src c v : Nat) (s : State) : Result :=
  regCmd (c < 8) s src (regAddr SP_ECC_INJECT c) 4 (wrap 32 v) (eccInjectEffect c (wrap 32 v))

/-! ### Release and zeroing (R148 to R150) -/

/-- Whether a descriptor of task `n` is still in an engine of core `c`, where it stays until it completes (R146). -/
def State.taskBusy (s : State) (c n : Nat) : Bool :=
  s.drover.flights.any (fun f => f.core == c && f.pos != 0 && f.latch.task == n && f.latch.base != [] &&
    (f.stage == .intake || f.stage == .running || f.stage == .moved || f.stage == .ended))

/-- A write of CORE_TASK_RELEASE: a release of a task whose ENABLE is 0 does nothing. -/
def taskReleaseEffect (c mask : Nat) (s : State) : State × Nat :=
  (s.modCore c (fun k => { k with release := k.release ++
      (whichBelow 16 (fun n => bitAt mask n && s.fbit CORE_TASKn_BOUND_ENABLE c n && !k.release.contains n)) }), stOK)

/-- TASK_RELEASE (R148). -/
def execTaskRelease (src c mask : Nat) (s : State) : Result :=
  regCmd (c < 8) s src (regAddr CORE_TASK_RELEASE c) 4 (wrap 32 mask) (taskReleaseEffect c (wrap 16 mask))

/-- A task is to be zeroed because its caravan was killed or flushed, whatever its ENABLE (R148, R299). -/
def State.killZero (s : State) (c n : Nat) : State :=
  s.modCore c (fun k => { k with release := if k.release.contains n then k.release else k.release ++ [n] })

/-- Zeroing of a task begins (R148): ENABLE cleared, regions latched, Packhorse entries within them discarded. -/
def State.zeroBegin (s : State) (c n : Nat) : State :=
  let l := s.taskLatch c n
  let z : ZeroTask := { task := n, lo := l.base, hi := [spWSP, spASP, spPSP].map (fun sp => min (l.bound.getD (spIx sp) 0) (s.spRowCount c sp)) }
  let s := s.fset CORE_TASKn_BOUND_ENABLE 0 c n
  let s := s.fset CORE_TASK_ZEROING_ZEROING (putBits (s.fget CORE_TASK_ZEROING_ZEROING c) n 1 1) c
  let gone := (s.coreAt c).packhorse.filter (fun e =>
    let o := spOf e.row
    decide (z.lo.getD (spIx o.2.1) 0 ≤ o.2.2 / 128) && decide (o.2.2 / 128 < z.hi.getD (spIx o.2.1) 0))
  let s := s.modCore c (fun k => { k with
    zeroing := k.zeroing ++ [z]
    release := k.release.filter (· != n)
    packhorse := k.packhorse.filter (fun e => !gone.contains e) })
  gone.foldl (fun s e => if e.task = some n then s else s.phDiscard c e) s

/-- ZEROING_BEGIN (R148): once no descriptor of the task remains in an engine of the core. -/
def execZeroingBegin (c n : Nat) (s : State) : Result :=
  unit (c < 8 && n < 16) (due (s.up && !s.coreDown c && (s.coreAt c).release.contains n && !s.taskBusy c n &&
    !(s.coreAt c).zeroing.any (fun z => z.task == n)) s (s.zeroBegin c n))

/-- Zeroes the rows `lo` to `hi - 1` of a scratchpad: data, poison marks, check bits and stamps (R149); corrections that wait for a word of
them are dropped (R139). A zeroing write is not the write that an armed SP_ECC_INJECT waits for [DESIGN CHOICE, log entry 81]. -/
def State.zeroRows (s : State) (c sp lo hi : Nat) : State :=
  let a := rowAddr c sp lo
  let b := rowAddr c sp hi
  if hi ≤ lo then s
  else
    let s := s.modCore c (fun k => { k with
      corrections := modAt k.corrections (spIx sp) (·.filter (fun e => !(decide (a ≤ e.addr) && decide (e.addr < b)))) })
    { s with
    mem := s.mem.filter (fun e => !(decide (a ≤ e.1) && decide (e.1 < b)))
    poison := s.poison.filter (fun e => !(decide (a ≤ e) && decide (e < b)))
    checkFlips := s.checkFlips.filter (fun e => !(decide (a ≤ e.1) && decide (e.1 < b)))
    stamps := s.stamps.filter (fun e => !(decide (a ≤ e.1) && decide (e.1 < b))) }

/-- ZEROING_COMPLETE (R149): every row of the three latched regions is zero, and the task's ZEROING bit clears
[DESIGN CHOICE, log entry 14; DEDUCED, log entry 46]. -/
def execZeroingComplete (c n : Nat) (s : State) : Result :=
  unit (c < 8 && n < 16) (match (s.coreAt c).zeroing.find? (fun z => z.task == n) with
    | none => .next s
    | some z =>
      let t := [spWSP, spASP, spPSP].foldl (fun t sp => t.zeroRows c sp (z.lo.getD (spIx sp) 0) (z.hi.getD (spIx sp) 0)) s
      let t := t.fset CORE_TASK_ZEROING_ZEROING (putBits (s.fget CORE_TASK_ZEROING_ZEROING c) n 1 0) c
      due (s.up && !s.coreDown c) s (t.modCore c (fun k => { k with zeroing := k.zeroing.filter (fun x => x.task != n) })))

/-! ### The debug window (R152, R153) -/

/-- What an offset of a debug window holds (R152). -/
inductive WindowPart where
  | data (sp byte : Nat)
  | stamps (sp row : Nat)
  | poison (sp byte : Nat)
  | nothing
  deriving DecidableEq, Repr

/-- The part of core `c`'s window that an access of `n` bytes at offset `o` lies in. -/
def State.windowPart (s : State) (c o n : Nat) : WindowPart :=
  let within (base sp size : Nat) : Bool := decide (base ≤ o) && decide (o + n ≤ base + size * s.spRowCount c sp)
  if within 0 spWSP 128 then .data spWSP o
  else if within 0x100_0000 spASP 128 then .data spASP (o - 0x100_0000)
  else if within 0x200_0000 spPSP 128 then .data spPSP (o - 0x200_0000)
  else if within 0x300_0000 spWSP 1 then .stamps spWSP (o - 0x300_0000)
  else if within 0x301_0000 spASP 1 then .stamps spASP (o - 0x301_0000)
  else if within 0x302_0000 spPSP 1 then .stamps spPSP (o - 0x302_0000)
  else if within 0x380_0000 spWSP 2 then .poison spWSP (o - 0x380_0000)
  else if within 0x382_0000 spASP 2 then .poison spASP (o - 0x382_0000)
  else if within 0x384_0000 spPSP 2 then .poison spPSP (o - 0x384_0000)
  else .nothing

/-- The stamp view's byte of a row. -/
def State.stampByte (s : State) (c sp r : Nat) : Nat :=
  match AMap.get? s.stamps (rowAddr c sp r) with
  | some t => t % 16 + 16
  | none => 0

/-- Byte `b` of the poison view of a scratchpad. -/
def State.poisonByte (s : State) (c sp b : Nat) : Nat :=
  (List.range 8).foldl (fun m i =>
    putBits m i 1 (b2n (s.poisoned (rowAddr c sp (b / 2) + 8 * (8 * (b % 2) + i))))) 0

/-- A read of a debug window: status and value. The stamp and poison views of rows being zeroed answer what the rows held before, until
zeroing completes [DEDUCED, log entry 27; DESIGN CHOICE, log entry 81]. -/
def State.windowRead (s : State) (c o n : Nat) : State × Nat × Nat :=
  match s.windowPart c o n with
  | .nothing => (s, stBusError, 0)
  | .data sp b =>
    if s.rowZeroing c sp (b / 128) none then (s, stZeroing, 0)
    else
      let bad := s.eccUncorrectable c sp b n
      let t := s.eccRead c sp b n none
      if bad then (t, stBusError, 0)
      else (t, stOK, leVal ((List.range n).map (fun i => s.phByte c (spAddr c sp (b + i)))))
  | .stamps sp r => (s, stOK, (List.range n).foldl (fun v i => v + s.stampByte c sp (r + i) * 256 ^ i) 0)
  | .poison sp b => (s, stOK, (List.range n).foldl (fun v i => v + s.poisonByte c sp (b + i) * 256 ^ i) 0)

/-- A write of a debug window: merged in Packhorse and drained at once (R135, R153). -/
def State.windowWrite (s : State) (c o n v : Nat) : State × Nat :=
  match s.windowPart c o n with
  | .data sp b =>
    if s.rowZeroing c sp (b / 128) none then (s, stZeroing)
    else
      let row := rowAddr c sp (b / 128)
      let t := s.phWriteRow c row (b % 128) (leBytes n v) 0 none none
      (t.phDrainAll c (fun e => e.row == row), stOK)
  | _ => (s, stBusError)

/-- A write of core `c`'s debug window at offset `o`: a write answers no data. -/
def State.windowPut (s : State) (c o w v : Nat) : State × Nat × Nat :=
  let r := s.windowWrite c o w v
  (r.1, r.2, 0)

/-- The hub link that reaches a core (R15). -/
def coreLink (c : Nat) : Nat := c / 4

/-- An access of a debug window at an absolute address: natural alignment and width 1, 2, 4 or 8 (R153), BUS_ERROR while the core's
recovery holds it (R443). It crosses the core's hub link (R15, R21). -/
def State.windowAccess (s : State) (a : Access) : State × Nat × Nat :=
  let c := (a.addr - windowBase) / 0x400_0000
  let o := (a.addr - windowBase) % 0x400_0000
  if !([1, 2, 4, 8].contains a.width) || a.addr % a.width != 0 || 8 ≤ c || s.coreDown c then (s, stBusError, 0)
  else if a.write then (s.linkTx (coreLink c) a.width).windowPut c o a.width (wrap (8 * a.width) a.value)
  else (s.linkRx (coreLink c) a.width).windowRead c o a.width

/-! ### Accesses of memory by a path (R471, R477) -/

/-- The control-core memory at an address: the fault source of its words. -/
def ccMemory (a n : Nat) : Option Nat :=
  if ccBase ≤ a ∧ a < ccBase + 0x80_0000 ∧ (a - ccBase) % 0x10_0000 + n ≤ 0x4_0000 then some (0x038 + (a - ccBase) / 0x10_0000)
  else if sharedBase ≤ a ∧ a + n ≤ sharedBase + 0x20_0000 then some 0x040
  else none

/-- An access of DRAM or of a control-core memory [DEDUCED, log entry 75]. -/
def State.memAccess (s : State) (a : Access) : State × Nat × Nat :=
  let n := a.width
  let v := a.value % 2 ^ (8 * n)
  if !([1, 2, 4, 8].contains n) || a.addr % n != 0 then (s, stBusError, 0)
  else if a.addr < dramEnd then
    if s.dieDown (hubLinkOf a.addr) then (s, stBusError, 0)
    else if a.write then (s.hubWrite a.addr (leBytes n v), stOK, 0)
    else (s.hubRead a.addr n, stOK, s.readLE a.addr n)
  else
    match ccMemory a.addr n with
    | none => (s, stBusError, 0)
    | some source =>
      if a.write then (s.writeLE a.addr n v, stOK, 0) else ((s.injectCheck source clsU none 0 none).1, stOK, s.readLE a.addr n)

/-- Whether an address lies in a scratchpad debug window. -/
def inWindow (a : Nat) : Bool := windowBase ≤ a && a < windowBase + 0x2000_0000

/-- An access of a memory by path `src`: a refusal is captured (R478), and the result is the path's. -/
def State.memorySide (s : State) (src : Nat) (a : Access) : State × Nat × Nat :=
  let r := if inWindow a.addr then s.windowAccess a else s.memAccess a
  ({ r.1.busError src a.addr r.2.1 a.write with lastAccess := ⟨r.2.1, r.2.2⟩ }, r.2)

/-- Whether an access is a transaction of a ration class: one of DRAM, or through a hub link into a scratchpad, of a width and alignment
that is accessed at all (R278, R477). -/
def isTx (a : Access) : Bool := [1, 2, 4, 8].contains a.width && a.addr % a.width == 0 && (decide (a.addr < dramEnd) || inWindow a.addr)

/-- The ration class of a path's memory accesses: 14 for HMP, 15 for control cores, none for the others (R277) [DEDUCED, log entry 48]. -/
def pathClass (src : Nat) : Option Nat := if src ≤ 2 then some 14 else if 8 ≤ src then some 15 else none

/-- A memory access of a path that no message carries: its transaction is charged to the path's class, and waits where that is spent
(R277, R278, R280). -/
def State.memoryCommand (s : State) (src : Nat) (a : Access) : State :=
  match pathClass src with
  | some c => s.chargeFor c (b2n (isTx a)) (.access src a) (fun s => (s.memorySide src a).1)
  | none => (s.memorySide src a).1

/-- SCRATCHPAD_WINDOW_ACCESS (R153): not journalled (R483). -/
def execScratchpadWindowAccess (src : Nat) (a : Access) (s : State) : Result :=
  unit (isSource src && inWindow a.addr) (due s.up s (s.memoryCommand src a))

end Sys2Proof.Machine
end

