-- ==== Sys2Proof/Machine/WeightCache.lean ====
section
/-! DEFINITION. The weight caches of the compute dies (R273 to R276, R287). -/

namespace Sys2Proof.Machine

/-- One line lookup: the set with its ways in order of use, and the counter to add to. A hit moves its line to the front; a
miss allocates, evicting the least recently used of sixteen ways (R273, R274). -/
def wcAccess (ways : List Nat) (line : Nat) : List Nat × Bool × Bool :=
  if ways.contains line then (line :: ways.filter (· != line), true, false)
  else if ways.length < 16 then (line :: ways, false, false)
  else (line :: ways.take 15, false, true)

/-- Whether the cache of CDk serves reads now (R275). -/
def State.wcServes (s : State) (k : Nat) : Bool :=
  s.fbit SYS_WCk_CTRL_ENABLE k && !s.fbit SYS_WCk_CTRL_INVALIDATING k

/-- Number of a line of BDk among the lines of both dies. -/
def wcLine (k line : Nat) : Nat := k * (dram0End / 128) + line

/-- Whether a mover's descriptor began the fill of a line and nothing has seen it done. -/
def State.filling (s : State) (x : Nat) : Bool := s.cores.any (fun k => k.fills.contains x)

/-- The fill of a line is seen done. -/
def State.fillDone (s : State) (x : Nat) : State := { s with cores := s.cores.map (fun k => { k with fills := k.fills.filter (· != x) }) }

/-- A lookup of one line of BDk by core `c`, with its counters, and the check an armed injection feeds on a hit (R276, R510). A line whose
fill may still be under way merges or hits, a free bit says which (R274). Answered with whether the line is read from DRAM
[DEDUCED, log entry 24]. -/
def State.wcLookup (s : State) (c k line : Nat) : State × Bool :=
  let sets := s.wc.getD k []
  let r := wcAccess ((AMap.get? sets (line % 16384)).getD []) line
  let s := { s with wc := s.wc.set k (AMap.set sets (line % 16384) r.1) }
  let s := s.fadd SYS_WCk_LOOKUPS_COUNT 1 k
  let x := wcLine k line
  if r.2.1 then
    let m := if s.filling x then s.free 1 else (0, s)
    if m.1 ≠ 0 then (m.2.fadd SYS_WCk_MERGED_COUNT 1 k, false)
    else
      let s := (m.2.fillDone x).fadd SYS_WCk_HITS_COUNT 1 k
      let two := s.fget FCU_INJECT_FLIPS == 2
      let q := s.injectCheck (dieSrc k 2) clsC none 0 none
      if q.2 = 0 then (q.1, false)
      else
        let s := q.1.fset SYS_WCk_CTRL_ECC_SEEN 1 k
        if two then
          (({ s with wc := s.wc.set k (wcDropLine (s.wc.getD k []) line).1 }).fadd SYS_WCk_ECC_REFETCH_COUNT 1 k, true)
        else (s.fadd SYS_WCk_ECC_CORR_COUNT 1 k, false)
  else
    let s := s.fadd SYS_WCk_MISSES_COUNT 1 k
    let s := if r.2.2 then s.fadd SYS_WCk_EVICTIONS_COUNT 1 k else s
    ((s.fillDone x).modCore c (fun k => { k with fills := k.fills ++ [x] }), true)

/-- A weight read of `n` bytes from DRAM address `a` by core `c`: every line it touches is looked up (R274). Answered with the lines that
are read from DRAM. -/
def State.wcRead (s : State) (c a n : Nat) : State × List Nat :=
  let k := if a < dram0End then 0 else 1
  if n = 0 then (s, [])
  else if !s.wcServes k then (s, [a / 128])
  else
    let off := a - k * dram0End
    (List.range ((off + n - 1) / 128 - off / 128 + 1)).foldl (fun (q : State × List Nat) i =>
      let r := q.1.wcLookup c k (off / 128 + i)
      (r.1, if r.2 then q.2 ++ [wcLine k (off / 128 + i)] else q.2)) (s, [])

/-- Lines now held by a cache. -/
def State.wcLines (s : State) (k : Nat) : Nat := ((s.wc.getD k []).map (fun e => e.2.length)).sum

/-- A write of SYS_WCk_CTRL: INVALIDATE, or clearing ENABLE, starts the invalidation of every line (R275). -/
def wcCtrlEffect (k v : Nat) (s : State) : State × Nat :=
  let clearing := s.fbit SYS_WCk_CTRL_ENABLE k && !bitAt v 0
  let s := s.fset SYS_WCk_CTRL_ENABLE (bits v 0 1) k
  let s := if bitAt v 3 then s.fset SYS_WCk_CTRL_ECC_SEEN 0 k else s
  (if bitAt v 1 || clearing then s.fset SYS_WCk_CTRL_INVALIDATING 1 k else s, stOK)

/-- WC_INVALIDATE (R275). -/
def execWcInvalidate (src k v : Nat) (s : State) : Result :=
  regCmd (k < 2) s src (regAddr SYS_WCk_CTRL k) 4 (wrap 32 v) (wcCtrlEffect k (wrap 32 v))

/-- Every line of a cache goes (R275, R443). -/
def State.wcClear (s : State) (k : Nat) : State :=
  let s := s.fadd SYS_WCk_INVALIDATIONS_COUNT (s.wcLines k) k
  { s with wc := s.wc.set k [] }

/-- WC_INVALIDATE_DONE (R275): every line is gone and INVALIDATING clears. -/
def execWcInvalidateDone (k : Nat) (s : State) : Result :=
  unit (k < 2) (due (s.works && s.fbit SYS_WCk_CTRL_INVALIDATING k) s ((s.wcClear k).fset SYS_WCk_CTRL_INVALIDATING 0 k))

end Sys2Proof.Machine
end

