-- ==== Sys2Proof/Machine/Mover.lean ====
section
/-! DEFINITION. The movers: block lists, runs, poison carried across, and waystation entries taken and put (R255 to R271). -/

namespace Sys2Proof.Machine

/-! ### Field block of MOV_STREAM (R230) and block list entries (R256) -/

def mvList (d : Nat) : Nat := dbytes d 16 4
def mvBlocks (d : Nat) : Nat := dbits d 20 0 9
def mvWayIn (d : Nat) : Nat := dbytes d 24 4
def mvWayOut (d : Nat) : Nat := dbytes d 28 4

/-- A block list entry (R256). -/
structure Block where
  src : Nat
  dst : Nat
  len : Nat
  weight : Bool
  fromWay : Bool
  toWay : Bool
  n1 : Nat
  n2 : Nat
  n3 : Nat
  srcS : List Int
  dstS : List Int
  badBits : Bool
  deriving DecidableEq, Repr

/-- Reads an entry from its 64 bytes. -/
def blockOf (d : Nat) : Block :=
  { src := dbytes d 0 4, dst := dbytes d 4 4, len := dbits d 8 0 21
    weight := dbits d 12 0 1 == 1, fromWay := dbits d 12 1 1 == 1, toWay := dbits d 12 2 1 == 1
    n1 := dbytes d 16 2, n2 := dbytes d 18 2, n3 := dbytes d 20 2
    srcS := [sext 32 (dbytes d 24 4), sext 32 (dbytes d 28 4), sext 32 (dbytes d 32 4)]
    dstS := [sext 32 (dbytes d 36 4), sext 32 (dbytes d 40 4), sext 32 (dbytes d 44 4)]
    badBits := dbits d 8 21 11 != 0 || dbits d 12 3 5 != 0 || dbytes d 13 3 != 0 || dbytes d 22 2 != 0 || dbytes d 48 16 != 0 }

/-- Spaces a mover reads and writes: DRAM0, DRAM1, WSP, ASP, PSP. -/
def isDataSpace (sp : Nat) : Bool := sp ≤ 4

/-- Whether R258 makes an entry malformed. -/
def blockBad (wayIn : Nat) (b : Block) : Bool :=
  b.badBits || b.len == 0 || 1048576 < b.len || b.n1 == 0 || b.n2 == 0 || b.n3 == 0 ||
  ((b.fromWay || b.toWay) && wayIn == 0) ||
  (!b.fromWay && (!isDataSpace (handleSpace b.src) || (b.weight && 2 ≤ handleSpace b.src))) ||
  (!b.toWay && !isDataSpace (handleSpace b.dst))

/-- Whether a WAY_IN or WAY_OUT field is neither 0 nor a handle of a KIND 2 queue (R258). -/
def State.wayFieldBad (s : State) (h : Nat) : Bool :=
  h != 0 && !(handleSpace h == spWay && bits h 16 13 == 0 && s.qKind (bits h 0 16) == 2)

/-- The waystation a WAY handle names. -/
def wayNum (h : Nat) : Nat := bits h 0 16

/-! ### Addresses of runs (R257, R259) -/

/-- What stops a descriptor on its way: the status and the source of its fault. -/
structure Stop where
  status : Nat
  source : Nat
  deriving DecidableEq, Repr

/-- Space and index a block's side starts from, with the taken entry's handle under FROM_WAY or TO_WAY (R268). -/
def blockSide (h : Nat) (way : Bool) (entry : Option WayEntry) : Nat × Nat :=
  match way, entry with
  | true, some e => (handleSpace e.handle, handleIndex e.handle + handleIndex h)
  | _, _ => (handleSpace h, handleIndex h)

/-- Run `i` of a block as its three indices, i1 fastest (R257). -/
def runIndex (b : Block) (i : Nat) : Nat × Nat × Nat := (i % b.n1, i / b.n1 % b.n2, i / (b.n1 * b.n2))

/-- Granule index of a run on one side. -/
def runGranule (base : Nat) (st : List Int) (ix : Nat × Nat × Nat) : Int :=
  base + ix.1 * st.getD 0 0 + ix.2.1 * st.getD 1 0 + ix.2.2 * st.getD 2 0

/-- Whether a run's side lies within the task's bounds; DRAM is not checked here (R145, R259). -/
def State.sideBounded (s : State) (c : Nat) (t : TaskLatch) (sp : Nat) (g : Int) (n : Nat) : Bool :=
  sp ≤ 1 || (0 ≤ g && s.inBounds c t sp (t.byteOf sp g.toNat) n)

/-- Whether a run's DRAM side stays on its die (R259). -/
def dieHolds (sp : Nat) (g : Int) (n : Nat) : Bool :=
  2 ≤ sp || (0 ≤ g && g < 2 ^ 29 && decide (32 * g.toNat + n ≤ dram0End))

/-- Absolute address of a run's side. -/
def sideAddr (c : Nat) (t : TaskLatch) (sp : Nat) (g : Int) : Nat :=
  if sp ≤ 1 then sp * dram0End + 32 * g.toNat else spAddr c sp (t.byteOf sp g.toNat)

/-! ### Data of one run (R260, R261, R263) -/

/-- Runs in progress: the state, what granules that earlier runs of the descriptor wrote held before, whether poison was met, whether the
next run's transactions have been charged, and read requests made. -/
structure MovRun where
  s : State
  before : List (Nat × List (Byte × Bool))
  poison : Bool
  charged : Bool
  reads : Nat

/-- The bytes from `lo` up to `hi` of one granule as a run finds them, each with its poison: whole rows of a scratchpad from the bank,
pieces of rows through Packhorse (R133, R134, R140, R261). `a` and `n` are the run's side. -/
def movCells (s : State) (c : Nat) (t : TaskLatch) (sp a n lo hi : Nat) : List (Byte × Bool) :=
  let view := if sp ≤ 1 then s else s.phView c
  (List.range (hi - lo)).map (fun i =>
    let x := lo + i
    if sp ≤ 1 then (s.readByte x, s.poisoned (x / 32 * 32))
    else
      let m := if a ≤ x / 128 * 128 ∧ x / 128 * 128 + 128 ≤ a + n then s else view
      (m.spByte c sp (spOf x).2.2 (some t.task), m.wordPoison c sp (spOf x).2.2 (some t.task)))

/-- The bytes a run reads. A granule that an earlier run of the descriptor wrote is read wholly from before or wholly from after the
write: which of the two is a free value (R260) [DESIGN CHOICE, log entry 23]. -/
def movRead (r : MovRun) (c : Nat) (t : TaskLatch) (sp a n : Nat) : State × List (Byte × Bool) :=
  (granulesOf a n).foldl (fun (q : State × List (Byte × Bool)) g =>
    let lo := max a g
    let hi := min (a + n) (g + 32)
    match AMap.get? r.before g with
    | none => (q.1, q.2 ++ movCells r.s c t sp a n lo hi)
    | some old =>
      let draw := q.1.free 1
      (draw.2, q.2 ++ (if draw.1 = 0 then slice old (lo - g) (hi - lo) else movCells r.s c t sp a n lo hi))) (r.s, [])

/-- What the granules a run is about to write hold, for those that no earlier run wrote [DESIGN CHOICE, log entry 23]. -/
def movBefore (r : MovRun) (c : Nat) (t : TaskLatch) (sp b n : Nat) : List (Nat × List (Byte × Bool)) :=
  (granulesOf b n).foldl (fun m g =>
    if (AMap.get? m g).isSome then m else AMap.set m g (movCells r.s c t sp g 32 g (g + 32))) r.before

/-- Poison of the words of a row piece: word i of the row is poisoned if any byte written to it is. -/
def piecePoison (off : Nat) (p : List Bool) : Nat :=
  (List.range 16).foldl (fun m i =>
    putBits m i 1 (b2n ((List.range 8).any (fun j => decide (off ≤ 8 * i + j) && p.getD (8 * i + j - off) false)))) 0

/-- Drains the Packhorse entry of a row if it holds writes of the descriptor that now writes the whole row: its writes reach the row in
issue order (R260) [DEDUCED, log entry 45]. -/
def State.phBefore (s : State) (c row : Nat) (ref : Option DescRef) : State :=
  match s.phEntry? c row with
  | some e => if ref.elim false (fun r => e.refs.contains r) then s.phDrain c e else s
  | none => s

/-- Writes bytes with poison into a scratchpad for a mover or ROI: whole aligned rows to the bank, other pieces through
Packhorse (R133) [DEDUCED, log entry 45]. -/
def State.narrowWrite (s : State) (c sp b : Nat) (bs : List (Byte × Bool)) (task : Option Nat) (ref : Option DescRef) :
    State :=
  if bs = [] then s
  else
    (List.range ((b + bs.length - 1) / 128 - b / 128 + 1)).foldl (fun s k =>
      let r := b / 128 + k
      let lo := max b (128 * r)
      let hi := min (b + bs.length) (128 * r + 128)
      let piece := slice bs (lo - b) (hi - lo)
      let p := piecePoison (lo - 128 * r) (piece.map (·.2))
      if hi - lo = 128 then
        (s.phBefore c (rowAddr c sp r) ref).rowWrite c sp r ((List.range 16).map (fun i => some (leVal ((slice piece (8 * i) 8).map (·.1)), bitAt p i)))
          .clear task ref
      else s.phWriteRow c (rowAddr c sp r) (lo - 128 * r) (piece.map (·.1)) p task ref) s

/-- Writes bytes with poison to DRAM: a granule is marked when a poisoned byte is written to it, and unmarked when it is
wholly covered by unpoisoned ones (R261). -/
def State.dramWritePoison (s : State) (a : Nat) (bs : List (Byte × Bool)) : State :=
  s.dramWriteMarked a (bs.map (·.1)) ((granulesOf a bs.length).filter (fun g =>
    (List.range 32).any (fun j => decide (a ≤ g + j) && (bs.getD (g + j - a) (0, false)).2)))

/-- Counts the bytes a core's DRAM access sends over the cross link, by direction (R15, R21). -/
def State.crossLink (s : State) (c a n : Nat) (write : Bool) : State :=
  let die := if a < dram0End then 0 else 1
  if c / 4 = die then s
  else if (c / 4 = 0) = write then s.linkTx 2 n else s.linkRx 2 n

/-- Transactions of one run (R263, R278): those of its DRAM sides. -/
def runTx (ssp a dsp b n : Nat) : Nat := (if ssp ≤ 1 then txCount a n else 0) + (if dsp ≤ 1 then txCount b n else 0)

/-- What a run reads from DRAM, with error checks and weight-cache lookups (R15, R138, R274): the state, and the byte of the run at which an
injected uncorrectable error poisons it (R510), none without one. -/
def movChecks (c : Nat) (ref : DescRef) (weight : Bool) (ssp a n : Nat) (s : State) : State × Option Nat :=
  if 2 ≤ ssp then (s.eccRead c ssp (spOf a).2.2 n (some ref), none)
  else
    let id := (s.flight? ref).elim 0 s.caravanId
    let w := if weight then s.wcRead c a n else (s, [a / 128])
    let s := w.1.crossLink c a n false
    match w.2 with
    | [] => (s, none)
    | l :: _ =>
      let q := s.injectCheck (dieSrc (if a < dram0End then 0 else 1) 0) clsU (some ref) id (some c)
      (q.1, if q.2 = clsU then some (max a (128 * l) - a) else none)

/-- Whole bank rows that a mover writes may meet engines' reads of them (R131). -/
def State.movCollide (s : State) (c sp o n : Nat) (task : Option Nat) : State :=
  ((List.range ((o + n) / 128 - (o + 127) / 128)).filter (fun i => !s.rowZeroing c sp ((o + 127) / 128 + i) task)).foldl
    (fun s _ => s.mayCollide c) s

/-- One run whose transactions have been issued (R257): the checked read, then the write. -/
def movRun (c : Nat) (t : TaskLatch) (ref : DescRef) (weight : Bool) (ssp a dsp b n : Nat) (r : MovRun) : MovRun :=
  let q := movChecks c ref weight ssp a n r.s
  let d := movRead { r with s := q.1 } c t ssp a n
  let s := d.1
  let data := q.2.elim d.2 (fun i => d.2.set i ((d.2.getD i (0, false)).1, true))
  let before := movBefore { r with s := s } c t dsp b n
  let s :=
    if dsp ≤ 1 then (s.dramWritePoison b data).crossLink c b n true
    else (s.narrowWrite c dsp (spOf b).2.2 data (some t.task) (some ref)).movCollide c dsp (spOf b).2.2 n (some t.task)
  let s := (((s.fadd MOV_READ_B_COUNT n c).fadd MOV_WRITE_B_COUNT n c).fadd MOV_RUNS_COUNT 1 c)
  let p := data.any (·.2)
  ⟨if p then s.fset MOV_STATUS_POISON_SEEN 1 c else s, before, r.poison || p, false, r.reads + if ssp ≤ 1 then txCount a n else 0⟩

/-- How a mover's runs came out: all performed, held by the ration before a block's run (R280), or stopped. -/
inductive MovOut where
  | done
  | held (block run : Nat)
  | stop (st : Stop)
  deriving DecidableEq, Repr

/-- The runs of a block in order, until one leaves its die (R257, R259) or waits for its transactions (R280). -/
def movRuns (c : Nat) (t : TaskLatch) (ref : DescRef) (k : Nat) (b : Block) (ss ds : Nat × Nat) :
    List Nat → MovRun → MovRun × MovOut
  | [], r => (r, .done)
  | i :: is, r =>
    let sg := runGranule ss.2 b.srcS (runIndex b i)
    let dg := runGranule ds.2 b.dstS (runIndex b i)
    if dieHolds ss.1 sg b.len && dieHolds ds.1 dg b.len then
      let x := sideAddr c t ss.1 sg
      let y := sideAddr c t ds.1 dg
      let s := if r.charged then r.s else r.s.chargeTx c (runTx ss.1 x ds.1 y b.len)
      if s.heldTx c ≠ 0 then ({ r with s := s, charged := true }, .held k i)
      else movRuns c t ref k b ss ds is (movRun c t ref b.weight ss.1 x ds.1 y b.len { r with s := s })
    else (r, .stop ⟨stContainedFault, coreSrc c 0x14⟩)

/-- Whether every run of a block lies within the task's bounds (R147, R259). -/
def State.blockBounded (s : State) (c : Nat) (t : TaskLatch) (b : Block) (ss ds : Nat × Nat) : Bool :=
  (List.range (b.n1 * b.n2 * b.n3)).all (fun i =>
    s.sideBounded c t ss.1 (runGranule ss.2 b.srcS (runIndex b i)) b.len &&
    s.sideBounded c t ds.1 (runGranule ds.2 b.dstS (runIndex b i)) b.len)

/-- The blocks of a list in order from number `k`, the first from run `i0`: bounds of each block before its first run, then its runs. An
index sum of R268 at or above 2^29 stops the descriptor under R259. -/
def movBlocks (c : Nat) (t : TaskLatch) (ref : DescRef) (e : Option WayEntry) : Nat → Nat → List Block → MovRun → MovRun × MovOut
  | _, _, [], r => (r, .done)
  | k, i0, b :: bs, r =>
    let ss := blockSide b.src b.fromWay e
    let ds := blockSide b.dst b.toWay e
    if 2 ^ 29 ≤ ss.2 ∨ 2 ^ 29 ≤ ds.2 then (r, .stop ⟨stContainedFault, coreSrc c 0x14⟩)
    else if i0 = 0 && !r.s.blockBounded c t b ss ds then (r, .stop ⟨stBoundViolation, coreSrc c 0x12⟩)
    else
      match movRuns c t ref k b ss ds ((List.range (b.n1 * b.n2 * b.n3)).drop i0) r with
      | (r, .done) => movBlocks c t ref e (k + 1) 0 bs r
      | (r, o) => (r, o)

/-! ### The list (R255, R258) -/

/-- Where the list lies: its space and address; or what stops the descriptor. -/
def movListAt (s : State) (c : Nat) (f : Flight) : Except Stop (Nat × Nat) :=
  let h := mvList f.desc
  let n := 64 * mvBlocks f.desc
  let bad : Stop := ⟨stContainedFault, coreSrc c 0x14⟩
  if dbits f.desc 20 9 7 != 0 || dbytes f.desc 22 2 != 0 || mvBlocks f.desc == 0 || 256 < mvBlocks f.desc then .error bad
  else if handleSpace h ≤ 1 then
    if handleIndex h % 2 = 1 then .error bad else .ok (handleSpace h, dramAddr h)
  else if handleSpace h = spASP then
    let b := f.latch.byteOf spASP (handleIndex h)
    if handleIndex h % 2 = 1 then .error bad
    else if s.inBounds c f.latch spASP b n then .ok (spASP, spAddr c spASP b)
    else .error ⟨stBoundViolation, coreSrc c 0x12⟩
  else .error ⟨stContainedFault, 0x001⟩

/-- The bytes of the list and whether any of them is poisoned: read as a run of a mover is (R133, R134). -/
def movListRead (s : State) (c : Nat) (f : Flight) (w : Nat × Nat) : List Byte × Bool :=
  let n := 64 * mvBlocks f.desc
  let d := movCells s c f.latch w.1 w.2 n w.2 (w.2 + n)
  (d.map (·.1), d.any (·.2))

/-- The entries of a list of bytes, as numbers. -/
def entriesOf : Nat → List Byte → List Nat
  | 0, _ => []
  | n + 1, bs => leVal (bs.take 64) :: entriesOf n (bs.drop 64)

/-- Reads and checks a descriptor's list: its entries, or the stop (R255, R258). -/
def movList (s : State) (c : Nat) (f : Flight) : Except Stop (List Nat) :=
  match movListAt s c f with
  | .error e => .error e
  | .ok w =>
    let r := movListRead s c f w
    let l := entriesOf (mvBlocks f.desc) r.1
    if r.2 || (l.map blockOf).any (blockBad (mvWayIn f.desc)) then .error ⟨stContainedFault, coreSrc c 0x14⟩ else .ok l

/-- Whether a taken entry fails R268's check of a block. -/
def entryBad (e : WayEntry) (b : Block) : Bool :=
  let sp := handleSpace e.handle
  (b.fromWay && (!isDataSpace sp || (b.weight && 2 ≤ sp))) || (b.toWay && !isDataSpace sp)

/-! ### Waystation entries (R268 to R271) -/

/-- A descriptor that ends after taking an entry and before putting it puts it on with its own status (R271): to WAY_OUT, or
back to WAY_IN when WAY_OUT is 0; a refused put drops and counts it [DEDUCED, log entry 44]. -/
def State.putBack (s : State) (c : Nat) (f : Flight) (status : Nat) : State :=
  match f.entry with
  | none => s
  | some e =>
    let w := if mvWayOut f.desc = 0 then mvWayIn f.desc else mvWayOut f.desc
    let r := s.wayPut (wayNum w) e.handle status
    let s := r.1.modFlight f.ref (fun f => { f with entry := none })
    if r.2 then s else (s.fadd MOV_WAY_LOST_COUNT 1 c).fset MOV_STATUS_WAY_LOST_SEEN 1 c

/-- A mover descriptor stops: fault, status, entry put on (R258, R259, R268, R271). -/
def State.movStop (s : State) (c : Nat) (ref : DescRef) (st : Stop) (malformed_ : Bool) : State :=
  let s := if malformed_ then s.fset MOV_STATUS_MALFORMED_SEEN 1 c else s
  let s := s.endFault ref st.status st.source
  match s.flight? ref with
  | some f => s.putBack c f f.status
  | none => s

/-- The most reads a mover had outstanding during `n` requests: a free value from 1 to min(n, 384) (R263) [DESIGN CHOICE, log entry 22]. -/
def State.outstandingMax (s : State) (c n : Nat) : State :=
  if n = 0 then s
  else
    let r := s.free 9
    let v := r.1 % (min n 384) + 1
    if r.2.fget MOV_OUTSTANDING_MAX_MAX c < v then r.2.fset MOV_OUTSTANDING_MAX_MAX v c else r.2

/-- What a mover has still to do; with nothing left its outstanding reads have returned. -/
def State.setMover (s : State) (c : Nat) (w : Option MovWork) : State :=
  s.modCore c (fun k => { k with mover := w, fills := if w.isSome then k.fills else [] })

/-- The end of a descriptor all of whose runs are performed (R261, R269, R270): with no WAY_OUT it ends, else its put is left. -/
def movDone (ref : DescRef) (poison : Bool) (s : State) : State :=
  match s.flight? ref with
  | none => s
  | some f =>
    let own := match f.entry with
      | some e => if e.status = stVoidInput ∨ e.status = stBudgetExpired then e.status else stOK
      | none => stOK
    let st := worse f.status (if poison then worse stContainedFault own else own)
    if mvWayOut f.desc = 0 then s.endFlight ref st
    else s.modFlight ref (fun g => { g with stage := .moved, status := st })

/-- A mover goes on with a descriptor whose entry, if any, has been taken: its runs, as far as the ration lets it (R280) [DEDUCED, log entry 43]. -/
def movTransfer (c : Nat) (f : Flight) (w : MovWork) (s : State) : State :=
  let bl := w.list.map blockOf
  if f.entry.elim false (fun e => bl.any (entryBad e)) then
    (s.movStop c f.ref ⟨stContainedFault, coreSrc c 0x14⟩ false).setMover c none
  else
    let r := movBlocks c f.latch f.ref f.entry w.block w.run (bl.drop w.block) ⟨s, w.before, w.poison, w.charged, 0⟩
    let s := r.1.s.outstandingMax c r.1.reads
    match r.2 with
    | .stop st => (s.movStop c f.ref st false).setMover c none
    | .held k i => s.setMover c (some ⟨w.list, k, i, r.1.charged, r.1.before, r.1.poison⟩)
    | .done =>
      let s := movDone f.ref r.1.poison s
      if mvWayOut f.desc = 0 then s.setMover c none else s.modCore c (fun k => { k with fills := [] })

/-- A mover goes on with the descriptor it runs: it waits while its ration holds the read of its list (R280), takes its entry from WAY_IN or
waits while that is empty (R268), and transfers [DEDUCED, log entry 43]. -/
def movGo (c : Nat) (f : Flight) (w : MovWork) (s : State) : State :=
  if handleSpace (mvList f.desc) ≤ 1 ∧ s.heldTx c ≠ 0 then s
  else if mvWayIn f.desc = 0 || f.entry.isSome then movTransfer c f w s
  else
    match s.wayTake (wayNum (mvWayIn f.desc)) with
    | (_, none) => s
    | (t, some e) => movTransfer c { f with entry := some e } w (t.modFlight f.ref (fun g => { g with entry := some e }))

/-- Whether a mover can go on: its entry there to take, the list in hand, or else no transaction held. -/
def State.moverReady (s : State) (c : Nat) (f : Flight) : Bool :=
  if mvWayIn f.desc ≠ 0 ∧ f.entry.isNone then
    (2 ≤ handleSpace (mvList f.desc) || s.heldTx c == 0) && (s.wayTake (wayNum (mvWayIn f.desc))).2.isSome
  else s.heldTx c == 0

/-- The descriptor a mover runs, with what is left of it. -/
def State.moverRuns (s : State) (c : Nat) : Option (Flight × MovWork) :=
  match s.drover.flights.find? (fun f => f.core == c && dEngine f.desc == enMOV && f.stage == .running), (s.coreAt c).mover with
  | some f, some w => some (f, w)
  | _, _ => none

/-- The head of an engine's intake that may start: at its head, waits met, the core in no fault state (R232, R437). -/
def State.engineHead (s : State) (c e : Nat) : Option Flight :=
  s.drover.flights.find? (fun f =>
    f.core == c && dEngine f.desc == e && f.stage == .intake && !f.member && s.mayStart f && s.waitsMet f)

/-- A mover starts a descriptor: its list is read, charged and checked (R255, R258). -/
def movStart (c : Nat) (f : Flight) (s : State) : State :=
  let s := s.setPhase c (dPhase f.desc)
  let s := match movListAt s c f with
    | .ok w => if w.1 ≤ 1 then (s.crossLink c w.2 (64 * mvBlocks f.desc) false).chargeTx c (txCount w.2 (64 * mvBlocks f.desc))
               else s.eccRead c spASP (spOf w.2).2.2 (64 * mvBlocks f.desc) (some f.ref)
    | .error _ => s
  match movList s c f with
  | .error st => s.movStop c f.ref st (st.source == coreSrc c 0x14)
  | .ok l =>
    if s.wayFieldBad (mvWayIn f.desc) || s.wayFieldBad (mvWayOut f.desc) then
      s.movStop c f.ref ⟨stContainedFault, coreSrc c 0x14⟩ false
    else
    let w : MovWork := ⟨l, 0, 0, false, [], false⟩
    movGo c f w ((s.modFlight f.ref (fun g => { g with stage := .running })).setMover c (some w))

/-- MOV_STREAM (R255 to R261): the descriptor at the head of the mover's intake reads and checks its list, takes its entry, and performs its
runs; a descriptor that its ration held goes on. -/
def execMovStream (c : Nat) (s : State) : Result :=
  unit (c < 8) (match s.moverRuns c with
    | some (f, w) => due (s.coreWorks c && s.moverReady c f) s (movGo c f w s)
    | none =>
      match s.engineHead c enMOV with
      | none => .next s
      | some f => due (s.coreWorks c && dOpcode f.desc == opMOV_STREAM) s (movStart c f s))

/-- MOV_WAY_IN_TAKE (R268): a mover waiting on an empty WAY_IN takes an entry once one is present. -/
def execMovWayInTake (c : Nat) (s : State) : Result :=
  unit (c < 8) (match s.moverRuns c with
    | none => .next s
    | some (f, w) => due (s.coreWorks c && mvWayIn f.desc != 0 && f.entry.isNone && s.moverReady c f) s (movGo c f w s))

/-- Whether every write of a mover or ROI descriptor is visible: nothing held by the ration, nothing left in Packhorse
(R137, R235). -/
def State.writesVisible (s : State) (f : Flight) : Bool :=
  (dEngine f.desc != enMOV || s.heldTx f.core == 0) && !(s.coreAt f.core).packhorse.any (fun e => e.refs.contains f.ref)

/-- The descriptor whose put a mover has still to make. -/
def State.movPutter (s : State) (c : Nat) : Option Flight :=
  s.drover.flights.find? (fun f => f.core == c && dEngine f.desc == enMOV && f.stage == .moved)

/-- Handle of the destination of block 0 of the list that a mover has read. -/
def State.movDst (s : State) (c : Nat) : Nat := (s.coreAt c).mover.elim 0 (fun w => (blockOf (w.list.headD 0)).dst)

/-- The put of a descriptor whose writes are visible (R269): the entry taken, or DST of block 0 with status OK. A refused put is counted, and
the descriptor keeps its entry and waits (R266, R267). One whose write was discarded puts nothing here (R271) [DEDUCED, log entry 44]. -/
def State.movPut (s : State) (c : Nat) (f : Flight) : State :=
  if f.discarded then (s.endFlight f.ref f.status).setMover c none
  else
    let e := f.entry.getD ⟨s.movDst c, stOK, 0⟩
    let r := s.wayPut (wayNum (mvWayOut f.desc)) e.handle e.status
    if r.2 then ((r.1.modFlight f.ref (fun g => { g with entry := none })).endFlight f.ref stOK).setMover c none else r.1

/-- MOV_WAY_OUT_PUT (R269): after its last write is visible the mover puts its entry to WAY_OUT, once that is not full, and the
descriptor ends. -/
def execMovWayOutPut (c : Nat) (s : State) : Result :=
  unit (c < 8) (match s.movPutter c with
    | none => .next s
    | some f =>
      due (s.coreWorks c && s.writesVisible f && (f.discarded || !s.wayFull (wayNum (mvWayOut f.desc)))) s (s.movPut c f))

/-- A mover descriptor with a discarded write (R150) that completes puts the entry it took (R271). -/
def State.returnEntry (s : State) (f : Flight) : State := if f.discarded && f.entry.isSome then s.putBack f.core f f.status else s

/-- WAY_WAIT: the mover waits on an empty WAY_IN, its list read, or on a full WAY_OUT (R268, R269, R285). -/
def State.wayWaits (s : State) (c : Nat) : Bool :=
  (match s.moverRuns c with
    | some (f, _) => mvWayIn f.desc != 0 && f.entry.isNone && (2 ≤ handleSpace (mvList f.desc) || s.heldTx c == 0) &&
        (s.wayTake (wayNum (mvWayIn f.desc))).2.isNone
    | none => false) ||
  (match s.movPutter c with
    | some f => s.writesVisible f && !f.discarded && s.wayFull (wayNum (mvWayOut f.desc))
    | none => false)

end Sys2Proof.Machine
end

