-- ==== Sys2Proof/Machine/Serving.lean ====
section
/-! DEFINITION. The serving loop: model entries, placement and the state switch, mailboxes, resolution and commit, kill (R288 to
R318, R205, R208). -/

namespace Sys2Proof.Machine

/-! ### Model entries (R290) -/

/-- `n` bytes from byte `b` of a model entry held as a little-endian number. -/
def meBytes (e b n : Nat) : Nat := bits e (8 * b) (8 * n)

def meId (e : Nat) : Nat := meBytes e 0 4
def meValid (e : Nat) : Bool := bitAt (meBytes e 4 1) 0
def meCommitSave (e : Nat) : Bool := bitAt (meBytes e 4 1) 1
def meLiveCount (e : Nat) : Nat := bits (meBytes e 5 1) 0 4
def meTableCount (e : Nat) : Nat := bits (meBytes e 5 1) 4 4
def meEngines (e : Nat) : Nat := meBytes e 6 2
def mePlace (e : Nat) : List Nat := (List.range 8).map (fun i => meBytes e (8 + i) 1)
def meState (e : Nat) : Nat := meBytes e 16 4
def meMaxRun (e : Nat) : Nat := meBytes e 20 2
def meTables (e : Nat) : List Nat := (List.range (meTableCount e)).map (fun i => meBytes e (24 + 4 * i) 4)

/-- The live regions: scratchpad handle and length in granules. -/
def meLive (e : Nat) : List (Nat × Nat) :=
  (List.range (meLiveCount e)).map (fun i => (meBytes e (40 + 8 * i) 4, meBytes e (44 + 8 * i) 4))

/-- Address of the entry of a model (R290). -/
def State.entryAddr (s : State) (model : Nat) : Nat := 4096 * s.fget QM_MODEL_BASE_BASE + 128 * (model % 4096)

/-- The entry of a model as it stands in DRAM [DEDUCED, log entry 21]. -/
def State.modelEntry (s : State) (model : Nat) : Nat := s.readLE (s.entryAddr model) 128

/-- A reserved bit or a field outside its range in an entry (R290, R291) [DEDUCED, log entry 16]. -/
def entryReserved (e : Nat) : Bool :=
  bits (meBytes e 4 1) 2 6 != 0 || 8 < meLiveCount e || 4 < meTableCount e ||
  bits (meEngines e) 0 1 != 0 || bits (meEngines e) 10 6 != 0 || meBytes e 22 2 != 0 || meBytes e 108 20 != 0 ||
  (meLiveCount e != 0 && !isDram (meState e)) || (meTables e).any (fun h => !isDram h) ||
  (meLive e).any (fun r => !(handleSpace r.1 == spASP || handleSpace r.1 == spPSP) || r.2 == 0 || 262144 < r.2)

/-- Engines a core offers (R292). -/
def State.capability (s : State) (c : Nat) : Nat := 0x03F2 ||| (s.arraysOf c <<< 2)

/-- Whether a core has the engines an entry names. -/
def State.hasEngines (s : State) (c e : Nat) : Bool :=
  (List.range 16).all (fun i => !bitAt (meEngines e) i || bitAt (s.capability c) i)

/-- The list of cores for a caravan (R293): its PIN, else the entry's list up to the first 0xFF; values that are no core are
passed over [DEDUCED, log entry 16]. -/
def placeList (pin e : Nat) : List Nat :=
  if pin ≤ 7 then [pin] else ((mePlace e).takeWhile (· != 0xFF)).filter (· < 8)

/-! ### Mailboxes (R304 to R308) -/

/-- Number of mailboxes. -/
def mailboxCount : Nat := 4096

/-- First address of a mailbox. -/
def State.mbxAddr (s : State) (m : Nat) : Nat := 4096 * s.fget QM_MBX_BASE_BASE + 0x2_3000 * m

/-- Address of a half's header and of its data. -/
def State.mbxHeader (s : State) (m half : Nat) : Nat := s.mbxAddr m + 0x100 * half
def State.mbxData (s : State) (m half : Nat) : Nat := s.mbxAddr m + 0x1000 + 0x1_0000 * half

/-- Address of a part's input sheet. -/
def State.mbxSheet (s : State) (m part : Nat) : Nat := s.mbxAddr m + 0x2_1000 + 512 * part

/-- PARTS of a mailbox. -/
def State.mbxParts (s : State) (m : Nat) : Nat := s.fget QM_MBXm_CFG_PARTS m + 1

/-- Whether a request is pending. -/
def State.mbxPending (s : State) (m : Nat) : Bool := s.fget QM_MBXm_STATE_STATE m == 2

/-- Parts of the pending request that have ended. -/
def State.partEnds (s : State) (m : Nat) : List PartEnd := (AMap.get? s.drover.parts m).getD []

/-- Replaces the list of ended parts of a mailbox. -/
def State.setPartEnds (s : State) (m : Nat) (l : List PartEnd) : State :=
  { s with drover := { s.drover with parts := if l = [] then AMap.del s.drover.parts m else AMap.set s.drover.parts m l } }

/-- A part of the pending request has begun: the mailbox is PENDING and BEGUN shows it (R307). -/
def State.beginPart (s : State) (m p : Nat) : State :=
  (s.fset QM_MBXm_STATE_STATE 2 m).fset QM_MBXm_STATE_BEGUN (putBits (s.fget QM_MBXm_STATE_BEGUN m) p 1 1) m

/-- Whether a part index of a pending request is taken (R289), by a begun part or by one a cancel has counted as failed. -/
def State.partTaken (s : State) (m p : Nat) : Bool :=
  s.mbxPending m && (bitAt (s.fget QM_MBXm_STATE_BEGUN m) p || (s.partEnds m).any (fun x => x.part == p))

/-- Whether a mailbox takes a caravan with part index `p` at all (R289). -/
def State.mbxAccepts (s : State) (m p : Nat) : Bool := s.fbit QM_MBXm_CFG_ENABLE m && p < s.mbxParts m

/-- What a mailbox read returns (R308). -/
structure MbxRead where
  status : Nat
  seq : Nat
  data : Bool
  seen : Bool
  overtaken : Bool
  pending : Bool
  half : Nat
  deriving DecidableEq, Repr

/-- A read of mailbox `m` with wanted sequence number `w` (R308) [DEDUCED, log entry 59]. -/
def State.mbxRead (s : State) (m w : Nat) : State × MbxRead :=
  let q := s.fget QM_MBXm_STATE_SEQ m
  let half := s.fget QM_MBXm_STATE_HALF m
  let p := s.mbxPending m
  if q = 0 then (s, ⟨stNotReady, 0, false, false, false, p, 0⟩)
  else
    let d := sub32 w q
    if w ≠ 0 ∧ d ≠ 0 ∧ d < 2 ^ 31 then (s, ⟨stNotReady, q, false, false, false, p, 0⟩)
    else
      (s.fset QM_MBXm_STATE_SEEN 1 m,
        ⟨s.readLE (s.mbxHeader m half + 4) 1, q, true, s.fbit QM_MBXm_STATE_SEEN m, w ≠ 0 && d ≠ 0, p, half⟩)

/-- A write of QM_MBX_CLAIMk (R308, R317). -/
def mbxClaimEffect (k m w : Nat) (s : State) : State × Nat :=
  let r := s.mbxRead m w
  (r.1.rset QM_MBX_CLAIMk_RESULT (BitVec.ofNat 64 (r.2.seq + r.2.status * 2 ^ 32 + b2n r.2.seen * 2 ^ 40 +
    b2n r.2.overtaken * 2 ^ 41 + b2n r.2.pending * 2 ^ 42 + r.2.half * 2 ^ 43)) k, stOK)

/-- MAILBOX_CLAIM (R308). -/
def execMailboxClaim (src k m w : Nat) (s : State) : Result :=
  regCmd (k < 8 && m < mailboxCount) s src (regAddr QM_MBX_CLAIMk k) 8 (m + wrap 32 w * 2 ^ 32) (mbxClaimEffect k m (wrap 32 w))

/-! ### Input sheets (R300 to R302) -/

/-- `n` bytes from byte `b` of a sheet [DEDUCED, log entry 21]. -/
def State.sheet (s : State) (m p b n : Nat) : Nat := s.readLE (s.mbxSheet m p + b) n

def State.sheetSamples (s : State) (m p : Nat) : Nat := s.sheet m p 0 2
def State.sheetInputs (s : State) (m p : Nat) : Nat := s.sheet m p 2 1

/-- Length in bytes of input `k` (coded as LEN_B - 1). -/
def State.inputLen (s : State) (m p k : Nat) : Nat := bits (s.sheet m p (20 + 16 * k) 4) 0 24 + 1

/-- Handle of input `k`. -/
def State.inputHandle (s : State) (m p k : Nat) : Nat := s.sheet m p (16 + 16 * k) 4

/-- Whether an input entry breaks R300. An input past the end of its die is out of range [DEDUCED, log entry 18]. -/
def State.inputBad (s : State) (m p k : Nat) : Bool :=
  let sample := s.sheet m p (24 + 16 * k) 2
  let st := s.sheet m p (26 + 16 * k) 1
  let h := s.inputHandle m p k
  !isDram h || bits (s.sheet m p (20 + 16 * k) 4) 24 8 != 0 || s.sheet m p (27 + 16 * k) 5 != 0 ||
  !(sample == 0xFFFF || sample < s.sheetSamples m p) ||
  !(st == stOK || st == stVoidInput || st == stBudgetExpired) ||
  (isDram h && decide (dieEnd (dramAddr h) < dramAddr h + s.inputLen m p k))

/-- Whether a sheet breaks R300. -/
def State.sheetBad (s : State) (m p : Nat) : Bool :=
  256 < s.sheetSamples m p || 31 < s.sheetInputs m p || s.sheet m p 3 13 != 0 ||
  (List.range (s.sheetInputs m p)).any (fun k => s.inputBad m p k)

/-- Status of sample `i` by one sheet (R301). -/
def State.sampleStatus (s : State) (m p i : Nat) : Nat :=
  (List.range (s.sheetInputs m p)).foldl (fun st k =>
    let e := s.sheet m p (24 + 16 * k) 2
    let x := s.sheet m p (26 + 16 * k) 1
    if (e = i ∨ e = 0xFFFF) ∧ (x = stBudgetExpired ∨ x = stVoidInput) then worse st x else st) stOK

/-! ### Live state (R295 to R297) -/

/-- Bytes of a model's live state: its regions and the 512-byte engine context. -/
def liveLen (e : Nat) : Nat := if meLiveCount e = 0 then 0 else 32 * ((meLive e).map (·.2)).sum + 512

/-- Byte offset of a live region in its scratchpad, for a task with the given base rows. -/
def liveOffset (base : List Nat) (h : Nat) : Nat := 128 * base.getD (spIx (handleSpace h)) 0 + 32 * handleIndex h

/-- The live state of entry `e` as core `c` holds it, each byte with its poison (R140, R150). -/
def State.liveOn (s : State) (c e : Nat) (base : List Nat) : List (Byte × Bool) :=
  if meLiveCount e = 0 then []
  else
    (meLive e).flatMap (fun r =>
      let sp := handleSpace r.1
      let o := liveOffset base r.1
      (List.range (32 * r.2)).map (fun i =>
        (s.spByte c sp (o + i) none, s.wordPoison c sp (o + i) none)))
    ++ (leBytes 512 (s.coreAt c).ctx).map (fun b => (b, false))

/-- The error checks of the bank reads of a live state (R138). -/
def State.eccLive (s : State) (c e : Nat) (base : List Nat) : State :=
  (meLive e).foldl (fun s r => s.eccRead c (handleSpace r.1) (liveOffset base r.1) (32 * r.2) none) s

/-- Saves the live state of entry `e` from core `c` to its area (R295, R297), with its marks
[DEDUCED, log entry 17; DESIGN CHOICE, log entry 26]. -/
def State.saveLive (s : State) (c e : Nat) (base : List Nat) : State :=
  let a := dramAddr (meState e)
  let live := s.liveOn c e base
  let commits := s.readLE (s.entryAddr (meId e) + 104) 4
  let s := (s.eccLive c e base).dramWrite a (leBytes 4 commits ++ leBytes 4 live.length ++ List.replicate 24 0)
  let s := s.dramWritePoison (a + 32) live
  (s.crossLink c a (32 + live.length) true).fadd QM_SWITCH_B_COUNT live.length

/-- Writes granules with marks into a scratchpad of core `c`, row by row, outside any task (R297). -/
def State.restoreRegion (s : State) (c sp o : Nat) (bs : List (Byte × Bool)) : State :=
  s.spWriteWords c sp o ((List.range (bs.length / 8)).map (fun i =>
    (leVal ((slice bs (8 * i) 8).map (·.1)), (slice bs (8 * i) 8).any (·.2)))) .clear none none

/-- Restores the live state of entry `e` from its area to core `c` (R297) [DEDUCED, log entry 17; DESIGN CHOICE, log entry 26]. -/
def State.restoreLive (s : State) (c e : Nat) (base : List Nat) : State :=
  let a := dramAddr (meState e) + 32
  let r := (meLive e).foldl (fun (q : State × Nat) r =>
    let bs := (List.range (32 * r.2)).map (fun i => (s.readByte (q.2 + i), s.poisoned ((q.2 + i) / 32 * 32)))
    (q.1.restoreRegion c (handleSpace r.1) (liveOffset base r.1) bs, q.2 + 32 * r.2)) (s, a)
  let ctx := s.readLE r.2 512
  let t := r.1.modCore c (fun k => { k with ctx := ctx })
  (t.crossLink c a (32 + liveLen e) false).fadd QM_SWITCH_B_COUNT (liveLen e)

/-- Sets what a core holds of a model's live state. -/
def State.setResident (s : State) (c : Nat) (r : Option Resident) : State := s.modCore c (fun k => { k with resident := r })

/-- Saves what core `c` holds dirty; the state becomes Area (R297). Answers the bytes and whether they cross the link [DEDUCED, log entry 17]. -/
def State.saveDirty (s : State) (c : Nat) : State × Nat × Bool :=
  match (s.coreAt c).resident with
  | some r =>
    if r.dirty then
      let e := s.modelEntry r.model
      ((s.saveLive c e r.base).setResident c none, liveLen e, decide ((dramAddr (meState e) < dram0End) ≠ (c / 4 = 0)))
    else (s, 0, false)
  | none => (s, 0, false)

/-- Cores other than `c` on which a model is resident. -/
def State.residentElsewhere (s : State) (c model : Nat) : List Nat :=
  whichBelow 8 (fun d => d != c && ((s.coreAt d).resident.elim false (fun r => r.model == model)))

/-- Whether a model is resident on a core (R297). -/
def State.residentHere (s : State) (c model : Nat) : Bool := (s.coreAt c).resident.elim false (fun r => r.model == model)

/-- A model resident on a core has its live regions in the rows of a task (R295) [DEDUCED, log entry 17]. -/
def State.rebaseLive (s : State) (c : Nat) (base : List Nat) : State :=
  s.modCore c (fun k => { k with resident := k.resident.map (fun r => { r with base := base }) })

/-- Whether every live region lies within a task's bounds (R297 step 1). -/
def State.liveBounded (s : State) (c e : Nat) (t : TaskLatch) : Bool :=
  (meLive e).all (fun r => s.inBounds c t (handleSpace r.1) (t.byteOf (handleSpace r.1) (handleIndex r.1)) (32 * r.2))

/-- The duration of a switch in nanoseconds (R298): the formula where nothing is moved; otherwise a free value from the
formula's to the bound of R282 for own-die areas, or without upper bound over the cross link [DEDUCED, log entry 17]. -/
def State.switchTime (s : State) (own cross : Nat) : State × Nat :=
  if own + cross = 0 then (s, 800)
  else
    let r := s.free 32
    let lo := 800 + (own * 512 + cross * 640) / (640 * 512)
    let hi := if cross = 0 then 800 + ceilDiv own 120 else 2 ^ 32 - 1
    (r.2, lo + r.1 % (hi - lo + 1))

/-- The switch of R297, steps 2 to 4, of core `c` to entry `e` in the rows of task latch `t` [DEDUCED, log entry 17]. -/
def State.switchCore (s : State) (c e : Nat) (t : TaskLatch) : State :=
  let x := meId e
  let here := s.residentHere c x
  let other := (s.coreAt c).resident.elim false (fun r => r.dirty && !here)
  let q1 := if other then s.saveDirty c else (s, 0, false)
  let s := if here then q1.1.rebaseLive c t.base else q1.1.setResident c none
  let q2 := (s.residentElsewhere c x).foldl (fun (q : State × Nat × Nat) d =>
    let r := q.1.saveDirty d
    if r.2.2 then (r.1.setResident d none, q.2.1, q.2.2 + r.2.1) else (r.1.setResident d none, q.2.1 + r.2.1, q.2.2))
    (s, (if q1.2.2 then 0 else q1.2.1), (if q1.2.2 then q1.2.1 else 0))
  let need := meLiveCount e != 0 && !here
  let s := if need then (q2.1.restoreLive c e t.base).setResident c (some ⟨x, false, t.base⟩) else q2.1
  let far := decide ((dramAddr (meState e) < dram0End) ≠ (c / 4 = 0))
  let back := if need then liveLen e else 0
  let own := q2.2.1 + (if far then 0 else back)
  let cross := q2.2.2 + (if far then back else 0)
  let r := s.switchTime own cross
  (r.1.fset QM_SWITCH_LAST_MOVED_B (own + cross)).fset QM_SWITCH_LAST_TIME_NS r.2

/-! ### CARAVAN_BEGIN (R289, R291) -/

/-- The flight of a caravan's CARAVAN_BEGIN. -/
def State.beginFlight (s : State) (k : Caravan) : Option Flight := s.flight? ⟨k.queue, k.index, 0⟩

/-- A CARAVAN_BEGIN fails before it is placed (R289, R291, R297, R300): class U of source 0x002, and it completes. -/
def State.failBegin (s : State) (k : Caravan) (inRequest : Bool) : State :=
  let s := if inRequest then (s.beginPart k.mailbox k.part).modCaravan k.queue k.index (fun x => { x with begun := true }) else s
  (s.endFault ⟨k.queue, k.index, 0⟩ stContainedFault 0x002).completeFlight ⟨k.queue, k.index, 0⟩

/-- Whether R291 fails a caravan on its entry [DEDUCED, log entry 16]. -/
def State.entryFails (s : State) (k : Caravan) (e : Nat) : Bool :=
  !meValid e || meId e != k.model || entryReserved e || !(placeList k.pin e).any (fun c => s.hasEngines c e)

/-- CARAVAN_BEGIN (R289, R291, R293): the CARAVAN_BEGIN at the head of its ring with its waits met is ready from then on; once no part of
its index stands before it, its mailbox and its entry are checked [DEDUCED, log entry 15; DEDUCED, log entry 16]. -/
def execCaravanBegin (q : Nat) (s : State) : Result :=
  unit (q < 65536) (match s.drover.flights.find? (fun f =>
      f.queue == q && f.pos == 0 && dOpcode f.desc == opCARAVAN_BEGIN && s.mayStart f && s.waitsMet f) with
    | none => .next s
    | some f =>
      match s.caravanOf f with
      | none => .next s
      | some k =>
        let s0 := s.latchWaits.modCaravan q f.index (fun x => { x with readyAt := some (x.readyAt.getD s.refTick) })
        let s1 := s0.hubRead (s.entryAddr k.model) 128
        let e := s.modelEntry k.model
        due (s.works && !k.checked && k.core.isNone) s (
          if !s.mbxAccepts k.mailbox k.part then s.failBegin k false
          else if s.partTaken k.mailbox k.part then s0
          else if s.entryFails k e then s1.failBegin k true
          else s1.modCaravan q f.index (fun x => { x with checked := true, entry := e })))

/-! ### CARAVAN_PLACE (R292, R293, R297) -/

/-- eligible(c, b, e) of R292. -/
def State.eligible (s : State) (c : Nat) (k : Caravan) : Bool :=
  bitAt (s.fget QM_CORE_AVAIL_AVAIL) c && (s.occupant c).isNone && s.hasEngines c k.entry && s.coreState c == 0 &&
  s.fbit CORE_TASKn_BOUND_ENABLE c k.task && !(s.coreAt c).zeroing.any (fun z => z.task == k.task) &&
  (meLiveCount k.entry == 0 || !s.drover.caravans.any (fun x => x.core.isSome && x.model == k.model))

/-- The first eligible core of a ready caravan's list. -/
def State.coreFor (s : State) (k : Caravan) : Option Nat := (placeList k.pin k.entry).find? (fun c => s.eligible c k)

/-- Ready caravans that could be placed now, with READY_TIME. -/
def State.placeable (s : State) : List (Nat × Caravan) :=
  s.drover.caravans.filterMap (fun k =>
    match k.readyAt with
    | some t =>
      if k.checked && k.core.isNone && k.ending.isNone && !s.partTaken k.mailbox k.part && (s.coreFor k).isSome &&
        (s.beginFlight k).elim false (fun f => !f.completed) then some (t, k) else none
    | none => none)

/-- The ready caravan placed next: by READY_TIME, then by queue number (R293) [DESIGN CHOICE, log entry 14]. -/
def State.nextPlaced (s : State) : Option Caravan :=
  (s.placeable.foldl (fun (b : Option (Nat × Caravan)) x =>
    match b with
    | none => some x
    | some y => if x.1 < y.1 ∨ (x.1 = y.1 ∧ x.2.queue < y.2.queue) then some x else some y) none).map (·.2)

/-- The input digest of a caravan's part (R302): the first 16 bytes of SHA-256 as a little-endian number. -/
def State.inputDigest (s : State) (k : Caravan) (c : Nat) (base : List Nat) : Nat :=
  let m := k.mailbox
  let n := s.sheetInputs m k.part
  leVal ((sha256 (s.readBytes (s.mbxSheet m k.part) (16 + 16 * n) ++
    (List.range n).flatMap (fun i => s.readBytes (dramAddr (s.inputHandle m k.part i)) (s.inputLen m k.part i)) ++
    (s.liveOn c k.entry base).map (·.1))).take 16)

/-- The digest's reads, beside the core's own traffic, within its ration and the mover's outstanding reads (R263, R302). -/
def State.digestTraffic (s : State) (k : Caravan) (c : Nat) : State :=
  let m := k.mailbox
  let sheet := s.mbxSheet m k.part
  let n := s.sheetInputs m k.part
  let rd (q : State × Nat) (a len : Nat) : State × Nat :=
    ((q.1.crossLink c a len false).chargeTx c (txCount a len), q.2 + txCount a len)
  let q := (List.range n).foldl (fun q i => rd q (dramAddr (s.inputHandle m k.part i)) (s.inputLen m k.part i))
    (rd (s, 0) sheet (16 + 16 * n))
  q.1.outstandingMax c q.2

/-- Placement of a caravan on core `c` (R293, R297): the checks of step 1 and of its sheet, the switch, the task, the
cleared curve stores, the tallies of its range at 0, and the completion of its CARAVAN_BEGIN. -/
def State.placeOn (s : State) (k : Caravan) (c : Nat) : State :=
  let t := s.taskLatch c k.task
  let r : DescRef := ⟨k.queue, k.index, 0⟩
  if !s.liveBounded c k.entry t || s.sheetBad k.mailbox k.part then s.failBegin k true
  else
    let here := s.residentHere c k.model
    let step :=
      if meLiveCount k.entry = 0 then 0xFFFF_FFFF
      else if here then s.readLE (s.entryAddr k.model + 104) 4
      else (s.switchCore c k.entry t).readLE (dramAddr (meState k.entry)) 4
    let s := (s.switchCore c k.entry t).fset CORE_TASK_CURRENT_TASK k.task c
    let s := (s.modCore c (fun x => { x with curves := [none, none, none, none] })).fset VEC_STATUS_CURVES_LOADED 0 c
    let s := (List.range k.tallyCount).foldl (fun s i => s.tallyPut (k.tallyBase + i) 0) s
    let dg := s.inputDigest k c t.base
    let s := (s.eccLive c k.entry t.base).digestTraffic k c
    let s := (s.beginPart k.mailbox k.part).fadd QM_PLACEMENTS_COUNT 1
    let s := s.setPhase c ((s.beginFlight k).elim 0 (fun f => dPhase f.desc))
    let s := s.modCaravan k.queue k.index (fun x => { x with
      core := some c, placedAt := s.refTick, begun := true, digest := dg, stateStep := step })
    (s.endFlight r stOK).completeFlight r

/-- CARAVAN_PLACE (R293). -/
def execCaravanPlace (s : State) : Result :=
  match s.nextPlaced with
  | none => .next s
  | some k =>
    match s.coreFor k with
    | none => .next s
    | some c => due s.works s (s.placeOn k c)

/-! ### CARAVAN_END (R239, R305) -/

/-- The granules of a result that carry a mark, as granules of its copy (R305) [DEDUCED, log entry 17]. -/
def State.copyMarks (s : State) (a b n : Nat) : List Nat :=
  (granulesOf a n).filterMap (fun g => if s.poisoned g then some (b + (g - a)) else none)

/-- The mailbox unit's copy of a successful part's result (R305); the status with which CARAVAN_END completes [DEDUCED, log entry 18]. -/
def State.resultCopy (s : State) (k : Caravan) (d : Nat) : State × Nat × Nat :=
  let n := ceResultB d
  let a := dramAddr (ceResult d)
  let stride := 32 * s.fget QM_MBXm_CFG_PART_STRIDE k.mailbox
  if stride < n ∨ 65536 < k.part * stride + n ∨ dieEnd a < a + n then (s, stContainedFault, 0)
  else
    let b := s.mbxData k.mailbox (1 - s.fget QM_MBXm_STATE_HALF k.mailbox) + k.part * stride
    let marks := s.copyMarks a b n
    let t := (s.hubRead a n).dramWriteMarked b (s.readBytes a n) marks
    let t := t.linkTx (hubLinkOf b) n
    if marks = [] then (t, stOK, n) else (t, stContainedFault, 0)

/-- CARAVAN_END (R239, R305): once every other descriptor has completed and the digest's reads are done, the result is copied
for a part all of whose statuses deliver, and CARAVAN_END completes. -/
def execCaravanEnd (c : Nat) (s : State) : Result :=
  unit (c < 8) (match s.drover.flights.find? (fun f =>
      f.core == c && f.pos != 0 && dOpcode f.desc == opCARAVAN_END && s.mayStart f && s.waitsMet f) with
    | none => .next s
    | some f =>
      match s.caravanOf f with
      | none => .next s
      | some k =>
        let ok := k.statuses.all delivers
        let r := if ok then s.latchWaits.resultCopy k f.desc else (s.latchWaits, stOK, 0)
        let t := if r.2.1 = stOK then r.1.endFlight f.ref stOK else r.1.endFault f.ref r.2.1 0x002
        due (s.works && k.core == some c && s.heldTx c == 0 && s.drover.flights.all (fun g =>
            !(g.queue == f.queue && g.index == f.index) || g.ref == f.ref || g.stage == .done)) s
          ((t.modCaravan f.queue f.index (fun x => { x with lenB := r.2.2, ended := true })).completeFlight f.ref))

/-! ### Resolution and commit (R306 to R312, R205, R208) -/

/-- The next sequence number (R307). -/
def nextSeq (q : Nat) : Nat := if q = 2 ^ 32 - 1 then 1 else q + 1

/-- The ended part with index `p`. -/
def partOf (l : List PartEnd) (p : Nat) : Option PartEnd := l.find? (fun x => x.part == p)

/-- Status of a sample over the sheets of every part (R306), as its two-bit code. -/
def State.sampleCode (s : State) (m parts samples i : Nat) : Nat :=
  if samples ≤ i then 0
  else
    let st := (List.range parts).foldl (fun st p => worse st (s.sampleStatus m p i)) stOK
    if st = stVoidInput then 1 else if st = stBudgetExpired then 2 else 0

/-- LEN_B of a header (R306). -/
def headerLen (l : List PartEnd) (stride : Nat) : Nat :=
  l.foldl (fun n x => if x.lenB = 0 then n else max n (x.part * stride + x.lenB)) 0

/-- The header of a result (R306). -/
def State.mbxHeaderBytes (s : State) (m : Nat) (l : List PartEnd) (valid : Bool) : List Byte :=
  let parts := s.mbxParts m
  let samples := s.sheetSamples m 0
  let per (f : PartEnd → Nat) (p : Nat) : Nat := (partOf l p).elim 0 f
  leBytes 4 (nextSeq (s.fget QM_MBXm_STATE_SEQ m)) ++
  leBytes 1 (if valid then l.foldl (fun st x => worse st x.status) stOK else stPartFailed) ++
  leBytes 1 (if valid then 1 else 2) ++ leBytes 1 parts ++ leBytes 1 0 ++ leBytes 2 samples ++ leBytes 2 0 ++
  leBytes 4 (headerLen l (32 * s.fget QM_MBXm_CFG_PART_STRIDE m)) ++
  leBytes 4 (if valid then s.fget QM_COMMIT_NEXT_INDEX else 0xFFFF_FFFF) ++ leBytes 12 0 ++
  (List.range 16).flatMap (fun p => leBytes 1 (per (·.status) p)) ++
  (List.range 16).flatMap (fun p => leBytes 4 (per (·.lenB) p)) ++ leBytes 16 0 ++
  leBytes 64 ((List.range 256).foldl (fun v i => v + s.sampleCode m parts samples i * 4 ^ i) 0) ++ leBytes 64 0

/-- Writes the header of the inactive half and flips the mailbox (R306, R307). -/
def State.flip (s : State) (m : Nat) (l : List PartEnd) (valid : Bool) : State :=
  let half := 1 - s.fget QM_MBXm_STATE_HALF m
  let seq := nextSeq (s.fget QM_MBXm_STATE_SEQ m)
  let s := s.hubWrite (s.mbxHeader m half) (s.mbxHeaderBytes m l valid)
  let s := (s.fset QM_MBXm_STATE_SEQ seq m).fset QM_MBXm_STATE_STATE 1 m
  let s := (s.fset QM_MBXm_STATE_SEEN 0 m).fset QM_MBXm_STATE_HALF half m
  (s.fset QM_MBXm_STATE_BEGUN 0 m).setPartEnds m []

/-- Size of one half of a scale state table (R205). -/
def halfBytes (entries : Nat) : Nat := 32 * ceilDiv (16 + 8 * entries) 32

/-- The LIVE half of a table. -/
def State.liveHalf (s : State) (h : Nat) : List Byte :=
  s.readBytes (dramAddr h) (halfBytes (s.readLE (dramAddr h + 4) 2))

/-- The scale digest of R309 as a little-endian number. -/
def State.scaleDigest (s : State) (e : Nat) : Nat := leVal ((sha256 ((meTables e).flatMap s.liveHalf)).take 16)

/-- R208's step 2 for a table: the PENDING half replaces the LIVE half when it follows it, otherwise a class U report of the
state-copy check. -/
def State.stateCopy (s : State) (k : Caravan) (h : Nat) : State :=
  let a := dramAddr h
  let entries := s.readLE (a + 4) 2
  let n := halfBytes entries
  if s.readLE (a + n) 4 = wrap 32 (s.readLE a 4 + 1) ∧ s.readLE (a + n + 4) 2 = entries then
    let marks := s.copyMarks (a + n) a n
    ((s.hubRead (a + n) n).dramWriteMarked a (s.readBytes (a + n) n) marks).linkTx (hubLinkOf a) n
  else s.report 0x003 clsU none k.id

/-- Steps 2 and 3 of R310 for one part: scale digest, state copy, save. Answers the digest. -/
def State.commitPart (s : State) (k : Caravan) (c : Nat) : State × Nat :=
  let e := s.modelEntry k.model
  let dg := s.scaleDigest e
  let s := match k.adapt with
    | some h => s.stateCopy k h
    | none => s
  let base := (s.taskLatch c k.task).base
  let base := (s.coreAt c).resident.elim base (fun r => if r.model = k.model then r.base else base)
  if meLiveCount e = 0 then (s, dg)
  else if meCommitSave e then ((s.saveLive c e base).setResident c (some ⟨k.model, false, base⟩), dg)
  else (s.setResident c (some ⟨k.model, true, base⟩), dg)

/-- A commit record (R311). -/
def State.commitRecord (s : State) (k : Caravan) (c digest : Nat) : List Byte :=
  let b := leBytes 4 k.id ++ leBytes 4 k.model ++ leBytes 16 k.digest ++ leBytes 16 digest ++
    leBytes 2 (k.mailbox + k.part * 2 ^ 12) ++ leBytes 1 (s.mbxParts k.mailbox - 1) ++ leBytes 1 c ++
    leBytes 4 (s.fget QM_MBXm_STATE_SEQ k.mailbox) ++ leBytes 4 k.stateStep ++ leBytes 8 s.fuses.serial
  b ++ leBytes 4 (crc32c b)

/-- Publishes a commit record in the commit log (R312). -/
def State.publish (s : State) (rec_ : List Byte) : State :=
  let i := s.fget QM_COMMIT_NEXT_INDEX
  let s :=
    if s.fbit QM_COMMIT_BASE_ENABLE then
      s.hubWrite (64 * s.fget QM_COMMIT_BASE_BASE + 64 * (i % 2 ^ s.fget QM_COMMIT_BASE_SIZE_LOG2)) rec_
    else s
  s.fset QM_COMMIT_NEXT_INDEX (i + 1)

/-- The caravans of ended parts, in part order, with their cores. -/
def partRuns (l : List PartEnd) : List (Caravan × Nat) :=
  (List.range 16).filterMap (fun p =>
    match (partOf l p).bind (·.run) with
    | some k => k.core.map (fun c => (k, c))
    | none => none)

/-- Drops the caravans of a resolved request: their cores are released (R310). -/
def State.releaseRequest (s : State) (l : List PartEnd) : State :=
  s.setCaravans (s.drover.caravans.filter (fun k =>
    !l.any (fun x => x.run.elim false (fun r => r.queue == k.queue && r.index == k.index))))

/-- The commit sequence of R310 for a request whose parts all succeeded. -/
def State.commit (s : State) (m : Nat) (l : List PartEnd) : State :=
  let s := s.flip m l true
  let runs := partRuns l
  let s := runs.foldl (fun s r =>
    let a := s.entryAddr r.1.model + 104
    s.hubWrite a (leBytes 4 (s.readLE a 4 + 1))) s
  let q := runs.foldl (fun (q : State × List (List Byte)) r =>
    let x := q.1.commitPart r.1 r.2
    (x.1, q.2 ++ [x.1.commitRecord r.1 r.2 x.2])) (s, [])
  (q.2.foldl State.publish q.1).releaseRequest l

/-- R299: a model's state is discarded wherever it is resident; a dirty one counts. -/
def State.rollback (s : State) (model : Nat) : State :=
  (whichBelow 8 (fun c => (s.coreAt c).resident.elim false (fun r => r.model == model))).foldl (fun s c =>
    let dirty := (s.coreAt c).resident.elim false (fun r => r.dirty)
    let s := s.setResident c none
    if dirty then s.fadd QM_ROLLBACKS_COUNT 1 else s) s

/-- A request resolves FAILED (R299, R307, R310). -/
def State.failRequest (s : State) (m : Nat) (l : List PartEnd) : State :=
  let s := (s.flip m l false).fadd QM_REQ_FAILED_COUNT 1
  let s := l.foldl (fun s x => x.run.elim s (fun k => s.rollback k.model)) s
  s.releaseRequest l

/-- A request resolves once all of its parts have ended (R288, R307). -/
def State.resolve (s : State) (m : Nat) : State :=
  let l := s.partEnds m
  if s.mbxPending m && (List.range (s.mbxParts m)).all (fun p => l.any (fun x => x.part == p)) then
    if l.all (fun x => x.ok) then s.commit m l else s.failRequest m l
  else s

/-- A part ends (R288): its final status is the first of its statuses in the order of R242. -/
def State.endPart (s : State) (k : Caravan) : State :=
  let st := k.statuses.foldl worse stOK
  let ok := k.core.isSome && k.statuses.all delivers
  let e : PartEnd := ⟨k.part, st, ok, if ok then k.lenB else 0, some { k with statuses := [], ended := true }⟩
  (s.setPartEnds k.mailbox (s.partEnds k.mailbox ++ [e])).resolve k.mailbox

/-! ### Completion records (R243, R244, R249, R251) -/

/-- The completion record of a flight, written at index `i` of a ring of `n` slots (R243). -/
def State.recordBytes (s : State) (f : Flight) (i n : Nat) : List Byte :=
  leBytes 4 f.index ++ leBytes 4 f.pos ++ leBytes 2 f.queue ++ leBytes 2 (dTag f.desc) ++ leBytes 1 f.status ++
  leBytes 1 (f.fclass + (if i / n % 2 = 0 then 128 else 0)) ++ leBytes 1 (dPhase f.desc) ++
  leBytes 1 (dEngine f.desc + (if f.pos = 0 then 0 else 32 * f.core)) ++ leBytes 6 s.tim.sec ++ leBytes 4 s.tim.ns ++
  leBytes 2 f.fsource ++ leBytes 4 (s.caravanId f)

/-- Whether the Drover still holds a record for a ring, beside that of `f`: the ring cannot take it (R244). -/
def State.recordsHeld (s : State) (ring : Nat) (f : Flight) : Bool :=
  !s.ringTakes ring && s.drover.flights.any (fun g => g.stage == .done && s.fget QM_Qq_CFG_COMPL_QUEUE g.queue == ring &&
    (((s.flightsOf g.queue).filter (fun x => x.ref != f.ref)).head?.elim false (fun x => x.ref == g.ref)))

/-- Writes a record into a completion ring, with its notification (R243, R244). -/
def State.postRecord (s : State) (ring : Nat) (f : Flight) : State :=
  let i := s.qTail ring
  let n := s.qSize ring
  let s1 := s.hubWrite (s.qBase ring + 32 * (i % n)) (s.recordBytes f i n)
  let s1 := s1.fset QM_Qq_TAIL_INDEX (i + 1) ring
  let s1 :=
    if s1.recordsHeld ring f then (s1.fset QM_Qq_STATUS_STALLED 1 ring).fset QM_STATUS_COMPL_STALL_SEEN 1
    else s1.fset QM_Qq_STATUS_STALLED 0 ring
  if dNotify f.desc then
    ((s1.fset QM_Qq_STATUS_NOTIFY_PENDING 1 ring).fset QM_STATUS_NOTIFY_PENDING 1).irq SYS_IRQ_PENDING_QM_NOTIFY
  else s1

/-- Whether a flight is the last descriptor of its ring slot: its retirement frees the slot (R245). -/
def State.lastOfSlot (s : State) (f : Flight) : Bool :=
  match s.caravanOf f with
  | none => true
  | some k => if k.core.isNone then true else f.pos == k.len

/-- A descriptor retires: counters, HEAD, breaks and STOP_AFTER (R245, R249, R251). -/
def State.retire (s : State) (f : Flight) : State :=
  let q := f.queue
  let last := s.lastOfSlot f
  let s := s.setFlights (s.drover.flights.filter (fun g => g.ref != f.ref))
  let s := (s.fadd QM_RETIRED_COUNT 1).fadd QM_Qq_PROGRESS_RETIRED 1 q
  let s := if last then s.fset QM_Qq_HEAD_INDEX (f.index + 1) q else s
  let s :=
    if s.fbit QM_Qq_BREAK_ON_RETIRED q && s.fget QM_Qq_PROGRESS_RETIRED q == s.fget QM_Qq_BREAK_RETIRED_AT q then
      ((s.haltQueue q 2).fset QM_Qq_STATUS_BREAK_HIT 1 q).fset QM_Qq_BREAK_ON_RETIRED 0 q
    else s
  if dStopAfter f.desc then s.haltQueue q 3 else s

/-- Name under which a caravan of a pending request goes on once its slot is free, where no ring index reaches it (R250, R288). -/
def slotFree (k : Caravan) : Nat := 2 ^ 32 + 16 * k.mailbox + k.part

/-- What follows from the retirement of a caravan's last descriptor: its part ends, and a caravan of no request is gone. -/
def State.slotDone (s : State) (f : Flight) : State :=
  match s.caravanOf f with
  | none => s
  | some k =>
    if k.core.isNone || f.pos == k.len then
      if k.begun then
        (s.modCaravan f.queue f.index (fun x => { x with posted := true, index := slotFree k })).endPart { k with index := slotFree k }
      else s.setCaravans (s.drover.caravans.filter (fun x => !(x.queue == f.queue && x.index == f.index)))
    else s

/-- COMPLETION_RECORD_POST (R244): the record of a queue's oldest descriptor, once it has completed, is written into the
queue's completion ring, or is held while the ring cannot take it [DEDUCED, log entry 19]. -/
def execCompletionRecordPost (q : Nat) (s : State) : Result :=
  unit (q < 65536) (match s.flightsOf q with
    | [] => .next s
    | f :: _ =>
      let ring := s.fget QM_Qq_CFG_COMPL_QUEUE q
      due (s.works && f.stage == .done && !s.fcu.reports.any (fun r => r.ref == some f.ref)) s (
        if s.ringTakes ring then (((s.postRecord ring f).retire f).slotDone f).updateDrained q
        else (s.fset QM_Qq_STATUS_STALLED 1 ring).fset QM_STATUS_COMPL_STALL_SEEN 1))

/-! ### Kill (R294, R307, R313, R314) -/

/-- Whether every descriptor of a caravan has completed. -/
def State.overAt (s : State) (k : Caravan) : Bool :=
  k.posted || ((k.core.isNone || k.fetched == k.len) &&
    s.drover.flights.all (fun f => !(f.queue == k.queue && f.index == k.index) || f.stage == .done))

/-- Whether a caravan is in flight for a kill (R294, R313): not killed yet, and not completed, or with a success that is not committed. -/
def State.killable (s : State) (k : Caravan) : Bool :=
  !k.killed && if s.overAt k then k.core.isSome && k.statuses.all delivers
    else k.core.isSome || (s.beginFlight k).elim false (fun f => !f.completed)

/-- The group in progress on a core is over (R109, R110, R125): counted if it had started, its first TIMING_SKEW reported for the opener
unless a member was out of bounds (R120, R123). -/
def State.dropGroup (s : State) (c : Nat) : State :=
  match (s.coreAt c).group with
  | none => s
  | some g =>
    let s := if g.started then s.fadd CORE_LOCK_GROUPS_COUNT 1 c else s
    let s := if g.skew.isSome && !g.bound then s.reportFor g.opener (coreSrc c 0x11) clsU else s
    let s := s.fset CORE_LOCK_STATUS_IN_GROUP 0 c
    s.modCore c (fun k => { k with group := none })

/-- What a kill or a flush does to the work of a core: movers put their entries on, groups and held transactions go, and
the task is zeroed (R110, R148, R195, R262, R271, R313). -/
def State.stopCore (s : State) (c task : Nat) (status : Nat) : State :=
  let movs := s.drover.flights.filter (fun f =>
    f.core == c && f.pos != 0 && dEngine f.desc == enMOV && !f.completed && f.entry.isSome)
  let s := movs.foldl (fun s f => s.putBack c f (worse f.status status)) s
  let s := (s.dropHeld c).setMover c none
  let s := ((s.dropGroup c).modCore c (fun k => { k with curves := [none, none, none, none] })).fset VEC_STATUS_CURVES_LOADED 0 c
  s.killZero c task

/-- The part of a caravan fails with a status, also where it has ended (R294, R313, R446). -/
def State.failPart (s : State) (k : Caravan) (status : Nat) : State :=
  let s := s.modCaravan k.queue k.index (fun x => { x with statuses := x.statuses ++ [status] })
  s.setPartEnds k.mailbox ((s.partEnds k.mailbox).map (fun x =>
    if x.run.elim false (fun r => r.queue == k.queue && r.index == k.index) then { x with status := worse x.status status, ok := false, lenB := 0 } else x))

/-- A caravan is ended whole with a status: before placement its CARAVAN_BEGIN alone, afterwards every descriptor that has not
completed (R313, R446) [DEDUCED, log entry 19]. -/
def State.endWhole (s : State) (k : Caravan) (status : Nat) : State :=
  match k.core with
  | none =>
    let own := s.mbxAccepts k.mailbox k.part && !s.partTaken k.mailbox k.part
    let s := if own then (s.beginPart k.mailbox k.part).modCaravan k.queue k.index (fun x => { x with begun := true }) else s
    (s.modCaravan k.queue k.index (fun x => { x with ending := some status })).endFlight ⟨k.queue, k.index, 0⟩ status
  | some c => ((s.stopCore c k.task status).endCaravan k.queue k.index 1 status true).failPart k status

/-- Kills one caravan (R313) [DEDUCED, log entry 19]. -/
def State.killOne (s : State) (k : Caravan) : State :=
  ((s.modCaravan k.queue k.index (fun x => { x with killed := true })).endWhole k stKilled).fadd QM_KILLS_COUNT 1

/-- A write of QM_KILL (R313). -/
def killEffect (id : Nat) (s : State) : State × Nat :=
  let ks := s.drover.caravans.filter (fun k => k.id == id && s.killable k)
  let s := s.rset QM_KILL (BitVec.ofNat 64 id)
  ((ks.foldl State.killOne s).fset QM_KILL_RESULT (if ks = [] then 2 else 1), stOK)

/-- KILL (R313) [DEDUCED, log entry 19]. -/
def execKill (src id : Nat) (s : State) : Result :=
  regCmd true s src (regAddr QM_KILL) 8 (wrap 32 id) (killEffect (wrap 32 id))

/-- RUN_LIMIT_EXPIRY (R294). -/
def execRunLimitExpiry (c : Nat) (s : State) : Result :=
  unit (c < 8) (match s.occupant c with
    | none => .next s
    | some k =>
      due (s.works && s.killable k && meMaxRun k.entry != 0 && s.elapsed k.placedAt (usTicks (meMaxRun k.entry))) s (s.killOne k))

/-- CANCEL of a mailbox (R307): begun parts still running are killed, parts not begun count as failed with KILLED [DEDUCED, log entry 19]. -/
def State.cancel (s : State) (m : Nat) : State :=
  if !s.mbxPending m then s
  else
    let ks := s.drover.caravans.filter (fun k => k.mailbox == m && k.begun && !s.overAt k && s.killable k)
    let s := ks.foldl State.killOne s
    let free := whichBelow (s.mbxParts m) (fun p => !s.partTaken m p)
    let s := s.setPartEnds m (s.partEnds m ++ free.map (fun p => ⟨p, stKilled, false, 0, none⟩))
    s.resolve m

/-- A write of QM_MBXm_CFG (R318). -/
def mbxCfgEffect (m v : Nat) (s : State) : State × Nat :=
  let same := bits v 0 18 == bits (s.rword QM_MBXm_CFG m).toNat 0 18
  if s.mbxPending m && !same then (s, stBusError)
  else
    let s := s.rset QM_MBXm_CFG (BitVec.ofNat 64 (bits v 0 18)) m
    (if bitAt v 18 then s.cancel m else s, stOK)

/-- MAILBOX_CANCEL (R307): 1 written to CANCEL together with the current values of the other fields. -/
def execMailboxCancel (src m : Nat) (s : State) : Result :=
  let v := bits (s.rword QM_MBXm_CFG m).toNat 0 18 + 2 ^ 18
  regCmd (m < mailboxCount) s src (regAddr QM_MBXm_CFG m) 4 v (mbxCfgEffect m v)

end Sys2Proof.Machine
end

