-- ==== Sys2Proof/Machine/Time.lean ====
section
/-! DEFINITION. The time unit: the PTP clock and its tick, synchronisation states, triggers, capture inputs and control-cycle timers
(R393 to R409). -/

namespace Sys2Proof.Machine

/-! ### The clock (R393 to R398) -/

/-- Nanoseconds in a second. -/
def nsPerS : Nat := 1_000_000_000

/-- The clock's value in nanoseconds, fraction aside. -/
def Tim.total (t : Tim) : Nat := t.sec * nsPerS + t.ns

/-- The clock advanced by an increment in units of 2^-32 ns (R393). -/
def Tim.advance (t : Tim) (inc : Nat) : Tim :=
  let f := t.frac + inc % 2 ^ 32
  let n := t.ns + inc / 2 ^ 32 + f / 2 ^ 32
  if nsPerS ≤ n then { t with frac := f % 2 ^ 32, ns := n - nsPerS, sec := (t.sec + 1) % 2 ^ 48 }
  else { t with frac := f % 2 ^ 32, ns := n }

/-- The clock with a signed number of nanoseconds added, fraction unchanged (R397) [DEDUCED, log entry 29]. -/
def Tim.stepBy (t : Tim) (d : Int) : Tim :=
  let n : Int := (t.total : Int) + d
  let m : Nat := (n % ((2 ^ 48 * nsPerS : Nat) : Int)).toNat
  { t with sec := m / nsPerS, ns := m % nsPerS }

/-- The clock at the next tick (R396): the result of a waiting SET or STEP, else the advance by the INCREMENT of this tick; the one that
TIM_RATE now holds is in force from the next (R397). Pulses in progress count down [DESIGN CHOICE, log entry 1]. -/
def Tim.tick (t : Tim) (inc : Nat) : Tim :=
  let u := match t.pendingSet, t.pendingStep with
    | some x, _ => { t with sec := x.1, ns := x.2, frac := 0 }
    | none, some d => t.stepBy d
    | none, none => t.advance t.inc
  { u with inc := inc, pendingSet := none, pendingStep := none, trigs := t.trigs.map (fun g => { g with pulseLeft := g.pulseLeft - 1 }) }

/-- One tick of 8 ns: the reference counts; the PTP clock advances while its clock runs (R393, R395, R490) [DESIGN CHOICE, log entry 1]. -/
def State.tick (s : State) : State :=
  let s := { s with refTick := s.refTick + 1 }
  if s.up then { s with tim := s.tim.tick (s.fget TIM_RATE_INCREMENT) } else s

/-- Whether the time may be written: not in HOLDOVER (R402). -/
def State.timeOpen (s : State) : Bool := s.fget TIM_STATUS_STATE != 2

/-- The watchdog starts again (R401). -/
def State.kick (s : State) : State := { s with tim := { s.tim with watchStart := s.refTick } }

/-- A write of TIM_SET_S (R397, R402). -/
def timeSetSEffect (v : Nat) (s : State) : State × Nat :=
  if !s.timeOpen then (s, stBusError) else (s.fset TIM_SET_S_SECONDS v, stOK)

/-- A write of TIM_SET_NS (R397, R402). -/
def timeSetEffect (ns : Nat) (s : State) : State × Nat :=
  if !s.timeOpen ∨ nsPerS ≤ ns % 2 ^ 30 then (s, stBusError)
  else ({ s with tim := { s.tim with pendingSet := some (s.fget TIM_SET_S_SECONDS, ns % 2 ^ 30), pendingStep := none } }, stOK)

/-- A write of TIM_STEP (R397, R401, R402). -/
def timeStepEffect (v : Nat) (s : State) : State × Nat :=
  if !s.timeOpen then (s, stBusError)
  else
    let s := s.kick
    ({ s with tim := { s.tim with pendingStep := some (sext 40 v), pendingSet := none } }, stOK)

/-- INCREMENT as stored (R394). -/
def clampIncrement (v : Nat) : Nat := max 0x7_F000_0000 (min 0x8_1000_0000 (v % 2 ^ 40))

/-- A write of TIM_RATE (R394, R397, R401, R402). -/
def timeRateEffect (v : Nat) (s : State) : State × Nat :=
  if !s.timeOpen then (s, stBusError) else (s.kick.fset TIM_RATE_INCREMENT (clampIncrement v), stOK)

/-- A write of TIM_KICK (R401). -/
def timeKickEffect (v : Nat) (s : State) : State × Nat := (if bitAt v 0 then s.kick else s, stOK)

/-- TIME_SET (R397). -/
def execTimeSet (src ns : Nat) (s : State) : Result :=
  regCmd true s src (regAddr TIM_SET_NS) 4 (wrap 32 ns) (timeSetEffect (wrap 32 ns))

/-- TIME_STEP (R397). -/
def execTimeStep (src v : Nat) (s : State) : Result :=
  regCmd true s src (regAddr TIM_STEP) 8 (wrap 40 v) (timeStepEffect (wrap 40 v))

/-- TIME_RATE_WRITE (R394). -/
def execTimeRateWrite (src v : Nat) (s : State) : Result :=
  regCmd true s src (regAddr TIM_RATE) 8 (wrap 40 v) (timeRateEffect (wrap 40 v))

/-- TIME_KICK (R401). -/
def execTimeKick (src : Nat) (s : State) : Result := regCmd true s src (regAddr TIM_KICK) 4 1 (timeKickEffect 1)

/-! ### Synchronisation states (R401, R402) -/

/-- TIM_CTRL.LOCK [DEDUCED, log entry 29]. -/
def State.timLock (s : State) : State := if s.fget TIM_STATUS_STATE = 0 then (s.fset TIM_STATUS_STATE 1).kick else s

/-- TIM_CTRL.HOLD. -/
def State.timHold (s : State) : State := if s.fget TIM_STATUS_STATE = 1 then s.enterHoldover else s

/-- TIM_CTRL.RELEASE. -/
def State.timRelease (s : State) : State :=
  if s.fget TIM_STATUS_STATE = 2 then (s.fset TIM_STATUS_STATE 0).fset TIM_STATUS_HOLDOVER 0 else s

/-- A write of TIM_CTRL: the timeout is stored, and the events act in the order LOCK, HOLD, RELEASE (log entry 7). -/
def timCtrlEffect (v : Nat) (s : State) : State × Nat :=
  let s := s.fset TIM_CTRL_SYNC_TIMEOUT_MS (bits v 16 16)
  let s := if bitAt v 0 then s.timLock else s
  let s := if bitAt v 1 then s.timHold else s
  (if bitAt v 2 then s.timRelease else s, stOK)

/-- The value of a TIM_CTRL write that sets one event bit and leaves the timeout as it is. -/
def State.timCtrlValue (s : State) (bit : Nat) : Nat := s.fget TIM_CTRL_SYNC_TIMEOUT_MS * 2 ^ 16 + bit

/-- TIM_LOCK (R401). -/
def execTimLock (src : Nat) (s : State) : Result :=
  regCmd true s src (regAddr TIM_CTRL) 4 (s.timCtrlValue 1) (timCtrlEffect (s.timCtrlValue 1))

/-- TIM_HOLD (R401). -/
def execTimHold (src : Nat) (s : State) : Result :=
  regCmd true s src (regAddr TIM_CTRL) 4 (s.timCtrlValue 2) (timCtrlEffect (s.timCtrlValue 2))

/-- TIM_RELEASE (R401). -/
def execTimRelease (src : Nat) (s : State) : Result :=
  regCmd true s src (regAddr TIM_CTRL) 4 (s.timCtrlValue 4) (timCtrlEffect (s.timCtrlValue 4))

/-- SYNC_TIMEOUT (R401). -/
def execSyncTimeout (s : State) : Result :=
  let ms := s.fget TIM_CTRL_SYNC_TIMEOUT_MS
  due (s.up && s.fget TIM_STATUS_STATE == 1 && ms != 0 && s.elapsed s.tim.watchStart (msTicks ms)) s s.enterHoldover

/-- HOLDOVER_MS (R402). -/
def State.holdoverMs (s : State) : Nat :=
  if s.fget TIM_STATUS_STATE = 2 then (s.refTick - s.tim.holdStart) / 125000 else 0

/-- A read of TIM_NOW_S (R398). -/
def timeNowRead (src : Nat) (s : State) : State × Nat :=
  ({ s with tim := { s.tim with latches := AMap.set s.tim.latches src (s.tim.ns, s.tim.frac / 2 ^ 16) } }, s.tim.sec)

/-- The value of TIM_NOW_NS on a path (R398). -/
def State.timeNowNs (s : State) (src : Nat) : Nat :=
  match AMap.get? s.tim.latches src with
  | some l => l.1 + l.2 * 2 ^ 32
  | none => 0

/-- TIME_NOW_READ (R398). -/
def execTimeNowRead (src : Nat) (s : State) : Result := readCmd true s src (regAddr TIM_NOW_S) (timeNowRead src)

/-! ### Target sequences (R403 to R405) -/

/-- A target sequence: START in nanoseconds, PERIOD_NS, COUNT. -/
structure Targets where
  start : Nat
  period : Nat
  count : Nat
  deriving DecidableEq, Repr

/-- Number of targets; `none` without end. -/
def Targets.limit (t : Targets) : Option Nat := if t.period = 0 then some 1 else if t.count = 0 then none else some t.count

/-- Target `k`. -/
def Targets.at (t : Targets) (k : Nat) : Nat := t.start + k * t.period

/-- Whether target `k` exists. -/
def Targets.has (t : Targets) (k : Nat) : Bool := t.limit.elim true (fun n => decide (k < n))

/-- First target after time `now`, from target `k + 1` on. -/
def Targets.after (t : Targets) (k now : Nat) : Nat :=
  if t.period = 0 then k + 1
  else
    let m := max (k + 1) (if now < t.start then 0 else (now - t.start) / t.period + 1)
    t.limit.elim m (fun n => min m n)

/-- Whether the next target has come (R403). -/
def State.targetDue (s : State) (t : Targets) (k : Nat) : Bool := t.has k && decide (t.at k ≤ s.tim.total)

/-- Whether a firing at the present time is late: one INCREMENT or more after its target (R405). -/
def State.targetLate (s : State) (t : Targets) (k : Nat) : Bool :=
  decide (t.at k * 2 ^ 32 + s.tim.inc ≤ s.tim.total * 2 ^ 32 + s.tim.frac)

/-- The target after a firing at target `k`, and how many it skips (R405). -/
def State.nextTarget (s : State) (t : Targets) (k : Nat) : Nat × Nat :=
  if s.targetLate t k then (t.after k s.tim.total, t.after k s.tim.total - (k + 1)) else (k + 1, 0)

/-! ### Triggers (R403 to R406) -/

def State.trig (s : State) (n : Nat) : Trig := s.tim.trigs.getD n Trig.empty

/-- Changes a trigger output. -/
def State.modTrig (s : State) (n : Nat) (g : Trig → Trig) : State := { s with tim := { s.tim with trigs := modAt s.tim.trigs n g } }

/-- The targets of a trigger. -/
def State.trigTargets (s : State) (n : Nat) : Targets :=
  ⟨s.fget TIM_TRIGn_START_S_SECONDS n * nsPerS + s.fget TIM_TRIGn_START_NS_NS n, s.fget TIM_TRIGn_PERIOD_PERIOD_NS n,
    s.fget TIM_TRIGn_CFG_COUNT n⟩

/-- Ticks of a pulse. -/
def pulseTicks (ns : Nat) : Nat := ceilDiv ns 8

/-- The inactive level of a trigger by its configuration. -/
def State.inactive (s : State) (n : Nat) : Bool := !s.fbit TIM_TRIGn_CFG_ACTIVE_HIGH n

/-- The output goes to its inactive level unless a pulse is in progress or the fold's SAFE level holds it (R406). -/
def State.settleTrig (s : State) (n : Nat) : State :=
  s.modTrig n (fun g => if g.pulsing || g.safe then g else { g with level := s.inactive n })

/-- A write of TIM_TRIGn_CFG (R404, R406): arming restarts the sequence at target 0 and lifts the SAFE level; it is refused
outside RUN, since the fold disarms (R437) [DEDUCED, log entry 28]. -/
def trigCfgEffect (n v : Nat) (s : State) : State × Nat :=
  let a := regAddr TIM_TRIGn_CFG n
  let armed := s.fbit TIM_TRIGn_CFG_ARM n
  let others := 2 ^ 64 - 1 - 0xF9
  let changed := (v &&& others) != ((s.rword TIM_TRIGn_CFG n).toNat &&& others)
  let pulse := bits v 8 24
  let period := s.fget TIM_TRIGn_PERIOD_PERIOD_NS n
  let badArm := pulse < 8 || (period != 0 && decide (period ≤ pulseTicks pulse * 8)) || !s.inRun
  if armed && changed then (s, stBusError)
  else if bitAt v 0 && badArm then (s, stBusError)
  else
    let s := s.plainWrite a v
    if bitAt v 0 then
      (if armed then s else (s.modTrig n (fun g => { g with next := 0, safe := false })).settleTrig n, stOK)
    else (s.settleTrig n, stOK)

/-- A write of START or PERIOD of a trigger or timer: not performed while ARM is 1 (R404, R408). -/
def scheduleEffect (armed : Bool) (a v : Nat) (s : State) : State × Nat :=
  if armed then (s, stBusError) else (s.plainWrite a v, stOK)

/-- TRIGGER_ARM (R404) [DEDUCED, log entry 28]. -/
def execTriggerArm (src n v : Nat) (s : State) : Result :=
  regCmd (n < 8) s src (regAddr TIM_TRIGn_CFG n) 8 (putBits (wrap 64 v) 0 1 1) (trigCfgEffect n (putBits (wrap 64 v) 0 1 1))

/-- TRIGGER_DISARM (R406) [DEDUCED, log entry 28]. -/
def execTriggerDisarm (src n v : Nat) (s : State) : Result :=
  regCmd (n < 8) s src (regAddr TIM_TRIGn_CFG n) 8 (putBits (wrap 64 v) 0 1 0) (trigCfgEffect n (putBits (wrap 64 v) 0 1 0))

/-- Records a skip count and lateness of a firing in STATUS (R405). -/
def State.lateSeen (s : State) (late : Bool) : State := if late then s.fset TIM_STATUS_LATE_SEEN 1 else s

/-- TRIGGER_FIRE (R403, R405). -/
def execTriggerFire (n : Nat) (s : State) : Result :=
  let t := s.trigTargets n
  let k := (s.trig n).next
  let late := s.targetLate t k
  let x := s.nextTarget t k
  let u := s.modTrig n (fun g => { g with
    next := x.1, pulsing := true, pulseLeft := pulseTicks (s.fget TIM_TRIGn_CFG_PULSE_NS n), level := !s.inactive n
    fired := s.refTick + 1 })
  let u := (u.fset TIM_TRIGn_LAST_S_SECONDS s.tim.sec n).fset TIM_TRIGn_LAST_NS_NS s.tim.ns n
  let u := (u.fadd TIM_TRIGn_STATUS_FIRED 1 n).fadd TIM_TRIGn_STATUS_SKIPPED x.2 n
  let u := (if late then u.fadd TIM_TRIGn_STATUS_LATE 1 n else u).lateSeen late
  let u := if t.has x.1 then u else u.fset TIM_TRIGn_CFG_ARM 0 n
  unit (n < 8) (due (s.up && s.fbit TIM_TRIGn_CFG_ARM n && s.targetDue t k && (s.trig n).fired != s.refTick + 1) s u)

/-- TRIGGER_PULSE_END (R403). -/
def execTriggerPulseEnd (n : Nat) (s : State) : Result :=
  unit (n < 8) (due (s.up && (s.trig n).pulsing && (s.trig n).pulseLeft == 0) s
    ((s.modTrig n (fun g => { g with pulsing := false })).settleTrig n))

/-- Ration class of timer pushes (R277). -/
def timerClass : Nat := 15

/-- Whether transactions on hold are a timer's push. -/
def HeldOp.isPush : HeldOp → Bool
  | .push _ => true
  | _ => false

/-- The fold's part in the time unit (R406, R408, R437): SAFE levels, every trigger and timer disarmed. -/
def State.foldTime (s : State) : State :=
  let s := (List.range 8).foldl (fun s n =>
    (s.fset TIM_TRIGn_CFG_ARM 0 n).modTrig n (fun g => { g with
      pulsing := false, pulseLeft := 0, level := s.fbit TIM_TRIGn_CFG_SAFE_HIGH n, safe := true })) s
  let s := (List.range 16).foldl (fun s k => s.fset TIM_CTk_CFG_ARM 0 k) s
  { s with ration := { s.ration with held := modAt s.ration.held timerClass (·.filter (fun h => !h.op.isPush)) } }

/-! ### Control-cycle timers (R408) -/

/-- The targets of a timer. -/
def State.timerTargets (s : State) (k : Nat) : Targets :=
  ⟨s.fget TIM_CTk_START_S_SECONDS k * nsPerS + s.fget TIM_CTk_START_NS_NS k, s.fget TIM_CTk_SCHED_PERIOD_NS k,
    s.fget TIM_CTk_SCHED_COUNT k⟩

/-- A write of TIM_CTk_CFG (R404, R408) [DEDUCED, log entry 28]. -/
def timerCfgEffect (k v : Nat) (s : State) : State × Nat :=
  let armed := s.fbit TIM_CTk_CFG_ARM k
  let others := 0xFFFF_0003_FFFE
  let changed := (v &&& others) != ((s.rword TIM_CTk_CFG k).toNat &&& others)
  if armed && changed then (s, stBusError)
  else if bitAt v 0 && !s.inRun then (s, stBusError)
  else
    let s := s.plainWrite (regAddr TIM_CTk_CFG k) v
    if bitAt v 0 && !armed then ({ s with tim := { s.tim with timerNext := s.tim.timerNext.set k 0 } }, stOK) else (s, stOK)

/-- CONTROL_TIMER_ARM (R408) [DEDUCED, log entry 28]. -/
def execControlTimerArm (src k v : Nat) (s : State) : Result :=
  regCmd (k < 16) s src (regAddr TIM_CTk_CFG k) 8 (putBits (wrap 64 v) 0 1 1) (timerCfgEffect k (putBits (wrap 64 v) 0 1 1))

/-- The 64 bytes of a timer's template as a number. -/
def State.template (s : State) (k : Nat) : Nat :=
  (List.range 8).foldl (fun d w => d + (s.rword TIM_CTk_DATAw k w).toNat * 2 ^ (64 * w)) 0

/-- The descriptor a timer pushes: CARAVAN_ID + 16 × FIRED in bytes 16–19 (R408). -/
def State.timerDesc (s : State) (k : Nat) : Nat :=
  let d := s.template k
  putBits d 128 32 (dbytes d 16 4 + 16 * s.fget TIM_CTk_STATUS_FIRED k)

/-- What a timer does at a firing, in the order of R408. -/
def State.timerActs (s : State) (k : Nat) : State :=
  let s :=
    if s.fbit TIM_CTk_CFG_PUSH_EN k then
      let r := s.pushDesc (s.fget TIM_CTk_CFG_QUEUE k) (s.timerDesc k)
      if r.2 = stOK then r.1 else (r.1.fadd TIM_CTk_STATUS_REFUSED 1 k).fset TIM_STATUS_TIMER_MISS_SEEN 1
    else s
  let s := if s.fbit TIM_CTk_CFG_TALLY_EN k then s.signal (s.fget TIM_CTk_CFG_TALLY k) 1 else s
  s.fadd TIM_CTk_STATUS_FIRED 1 k

/-- A firing's push charges class 15; where the ration holds it, the firing's acts wait with it (R280, R408) [DEDUCED, log entry 29]. -/
def State.timerPush (s : State) (k : Nat) : State :=
  if s.fbit TIM_CTk_CFG_PUSH_EN k then s.chargeFor timerClass 1 (.push k) (fun s => s.timerActs k) else s.timerActs k

/-- CONTROL_TIMER_FIRE (R408). -/
def execControlTimerFire (k : Nat) (s : State) : Result :=
  let t := s.timerTargets k
  let j := s.tim.timerNext.getD k 0
  let x := s.nextTarget t j
  let u := { s with tim := { s.tim with timerNext := s.tim.timerNext.set k x.1, timerFired := s.tim.timerFired.set k (s.refTick + 1) } }
  let u := (u.lateSeen (s.targetLate t j)).fadd TIM_CTk_STATUS_SKIPPED x.2 k
  let u := u.timerPush k
  let u := if t.has x.1 then u else u.fset TIM_CTk_CFG_ARM 0 k
  unit (k < 16) (due (s.up && s.fbit TIM_CTk_CFG_ARM k && s.targetDue t j && s.tim.timerFired.getD k 0 != s.refTick + 1) s u)

/-! ### Capture inputs (R407) -/

/-- Stamps held by a capture input. -/
def State.capFifo (s : State) (n : Nat) : List CapStamp := s.tim.caps.getD n []

/-- Replaces a capture FIFO; FILL follows. -/
def State.setCap (s : State) (n : Nat) (l : List CapStamp) : State :=
  ({ s with tim := { s.tim with caps := s.tim.caps.set n l } }).fset TIM_CAPn_STATUS_FILL l.length n

/-- Whether an edge is of the selected kind. -/
def State.capSelects (s : State) (n : Nat) (rising : Bool) : Bool :=
  s.fbit TIM_CAPn_CFG_ENABLE n && bitAt (s.fget TIM_CAPn_CFG_EDGE n) (if rising then 0 else 1)

/-- CAPTURE_EDGE (R407): the stamp is T less 16 ns. -/
def execCaptureEdge (n : Nat) (rising : Bool) (s : State) : Result :=
  let u := s.tim.stepBy (-16)
  let l := s.capFifo n
  let t :=
    if 16 ≤ l.length then (s.fadd TIM_CAPn_STATUS_LOST 1 n).fset TIM_CAPn_STATUS_OVF_SEEN 1 n
    else
      let t := s.setCap n (l ++ [⟨u.sec, u.ns, rising⟩])
      if s.fbit TIM_CAPn_CFG_TALLY_EN n then t.signal (s.fget TIM_CAPn_CFG_TALLY n) 1 else t
  unit (n < 4) (due (s.up && s.capSelects n rising) s t)

/-- A read of TIM_CAPn_POP_S (R409). -/
def capPopRead (n : Nat) (s : State) : State × Nat :=
  match s.capFifo n with
  | [] => (s, 0)
  | e :: l => ((s.setCap n l).fset TIM_CAPn_POP_NS_NS e.ns n, e.sec + b2n e.rising * 2 ^ 48 + 2 ^ 49)

/-- CAPTURE_POP (R409). -/
def execCapturePop (src n : Nat) (s : State) : Result := readCmd (n < 4) s src (regAddr TIM_CAPn_POP_S n) (capPopRead n)

end Sys2Proof.Machine
end

