-- ==== Sys2Proof/Machine/Eth.lean ====
section
/-! DEFINITION. Ethernet ports and the outer side of the HMP engine: reception, MACsec, Qci, sequence recovery, sessions, the sequence rule,
responses, transmission, Qbv, the last word, PTP frames and MDIO (R360 to R375, R386 to R392, R400). -/

namespace Sys2Proof.Machine

/-! ### Ports (R360, R361, R391, R392) -/

def State.ethPort (s : State) (p : Nat) : EthPort := s.eth.getD p EthPort.empty
def State.modEth (s : State) (p : Nat) (g : EthPort → EthPort) : State := { s with eth := modAt s.eth p g }
def State.modHmp (s : State) (g : Hmp → Hmp) : State := { s with hmp := g s.hmp }

/-- Number of the management port. -/
def mgtPort : Nat := 2

/-- Whether a port receives. -/
def State.portOn (s : State) (p : Nat) : Bool :=
  if p < 2 then s.fbit ETHn_CTRL_ENABLE p && s.fbit ETHn_STATUS_LINK_UP p else s.fbit MGT_CTRL_ENABLE

/-- Whether a port sends. -/
def State.portSends (s : State) (p : Nat) : Bool := s.portOn p && (p < 2 || s.fbit MGT_CTRL_LINK)

def State.jumbo (s : State) (p : Nat) : Bool := p < 2 && s.fbit ETHn_CTRL_JUMBO p

/-- MAX_PAYLOAD of a port (R369). -/
def State.maxPayload (s : State) (p : Nat) : Nat := if s.jumbo p then 8208 else 1040

/-- Bytes of a frame on the wire, FCS included. -/
def frameLen (f : EthFrame) : Nat :=
  16 + (if f.vlan.isSome then 4 else 0) + (if f.rtag.isSome then 6 else 0) +
    (if f.sectag.isSome then 32 else 2) + f.payload.length

/-- Counts a frame that the port drops under R361 or R362. -/
def State.rxDrop (s : State) (p : Nat) : State :=
  if p < 2 then s.fadd ETHn_RX_DROPPED_COUNT 1 p else s.fadd MGT_RX_DROPPED_COUNT 1

/-- Counts a frame that the MAC drops (R361). -/
def State.rxError (s : State) (p : Nat) : State :=
  if p < 2 then s.fadd ETHn_RX_ERRORS_COUNT 1 p else s.fadd MGT_RX_DROPPED_COUNT 1

/-- Bytes that a frame to send takes on the wire with preamble, addresses, FCS and the padding to 64 bytes. -/
def TxFrame.wireBytes (f : TxFrame) : Nat :=
  8 + max 64 (18 + f.tag.elim 0 (fun _ => 4) + f.rtag.elim 0 (fun _ => 6) + f.sectag.elim 0 (fun _ => 32) + f.head.length + f.bytes.length)

/-- Tenths of a nanosecond that a port takes for a byte, by MODE or SPEED (R360). -/
def State.byteTime (s : State) (p : Nat) : Nat :=
  if p < 2 then [8, 32, 80].getD (s.fget ETHn_CTRL_MODE p) 80 else [8000, 800, 80].getD (s.fget MGT_CTRL_SPEED) 80

/-- Counts a sent frame and keeps it as the port's last, with the tick at which it has left [DEDUCED, log entry 61]. -/
def State.txSent (s : State) (p : Nat) (f : TxFrame) : State :=
  let s := if p < 2 then s.fadd ETHn_TX_FRAMES_COUNT 1 p else s.fadd MGT_TX_FRAMES_COUNT 1
  s.modEth p (fun e => { e with lastTx := some f, txUntil := s.refTick + ceilDiv (f.wireBytes * s.byteTime p) 80 })

/-! ### MACsec (R365 to R368) -/

/-- The SAK of a transmit SA. -/
def State.txKey (s : State) (p a : Nat) : Nat :=
  (List.range 4).foldl (fun k w => k + (s.rword ETHn_MACSEC_TXa_KEYw p a w).toNat * 2 ^ (64 * w)) 0

/-- The SAK of a receive SA. -/
def State.rxKey (s : State) (p c a : Nat) : Nat :=
  (List.range 4).foldl (fun k w => k + (s.rword ETHn_MACSEC_RXc_Aa_KEYw p c a w).toNat * 2 ^ (64 * w)) 0

/-- Bytes of a frame that MACsec secures: tags, EtherType and what follows. -/
def TxFrame.inner (f : TxFrame) : List Byte :=
  f.tag.elim [] (fun t => beBytes 2 0x8100 ++ beBytes 2 t) ++ f.rtag.elim [] (fun r => beBytes 2 0xF1C1 ++ beBytes 4 r) ++
  beBytes 2 f.etherType ++ f.head ++ f.bytes

/-- The bytes of a SecTAG: SC set, ES and SCB clear, E and C by confidentiality, the short length of `n` secured bytes (R365). -/
def secTagBytes (an pn sci : Nat) (encrypt : Bool) (n : Nat) : List Byte :=
  beBytes 2 0x88E5 ++ beBytes 1 (0x20 + 0x0C * b2n encrypt + an % 4) ++ beBytes 1 (if n < 48 then n else 0) ++ beBytes 4 pn ++ beBytes 8 sci

/-- The ICV of secured bytes: addresses and SecTAG are additional data, and without confidentiality so are the bytes themselves (R365)
[DEDUCED, log entry 54]. -/
def macsecIcv (key sci pn an da sa : Nat) (encrypt : Bool) (secured : List Byte) : Nat :=
  let aad := beBytes 6 da ++ beBytes 6 sa ++ secTagBytes an pn sci encrypt secured.length
  let iv := sci * 2 ^ 32 + pn
  if encrypt then gcmTag key iv aad secured else gcmTag key iv (aad ++ secured) []

/-- Bytes under confidentiality, which protects and opens alike (R365). -/
def macsecText (key sci pn : Nat) (encrypt : Bool) (b : List Byte) : List Byte :=
  if encrypt then gcmCrypt key (sci * 2 ^ 32 + pn) b else b

/-- The transmit SA in use can be used: it is in use and its PN has not passed the last [DEDUCED, log entry 54]. -/
def State.saUsable (s : State) (p : Nat) : Bool :=
  let a := s.fget ETHn_MACSEC_CTRL_TX_AN p
  s.fbit ETHn_MACSEC_TXa_PN_IN_USE p a && s.fget ETHn_MACSEC_TXa_PN_NEXT_PN p a != 0

/-- Sends a frame under the transmit SA in use: its PN advances, and at the threshold the interrupt is raised (R367) [DEDUCED, log entry 54]. -/
def State.txSecured (s : State) (p : Nat) (f : TxFrame) : State :=
  let a := s.fget ETHn_MACSEC_CTRL_TX_AN p
  let pn := s.fget ETHn_MACSEC_TXa_PN_NEXT_PN p a
  let sci := s.fget ETHn_MACSEC_TX_SCI_SCI p
  let enc := s.fbit ETHn_MACSEC_CTRL_ENCRYPT p
  let b := macsecText (s.txKey p a) sci pn enc f.inner
  let s := s.fset ETHn_MACSEC_TXa_PN_NEXT_PN (pn + 1) p a
  let s := if pn + 1 = 0xC000_0000 then (s.fset ETHn_STATUS_PN_THRESHOLD_SEEN 1 p).irq SYS_IRQ_PENDING_MACSEC else s
  s.txSent p { f with head := [], bytes := b, sectag := some ⟨a, pn, sci, enc, macsecIcv (s.txKey p a) sci pn a f.da s.fuses.mac enc b⟩ }

/-- A frame whose SA has no PN left is dropped (R367) [DEDUCED, log entry 54]. -/
def State.txExhausted (s : State) (p : Nat) : State :=
  ((s.fadd ETHn_TX_DROPPED_COUNT 1 p).fset ETHn_STATUS_PN_EXHAUSTED_SEEN 1 p).irq SYS_IRQ_PENDING_MACSEC

/-- Two tags and an EtherType at the start of secured bytes: VLAN, R-TAG, EtherType, rest. -/
def parseInner (b : List Byte) : Option Nat × Option Nat × Nat × List Byte :=
  let et (b : List Byte) : Nat := beVal (b.take 2)
  let v : Option Nat × List Byte := if et b = 0x8100 then (some (beVal (slice b 2 2)), b.drop 4) else (none, b)
  let r : Option Nat × List Byte := if et v.2 = 0xF1C1 then (some (beVal (slice v.2 4 2)), v.2.drop 6) else (none, v.2)
  (v.1, r.1, et r.2, r.2.drop 2)

/-- A frame with a SecTAG, as it stands inside: none where it names an unknown SC or an SA not in use, or fails the replay check or its
ICV [DEDUCED, log entry 54]. -/
def State.macsecOpen (s : State) (p : Nat) (f : EthFrame) (t : SecTag) : State × Option EthFrame :=
  match (List.range 8).find? (fun c => s.fget ETHn_MACSEC_RXc_SCI_SCI p c == t.sci) with
  | none => (s, none)
  | some c =>
    let low := s.fget ETHn_MACSEC_RXc_Aa_PN_LOWEST_PN p c t.an
    let sa := 4 * c + t.an
    if !s.fbit ETHn_MACSEC_RXc_Aa_PN_IN_USE p c t.an ∨ 4 ≤ t.an ∨ t.pn < low ∨ (s.ethPort p).rxSpent.contains sa then (s, none)
    else if macsecIcv (s.rxKey p c t.an) t.sci t.pn t.an f.da f.sa t.encrypted f.payload ≠ t.icv then (s, none)
    else
      let x := parseInner (macsecText (s.rxKey p c t.an) t.sci t.pn t.encrypted f.payload)
      let next := max low (t.pn + 1 - s.fget ETHn_MACSEC_WINDOW_REPLAY_WINDOW p)
      let s := s.fset ETHn_MACSEC_RXc_Aa_PN_LOWEST_PN next p c t.an
      let s := if next < 2 ^ 32 then s else s.modEth p (fun e => { e with rxSpent := sa :: e.rxSpent })
      (s, some { f with vlan := x.1, rtag := x.2.1, sectag := none, etherType := x.2.2.1, payload := x.2.2.2 })

/-! ### Qci (R363) -/

/-- Whether an enabled filter names a multicast address (R362). -/
def State.qciNames (s : State) (p da : Nat) : Bool :=
  bitAt da 40 && p < 2 && (List.range 64).any (fun i => s.fbit ETHn_QCI_Fi_ENABLE p i && s.fget ETHn_QCI_Fi_DA p i == da)

/-- The enabled filter that a frame matches [DESIGN CHOICE, log entry 55]. -/
def State.qciFilter (s : State) (p da vid : Nat) : Option Nat :=
  (List.range 64).find? (fun i =>
    s.fbit ETHn_QCI_Fi_ENABLE p i && s.fget ETHn_QCI_Fi_DA p i == da && s.fget ETHn_QCI_Fi_VID p i == vid)

/-- The meter of a filter: whether a frame of `n` bytes passes. A bucket starts full [DESIGN CHOICE, log entry 55]. -/
def State.qciMeter (s : State) (p i n : Nat) : State × Bool :=
  let cir := s.fget ETHn_QCI_Mi_CIR_MBPS p i
  if cir = 0 then (s, true)
  else
    let cap := s.fget ETHn_QCI_Mi_CBS_B p i * 8000
    let old := (AMap.get? (s.ethPort p).meters i).getD (cap, s.refTick)
    let have_ := min cap (old.1 + 8 * cir * (s.refTick - old.2))
    let ok := decide (8000 * n ≤ have_)
    (s.modEth p (fun e => { e with meters := AMap.set e.meters i (if ok then have_ - 8000 * n else have_, s.refTick) }), ok)

/-! ### Sequence recovery (R363, R364) -/

/-- The vector algorithm on one stream for sequence number `q` with history length `h`: the stream after it, and whether the frame
passes [DEDUCED, log entry 56]. -/
def CbStream.step (x : CbStream) (h q now : Nat) : CbStream × Bool :=
  if x.fresh then ({ x with fresh := false, recov := q, history := 1, tick := now }, true)
  else
    let d := (q + 65536 - x.recov) % 65536
    let x := { x with tick := now }
    if d = 0 ∨ 32768 ≤ d then
      let back := (65536 - d) % 65536
      if h ≤ back ∨ bitAt x.history back then (x, false) else ({ x with history := x.history ||| 2 ^ back }, true)
    else if h ≤ d then (x, false)
    else ({ x with recov := q, history := (x.history * 2 ^ d + 1) % 2 ^ h }, true)

/-- Sequence recovery of a received HMP frame with an R-TAG: whether it passes. A stream beyond the 64th is not recovered
[DEDUCED, log entry 56]. -/
def State.cbRecover (s : State) (mac vid q : Nat) : State × Bool :=
  let h := s.fget HMP_CFG_CB_HISTORY + 1
  match s.hmp.cb.findIdx? (fun x => x.mac == mac && x.vid == vid) with
  | some i =>
    match s.hmp.cb[i]? with
    | none => (s, true)
    | some x =>
      let r := x.step h q s.refTick
      (s.modHmp (fun m => { m with cb := m.cb.set i r.1 }), r.2)
  | none =>
    if 64 ≤ s.hmp.cb.length then (s, true)
    else (s.modHmp (fun m => { m with cb := m.cb ++ [⟨mac, vid, false, q, 1, s.refTick⟩] }), true)

/-- CB_RECOVERY_RESET (R363). -/
def execCbRecoveryReset (p i : Nat) (s : State) : Result :=
  unit (p < 2 && i < 64) (match s.hmp.cb[i]? with
    | none => .next s
    | some x => due (s.up && !x.fresh && s.elapsed x.tick (msTicks 100)) s (s.modHmp (fun m => { m with cb := m.cb.set i { x with fresh := true } })))

/-! ### Sending (R362, R364, R369, R370) -/

/-- Whether the link of a port is up: MGT's by software (R391, R392). -/
def State.linkUp (s : State) (p : Nat) : Bool := if p < 2 then s.fbit ETHn_STATUS_LINK_UP p else s.fbit MGT_CTRL_LINK

/-- Puts a frame at the end of a port's queue; where the link is down it is dropped (R387) [DEDUCED, log entry 57]. -/
def State.enqueueTx (s : State) (p : Nat) (f : TxFrame) : State :=
  if s.linkUp p then s.modEth p (fun e => { e with txq := e.txq ++ [f] }) else s

/-- The tag of HMP frames with a priority: HMP_CFG.TC for responses, HMP_VLAN.PCP for the last word (R362, R363, R390)
[DEDUCED, log entry 57]. -/
def State.hmpTag (s : State) (pcp : Nat) : Option Nat :=
  let v := s.fget HMP_VLAN_VID
  if v = 0 then none else some (pcp * 8192 + v)

/-- One's-complement sum of 16-bit words. -/
def sum16 : List Byte → Nat
  | [] => 0
  | [a] => a.toNat * 256
  | a :: b :: l => a.toNat * 256 + b.toNat + sum16 l

/-- A sum folded to 16 bits with its carries. -/
def fold16 (x : Nat) : Nat :=
  let y := x % 65536 + x / 65536
  (y % 65536 + y / 65536) % 65536

/-- The checksum of bytes, their checksum field being 0. -/
def checksum16 (b : List Byte) : Nat := 65535 - fold16 (sum16 b)

/-- A UDP header from port 47,160 to a port, its checksum over a pseudo-header and the datagram; one of 0 is sent as 65,535 (R362, R369). -/
def udpHeader (pseudo : Nat → List Byte) (port : Nat) (d : List Byte) : List Byte :=
  let n := 8 + d.length
  let h := beBytes 2 47160 ++ beBytes 2 port ++ beBytes 2 n
  let c := checksum16 (pseudo n ++ h ++ [0, 0] ++ d)
  h ++ beBytes 2 (if c = 0 then 65535 else c)

/-- The IPv4 and UDP headers of a datagram: service, identification, the don't-fragment bit and hop count are open, as `free`
(R362) [DESIGN CHOICE, log entry 89]. -/
def ip4Header (own addr port free : Nat) (d : List Byte) : List Byte :=
  let ends := beBytes 4 own ++ beBytes 4 addr
  let a := beBytes 1 0x45 ++ beBytes 1 (bits free 0 8) ++ beBytes 2 (28 + d.length) ++ beBytes 2 (bits free 8 16) ++
    beBytes 2 (bits free 24 1 * 0x4000) ++ beBytes 1 (bits free 25 8) ++ beBytes 1 17
  a ++ beBytes 2 (checksum16 (a ++ [0, 0] ++ ends)) ++ ends ++ udpHeader (fun n => ends ++ [0, 17] ++ beBytes 2 n) port d

/-- The IPv6 and UDP headers of a datagram: traffic class, flow label and hop limit are open, as `free` (R362)
[DESIGN CHOICE, log entry 89]. -/
def ip6Header (own addr port free : Nat) (d : List Byte) : List Byte :=
  let ends := beBytes 16 own ++ beBytes 16 addr
  beBytes 4 (6 * 2 ^ 28 + bits free 0 28) ++ beBytes 2 (8 + d.length) ++ beBytes 1 17 ++ beBytes 1 (bits free 28 8) ++ ends ++
    udpHeader (fun n => ends ++ beBytes 4 n ++ [0, 0, 0, 17]) port d

/-- The part's IPv6 address. -/
def State.ownIp6 (s : State) : Nat := s.fget HMP_IPV6_HI_ADDR * 2 ^ 64 + s.fget HMP_IPV6_LO_ADDR

/-- EtherType and headers of a PDU to a partner. -/
def State.pduHead (s : State) (u : Option (Bool × (Nat × Nat))) (d : List Byte) : State × (Nat × List Byte) :=
  match u with
  | none => (s, (0x88B5, []))
  | some (v6, addr, port) =>
    let x := s.free 36
    (x.2, if v6 then (0x86DD, ip6Header s.ownIp6 addr port x.1 d) else (0x0800, ip4Header (s.fget HMP_IPV4_ADDR) addr port x.1 d))

/-- An R-TAG number for the part's own traffic under CB_MODE. -/
def State.nextRtag (s : State) : State × Option Nat :=
  if s.fbit HMP_CFG_CB_MODE then (s.modHmp (fun m => { m with rtag := (m.rtag + 1) % 65536 }), some s.hmp.rtag) else (s, none)

/-- An HMP header. -/
def hmpHeader (type flags status session seq len gap : Nat) : List Byte :=
  leBytes 1 1 ++ leBytes 1 type ++ leBytes 1 flags ++ leBytes 1 status ++ leBytes 4 session ++ leBytes 4 seq ++ leBytes 2 len ++
  leBytes 2 gap

/-- Sends an HMP PDU to a partner: on the port of arrival, or on ETH0 and ETH1 under CB_MODE (R364, R369) [DEDUCED, log entry 56]. -/
def State.sendPdu (s : State) (whom : Partner) (secured : Bool) (type : Nat) (pdu : List Byte) : State :=
  let h := s.pduHead whom.udp pdu
  let r := h.1.nextRtag
  let tc := s.fget HMP_CFG_TC
  let f : TxFrame := ⟨whom.mac, s.hmpTag tc, r.2, h.2.1, h.2.2, pdu, tc, type, secured, none⟩
  if s.fbit HMP_CFG_CB_MODE then (r.1.enqueueTx 0 f).enqueueTx 1 f else r.1.enqueueTx whom.port f

/-! ### Sessions (R372 to R374) -/

def State.hmpSession (s : State) (k : Nat) : HmpSession := s.hmp.sessions.getD k HmpSession.empty
def State.modSession (s : State) (k : Nat) (g : HmpSession → HmpSession) : State :=
  s.modHmp (fun m => { m with sessions := modAt m.sessions k g })
def State.sessionIsOpen (s : State) (k : Nat) : Bool := s.fbit HMP_SESSIONs_STATE_OPEN k

/-- Closes a session: its replay entries and firmware responses due are discarded [DEDUCED, log entry 57]. -/
def State.closeSession (s : State) (k : Nat) : State :=
  if !s.sessionIsOpen k then s
  else
    let s := (s.fset HMP_SESSIONs_STATE_OPEN 0 k).fset HMP_STATUS_SESSIONS_OPEN (s.fget HMP_STATUS_SESSIONS_OPEN - 1)
    (s.modSession k (fun x => { x with replays := [] })).modHmp (fun m => { m with
      queue := m.queue.filter (fun r => r.slot != some k)
      fw := m.fw.map (fun j => if j.req.slot = some k then { j with req := { j.req with slot := none } } else j) })

/-- Whether TIMEOUT_MS of an open session has passed [DEDUCED, log entry 57]. -/
def State.sessionLate (s : State) (k : Nat) : Bool :=
  s.sessionIsOpen k && s.elapsed (s.hmpSession k).last (msTicks (s.hmpSession k).timeout)

/-- A session whose time has passed closes. -/
def State.expireSession (s : State) (k : Nat) : State := if s.sessionLate k then (s.closeSession k).fadd HMP_EXPIRED_COUNT 1 else s

/-- SESSION_TIMEOUT (R374). -/
def execSessionTimeout (k : Nat) (s : State) : Result := unit (k < 64) (due (s.up && s.sessionLate k) s (s.expireSession k))

/-- A write of HMP_SESSIONs_CTRL (R374). -/
def sessionCtrlEffect (k v : Nat) (s : State) : State × Nat := (if bitAt v 0 then s.closeSession k else s, stOK)

/-- HMP_SESSION_CLOSE_WRITE (R374). -/
def execHmpSessionCloseWrite (src k : Nat) (s : State) : Result :=
  regCmd (k < 64) s src (regAddr HMP_SESSIONs_CTRL k) 4 1 (sessionCtrlEffect k 1)

/-! ### Responses (R370, R375, R376) -/

/-- Keeps a request and its response as a session's replay entry of its number (R375, R376). -/
def State.keepReplay (s : State) (k : Nat) (r : HmpReq) (pdu : List Byte) : State :=
  s.modSession k (fun x => { x with
    replays := (⟨r.seq, r.type, r.payload, if pdu.length ≤ 16 + 1040 then some pdu else none⟩ :: x.replays).take 16 })

/-- Counts of a response that leaves: skipped numbers and repeats (R390). -/
def State.countResponse (s : State) (r : HmpReq) : State :=
  let s := if r.gap = 0 then s else s.fadd HMP_GAPS_COUNT 1
  if r.replayed then s.fadd HMP_REPLAYED_COUNT 1 else s

/-- Answers a request with a status and a payload under a session ID. -/
def State.respondAs (s : State) (r : HmpReq) (session status : Nat) (payload : List Byte) : State :=
  let flags := 1 + 2 * b2n r.replayed + 4 * b2n (r.gap != 0)
  let pdu := hmpHeader r.type flags status session r.seq payload.length (min r.gap 65535) ++ payload
  let s := match r.slot with
    | some k => if r.replayed then s else s.keepReplay k r pdu
    | none => s
  (s.countResponse r).sendPdu r.partner r.secured r.type pdu

/-- Answers a request of a session [DEDUCED, log entry 56]. -/
def State.respond (s : State) (r : HmpReq) (status : Nat) (payload : List Byte) : State := s.respondAs r r.session status payload

/-! ### Reception of a PDU (R371, R373, R375) -/

/-- Whether a type is assigned to requests (R379). -/
def hmpAssigned (t : Nat) : Bool :=
  (1 ≤ t && t ≤ 3) || t == 0x10 || t == 0x11 || t == 0x20 || (0x30 ≤ t && t ≤ 0x32) || (0x40 ≤ t && t ≤ 0x4F)

/-- Whether a request type is served in the fold (R379). -/
def hmpInFold (t : Nat) : Bool := (1 ≤ t && t ≤ 3) || t == 0x10 || t == 0x11 || t == 0x31 || t == 0x32

/-- Little-endian field of a payload. -/
def pl (d : List Byte) (o n : Nat) : Nat := leVal (slice d o n)

/-- Whether a width byte is a width. -/
def isWidth (w : Nat) : Bool := w == 1 || w == 2 || w == 4 || w == 8

/-- Whether a request payload keeps its type's format (R380 to R385). -/
def payloadOk (jumbo : Bool) (t : Nat) (d : List Byte) : Bool :=
  let n := pl d 0 1
  if t = 0x01 then d.length == 8 && pl d 4 4 == 0 && (pl d 0 4 == 0 || (10 ≤ pl d 0 4 && pl d 0 4 ≤ 60_000))
  else if t = 0x02 ∨ t = 0x03 then d.length == 0
  else if t = 0x10 then 1 ≤ n && n ≤ 64 && d.length == 8 + 8 * n && pl d 1 7 == 0 &&
    (List.range n).all (fun i => isWidth (pl d (8 + 8 * i + 6) 1) && pl d (8 + 8 * i + 7) 1 == 0)
  else if t = 0x11 then 1 ≤ n && n ≤ 64 && d.length == 8 + 16 * n && pl d 1 7 == 0 &&
    (List.range n).all (fun i => isWidth (pl d (8 + 16 * i + 6) 1) && pl d (8 + 16 * i + 7) 1 == 0)
  else if t = 0x20 then
    let c := pl d 2 1
    1 ≤ c && c ≤ (if jumbo then 128 else 16) && d.length == 8 + 64 * c && pl d 3 5 == 0
  else if t = 0x30 then d.length == 16 && pl d 0 2 < 4096 && pl d 2 2 == 0 && pl d 14 2 == 0 && pl d 12 2 ≤ (if jumbo then 8192 else 1024)
  else if t = 0x31 then d.length == 8 && 1 ≤ pl d 4 1 && pl d 4 1 ≤ (if jumbo then 64 else 16) && pl d 5 3 == 0
  else if t = 0x32 then d.length == 8 && pl d 6 2 == 0
  else true

/-- Whether a PDU that a port received is well formed (R371). -/
def State.pduOk (s : State) (p : Nat) (b : List Byte) : Bool :=
  let t := pl b 1 1
  let len := pl b 12 2
  16 ≤ b.length && pl b 0 1 == 1 && hmpAssigned t && bits (pl b 2 1) 3 5 == 0 && !bitAt (pl b 2 1) 0 && pl b 3 1 == 0 && pl b 14 2 == 0 &&
    len ≤ s.maxPayload p && 16 + len ≤ b.length && (t != 1 || pl b 4 4 == 0) && payloadOk (s.jumbo p) t (slice b 16 len)

/-- Requests of a type that firmware serves. -/
def isFwType (t : Nat) : Bool := 0x40 ≤ t && t ≤ 0x4F

/-- Whether the firmware ring has no slot for one more request (R386). -/
def State.fwFull (s : State) : Bool :=
  let n := (s.hmp.queue.filter (fun r => isFwType r.type)).length
  let slot := (s.fget HMP_FW_CTRL_NEXT_SLOT + n) % 64
  64 ≤ s.hmp.fw.length + n || s.hmp.fw.any (fun j => j.slot == slot)

/-- Whether a number of a session is still executing. -/
def State.executing (s : State) (k seq : Nat) : Bool :=
  s.hmp.queue.any (fun r => r.slot == some k && r.seq == seq) || s.hmp.fw.any (fun j => j.req.slot == some k && j.req.seq == seq)

/-- Requests of a session accepted in this ration period. -/
def State.acceptedNow (s : State) (k : Nat) : Nat :=
  let x := s.hmpSession k
  if x.period = s.clk.periodStart then x.accepted else 0

/-- Whether a type is a read that a repeat executes again where its response is not kept (R376). -/
def isReadAgain (t : Nat) : Bool := 0x30 ≤ t && t ≤ 0x32

/-- Adds an accepted request to those waiting to execute. -/
def State.queueReq (s : State) (r : HmpReq) : State := s.modHmp (fun m => { m with queue := m.queue ++ [r] })

/-- The sequence rule for a request of an open session (R375) [DEDUCED, log entry 57]. -/
def State.sequence (s : State) (k : Nat) (r : HmpReq) : State :=
  let d := sub32 r.seq (s.fget HMP_SESSIONs_SEQ_EXPECTED k)
  let lim := s.fget HMP_CFG_REQ_LIMIT
  if d < 2 ^ 31 then
    if (lim ≠ 0 ∧ lim ≤ s.acceptedNow k) ∨ (isFwType r.type ∧ s.inRun ∧ s.fwFull) then
      (s.fadd HMP_LIMITED_COUNT 1).fset HMP_STATUS_LIMITED_SEEN 1
    else
      let n := s.acceptedNow k + 1
      let s := s.modSession k (fun x => { x with last := s.refTick, period := s.clk.periodStart, accepted := n })
      (s.fset HMP_SESSIONs_SEQ_EXPECTED (r.seq + 1) k).queueReq { r with gap := d }
  else if s.executing k r.seq then s.fadd HMP_IN_PROGRESS_COUNT 1
  else
    match (s.hmpSession k).replays.find? (fun x => x.seq == r.seq) with
    | none => s.fadd HMP_STALE_COUNT 1
    | some e =>
      match e.kept with
      | some pdu => (s.fadd HMP_REPLAYED_COUNT 1).sendPdu r.partner r.secured e.type (pdu.set 2 (pdu.getD 2 0 ||| 2))
      | none =>
        if isReadAgain e.type then s.queueReq { r with type := e.type, payload := e.payload, replayed := true }
        else s.fadd HMP_STALE_COUNT 1

/-- A PDU that reaches the HMP engine. -/
def State.hmpReceive (s : State) (frm : Partner) (secured : Bool) (b : List Byte) : State :=
  if !s.pduOk frm.port b then (s.fadd HMP_MALFORMED_COUNT 1).fset HMP_STATUS_MALFORMED_SEEN 1
  else
    let id := pl b 4 4
    let r : HmpReq := ⟨none, id, frm, pl b 1 1, pl b 8 4, 0, false, slice b 16 (pl b 12 2), secured,
      s.tim.sec, s.tim.ns, false⟩
    if r.type = 1 then s.queueReq r
    else
      let k := id % 64
      let s := s.expireSession k
      if !s.sessionIsOpen k ∨ s.fget HMP_SESSIONs_STATE_ID k ≠ id ∨ (s.hmpSession k).partner ≠ frm then s.fadd HMP_MISMATCH_COUNT 1
      else s.sequence k { r with slot := some k }

/-! ### Reception of a frame (R361, R362, R364, R368, R400) -/

/-- Whether a UDP checksum is right over its pseudo-header and datagram. -/
def udpSumOk (pseudo dgram : List Byte) : Bool := fold16 (sum16 pseudo + sum16 dgram) == 65535

/-- What an IP packet is to the HMP engine: not for it, dropped by it, or source address, source port and PDU. -/
inductive UdpSort where
  | other
  | dropped
  | pdu (addr port : Nat) (b : List Byte)

/-- An IPv4 packet (R362) [DEDUCED, log entry 57]. -/
def State.sortIp4 (s : State) (b : List Byte) : UdpSort :=
  let ihl := 4 * bits (pl b 0 1) 0 4
  let frag := beVal (slice b 6 2)
  let u := b.drop ihl
  let len := beVal (slice u 4 2)
  if pl b 0 1 / 16 ≠ 4 ∨ pl b 9 1 ≠ 17 ∨ s.fget HMP_IPV4_ADDR = 0 ∨ beVal (slice b 16 4) ≠ s.fget HMP_IPV4_ADDR ∨ frag % 8192 ≠ 0 ∨
      beVal (slice u 2 2) ≠ 47160 then .other
  else if frag / 8192 % 2 = 1 ∨ ihl ≠ 20 ∨ len < 8 ∨ u.length < len then .dropped
  else
    let pseudo := slice b 12 8 ++ [0, 17] ++ slice u 4 2
    if beVal (slice u 6 2) ≠ 0 ∧ !udpSumOk pseudo (u.take len) then .dropped
    else .pdu (beVal (slice b 12 4)) (beVal (u.take 2)) (slice u 8 (len - 8))

/-- Walks extension headers of an IPv6 packet: the last next-header code and the offset it names. -/
def ip6Walk (b : List Byte) : Nat → Nat → Nat → Nat × Nat
  | 0, nh, o => (nh, o)
  | fuel + 1, nh, o =>
    if nh = 0 ∨ nh = 43 ∨ nh = 60 then ip6Walk b fuel (pl b o 1) (o + 8 * (pl b (o + 1) 1 + 1))
    else if nh = 44 then ip6Walk b fuel (pl b o 1) (o + 8)
    else (nh, o)

/-- An IPv6 packet (R362). -/
def State.sortIp6 (s : State) (b : List Byte) : UdpSort :=
  let own := s.ownIp6
  let w := ip6Walk b 8 (pl b 6 1) 40
  let u := b.drop w.2
  let len := beVal (slice u 4 2)
  if pl b 0 1 / 16 ≠ 6 ∨ own = 0 ∨ beVal (slice b 24 16) ≠ own ∨ w.1 ≠ 17 ∨ beVal (slice u 2 2) ≠ 47160 then .other
  else if w.2 ≠ 40 ∨ len < 8 ∨ u.length < len then .dropped
  else
    let pseudo := slice b 8 32 ++ [0, 0] ++ slice u 4 2 ++ [0, 0, 0, 17]
    if !udpSumOk pseudo (u.take len) then .dropped else .pdu (beVal (slice b 8 16)) (beVal (u.take 2)) (slice u 8 (len - 8))

/-- Whether the HMP engine takes frames of a port. -/
def State.hmpPortOn (s : State) (p : Nat) : Bool := if p < 2 then s.fbit ETHn_CTRL_HMP_EN p else s.fbit HMP_CFG_MGT_EN

/-- A frame to the HMP engine: R368 and sequence recovery, then its PDU. -/
def State.toHmp (s : State) (p : Nat) (f : EthFrame) (secured : Bool) (udp : Option (Bool × Nat × Nat)) (b : List Byte) : State :=
  let vid := f.vlan.elim 0 (fun t => t % 4096)
  if !s.hmpPortOn p ∨ !(if udp.isSome then s.fbit HMP_CFG_UDP_EN else s.fbit HMP_CFG_RAW_EN) then s.rxDrop p
  else if p < 2 ∧ s.fbit ETHn_CTRL_REQUIRE_MACSEC p ∧ !secured then s
  else
    let r := match f.rtag with
      | some q => s.cbRecover f.sa vid q
      | none => (s, true)
    if !r.2 then r.1.fadd ETHn_RX_CB_ELIM_COUNT 1 p else r.1.hmpReceive ⟨p, f.sa, vid, udp⟩ secured b

/-- A frame's bytes from destination address onward, without FCS. -/
def frameBytes (f : EthFrame) : List Byte :=
  beBytes 6 f.da ++ beBytes 6 f.sa ++ f.vlan.elim [] (fun t => beBytes 2 0x8100 ++ beBytes 2 t) ++
  f.rtag.elim [] (fun r => beBytes 2 0xF1C1 ++ beBytes 4 r) ++ beBytes 2 f.etherType ++ f.payload

/-- Address of a slot of the PTP rings (R400). -/
def State.ptpSlot (s : State) (i : Nat) : Nat := sharedBase + s.fget TIM_PTP_RING_OFFSET + 256 * i

/-- The clock's value `d` nanoseconds from now, with FNS (R400). -/
def State.stampBytes (s : State) (d : Int) : List Byte :=
  let t := s.tim.stepBy d
  leBytes 6 t.sec ++ leBytes 4 t.ns ++ leBytes 2 (t.frac / 65536)

/-- A received 0x88F7 frame (R400). -/
def State.ptpReceive (s : State) (p : Nat) (f : EthFrame) : State :=
  let b := frameBytes f
  let a := s.ptpSlot s.tim.ptpRx
  if 224 < b.length ∨ bitAt (s.readLE (a + 1) 1) 0 then s.fadd TIM_PTP_DROPPED_COUNT 1
  else
    let rec_ := leBytes 1 p ++ [1] ++ leBytes 2 b.length ++ s.stampBytes (-(s.fget TIM_ETHn_LAT_RX_LAT_NS p : Nat)) ++ List.replicate 16 0
    let s := s.writeBytes a (rec_ ++ b)
    { s with tim := { s.tim with ptpRx := (s.tim.ptpRx + 1) % 64 } }.irq SYS_IRQ_PENDING_PTP_RX

/-- Sorts an accepted frame (R362). -/
def State.sortFrame (s : State) (p : Nat) (f : EthFrame) (secured : Bool) : State :=
  let fw := s.modHmp (fun m => { m with fwRx := m.fwRx ++ [(p, f)] })
  let tagged := f.sectag.isSome || (f.rtag.isSome && p == mgtPort)
  if tagged then fw
  else if f.etherType = 0x88B5 then s.toHmp p f secured none f.payload
  else if f.etherType = 0x0800 ∨ f.etherType = 0x86DD then
    match (if f.etherType = 0x0800 then s.sortIp4 f.payload else s.sortIp6 f.payload) with
    | .other => fw
    | .dropped => if p < 2 then s else s.rxDrop p
    | .pdu addr port b => s.toHmp p f secured (some (f.etherType == 0x86DD, addr, port)) b
  else if f.etherType = 0x88F7 ∧ p < 2 then s.ptpReceive p f
  else fw

/-- An accepted frame through MACsec, the address filter and Qci [DEDUCED, log entry 54]. -/
def State.acceptFrame (s : State) (p : Nat) (f : EthFrame) : State :=
  let secure := p < 2 && s.fbit ETHn_CTRL_MACSEC_EN p && f.sectag.isSome
  let m := match f.sectag with
    | some t => if secure then s.macsecOpen p f t else (s, some f)
    | none => (s, some f)
  match m.2 with
  | none => m.1.fadd ETHn_RX_MACSEC_DROP_COUNT 1 p
  | some g =>
    let s := m.1
    let vid := g.vlan.elim 0 (fun t => t % 4096)
    let flt := if p < 2 then s.qciFilter p g.da vid else none
    if g.da ≠ s.fuses.mac ∧ g.da ≠ 0xFFFF_FFFF_FFFF ∧ !s.qciNames p g.da then s.rxDrop p
    else
      match flt with
      | none => s.sortFrame p g secure
      | some i =>
        let r := s.qciMeter p i (frameLen f)
        if r.2 then r.1.sortFrame p g secure else r.1.fadd ETHn_RX_QCI_DROP_COUNT 1 p

/-- What a port does with a frame (R361). -/
def State.receiveFrame (s : State) (p : Nat) (f : EthFrame) : State :=
  let n := frameLen f
  if !f.good ∨ n < 64 ∨ (if s.jumbo p then 9216 else 1522) < n ∨ f.etherType = 0x8808 then s.rxError p
  else
    let s := if p < 2 then s.fadd ETHn_RX_FRAMES_COUNT 1 p else s.fadd MGT_RX_FRAMES_COUNT 1
    let i := s.injectCheck (0x020 + p) clsU none 0 none
    if i.2 = clsU then i.1 else i.1.acceptFrame p f

/-- ETH_FRAME_RECEIVE (R362). -/
def execEthFrameReceive (p : Nat) (f : EthFrame) (s : State) : Result := unit (p < 3) (due (s.up && s.portOn p) s (s.receiveFrame p f))

/-- ETH_LINK_LOSS (R387). -/
def execEthLinkLoss (p : Nat) (s : State) : Result :=
  let t := ((s.fset ETHn_STATUS_LINK_UP 0 p).fset ETHn_STATUS_LINK_LOST_SEEN 1 p).fset ETHn_STATUS_PREEMPT_ACTIVE 0 p
  unit (p < 2) (due (s.up && s.fbit ETHn_STATUS_LINK_UP p) s (t.modEth p (fun e => { e with txq := [] })))

/-- Verification of preemption: it is performed when a port in use has PREEMPT_EN and its link up, and whether the partner answers it is
a free bit; without them nothing is verified (R363) [DESIGN CHOICE, log entry 55]. -/
def State.verifyPreempt (s : State) (p : Nat) : State :=
  if s.fbit ETHn_CTRL_ENABLE p && s.fbit ETHn_CTRL_PREEMPT_EN p && s.fbit ETHn_STATUS_LINK_UP p then
    if s.fbit ETHn_STATUS_PREEMPT_ACTIVE p then s
    else
      let x := s.free 1
      x.2.fset ETHn_STATUS_PREEMPT_ACTIVE x.1 p
  else s.fset ETHn_STATUS_PREEMPT_ACTIVE 0 p

/-- ETH_LINK_UP (R391). -/
def execEthLinkUp (p : Nat) (s : State) : Result :=
  unit (p < 2) (due (s.up && s.fbit ETHn_CTRL_ENABLE p) s ((s.fset ETHn_STATUS_LINK_UP 1 p).verifyPreempt p))

/-! ### Transmission (R363, R367, R388) -/

/-- Gates of an operational list at a time. -/
def gatesAt (l : List (Nat × Nat)) (t : Nat) : Nat :=
  match l with
  | [] => 0xFF
  | [e] => e.1
  | e :: es => if t < 8 * e.2 then e.1 else gatesAt es (t - 8 * e.2)

/-- Whether a traffic class's gate is open now [DESIGN CHOICE, log entry 55]. -/
def State.gateOpen (s : State) (p tc : Nat) : Bool :=
  if 2 ≤ p || !s.fbit ETHn_CTRL_QBV_EN p then true
  else
    match (s.ethPort p).oper with
    | none => true
    | some g => bitAt (gatesAt g.entries (((s.tim.total : Int) - g.start) % (g.cycle : Int)).toNat) tc

/-- Whether a queued frame can leave now. -/
def State.txReady (s : State) (p : Nat) (f : TxFrame) : Bool :=
  s.gateOpen p f.tc && (!f.secure || s.fbit ETHn_MACSEC_TXa_PN_IN_USE p (s.fget ETHn_MACSEC_CTRL_TX_AN p)) &&
    (s.inRun || 2 ≤ p || (s.hmp.lastWord.elim true (fun w => w.copies == 3) && (hmpInFold f.type || pl f.bytes 3 1 == stContainedFault)))

/-- Whether a port's wire is free: the last frame has left it. -/
def State.wireFree (s : State) (p : Nat) : Bool := (s.ethPort p).txUntil ≤ s.refTick

/-- Index of the frame a port sends next: the highest class first, in order within a class [DESIGN CHOICE, log entry 55]. -/
def State.nextTx (s : State) (p : Nat) : Option Nat :=
  let q := (s.ethPort p).txq
  (List.range q.length).foldl (fun b i =>
    match q[i]? with
    | none => b
    | some f =>
      if !s.txReady p f then b
      else
        match b with
        | none => some i
        | some j => if (q[j]?).elim true (fun g => decide (g.tc < f.tc)) then some i else some j) none

/-- Takes a frame off a port's queue and sends it. -/
def State.transmit (s : State) (p i : Nat) : State :=
  match (s.ethPort p).txq[i]? with
  | none => s
  | some f =>
    let s := s.modEth p (fun e => { e with txq := e.txq.eraseIdx i })
    if !f.secure then s.txSent p f else if s.saUsable p then s.txSecured p f else s.txExhausted p

/-- ETH_FRAME_TRANSMIT (R367). -/
def execEthFrameTransmit (p : Nat) (s : State) : Result :=
  unit (p < 3) (match s.nextTx p with
    | none => .next s
    | some i => due (s.up && s.portSends p && s.wireFree p) s (s.transmit p i))

/-- A write of ETHn_QBV_LEN (R363, R391): a commit of a list whose intervals do not make up its cycle is rejected [DESIGN CHOICE, log entry 55]. -/
def qbvLenEffect (p v : Nat) (s : State) : State × Nat :=
  let s := s.plainWrite (regAddr ETHn_QBV_LEN p) (v % 512)
  if !bitAt v 16 then (s, stOK)
  else
    let len := s.fget ETHn_QBV_LEN_LEN p
    let cycle := s.fget ETHn_QBV_CYCLE_CYCLE_NS p
    let es := (List.range len).map (fun e => (s.fget ETHn_QBV_GCLe_GATES p e, s.fget ETHn_QBV_GCLe_INTERVAL p e))
    if 256 < len ∨ 8 * (es.map (·.2)).sum ≠ cycle ∨ cycle < 1000 ∨ 1_000_000_000 < cycle ∨ es.any (fun e => e.2 == 0) then
      (s.fset ETHn_STATUS_QBV_ERROR_SEEN 1 p, stOK)
    else
      let base := s.fget ETHn_QBV_BASE_SECONDS p * nsPerS + s.fget ETHn_QBV_BASE_NS_NS p
      let now := s.tim.total
      let start := if now ≤ base then base else base + ceilDiv (now - base) cycle * cycle
      (s.modEth p (fun e => { e with admin := some ⟨start, cycle, es⟩ }), stOK)

/-- QBV_COMMIT (R363) [DESIGN CHOICE, log entry 55]. -/
def execQbvCommit (src p v : Nat) (s : State) : Result :=
  regCmd (p < 2) s src (regAddr ETHn_QBV_LEN p) 4 (putBits (wrap 32 v) 16 1 1) (qbvLenEffect p (putBits (wrap 32 v) 16 1 1))

/-- QBV_CYCLE_BOUNDARY (R363). -/
def execQbvCycleBoundary (p : Nat) (s : State) : Result :=
  unit (p < 2) (match (s.ethPort p).admin with
    | none => .next s
    | some g => due (s.up && decide (g.start ≤ s.tim.total)) s
        ((s.fset ETHn_STATUS_QBV_OPER 1 p).modEth p (fun e => { e with admin := none, oper := some g })))

/-! ### The last word (R388, R389) -/

/-- The LAST_WORD PDU of a copy. -/
def State.lastWordPdu (s : State) (w : LastWord) (copy : Nat) : List Byte :=
  hmpHeader 0x7F 1 0 0 w.folds 64 0 ++ leBytes 8 s.fuses.serial ++ leBytes 6 w.sec ++ leBytes 4 w.ns ++ leBytes 2 w.source ++
  leBytes 1 3 ++ leBytes 1 copy ++ leBytes 2 0 ++ leBytes 4 w.recoveries ++ leBytes 4 w.commit ++ List.replicate 32 0

/-- Sends a copy on every port of ETH0 and ETH1 whose link is up [DEDUCED, log entry 61]. -/
def State.sendLastWord (s : State) (w : LastWord) (copy : Nat) : State :=
  let r := s.nextRtag
  let s := r.1.modHmp (fun m => { m with lastWord := some { w with copies := copy } })
  (List.range 2).foldl (fun s p =>
    if !s.portOn p then s
    else
      let f : TxFrame := ⟨s.fget HMP_LW_DA_DA, s.hmpTag (s.fget HMP_VLAN_PCP), r.2, 0x88B5, [], s.lastWordPdu w copy, 7, 0x7F,
        s.fbit ETHn_CTRL_MACSEC_EN p && s.saUsable p, none⟩
      let s := s.fset HMP_STATUS_LW_SENT 1
      if f.secure then s.txSecured p f else s.txSent p f) s

/-- A frame in transmission is cut short: it counts as aborted and no longer as sent (R388) [DEDUCED, log entry 61]. -/
def State.cutFrame (s : State) (p : Nat) : State :=
  if s.wireFree p then s
  else
    ((s.fset ETHn_TX_FRAMES_COUNT (s.fget ETHn_TX_FRAMES_COUNT p - 1) p).fadd ETHn_TX_ABORTED_COUNT 1 p).modEth p
      (fun e => { e with txUntil := s.refTick, lastTx := none })

/-- What the fold does to the ports: ETH0 and ETH1 cut the frame in transmission short, discard what is queued and send the first copy,
if the SerDes has its reference. -/
def State.foldEth (s : State) (source : Nat) : State :=
  let w : LastWord := ⟨s.refTick, 0, s.tim.sec, s.tim.ns, source, s.fget FCU_RECOVERIES_COUNT, s.fget QM_COMMIT_NEXT_INDEX,
    s.fget FCU_FOLDS_COUNT⟩
  let s := (List.range 2).foldl (fun s p => (s.cutFrame p).modEth p (fun e => { e with txq := [] })) s
  if s.fbit CLK_STATUS_REF_PRESENT then s.sendLastWord w 1 else s

/-- LAST_WORD_COPY (R388): copies 2 and 3 at intervals of 10 µs. -/
def execLastWordCopy (copy : Nat) (s : State) : Result :=
  match s.hmp.lastWord with
  | none => .next s
  | some w =>
    due (!s.inRun && s.fbit CLK_STATUS_REF_PRESENT && (copy == 2 || copy == 3) && w.copies + 1 == copy && s.elapsed w.tick (usTicks (10 * (copy - 1)))) s
      (s.sendLastWord w copy)

/-! ### Firmware responses (R386) -/

/-- Address of a slot of the firmware ring. -/
def State.fwSlot (s : State) (i : Nat) : Nat := 4096 * s.fget HMP_FW_BASE_BASE + 9728 * i

/-- Frees a slot of the firmware ring. -/
def State.fwFree (s : State) (i : Nat) : State := s.modHmp (fun m => { m with fw := m.fw.filter (fun j => j.slot != i) })

/-- A response of firmware as it is sent: the engine puts GAP and GAP_COUNT of the request into it (R375) [DEDUCED, log entry 57]. -/
def fwPdu (r : HmpReq) (b : List Byte) : List Byte :=
  if r.gap = 0 then b else (b.set 2 (b.getD 2 0 ||| 4)).take 14 ++ leBytes 2 (min r.gap 65535) ++ b.drop 16

/-- Reads the response of firmware at a slot, sends it and keeps it (R386); nothing where its session has closed (R374). -/
def State.fwAnswer (s : State) (i : Nat) : State :=
  match s.hmp.fw.find? (fun j => j.slot == i) with
  | none => s
  | some j =>
    let s := s.fwFree i
    match j.req.slot with
    | none => s
    | some k =>
      let a := s.fwSlot i + 8320
      let pdu := fwPdu j.req (s.readBytes a (16 + s.readLE (a + 12) 2))
      let t := ((s.hubRead a pdu.length).keepReplay k j.req pdu).countResponse j.req
      t.sendPdu j.req.partner j.req.secured j.req.type pdu

/-- A write of HMP_FW_DONE: the response at the slot is read, sent and kept, as soon as class 14 lets its transactions go (R378); without a
request due in the slot it is ignored [DEDUCED, log entry 57]. -/
def fwDoneEffect (v : Nat) (s : State) : State × Nat :=
  let i := v % 64
  match s.hmp.fw.find? (fun j => j.slot == i) with
  | none => (s, stOK)
  | some j =>
    if j.answered then (s, stOK)
    else
      let a := s.fwSlot i + 8320
      let n := if j.req.slot.isNone then 0 else txCount a (16 + s.readLE (a + 12) 2)
      let s := s.modHmp (fun m => { m with fw := m.fw.map (fun x => if x.slot = i then { x with answered := true } else x) })
      (s.chargeFor 14 n (.respond i) (fun s => s.fwAnswer i), stOK)

/-- FW_DONE (R386). -/
def execFwDone (src i : Nat) (s : State) : Result := regCmd (i < 64) s src (regAddr HMP_FW_DONE) 4 i (fwDoneEffect i)

/-- FW_RESPONSE_TIMEOUT (R386). -/
def execFwResponseTimeout (i : Nat) (s : State) : Result :=
  unit (i < 64) (match s.hmp.fw.find? (fun j => j.slot == i) with
    | none => .next s
    | some j =>
      let t := (s.fwFree i).fset HMP_STATUS_FW_TIMEOUT_SEEN 1
      due (s.up && !j.answered && s.elapsed j.since (msTicks (s.fget HMP_FW_CTRL_FW_TIMEOUT_MS))) s
        (if j.req.slot.isNone then s.fwFree i else t.respond j.req stContainedFault []))

/-! ### Register writes (R366, R391, R392) -/

/-- A write of ETHn_CTRL. -/
def ethCtrlEffect (p v : Nat) (s : State) : State × Nat :=
  let on := s.fbit ETHn_CTRL_ENABLE p
  if bits v 1 2 = 3 ∨ (on ∧ (bits v 1 2 ≠ s.fget ETHn_CTRL_MODE p ∨ bits v 4 1 ≠ s.fget ETHn_CTRL_JUMBO p)) then (s, stBusError)
  else ((s.plainWrite (regAddr ETHn_CTRL p) v).verifyPreempt p, stOK)

/-- A write of MGT_CTRL: MGT's link is lost where LINK is cleared, and its queue with it (R387) [DEDUCED, log entry 57]. -/
def mgtCtrlEffect (v : Nat) (s : State) : State × Nat :=
  if bits v 1 2 = 3 then (s, stBusError)
  else
    let s := s.plainWrite (regAddr MGT_CTRL) v
    (if bitAt v 5 then s else s.modEth mgtPort (fun e => { e with txq := [] }), stOK)

/-- A write of the packet number register of a receive SA: it takes the LOWEST_PN written (R367). -/
def rxPnEffect (p c a addr v : Nat) (s : State) : State × Nat :=
  ((s.plainWrite addr v).modEth p (fun e => { e with rxSpent := e.rxSpent.filter (· != 4 * c + a) }), stOK)

/-- Whether the SA of a key register is in use. -/
def State.keyInUse (s : State) (r : RegAt) : Bool :=
  if r.t.reg.base = ETHn_MACSEC_TXa_KEYw.base then s.fbit ETHn_MACSEC_TXa_PN_IN_USE r.i r.j
  else s.fbit ETHn_MACSEC_RXc_Aa_PN_IN_USE r.i r.j r.k

/-- A write of a MACsec key register (R366). -/
def macsecKeyEffect (addr v : Nat) (s : State) : State × Nat :=
  match regAt? addr regTable with
  | none => (s, stBusError)
  | some r => if s.keyInUse r then (s, stBusError) else (s.plainWrite addr v, stOK)

/-- MACSEC_KEY_WRITE (R366). -/
def execMacsecKeyWrite (src addr v : Nat) (s : State) : Result :=
  regCmd (isKeyAddr addr) s src addr 8 (wrap 64 v) (macsecKeyEffect addr (wrap 64 v))

/-- A write of MGT_MDIO: GO starts an access unless one runs [DEDUCED, log entry 61]. -/
def mdioEffect (v : Nat) (s : State) : State × Nat :=
  let s := s.plainWrite (regAddr MGT_MDIO) v
  (if bitAt v 11 then s.fset MGT_MDIO_BUSY 1 else s, stOK)

/-- MDIO_ACCESS (R392): a write with GO. -/
def execMdioAccess (src v : Nat) (s : State) : Result :=
  regCmd true s src (regAddr MGT_MDIO) 4 (putBits (wrap 32 v) 11 1 1) (mdioEffect (putBits (wrap 32 v) 11 1 1))

/-- MDIO_DONE (R392). -/
def execMdioDone (data : Nat) (s : State) : Result :=
  let t := s.fset MGT_MDIO_BUSY 0
  due (s.up && s.fbit MGT_MDIO_BUSY) s (if s.fbit MGT_MDIO_WRITE then t else t.fset MGT_MDIO_DATA data)

/-! ### PTP frames (R400) -/

/-- A write of TIM_PTP_TX_GO [DEDUCED, log entry 61]. -/
def ptpTxGoEffect (v : Nat) (s : State) : State × Nat :=
  let i := v % 16
  (if s.tim.ptpTx.contains i then s else { s with tim := { s.tim with ptpTx := s.tim.ptpTx ++ [i] } }, stOK)

/-- PTP_TX_GO (R400). -/
def execPtpTxGo (src i : Nat) (s : State) : Result := regCmd (i < 16) s src (regAddr TIM_PTP_TX_GO) 4 i (ptpTxGoEffect i)

/-- Sends a transmit slot's frame, outside the gates, and stamps the slot [DEDUCED, log entry 61]. -/
def State.ptpSend (s : State) (i p : Nat) : State :=
  let a := s.ptpSlot (64 + i)
  let b := s.readBytes (a + 32) (s.readLE (a + 2) 2)
  let f : TxFrame := ⟨beVal (b.take 6), none, none, beVal (slice b 12 2), [], b.drop 14, 7, 0, false, none⟩
  let stamp := s.stampBytes (s.fget TIM_ETHn_LAT_TX_LAT_NS p : Nat)
  let s := (s.txSent p f).writeBytes (a + 4) stamp
  let s := s.writeBytes (a + 1) [BitVec.ofNat 8 (putBits (s.readLE (a + 1) 1) 0 1 1)]
  { s with tim := { s.tim with ptpTx := s.tim.ptpTx.filter (· != i) } }

/-- PTP_TX_DONE (R400). In the fold a port sends no such frame (R388). -/
def execPtpTxDone (i : Nat) (s : State) : Result :=
  let p := s.readLE (s.ptpSlot (64 + i)) 1
  unit (i < 16) (due (s.up && s.inRun && s.tim.ptpTx.contains i && p < 2 && s.portSends p && s.wireFree p) s (s.ptpSend i p))

end Sys2Proof.Machine
end

