-- ==== Sys2Proof/Machine/Fetch.lean ====
section
/-! DEFINITION. The Drover's pass over its queues: fetching and checking descriptors, forwarding them to intakes, its own NOP and
FENCE, and the completion of descriptors (R213, R214, R218, R235, R238 to R240, R248, R251). -/

namespace Sys2Proof.Machine

/-- What the Drover fetches next from a queue. -/
inductive NextFetch where
  | ring
  | chain (k : Caravan)
  deriving DecidableEq, Repr

/-- The next fetch of a queue (R214, R248, R249): the rest of an open chain first, else the ring slot at FETCH, unless the
queue is halted, a FENCE or an unplaced CARAVAN_BEGIN stands before it, or the ring is exhausted [DEDUCED, log entry 15; DEDUCED, log entry 21]. -/
def State.nextFetch (s : State) (q : Nat) : Option NextFetch :=
  match s.chainOpen q with
  | some k => some (.chain k)
  | none =>
    let fence (f : Flight) : Bool := dOpcode f.desc == opFENCE && (f.stage == .fetched || f.stage == .broken)
    let unplaced (f : Flight) : Bool :=
      f.pos == 0 && dOpcode f.desc == opCARAVAN_BEGIN && (f.stage == .fetched || f.stage == .broken)
    if s.qEnabled q && s.qKind q == 0 && !s.fbit QM_Qq_STATUS_HALTED q && s.qFetch q != s.qTail q &&
      !(s.flightsOf q).any (fun f => fence f || unplaced f) then some .ring
    else none

/-- The 64 bytes of chain descriptor `i`; past the end of the chain's die the Drover reads zeros (log entry 8). -/
def State.chainDesc (s : State) (k : Caravan) (i : Nat) : Nat :=
  let a := dramAddr k.chain + 64 * i
  if dieEnd (dramAddr k.chain) < a + 64 then 0 else s.readLE a 64

/-- A flight as just fetched. -/
def newFlight (q idx pos d core : Nat) (member : Bool) (opener : Nat) : Flight :=
  { queue := q, index := idx, pos := pos, desc := d, core := core, stage := .fetched, member := member, opener := opener
    met := 0, status := stOK, fclass := 0, fsource := 0, released := false, latch := TaskLatch.none, entry := none }

/-- Appends a flight, in descriptor order. -/
def State.addFlight (s : State) (f : Flight) : State := s.setFlights (s.drover.flights ++ [f])

/-- A malformed descriptor (R218): counted, a class U fault of the descriptor check, CONTAINED_FAULT. -/
def State.malformedFlight (s : State) (r : DescRef) : State :=
  ((s.fadd QM_MALFORMED_COUNT 1).fset QM_STATUS_MALFORMED_SEEN 1).endFault r stContainedFault 0x001

/-- The TAG break of R251: the matching descriptor is held unforwarded and its queue halts. One that its fetch has ended goes no further in
any case [DEDUCED, log entry 77]. -/
def State.tagBreak (s : State) (r : DescRef) (d : Nat) : State :=
  if s.fbit QM_Qq_BREAK_ON_TAG r.queue && dTag d == s.fget QM_Qq_BREAK_TAG r.queue then
    let s := (s.haltQueue r.queue 2).fset QM_Qq_STATUS_BREAK_HIT 1 r.queue
    (s.fset QM_Qq_BREAK_ON_TAG 0 r.queue).modFlight r (fun f => if f.stage = .fetched then { f with stage := .broken } else f)
  else s

/-- The caravan that a CARAVAN_BEGIN opens. -/
def caravanOfDesc (q idx d : Nat) : Caravan :=
  { queue := q, index := idx, id := cbId d, model := cbModel d, mailbox := cbMailbox d, part := cbId d % 16, pin := cbPin d
    task := cbTask d, tallyBase := cbTallyBase d, tallyCount := cbTallyCount d, chain := cbChain d, len := cbChainLen d
    readyAt := none, core := none, placedAt := 0, fetched := 0, membersLeft := 0, openerPos := 0, begun := false
    ending := none, killed := false, statuses := [], lenB := 0, ended := false, posted := false, digest := 0, stateStep := 0
    entry := 0, adapt := none }

/-- Fetch of a ring slot. -/
def State.fetchRing (s : State) (q : Nat) : State :=
  let i := s.qFetch q
  let a := s.qBase q + 64 * (i % s.qSize q)
  let d := s.readLE a 64
  let s := ((s.hubRead a 64).fadd QM_FETCHED_COUNT 1).fset QM_Qq_PROGRESS_FETCH (i + 1) q
  let bad := malformed d true false false none
  let s := if !bad && dOpcode d == opCARAVAN_BEGIN then s.setCaravans (s.drover.caravans ++ [caravanOfDesc q i d]) else s
  let s := s.addFlight (newFlight q i 0 d 0 false 0)
  (if bad then s.malformedFlight ⟨q, i, 0⟩ else s).tagBreak ⟨q, i, 0⟩ d

/-- A second QNT_ADAPT in a caravan (R206): it completes CONTAINED_FAULT, a fault of QNT, and the caravan is ended. -/
def State.secondAdapt (s : State) (k : Caravan) (pos c : Nat) : State :=
  (s.endFault ⟨k.queue, k.index, pos⟩ stContainedFault (coreSrc c 0x13)).endCaravan k.queue k.index (pos + 1)
    stContainedFault false

/-- Fetch of the next descriptor of a placed caravan's chain. -/
def State.fetchChain (s : State) (k : Caravan) : State :=
  let i := k.fetched
  let pos := i + 1
  let d := s.chainDesc k i
  let c := k.core.getD 0
  let member := k.membersLeft != 0
  let r : DescRef := ⟨k.queue, k.index, pos⟩
  let bad := malformed d false (pos == k.len) member (some (k.tallyBase, k.tallyCount))
  let opens := !bad && !member && dOpcode d == opGROUP_OPEN
  let adapts := !bad && dOpcode d == opQNT_ADAPT
  let s := (s.hubRead (dramAddr k.chain + 64 * i) 64).fadd QM_FETCHED_COUNT 1
  let s := s.modCaravan k.queue k.index (fun x => { x with
    fetched := pos
    membersLeft := if opens then goMembers d else x.membersLeft - 1
    openerPos := if opens then pos else x.openerPos
    adapt := if adapts && x.adapt.isNone then some (dbytes d 32 4) else x.adapt })
  let s := s.addFlight (newFlight k.queue k.index pos d c member k.openerPos)
  let s :=
    match k.ending with
    | some st => if bad then (s.malformedFlight r).endFlight r st else s.endFlight r st
    | none =>
      if bad then (s.malformedFlight r).endCaravan k.queue k.index (pos + 1) stContainedFault false
      else if adapts && k.adapt.isSome then s.secondAdapt k pos c
      else s
  s.tagBreak r d

/-- DESCRIPTOR_FETCH (R218, R240): one descriptor of a queue is read and checked. -/
def execDescriptorFetch (q : Nat) (s : State) : Result :=
  unit (q < 65536) (match s.nextFetch q with
    | none => .next s
    | some .ring => due s.works s (s.fetchRing q)
    | some (.chain k) => due s.works s (s.fetchChain k))

/-! ### Forwarding (R238) -/

/-- Places taken in the intake of an engine of a core. -/
def State.intakeFill (s : State) (c e : Nat) : Nat :=
  (s.drover.flights.filter (fun f => f.core == c && f.pos != 0 && dEngine f.desc == e && f.stage == .intake)).length

/-- The chain descriptor that a core's caravan forwards next: the first not forwarded, if it is an engine's and no break
holds it. -/
def State.nextForward (s : State) (c : Nat) : Option Flight :=
  match s.drover.flights.find? (fun f => f.core == c && f.pos != 0 && (f.stage == .fetched || f.stage == .broken)) with
  | some f => if f.stage == .fetched && !isDroverOp (dOpcode f.desc) then some f else none
  | none => none

/-- Records that a core has run a descriptor of a queue since its last FENCE (R248). -/
def State.markFence (s : State) (q c : Nat) : State :=
  { s with drover := { s.drover with
      fenceCores := AMap.set s.drover.fenceCores q (putBits ((AMap.get? s.drover.fenceCores q).getD 0) c 1 1) } }

/-- DESCRIPTOR_FORWARD (R146, R238): the descriptor enters its engine's intake of sixteen places and latches the current
task. -/
def execDescriptorForward (c : Nat) (s : State) : Result :=
  unit (c < 8) (match s.nextForward c with
    | none => .next s
    | some f =>
      let l := s.taskLatch c (s.fget CORE_TASK_CURRENT_TASK c)
      due (s.coreWorks c && s.intakeFill c (dEngine f.desc) < 16) s
        (((s.markFence f.queue c).linkTx (coreLink c) 64).modFlight f.ref (fun g => { g with stage := .intake, latch := l })))

/-! ### NOP and FENCE (R239, R248) -/

/-- NOP (R239): completes when its waits are met, delivering its signals [DEDUCED, log entry 15]. -/
def execNop (r : DescRef) (s : State) : Result :=
  unit (r.queue < 65536) (match s.flight? r with
    | none => .next s
    | some f =>
      due (s.works && dOpcode f.desc == opNOP && s.mayStart f && s.waitsMet f) s
        ((s.latchWaits.endFlight r stOK).completeFlight r))

/-- Drains every Packhorse entry of the cores that have run a descriptor of a queue since its previous FENCE (R248). -/
def State.fenceDrain (s : State) (q : Nat) : State :=
  let cores := (AMap.get? s.drover.fenceCores q).getD 0
  let s := (whichBelow 8 (bitAt cores ·)).foldl (fun s c => s.phDrainAll c (fun _ => true)) s
  { s with drover := { s.drover with fenceCores := AMap.del s.drover.fenceCores q } }

/-- FENCE (R248): completes once every earlier descriptor of its queue has retired and its waits are met; with PAUSE the
queue halts [DEDUCED, log entry 15]. -/
def execFence (q : Nat) (s : State) : Result :=
  unit (q < 65536) (match s.flightsOf q with
    | [] => .next s
    | f :: _ =>
      let t := s.latchWaits.fenceDrain q
      let t := if fePause f.desc then t.haltQueue q 0 else t
      due (s.works && dOpcode f.desc == opFENCE && f.stage == .fetched && s.waitsMet f) s
        ((t.endFlight f.ref stOK).completeFlight f.ref))

/-! ### Completion (R235) -/

/-- Whether a flight belongs to the lockstep group in progress on its core: it completes with the group (R109). -/
def State.inGroup (s : State) (f : Flight) : Bool :=
  f.pos != 0 && ((s.coreAt f.core).group.elim false (fun g => g.started && (g.opener == f.ref || g.members.any (fun m => m.ref == f.ref))))

/-- Whether it is a descriptor's turn to complete: one that the Drover ended with its caravan completes in descriptor order (R218, R313,
R446), and CARAVAN_END after every other descriptor of the chain and after the digest (R239, R302). -/
def State.inTurn (s : State) (f : Flight) : Bool :=
  match s.caravanOf f with
  | none => true
  | some k =>
    let others := (s.flightsOf f.queue).filter (fun g => g.index == f.index && g.ref != f.ref)
    if f.pos ≠ 0 ∧ f.pos = k.len then others.all (fun g => g.stage == .done) && s.heldTx f.core == 0
    else k.ending.isNone || f.pos == 0 || decide (f.pos < k.endFrom) ||
      others.all (fun g => !(decide (k.endFrom ≤ g.pos) && decide (g.pos < f.pos)) || g.stage == .done)

/-- DESCRIPTOR_COMPLETE (R235): a descriptor that has ended, all its writes visible, has its signals delivered or withheld. -/
def execDescriptorComplete (r : DescRef) (s : State) : Result :=
  unit (r.queue < 65536) (match s.flight? r with
    | none => .next s
    | some f => due (s.works && f.stage == .ended && s.writesVisible f && s.inTurn f && !s.inGroup f) s ((s.returnEntry f).completeFlight r))

end Sys2Proof.Machine
end

