-- ==== Sys2Proof/Machine/Numfmt.lean ====
section
/-! DEFINITION. Number formats and exact arithmetic (R33 to R63): dyadic numbers with the one rounding rule, binary floating point,
W12, storage codes, and the A96 slot. -/

namespace Sys2Proof.Machine

/-! ### Dyadic numbers and the rounding rule (R57) -/

/-- The exact value m × 2^e. -/
structure Dy where
  m : Int
  e : Int
  deriving DecidableEq, Repr

/-- The value as a whole number of steps 2^q, rounded to nearest with ties away from zero (R57). -/
def Dy.round (x : Dy) (q : Int) : Int :=
  if q ≤ x.e then x.m * 2 ^ (x.e - q).toNat else divRound x.m (2 ^ (q - x.e).toNat)

/-- Whether the value is a multiple of 2^q. -/
def Dy.onGrid (x : Dy) (q : Int) : Bool :=
  if q ≤ x.e then true else x.m % (2 ^ (q - x.e).toNat : Nat) == 0

/-- floor(log2 |x|) of a nonzero value. -/
def Dy.log2 (x : Dy) : Int := (Nat.log2 x.m.natAbs : Int) + x.e

def Dy.zero : Dy := ⟨0, 0⟩
def Dy.ofInt (i : Int) : Dy := ⟨i, 0⟩
def Dy.mul (a b : Dy) : Dy := ⟨a.m * b.m, a.e + b.e⟩
def Dy.neg (a : Dy) : Dy := ⟨-a.m, a.e⟩

/-- Multiplication by 2^k. -/
def Dy.shift (a : Dy) (k : Int) : Dy := ⟨a.m, a.e + k⟩

/-- Exact sum. -/
def Dy.add (a b : Dy) : Dy :=
  let e := min a.e b.e
  ⟨a.m * 2 ^ (a.e - e).toNat + b.m * 2 ^ (b.e - e).toNat, e⟩

/-- Exact difference. -/
def Dy.sub (a b : Dy) : Dy := a.add b.neg

/-- Exact comparison. -/
def Dy.lt (a b : Dy) : Bool := decide ((a.sub b).m < 0)

/-! ### Binary floating point (R42, R43, R54, R59) -/

/-- A floating-point datum: not a number, a signed infinity, or a signed finite value (magnitude m × 2^e). -/
inductive Fp where
  | nan
  | inf (neg : Bool)
  | fin (neg : Bool) (m : Nat) (e : Int)
  deriving DecidableEq, Repr

/-- The exact value of a finite datum; zero for the others. -/
def Fp.dy : Fp → Dy
  | .fin n m e => ⟨if n then -(m : Int) else m, e⟩
  | _ => Dy.zero

/-- Decodes `eb` exponent bits and `mb` mantissa bits with IEEE infinities and NaNs. -/
def fpDecode (eb mb : Nat) (w : Nat) : Fp :=
  let s := bitAt w (eb + mb)
  let e := bits w mb eb
  let m := bits w 0 mb
  let bias := 2 ^ (eb - 1) - 1
  if e = 2 ^ eb - 1 then (if m = 0 then .inf s else .nan)
  else if e = 0 then .fin s m (1 - (bias : Int) - mb)
  else .fin s (2 ^ mb + m) ((e : Int) - bias - mb)

def fp32 (w : Nat) : Fp := fpDecode 8 23 w
def fp16 (w : Nat) : Fp := fpDecode 5 10 w
def bf16 (w : Nat) : Fp := fpDecode 8 7 w

/-- The E4M3 datum of a code (R42): no infinities, NaN at exponent 15 with mantissa 7. -/
def e4m3 (w : Nat) : Fp :=
  let s := bitAt w 7
  let e := bits w 3 4
  let m := bits w 0 3
  if e = 15 ∧ m = 7 then .nan else if e = 0 then .fin s m (-9) else .fin s (8 + m) ((e : Int) - 10)

/-- The E5M2 datum of a code (R43). -/
def e5m2 (w : Nat) : Fp := fpDecode 5 2 w

def fp32Nan : Nat := 0x7FC0_0000
def fp32Inf (neg : Bool) : Nat := 0x7F80_0000 + b2n neg * 2 ^ 31
def fp32Max (neg : Bool) : Nat := 0x7F7F_FFFF + b2n neg * 2 ^ 31
def fp32Zero (neg : Bool) : Nat := b2n neg * 2 ^ 31

/-- Significand steps and step exponent of a nonzero value rounded once to binary32 with subnormals (R59). -/
def fp32Steps (x : Dy) : Nat × Int :=
  let q := max (x.log2 - 23) (-149)
  ((x.round q).natAbs, q)

/-- The binary32 pattern of an exact value rounded once (R59): overflow to infinity, a zero with sign `zneg`. -/
def fp32Round (x : Dy) (zneg : Bool := false) : Nat :=
  if x.m = 0 then fp32Zero zneg
  else
    let neg := decide (x.m < 0)
    let r := fp32Steps x
    let n := if r.1 = 2 ^ 24 then 2 ^ 23 else r.1
    let q := if r.1 = 2 ^ 24 then r.2 + 1 else r.2
    if n < 2 ^ 23 then fp32Zero neg + n
    else if 104 < q then fp32Inf neg
    else fp32Zero neg + ((q + 150).toNat * 2 ^ 23 + (n - 2 ^ 23))

/-- The same, with a result above the range held at the largest finite value (R62). -/
def fp32Clamp (x : Dy) : Nat :=
  let w := fp32Round x
  if bits w 0 31 = 0x7F80_0000 then fp32Max (bitAt w 31) else w

/-! ### W12 (R33 to R35); values are held as integers in units of 2^-13 -/

def w12Max : Int := 510 * 8192

/-- The value of a W12 pattern. -/
def w12Decode (w : Nat) : Int :=
  let e := bits w 7 4
  let m : Nat := if e = 0 then bits w 0 7 else (128 + bits w 0 7) * 2 ^ (e - 1)
  if bitAt w 11 then -(m : Int) else m

/-- The pattern of a representable value; zero is 0x000 (R34). -/
def w12Encode (i : Int) : Nat :=
  let m := i.natAbs
  let p :=
    if m < 128 then m
    else
      let k := Nat.log2 m
      (k - 6) * 128 + (m / 2 ^ (k - 7) - 128)
  if i < 0 then 2048 + p else p

/-- An exact value rounded to eight significant bits, to steps of 2^-13 below 2^-6 (R35). -/
def w12Steps (x : Dy) : Int :=
  if x.m = 0 then 0
  else
    let q := max (x.log2 - 7) (-13)
    x.round q * 2 ^ (q + 13).toNat

/-- Conversion of an exact value to W12 (R35): rounded, held at ±510. -/
def w12Round (x : Dy) : Int := clampInt (-w12Max) w12Max (w12Steps x)

/-- Whether the conversion of a value to W12 saturates (R58). -/
def w12Over (x : Dy) : Bool := decide (w12Max < (w12Steps x).natAbs)

/-- A W12 value as an exact number. -/
def w12Dy (i : Int) : Dy := ⟨i, -13⟩

/-! ### Storage codes (R36, R37) -/

/-- Format codes of R81. -/
def fmtQ4 : Nat := 0
def fmtQ6 : Nat := 1
def fmtQ8 : Nat := 2
def fmtE4M3 : Nat := 3
def fmtE5M2 : Nat := 4
def fmtFP16 : Nat := 5
def fmtBF16 : Nat := 6

/-- Bits of an integer code. -/
def codeBits (fmt : Nat) : Nat := if fmt = fmtQ4 then 4 else if fmt = fmtQ6 then 6 else 8

/-- Bytes of a block of 32 codes, or of a group of 32 values (R36, R512). -/
def blockBytes (fmt : Nat) : Nat := if fmt < 5 then 4 * codeBits fmt else 64

/-- Granules of a bale or tile (R36, R512). -/
def tileGranules (fmt : Nat) : Nat := if fmt < 5 then 1 + blockBytes fmt else 64

/-- Byte offset of block or group `b` in a bale or tile (R38, R512). -/
def blockOffset (fmt b : Nat) : Nat := if fmt < 5 then 32 + b * blockBytes fmt else 64 * b

/-- The two's-complement range of an integer code (R36). -/
def codeMin (fmt : Nat) : Int := -(2 ^ (codeBits fmt - 1) : Nat)
def codeMax (fmt : Nat) : Int := (2 ^ (codeBits fmt - 1) - 1 : Nat)

/-- Bit position of code `i` in its block (R37): the packing of Q4, Q6 and Q8 is little-endian by code. -/
def codePos (fmt i : Nat) : Nat := codeBits fmt * i

/-- The exponent of a scale byte (R40), and whether it is corrupt (R41). -/
def scaleExp (b : Nat) : Int := sext 5 b
def scaleCorrupt (b : Nat) : Bool := 32 ≤ b

/-! ### Feeder expansion (R42 to R46, R54, R56) -/

/-- An operand as it stands at a cell: one W12 value per part (H and L of a 16-bit value), effective exponent, flags, poison, and
whether a corrupt scale byte keeps its terms out. -/
structure Opnd where
  parts : List Int
  exp : Int
  inexact : Bool
  invalid : Bool
  poison : Bool
  corrupt : Bool
  deriving DecidableEq, Repr

def Opnd.zero : Opnd := ⟨[0, 0], 0, false, false, false, false⟩

/-- Expands a stored code with block exponent `x` and zero point `z` (R42 to R46). An E5M2 value is INEXACT where its rounding changes it,
not where a value below 2^-4 needs none (R43) [DEDUCED, log entry 84]. -/
def expandCode (fmt code : Nat) (x z : Int) : Opnd :=
  if fmt ≤ fmtQ8 then ⟨[(sext (codeBits fmt) code - z) * 8192], x, false, false, false, false⟩
  else if fmt = fmtE4M3 then
    match e4m3 code with
    | .nan => ⟨[0], x, false, true, false, false⟩
    | d => ⟨[w12Round d.dy], x, false, false, false, false⟩
  else
    match e5m2 code with
    | .nan => ⟨[0], x + 7, false, true, false, false⟩
    | .inf n => ⟨[if n then -448 * 8192 else 448 * 8192], x + 7, false, false, false, false⟩
    | d =>
      let v := d.dy.shift (-7)
      let w := w12Round v
      ⟨[w], x + 7, ((w12Dy w).sub v).m != 0, false, false, false⟩

/-- A 16-bit value with infinities at the largest finite value and NaN at zero (R56). -/
def read16 (fmt w : Nat) : Dy × Bool :=
  let d := if fmt = fmtFP16 then fp16 w else bf16 w
  match d with
  | .nan => (Dy.zero, true)
  | .inf n =>
    let m : Dy := if fmt = fmtFP16 then ⟨65504, 0⟩ else ⟨255, 120⟩
    (if n then m.neg else m, false)
  | d => (d.dy, false)

/-- The group exponent of R54. -/
def groupExp (l : List Dy) : Int :=
  l.foldl (fun (g : Option Int) x =>
    if x.m = 0 then g else some (g.elim x.log2 (fun y => max y x.log2))) none |>.elim 0 (· - 7)

/-- Splits a 16-bit value of a group with exponent `g` into H and L (R54). -/
def split16 (v : Dy) (invalid : Bool) (g : Int) : Opnd :=
  let y := v.shift (-g)
  let h : Int := if 0 ≤ y.e then y.m * 2 ^ y.e.toNat else if y.m < 0 then -((-y.m) / (2 ^ (-y.e).toNat : Nat)) else y.m / (2 ^ (-y.e).toNat : Nat)
  let l := y.sub (Dy.ofInt h)
  let w := w12Round l
  ⟨[h * 8192, w], g, ((w12Dy w).sub l).m != 0, invalid, false, false⟩

/-! ### A96 slots (R47 to R52) -/

/-- A PSP slot: value modulo 2^96 in units of 2^-42, and its flags (R48). -/
structure Slot where
  value : Nat
  terms : Nat
  sat : Bool
  inexact : Bool
  poison : Bool
  invalid : Bool
  deriving DecidableEq, Repr

def Slot.empty : Slot := ⟨0, 0, false, false, false, false⟩

/-- Reads a slot from its sixteen bytes. -/
def slotOf (v : Nat) : Slot :=
  ⟨bits v 0 96, bits v 96 21, bitAt v 117, bitAt v 118, bitAt v 119, bitAt v 120⟩

/-- The sixteen bytes of a slot as a number; reserved bits 0. -/
def Slot.toNat (x : Slot) : Nat :=
  x.value + 2 ^ 96 * (x.terms + 2 ^ 21 * b2n x.sat + 2 ^ 22 * b2n x.inexact + 2 ^ 23 * b2n x.poison + 2 ^ 24 * b2n x.invalid)

/-- The signed value of a slot as an exact number. -/
def Slot.dy (x : Slot) : Dy := ⟨sext 96 x.value, -42⟩

/-- TERMS held at 2^20 + 1 (R48, R51). -/
def maxTerms : Nat := 2 ^ 20

/-- Combination of two slots (R51, R52): values modulo 2^96, TERMS added and held, flags ORed. -/
def Slot.add (a b : Slot) : Slot :=
  let t := a.terms + b.terms
  ⟨(a.value + b.value) % 2 ^ 96, min t (maxTerms + 1), a.sat || b.sat || decide (maxTerms < t), a.inexact || b.inexact,
    a.poison || b.poison, a.invalid || b.invalid⟩

/-- One term adjusted by R50: units of 2^-42, with INEXACT and SAT. -/
def adjustTerm (x : Dy) : Int × Bool × Bool :=
  let r := x.round (-42)
  let lim : Int := 2 ^ 75
  (clampInt (-(lim - 1)) (lim - 1) r, !x.onGrid (-42), decide (lim ≤ r.natAbs))

/-- The slot of one term of two operands, part `pw` of the weight and part `pa` of the activation (R49, R50). A term that a corrupt
scale byte would have scaled is not accumulated, so not counted either (R51), and poisons its slot (R41) [DEDUCED, log entry 33]. -/
def termSlot (w a : Opnd) (pw pa : Nat) : Slot :=
  if w.corrupt || a.corrupt then ⟨0, 0, false, false, true, false⟩
  else
    let t := adjustTerm ⟨w.parts.getD pw 0 * a.parts.getD pa 0, -26 + w.exp + a.exp⟩
    ⟨wrapInt 96 t.1, 1, t.2.2, t.2.1 || w.inexact || a.inexact, w.poison || a.poison, w.invalid || a.invalid⟩

/-! ### Output conversion (R60 to R62) -/

/-- A code of format `fmt` from an exact value: rounded, zero point added, clamped; with whether it clamped and the magnitude that
statistics take (R60, R58, R203). -/
def toCode (fmt : Nat) (x : Dy) (z : Int) : Int × Bool × Nat :=
  let r := x.round 0
  let c := clampInt (codeMin fmt) (codeMax fmt) (r + z)
  (c, c != r + z, min r.natAbs 65535)

end Sys2Proof.Machine
end

