-- ==== Sys2Proof/Machine/Engine.lean ====
section
/-! DEFINITION. What every engine of a core does with a descriptor: taking it from its intake or as a member of the lockstep group in
progress, producer checks and stamps, lock-link words, poison, slots, and its end (R79, R107, R108, R111 to R123, R140, R147). -/

namespace Sys2Proof.Machine

/-! ### The lockstep group of a core -/

/-- The group in progress on a core. -/
def State.groupOf (s : State) (c : Nat) : Option Group := (s.coreAt c).group

/-- Changes the group in progress on a core. -/
def State.modGroup (s : State) (c : Nat) (g : Group → Group) : State := s.modCore c (fun k => { k with group := k.group.map g })

/-- Changes one member of the group in progress. -/
def State.modMember (s : State) (c : Nat) (r : DescRef) (g : Member → Member) : State :=
  s.modGroup c (fun x => { x with members := x.members.map (fun m => if m.ref = r then g m else m) })

/-- A cause of TIMING_SKEW of a member at a group cycle (R120, R125): its status, the earliest of its group, and the record, which an
earlier cause of the same group takes over. -/
def State.skew (s : State) (c : Nat) (r : DescRef) (d cycle : Nat) : State :=
  let s := s.modFlight r (fun f => { f with status := worse f.status stTimingSkew })
  let known := s.fbit CORE_LOCK_FIRST_SKEW_VALID c && (s.groupOf c).elim true (fun g => g.record.elim true (· ≤ cycle))
  let s := s.modGroup c (fun g => { g with
    skew := some (g.skew.elim (cycle, r) (fun x => if cycle < x.1 then (cycle, r) else x))
    record := if known then g.record else some cycle })
  if known then s
  else s.rset CORE_LOCK_FIRST_SKEW (BitVec.ofNat 64 (dTag d + cycle % 2 ^ 32 * 2 ^ 16 + dEngine d * 2 ^ 48 + 2 ^ 63)) c

/-! ### A descriptor in an engine -/

/-- A descriptor being executed: core, flight, whether it is a lockstep member, the group cycle of its own cycle 0, LENGTH of its group,
from which own cycle its events slip and by how much, its first failed check, whether it has read poison, and for a read the operand
number (31 where none is checked) and the group cycle. -/
structure Job where
  c : Nat
  f : Flight
  member : Bool
  start : Nat
  length : Nat
  slipAt : Nat := 0
  slip : Nat := 0
  failAt : Option Nat := none
  poison : Bool := false
  op : Nat := 31
  now : Nat := 0
  deriving DecidableEq, Repr

/-- The job of a member of a group. -/
def Group.job (g : Group) (c : Nat) (f : Flight) : Job :=
  let m := (g.members.find? (fun m => m.ref == f.ref)).getD ⟨f.ref, dEngine f.desc, dLockOffset f.desc, 0, 0, false, false, 0⟩
  { c := c, f := f, member := true, start := m.offset, length := g.length, slipAt := m.slipAt, slip := m.slip }

/-- The descriptor an engine executes now: the member that MEMBER_START has just started, else the head of its intake. -/
def State.jobFor (s : State) (c e : Nat) : Option Job :=
  match s.drover.flights.find? (fun f => f.core == c && f.member && dEngine f.desc == e && f.stage == .running) with
  | some f => (s.groupOf c).map (fun g => g.job c f)
  | none => (s.engineHead c e).map (fun f => { c := c, f := f, member := false, start := 0, length := 0 })

/-- The group cycle of cycle `t` of a job: LOCK_OFFSET, and the slips before it (R107, R112). -/
def Job.cyc (j : Job) (t : Nat) : Nat := j.start + t + (if j.slipAt ≤ t then j.slip else 0)

/-- A job reading operand `k` at its cycle `t`, less `early` cycles. -/
def Job.reads (j : Job) (k t : Nat) (early : Nat := 0) : Job := { j with op := k, now := j.cyc t - early }

/-- Task of a job. -/
def Job.task (j : Job) : Option Nat := some j.f.latch.task

/-- Whether an output written at cycle `t` of the job is written poisoned whatever it derives from: from the cycle of a failed check
onward (R120), and after LENGTH (R108). -/
def Job.late (j : Job) (t : Nat) : Bool :=
  j.member && (j.failAt.elim false (fun x => decide (x ≤ j.cyc t)) || decide (j.length ≤ j.cyc t))

/-! ### Bank rows as the cycles of a group find them (R111, R118, R132) -/

/-- Rank among the accesses of one cycle to one bank: the array write ports, then the members in the order of R112 (R118, R129). -/
def portRank : Nat := 0
def memberRank (e : Nat) : Nat := 1 + [enMXA0, enMXA1, enMVP, enWIN, enQNT, enVEC].idxOf e

/-- Rank of a job's own accesses. -/
def Job.rank (j : Job) : Nat := memberRank (dEngine j.f.desc)

/-- Whether a write is granted before an access of a rank at a group cycle. -/
def RowWrite.before (w : RowWrite) (cycle rank : Nat) : Bool := decide (w.cycle < cycle) || (w.cycle == cycle && decide (w.rank < rank))

/-- The write granted last; of two of one cycle and rank the later in the list. -/
def lastWrite : List RowWrite → Option RowWrite
  | [] => none
  | w :: l =>
    match lastWrite l with
    | none => some w
    | some x => if x.before w.cycle w.rank then some w else some x

/-- Whether a write touches word `i`. -/
def RowWrite.touches (w : RowWrite) (i : Nat) : Bool := (w.words.getD i none).isSome

/-- The member writes of a row: those in the bank, and those to come. -/
def Group.done (g : Group) (row : Nat) : List RowWrite := g.writes.filter (fun w => w.row == row)
def Group.toCome (g : Group) (row : Nat) : List RowWrite := g.ahead.filter (fun w => w.row == row)

/-- Whether a non-member write has overwritten a row since members wrote it: its VALID is clear (R118). -/
def State.rowTaken (s : State) (g : Group) (row : Nat) : Bool := g.done row != [] && (AMap.get? s.stamps row).isNone

/-- The word at a byte offset as a member's read finds it at its cycle, where that is not what the bank holds now: the last member write
granted before it, or what stood there before any. -/
def State.wordThen (s : State) (j : Job) (sp b : Nat) : Option (Nat × Bool) :=
  match (if j.member then s.groupOf j.c else none) with
  | none => none
  | some g =>
    let row := rowAddr j.c sp (b / 128)
    let i := b % 128 / 8
    let l := (g.done row ++ g.toCome row).filter (·.touches i)
    if l = [] || s.rowZeroing j.c sp (b / 128) j.task || s.rowTaken g row then none
    else
      match lastWrite (l.filter (·.before j.now j.rank)) with
      | some w => w.words.getD i none
      | none => ((g.done row).find? (·.touches i)).map (fun w => w.old.getD i (0, false))

/-! ### Producer checks (R118, R217) -/

/-- PRODUCER_OFFSET of operand `k`, if the descriptor checks it. -/
def Job.check (j : Job) (k : Nat) : Option Nat :=
  if j.member then
    ((List.range (dChecks j.f.desc)).find? (fun i => (dCheck j.f.desc i).2 == k)).map (fun i => (dCheck j.f.desc i).1)
  else none

/-- Whether a row's stamp, as the read of a job finds it, is VALID with a producer's tag (R118). -/
def State.stampThen (s : State) (j : Job) (row producer : Nat) : Bool :=
  match s.groupOf j.c with
  | none => false
  | some g =>
    match lastWrite ((g.done row ++ g.toCome row).filter (·.before j.now j.rank)) with
    | some w => w.tag == producer % 16 && !s.rowTaken g row
    | none => g.done row == [] && AMap.get? s.stamps row == some (producer % 16)

/-- Whether the read of the row at a byte offset passes its producer check, if it has one. -/
def State.rowPasses (s : State) (j : Job) (sp b : Nat) : Bool :=
  (j.check j.op).elim true (fun po => s.stampThen j (rowAddr j.c sp (b / 128)) po)

/-- The producer checks of an operand's reads: for each, a byte offset, bytes, cycle of the job, and by how much it comes before that. A
failed read is a cause of TIMING_SKEW (R118, R120). -/
def State.checkReads (s : State) (j : Job) (k sp : Nat) (reads : List (Nat × Nat × Nat × Nat)) : State × Job :=
  if (j.check k).isNone then (s, j)
  else
    reads.foldl (fun (q : State × Job) x =>
      (List.range (if x.2.1 = 0 then 0 else (x.1 + x.2.1 - 1) / 128 - x.1 / 128 + 1)).foldl (fun (q : State × Job) i =>
        let r := q.2.reads k x.2.2.1 x.2.2.2
        if q.1.rowPasses r sp (x.1 + 128 * i) then q
        else (q.1.skew j.c j.f.ref j.f.desc r.now, { q.2 with failAt := some (q.2.failAt.elim r.now (min r.now)) })) q) (s, j)

/-- A run of `n` bytes read `rate` bytes a cycle from the job's cycle 0 on, row by row [DESIGN CHOICE, log entry 31]. -/
def streamReads (b n rate : Nat) : List (Nat × Nat × Nat × Nat) :=
  (List.range (ceilDiv n 128)).map (fun i => (b + 128 * i, min 128 (n - 128 * i), 128 * i / rate, 0))

/-! ### Reads -/

/-- A byte of a job's read. -/
def State.jByte (s : State) (j : Job) (sp b : Nat) : Byte :=
  match s.wordThen j sp b with
  | some w => BitVec.ofNat 8 (w.1 >>> (8 * (b % 8)))
  | none => s.spByte j.c sp b j.task

/-- A little-endian number of a job's read. -/
def State.jLE (s : State) (j : Job) (sp b n : Nat) : Nat := leVal ((List.range n).map (fun i => s.jByte j sp (b + i)))

/-- Whether the word of a byte reaches the job poisoned: its mark, or its row's failed check. -/
def State.jWordPoison (s : State) (j : Job) (sp b : Nat) : Bool :=
  (s.wordThen j sp b).elim (s.wordPoison j.c sp b j.task) (·.2) || !s.rowPasses j sp b

/-- Whether any word of a range reaches the job poisoned. -/
def State.jPoison (s : State) (j : Job) (sp b n : Nat) : Bool :=
  if n = 0 then false else (List.range ((b + n - 1) / 8 - b / 8 + 1)).any (fun i => s.jWordPoison j sp (8 * (b / 8 + i)))

/-- A PSP slot as a job reads it (R140). -/
def State.jSlot (s : State) (j : Job) (p : Nat) : Slot :=
  let b := j.f.latch.slotByte p
  let x := slotOf (s.jLE j spPSP b 16)
  { x with poison := x.poison || s.jPoison j spPSP b 16 }

/-! ### Writes -/

/-- A member's write of words of one row at cycle `t` of its run (R118, R132): writes of members that the bank grants later stay on top. -/
def State.memberWrite (s : State) (j : Job) (rank sp r : Nat) (ws : List (Option (Nat × Bool))) (t : Nat) : State :=
  let row := rowAddr j.c sp r
  let w : RowWrite := { ref := j.f.ref, rank := rank, row := row, cycle := j.cyc t, tag := dLockOffset j.f.desc % 16, words := ws
                        old := (List.range 16).map (fun i => (s.readLE (row + 8 * i) 8, s.wordPoison j.c sp (128 * r + 8 * i) j.task)) }
  let later := (s.groupOf j.c).elim [] (fun g => (g.done row).filter (fun x => w.before x.cycle x.rank))
  let merged := (List.range 16).map (fun i =>
    (ws.getD i none).bind (fun v => (lastWrite (later.filter (·.touches i))).elim (some v) (fun x => x.words.getD i none)))
  (s.rowWrite j.c sp r merged (.set ((lastWrite later).elim w.tag (·.tag))) j.task (some j.f.ref)).modGroup j.c (fun g =>
    { g with writes := g.writes ++ [w] })

/-- A job's write of words from offset `b`, a row of them when the last of its words, by the cycle `tc` gives each, is there: a member sets
the stamp, any other write clears it (R118). -/
def State.jWrite (s : State) (j : Job) (sp b : Nat) (ws : List (Nat × Bool)) (tc : Nat → Nat) (rank : Nat := j.rank) : State :=
  if !j.member then s.spWriteWords j.c sp b ws .clear j.task (some j.f.ref)
  else
    let w0 := b / 8
    (List.range ((w0 + ws.length + 15) / 16 - w0 / 16)).foldl (fun s k =>
      let r := w0 / 16 + k
      let at_ (i : Nat) : Option Nat := if 16 * r + i < w0 ∨ w0 + ws.length ≤ 16 * r + i then none else some (16 * r + i - w0)
      s.memberWrite j rank sp r ((List.range 16).map (fun i => (at_ i).bind (fun x => ws[x]?)))
        ((List.range 16).foldl (fun t i => (at_ i).elim t (fun x => max t (tc x))) 0)) s

/-- The two words of a slot; a poisoned slot has its POISON flag set (R48). -/
def slotWords (x : Slot) : List (Nat × Bool) := [(bits x.toNat 0 64, false), (bits x.toNat 64 64, false)]

/-- Groups values of `w` bytes with poison into whole words: a word is poisoned when a value in it is. Bytes of the last word beyond
the values are free: engines write whole words only, and the spec does not say what they hold (R133; log entry 9). -/
def packWords (w : Nat) (vs : List (Nat × Bool)) : List (Nat × Bool) :=
  let per := 8 / w
  let full := vs.length / per
  let word (l : List (Nat × Bool)) (tail : Nat) : Nat × Bool :=
    ((List.range per).foldl (fun v i => v + (l.getD i (tail >>> (8 * w * i), false)).1 % 2 ^ (8 * w) * 2 ^ (8 * w * i)) 0,
      l.any (·.2))
  (List.range full).map (fun i => word (slice vs (i * per) per) 0) ++
  (if vs.length % per = 0 then [] else [word (vs.drop (full * per)) (Config.freeOf (1 :: vs.map (·.1))).toNat])

/-! ### Lock links (R114 to R117, R201) -/

def lkWF0 : Nat := 0
def lkWF1 : Nat := 1
def lkQV : Nat := 2
def lkVQ : Nat := 3

/-- Cycles from issue to presence (R114). -/
def linkLatency (l : Nat) : Nat := if l ≤ lkWF1 then 2 else 1

/-- Issues word number `n` of a member's run on a link at cycle `t` of the job (R115). -/
def State.issueWord (s : State) (j : Job) (l n t : Nat) (poison : Bool) (payload : List Int) : State :=
  s.modGroup j.c (fun g => { g with links := modAt g.links l (fun ws =>
    ws ++ [⟨j.f.ref, j.cyc t + linkLatency l, poison, n % 16, payload⟩]) })

/-- The word that a consumer captures at a group cycle as its capture number `n` (R116), its producer having run or not: a word that fails
its check is none. -/
def State.capture (s : State) (c l n cycle : Nat) : Option LinkWord :=
  ((s.groupOf c).bind (fun g =>
    (g.links.getD l [] ++ g.aheadLinks.getD l []).find? (fun w => w.cycle == cycle))).filter (fun w => w.tag == n % 16)

/-- A failed link check at a group cycle (R116, R120) [DEDUCED, log entry 41]. -/
def State.linkFail (s : State) (j : Job) (cyc : Nat) : State × Job :=
  (s.skew j.c j.f.ref j.f.desc cyc, { j with failAt := some (j.failAt.elim cyc (min cyc)), poison := true })

/-! ### The end of a descriptor in its engine -/

/-- A member has ended: one that ended with TIMING_SKEW counts (R125). -/
def State.countSkew (s : State) (c : Nat) (r : DescRef) : State :=
  if (s.flight? r).elim false (fun f => f.status == stTimingSkew) then
    (s.fadd CORE_LOCK_SKEWS_COUNT 1 c).fset CORE_LOCK_STATUS_SKEW_SEEN 1 c
  else s

/-- The member of a job has run, and ends at a group cycle; a member that ends after LENGTH has overrun (R108) [DEDUCED, log entry 76]. -/
def State.memberEnd (s : State) (j : Job) (dur : Nat) : State :=
  if !j.member then s
  else
    let e := j.cyc dur
    let s := if j.slip = 0 ∨ dur < j.slipAt then s
      else (s.fadd CORE_LOCK_SLIPS_COUNT j.slip j.c).fset CORE_LOCK_STATUS_SLIP_SEEN 1 j.c
    let s := s.modMember j.c j.f.ref (fun m => { m with ran := true, endCycle := e })
    if j.length < e then
      (s.skew j.c j.f.ref j.f.desc j.length).fset CORE_LOCK_STATUS_OVERRUN_SEEN 1 j.c
    else s

/-- A job ends after `dur` cycles; a job that has read poison completes CONTAINED_FAULT unless another status precedes (R121). -/
def State.endJob (s : State) (j : Job) (dur status : Nat) : State :=
  let s := ((s.memberEnd j dur).addBusy j.c (dEngine j.f.desc) dur).endFlight j.f.ref (if j.poison then worse status stContainedFault else status)
  if j.member then s.countSkew j.c j.f.ref else s

/-- A job that a check stops before it starts: a class U fault of a source; it writes nothing and has not run (R63, R92, R123, R147, R511)
[DEDUCED, log entry 33]. -/
def State.stopJob (s : State) (j : Job) (status source : Nat) : State :=
  let s := if j.member && status = stBoundViolation then s.modGroup j.c (fun g => { g with bound := true }) else s
  let s := s.endFault j.f.ref status source
  if j.member then
    (s.modMember j.c j.f.ref (fun m => { m with ran := true, endCycle := j.cyc 0 })).countSkew j.c j.f.ref
  else s

/-- A region outside the task's bounds (R92, R147). -/
def State.boundStop (s : State) (j : Job) : State := s.stopJob j stBoundViolation (coreSrc j.c 0x12)

/-- A field block that fails its engine's check. -/
def State.fieldStop (s : State) (j : Job) : State := s.stopJob j stContainedFault (coreSrc j.c 0x13)

/-- A handle of a space its field does not admit (R219). -/
def State.handleStop (s : State) (j : Job) : State := s.stopJob j stContainedFault 0x001

/-- Whether a list of regions (scratchpad, offset, bytes) lies within a job's bounds. -/
def State.jBounds (s : State) (j : Job) (l : List (Nat × Nat × Nat)) : Bool :=
  l.all (fun r => s.inBounds j.c j.f.latch r.1 r.2.1 r.2.2)

/-- Byte offset of a scratchpad handle for a job. -/
def Job.at (j : Job) (h : Nat) : Nat := j.f.latch.byteOf (handleSpace h) (handleIndex h)

/-- A check that an armed FCU_INJECT feeds during a job, attributed to its descriptor; the class raised, 0 for none (R510). -/
def State.injectJob (s : State) (j : Job) (source twoBits : Nat) : State × Nat :=
  let id := (s.caravanOf j.f).elim 0 (fun k => k.id)
  let r := s.injectCheck source twoBits (some j.f.ref) id (some j.c)
  if r.2 = 0 then r
  else (r.1.modFlight j.f.ref (fun f =>
    { f with fclass := max f.fclass r.2, fsource := if f.fclass = 0 then source else f.fsource }), r.2)

/-- An engine command: executes the descriptor at hand on engine `e` of core `c`, where it is one that `sel` picks and may start
[DESIGN CHOICE, log entry 6]. -/
def engineCmd (c e : Nat) (sel : Nat → Bool) (ready : State → Job → Bool) (s : State) (body : State → Job → State) : Result :=
  unit (c < 8) (match s.jobFor c e with
    | none => .next s
    | some j => due (s.coreWorks c && sel j.f.desc && ready s j) s (body (s.setPhase c (dPhase j.f.desc)) j))

end Sys2Proof.Machine
end

