-- ==== Sys2Proof/Machine/Feed.lean ====
section
/-! DEFINITION. The geometry of WIN feeds and the row schedule of the arrays: parameters and derived tiles (R157 to R161, R165, R169, R174
to R176), link words (R162, R167, R168), row groups (R73, R77, R78, R163), and the pairing of feeds with array members (R163). -/

namespace Sys2Proof.Machine

/-! ### Row groups and passes (R73, R77, R78, R83) -/

/-- Number of row groups. -/
def rowGroups (m : Nat) : Nat := ceilDiv m 64

/-- Rows of group `i`. -/
def groupRows (m i : Nat) : Nat := min 64 (m - 64 * i)

/-- Cycle at which group `i` begins. -/
def groupStart (m kb p : Nat) : Nat → Nat
  | 0 => 0
  | i + 1 => groupStart m kb p i + max (p * kb * max (groupRows m i) 32) (if i = 0 then 0 else 16 * groupRows m (i - 1))

/-- T of R78, with `w` columns of fill. -/
def streamTime (m kb p w : Nat) : Nat :=
  groupStart m kb p (rowGroups m) + max w (16 * groupRows m (rowGroups m - 1)) + 32

/-- Cycle at which row `r` of group `i` enters column 0 for pass `q` of block `k`. -/
def rowEntry (m kb p i k q r : Nat) : Nat := groupStart m kb p i + (k * p + q) * max (groupRows m i) 32 + r

/-- A row entry: row, block, pass, number in the order of R163, cycle. -/
structure RowEntry where
  m : Nat
  kb : Nat
  pass : Nat
  num : Nat
  cycle : Nat
  deriving DecidableEq, Repr

/-- Number of an entry: group by group, block by block, pass by pass, row by row (R163). -/
def entryNum (m kb p i k q r : Nat) : Nat := 64 * i * kb * p + (k * p + q) * groupRows m i + r

/-- Every row entry of an instruction, in order. -/
def rowEntries (m kb p : Nat) : List RowEntry :=
  (List.range (rowGroups m)).flatMap (fun i => (List.range kb).flatMap (fun k => (List.range p).flatMap (fun q =>
    (List.range (groupRows m i)).map (fun r => ⟨64 * i + r, k, q, entryNum m kb p i k q r, rowEntry m kb p i k q r⟩))))

/-! ### WIN_FEED (R157, R225) -/

/-- Layer geometry: input size, kernel, stride, dilation, padding. -/
structure Layer where
  h : Nat
  w : Nat
  kh : Nat
  kw : Nat
  sy : Nat
  sx : Nat
  dy : Nat
  dx : Nat
  pt : Nat
  pb : Nat
  pl : Nat
  pr : Nat
  deriving DecidableEq, Repr

/-- A WIN feed: its layer, input rectangle, output tile and modes, as the descriptor or its chain gives them. -/
structure Feed where
  lay : Layer
  c : Nat
  afmt : Nat
  iy0 : Nat
  ix0 : Nat
  inr : Nat
  ins : Nat
  padCode : Nat
  padExp : Int
  zp : Int
  zpc : Bool
  p : Nat
  links : Nat
  chain : Nat
  layer : Nat
  chainHandle : Nat
  groups : Nat
  gsel : Nat
  oy0 : Nat
  ox0 : Nat
  oh : Nat
  ow : Nat
  badBits : Bool
  deriving DecidableEq, Repr

/-- Reads a WIN_FEED descriptor (R225). -/
def feedOf (d : Nat) : Feed :=
  { lay := ⟨dbytes d 16 2, dbytes d 18 2, dbytes d 29 1, dbytes d 30 1, dbits d 31 0 4 + 1, dbits d 31 4 4 + 1, dbytes d 32 1,
      dbytes d 33 1, dbytes d 34 1, dbytes d 35 1, dbytes d 36 1, dbytes d 37 1⟩
    c := dbytes d 20 2, afmt := dbits d 41 0 4
    iy0 := dbytes d 22 2, ix0 := dbytes d 24 2, inr := dbytes d 26 2, ins := dbytes d 28 1 + 1
    padCode := dbytes d 38 1, padExp := sext 5 (dbits d 39 0 5)
    zp := sext 8 (dbytes d 40 1), zpc := dbits d 41 4 1 == 1
    p := (let x := dbits d 41 5 2; if x = 0 then 1 else if x = 1 then 2 else if x = 2 then 4 else 0)
    links := dbits d 42 0 2, chain := dbits d 42 2 3, layer := dbits d 42 5 3, chainHandle := dbytes d 56 4
    groups := dbytes d 44 2, gsel := dbytes d 46 2
    oy0 := dbytes d 48 2, ox0 := dbytes d 50 2, oh := dbytes d 52 2, ow := dbytes d 54 2
    badBits := dbits d 39 5 3 != 0 || dbits d 41 7 1 != 0 || dbytes d 43 1 != 0 }

/-- Output rows or columns of R158; 0 where there are none. -/
def outSize (n lo hi dil k st : Nat) : Nat :=
  if n + lo + hi < dil * (k - 1) + 1 then 0 else (n + lo + hi - dil * (k - 1) - 1) / st + 1

def Layer.hOut (l : Layer) : Nat := outSize l.h l.pt l.pb l.dy l.kh l.sy
def Layer.wOut (l : Layer) : Nat := outSize l.w l.pl l.pr l.dx l.kw l.sx

/-- Ranges of a layer's parameters (R157, R174). -/
def Layer.ok (l : Layer) : Bool :=
  decide (1 ≤ l.h) && decide (l.h ≤ 8192) && decide (1 ≤ l.w) && decide (l.w ≤ 8192) && decide (1 ≤ l.kh) && decide (l.kh ≤ 32) &&
  decide (1 ≤ l.kw) && decide (l.kw ≤ 32) && decide (1 ≤ l.sy) && decide (l.sy ≤ 16) && decide (1 ≤ l.sx) && decide (l.sx ≤ 16) &&
  decide (1 ≤ l.dy) && decide (l.dy ≤ 255) && decide (1 ≤ l.dx) && decide (l.dx ≤ 255)

/-! ### Fused tiles (R174 to R176) -/

/-- A chain table entry from its 16 bytes, and whether its reserved bytes are clear. -/
def layerOf (x : Nat) : Layer × Bool :=
  (⟨bits x 0 16, bits x 16 16, bits x 32 8, bits x 40 8, bits x 48 8, bits x 56 8, bits x 64 8, bits x 72 8, bits x 80 8,
    bits x 88 8, bits x 96 8, bits x 104 8⟩, bits x 112 16 == 0)

/-- The rows [a, b] that the layer before must give (R175); none where `b` lies before `a`. -/
def neededBefore (n st pad dil k : Nat) (a b : Int) : Int × Int :=
  (max 0 (a * st - pad), min ((n : Int) - 1) (b * st - pad + dil * (k - 1 : Nat)))

/-- A tile: rows a to b, columns c to d. -/
structure Tile where
  a : Int
  b : Int
  c : Int
  d : Int
  deriving DecidableEq, Repr

/-- The tile that layer `l` needs as its input to give output tile `t` (R175). -/
def Layer.inputTile (l : Layer) (t : Tile) : Tile :=
  let r := neededBefore l.h l.sy l.pt l.dy l.kh t.a t.b
  let q := neededBefore l.w l.sx l.pl l.dx l.kw t.c t.d
  ⟨r.1, r.2, q.1, q.2⟩

/-- The output tile of the layer with `n` layers after it, walking back from the last. -/
def tileBack : List Layer → Nat → Tile → Tile
  | _, 0, t => t
  | [], _, t => t
  | l :: ls, n + 1, t => tileBack ls n (l.inputTile t)

/-- The chain table's layers, first layer first, with whether every entry is well formed and follows from the one before. -/
def State.chainLayers (s : State) (j : Job) (f : Feed) : List Layer × Bool :=
  let at_ (i : Nat) := layerOf (s.jLE j spASP (j.at f.chainHandle + 16 * i) 16)
  let ls := (List.range f.chain).map (fun i => (at_ i).1)
  (ls, (List.range f.chain).all (fun i => (at_ i).2 && (at_ i).1.ok) &&
    (List.range (f.chain - 1)).all (fun i => decide (1 ≤ (at_ i).1.hOut) && decide (1 ≤ (at_ i).1.wOut) &&
      (ls.getD (i + 1) (at_ 0).1).h == (ls.getD i (at_ 0).1).hOut && (ls.getD (i + 1) (at_ 0).1).w == (ls.getD i (at_ 0).1).wOut))

/-- Rows of an interval, 0 where it is empty. -/
def extent (a b : Int) : Nat := (b - a + 1).toNat

/-- The feed with the geometry its chain derives (R176), or itself outside chain mode. -/
def State.feedResolved (s : State) (j : Job) (f : Feed) : Feed :=
  if f.chain = 0 then f
  else
    let ls := (s.chainLayers j f).1
    let last : Tile := ⟨f.oy0, f.oy0 + f.oh - 1, f.ox0, f.ox0 + f.ow - 1⟩
    let lay := ls.getD (f.layer - 1) f.lay
    let t := tileBack ls.reverse (f.chain - f.layer) last
    let i := lay.inputTile t
    let n := extent i.c i.d
    { f with lay := lay, oy0 := t.a.toNat, oh := extent t.a t.b, ox0 := t.c.toNat, ow := extent t.c t.d
             iy0 := i.a.toNat, inr := extent i.a i.b, ix0 := 32 * (i.c.toNat / 32)
             ins := if n = 0 then 0 else i.d.toNat / 32 - i.c.toNat / 32 + 1 }

/-! ### Derived counts (R155, R159, R160, R169) -/

def Feed.cb (f : Feed) : Nat := ceilDiv f.c 32
def Feed.cg (f : Feed) : Nat := if f.groups = 0 then 0 else f.c / f.groups
def Feed.cbg (f : Feed) : Nat := if f.cg % 32 = 0 then f.cg / 32 else 1
def Feed.strips (f : Feed) : Nat := if f.ow = 0 then 0 else (f.ox0 + f.ow - 1) / 32 - f.ox0 / 32 + 1
def Feed.rows (f : Feed) : Nat := f.oh * 32 * f.strips
def Feed.blocks (f : Feed) : Nat := f.lay.kh * f.lay.kw * f.cbg

/-- Buffer channel group of block index `i` of a tap (R169). -/
def Feed.chanGroup (f : Feed) (i : Nat) : Nat := if f.cg % 32 = 0 then f.gsel * f.cbg + i else f.gsel

/-- Bytes of the input buffer (R155). -/
def Feed.bufferBytes (f : Feed) : Nat := 32 * (f.inr * f.ins * f.cb * tileGranules f.afmt)

/-! ### Link words (R161, R162, R167, R168) -/

/-- Whether PAD words are gated (R168). -/
def Feed.gates (f : Feed) : Bool :=
  if f.afmt = fmtE4M3 ∨ f.afmt = fmtE5M2 then f.padCode == 0 || f.padCode == 0x80
  else !f.zpc && sext (codeBits f.afmt) f.padCode == f.zp

/-- The payload of the word for row `m` and block `kb`. -/
def Feed.word (f : Feed) (m kb : Nat) : Nat :=
  let so := 32 * f.strips
  let yo := f.oy0 + m / so
  let xo := 32 * (f.ox0 / 32) + m % so
  if xo < f.ox0 ∨ f.ox0 + f.ow ≤ xo then 2 ^ 24
  else
    let tap := kb / f.cbg
    let yi : Int := (yo * f.lay.sy + tap / f.lay.kw * f.lay.dy : Nat) - (f.lay.pt : Int)
    let xi : Int := (xo * f.lay.sx + tap % f.lay.kw * f.lay.dx : Nat) - (f.lay.pl : Int)
    if yi < 0 ∨ (f.lay.h : Int) ≤ yi ∨ xi < 0 ∨ (f.lay.w : Int) ≤ xi then 2 ^ 23 + (if f.gates then 2 ^ 25 else 0)
    else
      let y := yi.toNat - f.iy0
      let x := xi.toNat - f.ix0
      let bale := (y * f.ins + x / 32) * f.cb + f.chanGroup (kb % f.cbg)
      bale * tileGranules f.afmt % 2 ^ 18 + x % 32 * 2 ^ 18

/-! ### Checks of a WIN feed (R165) -/

/-- Whether some position that an output coordinate range reads along an axis of `n` is no padding, and whether every such one lies in the
rectangle. -/
def axisReads (n o0 on st pad dil k r0 rn : Nat) : Bool × Bool :=
  (List.range on).foldl (fun r i => (List.range k).foldl (fun r u =>
    let x := (o0 + i) * st + u * dil
    if x < pad ∨ pad + n ≤ x then r else (true, r.2 && decide (r0 + pad ≤ x) && decide (x < r0 + rn + pad))) r) (false, true)

/-- Whether every non-padding input position of the tile lies inside the input rectangle (R165 reason 4): a position is padding when either
coordinate is (R161). -/
def Feed.covered (f : Feed) : Bool :=
  let y := axisReads f.lay.h f.oy0 f.oh f.lay.sy f.lay.pt f.lay.dy f.lay.kh f.iy0 f.inr
  let x := axisReads f.lay.w f.ox0 f.ow f.lay.sx f.lay.pl f.lay.dx f.lay.kw f.ix0 (32 * f.ins)
  !y.1 || !x.1 || (y.2 && x.2)

/-- Whether PAD_CODE is a code of the format (R165 reason 6): Q4 and Q6 codes sign-extended, no FP8 NaN. -/
def Feed.padOk (f : Feed) : Bool :=
  if f.afmt = fmtQ4 ∨ f.afmt = fmtQ6 then sext 8 f.padCode == sext (codeBits f.afmt) f.padCode
  else if f.afmt = fmtE4M3 then e4m3 f.padCode != .nan
  else if f.afmt = fmtE5M2 then e5m2 f.padCode != .nan
  else true

/-- Reason 1 of R165: a parameter outside its range in R157, or a reserved bit. -/
def Feed.reason1 (f : Feed) : Bool :=
  f.badBits || f.p == 0 || f.links == 0 || 4 < f.afmt || f.c == 0 || 4096 < f.c || f.groups == 0 || 4096 < f.groups ||
  4095 < f.gsel || f.oh == 0 || f.ow == 0 ||
  (f.chain == 0 && (!f.lay.ok || f.ix0 % 32 != 0 || f.inr == 0 || 8192 < f.inr)) ||
  (f.chain != 0 && (4 < f.chain || f.layer == 0 || f.chain < f.layer || handleSpace f.chainHandle != spASP))

/-- Reason 5 of R165: grouping against R169, GSEL out of range. -/
def Feed.reason5 (f : Feed) (packed : Bool) : Bool :=
  let small := [1, 2, 4, 8, 16].contains f.cg
  f.c % f.groups != 0 || !(f.cg % 32 == 0 || small) ||
  (if packed then f.gsel != 0
   else if f.cg % 32 = 0 then decide (f.groups ≤ f.gsel) else decide (f.cb ≤ f.gsel))

/-- The layer whose output tile the feed gives: the chain's last, or its own. -/
def State.lastLayer (s : State) (j : Job) (f : Feed) : Layer :=
  if f.chain = 0 then f.lay else (s.chainLayers j f).1.getD (f.chain - 1) f.lay

/-- The lowest reason of 1 to 7 for which a feed is rejected, 0 for none. Where the chain table is in error, the geometry that reasons 2 to 4
test is not given [DEDUCED, log entry 42]. -/
def State.feedReason (s : State) (j : Job) (f0 : Feed) (packed : Bool) : Nat :=
  if f0.reason1 then 1
  else
    let chainBad := f0.chain != 0 && !(s.chainLayers j f0).2
    let f := s.feedResolved j f0
    let last := s.lastLayer j f0
    if !chainBad && (last.hOut = 0 || last.wOut = 0 || last.hOut < f0.oy0 + f0.oh || last.wOut < f0.ox0 + f0.ow) then 2
    else if !chainBad && 4096 < f.blocks then 3
    else if !chainBad && !f.covered then 4
    else if f0.reason5 packed then 5
    else if !f0.padOk then 6
    else if chainBad then 7
    else 0

/-! ### Pairing (R163) -/

/-- ASRC of an array descriptor: 0 ASP, 1 WF0, 2 WF1. -/
def arrayAsrc (d : Nat) : Nat :=
  if dOpcode d = opMXA_STREAM then dbits d 46 2 2 else if dOpcode d = opMXA_PACKED then dbits d 20 0 2 else 0

/-- Flights of a group's members, in queue order. -/
def State.memberFlights (s : State) (g : Group) : List Flight := g.members.filterMap (fun m => s.flight? m.ref)

/-- The WIN feed members that name a link, in queue order. -/
def feedsOn (l : List Flight) (link : Nat) : List Flight :=
  l.filter (fun f => dOpcode f.desc == opWIN_FEED && bitAt (feedOf f.desc).links link)

/-- The array members on a link's array whose ASRC names the link, in queue order. -/
def arraysOn (l : List Flight) (link : Nat) : List Flight :=
  l.filter (fun f => dEngine f.desc == enMXA0 + link && arrayAsrc f.desc == link + 1)

/-- The WIN feed paired with an array member on a link. -/
def pairedFeed (l : List Flight) (link : Nat) (r : DescRef) : Option Flight :=
  (feedsOn l link)[(arraysOn l link).findIdx (fun f => f.ref == r)]?

end Sys2Proof.Machine
end

