-- ==== Sys2Proof/Machine/Array.lean ====
section
/-! DEFINITION. The matrix arrays: stream, packed and Throughflow instructions (R66 to R93, R99, R164 to R168, R222, R223, R511). -/

namespace Sys2Proof.Machine

/-! ### A problem: what one instruction, or one span of a packed one, computes -/

/-- A problem of an array: formats, rows, blocks, columns, where its operands lie, zero points, slots, source of activations (0 ASP, 1
WF0, 2 WF1), and whether its weights are laid out for Throughflow. -/
structure Prob where
  wfmt : Nat
  afmt : Nat
  m : Nat
  kb : Nat
  n : Nat
  fill : Nat
  weight : Nat
  stride : Nat
  act : Nat
  zpc : Bool
  zp : Nat
  base : Nat
  pitch : Nat
  accum : Bool
  src : Nat
  through : Bool
  span : Nat
  deriving DecidableEq, Repr

/-- Passes per block of one operand and of both (R55, R73). -/
def fmtPasses (fmt : Nat) : Nat := if fmt < 5 then 1 else 2
def Prob.p (q : Prob) : Nat := fmtPasses q.wfmt * fmtPasses q.afmt

/-- Parts of weight and activation that pass `i` multiplies (R55). -/
def Prob.part (q : Prob) (i : Nat) : Nat × Nat :=
  if q.wfmt < 5 then (0, i) else if q.afmt < 5 then (i, 0) else (i / 2, i % 2)

/-- The problem of a stream descriptor (R222). -/
def streamProb (d : Nat) : Prob :=
  { wfmt := dbits d 35 0 4, afmt := dbits d 35 4 4, m := dbits d 28 0 21, kb := dbits d 32 0 13, n := 8 * dbytes d 34 1
    fill := 1024, weight := dbytes d 16 4, stride := dbytes d 44 2, act := dbytes d 20 4, zpc := dbits d 46 1 1 == 1
    zp := dbytes d 24 4, base := dbits d 36 0 18, pitch := dbits d 40 0 19, accum := dbits d 46 0 1 == 1
    src := dbits d 46 2 2, through := false, span := 0 }

/-- The problem of a Throughflow descriptor (R223). -/
def throughProb (d : Nat) : Prob :=
  { wfmt := dbits d 30 0 4, afmt := dbits d 30 4 4, m := 2 ^ dbits d 29 0 2, kb := dbytes d 28 1, n := 32 * dbytes d 32 2
    fill := 0, weight := dbytes d 16 4, stride := 0, act := dbytes d 20 4, zpc := dbits d 29 3 1 == 1
    zp := dbytes d 24 4, base := dbits d 36 0 18, pitch := dbits d 40 0 19, accum := dbits d 29 2 1 == 1
    src := 0, through := true, span := 0 }

/-- The problem of span `i` from its entry (R81). -/
def spanProb (e asrc i : Nat) : Prob :=
  let zpc := bits e 122 1 == 1
  { wfmt := bits e 200 4, afmt := bits e 204 4, m := bits e 64 21, kb := bits e 96 13, n := 8 * bits e 112 5
    fill := 128, weight := bits e 0 32, stride := bits e 208 16, act := bits e 32 32, zpc := zpc
    zp := if zpc then bits e 224 32 else bits e 192 8, base := bits e 128 18, pitch := bits e 160 19
    accum := bits e 121 1 == 1, src := asrc, through := false, span := i }

/-- ENABLE of a span entry. -/
def spanEnabled (e : Nat) : Bool := bits e 120 1 == 1

/-- Whether an enabled entry fails R82. -/
def spanBad (e : Nat) : Bool :=
  let q := spanProb e 0 0
  bits e 85 11 != 0 || bits e 109 3 != 0 || bits e 117 3 != 0 || bits e 123 5 != 0 || bits e 146 14 != 0 || bits e 179 13 != 0 ||
  6 < q.wfmt || 6 < q.afmt || 1048576 < q.m || 4096 < q.kb || q.n == 0 || 128 < q.n || q.pitch % 8 != 0 || q.pitch < q.n ||
  (!q.zpc && bits e 224 32 != 0)

/-- Whether a stream, packed or Throughflow field block fails R511. -/
def arrayFieldBad (d : Nat) : Bool :=
  if dOpcode d = opMXA_STREAM then
    let q := streamProb d
    dbits d 28 21 11 != 0 || dbits d 32 13 3 != 0 || dbits d 36 18 14 != 0 || dbits d 40 19 13 != 0 || dbits d 46 4 4 != 0 ||
    dbytes d 47 1 != 0 || (!q.zpc && dbytes d 25 3 != 0) || 6 < q.wfmt || 6 < q.afmt || 1048576 < q.m || 4096 < q.kb ||
    q.n == 0 || 1024 < q.n || q.pitch % 8 != 0 || q.pitch < q.n || q.src == 3
  else if dOpcode d = opMXA_PACKED then
    dbits d 20 2 6 != 0 || dbytes d 21 3 != 0 || dbits d 20 0 2 == 3
  else
    let q := throughProb d
    dbits d 29 4 4 != 0 || dbytes d 31 1 != 0 || dbytes d 34 2 != 0 || dbits d 36 18 14 != 0 || dbits d 40 19 13 != 0 ||
    (!q.zpc && dbytes d 25 3 != 0) || q.kb == 0 || 128 < q.kb || q.n == 0 || 65536 < q.n || 4 < q.wfmt || 6 < q.afmt ||
    q.pitch % 8 != 0 || q.pitch < q.n

/-- Whether a problem's handles name the spaces their fields admit (R219). -/
def Prob.handlesOk (q : Prob) : Bool :=
  handleSpace q.weight == spWSP && handleSpace q.act == spASP && (!q.zpc || handleSpace q.zp == spASP)

/-- The duration of a problem (R78, R83, R87) [DESIGN CHOICE, log entry 30]. -/
def Prob.time (q : Prob) : Nat :=
  if q.through then
    q.p * max (ceilDiv (q.n * q.m) 8) (ceilDiv (q.n / 32 * q.kb * (32 * tileGranules q.wfmt)) 16384) + 96
  else streamTime q.m q.kb q.p q.fill

/-! ### Operands (R39, R45, R71, R86, R164, R512) -/

/-- The operand of block `b`, position `i` of a bale or tile at offset `o` of scratchpad `sp`, with zero point `z`. -/
def State.tileOpnd (s : State) (j : Job) (sp o fmt b i : Nat) (z : Int) : Opnd :=
  let bo := o + blockOffset fmt b
  if fmt < 5 then
    let sc := (s.jByte j sp (o + b)).toNat
    let pos := codePos fmt i
    let n := (pos % 8 + codeBits fmt + 7) / 8
    let code := bits (s.jLE j sp (bo + pos / 8) n) (pos % 8) (codeBits fmt)
    let e := expandCode fmt code (scaleExp sc) z
    { e with poison := s.jWordPoison j sp (o + b) || s.jPoison j sp (bo + pos / 8) n, corrupt := scaleCorrupt sc }
  else
    let v (k : Nat) := read16 fmt (s.jLE j sp (bo + 2 * k) 2)
    let g := groupExp ((List.range 32).map (fun k => (v k).1))
    let x := v i
    { split16 x.1 x.2 g with poison := s.jPoison j sp bo 64 }

/-- Byte offset of weight block `k` of a stream problem: BLOCK_STRIDE counts granules, for a 16-bit format tiles of 64 granules (R71). -/
def Prob.blockAt (q : Prob) (j : Job) (k : Nat) : Nat := j.at q.weight + 32 * (k * q.stride * (if q.wfmt < 5 then 1 else 64))

/-- Byte offset of the weight bale or tile of block `k` that holds column `col` (R71, R86). -/
def Prob.weightTile (q : Prob) (j : Job) (k col : Nat) : Nat :=
  let g := tileGranules q.wfmt
  if q.through then j.at q.weight + 32 * ((col / 32 * q.kb + k) * g) else q.blockAt j k + 32 * (col / 32 * g)

/-! ### Cycles of the reads (R73, R74, R85, R86) -/

/-- Rows' cycles in a pass of group `i`. -/
def Prob.pass (q : Prob) (i : Nat) : Nat := max (groupRows q.m i) 32

/-- The cycle at which weight bale or tile `b` of block `k` is read for group `i`, and by how much it comes before that: bale by bale from
the start of the pass before, which for the first block is the 32 cycles before cycle 0 (R74). In Throughflow `b` counts the bales in the
order of R86, spread evenly over the time after the vectors' load [DESIGN CHOICE, log entry 31]. -/
def Prob.weightCycle (q : Prob) (i k b : Nat) : Nat × Nat :=
  if q.through then (32 + b * (q.time - 96) / (q.n / 32 * q.kb), 0)
  else if k ≠ 0 then (groupStart q.m q.kb q.p i + (q.p * k - 1) * q.pass i + b, 0)
  else if i ≠ 0 then (groupStart q.m q.kb q.p (i - 1) + (q.p * q.kb - 1) * q.pass (i - 1) + b, 0)
  else (b, 32)

/-- The cycle at which the activations of row `m`, block `k`, pass `i` are read: two cycles before the row enters column 0 (R163), the
vectors of Throughflow in its first 32 cycles, block by block (R85; log entries 10 and 31). -/
def Prob.actCycle (q : Prob) (m k i : Nat) : Nat × Nat :=
  if q.through then (32 * k / q.kb, 0) else (rowEntry q.m q.kb q.p (m / 64) k i (m % 64), 2)

/-- The job reading weights of row `m`. -/
def Prob.weightJob (q : Prob) (j : Job) (m k col : Nat) : Job :=
  let c := q.weightCycle (m / 64) k (if q.through then col / 32 * q.kb + k else col / 32)
  j.reads 4 c.1 c.2

/-- The job reading activations or their zero points. -/
def Prob.actJob (q : Prob) (j : Job) (op m k i : Nat) : Job :=
  let c := q.actCycle m k i
  j.reads op c.1 c.2

/-- The weight operand of row `m`, block `k`, lane `b`, column `col`. -/
def State.weightOpnd (s : State) (j : Job) (q : Prob) (m k b col : Nat) : Opnd :=
  s.tileOpnd (q.weightJob j m k col) spWSP (q.weightTile j k col) q.wfmt b (col % 32) 0

/-- The zero point of lane `b` of block `k` for row `m` and pass `i`, and whether it reaches the job poisoned; FP8 and 16-bit operands ignore
it (R45) [DEDUCED, log entry 34]. -/
def State.zeroPoint (s : State) (j : Job) (q : Prob) (m k i b : Nat) : Int × Bool :=
  if fmtQ8 < q.afmt then (0, false)
  else if q.zpc then
    let o := j.at q.zp + 32 * k + b
    let r := q.actJob j 6 m k i
    (sext 8 (s.jByte r spASP o).toNat, s.jWordPoison r spASP o)
  else (sext 8 (q.zp % 256), false)

/-- Byte offset of the activation bale or tile of row `m` and block `k` read from memory (R71). -/
def Prob.actTile (q : Prob) (j : Job) (m k : Nat) : Nat := j.at q.act + 32 * ((m / 32 * q.kb + k) * tileGranules q.afmt)

/-- An operand poisoned by its zero point. -/
def Opnd.orPoison (o : Opnd) (p : Bool) : Opnd := { o with poison := o.poison || p }

/-- The link a problem's activations come over. -/
def Prob.link (q : Prob) : Nat := q.src - 1

/-- The group cycle at which the word of a row entry is captured: two cycles before the row enters column 0 (R114, R163; log entry 10). -/
def Job.captureAt (j : Job) (entry : Nat) : Nat := j.cyc entry - 2

/-- The link word captured for a row entry, if it passes its check (R116). -/
def State.feedWord (s : State) (j : Job) (q : Prob) (num entry : Nat) : Option LinkWord :=
  s.capture j.c q.link num (j.captureAt entry)

/-- Whether a link word makes the feeder read a bale: it is no PAD word and no FILL word (R164). -/
def LinkWord.ordinary (w : LinkWord) : Bool :=
  let x := (w.payload.getD 0 0).toNat
  !(bitAt x 23 || bitAt x 24)

/-- Byte offset of the bale that an ordinary word names. -/
def LinkWord.bale (w : LinkWord) (j : Job) (q : Prob) : Nat := j.at q.act + 32 * bits (w.payload.getD 0 0).toNat 0 18

/-- The activation operand a link word stands for (R164, R167, R168): a failed word is a FILL word with poison, a gated one W12 zero. -/
def State.wordOpnd (s : State) (j : Job) (q : Prob) (feed : Option Feed) (w : Option LinkWord) (m k i b : Nat) : Opnd :=
  match w with
  | none => { Opnd.zero with poison := true }
  | some w =>
    let x := (w.payload.getD 0 0).toNat
    let z := s.zeroPoint j q m k i b
    let o : Opnd :=
      if bitAt x 24 || (bitAt x 23 && bitAt x 25) then Opnd.zero
      else if bitAt x 23 then
        (match feed with
         | some f => (expandCode q.afmt f.padCode f.padExp z.1).orPoison z.2
         | none => Opnd.zero)
      else (s.tileOpnd (q.actJob j 5 m k i) spASP (w.bale j q) q.afmt b (bits x 18 5) z.1).orPoison z.2
    o.orPoison w.poison

/-- The activation operand of row `m`, block `k`, pass `i`, lane `b`. -/
def State.actOpnd (s : State) (j : Job) (q : Prob) (feed : Option Feed) (m k i b : Nat) : Opnd :=
  if q.src = 0 then
    let z := s.zeroPoint j q m k i b
    (s.tileOpnd (q.actJob j 5 m k i) spASP (q.actTile j m k) q.afmt b (m % 32) z.1).orPoison z.2
  else
    s.wordOpnd j q feed (s.feedWord j q (entryNum q.m q.kb q.p (m / 64) k i (m % 64))
      (rowEntry q.m q.kb q.p (m / 64) k i (m % 64))) m k i b

/-! ### Sums (R49 to R53, R75) -/

/-- The written sum of row `m`, column `col`: the terms of every block, pass and lane. -/
def State.columnSum (s : State) (j : Job) (q : Prob) (feed : Option Feed) (m col : Nat) : Slot :=
  (List.range q.kb).foldl (fun acc k => (List.range q.p).foldl (fun acc i => (List.range 32).foldl (fun acc b =>
    acc.add (termSlot (s.weightOpnd j q m k b col) (s.actOpnd j q feed m k i b) (q.part i).1 (q.part i).2)) acc) acc) Slot.empty

/-- Whether any scale byte the problem uses is corrupt (R41). -/
def State.probCorrupt (s : State) (j : Job) (q : Prob) (feed : Option Feed) : Bool :=
  (List.range q.kb).any (fun k => (List.range 32).any (fun b =>
    (List.range (rowGroups q.m)).any (fun r => (List.range (ceilDiv q.n 32)).any (fun i =>
      (s.weightOpnd j q (64 * r) k b (32 * i)).corrupt)) ||
    (if q.src = 0 then (List.range (ceilDiv q.m 32)).any (fun r => (s.actOpnd j q feed (32 * r) k 0 b).corrupt)
     else (List.range q.m).any (fun m => (s.actOpnd j q feed m k 0 b).corrupt))))

/-- What a descriptor's free values depend on: its bytes, and no place on the part (R65). -/
def Job.key (j : Job) : List Nat := [j.f.desc]

/-- Whether the port writes the last group's bank rows as soon as their slots have landed: columns cross 1,024 to a row, the flush of the group
before is over, and no bank row is read first (R76, R77). -/
def Prob.prompt (q : Prob) : Bool :=
  let i := rowGroups q.m - 1
  q.fill == 1024 && !q.accum && (i == 0 || decide (16 * groupRows q.m (i - 1) ≤ (q.p * q.kb - 1) * q.pass i + 39))

/-- The cycle at which the port writes columns `8 c` to `8 c + 7` of row `m`: for the last group when the eighth slot has landed, or up to
T - 1 where the port may be held up; for any other in the flush that follows its passes; in Throughflow from cycle 33 to T - 1. Where the
rules leave a range, a free value says when (R67, R76, R77, R83, R88) [DESIGN CHOICE, log entry 31]. -/
def Prob.writeCycle (q : Prob) (j : Job) (seed m c : Nat) : Nat :=
  let i := m / 64
  let start := groupStart q.m q.kb q.p i
  let done := start + q.p * q.kb * q.pass i
  let land := start + (q.p * q.kb - 1) * q.pass i + m % 64 + 8 * c + 39
  let pick (lo hi : Nat) (key : List Nat) : Nat := lo + (Config.freeOf (key ++ j.key ++ [q.span, m, c])).toNat % (hi - lo)
  if q.through then pick 33 q.time [3, seed]
  else if i + 1 < rowGroups q.m then pick done (done + 16 * groupRows q.m i) [2]
  else if q.prompt then land
  else pick land q.time [2]

/-- What marks the slots of a problem poisoned beside the terms: by row and column, a cell's fault; the first slot's accumulator. -/
structure Marks where
  cell : Nat → Nat → Bool
  acc : Bool

/-- The slots of row `m` as written: the column sums, started or accumulated, with the poison the cycle and a hit column give. -/
def State.rowSlots (s : State) (j : Job) (q : Prob) (feed : Option Feed) (mk : Marks) (seed m : Nat) : List Slot :=
  (List.range q.n).map (fun col =>
    let t := q.writeCycle j seed m (col / 8)
    let x := s.columnSum j q feed m col
    let x := if q.accum then (s.jSlot (j.reads 31 t) (q.base + m * q.pitch + col)).add x else x
    { x with poison := x.poison || j.late t || mk.cell m col || (mk.acc && col == 0 && m == 0) })

/-- Writes the rows of a problem in order; answers the state, and whether any slot written is poisoned. -/
def State.runProb (s : State) (j : Job) (q : Prob) (feed : Option Feed) (mk : Marks) : State × Bool :=
  let seed := (s.groupOf j.c).elim 0 (·.seed)
  (List.range q.m).foldl (fun (r : State × Bool) m =>
    let xs := r.1.rowSlots j q feed mk seed m
    (r.1.jWrite j spPSP (j.f.latch.slotByte (q.base + m * q.pitch)) (xs.flatMap slotWords) (fun w => q.writeCycle j seed m (w / 16)) portRank,
      r.2 || xs.any (·.poison))) (s, false)

/-- Terms a problem forms (R49, R101) [DEDUCED, log entry 33]. -/
def Prob.terms (q : Prob) : Nat := q.m * q.n * 32 * q.kb * q.p

/-! ### Regions (R92, R166) -/

/-- Bytes of a problem's weight block, or of a strip row of Throughflow weights. -/
def Prob.weightBytes (q : Prob) : Nat := 32 * tileGranules q.wfmt * ceilDiv q.n 32

/-- The slots of a problem. -/
def Prob.slots (q : Prob) (j : Job) : Nat × Nat × Nat := (spPSP, j.f.latch.slotByte q.base, 16 * ((q.m - 1) * q.pitch + q.n))

/-- The regions of a problem: weights, activations or the feed's buffer, zero points, slots [DEDUCED, log entry 34]. -/
def Prob.regions (q : Prob) (j : Job) (feed : Option Feed) : List (Nat × Nat × Nat) :=
  (if q.through then [(spWSP, j.at q.weight, q.weightBytes * q.kb)]
   else (List.range q.kb).map (fun k => (spWSP, q.blockAt j k, q.weightBytes))) ++
  (match feed with
   | some f => [(spASP, j.at q.act, f.bufferBytes)]
   | none => [(spASP, j.at q.act, 32 * tileGranules q.afmt * q.kb * ceilDiv q.m 32)]) ++
  (if q.zpc then [(spASP, j.at q.zp, 32 * q.kb)] else []) ++
  [q.slots j]

/-- The error checks of a problem's bank reads: weights, activations, or the bales that a feed's words name, zero points, and under ACCUM the
slots' rows (R76, R138, R164). -/
def State.eccProb (s : State) (j : Job) (q : Prob) : State :=
  let ref := some j.f.ref
  let s := if q.through then s.eccRead j.c spWSP (j.at q.weight) (q.weightBytes * q.kb) ref
    else (List.range q.kb).foldl (fun s k => s.eccRead j.c spWSP (q.blockAt j k) q.weightBytes ref) s
  let s :=
    if q.src = 0 then s.eccRead j.c spASP (j.at q.act) (32 * tileGranules q.afmt * q.kb * ceilDiv q.m 32) ref
    else
      let bales := (rowEntries q.m q.kb q.p).foldl (fun l e =>
        match s.feedWord j q e.num e.cycle with
        | some w => if w.ordinary then NSet.add l (w.bale j q) else l
        | none => l) []
      bales.foldl (fun s b => s.eccRead j.c spASP b (32 * tileGranules q.afmt) ref) s
  let s := if q.zpc && q.afmt ≤ fmtQ8 then s.eccRead j.c spASP (j.at q.zp) (32 * q.kb) ref else s
  if q.accum then
    (List.range q.m).foldl (fun s m => s.eccRead j.c spPSP (j.f.latch.slotByte (q.base + m * q.pitch)) (16 * q.n) ref) s
  else s

/-- The weight reads of a problem with their cycles: every bale of every block, for every row group. -/
def Prob.weightReads (q : Prob) (j : Job) : List (Nat × Nat × Nat × Nat) :=
  (List.range (if q.through then 1 else rowGroups q.m)).flatMap (fun i => (List.range q.kb).flatMap (fun k =>
    (List.range (ceilDiv q.n 32)).map (fun b =>
      let c := q.weightCycle i k (if q.through then b * q.kb + k else b)
      (q.weightTile j k (32 * b), 32 * tileGranules q.wfmt, c.1, c.2))))

/-- The activation reads of a problem with their cycles, for each row entry the bale `at_` gives it. -/
def Prob.actReads (q : Prob) (n : Nat) (at_ : RowEntry → Option Nat) : List (Nat × Nat × Nat × Nat) :=
  (if q.through then (List.range q.kb).map (fun k => (⟨0, k, 0, 0, 0⟩ : RowEntry)) else rowEntries q.m q.kb q.p).filterMap (fun e =>
    let c := q.actCycle e.m e.kb e.pass
    (at_ e).map (fun b => (b, n, c.1, c.2)))

/-- The checks of a problem's reads: error checks, and the producer checks of operands 4 (weights), 5 (activations) and 6 (zero points) of a
stream or Throughflow descriptor (R118). -/
def State.readProb (s : State) (j : Job) (q : Prob) (packed : Bool) : State × Job :=
  let s := s.eccProb j q
  if packed then (s, j)
  else
    let r := s.checkReads j 4 spWSP (q.weightReads j)
    let bale (e : RowEntry) : Option Nat :=
      if q.src = 0 then some (q.actTile j e.m e.kb)
      else (s.feedWord j q e.num e.cycle).bind (fun w => if w.ordinary then some (w.bale j q) else none)
    let r := r.1.checkReads r.2 5 spASP (q.actReads (32 * tileGranules q.afmt) bale)
    if q.zpc && q.afmt ≤ fmtQ8 then r.1.checkReads r.2 6 spASP (q.actReads 32 (fun e => some (j.at q.zp + 32 * e.kb))) else r

/-- The captures of a fed problem: every entry whose word fails its check is a cause of TIMING_SKEW (R116). -/
def State.captureAll (s : State) (j : Job) (q : Prob) : State × Job :=
  (rowEntries q.m q.kb q.p).foldl (fun (r : State × Job) e =>
    match r.1.feedWord j q e.num e.cycle with
    | some _ => r
    | none => r.1.linkFail r.2 (j.captureAt e.cycle)) (s, j)

/-! ### The instructions -/

/-- Array of a job: 0 MXA0, 1 MXA1. -/
def Job.arr (j : Job) : Nat := dEngine j.f.desc - enMXA0

/-- Source of a fault of a job's array, by its offset for MXA0 (R431). -/
def Job.arrSrc (j : Job) (o : Nat) : Nat := coreSrc j.c (8 * j.arr + o)

/-- The feed paired with a member on the link it names, with its chain's geometry. -/
def State.feedFor (s : State) (j : Job) (src : Nat) : Option Feed :=
  if src = 0 then none
  else (s.groupOf j.c).bind (fun g => (pairedFeed (s.memberFlights g) (src - 1) j.f.ref).map (fun f => s.feedResolved j (feedOf f.desc)))

/-- The entries of a packed instruction's span table. -/
def State.spanEntries (s : State) (j : Job) : List Nat :=
  (List.range 8).map (fun i => s.jLE (j.reads 4 0 32) spWSP (j.at (dbytes j.f.desc 16 4) + 32 * i) 32)

/-- The problems of an array descriptor: one, or one per enabled span. -/
def State.probs (s : State) (j : Job) : List Prob :=
  let d := j.f.desc
  if dOpcode d = opMXA_STREAM then [streamProb d]
  else if dOpcode d = opMXA_THROUGH then [throughProb d]
  else ((List.range 8).zip (s.spanEntries j)).filterMap (fun x =>
    if spanEnabled x.2 then some (spanProb x.2 (dbits d 20 0 2) x.1) else none)

/-- Problems that do anything: M and KB above 0 (R72). -/
def liveProbs (l : List Prob) : List Prob := l.filter (fun q => q.m != 0 && q.kb != 0)

/-- Why an array descriptor does not start, if it does not: the status and source (R82, R92, R99, R165, R219, R511). -/
def State.arrayStop (s : State) (j : Job) : Option Stop :=
  let d := j.f.desc
  let packed := dOpcode d == opMXA_PACKED
  let tab := j.at (dbytes d 16 4)
  let bound : Stop := ⟨stBoundViolation, coreSrc j.c 0x12⟩
  if !s.arrayPresent j.c j.arr || arrayFieldBad d then some ⟨stContainedFault, coreSrc j.c 0x13⟩
  else if packed && handleSpace (dbytes d 16 4) != spWSP then some ⟨stContainedFault, 0x001⟩
  else if arrayAsrc d != 0 && !j.member then some ⟨stContainedFault, coreSrc j.c 0x10⟩
  else if packed && !s.inBounds j.c j.f.latch spWSP tab 256 then some bound
  else if packed && (s.spanEntries j).any (fun e => spanEnabled e && spanBad e) then some ⟨stContainedFault, j.arrSrc 0x02⟩
  else if !(s.probs j).all Prob.handlesOk then some ⟨stContainedFault, 0x001⟩
  else if (liveProbs (s.probs j)).all (fun q => s.jBounds j (q.regions j (s.feedFor j q.src))) then none
  else some bound

/-- The activity level an array descriptor needs (R423): 0 when it does not start. -/
def State.arrayNeed (s : State) (j : Job) : Nat :=
  if (s.arrayStop j).isSome || liveProbs (s.probs j) == [] then 0
  else if dOpcode j.f.desc = opMXA_STREAM then ceilDiv (streamProb j.f.desc).n 256
  else if dOpcode j.f.desc = opMXA_THROUGH then 4
  else 1 + (s.probs j).foldl (fun m q => max m q.span) 0 / 2

/-- Activity level of array `a` of core `c` (R422). -/
def State.level (s : State) (c a : Nat) : Nat := bits (s.fget PWR_RAMP_LEVEL_LEVEL) (3 * (2 * c + a)) 3

/-- Cycles of an instruction's first-block load that fall outside the instruction before it on its array (R78, R101): none in Throughflow,
which loads from its cycle 0 on; for a member they follow from the group's schedule; 32 on an idle array; and right after another
instruction up to 32, a free value, since how long the one waited for the other is not timed here [DESIGN CHOICE, log entry 30]. -/
def State.loadCycles (s : State) (j : Job) : Nat × State :=
  if dOpcode j.f.desc = opMXA_THROUGH then (0, s)
  else if j.member then
    let last := (s.groupOf j.c).elim 0 (fun g =>
      (g.members.filter (fun m => m.engine == dEngine j.f.desc && m.ran)).foldl (fun t m => max t m.endCycle) 0)
    (32 - (last - (j.start - 32)), s)
  else if ((s.coreAt j.c).arrayEnd.getD j.arr none).elim true (fun e => decide (e + 32 ≤ s.arrNow j.c)) then (32, s)
  else
    let d := s.free 6
    (d.1 % 33, d.2)

/-- Whether two regions of a scratchpad share a byte. -/
def overlaps (a b : Nat × Nat × Nat) : Bool := a.1 == b.1 && decide (a.2.1 < b.2.1 + b.2.2) && decide (b.2.1 < a.2.1 + a.2.2)

/-- The spans of an instruction in the order in which their writes stand: where the slots of two overlap, a free value says whose come last
(R84) [DESIGN CHOICE, log entry 85]. -/
def spanOrder (j : Job) (qs : List Prob) : List Prob :=
  if qs.any (fun a => qs.any (fun b => a.span != b.span && overlaps (a.slots j) (b.slots j))) then
    let k := (Config.freeOf (4 :: j.key)).toNat % qs.length
    qs.drop k ++ qs.take k
  else qs

/-- The slots that a cell's fault at lane row 0, column 0 of the grid affects (R89): in Throughflow those of span 0, which holds a copy of
vector 0; where the vector has other copies a free value says which of its outputs span 0 forms [DEDUCED, log entry 33]. -/
def Prob.cellHit (q : Prob) (j : Job) (m col : Nat) : Bool :=
  if q.through then m == 0 && (q.m == 8 || bitAt (Config.freeOf (5 :: j.key ++ [col])).toNat 0) else col == 0

/-- Runs the live problems of an array descriptor: its checks, its faults' injections, its sums, its counters and its end
[DESIGN CHOICE, log entry 30; DEDUCED, log entry 33]. -/
def State.runArray (s : State) (j : Job) : State :=
  let qs := liveProbs (s.probs j)
  let packed := dOpcode j.f.desc == opMXA_PACKED
  let t := (qs.map Prob.time).foldl max 0
  let tab := j.at (dbytes j.f.desc 16 4)
  let r := if packed then (s.eccRead j.c spWSP tab 256 (some j.f.ref)).checkReads j 4 spWSP [(tab, 256, 0, 32)] else (s, j)
  let tabPoison := packed && r.1.jPoison (r.2.reads 4 0 32) spWSP tab 256
  let r := qs.foldl (fun r q => r.1.readProb r.2 q packed) r
  let r := qs.foldl (fun (r : State × Job) q => if q.src = 0 then r else r.1.captureAll r.2 q) r
  let j := r.2
  let cell := r.1.injectJob j (j.arrSrc 0x00) clsU
  let acc := cell.1.injectJob j (j.arrSrc 0x01) clsU
  let s := if cell.2 = 0 then acc.1 else acc.1.fset MXAn_STATUS_PARITY_SEEN 1 j.c j.arr
  let s := if acc.2 = clsC then s.fset MXAn_STATUS_ACC_CORRECTED 1 j.c j.arr
    else if acc.2 = clsU then s.fset MXAn_STATUS_ACC_UNCORRECTED 1 j.c j.arr else s
  let corrupt := qs.any (fun q => s.probCorrupt j q (s.feedFor j q.src))
  let first := qs.head?.elim 0 (·.span)
  let r := (spanOrder j qs).foldl (fun (r : State × Bool) q =>
    let mk : Marks := ⟨fun m col => tabPoison || (cell.2 != 0 && q.span == first && q.cellHit j m col), acc.2 == clsU && q.span == first⟩
    let x := r.1.runProb j q (r.1.feedFor j q.src) mk
    (x.1, r.2 || x.2)) (s, false)
  let s := r.1
  let s := if corrupt then (s.reportFor j.f.ref (coreSrc j.c 0x16) clsU).fset MXAn_STATUS_SCALE_FAULT_SEEN 1 j.c j.arr else s
  let b := s.loadCycles j
  let s := ((b.2.fadd MXAn_INSTR_COUNT_COUNT 1 j.c j.arr).fadd MXAn_BUSY_ARRC_BUSY_ARRC (t + b.1) j.c j.arr)
  let s := s.fadd MXAn_TERMS_TERMS ((qs.map Prob.terms).sum) j.c j.arr
  let s := s.fadd MXAn_FLUSH_SLOTS_SLOTS ((qs.map (fun q => q.m * q.n)).sum) j.c j.arr
  let s := s.modCore j.c (fun k => { k with arrayEnd := k.arrayEnd.set j.arr (some (s.arrNow j.c)) })
  s.endJob { j with poison := j.poison || r.2 } t (if corrupt then stContainedFault else stOK)

/-- What an array does with a descriptor. -/
def State.arrayJob (s : State) (j : Job) : State :=
  match s.arrayStop j with
  | some st => (s.fadd MXAn_INSTR_COUNT_COUNT 1 j.c j.arr).stopJob j st.status st.source
  | none =>
    if liveProbs (s.probs j) = [] then (s.fadd MXAn_INSTR_COUNT_COUNT 1 j.c j.arr).endJob j 0 stOK
    else s.runArray j

/-- An array command: the descriptor at hand, once the activity level has reached its need (R423). -/
def arrayCmd (c a op : Nat) (s : State) : Result :=
  unit (a < 2) (engineCmd c (enMXA0 + a) (fun d => dOpcode d == op) (fun s j => decide (s.arrayNeed j ≤ s.level c a)) s
    State.arrayJob)

/-- MXA_STREAM (R78). -/
def execMxaStream (c a : Nat) (s : State) : Result := arrayCmd c a opMXA_STREAM s

/-- MXA_PACKED (R83). -/
def execMxaPacked (c a : Nat) (s : State) : Result := arrayCmd c a opMXA_PACKED s

/-- MXA_THROUGH (R87). -/
def execMxaThrough (c a : Nat) (s : State) : Result := arrayCmd c a opMXA_THROUGH s

end Sys2Proof.Machine
end

