-- ==== Sys2Proof/Machine/Mvp.lean ====
section
/-! DEFINITION. The matrix-vector path MVP (R94 to R97, R102, R224, R511). -/

namespace Sys2Proof.Machine

def mvW (d : Nat) : Nat := dbytes d 16 4
def mvX (d : Nat) : Nat := dbytes d 20 4
def mvN (d : Nat) : Nat := dbits d 24 0 17
def mvK (d : Nat) : Nat := dbits d 28 0 17
def mvZ (d : Nat) : Int := sext 8 (dbytes d 32 1)
def mvQ8 (d : Nat) : Bool := dbits d 33 0 1 == 1
def mvShift (d : Nat) : Nat := dbits d 34 0 5
def mvZOut (d : Nat) : Int := sext 8 (dbytes d 35 1)
def mvMult (d : Nat) : Int := sext 32 (dbytes d 36 4)
def mvDst (d : Nat) : Nat := dbytes d 40 4

/-- Whether the field block fails R511. -/
def mvFieldBad (d : Nat) : Bool :=
  dbits d 24 17 15 != 0 || dbits d 28 17 15 != 0 || dbits d 33 1 7 != 0 || dbits d 34 5 3 != 0 || mvN d == 0 || 65536 < mvN d ||
  mvK d == 0 || 65536 < mvK d || mvK d % 32 != 0 || (!mvQ8 d && bits (mvDst d) 18 14 != 0)

/-- Number of chunks of a row (R95). -/
def mvChunks (d : Nat) : Nat := ceilDiv (mvK d) 256

/-- Duration (R97). -/
def mvTime (d : Nat) : Nat := mvN d * mvChunks d + 24

/-- The exact sum of chunk `i` of row `n` (R95), read in cycle n × chunks + i [DESIGN CHOICE, log entry 31]. -/
def State.mvChunk (s : State) (j : Job) (n i : Nat) : Int :=
  let d := j.f.desc
  (List.range (min 256 (mvK d - 256 * i))).foldl (fun a e =>
    let k := 256 * i + e
    let t := n * mvChunks d + i
    a + sext 8 (s.jByte (j.reads 4 t) spWSP (j.at (mvW d) + n * mvK d + k)).toNat *
      (sext 8 (s.jByte (j.reads 5 t) spASP (j.at (mvX d) + k)).toNat - mvZ d)) 0

/-- The accumulator of row `n` after its chunks in order, clamped at each addition, and whether any clamped (R95). -/
def State.mvRow (s : State) (j : Job) (n : Nat) : Int × Bool :=
  (List.range (mvChunks j.f.desc)).foldl (fun (a : Int × Bool) i =>
    let x := a.1 + s.mvChunk j n i
    let y := clampInt (-(2 ^ 31)) (2 ^ 31 - 1) x
    (y, a.2 || x != y)) (0, false)

/-- The slot form of a row (R96). -/
def mvSlot (d : Nat) (acc : Int) (sat poison : Bool) : Slot := ⟨wrapInt 96 (acc * 2 ^ 42), mvK d, sat, false, poison, false⟩

/-- The Q8 form of a row: the PG2 requantisation (R96). -/
def mvCode (d : Nat) (acc : Int) : Int :=
  clampInt (-128) 127 ((Dy.mk (acc * mvMult d) (-31 - (mvShift d : Int))).round 0 + mvZOut d)

/-- Whether row `n` derives from a poisoned word. -/
def State.mvPoison (s : State) (j : Job) (n : Nat) : Bool :=
  let d := j.f.desc
  (List.range (mvChunks d)).any (fun i =>
    let t := n * mvChunks d + i
    let len := min 256 (mvK d - 256 * i)
    s.jPoison (j.reads 4 t) spWSP (j.at (mvW d) + n * mvK d + 256 * i) len || s.jPoison (j.reads 5 t) spASP (j.at (mvX d) + 256 * i) len)

/-- The reads of an operand with their cycles: chunk `i` of row `n` at offset `at_ n i`. -/
def mvReads (d : Nat) (at_ : Nat → Nat → Nat) : List (Nat × Nat × Nat × Nat) :=
  (List.range (mvN d)).flatMap (fun n => (List.range (mvChunks d)).map (fun i =>
    (at_ n i, min 256 (mvK d - 256 * i), n * mvChunks d + i, 0)))

/-- The cycle in which row `n` is written: R97 gives only the duration of all [DESIGN CHOICE, log entry 31]. -/
def mvOutCycle (d n : Nat) : Nat := (n + 1) * mvChunks d + 23

/-- A row as computed: accumulator, SAT, poison. -/
structure MvpRow where
  acc : Int
  sat : Bool
  poison : Bool
  deriving DecidableEq, Repr

/-- The rows of a descriptor. -/
def State.mvRows (s : State) (j : Job) : List MvpRow :=
  (List.range (mvN j.f.desc)).map (fun n =>
    let r := s.mvRow j n
    ⟨r.1, r.2, s.mvPoison j n || j.late (mvOutCycle j.f.desc n)⟩)

/-- Writes the rows in the descriptor's form. -/
def State.mvWrite (s : State) (j : Job) (rows : List MvpRow) : State :=
  let d := j.f.desc
  if mvQ8 d then
    s.jWrite j spASP (j.at (mvDst d)) (packWords 1 (rows.map (fun x => (wrapInt 8 (mvCode d x.acc), x.poison))))
      (fun w => mvOutCycle d (min (8 * w + 7) (mvN d - 1)))
  else
    s.jWrite j spPSP (j.f.latch.slotByte (mvDst d % 2 ^ 18)) (rows.flatMap (fun x => slotWords (mvSlot d x.acc x.sat x.poison)))
      (fun w => mvOutCycle d (w / 2))

/-- The regions of a descriptor (R147). -/
def mvRegions (j : Job) : List (Nat × Nat × Nat) :=
  let d := j.f.desc
  [(spWSP, j.at (mvW d), mvN d * mvK d), (spASP, j.at (mvX d), mvK d),
    if mvQ8 d then (spASP, j.at (mvDst d), mvN d) else (spPSP, j.f.latch.slotByte (mvDst d % 2 ^ 18), 16 * mvN d)]

/-- What MVP does with a descriptor. -/
def State.mvpJob (s : State) (j : Job) : State :=
  let d := j.f.desc
  if mvFieldBad d then s.fieldStop j
  else if handleSpace (mvW d) != spWSP || handleSpace (mvX d) != spASP || (mvQ8 d && handleSpace (mvDst d) != spASP) then
    s.handleStop j
  else if !s.jBounds j (mvRegions j) then s.boundStop j
  else
    let s := s.eccRead j.c spWSP (j.at (mvW d)) (mvN d * mvK d) (some j.f.ref)
    let s := s.eccRead j.c spASP (j.at (mvX d)) (mvK d) (some j.f.ref)
    let r := s.checkReads j 4 spWSP (mvReads d (fun n i => j.at (mvW d) + n * mvK d + 256 * i))
    let r := r.1.checkReads r.2 5 spASP (mvReads d (fun _ i => j.at (mvX d) + 256 * i))
    let rows := r.1.mvRows r.2
    let s := r.1.mvWrite r.2 rows
    let sats := (rows.filter (·.sat)).length
    let s := (s.fadd MVP_ROWS_COUNT rows.length j.c).fadd MVP_SAT_ROWS_COUNT sats j.c
    let s := if sats = 0 then s else s.fset MVP_STATUS_SAT_SEEN 1 j.c
    s.endJob { r.2 with poison := r.2.poison || rows.any (·.poison) } (mvTime d) stOK

/-- MVP_MATVEC (R95). -/
def execMvpMatvec (c : Nat) (s : State) : Result :=
  engineCmd c enMVP (fun d => dOpcode d == opMVP_MATVEC) (fun _ _ => true) s State.mvpJob

/-- A read of MVP_SAT_ROWS (R102): returns and clears the count. -/
def mvpSatRowsRead (c : Nat) (s : State) : State × Nat := (s.fset MVP_SAT_ROWS_COUNT 0 c, s.fget MVP_SAT_ROWS_COUNT c)

/-- MVP_SAT_ROWS_READ (R102). -/
def execMvpSatRowsRead (src c : Nat) (s : State) : Result := readCmd (c < 8) s src (regAddr MVP_SAT_ROWS c) (mvpSatRowsRead c)

end Sys2Proof.Machine
end

