-- ==== Sys2Proof/Machine/Fp32.lean ====
section
/-! DEFINITION. Binary32 arithmetic on bit patterns: every result rounded once to nearest with ties away (R59, R192). -/

namespace Sys2Proof.Machine

/-- Whether a pattern is a NaN. -/
def isNan32 (a : Nat) : Bool := fp32 a == .nan

/-- Whether a pattern is finite. -/
def isFinite32 (a : Nat) : Bool := bits a 23 8 != 255

/-- The sign bit of a pattern. -/
def neg32 (a : Nat) : Bool := bitAt a 31

/-- The pattern with its sign turned (NEG), and with a clear sign (ABS). -/
def fpNeg (a : Nat) : Nat := bits a 0 31 + (if neg32 a then 0 else 2 ^ 31)
def fpAbs (a : Nat) : Nat := bits a 0 31

/-- Sum. An exact zero sum is +0 but of two negative zeros. -/
def fpAdd (a b : Nat) : Nat :=
  match fp32 a, fp32 b with
  | .nan, _ => fp32Nan
  | _, .nan => fp32Nan
  | .inf s, .inf t => if s = t then fp32Inf s else fp32Nan
  | .inf s, .fin _ _ _ => fp32Inf s
  | .fin _ _ _, .inf t => fp32Inf t
  | x@(.fin s _ _), y@(.fin t _ _) => fp32Round (x.dy.add y.dy) (s && t)

/-- Difference. -/
def fpSub (a b : Nat) : Nat := if isNan32 b then fp32Nan else fpAdd a (fpNeg b)

/-- A product before rounding: its datum. -/
def fpProd (a b : Nat) : Fp :=
  let s := neg32 a != neg32 b
  match fp32 a, fp32 b with
  | .nan, _ => .nan
  | _, .nan => .nan
  | .inf _, .inf _ => .inf s
  | .inf _, .fin _ m _ => if m = 0 then .nan else .inf s
  | .fin _ m _, .inf _ => if m = 0 then .nan else .inf s
  | .fin _ m e, .fin _ n g => .fin s (m * n) (e + g)

/-- A datum rounded to a pattern. -/
def fpRound : Fp → Nat
  | .nan => fp32Nan
  | .inf s => fp32Inf s
  | x@(.fin s _ _) => fp32Round x.dy s

/-- Product. -/
def fpMul (a b : Nat) : Nat := fpRound (fpProd a b)

/-- Fused a × b + c. -/
def fpFma (a b c : Nat) : Nat :=
  match fpProd a b, fp32 c with
  | .nan, _ => fp32Nan
  | _, .nan => fp32Nan
  | .inf s, .inf t => if s = t then fp32Inf s else fp32Nan
  | .inf s, .fin _ _ _ => fp32Inf s
  | .fin _ _ _, .inf t => fp32Inf t
  | x@(.fin s _ _), y@(.fin t _ _) => fp32Round (x.dy.add y.dy) (s && t)

/-- A pattern's place in numeric order, −0 below +0. -/
def fpKey (a : Nat) : Int := if neg32 a then -(bits a 0 31 : Int) - 1 else bits a 0 31

/-- Numeric comparison of patterns that are not NaN. -/
def fpLt (a b : Nat) : Bool := !(bits a 0 31 == 0 && bits b 0 31 == 0) && decide (fpKey a < fpKey b)

def fpMin (a b : Nat) : Nat := if isNan32 a || isNan32 b then fp32Nan else if fpKey b < fpKey a then b else a
def fpMax (a b : Nat) : Nat := if isNan32 a || isNan32 b then fp32Nan else if fpKey a < fpKey b then b else a

/-- A nonnegative quotient or root of `n` whole steps 2^q with a remainder or not, as a value that rounds as the exact one does. -/
def sticky (n : Nat) (rest : Bool) (q : Int) : Dy := ⟨2 * n + b2n rest, q - 1⟩

/-- A pattern divided by a positive whole number. -/
def fpDivNat (a n : Nat) : Nat :=
  match fp32 a with
  | .nan => fp32Nan
  | .inf s => fp32Inf s
  | .fin s m e =>
    let v := m * 2 ^ 64
    let x := sticky (v / n) (v % n != 0) (e - 64)
    fp32Round (if s then x.neg else x) s

/-- Square root of a pattern that is not negative. -/
def fpSqrt (a : Nat) : Nat :=
  match fp32 a with
  | .nan => fp32Nan
  | .inf _ => fp32Inf false
  | .fin s m e =>
    if m = 0 then fp32Zero s
    else
      let k : Nat := if e % 2 = 0 then 64 else 65
      let v := m * 2 ^ k
      let r := Nat.sqrt v
      fp32Round (sticky r (r * r != v) ((e - k) / 2))

/-- The pattern of a finite exact value that binary32 holds, or of a datum. -/
def fpOf (x : Dy) : Nat := fp32Round x

/-- The W12 pattern of a binary32 pattern (R35). -/
def fpToW12 (a : Nat) : Nat :=
  match fp32 a with
  | .nan => 0
  | .inf s => w12Encode (if s then -w12Max else w12Max)
  | x => w12Encode (w12Round x.dy)

/-- The binary32 pattern of a W12 pattern, exact (R33); 0x800, a zero with its sign bit set, gives -0 [DEDUCED, log entry 84]. -/
def w12ToFp (w : Nat) : Nat := fp32Round (w12Dy (w12Decode (w % 4096))) (bitAt w 11)

/-- The value that ROI and VEC read from a code of format `fmt` in a block of exponent `x` with zero point `z` (R178, R189). -/
def codeToFp (fmt code : Nat) (x z : Int) : Nat :=
  if fmt ≤ fmtQ8 then fp32Round ⟨sext (codeBits fmt) code - z, x⟩
  else
    match (if fmt = fmtE4M3 then e4m3 code else e5m2 code) with
    | .nan => fp32Nan
    | .inf s => fp32Inf s
    | .fin s m e => fp32Round ⟨if s then -(m : Int) else m, e + x⟩ s

end Sys2Proof.Machine
end

