-- ==== Sys2Proof/Machine/Window.lean ====
section
/-! DEFINITION. WIN: feeds and regrouping (R155, R157 to R173, R187, R225, R226). -/

namespace Sys2Proof.Machine

/-! ### WIN_FEED (R163) -/

/-- Counts one issued word (R187). -/
def State.countWord (s : State) (c w : Nat) : State :=
  let s := s.fadd WIN_WORDS_COUNT 1 c
  let s := if bitAt w 23 then s.fadd WIN_PAD_WORDS_COUNT 1 c else s
  let s := if bitAt w 24 then s.fadd WIN_FILL_WORDS_COUNT 1 c else s
  if bitAt w 25 then s.fadd WIN_GATED_WORDS_COUNT 1 c else s

/-- Issues the words of a feed on the links it names, one per row entry (R163). -/
def State.issueFeed (s : State) (j : Job) (f : Feed) (poison : Bool) : State :=
  (rowEntries f.rows f.blocks f.p).foldl (fun s e =>
    let w := f.word e.m e.kb
    let p := poison || j.late e.cycle
    let s := if bitAt f.links 0 then s.issueWord j lkWF0 e.num e.cycle p [(w : Int)] else s
    let s := if bitAt f.links 1 then s.issueWord j lkWF1 e.num e.cycle p [(w : Int)] else s
    s.countWord j.c w) s

/-- Cycles a feed runs: to the cycle after its last word. -/
def Feed.time (f : Feed) : Nat := (rowEntries f.rows f.blocks f.p).foldl (fun t e => max t (e.cycle + 1)) 0

/-- What WIN does with a feed: outside a group a fault (R165) [DEDUCED, log entry 42]. -/
def State.feedJob (s : State) (j : Job) : State :=
  let f0 := feedOf j.f.desc
  let n := 16 * f0.chain
  if !j.member then s.stopJob j stContainedFault (coreSrc j.c 0x10)
  else if f0.chain ≠ 0 ∧ !s.jBounds j [(spASP, j.at f0.chainHandle, n)] then s.boundStop j
  else
    let r := if f0.chain = 0 then (s, j)
      else (s.eccRead j.c spASP (j.at f0.chainHandle) n (some j.f.ref)).checkReads j 14 spASP [(j.at f0.chainHandle, n, 0, 0)]
    let rd := r.2.reads 14 0
    let poison := f0.chain != 0 && r.1.jPoison rd spASP (j.at f0.chainHandle) n
    let f := r.1.feedResolved rd f0
    (r.1.issueFeed r.2 f poison).endJob { r.2 with poison := r.2.poison || poison } f.time stOK

/-- WIN_FEED (R163). -/
def execWinFeed (c : Nat) (s : State) : Result :=
  engineCmd c enWIN (fun d => dOpcode d == opWIN_FEED) (fun _ _ => true) s State.feedJob

/-! ### Feature maps (R155) -/

/-- A feature map buffer in ASP: byte offset, map size, channels, format, rectangle. -/
structure FMap where
  off : Nat
  h : Nat
  w : Nat
  c : Nat
  fmt : Nat
  y0 : Nat
  x0 : Nat
  nr : Nat
  ns : Nat
  deriving DecidableEq, Repr

def FMap.cb (m : FMap) : Nat := ceilDiv m.c 32
def FMap.bales (m : FMap) : Nat := m.nr * m.ns * m.cb
def FMap.baleBytes (m : FMap) : Nat := 32 * tileGranules m.fmt
def FMap.bytes (m : FMap) : Nat := m.bales * m.baleBytes

/-- Whether a position lies in the map and in the rectangle (R178). -/
def FMap.has (m : FMap) (y x : Int) : Bool :=
  decide (0 ≤ y ∧ y < m.h ∧ 0 ≤ x ∧ x < m.w) && decide ((m.y0 : Int) ≤ y ∧ y < m.y0 + m.nr ∧ (m.x0 : Int) ≤ x ∧ x < m.x0 + 32 * m.ns)

/-- Byte offset of the bale of pixel (y, x), channel c (R155). -/
def FMap.baleAt (m : FMap) (y x c : Nat) : Nat :=
  m.off + (((y - m.y0) * m.ns + (x - m.x0) / 32) * m.cb + c / 32) * m.baleBytes

/-- An element as stored: code, scale byte, whether the code or the scale byte is poisoned, and whether the scale byte is. -/
structure Elem where
  code : Nat
  scale : Nat
  poison : Bool
  scalePoison : Bool
  deriving DecidableEq, Repr

/-- Element `i` of block `b` of the bale at offset `o`. -/
def State.elemAt (s : State) (j : Job) (o fmt b i : Nat) : Elem :=
  let pos := codePos fmt i
  let n := (pos % 8 + codeBits fmt + 7) / 8
  let a := o + blockOffset fmt b + pos / 8
  ⟨bits (s.jLE j spASP a n) (pos % 8) (codeBits fmt), (s.jByte j spASP (o + b)).toNat,
    s.jWordPoison j spASP (o + b) || s.jPoison j spASP a n, s.jWordPoison j spASP (o + b)⟩

/-- The element of a pixel and channel. -/
def State.pixel (s : State) (j : Job) (m : FMap) (y x c : Nat) : Elem :=
  s.elemAt j (m.baleAt y x c) m.fmt (c % 32) ((x - m.x0) % 32)

/-! ### FP8 codes of exact values (R172, R185) -/

/-- The code of an exact value in E4M3 or E5M2, rounded under R57 with the sign given for zero; a magnitude past the largest finite one is
held there [DEDUCED, log entry 36]. -/
def fp8Code (fmt : Nat) (x : Dy) (zneg : Bool) : Nat :=
  let mb : Nat := if fmt = fmtE4M3 then 3 else 2
  let low : Int := if fmt = fmtE4M3 then -9 else -16
  let top : Nat := if fmt = fmtE4M3 then 0x7E else 0x7B
  if x.m = 0 then b2n zneg * 128
  else
    let q := max (x.log2 - (mb : Int)) low
    let n0 := (x.round q).natAbs
    let n := if n0 = 2 ^ (mb + 1) then 2 ^ mb else n0
    let q := if n0 = 2 ^ (mb + 1) then q + 1 else q
    let p := if n < 2 ^ mb then n else (q - low + 1).toNat * 2 ^ mb + (n - 2 ^ mb)
    b2n (decide (x.m < 0)) * 128 + min p top

/-! ### WIN_REGROUP (R171 to R173, R226) -/

/-- A regroup descriptor. -/
structure Regroup where
  src : Nat
  dst : Nat
  h : Nat
  w : Nat
  c : Nat
  sy0 : Nat
  sx0 : Nat
  snr : Nat
  sns : Nat
  dns : Nat
  dy0 : Nat
  dx0 : Nat
  dnr : Nat
  fy : Nat
  fx : Nat
  fmt : Nat
  toSpace : Bool
  zpc : Bool
  padCode : Nat
  padExp : Nat
  zp : Nat
  badBits : Bool
  deriving DecidableEq, Repr

def regroupOf (d : Nat) : Regroup :=
  { src := dbytes d 16 4, dst := dbytes d 20 4, h := dbytes d 24 2, w := dbytes d 26 2, c := dbytes d 28 2
    sy0 := dbytes d 30 2, sx0 := dbytes d 32 2, snr := dbytes d 34 2, sns := dbytes d 36 1 + 1, dns := dbytes d 37 1 + 1
    dy0 := dbytes d 38 2, dx0 := dbytes d 40 2, dnr := dbytes d 42 2, fy := dbits d 44 0 4, fx := dbits d 44 4 4
    fmt := dbits d 45 0 4, toSpace := dbits d 45 4 1 == 1, zpc := dbits d 45 5 1 == 1, padCode := dbytes d 46 1
    padExp := dbits d 47 0 5, zp := dbytes d 48 4
    badBits := dbits d 45 6 2 != 0 || dbits d 47 5 3 != 0 || (dbits d 45 5 1 == 0 && dbytes d 49 3 != 0) }

/-- Channels and size of the destination map (R171). -/
def Regroup.dc (g : Regroup) : Nat := if g.toSpace then g.c / (g.fy * g.fx) else g.c * g.fy * g.fx
def Regroup.dh (g : Regroup) : Nat := if g.toSpace then g.h * g.fy else ceilDiv g.h g.fy
def Regroup.dw (g : Regroup) : Nat := if g.toSpace then g.w * g.fx else ceilDiv g.w g.fx

def Regroup.srcMap (g : Regroup) (j : Job) : FMap := ⟨j.at g.src, g.h, g.w, g.c, g.fmt, g.sy0, g.sx0, g.snr, g.sns⟩
def Regroup.dstMap (g : Regroup) (j : Job) : FMap := ⟨j.at g.dst, g.dh, g.dw, g.dc, g.fmt, g.dy0, g.dx0, g.dnr, g.dns⟩

/-- Parameters out of range: the spec names no rule for them, so the model treats them as an engine field check (log entry 11). -/
def Regroup.bad (g : Regroup) : Bool :=
  g.badBits || 4 < g.fmt || g.h == 0 || 8192 < g.h || g.w == 0 || 8192 < g.w || g.c == 0 || 4096 < g.c || g.fy < 2 || 8 < g.fy ||
  g.fx < 2 || 8 < g.fx || g.sx0 % 32 != 0 || g.dx0 % 32 != 0 || g.snr == 0 || 8192 < g.snr || g.dnr == 0 || 8192 < g.dnr ||
  (!g.toSpace && 4096 < g.dc) || (g.toSpace && g.c % (g.fy * g.fx) != 0)

/-- The source position of a destination position, if both maps have it (R171) [DEDUCED, log entry 11]. -/
def Regroup.source (g : Regroup) (y x c : Nat) : Option (Nat × Nat × Nat) :=
  if g.dh ≤ y ∨ g.dw ≤ x ∨ g.dc ≤ c then none
  else
    let p :=
      if g.toSpace then (y / g.fy, x / g.fx, (y % g.fy * g.fx + x % g.fx) * g.dc + c)
      else (y * g.fy + c / g.c / g.fx, x * g.fx + c / g.c % g.fx, c % g.c)
    if g.h ≤ p.1 ∨ g.w ≤ p.2.1 then none else some p

/-- The zero point of a source channel and its poison. -/
def State.regroupZp (s : State) (j : Job) (g : Regroup) (c : Nat) : Int × Bool :=
  if g.zpc then
    let r := j.reads 12 0
    (sext 8 (s.jByte r spASP (j.at g.zp + c)).toNat, s.jWordPoison r spASP (j.at g.zp + c))
  else (sext 8 (g.zp % 256), false)

/-- The elements a destination block draws on: per position, the source element with its channel, or none for a pad code. A position of the
map outside the source rectangle counts as outside (log entry 11). -/
def State.regroupSources (s : State) (j : Job) (g : Regroup) (y x0 c : Nat) : List (Option (Elem × Nat)) :=
  (List.range 32).map (fun i =>
    match g.source y (x0 + i) c with
    | some p => if (g.srcMap j).has p.1 p.2.1 then some (s.pixel j (g.srcMap j) p.1 p.2.1 p.2.2, p.2.2) else none
    | none => none)

/-- Largest exponent of a destination block's source blocks, PAD_EXP for a block of pads (R172). -/
def regroupExp (g : Regroup) (l : List (Option (Elem × Nat))) : Int :=
  (l.foldl (fun (m : Option Int) e =>
    match e with
    | some x => some (m.elim (scaleExp x.1.scale) (fun y => max y (scaleExp x.1.scale)))
    | none => m) none).getD (sext 5 g.padExp)

/-- A code moved to a larger block exponent (R172). -/
def regroupCode (fmt code : Nat) (k : Int) (z : Int) : Nat :=
  if k = 0 then code
  else if fmt ≤ fmtQ8 then
    let v := sext (codeBits fmt) code
    wrapInt (codeBits fmt) (clampInt (codeMin fmt) (codeMax fmt) ((Dy.mk (v - z) k).round 0 + z))
  else
    match (if fmt = fmtE4M3 then e4m3 code else e5m2 code) with
    | .fin n m e => fp8Code fmt ⟨if n then -(m : Int) else m, e + k⟩ n
    | _ => code

/-- A destination block: scale byte and whether it derives from poison, codes with poison, codes changed, whether a corrupt scale byte was
met. -/
structure OutBlock where
  scale : Nat
  scalePoison : Bool
  codes : List (Nat × Bool)
  changed : Nat
  corrupt : Bool
  deriving DecidableEq, Repr

/-- A destination block: every code but a pad derives from the largest exponent, so from each source block's scale byte (R172, R173). -/
def State.regroupBlock (s : State) (j : Job) (g : Regroup) (y x0 c : Nat) : OutBlock :=
  let l := s.regroupSources j g y x0 c
  let xm := regroupExp g l
  let sp := l.any (fun e => e.elim false (fun x => x.1.scalePoison || scaleCorrupt x.1.scale))
  let out := l.map (fun e =>
    match e with
    | none => (bits g.padCode 0 (codeBits g.fmt), false, false, false)
    | some (e, sc) =>
      let z := s.regroupZp j g sc
      let q := regroupCode g.fmt e.code (scaleExp e.scale - xm) z.1
      let cor := scaleCorrupt e.scale
      (q, e.poison || sp || (z.2 && decide (scaleExp e.scale ≠ xm)), q != e.code, cor))
  ⟨wrapInt 5 xm, sp, out.map (fun o => (o.1, o.2.1)), (out.filter (fun o => o.2.2.1)).length, out.any (fun o => o.2.2.2)⟩

/-- The bytes of a block of codes, each with its poison (R37). -/
def packBlock (fmt : Nat) (codes : List (Nat × Bool)) : List (Nat × Bool) :=
  let w := codeBits fmt
  let v := codes.foldr (fun c acc => c.1 % 2 ^ w + acc * 2 ^ w) 0
  (List.range (4 * w)).map (fun b => (bits v (8 * b) 8, (List.range 32).any (fun i =>
    decide (w * i < 8 * b + 8) && decide (8 * b < w * i + w) && (codes.getD i (0, false)).2)))

/-- The bytes of a bale from its 32 blocks (R38). -/
def packBale (fmt : Nat) (bl : List OutBlock) : List (Nat × Bool) :=
  bl.map (fun b => (b.scale, b.scalePoison)) ++ bl.flatMap (fun b => packBlock fmt b.codes)

/-- Bytes with poison as words. -/
def bytesToWords (bs : List (Nat × Bool)) (late : Bool) : List (Nat × Bool) :=
  (List.range (bs.length / 8)).map (fun i =>
    let l := slice bs (8 * i) 8
    (l.foldr (fun b acc => b.1 % 256 + acc * 256) 0, late || l.any (·.2)))

/-- The cycles at which destination bale `k` is formed from its sources and is written: R173 gives only the duration of all
[DESIGN CHOICE, log entry 31]. -/
def Regroup.readCycle (g : Regroup) (k : Nat) : Nat := k * tileGranules g.fmt
def Regroup.outCycle (g : Regroup) (k : Nat) : Nat := (k + 1) * tileGranules g.fmt + 63

/-- The reads of the source map with their cycles: scale byte and code of each element that a destination bale draws on. -/
def Regroup.reads (g : Regroup) (j : Job) : List (Nat × Nat × Nat × Nat) :=
  let m := g.dstMap j
  let src := g.srcMap j
  (List.range m.bales).flatMap (fun k => (List.range 1024).flatMap (fun e =>
    let y := m.y0 + k / (m.ns * m.cb)
    let x := m.x0 + 32 * (k / m.cb % m.ns) + e % 32
    match g.source y x (32 * (k % m.cb) + e / 32) with
    | none => []
    | some p =>
      if !src.has p.1 p.2.1 then []
      else
        let o := src.baleAt p.1 p.2.1 p.2.2
        let pos := codePos g.fmt ((p.2.1 - src.x0) % 32)
        [(o + p.2.2 % 32, 1, g.readCycle k, 0),
          (o + blockOffset g.fmt (p.2.2 % 32) + pos / 8, (pos % 8 + codeBits g.fmt + 7) / 8, g.readCycle k, 0)]))

/-- Bale `k` of the destination [DESIGN CHOICE, log entry 31]. -/
def State.regroupBale (s : State) (j : Job) (g : Regroup) (k : Nat) : List OutBlock :=
  let m := g.dstMap j
  let cb := m.cb
  let y := m.y0 + k / (m.ns * cb)
  let x0 := m.x0 + 32 * (k / cb % m.ns)
  (List.range 32).map (fun b => s.regroupBlock (j.reads 4 (g.readCycle k)) g y x0 (32 * (k % cb) + b))

/-- Duration (R173). -/
def Regroup.time (g : Regroup) (j : Job) : Nat := (g.dstMap j).bales * tileGranules g.fmt + 64

/-- What WIN does with a regroup descriptor. -/
def State.regroupJob (s : State) (j : Job) : State :=
  let g := regroupOf j.f.desc
  let sm := g.srcMap j
  let dm := g.dstMap j
  let zn := 32 * sm.cb
  if g.bad then s.fieldStop j
  else if handleSpace g.src != spASP || handleSpace g.dst != spASP || (g.zpc && handleSpace g.zp != spASP) then s.handleStop j
  else if !s.jBounds j ([(spASP, sm.off, sm.bytes), (spASP, dm.off, dm.bytes)] ++ (if g.zpc then [(spASP, j.at g.zp, zn)] else [])) then
    s.boundStop j
  else
    let t := g.time j
    let s := s.eccRead j.c spASP sm.off sm.bytes (some j.f.ref)
    let s := if g.zpc then s.eccRead j.c spASP (j.at g.zp) zn (some j.f.ref) else s
    let r := s.checkReads j 4 spASP (g.reads j)
    let r := if g.zpc then r.1.checkReads r.2 12 spASP [(j.at g.zp, zn, 0, 0)] else r
    let j := r.2
    let q := (List.range dm.bales).foldl (fun (q : State × Nat × Bool × Bool) k =>
      let bl := q.1.regroupBale j g k
      let ws := bytesToWords (packBale g.fmt bl) (j.late (g.outCycle k))
      (q.1.jWrite j spASP (dm.off + k * dm.baleBytes) ws (fun _ => g.outCycle k),
        q.2.1 + (bl.map (·.changed)).sum, q.2.2.1 || ws.any (·.2), q.2.2.2 || bl.any (·.corrupt))) (r.1, 0, false, false)
    let s := q.1.fadd WIN_REGROUP_SHIFTS_COUNT q.2.1 j.c
    let s := if q.2.1 = 0 then s else s.fset WIN_STATUS_SHIFT_SEEN 1 j.c
    let s := if q.2.2.1 then s.fset WIN_STATUS_POISON_SEEN 1 j.c else s
    let s := if q.2.2.2 then s.reportFor j.f.ref (coreSrc j.c 0x16) clsU else s
    s.endJob { j with poison := j.poison || q.2.2.1 } t (if q.2.2.2 then stContainedFault else stOK)

/-- WIN_REGROUP (R171). -/
def execWinRegroup (c : Nat) (s : State) : Result :=
  engineCmd c enWIN (fun d => dOpcode d == opWIN_REGROUP) (fun _ _ => true) s State.regroupJob

end Sys2Proof.Machine
end

