-- ==== Sys2Proof/Machine/Vec.lean ====
section
/-! DEFINITION. VEC: element-wise functions, reductions, slots, and activation curves (R189 to R197, R201, R211, R227). -/

namespace Sys2Proof.Machine

/-! ### Vector links (R114 to R116, R201) -/

/-- Captures `n` words of a vector link from cycle `off` of a job on: 128 values and the poison of each. A word that fails its check is
128 zeros with poison; outside a group no word is ever present [DESIGN CHOICE, log entry 37]. -/
def State.takeWords (s : State) (j : Job) (l off n : Nat) : State × Job × List (List Int × Bool) :=
  (List.range n).foldl (fun (q : State × Job × List (List Int × Bool)) k =>
    match (if j.member then q.1.capture j.c l k (q.2.1.cyc (off + k)) else none) with
    | some w => (q.1, q.2.1, q.2.2 ++ [(w.payload, w.poison)])
    | none =>
      let r := if j.member then q.1.linkFail q.2.1 (q.2.1.cyc (off + k)) else (q.1, { q.2.1 with poison := true })
      (r.1, r.2, q.2.2 ++ [(List.replicate 128 0, true)])) (s, j, [])

/-- Issues values of a job, each with its poison, on a vector link from cycle `off` on, 128 a word [DESIGN CHOICE, log entry 37]. -/
def State.putWords (s : State) (j : Job) (l off : Nat) (vs : List (Nat × Bool)) : State :=
  if !j.member then s
  else
    (List.range (ceilDiv vs.length 128)).foldl (fun s k =>
      let w := slice vs (128 * k) 128
      s.issueWord j l k (off + k) (j.late (off + k) || w.any (·.2))
        ((List.range 128).map (fun i => ((w.getD i (0, false)).1 : Int)))) s

/-! ### The field block (R227) -/

/-- A VEC descriptor. -/
structure VecD where
  func : Nat
  store : Nat
  srcA : Nat
  dst : Nat
  modeB : Nat
  modeC : Nat
  tA : Nat
  tB : Nat
  tC : Nat
  tD : Nat
  e : Nat
  ch : Nat
  zpA : Int
  zpB : Int
  a : Nat
  b : Nat
  c : Nat
  d : Nat
  badBits : Bool
  deriving DecidableEq, Repr

def vecOf (d : Nat) : VecD :=
  { func := dbits d 16 0 5, store := dbits d 16 5 2, srcA := dbits d 17 0 2, dst := dbits d 17 2 2, modeB := dbits d 17 4 2
    modeC := dbits d 17 6 2, tA := dbits d 18 0 4, tB := dbits d 18 4 4, tC := dbits d 19 0 4, tD := dbits d 19 4 4
    e := dbits d 20 0 25, ch := dbytes d 24 2, zpA := sext 8 (dbytes d 26 1), zpB := sext 8 (dbytes d 27 1)
    a := dbytes d 28 4, b := dbytes d 32 4, c := dbytes d 36 4, d := dbytes d 40 4
    badBits := dbits d 16 7 1 != 0 || dbits d 20 25 7 != 0 }

def fnADD : Nat := 0x00
def fnSUB : Nat := 0x01
def fnMUL : Nat := 0x02
def fnFMA : Nat := 0x03
def fnMIN : Nat := 0x04
def fnMAX : Nat := 0x05
def fnABS : Nat := 0x06
def fnNEG : Nat := 0x07
def fnCLAMP : Nat := 0x08
def fnSELECT : Nat := 0x09
def fnCURVE : Nat := 0x0A
def fnCONVERT : Nat := 0x0B
def fnSLOT_ADD : Nat := 0x0C
def fnSLOT_TO_FP32 : Nat := 0x0D
def fnREDUCE_SUM : Nat := 0x0E
def fnREDUCE_MAX : Nat := 0x0F
def fnCURVE_LOAD : Nat := 0x10

/-- Whether a function takes operand B, and operand C (R191). -/
def usesB (f : Nat) : Bool := f ≤ fnMAX || f == fnCLAMP || f == fnSELECT || f == fnSLOT_ADD
def usesC (f : Nat) : Bool := f == fnFMA || f == fnCLAMP || f == fnSELECT

def VecD.slots (v : VecD) : Bool := v.func == fnSLOT_ADD || v.func == fnSLOT_TO_FP32
def VecD.reduces (v : VecD) : Bool := v.func == fnREDUCE_SUM || v.func == fnREDUCE_MAX

/-- An operand form: source (0 FULL, 1 CHANNEL, 2 SCALAR, 3 QV), type, zero point, field. -/
structure VOp where
  mode : Nat
  ty : Nat
  zp : Int
  h : Nat
  deriving DecidableEq, Repr

def VecD.opA (v : VecD) : VOp := ⟨if v.srcA = 1 then 3 else 0, v.tA, v.zpA, v.a⟩
def VecD.opB (v : VecD) : VOp := ⟨v.modeB, v.tB, v.zpB, v.b⟩
def VecD.opC (v : VecD) : VOp := ⟨v.modeC, v.tC, 0, v.c⟩

/-- Whether an operand lies in memory. -/
def VOp.inMem (o : VOp) : Bool := o.mode ≤ 1

/-- The operands of a function that lie in memory, each with its operand number (R217). -/
def VecD.memOps (v : VecD) : List (Nat × VOp) :=
  ([(7, v.opA)] ++ (if usesB v.func then [(8, v.opB)] else []) ++ (if usesC v.func then [(9, v.opC)] else [])).filter (·.2.inMem)

/-- Whether an operand's form is not one the function takes: its type, or CH for its mode and type (R190, R191, R227) [DEDUCED, log entry 38]. -/
def VecD.opBad (v : VecD) (o : VOp) : Bool :=
  7 < o.ty || (if v.slots then !(o.ty == 2) || 2 ≤ o.mode else o.inMem && o.ty == 2) ||
  ((o.mode == 1 || (o.inMem && 3 ≤ o.ty)) && (v.ch == 0 || 4096 < v.ch)) || (o.inMem && 3 ≤ o.ty && v.ch % 32 != 0)

/-- Whether the field block names something R191 and R227 do not admit [DEDUCED, log entry 38]. -/
def VecD.bad (v : VecD) : Bool :=
  v.badBits || fnCURVE_LOAD < v.func ||
  (v.func != fnCURVE_LOAD &&
    (v.e == 0 || 2 ^ 24 < v.e || 2 ≤ v.srcA || 2 ≤ v.dst || v.modeB == 3 || v.modeC == 3 || 2 < v.tC || 2 < v.tD ||
     v.opBad v.opA || (usesB v.func && v.opBad v.opB) || (usesC v.func && v.opBad v.opC) ||
     (v.dst == 0 && (v.tD == 2) != (v.func == fnSLOT_ADD)) || (v.func == fnSLOT_ADD && v.dst == 1)))

/-- Bytes of an element of a type that is no code. -/
def typeBytes (ty : Nat) : Nat := if ty = 0 then 4 else if ty = 1 then 2 else 16

/-- Bytes of an operand's region. -/
def VecD.opBytes (v : VecD) (o : VOp) : Nat :=
  let n := if o.mode = 1 then min v.ch v.e else v.e
  if 3 ≤ o.ty then 32 * tileGranules (o.ty - 3) * (v.ch / 32) * ceilDiv (ceilDiv n v.ch) 32 else n * typeBytes o.ty

/-- Elements the destination takes. -/
def VecD.outs (v : VecD) : Nat := if v.reduces then 1 else v.e

/-- Whether an operand's handle names a space its type admits: PSP for slots, the bales' ASP for codes, a scratchpad for FP32 and W12
(R189, R227). -/
def opSpaceOk (ty h : Nat) : Bool :=
  if ty = 2 then handleSpace h == spPSP
  else if 3 ≤ ty then handleSpace h == spASP
  else 2 ≤ handleSpace h && handleSpace h ≤ 4

/-! ### Duration (R194) -/

/-- Duration. -/
def VecD.time (v : VecD) : Nat :=
  if v.srcA = 1 ∨ v.dst = 1 then ceilDiv v.e 128 + 16 + (if v.func = fnCURVE then 8 else 0)
  else if v.func = fnSLOT_ADD then ceilDiv v.e 64 + 16
  else if v.func = fnSLOT_TO_FP32 then ceilDiv v.e 128 + 16
  else if v.reduces then ceilDiv v.e 512 + 56
  else if v.func = fnCURVE then ceilDiv v.e 512 + 24
  else ceilDiv v.e 512 + 16

/-- Elements per cycle. -/
def VecD.rate (v : VecD) : Nat :=
  if v.srcA = 1 ∨ v.dst = 1 ∨ v.func = fnSLOT_TO_FP32 then 128 else if v.func = fnSLOT_ADD then 64 else 512

/-! ### Reading elements (R189, R190) -/

/-- An element as read: a pattern or a slot's number, poison, whether its scale byte is corrupt. -/
structure VIn where
  v : Nat
  poison : Bool
  corrupt : Bool
  deriving DecidableEq, Repr

/-- The job reading element `i` of operand `k`: in the order of the elements, as many a cycle as VEC takes [DESIGN CHOICE, log entry 31]. -/
def VecD.readJob (v : VecD) (j : Job) (k i : Nat) : Job := j.reads k (i / v.rate)

/-- The memory reads of element `i` of an operand: byte offset and bytes. -/
def VecD.spans (v : VecD) (j : Job) (o : VOp) (i : Nat) : List (Nat × Nat) :=
  let k := if o.mode = 1 then i % v.ch else i
  if 3 ≤ o.ty then
    let f := o.ty - 3
    let b := j.at o.h + 32 * tileGranules f * (k / v.ch / 32 * (v.ch / 32) + k % v.ch / 32)
    let pos := codePos f (k / v.ch % 32)
    [(b + k % v.ch % 32, 1), (b + blockOffset f (k % v.ch % 32) + pos / 8, (pos % 8 + codeBits f + 7) / 8)]
  else [(j.at o.h + typeBytes o.ty * k, typeBytes o.ty)]

/-- Element `i` of operand `n`, read by the job `j`. -/
def State.vecIn (s : State) (j : Job) (v : VecD) (n : Nat) (o : VOp) (words : List (List Int × Bool)) (i : Nat) : VIn :=
  let j := v.readJob j n i
  if o.mode = 2 then ⟨o.h, false, false⟩
  else if o.mode = 3 then
    let w := words.getD (i / 128) ([], true)
    ⟨(w.1.getD (i % 128) 0).toNat, w.2, false⟩
  else
    let k := if o.mode = 1 then i % v.ch else i
    let sp := handleSpace o.h
    let at_ := j.at o.h
    if o.ty = 0 then ⟨s.jLE j sp (at_ + 4 * k) 4, s.jPoison j sp (at_ + 4 * k) 4, false⟩
    else if o.ty = 1 then ⟨w12ToFp (s.jLE j sp (at_ + 2 * k) 2), s.jPoison j sp (at_ + 2 * k) 2, false⟩
    else if o.ty = 2 then
      let x := slotOf (s.jLE j spPSP (at_ + 16 * k) 16)
      ⟨x.toNat, x.poison || s.jPoison j spPSP (at_ + 16 * k) 16, false⟩
    else
      let f := o.ty - 3
      let m := k / v.ch
      let c := k % v.ch
      let e := s.elemAt j (at_ + 32 * tileGranules f * (m / 32 * (v.ch / 32) + c / 32)) f (c % 32) (m % 32)
      ⟨codeToFp f e.code (scaleExp e.scale) o.zp, e.poison || scaleCorrupt e.scale, scaleCorrupt e.scale⟩

/-! ### Functions (R191, R192) -/

/-- The FP32 result of an element-wise function but CURVE [DEDUCED, log entry 36]. -/
def vecFn (f a b c : Nat) : Nat :=
  if f = fnADD then fpAdd a b
  else if f = fnSUB then fpSub a b
  else if f = fnMUL then fpMul a b
  else if f = fnFMA then fpFma a b c
  else if f = fnMIN then fpMin a b
  else if f = fnMAX then fpMax a b
  else if f = fnABS then (if isNan32 a then fp32Nan else fpAbs a)
  else if f = fnNEG then (if isNan32 a then fp32Nan else fpNeg a)
  else if f = fnCLAMP then fpMin (fpMax a b) c
  else if f = fnSELECT then (if !isNan32 a && fpLt 0 a then b else c)
  else a

/-- Whether an element counts in VEC_NAN (R192) [DEDUCED, log entry 36]. -/
def vecNan (f a b c : Nat) : Bool :=
  (f ≤ fnCLAMP || f == fnCURVE || f == fnREDUCE_SUM || f == fnREDUCE_MAX) &&
  (isNan32 a || (usesB f && isNan32 b) || (usesC f && isNan32 c))

/-- The FP32 value of a slot (R192). -/
def slotFp (x : Slot) : Nat := if x.sat then fp32Max (bitAt x.value 95) else fp32Round x.dy

/-! ### Curves (R195 to R197) -/

/-- Bytes of a curve table of 2^`l` segments. -/
def curveBytes (l : Nat) : Nat := 32 + 16 * 2 ^ l

/-- Why a table's header does not stand: a field out of range, a value not finite, a reserved byte (R195, R196). `w` is the header's
eight words [DEDUCED, log entry 38]. -/
def curveHeaderBad (w : List Nat) : Bool :=
  let m := w.getD 5 0
  let eLo := sext 8 (bits m 24 8)
  (w.take 5).any (fun x => !isFinite32 x) || 1 < bits m 0 8 || bits m 8 8 < 4 || 10 < bits m 8 8 || 2 < bits m 16 8 || eLo < -126 ||
  (bits m 0 8 == 0 && !fpLt (w.getD 0 0) (w.getD 1 0)) || w.getD 6 0 != 0 || w.getD 7 0 != 0

/-- Whether a segment's four words do not stand. -/
def segmentBad (w : List Nat) : Bool := (w.take 3).any (fun x => !isFinite32 x) || w.getD 3 0 != 0

/-- Word `i` of a store's table. -/
def CurveStore.word (t : CurveStore) (i : Nat) : Nat := t.words.getD i 0
def CurveStore.mode (t : CurveStore) : Nat := bits (t.word 5) 0 8
def CurveStore.symmetry (t : CurveStore) : Nat := bits (t.word 5) 16 8
def CurveStore.eLo (t : CurveStore) : Int := sext 8 (bits (t.word 5) 24 8)

/-- Segment and offset within it, or which end of the domain the value is past (true: the upper). -/
def CurveStore.place (t : CurveStore) (x : Nat) : (Nat × Nat) ⊕ Bool :=
  if bits x 23 8 = 0 ∧ bits x 0 23 ≠ 0 then .inr false
  else if t.mode = 0 then
    if fpLt x (t.word 0) then .inr false
    else if !fpLt x (t.word 1) then .inr true
    else
      let u := fpMul (fpSub x (t.word 0)) (t.word 2)
      let k := match fp32 u with
        | .inf _ => t.count - 1
        | d => min (d.dy.m * 2 ^ d.dy.e.toNat / (2 ^ (-d.dy.e).toNat : Nat)).toNat (t.count - 1)
      .inl (k, fpSub u (fpOf (Dy.ofInt k)))
  else
    let e := (bits x 23 8 : Int) - 127
    if neg32 x || bits x 0 31 == 0 || e < t.eLo then .inr false
    else if t.eLo + (t.count / 8 : Nat) ≤ e then .inr true
    else .inl ((e - t.eLo).toNat * 8 + bits x 20 3, fpOf ⟨bits x 0 20, -20⟩)

/-- f(a) of R197, and whether it took Y_LO or Y_HI. -/
def CurveStore.eval (t : CurveStore) (a : Nat) : Nat × Bool :=
  if isNan32 a then (fp32Nan, false)
  else
    let x := if t.symmetry = 0 then a else fpAbs a
    let r := match t.place x with
      | .inr up => (t.word (if up then 4 else 3), true)
      | .inl (k, u) =>
        let c (i : Nat) := t.word (8 + 4 * k + i)
        (fpAdd (c 0) (fpMul u (fpAdd (c 1) (fpMul u (c 2)))), false)
    (if t.symmetry = 1 ∧ fpLt a 0 then fpNeg r.1 else r.1, r.2)

/-! ### Reductions (R193) -/

/-- One level of the tree: neighbours combined, a missing one passing its partner through. -/
def pairUp (f : Nat → Nat → Nat) : List (Option Nat) → List (Option Nat)
  | a :: b :: l => (match a, b with
      | some x, some y => some (f x y)
      | some x, none => some x
      | none, y => y) :: pairUp f l
  | l => l

/-- The 512 lane partials, each lane in ascending order. -/
def lanePartials (f : Nat → Nat → Nat) (l : List Nat) : List (Option Nat) :=
  (List.range (ceilDiv l.length 512)).foldl (fun acc r =>
    let row := slice l (512 * r) 512
    (List.range 512).map (fun i =>
      match acc.getD i none, row[i]? with
      | some x, some y => some (f x y)
      | none, y => y
      | x, none => x)) (List.replicate 512 none)

/-- A reduction in its fixed order: nine levels over the lane partials. -/
def reduce (f : Nat → Nat → Nat) (l : List Nat) : Nat :=
  (((List.range 9).foldl (fun p _ => pairUp f p) (lanePartials f l)).getD 0 none).getD 0

/-! ### A descriptor (R194) -/

/-- Cycle at which output `i` is formed: the last one in the last cycle [DESIGN CHOICE, log entry 37]. -/
def VecD.outCycle (v : VecD) (i : Nat) : Nat := v.time - 1 - (v.outs - 1) / v.rate + i / v.rate

/-- An output before it is written: FP32 pattern or slot number, poison, and what it counts as. -/
structure VOut where
  v : Nat
  poison : Bool
  nan : Bool
  clamp : Bool
  sat : Bool
  deriving DecidableEq, Repr

/-- The output of element `i` from its operands. -/
def vecOut (v : VecD) (st : Option CurveStore) (a b c : VIn) : VOut :=
  let p := a.poison || (usesB v.func && b.poison) || (usesC v.func && c.poison)
  if v.func = fnSLOT_ADD then
    let x := (slotOf a.v).add (slotOf b.v)
    ⟨{ x with poison := x.poison || p }.toNat, x.poison || p, false, false, false⟩
  else if v.func = fnSLOT_TO_FP32 then ⟨slotFp (slotOf a.v), p, false, false, (slotOf a.v).sat⟩
  else
    let r := if v.func = fnCURVE then (st.elim (0, false) (·.eval a.v)) else (vecFn v.func a.v b.v c.v, false)
    ⟨r.1, p, vecNan v.func a.v b.v c.v, r.2, false⟩

/-- A reduction's one output: poisoned if any element is. -/
def vecReduce (v : VecD) (l : List VOut) : VOut :=
  ⟨reduce (if v.func = fnREDUCE_SUM then fpAdd else fpMax) (l.map (fun x => if x.nan then fp32Nan else x.v)), l.any (·.poison), false, false, false⟩

/-- The three operands of every element, `words` the captured words of a vector link. -/
def State.vecIns (s : State) (j : Job) (v : VecD) (words : List (List Int × Bool)) : List (VIn × VIn × VIn) :=
  (List.range v.e).map (fun i => (s.vecIn j v 7 v.opA words i, s.vecIn j v 8 v.opB [] i, s.vecIn j v 9 v.opC [] i))

/-- The curve store that a descriptor names. -/
def State.vecStore (s : State) (j : Job) (v : VecD) : Option CurveStore := (s.coreAt j.c).curves.getD v.store none

/-- The outputs of a descriptor: an element each, or a reduction's one [DEDUCED, log entry 38]. -/
def State.vecOuts (s : State) (j : Job) (v : VecD) (words : List (List Int × Bool)) : List VOut :=
  let elems := (s.vecIns j v words).map (fun x => vecOut v (s.vecStore j v) x.1 x.2.1 x.2.2)
  if v.reduces then [vecReduce v elems] else elems

/-- Writes the outputs where the descriptor says, each poisoned from the cycle of a failed check on. -/
def State.vecWrite (s : State) (j : Job) (v : VecD) (out : List VOut) : State :=
  let vals := (List.range out.length).zip out |>.map (fun x => (x.2.v, x.2.poison || j.late (v.outCycle x.1)))
  if v.dst = 1 then s.putWords j lkVQ (Config.vecIssue v.func) vals
  else
    let sp := handleSpace v.d
    if v.tD = 2 then
      s.jWrite j sp (j.at v.d) (vals.flatMap (fun x => slotWords { slotOf x.1 with poison := x.2 })) (fun w => v.outCycle (w / 2))
    else
      let n := typeBytes v.tD
      let ws := if v.tD = 1 then packWords n (vals.map (fun x => (fpToW12 x.1, x.2))) else packWords n vals
      s.jWrite j sp (j.at v.d) ws (fun w => v.outCycle (min ((8 * w + 7) / n) (v.outs - 1)))

/-- Counts what the outputs count as (R211). -/
def State.vecCount (s : State) (c e : Nat) (l : List VOut) : State :=
  let n := (l.filter (·.nan)).length
  let k := (l.filter (·.clamp)).length
  let s := s.fadd VEC_ELEMENTS_COUNT e c
  let s := if n = 0 then s else (s.fadd VEC_NAN_COUNT n c).fset VEC_STATUS_NAN_SEEN 1 c
  let s := if k = 0 then s else (s.fadd VEC_CURVE_CLAMPS_COUNT k c).fset VEC_STATUS_CLAMP_SEEN 1 c
  s.fadd VEC_SAT_SLOTS_COUNT (l.filter (·.sat)).length c

/-- The regions of a descriptor. -/
def VecD.regions (v : VecD) (j : Job) : List (Nat × Nat × Nat) :=
  v.memOps.map (fun o => (handleSpace o.2.h, j.at o.2.h, v.opBytes o.2)) ++
  (if v.dst = 1 then [] else [(handleSpace v.d, j.at v.d, v.outs * typeBytes v.tD)])

/-- What VEC does with a descriptor of any function but CURVE_LOAD. -/
def State.vecJob (s : State) (j : Job) : State :=
  let v := vecOf j.f.desc
  let st := s.vecStore j v
  if v.bad || (v.func == fnCURVE && st.isNone) then s.fieldStop j
  else if !(v.memOps.all (fun o => opSpaceOk o.2.ty o.2.h)) || (v.dst == 0 && !opSpaceOk v.tD v.d) then s.handleStop j
  else if !s.jBounds j (v.regions j) then s.boundStop j
  else
    let s := v.memOps.foldl (fun s o => s.eccRead j.c (handleSpace o.2.h) (j.at o.2.h) (v.opBytes o.2) (some j.f.ref)) s
    let r := v.memOps.foldl (fun (r : State × Job) o => r.1.checkReads r.2 o.1 (handleSpace o.2.h)
      ((List.range v.e).flatMap (fun i => (v.spans j o.2 i).map (fun x => (x.1, x.2, i / v.rate, 0))))) (s, j)
    let w := if v.srcA = 1 then r.1.takeWords r.2 lkQV (Config.vecCapture v.func) (ceilDiv v.e 128) else (r.1, r.2, [])
    let s := w.1
    let j := w.2.1
    let ins := s.vecIns j v w.2.2
    let elems := ins.map (fun x => vecOut v st x.1 x.2.1 x.2.2)
    let out := s.vecOuts j v w.2.2
    let corrupt := ins.any (fun x => x.1.corrupt || (usesB v.func && x.2.1.corrupt))
    let bad := out.any (·.poison) || (List.range out.length).any (fun i => j.late (v.outCycle i))
    let s := (s.vecWrite j v out).vecCount j.c v.e elems
    let s := if bad then s.fset VEC_STATUS_POISON_SEEN 1 j.c else s
    let s := if corrupt then s.reportFor j.f.ref (coreSrc j.c 0x16) clsU else s
    s.endJob { j with poison := j.poison || out.any (·.poison) } v.time (if corrupt then stContainedFault else stOK)

/-- A store set or cleared, with CURVES_LOADED (R195, R211). -/
def State.setCurve (s : State) (c n : Nat) (t : Option CurveStore) : State :=
  let s := s.modCore c (fun k => { k with curves := k.curves.set n t })
  s.fset VEC_STATUS_CURVES_LOADED (putBits (s.fget VEC_STATUS_CURVES_LOADED c) n 1 (b2n t.isSome)) c

/-- CURVE_LOAD rejects its table (R195). -/
def State.curveReject (s : State) (j : Job) (n : Nat) : State :=
  ((s.setCurve j.c n none).fset VEC_STATUS_CURVE_REJECT_SEEN 1 j.c).fieldStop j

/-- The little-endian 32-bit words of a curve table, read 2,048 bytes a cycle (R194) [DESIGN CHOICE, log entry 31]. -/
def State.jWords32 (s : State) (j : Job) (sp b n : Nat) : List Nat :=
  (List.range n).map (fun i => s.jLE (j.reads 7 (4 * i / 2048)) sp (b + 4 * i) 4)

/-- What VEC does with CURVE_LOAD (R195, R196): a table whose words arrive poisoned is not loaded. -/
def State.curveLoadJob (s : State) (j : Job) : State :=
  let v := vecOf j.f.desc
  let at_ := j.at v.a
  if v.badBits then s.fieldStop j
  else if handleSpace v.a != spASP then s.handleStop j
  else if !s.jBounds j [(spASP, at_, 32)] then s.boundStop j
  else
    let h := s.jWords32 j spASP at_ 8
    let l := bits (h.getD 5 0) 8 8
    if curveHeaderBad h || !s.jBounds j [(spASP, at_, curveBytes l)] then s.curveReject j v.store
    else
      let b := curveBytes l
      let t := ceilDiv b 2048 + 16
      let r := (s.eccRead j.c spASP at_ b (some j.f.ref)).checkReads j 7 spASP (streamReads at_ b 2048)
      let w := r.1.jWords32 r.2 spASP at_ (b / 4)
      if (List.range (2 ^ l)).any (fun k => segmentBad (slice w (8 + 4 * k) 4)) then r.1.curveReject r.2 v.store
      else
        let p := (List.range (b / 8)).any (fun i => r.1.jWordPoison (r.2.reads 7 (8 * i / 2048)) spASP (at_ + 8 * i))
        let s := r.1.setCurve j.c v.store (if p then none else some ⟨2 ^ l, w⟩)
        s.endJob { r.2 with poison := r.2.poison || p } t stOK

/-- A VEC command: the descriptor at hand where it names the function [DEDUCED, log entry 38]. -/
def vecCmd (c f : Nat) (s : State) (body : State → Job → State) : Result :=
  engineCmd c enVEC (fun d => dOpcode d == opVEC_OP && (vecOf d).func == f) (fun _ _ => true) s body

/-- ADD (R191). A descriptor with a reserved FUNC, which no command names, is executed with ADD's and only stopped (R191). -/
def execAdd (c : Nat) (s : State) : Result :=
  engineCmd c enVEC (fun d => dOpcode d == opVEC_OP && ((vecOf d).func == fnADD || fnCURVE_LOAD < (vecOf d).func)) (fun _ _ => true) s
    State.vecJob

/-- SUB (R191). -/
def execSub (c : Nat) (s : State) : Result := vecCmd c fnSUB s State.vecJob
/-- MUL (R191). -/
def execMul (c : Nat) (s : State) : Result := vecCmd c fnMUL s State.vecJob
/-- FMA (R191). -/
def execFma (c : Nat) (s : State) : Result := vecCmd c fnFMA s State.vecJob
/-- MIN (R191). -/
def execMin (c : Nat) (s : State) : Result := vecCmd c fnMIN s State.vecJob
/-- MAX (R191). -/
def execMax (c : Nat) (s : State) : Result := vecCmd c fnMAX s State.vecJob
/-- ABS (R191). -/
def execAbs (c : Nat) (s : State) : Result := vecCmd c fnABS s State.vecJob
/-- NEG (R191). -/
def execNeg (c : Nat) (s : State) : Result := vecCmd c fnNEG s State.vecJob
/-- CLAMP (R191). -/
def execClamp (c : Nat) (s : State) : Result := vecCmd c fnCLAMP s State.vecJob
/-- SELECT (R191). -/
def execSelect (c : Nat) (s : State) : Result := vecCmd c fnSELECT s State.vecJob
/-- CURVE (R197). -/
def execCurve (c : Nat) (s : State) : Result := vecCmd c fnCURVE s State.vecJob
/-- CONVERT (R191). -/
def execConvert (c : Nat) (s : State) : Result := vecCmd c fnCONVERT s State.vecJob
/-- SLOT_ADD (R191). -/
def execSlotAdd (c : Nat) (s : State) : Result := vecCmd c fnSLOT_ADD s State.vecJob
/-- SLOT_TO_FP32 (R192). -/
def execSlotToFp32 (c : Nat) (s : State) : Result := vecCmd c fnSLOT_TO_FP32 s State.vecJob
/-- REDUCE_SUM (R193). -/
def execReduceSum (c : Nat) (s : State) : Result := vecCmd c fnREDUCE_SUM s State.vecJob
/-- REDUCE_MAX (R193). -/
def execReduceMax (c : Nat) (s : State) : Result := vecCmd c fnREDUCE_MAX s State.vecJob
/-- CURVE_LOAD (R195). -/
def execCurveLoad (c : Nat) (s : State) : Result := vecCmd c fnCURVE_LOAD s State.curveLoadJob

end Sys2Proof.Machine
end

