-- ==== Sys2Proof/Machine/Qnt.lean ====
section
/-! DEFINITION. QNT: output conversion, statistics, and scale adaptation (R60 to R63, R199 to R207, R212, R228). -/

namespace Sys2Proof.Machine

/-! ### QNT_CONVERT (R199 to R204) -/

/-- A conversion descriptor. -/
structure QntD where
  vq : Bool
  qv : Bool
  ofmt : Nat
  fromState : Bool
  outExp : Int
  z : Int
  base : Nat
  pitch : Nat
  m : Nat
  n : Nat
  entry : Nat
  mult : Nat
  dst : Nat
  state : Nat
  stats : Nat
  badBits : Bool
  deriving DecidableEq, Repr

def qntOf (d : Nat) : QntD :=
  { vq := dbits d 16 0 1 == 1, qv := dbits d 16 2 1 == 1, ofmt := dbits d 16 3 3, fromState := dbits d 16 6 1 == 1
    outExp := sext 5 (dbits d 17 0 5), z := sext 8 (dbytes d 18 1), base := dbits d 20 0 18, pitch := dbits d 24 0 19
    m := dbits d 28 0 21, n := dbits d 32 0 11, entry := dbits d 34 0 12, mult := dbytes d 36 4, dst := dbytes d 40 4
    state := dbytes d 44 4, stats := dbytes d 48 4
    badBits := dbits d 16 1 1 != 0 || dbits d 16 7 1 != 0 || dbits d 17 5 3 != 0 || dbytes d 19 1 != 0 || dbits d 20 18 14 != 0 ||
      dbits d 24 19 13 != 0 || dbits d 28 21 11 != 0 || dbits d 32 11 5 != 0 || dbits d 34 12 4 != 0 }

/-- Whether the output is a code. -/
def QntD.code (q : QntD) : Bool := q.ofmt ≤ 2

/-- Whether the exponent comes from the scale state (R199: for code output). -/
def QntD.usesState (q : QntD) : Bool := q.code && q.fromState

/-- Whether a statistics record is written (R203, R204). -/
def QntD.usesStats (q : QntD) : Bool := q.code && q.stats != 0

/-- A parameter out of the range of R199. -/
def QntD.bad (q : QntD) : Bool :=
  q.badBits || 4 < q.ofmt || q.m == 0 || 2 ^ 20 < q.m || q.n == 0 || 1024 < q.n ||
  (q.code && (q.m % 32 != 0 || q.n % 32 != 0)) || (q.qv && (q.vq || q.ofmt != 4)) ||
  (!q.vq && (q.pitch % 8 != 0 || q.pitch < q.n)) ||
  (if q.code then decide (q.z < codeMin q.ofmt) || decide (codeMax q.ofmt < q.z) else q.z != 0)

/-- Elements, and duration (R204). -/
def QntD.count (q : QntD) : Nat := q.m * q.n
def QntD.time (q : QntD) : Nat := ceilDiv q.count 128 + 24 + (if q.vq || q.qv then 8 else 0)

/-- Cycle at which output `i` is written, 128 a cycle, the last one in the last cycle [DESIGN CHOICE, log entry 37]. -/
def QntD.outCycle (q : QntD) (i : Nat) : Nat := q.time - 1 - (q.count - 1) / 128 + i / 128

/-- Bytes of the output region in ASP. -/
def QntD.outBytes (q : QntD) : Nat :=
  if q.qv then 0
  else if q.code then 32 * tileGranules q.ofmt * (q.m / 32) * (q.n / 32)
  else if q.ofmt = 3 then 2 * q.count else 4 * q.count

/-- An element converted: its code or pattern, poison, what the statistics take of it, whether a saturated slot or a NaN gave it. -/
structure QOut where
  v : Nat
  poison : Bool
  clamped : Bool
  mag : Nat
  sat : Bool
  nan : Bool
  deriving DecidableEq, Repr

/-- The most positive or most negative code (R61, R202). -/
def extremeCode (fmt : Nat) (neg : Bool) : Nat := wrapInt (codeBits fmt) (if neg then codeMin fmt else codeMax fmt)

/-- Conversion of a finite exact value times the multiplier (R60, R62, R202); a W12 or FP32 output past the largest magnitude saturates
[DEDUCED, log entry 39]. -/
def QntD.conv (q : QntD) (x : Int) (a : Dy) (neg poison : Bool) : QOut :=
  let p := a.mul (fp32 q.mult).dy
  if q.code then
    let r := toCode q.ofmt (p.shift (-x)) q.z
    ⟨wrapInt (codeBits q.ofmt) r.1, poison, r.2.1, r.2.2, false, false⟩
  else if q.ofmt = 3 then ⟨w12Encode (w12Round p), poison, w12Over p, 0, false, false⟩
  else
    let w := fp32Clamp p
    ⟨if p.m = 0 then fp32Zero neg else w, poison, w != fp32Round p, 0, false, false⟩

/-- Conversion of a slot (R60 to R62). A slot of value 0 gives FP32 +0; where the multiplier is a zero, the result has the sign of the product
[DEDUCED, log entry 39]. -/
def QntD.convSlot (q : QntD) (x : Int) (t : Slot) (poison : Bool) : QOut :=
  let neg := bitAt t.value 95
  if t.sat then
    ⟨if q.code then extremeCode q.ofmt neg else if q.ofmt = 3 then w12Encode (if neg then -w12Max else w12Max) else fp32Max neg,
      poison || t.poison, true, 65535, true, false⟩
  else q.conv x t.dy ((neg != neg32 q.mult) && t.value != 0) (poison || t.poison)

/-- Conversion of an FP32 value from VQ (R202); for W12 and FP32 output an infinity saturates and a NaN follows R35 and R59. -/
def QntD.convFp (q : QntD) (x : Int) (v : Nat) (poison : Bool) : QOut :=
  match fp32 v with
  | .nan =>
    ⟨if q.code then wrapInt (codeBits q.ofmt) q.z else if q.ofmt = 3 then 0 else fp32Nan, poison, false, 0, false, true⟩
  | .inf s =>
    let zero := (fp32 q.mult).dy.m == 0
    if q.code then ⟨extremeCode q.ofmt s, poison, true, 65535, false, false⟩
    else if q.ofmt = 3 then ⟨if zero then 0 else w12Encode (if s != neg32 q.mult then -w12Max else w12Max), poison, !zero, 0, false, false⟩
    else ⟨if zero then fp32Nan else fp32Max (s != neg32 q.mult), poison, !zero, 0, false, false⟩
  | .fin n m e => q.conv x (Fp.fin n m e).dy (n != neg32 q.mult) poison

/-- Byte offset of entry `i` in a half (R205). -/
def entryAt (i : Nat) : Nat := 16 + 8 * i

/-- x_out of a conversion that takes it from the scale state: the exponent and its poison, or none where R200 stops the descriptor. -/
def State.stateExp (s : State) (j : Job) (q : QntD) : Option (Int × Bool) :=
  let at_ := j.at q.state
  let b := s.jLE j spASP (at_ + entryAt q.entry) 1
  if s.jLE j spASP (at_ + 4) 2 ≤ q.entry ∨ 32 ≤ b then none
  else some (sext 5 b, s.jPoison j spASP at_ 16 || s.jWordPoison j spASP (at_ + entryAt q.entry))

/-- The bytes of the code output: bale by bale, block b of 32 rows (R200); the scale bytes are x_out, poisoned where that is. -/
def QntD.bales (q : QntD) (x : Int) (xp : Bool) (out : List (Nat × Bool)) : List (Nat × Bool) :=
  (List.range (q.m / 32 * (q.n / 32))).flatMap (fun k =>
    packBale q.ofmt ((List.range 32).map (fun b =>
      ⟨wrapInt 5 x, xp, (List.range 32).map (fun r => out.getD ((k / (q.n / 32) * 32 + r) * q.n + k % (q.n / 32) * 32 + b) (0, false)), 0, false⟩)))

/-- The regions of a conversion. -/
def QntD.regions (q : QntD) (j : Job) : List (Nat × Nat × Nat) :=
  (if q.vq then [] else [(spPSP, j.f.latch.slotByte q.base, 16 * ((q.m - 1) * q.pitch + q.n))]) ++
  (if q.qv then [] else [(spASP, j.at q.dst, q.outBytes)]) ++
  (if q.usesState then [(spASP, j.at q.state, 16)] else []) ++ (if q.usesStats then [(spASP, j.at q.stats, 16)] else [])

/-- The statistics record (R204). -/
def statsRecord (entry mag outputs sats : Nat) : Nat := entry + mag * 2 ^ 16 + outputs % 2 ^ 48 * 2 ^ 32 + sats % 2 ^ 48 * 2 ^ 80

/-- The last element that word `w` of the code output holds a code of; the scale words go with the bale's last. -/
def QntD.lastOf (q : QntD) (w : Nat) : Nat :=
  let bale := 32 * tileGranules q.ofmt
  let k := 8 * w / bale
  let o := 8 * w % bale
  let b := if o < 32 then 31 else min 31 ((o + 7 - 32) / blockBytes q.ofmt)
  (k / (q.n / 32) * 32 + 31) * q.n + k % (q.n / 32) * 32 + b

/-- Writes the outputs. -/
def State.qntWrite (s : State) (j : Job) (q : QntD) (x : Int) (xp : Bool) (out : List (Nat × Bool)) : State :=
  if q.qv then s.putWords j lkQV Config.qntIssue out
  else if q.code then s.jWrite j spASP (j.at q.dst) (bytesToWords (q.bales x xp out) false) (fun w => q.outCycle (q.lastOf w))
  else
    let n := if q.ofmt = 3 then 2 else 4
    s.jWrite j spASP (j.at q.dst) (packWords n out) (fun w => q.outCycle (min ((8 * w + 7) / n) (q.count - 1)))

/-- Counts a conversion's outputs and writes its statistics record (R203, R204, R212). -/
def State.qntStats (s : State) (j : Job) (q : QntD) (out : List QOut) : State :=
  let good := out.filter (fun o => !o.poison)
  let sats := (good.filter (·.clamped)).length
  let mag := good.foldl (fun m o => max m o.mag) 0
  let s := s.fadd QNT_INVALID_COUNT (out.filter (·.nan)).length j.c
  let s := if out.any (·.nan) then s.fset QNT_STATUS_INVALID_SEEN 1 j.c else s
  let s := if out.any (fun o => o.clamped && !o.poison || o.sat) then s.fset QNT_STATUS_SAT_SEEN 1 j.c else s
  if !q.code then s
  else
    let s := (s.fadd QNT_OUTPUTS_COUNT out.length j.c).fadd QNT_SATS_COUNT sats j.c
    let s := s.fadd QNT_POISONED_COUNT (out.filter (·.poison)).length j.c
    let s := ((s.fset QNT_LAST_STATS_TAG (dTag j.f.desc) j.c).fset QNT_LAST_STATS_MAX_MAG mag j.c).fset QNT_LAST_STATS_SATS
      (min sats 0xFFFF_FFFF) j.c
    if q.usesStats then
      let r := statsRecord q.entry mag out.length sats
      let p := j.late (q.time - 1)
      s.jWrite j spASP (j.at q.stats) [(bits r 0 64, p), (bits r 64 64, p)] (fun _ => q.time - 1)
    else s

/-- Every element converted with exponent `x`, whose poison is `xp`; `words` the captured words of VQ. Slots are read 128 a cycle
[DESIGN CHOICE, log entry 31]. -/
def State.qntOuts (s : State) (j : Job) (q : QntD) (x : Int) (xp : Bool) (words : List (List Int × Bool)) : List QOut :=
  (List.range q.count).map (fun i =>
    if q.vq then
      let v := words.getD (i / 128) ([], true)
      q.convFp x (v.1.getD (i % 128) 0).toNat (xp || v.2)
    else q.convSlot x (s.jSlot (j.reads 5 (i / 128)) (q.base + i / q.n * q.pitch + i % q.n)) xp)

/-- Converts every element with exponent `x` [DEDUCED, log entry 39]. -/
def State.qntRun (s : State) (j : Job) (q : QntD) (x : Int) (xp : Bool) : State :=
  let w := if q.vq then s.takeWords j lkVQ Config.qntCapture (ceilDiv q.count 128)
    else
      let s := s.eccRead j.c spPSP (j.f.latch.slotByte q.base) (16 * ((q.m - 1) * q.pitch + q.n)) (some j.f.ref)
      let r := s.checkReads j 5 spPSP ((List.range q.count).map (fun i =>
        (j.f.latch.slotByte (q.base + i / q.n * q.pitch + i % q.n), 16, i / 128, 0)))
      (r.1, r.2, [])
  let s := w.1
  let j := w.2.1
  let out := s.qntOuts j q x xp w.2.2
  let marked := (List.range out.length).zip out |>.map (fun o => (o.2.v, o.2.poison || j.late (q.outCycle o.1)))
  let s := (s.qntWrite j q x (xp || j.late (q.time - 1)) marked).qntStats j q out
  let s := if marked.any (·.2) then s.fset QNT_STATUS_POISON_SEEN 1 j.c else s
  s.endJob { j with poison := j.poison || out.any (·.poison) } q.time (if out.any (·.sat) then stSat else stOK)

/-- What QNT does with a conversion. -/
def State.qntJob (s : State) (j : Job) : State :=
  let q := qntOf j.f.desc
  if q.bad then s.fieldStop j
  else if !isFinite32 q.mult then (s.fset QNT_STATUS_MULT_FAULT_SEEN 1 j.c).fieldStop j
  else if (!q.qv && handleSpace q.dst != spASP) || (q.usesState && handleSpace q.state != spASP) ||
      (q.usesStats && handleSpace q.stats != spASP) then s.handleStop j
  else if !s.jBounds j (q.regions j) then s.boundStop j
  else if q.usesState then
    if !s.jBounds j [(spASP, j.at q.state + entryAt q.entry, 1)] then s.boundStop j
    else
      let s := s.eccRead j.c spASP (j.at q.state) 16 (some j.f.ref)
      let s := s.eccRead j.c spASP (j.at q.state + entryAt q.entry) 1 (some j.f.ref)
      let r := s.checkReads j 11 spASP [(j.at q.state, 16, 0, 0), (j.at q.state + entryAt q.entry, 1, 0, 0)]
      match r.1.stateExp (r.2.reads 11 0) q with
      | none => r.1.fieldStop r.2
      | some x => r.1.qntRun r.2 q x.1 x.2
  else s.qntRun j q q.outExp false

/-- QNT_CONVERT (R200). -/
def execQntConvert (c : Nat) (s : State) : Result :=
  engineCmd c enQNT (fun d => dOpcode d == opQNT_CONVERT) (fun _ _ => true) s State.qntJob

/-! ### QNT_ADAPT (R205 to R207) -/

/-- An entry of a half, from its eight bytes. -/
structure ScaleEntry where
  x : Int
  adapt : Bool
  fmt : Nat
  dwell : Nat
  hi : Nat
  lim : Nat
  deriving DecidableEq, Repr

def scaleEntryOf (b : Nat) : ScaleEntry :=
  ⟨sext 5 (bits b 0 5), bitAt b 8, bits b 9 2, bits b 16 16, bits b 32 16, bits b 48 16⟩

def ScaleEntry.toNat (e : ScaleEntry) : Nat :=
  wrapInt 5 e.x + b2n e.adapt * 2 ^ 8 + e.fmt * 2 ^ 9 + e.dwell % 2 ^ 16 * 2 ^ 16 + e.hi * 2 ^ 32 + e.lim * 2 ^ 48

/-- A reserved bit or FMT 3 in an entry (R206). -/
def scaleEntryBad (b : Nat) : Bool := bits b 5 3 != 0 || bits b 11 5 != 0 || bits b 9 2 == 3

/-- R_q of a format (R207). -/
def satRange (fmt : Nat) : Nat := 2 ^ (codeBits fmt - 1)

/-- What a revision counts as. -/
inductive Revision where
  | none
  | rise
  | fall
  | limit
  deriving DecidableEq, Repr

/-- The next entry (R207) from the sums over its records. -/
def ScaleEntry.revise (e : ScaleEntry) (o sat mag : Nat) : ScaleEntry × Revision :=
  if !e.adapt || o == 0 then (e, .none)
  else if e.hi * o < sat * 65536 then
    ({ e with x := min (e.x + 1) 15, dwell := 0 }, if e.x = 15 then .limit else .rise)
  else if mag < satRange e.fmt / 4 then
    if e.lim ≤ e.dwell + 1 then ({ e with x := max (e.x - 1) (-16), dwell := 0 }, if e.x = -16 then .limit else .fall)
    else ({ e with dwell := e.dwell + 1 }, .none)
  else ({ e with dwell := 0 }, .none)

/-- The revision of entry `i` by a list of statistics records (R204, R207). -/
def reviseBy (recs : List Nat) (i b : Nat) : ScaleEntry × Revision :=
  let l := recs.filter (fun r => bits r 0 16 == i)
  (scaleEntryOf b).revise ((l.map (fun r => bits r 32 48)).sum) ((l.map (fun r => bits r 80 48)).sum)
    (l.foldl (fun m r => max m (bits r 16 16)) 0)

def qaIn (d : Nat) : Nat := dbytes d 16 4
def qaOut (d : Nat) : Nat := dbytes d 20 4
def qaList (d : Nat) : Nat := dbytes d 24 4
def qaCount (d : Nat) : Nat := dbits d 28 0 13
def qaTable (d : Nat) : Nat := dbytes d 32 4

/-- Writes the next half and counts its revisions; `recs` and `ents` are the records and the LIVE entries as read. The half is written in the
last cycle: R206 gives only the duration [DEDUCED, log entry 39; DESIGN CHOICE, log entry 31]. -/
def State.adaptRun (s : State) (j : Job) (hdr : Nat) (ents recs : List Nat) (poison : Bool) : State :=
  let t := recs.length + ents.length + 32
  let next := (List.range ents.length).zip ents |>.map (fun e => reviseBy recs e.1 e.2)
  let n (r : Revision) := (next.filter (fun e => e.2 == r)).length
  let p := poison || j.late (t - 1)
  let head := bits hdr 32 32 * 2 ^ 32 + (bits hdr 0 32 + 1) % 2 ^ 32
  let ws := [(head, p), (bits hdr 64 64, p)] ++ next.map (fun e => (e.1.toNat, p))
  let s := s.jWrite j spASP (j.at (qaOut j.f.desc)) ws (fun _ => t - 1)
  let s := ((s.fadd QNT_ADAPT_RISES_COUNT (n .rise) j.c).fadd QNT_ADAPT_FALLS_COUNT (n .fall) j.c).fadd QNT_ADAPT_LIMITS_COUNT
    (n .limit) j.c
  let s := if n .limit = 0 then s else s.fset QNT_STATUS_LIMIT_SEEN 1 j.c
  let s := if p then s.fset QNT_STATUS_POISON_SEEN 1 j.c else s
  s.endJob { j with poison := j.poison || poison } t stOK

/-- The job reading record `i` of QNT_ADAPT's list, the header, and entry `i` of the LIVE copy of a list of `n` records: a record a cycle, then
an entry a cycle [DESIGN CHOICE, log entry 31]. -/
def Job.adaptRecord (j : Job) (i : Nat) : Job := j.reads 6 i
def Job.adaptHeader (j : Job) : Job := j.reads 4 0
def Job.adaptEntry (j : Job) (n i : Nat) : Job := j.reads 4 (n + i)

/-- What QNT does with QNT_ADAPT. ENTRIES outside 1 to 4,096 is treated as a field out of range; TABLE_HANDLE must name DRAM (R206, R219). -/
def State.adaptJob (s : State) (j : Job) : State :=
  let d := j.f.desc
  let n := qaCount d
  let at_ := j.at (qaIn d)
  let list := j.at (qaList d)
  if dbits d 28 13 3 != 0 || dbytes d 30 2 != 0 || n == 0 || 4096 < n then s.fieldStop j
  else if handleSpace (qaIn d) != spASP || handleSpace (qaOut d) != spASP || handleSpace (qaList d) != spASP || !isDram (qaTable d) then
    s.handleStop j
  else if !s.jBounds j [(spASP, at_, 16), (spASP, list, 16 * n)] then s.boundStop j
  else
    let hdr := s.jLE j.adaptHeader spASP at_ 16
    let k := bits hdr 32 16
    if k = 0 ∨ 4096 < k ∨ bits hdr 48 80 ≠ 0 then s.fieldStop j
    else if !s.jBounds j [(spASP, at_, entryAt k), (spASP, j.at (qaOut d), entryAt k)] then s.boundStop j
    else
      let s := s.eccRead j.c spASP at_ (entryAt k) (some j.f.ref)
      let s := s.eccRead j.c spASP list (16 * n) (some j.f.ref)
      let r := s.checkReads j 4 spASP ((at_, 16, 0, 0) :: (List.range k).map (fun i => (at_ + entryAt i, 8, n + i, 0)))
      let r := r.1.checkReads r.2 6 spASP ((List.range n).map (fun i => (list + 16 * i, 16, i, 0)))
      let ents := (List.range k).map (fun i => r.1.jLE (r.2.adaptEntry n i) spASP (at_ + entryAt i) 8)
      let recs := (List.range n).map (fun i => r.1.jLE (r.2.adaptRecord i) spASP (list + 16 * i) 16)
      let poison := r.1.jPoison r.2.adaptHeader spASP at_ 16 ||
        (List.range k).any (fun i => r.1.jPoison (r.2.adaptEntry n i) spASP (at_ + entryAt i) 8) ||
        (List.range n).any (fun i => r.1.jPoison (r.2.adaptRecord i) spASP (list + 16 * i) 16)
      if ents.any scaleEntryBad || recs.any (fun x => decide (k ≤ bits x 0 16)) then r.1.fieldStop r.2
      else r.1.adaptRun r.2 hdr ents recs poison

/-- QNT_ADAPT (R207). -/
def execQntAdapt (c : Nat) (s : State) : Result :=
  engineCmd c enQNT (fun d => dOpcode d == opQNT_ADAPT) (fun _ _ => true) s State.adaptJob

end Sys2Proof.Machine
end

