-- ==== Sys2Proof/Machine/Lockstep.lean ====
section
/-! DEFINITION. Lockstep groups: the sequencer's checks, the start, members' starts, and the end (R103 to R112, R120, R123, R125, R165,
R217). -/

namespace Sys2Proof.Machine

/-! ### The opener and its members -/

/-- The opener that SEQ of a core holds at the head of its intake. -/
def State.opener (s : State) (c : Nat) : Option Flight :=
  s.drover.flights.find? (fun f =>
    f.core == c && f.pos != 0 && dOpcode f.desc == opGROUP_OPEN && !f.member && f.stage == .intake && s.mayStart f)

/-- The MEMBERS descriptors that follow an opener and are still in flight, in queue order. -/
def State.followers (s : State) (o : Flight) : List Flight :=
  s.drover.flights.filter (fun f =>
    f.queue == o.queue && f.index == o.index && decide (o.pos < f.pos) && decide (f.pos ≤ o.pos + goMembers o.desc))

/-- Whether every descriptor that follows an opener as a member has been fetched. -/
def State.membersFetched (s : State) (o : Flight) : Bool :=
  match s.caravanOf o with
  | none => true
  | some k => decide (o.pos + goMembers o.desc ≤ k.fetched) || decide (k.len ≤ k.fetched)

/-- A member as a job of its engine, before it starts. -/
def memberJob (c : Nat) (f : Flight) : Job := { c := c, f := f, member := true, start := dLockOffset f.desc, length := 0 }

/-! ### Checks before group cycle 0 (R104, R105, R217) -/

/-- The read operands of a descriptor that lie in a scratchpad, by operand number (R217). -/
def readOperands (d : Nat) : List Nat :=
  let op := dOpcode d
  if op = opMXA_STREAM then [4, 5] ++ (if (streamProb d).zpc then [6] else [])
  else if op = opMXA_THROUGH then [4, 5] ++ (if (throughProb d).zpc then [6] else [])
  else if op = opMXA_PACKED then [4]
  else if op = opMVP_MATVEC then [4, 5]
  else if op = opWIN_FEED then (if (feedOf d).chain = 0 then [] else [14])
  else if op = opWIN_REGROUP then [4] ++ (if (regroupOf d).zpc then [12] else [])
  else if op = opVEC_OP then (if (vecOf d).func = fnCURVE_LOAD then [7] else ((vecOf d).memOps.map (·.1)))
  else if op = opQNT_CONVERT then
    (if (qntOf d).vq then [] else [5]) ++ (if (qntOf d).usesState then [11] else [])
  else if op = opQNT_ADAPT then [4, 6]
  else []

/-- Whether a member's producer checks name its read operands, each at most once (R217). -/
def checksOk (d : Nat) : Bool :=
  let l := (List.range (dChecks d)).map (fun i => (dCheck d i).2)
  l.all (fun k => (readOperands d).contains k) && decide l.Nodup

/-- Whether an engine may run members (R104). -/
def memberEngine (e : Nat) : Bool := [enMXA0, enMXA1, enWIN, enVEC, enQNT, enMVP].contains e

/-- Whether a descriptor breaks R104, R105 or R217 as a member of a group on core `c` [DEDUCED, log entry 42]. -/
def State.memberBad (s : State) (c : Nat) (f : Flight) : Bool :=
  let d := f.desc
  let e := dEngine d
  f.completed || isDroverOp (dOpcode d) || !memberEngine e || dWaits d != 0 || dSignals d != 0 ||
  ((e == enMXA0 || e == enMXA1) && (dLockOffset d < 32 || !s.arrayPresent c (e - enMXA0))) || !checksOk d

/-- What the paired member's rows, blocks, passes and format must be (R165, R170). -/
def Feed.matches (f : Feed) (q : Prob) : Bool :=
  q.m == f.rows && q.kb == f.blocks && q.p == f.p && q.afmt == f.afmt

/-- Reason 8 or 9 of a WIN feed on one link it names, 0 for none (R165). -/
def State.linkReason (s : State) (c : Nat) (l : List Flight) (link : Nat) (w : Flight) : Nat :=
  let feeds := feedsOn l link
  let arrays := arraysOn l link
  let ix := feeds.findIdx (fun f => f.ref == w.ref)
  match arrays[ix]? with
  | none => 8
  | some a =>
    let qs := s.probs (memberJob c a)
    let f := s.feedResolved (memberJob c w) (feedOf w.desc)
    if qs.any (fun q => 5 ≤ q.afmt) || dOpcode a.desc == opMXA_THROUGH then 9
    else if feeds.length != arrays.length || !qs.all (f.matches ·) then 8
    else 0

/-- Whether a feed is paired with a packed instruction. -/
def pairedPacked (l : List Flight) (w : Flight) : Bool :=
  [0, 1].any (fun k => bitAt (feedOf w.desc).links k &&
    ((arraysOn l k)[(feedsOn l k).findIdx (fun f => f.ref == w.ref)]?).elim false (fun a => dOpcode a.desc == opMXA_PACKED))

/-- The reason recorded for a WIN feed member: the lowest, 9 in place of 8; 0 for none (R165). -/
def State.winReason (s : State) (c : Nat) (l : List Flight) (w : Flight) : Nat :=
  let r := s.feedReason (memberJob c w) (feedOf w.desc) (pairedPacked l w)
  if r ≠ 0 then r
  else
    let rs := ([0, 1].filter (fun k => bitAt (feedOf w.desc).links k)).map (fun k => s.linkReason c l k w)
    if rs.contains 9 then 9 else if rs.contains 8 then 8 else 0

/-- The first member that R165 rejects a group for: its TAG and the reason. Reason 8 caused by an array member that names the other array's
link is recorded under that member's TAG, and so is one that names a link no feed names [DEDUCED, log entry 42]. -/
def State.feedReject (s : State) (c : Nat) (l : List Flight) : Option (Nat × Nat) :=
  let arrays := l.filter (fun f => (dEngine f.desc == enMXA0 || dEngine f.desc == enMXA1) && arrayAsrc f.desc != 0 && arrayAsrc f.desc ≤ 2)
  let wrong := arrays.find? (fun f => arrayAsrc f.desc - 1 != dEngine f.desc - enMXA0)
  match l.find? (fun f => dOpcode f.desc == opWIN_FEED && s.winReason c l f != 0 && (s.winReason c l f != 8 || wrong.isNone)) with
  | some w => some (dTag w.desc, s.winReason c l w)
  | none => (wrong.orElse (fun _ => arrays.find? (fun f => feedsOn l (arrayAsrc f.desc - 1) == []))).map (fun f => (dTag f.desc, 8))

/-- Whether the opener and its members break R104, R105 or R217, R165 aside [DEDUCED, log entry 76]. -/
def State.groupBad (s : State) (c : Nat) (o : Flight) (l : List Flight) : Bool :=
  goMembers o.desc == 0 || 64 < goMembers o.desc || goLength o.desc == 0 || l.length != goMembers o.desc ||
  l.any (fun f => s.memberBad c f) ||
  (List.range 10).any (fun e => decide (16 < (l.filter (fun f => dEngine f.desc == e)).length))

/-- Rejects a group (R105, R165): opener and members complete CONTAINED_FAULT, one class U fault. -/
def State.rejectGroup (s : State) (c : Nat) (o : Flight) (l : List Flight) (why : Option (Nat × Nat)) : State :=
  let s := s.fset CORE_LOCK_STATUS_REJECT_SEEN 1 c
  let s := match why with
    | none => s
    | some w =>
      let s := s.fset WIN_STATUS_REJECT_SEEN 1 c
      if s.fbit WIN_LAST_REJECT_VALID c then s else s.rset WIN_LAST_REJECT (BitVec.ofNat 64 (w.1 + w.2 * 2 ^ 16 + 2 ^ 63)) c
  let s := s.endFault o.ref stContainedFault (coreSrc c 0x10)
  (l.filter (fun f => !f.completed)).foldl (fun s f => s.endFlight f.ref stContainedFault) s

/-- A member as the group holds it. -/
def memberOf (f : Flight) : Member := ⟨f.ref, dEngine f.desc, dLockOffset f.desc, 0, 0, false, false, 0⟩

/-- The sequencer's checks of the opener at hand (R105): the group is rejected, or waits for its start. -/
def State.openGroup (s : State) (c : Nat) (o : Flight) : State :=
  let l := s.followers o
  if s.groupBad c o l then s.rejectGroup c o l none
  else
    match s.feedReject c l with
    | some w => s.rejectGroup c o l (some w)
    | none =>
      let g : Group := { opener := o.ref, length := goLength o.desc, started := false, members := l.map memberOf }
      s.modCore c (fun k => { k with group := some g })

/-- Whether a core's group has been checked and its opener is the one at hand. -/
def State.groupOpened (s : State) (c : Nat) (o : Flight) : Bool := (s.groupOf c).elim false (fun g => g.opener == o.ref)

/-- GROUP_OPEN (R105). -/
def execGroupOpen (c : Nat) (s : State) : Result :=
  unit (c < 8) (match s.opener c with
    | none => .next s
    | some o => due (s.coreWorks c && s.membersFetched o && !s.groupOpened c o) s (s.openGroup c o))

/-! ### The start (R106, R118, R424) -/

/-- The activity level a group needs on array `a` (R424). -/
def State.groupNeed (s : State) (c a : Nat) (l : List Flight) : Nat :=
  ((l.filter (fun f => dEngine f.desc == enMXA0 + a)).map (fun f => s.arrayNeed (memberJob c f))).foldl max 0

/-- Whether every condition of R106 holds. -/
def State.groupReady (s : State) (c : Nat) (o : Flight) (l : List Flight) : Bool :=
  s.waitsMet o && l.length == goMembers o.desc && l.all (fun f => f.stage == .intake) &&
  s.drover.flights.all (fun f => !(f.core == c && f.pos != 0 && l.any (fun m => dEngine m.desc == dEngine f.desc) &&
    !l.any (fun m => m.ref == f.ref) && (f.stage == .running || (f.stage == .intake && s.atHead f)))) &&
  decide (s.groupNeed c 0 l ≤ s.level c 0) && decide (s.groupNeed c 1 l ≤ s.level c 1)

/-- Clears every stamp of a core (R118). -/
def State.clearStamps (s : State) (c : Nat) : State :=
  { s with stamps := s.stamps.filter (fun e => decide ((spOf e.1).1 ≠ c)) }

/-- Group cycle 0. -/
def State.startGroup (s : State) (c : Nat) (o : Flight) : State :=
  let s := ((s.latchWaits.clearStamps c).fset CORE_LOCK_STATUS_IN_GROUP 1 c).modFlight o.ref (fun f => { f with stage := .running })
  s.modGroup c (fun g => { g with started := true, since := s.arrNow c, seed := s.fget CORE_LOCK_GROUPS_COUNT c })

/-- GROUP_START (R106). -/
def execGroupStart (c : Nat) (s : State) : Result :=
  unit (c < 8) (match s.opener c with
    | none => .next s
    | some o => due (s.coreWorks c && s.groupOpened c o && s.groupReady c o (s.followers o)) s (s.startGroup c o))

/-! ### Slips (R112) -/

/-- The scratchpad regions that a member accesses. -/
def State.claims (s : State) (j : Job) : List (Nat × Nat × Nat) :=
  let d := j.f.desc
  let op := dOpcode d
  if op = opMXA_STREAM ∨ op = opMXA_PACKED ∨ op = opMXA_THROUGH then
    (liveProbs (s.probs j)).flatMap (fun q => q.regions j (s.feedFor j q.src))
  else if op = opMVP_MATVEC then mvRegions j
  else if op = opWIN_FEED then [(spASP, j.at (feedOf d).chainHandle, 16 * (feedOf d).chain)]
  else if op = opWIN_REGROUP then
    let g := regroupOf d
    [(spASP, (g.srcMap j).off, (g.srcMap j).bytes), (spASP, (g.dstMap j).off, (g.dstMap j).bytes)] ++
    (if g.zpc then [(spASP, j.at g.zp, 32 * (g.srcMap j).cb)] else [])
  else if op = opVEC_OP then
    (if (vecOf d).func = fnCURVE_LOAD then [(spASP, j.at (vecOf d).a, curveBytes 10)] else (vecOf d).regions j)
  else if op = opQNT_CONVERT then (qntOf d).regions j
  else [(spASP, j.at (qaIn d), entryAt 4096), (spASP, j.at (qaOut d), entryAt 4096), (spASP, j.at (qaList d), 16 * qaCount d)]

/-- Whether two regions have rows in one bank (R127). -/
def sharesBank (a b : Nat × Nat × Nat) : Bool :=
  let n := spBanks a.1
  let rows (x : Nat × Nat × Nat) : Nat := if x.2.2 = 0 then 0 else (x.2.1 + x.2.2 - 1) / 128 - x.2.1 / 128 + 1
  a.1 == b.1 && rows a != 0 && rows b != 0 &&
  (decide (n ≤ rows a) || decide (n ≤ rows b) ||
    (List.range (rows a)).any (fun i => decide ((a.2.1 / 128 + i + n - b.2.1 / 128 % n) % n < rows b)))

/-- Whether a member may have to wait for a bank: some member that has not ended by its LOCK_OFFSET accesses a bank that it accesses, and
stands before it in the order of R112 or is an array writing PSP. The array write ports never wait themselves [DESIGN CHOICE, log entry 32]. -/
def State.maySlip (s : State) (c : Nat) (g : Group) (m : Member) : Bool :=
  let claims (x : Member) : List (Nat × Nat × Nat) := (s.flight? x.ref).elim [] (fun f => s.claims (g.job c f))
  let port (x : Member) : Bool := x.engine == enMXA0 || x.engine == enMXA1
  let mine := if port m then (claims m).filter (fun r => r.1 != spPSP) else claims m
  g.members.any (fun x => x.ref != m.ref && (!x.ran || decide (m.offset < x.endCycle)) &&
    (claims x).any (fun r => (decide (memberRank x.engine < memberRank m.engine) || (port x && r.1 == spPSP)) && mine.any (sharesBank r)))

/-! ### Members (R107, R111) -/

/-- The next member to start: the first by group cycle, then in queue order [DESIGN CHOICE, log entry 32]. -/
def nextMember : List Member → Option Member
  | [] => none
  | m :: ms =>
    match nextMember ms with
    | none => if m.started then none else some m
    | some x => if m.started || x.offset < m.offset then some x else some m

/-- Whether a member's engine still runs an earlier member at its LOCK_OFFSET (R107). -/
def engineBusy (g : Group) (m : Member) : Bool := g.members.any (fun x => x.engine == m.engine && x.ran && decide (m.offset < x.endCycle))

/-- From which cycle of its run a member's events slip, and by how much, where it may have to wait for a bank: free values, since the rules do
not give every engine's bank accesses cycle by cycle (R112) [DESIGN CHOICE, log entry 32]. -/
def State.slips (s : State) (c : Nat) (g : Group) (m : Member) : Nat × Nat :=
  if !s.maySlip c g m then (0, 0)
  else
    let x := (Config.freeOf ([7, m.offset, m.engine] ++ (s.memberFlights g).map (·.desc))).toNat
    (bits x 0 32, bits x 32 16)

/-- A member's start at its LOCK_OFFSET, or, its engine busy, its end without having run [DEDUCED, log entry 76]. -/
def State.launchMember (s : State) (c : Nat) (g : Group) (m : Member) : State :=
  let x := s.slips c g m
  let s := (s.modMember c m.ref (fun m => { m with started := true, slipAt := x.1, slip := x.2 })).modGroup c (fun g => { g with
    ahead := g.ahead.filter (fun w => w.ref != m.ref), aheadLinks := g.aheadLinks.map (fun l => l.filter (fun w => w.ref != m.ref)) })
  match s.flight? m.ref with
  | none => s
  | some f =>
    if f.completed then s
    else if engineBusy g m then ((s.skew c m.ref f.desc m.offset).endFlight m.ref stTimingSkew).countSkew c m.ref
    else s.modFlight m.ref (fun f => { f with stage := .running })

/-- What a member's engine does with it. -/
def memberBody (d : Nat) (s : State) (j : Job) : State :=
  let op := dOpcode d
  if op = opMXA_STREAM ∨ op = opMXA_PACKED ∨ op = opMXA_THROUGH then s.arrayJob j
  else if op = opMVP_MATVEC then s.mvpJob j
  else if op = opWIN_FEED then s.feedJob j
  else if op = opWIN_REGROUP then s.regroupJob j
  else if op = opVEC_OP then (if (vecOf d).func = fnCURVE_LOAD then s.curveLoadJob j else s.vecJob j)
  else if op = opQNT_CONVERT then s.qntJob j
  else s.adaptJob j

/-- A member that has started runs. -/
def State.runMember (s : State) (c : Nat) (r : DescRef) : State :=
  match s.flight? r, s.groupOf c with
  | some f, some g => if f.stage = .running then memberBody f.desc s (g.job c f) else s
  | _, _ => s

/-- The members not yet started start and run in their order, at most `n` of them. -/
def State.runRest (s : State) (c : Nat) : Nat → State
  | 0 => s
  | n + 1 =>
    match (s.groupOf c).bind (fun g => (nextMember g.members).map (fun m => (g, m))) with
    | none => s
    | some x => ((s.launchMember c x.1 x.2).runMember c x.2.ref).runRest c n

/-- What members still to start will write and issue, by a group that expects `o` of them: the member `r` at hand runs, then they. -/
def State.expect (s : State) (c : Nat) (r : DescRef) (o : List RowWrite × List (List LinkWord)) : List RowWrite × List (List LinkWord) :=
  match s.groupOf c with
  | none => o
  | some g =>
    let t := ((s.modGroup c (fun g => { g with ahead := o.1, aheadLinks := o.2 })).runMember c r).runRest c g.members.length
    let later (x : DescRef) : Bool := g.members.any (fun m => m.ref == x && !m.started)
    (t.groupOf c).elim o (fun h => (h.writes.filter (fun w => later w.ref), h.links.map (fun l => l.filter (fun w => later w.ref))))

/-- Repeats a step until it changes nothing, at most `n` times. -/
def untilStable {α : Type} [DecidableEq α] (f : α → α) : Nat → α → α
  | 0, x => x
  | n + 1, x =>
    let y := f x
    if y = x then x else untilStable f n y

/-- What the members that have not started yet will write and issue, as the member at hand meets it at the cycles of its run (R111): each
round is right for one more cycle of the group at least, so it settles before a group has run out of cycles. -/
def State.foresee (s : State) (c : Nat) (r : DescRef) : State :=
  if (s.groupOf c).elim true (fun g => g.members.all (·.started)) then s
  else
    let o := untilStable (s.expect c r) (2 ^ 40) ([], [[], [], [], []])
    s.modGroup c (fun g => { g with ahead := o.1, aheadLinks := o.2 })

/-- MEMBER_START's effect: the member starts, with what later members do in time for it. -/
def State.startMember (s : State) (c : Nat) (g : Group) (m : Member) : State := (s.launchMember c g m).foresee c m.ref

/-- MEMBER_START (R107): once the member before it has run, a member starts; the order of the commands is no order of cycles, since each
member reads what the group's cycles give it (R111) [DESIGN CHOICE, log entry 32]. -/
def execMemberStart (c : Nat) (s : State) : Result :=
  unit (c < 8) (match s.groupOf c with
    | none => .next s
    | some g =>
      match nextMember g.members with
      | none => .next s
      | some m =>
        due (s.coreWorks c && g.started && !(s.memberFlights g).any (fun f => f.stage == .running)) s (s.startMember c g m))

/-! ### The end (R109, R120, R123) -/

/-- Status of an opener from its members' statuses in queue order (R109) [DEDUCED, log entry 76]. -/
def openerStatus (l : List Nat) : Nat :=
  if l.contains stTimingSkew then stTimingSkew else (l.find? (· != stOK)).getD stOK

/-- The group ends: its first TIMING_SKEW is reported, for the opener whose signals are withheld (R120, R122); opener and members complete in
order. -/
def State.endGroup (s : State) (c : Nat) (g : Group) : State :=
  let l := s.memberFlights g
  let s := (s.endFlight g.opener (openerStatus (l.map (·.status)))).dropGroup c
  l.foldl (fun s f => s.completeFlight f.ref) (s.completeFlight g.opener)

/-- GROUP_END (R109): every member has ended. -/
def execGroupEnd (c : Nat) (s : State) : Result :=
  unit (c < 8) (match s.groupOf c with
    | none => .next s
    | some g =>
      due (s.coreWorks c && g.started && g.members.all (·.started) && (s.memberFlights g).all (·.completed)) s (s.endGroup c g))

end Sys2Proof.Machine
end

