-- ==== Sys2Proof/Machine/Power.lean ====
section
/-! DEFINITION. The CPB: power samples, control intervals and steps, phase learning, activity levels, temperatures (R410 to R429). -/

namespace Sys2Proof.Machine

def State.modPwr (s : State) (g : Pwr → Pwr) : State := { s with pwr := g s.pwr }

/-! ### Guarantees (R7, R413) -/

/-- Enabled arrays of the part. -/
def State.arrayCount (s : State) : Nat :=
  ((List.range 8).map (fun c => b2n (s.arrayPresent c 0) + b2n (s.arrayPresent c 1))).sum

/-- G of a step, in watts. -/
def State.guaranteeW (s : State) (step : Nat) : Nat :=
  let d := stepDiv step
  ceilDiv ((74 * s.arrayCount + 140) * 4 + 440 * d) (10 * d)

/-- G of FIXED_STEP, in milliwatts. -/
def State.fixedMw (s : State) (step : Nat) : Nat := 1000 * s.guaranteeW step

/-! ### Samples (R410) -/

/-- POWER_SAMPLE (R410): the sum over the rails of voltage times current, every 1 µs. Currents appear in CMB_RAIL_k [DEDUCED, log entry 62]. -/
def execPowerSample (rails : List RailSample) (s : State) : Result :=
  let uw := (rails.map (fun r => r.mv * r.ma)).sum
  let cmbRails := (List.range 8).map (fun k =>
    let old := s.cmb.rails.getD k 0
    match rails[k]? with
    | some r => putBits old 16 15 (divRound r.ma 100).toNat
    | none => old)
  due (s.up && s.elapsed s.pwr.sampled (usTicks 1)) s
    ({ s with cmb := { s.cmb with rails := cmbRails } }.modPwr (fun p => { p with samples := p.samples + 1, sum := p.sum + uw, sampled := s.refTick }))

/-! ### The decision (R414 to R419) -/

/-- The thermal cap (R427). -/
def State.thermalCap (s : State) : Nat :=
  ((List.range 8).filter (fun i => s.pwr.reached.getD i false)).foldl (fun m i => min m (s.fget PWR_THERM_CURVEi_CAP_MW i)) 180_000

/-- CAP_EFF (R414). -/
def State.capEff (s : State) : Nat := min (s.fget PWR_CAP_CAP_MW) s.thermalCap

/-- D of a core (R415) [DEDUCED, log entry 63]. -/
def State.demand (s : State) (c : Nat) : Nat :=
  let p := s.fget PWR_CORE_c_PHASE c
  if (s.occupant c).isNone then s.fget PWR_PHASE_CFG_IDLE_MW
  else if s.fbit PWR_PHASE_p_VALID p then s.fget PWR_PHASE_p_E_MW p
  else (divRound (s.fget PWR_PHASE_CFG_DEFAULT_MW * (b2n (s.arrayPresent c 0) + b2n (s.arrayPresent c 1)) : Nat) 2).toNat

/-- P of a core at a step. -/
def stepPower (d step : Nat) : Nat := d * 4 / stepDiv step

/-- The core that steps down next: the largest P below step 3, ties to the lowest number. -/
def stepDown (d st : List Nat) : Option Nat :=
  (List.range 8).foldl (fun b c =>
    if 3 ≤ st.getD c 0 then b
    else
      match b with
      | none => some c
      | some x => if stepPower (d.getD x 0) (st.getD x 0) < stepPower (d.getD c 0) (st.getD c 0) then some c else some x) none

/-- The loop of R415, at most 24 times. -/
def chooseSteps (d : List Nat) (budget : Int) : Nat → List Nat → List Nat
  | 0, st => st
  | n + 1, st =>
    if (((List.range 8).map (fun c => stepPower (d.getD c 0) (st.getD c 0))).sum : Int) ≤ budget then st
    else
      match stepDown d st with
      | none => st
      | some c => chooseSteps d budget n (st.set c (st.getD c 0 + 1))

/-- The steps of the next interval. -/
def State.nextSteps (s : State) (d : List Nat) (uncore : Nat) : List Nat :=
  if !s.inRun then List.replicate 8 3
  else if s.fbit PWR_CTRL_MODE then List.replicate 8 (s.fget PWR_CTRL_FIXED_STEP)
  else chooseSteps d ((s.capEff : Int) - s.fget PWR_MARGIN_MARGIN_MW - uncore) 24 (List.replicate 8 0)

/-! ### Learning (R420) -/

/-- Phase that a core held longest in the interval. -/
def longestPhase (l : List (Nat × Nat)) : Nat :=
  (l.foldl (fun (b : Nat × Nat) x => if b.2 < x.2 then x else b) (0, 0)).1

/-- ARR cycles of a core in the interval that ends (R411). -/
def State.intervalCycles (s : State) (c : Nat) : Nat :=
  s.arrAt c (s.pwr.start + usTicks 100) - (s.pwr.cores.getD c PwrCore.empty).start

/-- Whether a core's engines were busy for half of its ARR cycles: sure from the busiest engine or from the sum of all, otherwise a free
value, since their overlap is not kept [DEDUCED, log entry 63]. -/
def State.busyHalf (s : State) (c : Nat) : State × Bool :=
  let b := (s.pwr.cores.getD c PwrCore.empty).busy
  let t := s.intervalCycles c
  if t ≤ 2 * b.foldl max 0 then (s, true)
  else if 2 * b.sum < t then (s, false)
  else
    let r := s.free 1
    (r.2, r.1 == 1)

/-- One core's update of the phase table [DEDUCED, log entry 63]. -/
def State.learn (s : State) (c est : Nat) : State :=
  let whole := (s.occupant c).elim false (fun k => decide (k.placedAt ≤ s.pwr.start))
  if !s.fbit PWR_CTRL_LEARN_EN || !whole then s
  else
    let r := s.busyHalf c
    let p := longestPhase (s.pwr.cores.getD c PwrCore.empty).held
    if !r.2 || s.pwr.written.contains p then r.1
    else
      let s := r.1
      let e := s.fget PWR_PHASE_p_E_MW p
      let x4 := est * stepDiv (s.coreStep c)
      let v : Int := if s.fbit PWR_PHASE_p_VALID p then (e : Int) + divRound ((x4 : Int) - 4 * e) (4 * 2 ^ s.fget PWR_CTRL_LEARN_SHIFT)
        else divRound x4 4
      let x := s.fits 16 v
      ((x.2.fset PWR_PHASE_p_E_MW x.1 p).fset PWR_PHASE_p_VALID 1 p).fadd PWR_PHASE_p_UPDATES 1 p

/-! ### The end of an interval (R411, R412) -/

/-- Measurement of the interval: the mean of its samples, rounded to milliwatts (R8) [DEDUCED, log entry 62]. -/
def State.intervalMw (s : State) : Nat := (divRound s.pwr.sum (1000 * max s.pwr.samples 1)).toNat

/-- Telemetry at the end of an interval: measurement, energy, uncore power, core estimates. -/
def State.recordInterval (s : State) (est : List Nat) (mw uncore : Nat) : State :=
  let e := s.pwr.rest + mw
  let x := s.fits 18 mw
  let s := (x.2.fset PWR_MEAS_MEAS_MW x.1).fset PWR_MEAS_UNCORE_MW uncore
  let s := ((s.fadd PWR_ENERGY_UJ_ENERGY_UJ (e / 10)).fadd PWR_INTERVALS_COUNT 1).modPwr (fun p => { p with rest := e % 10 })
  (List.range 8).foldl (fun s c => s.fset PWR_CORE_c_EST_MW (est.getD c 0) c) s

/-- CAP_BOUND (R415): a core is below step 0 in boost mode [DEDUCED, log entry 62]. -/
def State.capBound (s : State) : Bool := !s.fbit PWR_CTRL_MODE && (List.range 8).any (fun c => s.coreStep c != 0)

/-- FIXED_AT_RISK (R418): the thermal cap holds CAP_EFF below the guarantee of the step held in fixed mode. -/
def State.fixedAtRisk (s : State) : Bool := s.fbit PWR_CTRL_MODE && decide (s.thermalCap < s.fixedMw (s.fget PWR_CTRL_FIXED_STEP))

/-- The limits of R415, R418 and R419 at the end of an interval, with the steps decided [DEDUCED, log entry 62]. -/
def State.checkLimits (s : State) (mw : Nat) (steps : List Nat) : State :=
  let fixed := s.fbit PWR_CTRL_MODE
  let cap := s.capEff
  let unmet := !fixed && steps.all (· == 3) && cap < mw
  let s := s.fflag PWR_STATUS_UNMET unmet
  let s := if unmet then s.fset PWR_STATUS_UNMET_SEEN 1 else s
  let n := if fixed && cap < mw then s.pwr.overCap + 1 else 0
  let s := s.modPwr (fun p => { p with overCap := n })
  let s := if n = 10 then (s.fset PWR_STATUS_OVER_CAP_SEEN 1).report 0x031 clsC else s
  if 180_000 < mw then (s.fset PWR_STATUS_ABS_LIMIT_SEEN 1).report 0x031 clsF else s

/-- What the CPB does at the end of an interval [DEDUCED, log entry 62]. -/
def State.endInterval (s : State) (est : List Nat) : State :=
  let mw := s.intervalMw
  let u := s.fits 18 ((mw : Int) - est.sum)
  let uncore := u.1
  let s := u.2.recordInterval est mw uncore
  let s := (List.range 8).foldl State.notePhase s
  let s := (List.range 8).foldl (fun s c => s.learn c (est.getD c 0)) s
  let d := (List.range 8).map s.demand
  let steps := s.nextSteps d uncore
  let s := (List.range 8).foldl (fun s c => (s.fset PWR_CORE_c_DEMAND_MW (d.getD c 0) c).requestStep c (steps.getD c 0)) s
  let s := (s.checkLimits mw steps).fset PWR_MEAS_CAP_EFF_MW s.capEff
  s.modPwr (fun p => { p with
    samples := 0, sum := 0, start := p.start + usTicks 100, written := []
    cores := p.cores.mapIdx (fun c k => { k with start := s.arrAt c (p.start + usTicks 100), held := [], busy := List.replicate 16 0 }) })

/-- CONTROL_INTERVAL_END (R411): on the tenth ration boundary since the interval began, once that boundary has passed. -/
def execControlIntervalEnd (est : List Nat) (s : State) : Result :=
  due (s.up && decide (s.pwr.start + usTicks 100 ≤ s.clk.periodStart)) s (s.endInterval (est.map (· % 65536)))

/-! ### Activity levels (R422 to R425) -/

/-- Level that the work at hand of an array asks for; 0 where its core does not work. -/
def State.levelTarget (s : State) (c a : Nat) : Nat :=
  if !s.coreWorks c then 0
  else
    max ((s.groupOf c).elim 0 (fun g => s.groupNeed c a (s.memberFlights g)))
      ((s.jobFor c (enMXA0 + a)).elim 0 (fun j => s.arrayNeed j))

/-- Sets an array's level. -/
def State.setLevel (s : State) (c a l : Nat) : State :=
  let s := s.fset PWR_RAMP_LEVEL_LEVEL (putBits (s.fget PWR_RAMP_LEVEL_LEVEL) (3 * (2 * c + a)) 3 l)
  s.modCore c (fun k => { k with levelTick := k.levelTick.set a (s.arrNow c) })

/-- One step of an array's level towards its target. A rise delays what waits for it by 0 to 64 ARR cycles, a free value [DEDUCED, log entry 62]. -/
def State.levelStep (s : State) (c a : Nat) : State :=
  let l := s.level c a
  if l < s.levelTarget c a then
    let r := s.free 7
    (r.2.setLevel c a (l + 1)).fadd PWR_RAMP_c_WAIT_ARRC (r.1 % 65) c
  else s.setLevel c a (l - 1)

/-- ACTIVITY_LEVEL_CHANGE (R422): no sooner than 64 ARR cycles after the last change [DEDUCED, log entry 47]. -/
def execActivityLevelChange (n : Nat) (s : State) : Result :=
  let c := n / 2
  let a := n % 2
  unit (n < 16) (due (s.up && s.arrayPresent c a && s.level c a != s.levelTarget c a &&
    decide ((s.coreAt c).levelTick.getD a 0 + 64 ≤ s.arrNow c)) s (s.levelStep c a))

/-! ### Temperatures (R426 to R428) -/

/-- Sensors of a die: compute die 0, compute die 1, hub. -/
def dieSensors (d : Nat) : List Nat := if d = 0 then List.range 6 else if d = 1 then (List.range 6).map (· + 6) else (List.range 4).map (· + 12)

/-- Whether every sensor of a die is BAD. -/
def State.dieBlind (s : State) (d : Nat) : Bool := (dieSensors d).all (fun i => s.fbit PWR_TEMP_s_BAD i)

/-- A sensor's reading [DEDUCED, log entry 64]. -/
def State.readSensor (s : State) (i : Nat) (r : Option Int) : State :=
  let ok := r.elim false (fun v => decide (-40_000 ≤ v ∧ v ≤ 150_000))
  let s := r.elim s (fun v => s.fset PWR_TEMP_s_TEMP_MC (wrapInt 20 v) i)
  if ok ∨ s.fbit PWR_TEMP_s_BAD i then s
  else
    let d := if i < 6 then 0 else if i < 12 then 1 else 2
    let s := ((s.fset PWR_TEMP_s_BAD 1 i).fset PWR_STATUS_SENSOR_BAD_SEEN 1).report 0x032 clsC
    if s.dieBlind d then s.report 0x032 clsF else s

/-- Temperature and number of the hottest sensor not BAD. -/
def State.hottest (s : State) : Option (Int × Nat) :=
  (List.range 16).foldl (fun b i =>
    if s.fbit PWR_TEMP_s_BAD i then b
    else
      let v := sext 20 (s.fget PWR_TEMP_s_TEMP_MC i)
      match b with
      | none => some (v, i)
      | some x => if x.1 < v then some (v, i) else some x) none

/-- Whether curve point `i` counts as reached at a temperature. -/
def State.pointReached (s : State) (t : Int) (i : Nat) : Bool :=
  let p : Int := s.fget PWR_THERM_CURVEi_T_MC i
  decide (p ≤ t) || (s.pwr.reached.getD i false && decide (p - 2000 ≤ t))

/-- THERM_WARN (R428). -/
def State.warn (s : State) (t : Int) : State :=
  let w : Int := s.fget PWR_THERM_CTRL_WARN_MC
  if w ≤ t then
    if s.fbit PWR_STATUS_THERM_WARN then s
    else
      let s := ((s.fset PWR_STATUS_THERM_WARN 1).fset PWR_STATUS_THERM_WARN_SEEN 1).irq SYS_IRQ_PENDING_POWER
      { s with cmb := { s.cmb with alert := putBits s.cmb.alert 3 1 1 } }
  else if t < w - 5000 then s.fset PWR_STATUS_THERM_WARN 0
  else s

/-- What a T_MAX does [DEDUCED, log entry 64]. -/
def State.applyTemp (s : State) (t : Int) (sensor : Nat) : State :=
  let before := sext 20 (s.fget PWR_TEMP_MAX_MAX_MC)
  let s := (s.fset PWR_TEMP_MAX_MAX_MC (wrapInt 20 t)).fset PWR_TEMP_MAX_SENSOR sensor
  let s := if sext 20 (s.fget PWR_TEMP_PEAK_PEAK_MC) < t then s.fset PWR_TEMP_PEAK_PEAK_MC (wrapInt 20 t) else s
  let s := s.modPwr (fun p => { p with reached := (List.range 8).map (s.pointReached t) })
  let s := s.warn t
  let n := if (s.fget PWR_THERM_CTRL_CRIT_MC : Int) ≤ t then s.pwr.crit + 1 else 0
  let s := s.modPwr (fun p => { p with crit := n })
  if n = 10 ∨ (125_000 ≤ t ∧ before < 125_000) then s.report 0x033 clsF else s

/-- THERMAL_SAMPLE (R426): every 10 µs. -/
def execThermalSample (readings : List (Option Int)) (s : State) : Result :=
  let t := (List.range 16).foldl (fun s i => s.readSensor i (readings.getD i none)) s
  let t := t.modPwr (fun p => { p with thermal := s.refTick })
  due (s.up && s.elapsed s.pwr.thermal (usTicks 10)) s (match t.hottest with
    | none => t
    | some x => t.applyTemp x.1 x.2)

/-- Whether the condition behind a LEVEL source's class persists (R431). -/
def State.levelPersists (s : State) (source cls : Nat) : Bool :=
  if source = 0x030 then !s.fbit CLK_STATUS_PLL_LOCK || !s.fbit CLK_STATUS_REF_PRESENT
  else if source = 0x031 then if cls = clsC then 10 ≤ s.pwr.overCap else decide (180_000 < s.fget PWR_MEAS_MEAS_MW)
  else if source = 0x032 then
    if cls = clsC then (List.range 16).any (fun i => s.fbit PWR_TEMP_s_BAD i) else s.dieBlind 0 || s.dieBlind 1 || s.dieBlind 2
  else if source = 0x033 then 10 ≤ s.pwr.crit || (s.hottest).elim false (fun x => decide (125_000 ≤ x.1))
  else false

/-! ### Register accesses (R414, R417, R421, R428, R429) -/

/-- A write of PWR_CTRL (R417). -/
def pwrCtrlEffect (v : Nat) (s : State) : State × Nat :=
  let step := bits v 1 2
  let sets := bitAt v 0 && (!s.fbit PWR_CTRL_MODE || step != s.fget PWR_CTRL_FIXED_STEP)
  if sets && s.fget PWR_CAP_CAP_MW < s.fixedMw step then (s, stBusError) else (s.plainWrite (regAddr PWR_CTRL) v, stOK)

/-- POWER_MODE_WRITE (R417). -/
def execPowerModeWrite (src v : Nat) (s : State) : Result :=
  regCmd true s src (regAddr PWR_CTRL) 4 (wrap 32 v) (pwrCtrlEffect (wrap 32 v))

/-- A write of PWR_CAP (R414, R417). -/
def pwrCapEffect (v : Nat) (s : State) : State × Nat :=
  let w := bits v 0 18
  if s.fbit PWR_CTRL_MODE && w < s.fixedMw (s.fget PWR_CTRL_FIXED_STEP) then (s, stBusError)
  else (s.fset PWR_CAP_CAP_MW (max 40_000 (min 180_000 w)), stOK)

/-- POWER_CAP_WRITE (R414). -/
def execPowerCapWrite (src v : Nat) (s : State) : Result :=
  regCmd true s src (regAddr PWR_CAP) 4 (wrap 32 v) (pwrCapEffect (wrap 32 v))

/-- A write of PWR_PHASE_p (R421). -/
def phaseEffect (p v : Nat) (s : State) : State × Nat :=
  ((s.plainWrite (regAddr PWR_PHASE_p p) v).modPwr (fun x => { x with written := p :: x.written }), stOK)

/-- PHASE_WRITE (R421). -/
def execPhaseWrite (src p v : Nat) (s : State) : Result :=
  regCmd (p < 256) s src (regAddr PWR_PHASE_p p) 8 (wrap 64 v) (phaseEffect p (wrap 64 v))

/-- A write of PWR_THERM_CTRL (R428). -/
def thermCtrlEffect (v : Nat) (s : State) : State × Nat :=
  (s.plainWrite (regAddr PWR_THERM_CTRL) (putBits v 18 18 (max 60_000 (min 120_000 (bits v 18 18)))), stOK)

/-- A read of PWR_TEMP_PEAK (R429) [DEDUCED, log entry 64]. -/
def tempPeakRead (s : State) : State × Nat := (s.fset PWR_TEMP_PEAK_PEAK_MC 0, s.fget PWR_TEMP_PEAK_PEAK_MC)

/-- TEMP_PEAK_READ (R429). -/
def execTempPeakRead (src : Nat) (s : State) : Result := readCmd true s src (regAddr PWR_TEMP_PEAK) tempPeakRead

end Sys2Proof.Machine
end

