-- ==== Sys2Proof/Machine/Admission.lean ====
section
/-! DEFINITION. The admission engine of the CSB (R461 to R466). -/

namespace Sys2Proof.Machine

/-- Changes the admission engine's state. -/
def State.modAdm (s : State) (g : Adm → Adm) : State := { s with adm := g s.adm }

/-- CONTEXTS_OPEN and ADMITTED follow the contexts and records. -/
def State.admCounts (s : State) : State :=
  (s.fset SEC_ADMIT_STATUS_CONTEXTS_OPEN (s.adm.ctxs.filter Option.isSome).length).fset SEC_ADMIT_STATUS_ADMITTED s.adm.records.length

/-- The admission context `k`. -/
def State.admCtx (s : State) (k : Nat) : Option AdmCtx := s.adm.ctxs.getD k none

/-- Replaces a context. -/
def State.setCtx (s : State) (k : Nat) (c : Option AdmCtx) : State :=
  (s.modAdm (fun a => { a with ctxs := a.ctxs.set k c })).admCounts

/-- Closes a context; a timeout, the fold and ABORT are remembered for reason 11. -/
def State.closeCtx (s : State) (k : Nat) (remember : Bool) : State :=
  let s := match s.admCtx k with
    | some c => if remember then s.modAdm (fun a => { a with closed := a.closed.set k (some c.id) }) else s
    | none => s
  s.setCtx k none

/-- What the fold does to the contexts (R464). -/
def State.foldAdm (s : State) : State := (List.range 4).foldl (fun s k => s.closeCtx k true) s

/-! ### The request in hand (R461, R462) -/

/-- Address of the request's slot, and its HMP payload's fields. -/
def State.rqByte (s : State) (a o n : Nat) : Nat := s.readLE (a + 48 + o) n
def State.rqOp (s : State) (a : Nat) : Nat := s.rqByte a 0 1
def State.rqId (s : State) (a : Nat) : Nat := s.rqByte a 4 4
def State.rqOffset (s : State) (a : Nat) : Nat := s.rqByte a 8 4
def State.rqLen (s : State) (a : Nat) : Nat := s.readLE (a + 44) 2

/-- The data of a request. -/
def State.rqData (s : State) (a : Nat) : List Byte := s.readBytes (a + 64) (s.rqLen a - 16)

/-- Most data bytes of a request: by the port of the request in that slot of the firmware ring [DEDUCED, log entry 67]. -/
def State.rqMax (s : State) (a : Nat) : Nat :=
  match s.hmp.fw.find? (fun j => s.fwSlot j.slot == a) with
  | some j => if s.jumbo j.req.partner.port then 8192 else 1024
  | none => 8192

/-- Whether a request breaks R462's format [DEDUCED, log entry 67]. -/
def State.rqBad (s : State) (a : Nat) : Bool :=
  let op := s.rqOp a
  let n := s.rqLen a
  op == 0 || 6 < op || n < 16 || s.rqMax a + 16 < n || s.rqByte a 1 3 != 0 || s.rqByte a 12 4 != 0 ||
  ((op == 1 || 4 ≤ op) && n != 16)

/-- What a request is answered with. -/
structure AdmAnswer where
  reason : Nat
  id : Nat
  next : Nat
  done : Nat

/-- The request has been answered (R461). -/
def State.admEnd (s : State) (reason : Nat) : State :=
  let s := (s.fset SEC_ADMIT_STATUS_BUSY 0).fset SEC_ADMIT_STATUS_DONE_SEEN 1
  (s.fset SEC_ADMIT_STATUS_LAST_REASON reason).irq SYS_IRQ_PENDING_ADMIT

/-- Writes the response, behind the engine's writes on hold, and ends the request once it is written (R461, R462, R464). -/
def State.admRespond (s : State) (a : Nat) (x : AdmAnswer) : State :=
  let op := s.rqOp a
  let hdr := hmpHeader 0x40 1 (if x.reason = 0 then stOK else stLimitReject) (s.readLE (a + 36) 4) (s.readLE (a + 40) 4) 16 0
  let body := leBytes 1 op ++ leBytes 1 x.reason ++ leBytes 2 0 ++ leBytes 4 x.id ++ leBytes 4 x.next ++ leBytes 4 x.done
  let s := (s.modAdm (fun m => { m with req := none })).admCounts
  s.chargeFor 15 (txCount (a + 8320) 32) (.answer (a + 8320) (hdr ++ body) x.reason) (fun s =>
    (s.hubWrite (a + 8320) (hdr ++ body)).admEnd x.reason)

/-- An answer that names no context: NEXT_OFFSET and BLOCKS_DONE are free values [DEDUCED, log entry 67]. -/
def State.admRefuse (s : State) (a reason : Nat) : State :=
  let p := s.free 32
  let q := p.2.free 32
  q.2.admRespond a ⟨reason, s.rqId a, p.1, q.1⟩

/-- An answer about a context. -/
def State.admAnswer (s : State) (a reason : Nat) (c : AdmCtx) : State := s.admRespond a ⟨reason, c.id, c.next, c.done⟩

/-- The open context that an ADMISSION names. -/
def State.ctxOf (s : State) (id : Nat) : Option (Nat × AdmCtx) :=
  (List.range 4).findSome? (fun k =>
    match s.admCtx k with
    | some c => if c.id = id then some (k, c) else none
    | none => none)

/-- The reason for an ADMISSION without an open context [DEDUCED, log entry 67]. -/
def State.noCtxReason (s : State) (id : Nat) : Nat := if s.adm.closed.contains (some id) then 11 else 2

/-- A refusal that closes the context. -/
def State.admClose (s : State) (a k reason : Nat) (c : AdmCtx) : State := (s.closeCtx k false).admAnswer a reason c

/-- A request that breaks the format is refused with reason 1: a MANIFEST, DATA or FINISH then closes the context that it names (R462). -/
def State.admBad (s : State) (a : Nat) : State :=
  match s.ctxOf (s.rqId a) with
  | some (k, c) =>
    if 2 ≤ s.rqOp a ∧ s.rqOp a ≤ 4 then s.admClose a k 1 c
    else s.admRefuse a 1
  | none => s.admRefuse a 1

/-- A request of one OP in hand: its effect, or a refusal where it breaks the format. -/
def admCmd (op : Nat) (s : State) (body : Nat → State → State) : Result :=
  match s.adm.req with
  | none => .next s
  | some a =>
    let mine := s.rqOp a == op || (op == 1 && (s.rqOp a == 0 || 6 < s.rqOp a))
    due (s.up && mine) s (
      let s := s.hubRead (a + 32) (16 + s.rqLen a)
      if s.rqBad a then s.admBad a else body a s)

/-- A request of one OP about an open context. -/
def admCtxCmd (op : Nat) (s : State) (body : Nat → Nat → AdmCtx → State → State) : Result :=
  admCmd op s (fun a s =>
    match s.ctxOf (s.rqId a) with
    | none => s.admRefuse a (s.noCtxReason (s.rqId a))
    | some (k, c) =>
      let c := { c with last := s.refTick }
      body a k c (s.setCtx k (some c)))

/-! ### BEGIN, MANIFEST (R462, R463) -/

/-- The manifest area of a context. -/
def State.ctxArea (s : State) (k : Nat) : Nat := 2 ^ 23 * s.fget SEC_ADMIT_BASE_BASE + 2 ^ 21 * k

/-- BEGIN (R462). A bad OP is answered here [DEDUCED, log entry 67]. -/
def execBegin (s : State) : Result :=
  admCmd 1 s (fun a s =>
    let n := s.rqOffset a
    match (List.range 4).find? (fun k => (s.admCtx k).isNone) with
    | none => s.admRefuse a 2
    | some k =>
      if 2 ^ 21 < n then s.admRefuse a 1
      else
        let r := s.free 30
        let c : AdmCtx := ⟨4 * r.1 + k, n, 0, none, [], 0, [], [], s.refTick⟩
        (r.2.setCtx k (some c)).admAnswer a 0 c)

/-- DRAM ranges of the segments of a manifest (R463). -/
def mfRanges (m : List Byte) : List (Nat × Nat) := ((mfTable m).filter (fun g => g.kind == sgDram)).map (fun g => (g.dest, g.len))

/-- Ranges of the verified manifests of contexts other than `k`, with their MODEL_IDs. -/
def State.otherManifests (s : State) (k : Nat) : List (List Byte) :=
  (List.range 4).filterMap (fun j => if j = k then none else (s.admCtx j).bind (·.manifest))

/-- The ranges that R463 protects, beside those of models [DEDUCED, log entry 67]. -/
def State.protectedRanges (s : State) : List (Nat × Nat) :=
  [(2 ^ 23 * s.fget SEC_ADMIT_BASE_BASE, 2 ^ 23), (4096 * s.fget QM_MODEL_BASE_BASE, 4096 * 128),
    (4096 * s.fget QM_MBX_BASE_BASE, 0x2_3000 * mailboxCount), (4096 * s.fget HMP_FW_BASE_BASE, 9728 * 64)] ++
  (if s.fbit QM_COMMIT_BASE_ENABLE then [(64 * s.fget QM_COMMIT_BASE_BASE, 64 * 2 ^ s.fget QM_COMMIT_BASE_SIZE_LOG2)] else [])

/-- Why a verified manifest of context `k` is refused under R463, 0 if it is not. -/
def State.admitConflict (s : State) (k : Nat) (m : List Byte) : Nat :=
  let others := s.otherManifests k
  let held := s.adm.records.flatMap (·.ranges) ++ others.flatMap mfRanges
  let mine := mfRanges m
  let ids := s.adm.records.map (·.model) ++ others.map mfModel
  if mine.any (fun x => (held ++ s.protectedRanges).any (fun y => overlap x.1 x.2 y.1 y.2)) then 8
  else if ids.any (fun i => i % 4096 == mfModel m % 4096) then 9
  else if 16384 < held.length + mine.length then 13
  else 0

/-- The manifest in the area of context `k`, writes on hold done. -/
def State.areaManifest (s : State) (k : Nat) (c : AdmCtx) : List Byte := (s.withHeld 15).readBytes (s.ctxArea k) c.manifestB

/-- The reason for which the manifest in context `k` is refused, 0 for none. -/
def State.admitVerify (s : State) (k : Nat) (c : AdmCtx) : Nat :=
  let m := s.areaManifest k c
  match s.manifestFails m 2 c.manifestB with
  | some (r, _) => r
  | none => s.admitConflict k m

/-- The chunk of a MANIFEST or DATA request: nothing where it lies ahead of `next`, else its bytes from `next` onward. -/
def chunkFrom (off next : Nat) (d : List Byte) : Option (List Byte) := if next < off then none else some (d.drop (next - off))

/-- MANIFEST (R462, R463) [DEDUCED, log entry 67]. -/
def execManifest (s : State) : Result :=
  admCtxCmd 2 s (fun a k c s =>
    let next := if c.manifest.isSome then c.manifestB else c.next
    match chunkFrom (s.rqOffset a) next (s.rqData a) with
    | none => s.admAnswer a 12 c
    | some d =>
      if d = [] ∧ (next ≠ c.manifestB ∨ c.manifest.isSome) then s.admAnswer a 0 c
      else if c.manifestB < next + d.length then s.admClose a k 1 c
      else
        let at_ := s.ctxArea k + next
        let s := s.chargedWrite 15 at_ d
        let c := { c with next := next + d.length }
        if c.next < c.manifestB then (s.setCtx k (some c)).admAnswer a 0 c
        else
          let r := s.admitVerify k c
          if r ≠ 0 then s.admClose a k r c
          else
            let c' := { c with manifest := some (s.areaManifest k c), next := 0 }
            (s.setCtx k (some c')).admAnswer a 0 c)

/-! ### DATA (R464) -/

/-- Writes a checked block to its DRAM destinations, and keeps its bytes of ENTRY and PHASES. -/
def State.admBlock (s : State) (m : List Byte) (c : AdmCtx) (b : Nat) (block : List Byte) : State × AdmCtx :=
  (mfTable m).foldl (fun (r : State × AdmCtx) g =>
    match g.piece b block with
    | none => r
    | some (o, bs) =>
      if g.kind = sgDram then (r.1.chargedWrite 15 (g.dest + o) bs, r.2)
      else if g.kind = sgEntry then (r.1, { r.2 with entry := r.2.entry ++ bs })
      else (r.1, { r.2 with phases := r.2.phases ++ bs })) (s, c)

/-- Takes data bytes into the block buffer; a complete block is checked, and written where its digest matches. Answers whether every
digest matched. At most three blocks can be touched by one request. -/
def State.admTake (m : List Byte) : Nat → State → AdmCtx → List Byte → State × AdmCtx × Bool
  | 0, s, c, _ => (s, c, true)
  | fuel + 1, s, c, d =>
    let n := blockLen (mfPayloadB m) c.done
    let block := c.block ++ d.take (n - c.block.length)
    let rest := d.drop (n - c.block.length)
    let c := { c with next := c.next + (block.length - c.block.length) }
    if block.length < n ∨ n = 0 then (s, { c with block := block }, true)
    else if sha512 block ≠ mfDigest m c.done then (s, c, false)
    else
      let r := s.admBlock m c c.done block
      State.admTake m fuel r.1 { r.2 with block := [], done := c.done + 1 } rest

/-- DATA (R462, R464) [DEDUCED, log entry 67]. -/
def execData (s : State) : Result :=
  admCtxCmd 3 s (fun a k c s =>
    match c.manifest with
    | none => s.admClose a k 12 c
    | some m =>
      match chunkFrom (s.rqOffset a) c.next (s.rqData a) with
      | none => s.admAnswer a 12 c
      | some d =>
        if mfPayloadB m < c.next + d.length then s.admClose a k 1 c
        else
          let r := s.admTake m 3 c d
          if r.2.2 then (r.1.setCtx k (some r.2.1)).admAnswer a 0 r.2.1 else r.1.admClose a k 7 r.2.1)

/-! ### FINISH, ABORT, REMOVE (R465, R466) -/

/-- Source code of the CSB's admission engine (R475). -/
def srcCsb : Nat := 5

/-- Whether what the payload held of ENTRY and PHASES keeps R454 [DEDUCED, log entry 67]. -/
def admBodyOk (m : List Byte) (c : AdmCtx) : Bool :=
  leVal (c.entry.take 4) == mfModel m && leVal (slice c.entry 104 4) == 0 &&
  (List.range (c.phases.length / 4)).all (fun i => leVal (slice c.phases (4 * i + 1) 1) == 0)

/-- Step 1 of R465. -/
def State.admPhases (s : State) (c : AdmCtx) : State :=
  (List.range (c.phases.length / 4)).foldl (fun s i =>
    let p := leVal (slice c.phases (4 * i) 1)
    let v := leVal (slice c.phases (4 * i + 2) 2) + 2 ^ 16
    let kept := s.lastAccess
    { State.writeEnd (phaseEffect p v s) srcCsb 0xFF (regAddr PWR_PHASE_p p) 8 v with lastAccess := kept }) s

/-- Steps 2 and 3 of R465. -/
def State.admFinish (s : State) (m : List Byte) (c : AdmCtx) : State :=
  let s := s.admPhases c
  let x := mfModel m
  let at_ := s.entryAddr x
  let flags := (c.entry.getD 4 0)
  let s := s.chargedWrite 15 at_ (c.entry.set 4 (flags &&& 0xFE))
  let s := s.chargedWrite 15 (at_ + 4) [flags ||| 1]
  let rec_ : AdmRecord := ⟨x, mfSequence m, mfMeasurement m, mfRanges m⟩
  s.modAdm (fun a => { a with records := a.records.takeWhile (fun y => y.model < x) ++ rec_ :: a.records.dropWhile (fun y => y.model < x) })

/-- FINISH (R462, R465). -/
def execFinish (s : State) : Result :=
  admCtxCmd 4 s (fun a k c s =>
    match c.manifest with
    | none => s.admClose a k 12 c
    | some m =>
      if c.done ≠ mfBlocks m then s.admClose a k 12 c
      else if !admBodyOk m c then s.admClose a k 3 c
      else ((s.admFinish m c).closeCtx k false).admAnswer a 0 c)

/-- ABORT (R462). -/
def execAbort (s : State) : Result := admCtxCmd 5 s (fun a k c s => (s.closeCtx k true).admAnswer a 0 c)

/-- Whether a caravan of a model occupies a core (R466). -/
def State.modelRuns (s : State) (x : Nat) : Bool := s.drover.caravans.any (fun k => k.model == x && k.core.isSome)

/-- REMOVE (R466). -/
def execRemove (s : State) : Result :=
  admCmd 6 s (fun a s =>
    let x := s.rqId a
    if !s.adm.records.any (fun y => y.model == x) || s.modelRuns x then s.admRefuse a 10
    else
      let at_ := s.entryAddr x + 4
      let s := s.chargedWrite 15 at_ [s.readByte at_ &&& 0xFE]
      let s := (whichBelow 8 (fun c => (s.coreAt c).resident.elim false (fun r => r.model == x))).foldl (fun s c => s.setResident c none) s
      let s := s.modAdm (fun m => { m with records := m.records.filter (fun y => y.model != x) })
      s.admRefuse a 0)

/-- ADMIT_TIMEOUT (R464): a context without a request for TIMEOUT_MS closes. -/
def execAdmitTimeout (k : Nat) (s : State) : Result :=
  unit (k < 4) (match s.admCtx k with
    | none => .next s
    | some c => due (s.up && s.elapsed c.last (msTicks (s.fget SEC_ADMIT_TIMEOUT_TIMEOUT_MS))) s (s.closeCtx k true))

/-! ### Register writes (R461) -/

/-- A write of SEC_ADMIT_REQ. -/
def admitReqEffect (v : Nat) (s : State) : State × Nat :=
  if s.fbit SEC_ADMIT_STATUS_BUSY then (s, stBusError)
  else ((s.fset SEC_ADMIT_STATUS_BUSY 1).modAdm (fun a => { a with req := some (256 * bits v 8 27) }), stOK)

end Sys2Proof.Machine
end

