-- ==== Sys2Proof/Machine/ConfigCrc.lean ====
section
/-! DEFINITION. The configuration image and its CRC engine (R486 to R489), and the soft interrupt (R491). -/

namespace Sys2Proof.Machine

/-! ### The configuration image (R486) -/

/-- The copies of a table row, in the order of their indices. -/
def Tmpl.copies (t : Tmpl) : List RegAt :=
  (List.range t.n1).flatMap (fun i => (List.range t.n2).flatMap (fun j => (List.range t.n3).flatMap (fun k =>
    (List.range t.n4).map (fun l => (⟨t, i, j, k, l⟩ : RegAt)))))

/-- Address of a copy. -/
def RegAt.addr (r : RegAt) : Nat := r.t.reg.addr r.i r.j r.k r.l

/-- Whether a register copy is implemented on this part: not one of a fused-off array (R99), nor of an unlisted fault source (R449). -/
def State.implemented (s : State) (r : RegAt) : Bool :=
  if r.t.reg.base = FCU_REACT_id.base ∨ r.t.reg.base = FCU_SRC_id.base then (srcInfo r.i).isSome
  else if MXAn_STATUS.base ≤ r.t.reg.base ∧ r.t.reg.base < MVP_STATUS.base then s.arrayPresent r.i r.j
  else true

/-- The covered bits of every covered register of this part, by address. -/
def State.coveredList (s : State) : List (Nat × Nat) :=
  (regTable.filter (fun t => t.cover != 0)).foldl (fun l t =>
    (t.copies.filter s.implemented).foldl (fun l r =>
      AMap.set l r.addr (((AMap.get? s.regs r.addr).getD r.rst).toNat &&& t.cover)) l) []

/-- The configuration image (R486) [DEDUCED, log entry 75]. -/
def State.configImage (s : State) : List Byte := s.coveredList.flatMap (fun e => leBytes 8 e.2)

/-! ### Passes (R488, R489) -/

/-- A write of CFG_CRC_COMMIT: the running pass is discarded, and the next clean one sets the reference (R488, R489). -/
def crcCommitEffect (v : Nat) (s : State) : State × Nat :=
  if bitAt v 0 then ({ s.fset CFG_CRC_STATUS_COMMIT_PENDING 1 with crc := { s.crc with clean := false } }, stOK) else (s, stOK)

/-- CRC_COMMIT (R489). -/
def execCrcCommit (src : Nat) (s : State) : Result := regCmd true s src (regAddr CFG_CRC_COMMIT) 4 1 (crcCommitEffect 1)

/-- A clean pass's result against the reference (R488). -/
def State.crcCompare (s : State) (c : Nat) : State :=
  if !s.fbit CFG_CRC_STATUS_REF_VALID || !s.fbit CFG_CRC_CTRL_CHECK_EN then s
  else if c = s.fget CFG_CRC_REF_CRC then s.fset CFG_CRC_STATUS_MISMATCH 0
  else if s.fbit CFG_CRC_STATUS_MISMATCH then s
  else ((s.fset CFG_CRC_STATUS_MISMATCH 1).fset CFG_CRC_STATUS_MISMATCH_SEEN 1).report 0x042 clsU

/-- A clean pass ends with result `c`. -/
def State.crcClean (s : State) (c : Nat) : State :=
  let s := (s.fset CFG_CRC_LAST_CRC c).fadd CFG_CRC_PASSES_CLEAN 1
  let s := s.fset CFG_CRC_PASS_US_PASS_US ((s.refTick - s.crc.start) / 125)
  if s.crc.commit then
    ((s.fset CFG_CRC_REF_CRC c).fset CFG_CRC_STATUS_REF_VALID 1).fset CFG_CRC_STATUS_COMMIT_PENDING 0 |>.fset CFG_CRC_STATUS_MISMATCH 0
  else s.crcCompare c

/-- CRC_PASS_END (R488, R489): a pass ends, discarded or clean, and the next begins. -/
def execCrcPassEnd (s : State) : Result :=
  let t := if s.crc.clean then s.crcClean (crc32c s.configImage) else s.fadd CFG_CRC_PASSES_DISCARDED 1
  due s.works s { t with crc := ⟨true, s.refTick, t.fbit CFG_CRC_STATUS_COMMIT_PENDING⟩ }

/-! ### SYS_IRQ_SET (R491) -/

/-- A write of SYS_IRQ_SET. -/
def irqSetEffect (v : Nat) (s : State) : State × Nat := (if bitAt v 0 then s.irq SYS_IRQ_PENDING_SOFT else s, stOK)

/-- IRQ_SET (R491). -/
def execIrqSet (src : Nat) (s : State) : Result := regCmd true s src (regAddr SYS_IRQ_SET) 4 1 (irqSetEffect 1)

end Sys2Proof.Machine
end

