-- ==== Sys2Proof/Machine/Pixel.lean ====
section
/-! DEFINITION. The arithmetic of the image pipelines: the stages of R324 to R326 and R328 on whole images, and the layouts they are
written in. -/

namespace Sys2Proof.Machine

/-- An image plane, row by row. -/
abbrev Plane := List (List Nat)

/-- A sample of a plane. -/
def px (p : Plane) (y x : Nat) : Nat := (p.getD y []).getD x 0

/-- A plane from its size and samples. -/
def mkPlane (h w : Nat) (f : Nat → Nat → Nat) : Plane := (List.range h).map (fun y => (List.range w).map (f y))

/-- The clamp of R324. -/
def clamp16 (x : Int) : Nat := (clampInt 0 65535 x).toNat

/-! ### Parameter payloads (R334) -/

/-- A little-endian field of a payload. -/
def pbytes (d : List Byte) (o n : Nat) : Nat := leVal (slice d o n)
def psigned (d : List Byte) (o n : Nat) : Int := sext (8 * n) (pbytes d o n)

/-- The sets in force as the stages read them, each with its reset set where none has been applied. -/
abbrev Force := List (Option ParamSet)

/-- The payload in force of a group. -/
def Force.data (f : Force) (g : Nat) : Option (List Byte) := (f.getD g none).map (·.data)

def Force.bl (f : Force) (p : Nat) : Nat := (f.data 0).elim 0 (fun d => pbytes d (2 * p) 2)
def Force.gain (f : Force) (p : Nat) : Nat := (f.data 0).elim 4096 (fun d => pbytes d (8 + 2 * p) 2)
def Force.thresh (f : Force) : Nat := (f.data 1).elim 0xFFFF (fun d => pbytes d 0 2)

/-- Whether a pixel is on the static defect list. -/
def Force.listed (f : Force) (y x : Nat) : Bool :=
  (f.data 1).elim false (fun d => (List.range (pbytes d 2 2)).any (fun i => pbytes d (8 + 4 * i) 2 == x && pbytes d (10 + 4 * i) 2 == y))

/-- Grid size and gains of lens shading. -/
def Force.gx (f : Force) : Nat := (f.data 2).elim 2 (fun d => pbytes d 0 1)
def Force.gy (f : Force) : Nat := (f.data 2).elim 2 (fun d => pbytes d 1 1)
def Force.grid (f : Force) (p i j : Nat) : Nat := (f.data 2).elim 4096 (fun d => pbytes d (8 + 2 * ((p * f.gy + j) * f.gx + i)) 2)

def Force.ccm (f : Force) (c k : Nat) : Int := (f.data 3).elim (if c = k then 4096 else 0) (fun d => psigned d (2 * (3 * c + k)) 2)
def Force.ccmOff (f : Force) (c : Nat) : Int := (f.data 3).elim 0 (fun d => psigned d (18 + 2 * c) 2)
def Force.tone (f : Force) (c i : Nat) : Nat := (f.data 4).elim (min (64 * i) 65535) (fun d => pbytes d (2 * (1025 * c + i)) 2)

/-- The OUT group (R334): its reset matrix is BT.709 limited range. -/
def Force.yuv (f : Force) (c k : Nat) : Int :=
  (f.data 6).elim (([748, 2516, 254, -412, -1387, 1799, 1799, -1634, -165] : List Int).getD (3 * c + k) 0) (fun d => psigned d (2 * (3 * c + k)) 2)
def Force.yuvOff (f : Force) (c : Nat) : Int := (f.data 6).elim (([4096, 32768, 32768] : List Int).getD c 0) (fun d => psigned d (18 + 2 * c) 2)
def Force.outGain (f : Force) : Nat := (f.data 6).elim 256 (fun d => pbytes d 24 2)
def Force.outZ (f : Force) : Int := (f.data 6).elim 0 (fun d => psigned d 26 1)
def Force.outExp (f : Force) : Nat := (f.data 6).elim 0 (fun d => pbytes d 27 1 % 32)

/-! ### Bayer stages (R324) -/

/-- Position of a pixel in its colour filter array. -/
def cfaPos (mono : Bool) (y x : Nat) : Nat := if mono then 0 else 2 * (y % 2) + x % 2

/-- Bits of a sample of a data type, 0 for a type outside R319. -/
def rawBits (dt : Nat) : Nat :=
  if dt = 0x2A then 8 else if dt = 0x2B then 10 else if dt = 0x2C then 12 else if dt = 0x2D then 14 else if dt = 0x2E then 16 else 0

/-- Unpack. -/
def unpackLines (n w : Nat) (lines : List (List Byte)) : Plane :=
  lines.map (fun l => (List.range w).map (fun x => Config.csiSample n l x % 2 ^ n * 2 ^ (16 - n)))

/-- Black level and balance [DEDUCED, log entry 51]. -/
def blackLevel (f : Force) (mono : Bool) (h w : Nat) (p : Plane) : Plane :=
  mkPlane h w (fun y x => clamp16 (divRound (((px p y x : Int) - f.bl (cfaPos mono y x)) * f.gain (cfaPos mono y x)) 4096))

/-- A coordinate mirrored at the frame's edges. -/
def mirror (n : Nat) (i : Int) : Nat :=
  if n ≤ 1 then 0
  else
    let m := (i % (2 * (n - 1) : Nat)).toNat
    if m < n then m else 2 * (n - 1) - m

/-- Mean of the two middle values of four, rounded. -/
def middleMean (l : List Nat) : Nat :=
  let lo := l.foldl min 65536
  let hi := l.foldl max 0
  (divRound ((l.sum : Int) - lo - hi) 2).toNat

/-- Defect correction. -/
def defects (f : Force) (mono : Bool) (h w : Nat) (p : Plane) : Plane :=
  let d : Int := if mono then 1 else 2
  mkPlane h w (fun y x =>
    let at_ (dy dx : Int) : Nat := px p (mirror h (y + d * dy)) (mirror w (x + d * dx))
    let orth := [at_ (-1) 0, at_ 0 (-1), at_ 0 1, at_ 1 0]
    let all := orth ++ [at_ (-1) (-1), at_ (-1) 1, at_ 1 (-1), at_ 1 1]
    let v := px p y x
    let off := f.thresh != 0xFFFF && (decide (all.foldl max 0 + f.thresh < v) || decide (v + f.thresh < all.foldl min 65536))
    if f.listed y x || off then middleMean orth else v)

/-- A fraction of a mesh or grid axis: cell, numerator and denominator of the offset within it [DEDUCED, log entry 51]. -/
def cellOf (pos n last : Nat) : Nat × Nat × Nat :=
  if last = 0 then (0, 0, 1)
  else
    let s := pos * (n - 1)
    let i := min (s / last) (n - 2)
    (i, s - i * last, last)

/-- Exact bilinear combination of four values: numerator and denominator. -/
def bilinear (a b : Nat × Nat × Nat) (v00 v10 v01 v11 : Int) : Int × Nat :=
  let p := a.2.1
  let q := a.2.2
  let r := b.2.1
  let s := b.2.2
  (((q : Int) - p) * (s - r) * v00 + (p : Int) * (s - r) * v10 + ((q : Int) - p) * r * v01 + (p : Int) * r * v11, q * s)

/-- Lens shading [DEDUCED, log entry 51]. -/
def shading (f : Force) (mono : Bool) (h w : Nat) (p : Plane) : Plane :=
  mkPlane h w (fun y x =>
    let c := cfaPos mono y x
    let a := cellOf x f.gx (w - 1)
    let b := cellOf y f.gy (h - 1)
    let g := bilinear a b (f.grid c a.1 b.1) (f.grid c (a.1 + 1) b.1) (f.grid c a.1 (b.1 + 1)) (f.grid c (a.1 + 1) (b.1 + 1))
    clamp16 (divRound ((px p y x : Int) * g.1) (4096 * g.2)))

/-! ### Colour stages -/

/-- Demosaic: planes R, G and B. -/
def demosaicked (cfa : Nat) (mono : Bool) (h w : Nat) (p : Plane) : List Plane :=
  if mono then [p, p, p]
  else
    let rgb := (List.range h).map (fun y => (List.range w).map (fun x =>
      Config.demosaic cfa (y % 2) (x % 2) ((List.range 25).map (fun i =>
        let v : Int := (y : Int) + (i / 5 : Nat) - 2
        let u : Int := (x : Int) + (i % 5 : Nat) - 2
        if 0 ≤ v ∧ v < h ∧ 0 ≤ u ∧ u < w then some (px p v.toNat u.toNat) else none))))
    [rgb.map (·.map (fun c => c.1 % 65536)), rgb.map (·.map (fun c => c.2.1 % 65536)), rgb.map (·.map (fun c => c.2.2 % 65536))]

/-- Three planes at a position. -/
def px3 (ps : List Plane) (y x : Nat) : List Nat := ps.map (fun p => px p y x)

/-- Three planes from a function of the three samples at each position. -/
def map3 (h w : Nat) (ps : List Plane) (g : Nat → List Nat → Nat) : List Plane :=
  (List.range 3).map (fun c => mkPlane h w (fun y x => g c (px3 ps y x)))

/-- A matrix row applied to three samples with its offset, clamped (R324). -/
def matrixRow (m : Nat → Int) (off : Int) (v : List Nat) : Nat :=
  clamp16 (divRound (m 0 * v.getD 0 0 + m 1 * v.getD 1 0 + m 2 * v.getD 2 0) 4096 + off)

/-- Tone of one sample. -/
def toneOf (f : Force) (c v : Nat) : Nat :=
  let a : Int := f.tone c (v / 64)
  let b : Int := f.tone c (v / 64 + 1)
  (divRound (a * 64 + (b - a) * (v % 64 : Nat)) 64).toNat

/-- A mesh point of the warp, in units of 2^-8 input pixel; MX = 0 is the input's corners. -/
def meshPoint (f : Force) (h w i j : Nat) : Int × Int :=
  match f.data 5 with
  | some d =>
    if pbytes d 0 1 = 0 then (256 * (i * (w - 1) : Nat), 256 * (j * (h - 1) : Nat))
    else
      let o := 8 + 8 * (j * pbytes d 0 1 + i)
      (psigned d o 4, psigned d (o + 4) 4)
  | none => (256 * (i * (w - 1) : Nat), 256 * (j * (h - 1) : Nat))

/-- Mesh size. -/
def meshSize (f : Force) : Nat × Nat :=
  match f.data 5 with
  | some d => if pbytes d 0 1 = 0 then (2, 2) else (pbytes d 0 1, pbytes d 1 1)
  | none => (2, 2)

/-- The PAD colour. -/
def padColour (f : Force) (c : Nat) : Nat := (f.data 5).elim 0 (fun d => pbytes d (2 + 2 * c) 2)

/-- The warp sample of channel `c` at warp position (y, x) of a warp image of `hw` by `ww` (R325). -/
def warpAt (f : Force) (h w hw ww : Nat) (p : Plane) (c y x : Nat) : Nat :=
  let m := meshSize f
  let a := cellOf x m.1 (ww - 1)
  let b := cellOf y m.2 (hw - 1)
  let q (i j : Nat) := meshPoint f h w (a.1 + i) (b.1 + j)
  let nx := bilinear a b (q 0 0).1 (q 1 0).1 (q 0 1).1 (q 1 1).1
  let ny := bilinear a b (q 0 0).2 (q 1 0).2 (q 0 1).2 (q 1 1).2
  let xx := divRound nx.1 nx.2
  let yy := divRound ny.1 ny.2
  if xx < 0 ∨ 256 * ((w : Int) - 1) < xx ∨ yy < 0 ∨ 256 * ((h : Int) - 1) < yy then padColour f c
  else
    let x0 : Nat := (xx / 256).toNat
    let y0 : Nat := (yy / 256).toNat
    let x1 := min (x0 + 1) (w - 1)
    let y1 := min (y0 + 1) (h - 1)
    let v := bilinear (x0, (xx % 256).toNat, 256) (y0, (yy % 256).toNat, 256) (px p y0 x0) (px p y0 x1) (px p y1 x0) (px p y1 x1)
    (divRound v.1 v.2).toNat

/-- Warp and scaling: the mean of each block of the warp image, rounded once. -/
def warpScaled (f : Force) (h w oh ow fy fx : Nat) (ps : List Plane) : List Plane :=
  ((List.range 3).zip ps).map (fun c => mkPlane oh ow (fun y x =>
    let l := (List.range fy).flatMap (fun v => (List.range fx).map (fun u => warpAt f h w (oh * fy) (ow * fx) c.2 c.1 (y * fy + v) (x * fx + u)))
    (divRound (l.sum : Nat) (fx * fy)).toNat))

/-! ### A stream's settings and the whole pipeline -/

/-- What a stream is configured to do. -/
structure IspCfg where
  dt : Nat
  cfa : Nat
  mono : Bool
  w : Nat
  h : Nat
  fmt : Nat
  tap : Nat
  fx : Nat
  fy : Nat
  ow : Nat
  oh : Nat
  deriving DecidableEq, Repr

/-- The planes after each of the stages that taps name: unpack, defect correction, demosaic, tone (R328). -/
def IspCfg.stages (c : IspCfg) (f : Force) (lines : List (List Byte)) : List (List Plane) :=
  let u := unpackLines (rawBits c.dt) c.w lines
  let d := defects f c.mono c.h c.w (blackLevel f c.mono c.h c.w u)
  let m := demosaicked c.cfa c.mono c.h c.w (shading f c.mono c.h c.w d)
  let k := map3 c.h c.w m (fun ch v => matrixRow (f.ccm ch) (f.ccmOff ch) v)
  let t := ((List.range 3).zip k).map (fun p => p.2.map (·.map (toneOf f p.1)))
  [[u], [d], m, t]

/-! ### Output layouts (R326 to R328) -/

/-- Pitch of a plane of rows of `n` bytes. -/
def pitch32 (n : Nat) : Nat := 32 * ceilDiv n 32

/-- Bytes of the main image after the header. -/
def IspCfg.imageBytes (c : IspCfg) : Nat :=
  if c.fmt = 0 then c.oh * pitch32 c.ow + c.oh / 2 * pitch32 c.ow
  else if c.fmt = 1 then 3 * c.oh * pitch32 c.ow
  else if c.fmt = 2 then 3 * c.oh * pitch32 (2 * c.ow)
  else c.oh * ceilDiv c.ow 32 * 32 * tileGranules fmtQ8

/-- Bytes of the tap image after the header. -/
def IspCfg.tapBytes (c : IspCfg) : Nat := (if c.tap ≤ 2 then 1 else 3) * c.h * pitch32 (2 * c.w)

/-- The planes of the main image: offset, rows and pitch. -/
def IspCfg.planes (c : IspCfg) : List (Nat × Nat × Nat) :=
  let p := if c.fmt = 2 then pitch32 (2 * c.ow) else pitch32 c.ow
  if c.fmt = 0 then [(0, c.oh, p), (c.oh * p, c.oh / 2, p)]
  else if c.fmt ≤ 2 then [(0, c.oh, p), (c.oh * p, c.oh, p), (2 * c.oh * p, c.oh, p)]
  else [(0, c.oh, ceilDiv c.ow 32 * 32 * tileGranules fmtQ8)]

/-- The planes of the tap image. -/
def IspCfg.tapPlanes (c : IspCfg) : List (Nat × Nat × Nat) :=
  let p := pitch32 (2 * c.w)
  (List.range (if c.tap ≤ 2 then 1 else 3)).map (fun i => (i * c.h * p, c.h, p))

/-- The bytes that the first `m` of `h` rows of an image take in its planes: offset and length. -/
def rowPieces (planes : List (Nat × Nat × Nat)) (m h : Nat) : List (Nat × Nat) :=
  planes.map (fun p => (p.1, p.2.1 * m / h * p.2.2))

/-- A row padded with zeros to its pitch. -/
def padRow (n : Nat) (l : List Nat) : List Byte := (List.range n).map (fun i => BitVec.ofNat 8 (l.getD i 0))

/-- u × 2^16 of a sample (R326). -/
def uOf (f : Force) (v : Nat) : Nat := v * f.outGain

/-- An eight-bit element. -/
def u8 (x : Int) (den : Nat) : Nat := (clampInt 0 255 (divRound x den)).toNat

/-- Channel `c` of Y, Cb, Cr at a position. -/
def yuvAt (f : Force) (ps : List Plane) (c y x : Nat) : Nat := matrixRow (f.yuv c) (f.yuvOff c) (px3 ps y x)

/-- The Q8 bales of up to three channels (R155, R326). -/
def baleImage (f : Force) (oh ow : Nat) (chan : Nat → Nat → Nat → Nat) (n : Nat) : List Byte :=
  (List.range (oh * ceilDiv ow 32)).flatMap (fun k =>
    let y := k / ceilDiv ow 32
    let x0 := 32 * (k % ceilDiv ow 32)
    List.replicate 32 (BitVec.ofNat 8 f.outExp) ++ (List.range 32).flatMap (fun ch => (List.range 32).map (fun i =>
      if ch < n ∧ x0 + i < ow then
        BitVec.ofNat 8 (wrapInt 8 (clampInt (-128) 127 (divRound (uOf f (chan ch y (x0 + i)) : Nat) 65536 + f.outZ)))
      else 0)))

/-- The image bytes of the main buffer from the scaled planes (R326). -/
def IspCfg.image (c : IspCfg) (f : Force) (ps : List Plane) : List Byte :=
  let rows (n : Nat) (g : Nat → List Nat) : List Byte := (List.range n).flatMap (fun y => padRow (pitch32 c.ow) (g y))
  if c.fmt = 0 then
    rows c.oh (fun y => (List.range c.ow).map (fun x => u8 (uOf f (yuvAt f ps 0 y x) : Nat) 65536)) ++
    rows (c.oh / 2) (fun y => (List.range c.ow).map (fun i =>
      let u (dy dx : Nat) := uOf f (yuvAt f ps (1 + i % 2) (2 * y + dy) (2 * (i / 2) + dx))
      u8 ((u 0 0 + u 0 1 + u 1 0 + u 1 1 : Nat) : Int) (4 * 65536)))
  else if c.fmt = 1 then
    ps.flatMap (fun p => rows c.oh (fun y => (List.range c.ow).map (fun x => u8 (uOf f (px p y x) : Nat) 65536)))
  else if c.fmt = 2 then
    ps.flatMap (fun p => (List.range c.oh).flatMap (fun y => padRow (pitch32 (2 * c.ow)) ((List.range c.ow).flatMap (fun x =>
      let w := w12Encode (w12Round ⟨(uOf f (px p y x) : Nat), -16⟩)
      [w % 256, w / 256]))))
  else if c.fmt = 3 then baleImage f c.oh c.ow (fun ch y x => px (ps.getD ch []) y x) 3
  else baleImage f c.oh c.ow (fun _ y x => yuvAt f ps 0 y x) 1

/-- The image bytes of a tap buffer (R328). -/
def IspCfg.tapImage (c : IspCfg) (ps : List Plane) : List Byte :=
  ps.flatMap (fun p => (List.range c.h).flatMap (fun y => padRow (pitch32 (2 * c.w)) ((List.range c.w).flatMap (fun x =>
    [px p y x % 256, px p y x / 256]))))

/-- Main and tap image of a whole frame. -/
def IspCfg.images (c : IspCfg) (f : Force) (lines : List (List Byte)) : List Byte × List Byte :=
  let st := c.stages f lines
  (c.image f (warpScaled f c.h c.w c.oh c.ow c.fy c.fx (st.getD 3 [])), if c.tap = 0 then [] else c.tapImage (st.getD (c.tap - 1) []))

/-! ### The check of a parameter block (R333, R334) -/

/-- Payload length of a group, given its payload. -/
def paramLen (g : Nat) (d : List Byte) : Nat :=
  if g = 0 then 16
  else if g = 1 then 8 + 4 * pbytes d 2 2
  else if g = 2 then 8 + 2 * (4 * pbytes d 0 1 * pbytes d 1 1)
  else if g = 3 then 24
  else if g = 4 then 6150
  else if g = 5 then 8 + 8 * (pbytes d 0 1 * pbytes d 1 1)
  else 32

/-- Whether a payload sets a reserved byte. -/
def paramReserved (g : Nat) (d : List Byte) : Bool :=
  if g = 1 then pbytes d 4 4 != 0 else if g = 2 then pbytes d 2 6 != 0 else if g = 6 then pbytes d 28 4 != 0 else false

/-- Whether a payload's fields are in range. -/
def paramInRange (g : Nat) (d : List Byte) : Bool :=
  let a := pbytes d 0 1
  let b := pbytes d 1 1
  if g = 1 then decide (pbytes d 2 2 ≤ 4096)
  else if g = 2 then decide (2 ≤ a ∧ a ≤ 33 ∧ 2 ≤ b ∧ b ≤ 25)
  else if g = 5 then (a == 0 && b == 0) || decide (2 ≤ a ∧ a ≤ 65 ∧ 2 ≤ b ∧ b ≤ 49)
  else if g = 6 then decide (pbytes d 27 1 < 32)
  else true

/-- Rows the warp holds of a stream of a width (R325). -/
def warpRows (w : Nat) : Nat := if w = 0 then 128 else min 128 (349525 / w)

/-- Whether a mesh keeps within the warp's window (R333 reason 3). -/
def meshOk (w : Nat) (d : List Byte) : Bool :=
  let mx := pbytes d 0 1
  let my := pbytes d 1 1
  let y (i j : Nat) : Int := psigned d (8 + 8 * (j * mx + i) + 4) 4
  (List.range my).all (fun j => (List.range mx).all (fun a => (List.range mx).all (fun b =>
    decide (y a j - y b j ≤ 256 * ((warpRows w : Int) - 2))))) &&
  (List.range mx).all (fun i => (List.range (my - 1)).all (fun j => decide (y i j ≤ y i (j + 1))))

/-- The reason for which a block is refused, 0 for none: header, payload, the stream's width. -/
def paramReason (hdr : Nat) (d : List Byte) (w : Nat) : Nat :=
  let g := bits hdr 0 8
  if 6 < g ∨ bits hdr 8 8 ≠ 0 ∨ bits hdr 64 64 ≠ 0 then 1
  else if g = 1 ∧ 4096 < pbytes d 2 2 then 2
  else if bits hdr 32 32 ≠ paramLen g d ∨ paramReserved g d then 1
  else if !paramInRange g d then 2
  else if g = 5 ∧ !meshOk w d then 3
  else 0

end Sys2Proof.Machine
end

