-- ==== Sys2Proof/Machine/Isp.lean ====
section
/-! DEFINITION. Camera ports and image streams: packets, frames, void frames, delivery and parameter sets (R319 to R323, R327 to R338, R438). -/

namespace Sys2Proof.Machine

/-! ### Streams -/

def State.ispPort (s : State) (n : Nat) : IspPort := s.isp.getD n IspPort.empty
def State.ispStream (s : State) (n v : Nat) : IspStream := (s.ispPort n).streams.getD v IspStream.empty

/-- Changes a port. -/
def State.modPort (s : State) (n : Nat) (f : IspPort → IspPort) : State := { s with isp := modAt s.isp n f }

/-- Changes a stream. -/
def State.modStream (s : State) (n v : Nat) (f : IspStream → IspStream) : State :=
  s.modPort n (fun p => { p with streams := modAt p.streams v f })

/-- Virtual channel of stream v. -/
def State.vcOf (s : State) (n v : Nat) : Nat := bits (s.rword CSIn_VC_MAP n).toNat (8 * v) 5

/-- Settings of a stream. -/
def State.ispCfg (s : State) (n v : Nat) : IspCfg :=
  { dt := s.fget ISPn_Sv_FORMAT_DT n v, cfa := s.fget ISPn_Sv_FORMAT_CFA n v, mono := s.fbit ISPn_Sv_FORMAT_MONO n v
    w := s.fget ISPn_Sv_FORMAT_WIDTH n v, h := s.fget ISPn_Sv_FORMAT_HEIGHT n v, fmt := s.fget ISPn_Sv_OUT_OUT_FMT n v
    tap := s.fget ISPn_Sv_OUT_TAP n v, fx := s.fget ISPn_Sv_OUT_FX n v + 1, fy := s.fget ISPn_Sv_OUT_FY n v + 1
    ow := s.fget ISPn_Sv_OUT_OUT_W n v, oh := s.fget ISPn_Sv_OUT_OUT_H n v }

def State.ispEnabled (s : State) (n v : Nat) : Bool := s.fbit ISPn_Sv_STATUS_ENABLED n v

/-- The enabled stream that a virtual channel is mapped to (R320). -/
def State.streamOf (s : State) (n vc : Nat) : Option Nat := (List.range 4).find? (fun v => s.ispEnabled n v && s.vcOf n v == vc)

/-- Ration class of a port (R277). -/
def ispClass (n : Nat) : Nat := 8 + n

/-- Counts a dropped packet (R320, R332). -/
def State.csiDrop (s : State) (n : Nat) : State := (s.fadd CSIn_DROPPED_COUNT 1 n).fset CSIn_STATUS_DROPPED_SEEN 1 n

/-! ### Delivery (R327, R329, R330) -/

/-- The frame header (R327). -/
def frameHeader (n v : Nat) (c : IspCfg) (f : IspFrame) (lines reason feS feN : Nat) (tap : Bool) : List Byte :=
  leBytes 4 f.number ++ leBytes 1 (if reason = 0 then stOK else stVoidInput) ++ leBytes 1 reason ++ leBytes 2 f.csiNo ++
  leBytes 1 (v + 4 * n) ++ leBytes 1 (b2n f.late + 2 * b2n tap) ++ leBytes 2 lines ++
  leBytes 2 (if tap then c.w else c.ow) ++ leBytes 2 (if tap then c.h else c.oh) ++ leBytes 1 (if tap then c.tap else c.fmt) ++
  leBytes 1 0 ++ leBytes 6 f.fsS ++ leBytes 4 f.fsN ++ leBytes 6 feS ++ leBytes 4 feN ++
  (List.range 7).flatMap (fun g => leBytes 2 ((f.force.getD g none).elim 0 (·.id))) ++ List.replicate 204 0

/-- A write by a hub block into a buffer at a DRAM handle, of what lies on the handle's die; nothing for another handle. -/
def State.bufWrite (s : State) (cls h off : Nat) (bs : List Byte) : State :=
  let a := dramAddr h + off
  let bs := bs.take (dieEnd (dramAddr h) - a)
  if isDram h then s.chargedWrite cls a bs else s

/-- Notes the write-back buffer's fill: 256 bytes a held transaction, of 512 KiB (R332, R337) [DEDUCED, log entry 50]. -/
def State.noteFill (s : State) (n : Nat) : State :=
  let b := min (256 * s.heldTx (ispClass n)) 524288
  let s := if s.fget ISPn_WB_FILL_MAX_B_FILL_MAX_B n < b then s.fset ISPn_WB_FILL_MAX_B_FILL_MAX_B b n else s
  if b = 524288 then s.fset ISPn_STATUS_WB_FULL_SEEN 1 n else s

/-- Transactions of `len` bytes from `off` of a buffer, up to the end of its die. -/
def bufTx (h off len : Nat) : Nat :=
  if isDram h then txCount (dramAddr h + off) (min len (dieEnd (dramAddr h) - (dramAddr h + off))) else 0

/-- Those of an image of `size` bytes behind its header. -/
def imageTx (h size : Nat) : Nat := bufTx h 256 size

/-- How many of `t` transactions of an image have been made once `k` of `h` lines are in: an even share, the last one left for the frame's
end [DESIGN CHOICE, log entry 87]. -/
def shareTx (t k h : Nat) : Nat := (t - 1) * k / h

/-- A write of a buffer's bytes from `off` on, `paid` of whose transactions have been made with the lines (R329). -/
def State.ispWrite (s : State) (n h off : Nat) (bs : List Byte) (paid : Nat) : State :=
  let a := dramAddr h + off
  let bs := bs.take (dieEnd (dramAddr h) - a)
  let t := bufTx h off bs.length
  if isDram h then (s.chargeFor (ispClass n) (t - min paid (t - 1)) (.write a bs) (fun s => s.hubWrite a bs)).noteFill n else s

/-- Takes a buffer for a stream: from FREE_WAY, or the tap's. -/
def State.takeBuf (s : State) (n v : Nat) (tap : Bool) : State × Option Nat :=
  let r := s.wayTake (if tap then s.fget ISPn_Sv_WAY_TAP_FREE_WAY n v else s.fget ISPn_Sv_WAY_FREE_WAY n v)
  (r.1, r.2.map (·.handle))

/-- What R330 does where no buffer is free: a void entry on VOID_HANDLE, or, its put queue full, nothing. A frame that still waits for its
writes has its place in the put queue [DEDUCED, log entry 50]. -/
def State.noBuffer (s : State) (n v : Nat) (tap : Bool) : State :=
  let st := s.ispStream n v
  let l := if tap then st.tapQ else st.outQ
  if 8 ≤ l.length then
    if tap then s else (s.fadd ISPn_Sv_COUNTS_SKIPPED 1 n v).fset ISPn_Sv_STATUS_LAST_VOID_REASON 11 n v
  else
    let i : OutItem := ⟨s.fget ISPn_Sv_VOID_HANDLE_HANDLE n v, stVoidInput, none, !tap⟩
    if tap then s.modStream n v (fun x => { x with tapQ := x.tapQ ++ [i] })
    else
      ((s.modStream n v (fun x => { x with outQ := x.outQ ++ [i] })).fadd ISPn_Sv_COUNTS_NO_BUFFER 1 n v).fset
        ISPn_Sv_STATUS_LAST_VOID_REASON 10 n v

/-- Takes the buffers of the frame in reception, main and tap. -/
def State.beginFrame (s : State) (n v : Nat) (f : IspFrame) : State × IspFrame :=
  let a := s.takeBuf n v false
  let s := if a.2.isNone then a.1.noBuffer n v false else a.1
  if s.fget ISPn_Sv_OUT_TAP n v = 0 then (s, { f with begun := true, buf := a.2 })
  else
    let b := s.takeBuf n v true
    let s := if b.2.isNone then b.1.noBuffer n v true else b.1
    (s, { f with begun := true, buf := a.2, tap := b.2 })

/-- Writes the pieces of an image that a frame whose reception has ended puts into one buffer, `paid` of whose transactions are made, and
queues its entry behind those before it; the header follows under ISP_FRAME_DELIVER [DEDUCED, log entry 50]. -/
def State.closeBuf (s : State) (n v h : Nat) (image : List Byte) (pieces : List (Nat × Nat)) (paid : Nat) (ok : Bool) (header : List Byte)
    (tap : Bool) : State :=
  let s := (pieces.foldl (fun (q : State × Nat) p =>
    let t := bufTx h (256 + p.1) p.2
    (q.1.ispWrite n h (256 + p.1) (slice image p.1 p.2) q.2, q.2 - min q.2 (t - 1))) (s, paid)).1
  let i : OutItem := ⟨h, if ok then stOK else stVoidInput, some header, !tap⟩
  s.modStream n v (fun x => if tap then { x with tapQ := x.tapQ ++ [i] } else { x with outQ := x.outQ ++ [i] })

/-- The lines of a frame as the pipeline meets them: those that a void frame does not have are free values. -/
def State.frameLines (s : State) (c : IspCfg) (l : List (List Byte)) : State × List (List Byte) :=
  let n := c.w * rawBits c.dt / 8
  if c.h ≤ l.length then (s, l)
  else
    let x := s.free (8 * n * (c.h - l.length))
    (x.2, l ++ (List.range (c.h - l.length)).map (fun i => leBytes n (x.1 / 256 ^ (n * i))))

/-- Ends the reception of a stream's frame with a reason of the void table, 0 for a whole frame (R329 to R331); `fe` is the time of its
frame end packet. A void frame has left a free number of its rows in each buffer. One already discarded for want of a buffer keeps reason 10
or 11 [DEDUCED, log entry 50]. -/
def State.endFrame (s : State) (n v reason : Nat) (fe : Nat × Nat) : State :=
  match (s.ispStream n v).frame with
  | none => s
  | some f =>
    let c := s.ispCfg n v
    let gone := f.begun
    let r := if f.begun then (s, f) else s.beginFrame n v f
    let f := r.2
    let s := r.1.modStream n v (fun x => { x with frame := none })
    let s := s.fset ISPn_Sv_STATUS_IN_FRAME 0 n v
    let s := if reason = 0 ∨ (gone ∧ f.buf = none) then s else s.fset ISPn_Sv_STATUS_LAST_VOID_REASON reason n v
    let k := f.lines.length
    let x := if reason = 0 then (s, f.lines) else s.frameLines c f.lines
    let im := c.images f.force x.2
    let hd (tap : Bool) := frameHeader n v c f k reason fe.1 fe.2 tap
    let rows (s : State) (all most : Nat) : State × Nat :=
      if reason = 0 then (s, all) else if f.lines = [] then (s, 0) else ((s.free 32).2, (s.free 32).1 % (most + 1))
    let s := match f.buf with
      | none => x.1
      | some h =>
        let m := rows x.1 c.oh c.oh
        (m.1.fadd ISPn_PIXELS_OUT_COUNT (c.ow * m.2) n).closeBuf n v h im.1 (if reason = 0 then [(0, im.1.length)] else rowPieces c.planes m.2 c.oh)
          (shareTx (imageTx h c.imageBytes) k c.h) (reason == 0) (hd false) false
    match f.tap with
    | none => s
    | some h =>
      let m := rows s c.h (min k c.h)
      m.1.closeBuf n v h im.2 (if reason = 0 then [(0, im.2.length)] else rowPieces c.tapPlanes m.2 c.h)
        (shareTx (imageTx h c.tapBytes) k c.h) (reason == 0) (hd true) true

/-- Puts the first entry of a put queue if it is complete, its writes are visible and the waystation takes it; a refused put stays queued
(R329, R330). -/
def State.putEntry (s : State) (n v : Nat) (tap : Bool) : State :=
  let st := s.ispStream n v
  match (if tap then st.tapQ else st.outQ) with
  | [] => s
  | i :: is =>
    if i.header.isSome then s
    else
      let r := s.wayPut (if tap then s.fget ISPn_Sv_WAY_TAP_OUT_WAY n v else s.fget ISPn_Sv_WAY_OUT_WAY n v) i.handle i.status
      if !r.2 then r.1
      else
        let s := r.1.modStream n v (fun x => if tap then { x with tapQ := is } else { x with outQ := is })
        if i.signal && s.fbit ISPn_Sv_CTRL_DONE_EN n v then s.signal (s.fget ISPn_Sv_CTRL_DONE_TALLY n v) 1 else s

/-- The first item of a list whose header is still to be written. -/
def pendingHeader (l : List OutItem) : Option (OutItem × List Byte) := l.findSome? (fun i => i.header.map (fun h => (i, h)))

/-- Marks the first item with a header as complete. -/
def headerDone : List OutItem → List OutItem
  | [] => []
  | i :: is => if i.header.isSome then { i with header := none } :: is else i :: headerDone is

/-- Completed entries that stand before the first frame whose header is still to be written. -/
def itemsBefore (l : List OutItem) : List OutItem := l.takeWhile (fun i => i.header.isNone)

/-- Writes the header of a frame whose writes are visible; its entry is then put, unless others stand before it. -/
def State.deliverFrame (s : State) (n v : Nat) (tap : Bool) (i : OutItem) (h : List Byte) : State :=
  let before := itemsBefore (if tap then (s.ispStream n v).tapQ else (s.ispStream n v).outQ)
  let s := s.ispWrite n i.handle 0 h 0
  let s := s.modStream n v (fun x => if tap then { x with tapQ := headerDone x.tapQ } else { x with outQ := headerDone x.outQ })
  let s := if tap then s else if i.status = stOK then s.fadd ISPn_Sv_COUNTS_OK 1 n v else s.fadd ISPn_Sv_COUNTS_VOID 1 n v
  if before = [] ∧ s.heldTx (ispClass n) = 0 then s.putEntry n v tap else s

/-- Whether a put queue can take the entry of its first frame that waits for its header (R330). -/
def putRoom (l : List OutItem) : Bool := decide ((itemsBefore l).length < 8)

/-- ISP_FRAME_DELIVER (R329): the next frame whose writes are visible, main buffers first. -/
def execIspFrameDeliver (n v : Nat) (s : State) : Result :=
  let st := s.ispStream n v
  let ok (l : List OutItem) : Bool := s.up && s.heldTx (ispClass n) == 0 && putRoom l
  unit (n < 4 && v < 4) (match (if putRoom st.outQ then pendingHeader st.outQ else none), pendingHeader st.tapQ with
    | some x, _ => due (ok st.outQ) s (s.deliverFrame n v false x.1 x.2)
    | none, some x => due (ok st.tapQ) s (s.deliverFrame n v true x.1 x.2)
    | none, none => .next s)

/-- Whether the first entry of a put queue can be put now. -/
def State.canPut (s : State) (n : Nat) (l : List OutItem) (way : Nat) : Bool :=
  match l with
  | i :: _ => i.header.isNone && s.heldTx (ispClass n) == 0 && !s.wayFull way
  | [] => false

/-- ISP_ENTRY_PUT (R330). -/
def execIspEntryPut (n v : Nat) (s : State) : Result :=
  let st := s.ispStream n v
  unit (n < 4 && v < 4)
    (if s.canPut n st.outQ (s.fget ISPn_Sv_WAY_OUT_WAY n v) then due s.up s (s.putEntry n v false)
     else due (s.up && s.canPut n st.tapQ (s.fget ISPn_Sv_WAY_TAP_OUT_WAY n v)) s (s.putEntry n v true))

/-! ### Packets (R320, R321, R331, R332, R335) -/

/-- Applies the sets due at frame `f`, one group (R335): state, the set then in force, whether it was late. -/
def State.applyGroup (s : State) (n v f g : Nat) : State × Bool :=
  let st := s.ispStream n v
  let due_ (p : ParamSet) : Nat := sub32 f (p.tag + bits (s.fget ISPn_Sv_DELAY_DELAY n v) (2 * g) 2)
  let l := st.queue.filter (fun p => p.group == g && decide (due_ p < 2 ^ 31))
  match l.foldl (fun (b : Option ParamSet) p => match b with
      | none => some p
      | some q => if due_ p ≤ due_ q then some p else some q) none with
  | none => (s, false)
  | some p =>
    let s := s.modStream n v (fun x => { x with
      queue := x.queue.filter (fun q => !(q.group == g && decide (due_ q < 2 ^ 31))), force := x.force.set g (some p) })
    ((s.fadd ISPn_Sv_PARAM_COUNTS_APPLIED 1 n v).fadd ISPn_Sv_PARAM_COUNTS_SUPERSEDED (l.length - 1) n v, due_ p != 0)

/-- Applies every due set at a frame start: whether any was late. -/
def State.applyParams (s : State) (n v f : Nat) : State × Bool :=
  (List.range 7).foldl (fun (r : State × Bool) g =>
    let x := r.1.applyGroup n v f g
    (x.1, r.2 || x.2)) (s, false)

/-- Whether a frame start comes outside its trigger's window (reason 9). -/
def State.startLate (s : State) (n v : Nat) : Bool :=
  s.fbit ISPn_Sv_CTRL_TRIG_LINK n v &&
  (let t := (s.tim.trigs.getD (s.fget ISPn_Sv_CTRL_TRIG n v) Trig.empty).fired
   t == 0 || decide (usTicks (s.fget ISPn_Sv_CTRL_START_WINDOW_US n v) < s.refTick - (t - 1)))

/-- A frame start on an enabled stream. -/
def State.startFrame (s : State) (n v no : Nat) : State :=
  let s := s.endFrame n v 7 (0, 0)
  let f := (s.fget ISPn_Sv_FRAME_CURRENT n v + 1) % 2 ^ 32
  let s := s.fset ISPn_Sv_FRAME_CURRENT f n v
  let r := s.applyParams n v f
  let s := if r.2 then r.1.fadd ISPn_Sv_PARAM_COUNTS_PARAM_LATE 1 n v else r.1
  let fr : IspFrame := ⟨f, no % 65536, s.tim.sec, s.tim.ns, s.refTick, [], (s.ispStream n v).force, r.2, false, none, none⟩
  let s := (s.modStream n v (fun x => { x with frame := some fr, started := true })).fset ISPn_Sv_STATUS_IN_FRAME 1 n v
  if s.startLate n v then s.endFrame n v 9 (0, 0) else s

/-- Whether a port receives. -/
def State.csiOn (s : State) (n : Nat) : Bool := s.up && s.fbit CSIn_CTRL_ENABLE n

/-- A packet header whose single-bit error has been corrected (R321). -/
def State.headerEcc (s : State) (n : Nat) (corrected : Bool) : State :=
  if corrected then (s.fadd CSIn_ECC_CORR_COUNT 1 n).fset CSIn_STATUS_ECC_CORR_SEEN 1 n else s

/-- CSI_FRAME_START (R335): in the fold it is not accepted (R438). -/
def execCsiFrameStart (n vc : Nat) (no : CsiFrameNo) (s : State) : Result :=
  let s1 := s.headerEcc n no.corrected
  unit (n < 4) (due (s.csiOn n && s.inRun) s (match s.streamOf n vc with
    | none => s1.csiDrop n
    | some v => s1.startFrame n v no.number))

/-- Bytes a tick takes from a line store: 1.2 × 10^9 pixels a second of `n` bits (R322), none while the write-back buffer is full
[DEDUCED, log entry 50]. -/
def State.storeNow (s : State) (n bits_ : Nat) : Nat :=
  let p := s.ispPort n
  if 2048 ≤ s.heldTx (ispClass n) then p.storeB else p.storeB - (s.refTick - p.storeTick) * 48 * bits_ / 40

/-- The write-back that the next line of a frame brings to one of its buffers: its share of the image's transactions (R278, R332). -/
def State.lineTx (s : State) (n size k h : Nat) (buf : Option Nat) : State :=
  buf.elim s (fun b =>
    let t := imageTx b size
    (s.chargeTx (ispClass n) (shareTx t (k + 1) h - shareTx t k h)).noteFill n)

/-- A good line of the frame in reception. -/
def State.takeLine (s : State) (n v : Nat) (f : IspFrame) (payload : List Byte) : State :=
  let r := if f.begun then (s, f) else s.beginFrame n v f
  let c := s.ispCfg n v
  let s := r.1.modStream n v (fun x => { x with frame := some { r.2 with lines := r.2.lines ++ [payload] } })
  let s := (s.lineTx n c.imageBytes f.lines.length c.h r.2.buf).lineTx n c.tapBytes f.lines.length c.h r.2.tap
  s.fadd ISPn_PIXELS_IN_COUNT (s.fget ISPn_Sv_FORMAT_WIDTH n v) n

/-- A long packet of a stream in a frame: the first condition of R331 it meets, or a line. -/
def State.lineOf (s : State) (n v : Nat) (f : IspFrame) (payload : List Byte) : State :=
  let c := s.ispCfg n v
  let nb := rawBits c.dt
  let fill := s.storeNow n nb
  if 262144 < fill + payload.length then
    (s.fset CSIn_STATUS_STORE_FULL_SEEN 1 n).endFrame n v (if 2048 ≤ s.heldTx (ispClass n) then 2 else 1) (0, 0)
  else
    let s := s.modPort n (fun p => { p with storeB := fill + payload.length, storeTick := s.refTick })
    let i := s.injectCheck (0x010 + n) clsU none 0 none
    let k := i.1.injectCheck (0x014 + n) clsU none 0 none
    let s := if i.2 = 0 ∧ k.2 = 0 then k.1 else k.1.fset ISPn_STATUS_ECC_SEEN 1 n
    if i.2 = clsU ∨ k.2 = clsU then s.endFrame n v 12 (0, 0)
    else if 8 * payload.length ≠ c.w * nb then s.endFrame n v 5 (0, 0)
    else if c.h ≤ f.lines.length then s.endFrame n v 6 (0, 0)
    else s.takeLine n v f payload

/-- What a port does with a long packet. Lines of a frame that has ended early go nowhere; those outside a frame are dropped and counted
(R331, R332). -/
def State.longPacket (s : State) (n : Nat) (p : CsiPacket) : State :=
  let v := s.streamOf n p.vc
  let void_ (s : State) (r : Nat) : State := v.elim s (fun v => s.endFrame n v r (0, 0))
  if p.eccBad then void_ ((s.fadd CSIn_ECC_UNCORR_COUNT 1 n).fset CSIn_STATUS_ECC_UNCORR_SEEN 1 n) 4
  else
    let s := s.headerEcc n p.eccCorrected
    match v with
    | none => s.csiDrop n
    | some v =>
      if rawBits p.dataType = 0 then s.csiDrop n
      else if p.crcBad then void_ ((s.fadd CSIn_CRC_ERR_COUNT 1 n).fset CSIn_STATUS_CRC_SEEN 1 n) 3
      else
        match (s.ispStream n v).frame with
        | none => if (s.ispStream n v).started then s else s.csiDrop n
        | some f => s.lineOf n v f p.payload

/-- CSI_LONG_PACKET (R329). -/
def execCsiLongPacket (n : Nat) (p : CsiPacket) (s : State) : Result :=
  unit (n < 4) (due (s.csiOn n) s (s.longPacket n p))

/-- CSI_FRAME_END (R331). -/
def execCsiFrameEnd (n vc : Nat) (no : CsiFrameNo) (s : State) : Result :=
  let s1 := s.headerEcc n no.corrected
  unit (n < 4) (due (s.csiOn n) s (match s.streamOf n vc with
    | none => s1.csiDrop n
    | some v =>
      let s1 := s1.modStream n v (fun x => { x with started := false })
      match (s.ispStream n v).frame with
      | none => s1
      | some f => s1.endFrame n v (if f.lines.length < (s.ispCfg n v).h then 14 else 0) (s.tim.sec, s.tim.ns)))

/-- FRAME_TIMEOUT (R331). -/
def execFrameTimeout (n v : Nat) (s : State) : Result :=
  let us := s.fget ISPn_Sv_CTRL_MAX_FRAME_US n v
  unit (n < 4 && v < 4) (match (s.ispStream n v).frame with
    | none => .next s
    | some f => due (s.up && us != 0 && decide (f.start + usTicks us < s.refTick)) s (s.endFrame n v 8 (0, 0)))

/-- BYTE_CLK_MEASURE (R336). -/
def execByteClkMeasure (n khz : Nat) (s : State) : Result :=
  unit (n < 4) (due s.up s (s.fset CSIn_BYTE_CLK_KHZ_BYTE_CLK_KHZ khz n))

/-- CSI_SKEW_CALIBRATION (R336): where DESKEW lets the port use it. -/
def execCsiSkewCalibration (n : Nat) (initial : Bool) (s : State) : Result :=
  unit (n < 4) (due (s.csiOn n && s.fbit CSIn_CTRL_DESKEW n && initial) s (s.fset CSIn_STATUS_DESKEW_DONE 1 n))

/-- CSI_CLOCK_LANE_MODE_CHANGE (R336). -/
def execCsiClockLaneModeChange (n : Nat) (hs : Bool) (s : State) : Result :=
  unit (n < 4) (due s.up s (s.fflag CSIn_STATUS_LINK_ACTIVE hs n))

/-! ### Enable and disable (R322, R323) -/

/-- Whether a queue number names an enabled waystation. -/
def State.isWay (s : State) (q : Nat) : Bool := s.qEnabled q && s.qKind q == 2

/-- The row of R323 that a stream's configuration fails, 0 for none. -/
def State.ispReason (s : State) (n v : Nat) : Nat :=
  let c := s.ispCfg n v
  let ww := c.ow * c.fx
  let hw := c.oh * c.fy
  if rawBits c.dt = 0 then 1
  else if c.w < 32 ∨ 8192 < c.w ∨ c.h < 2 ∨ 8192 < c.h ∨ c.w % (if c.dt = 0x2B ∨ c.dt = 0x2D then 4 else 2) ≠ 0 ∨ (!c.mono ∧ c.h % 2 ≠ 0) then 2
  else if 40_000_000 < c.w * c.h then 3
  else if c.ow = 0 ∨ 8192 < c.ow ∨ c.oh = 0 ∨ 8192 < c.oh ∨ (c.fmt = 0 ∧ (c.ow % 2 ≠ 0 ∨ c.oh % 2 ≠ 0)) ∨ 40_000_000 < c.ow * c.oh then 4
  else if 8192 < ww ∨ 8192 < hw ∨ 40_000_000 < ww * hw then 5
  else if (List.range 4).any (fun x => x != v && s.ispEnabled n x && s.vcOf n x == s.vcOf n v) then 6
  else if 4 < c.fmt ∨ 4 < c.tap then 7
  else if !(s.isWay (s.fget ISPn_Sv_WAY_FREE_WAY n v) && s.isWay (s.fget ISPn_Sv_WAY_OUT_WAY n v) &&
      (c.tap == 0 || (s.isWay (s.fget ISPn_Sv_WAY_TAP_FREE_WAY n v) && s.isWay (s.fget ISPn_Sv_WAY_TAP_OUT_WAY n v)))) then 8
  else 0

/-- ENABLE turns 1: the stream is checked, and enabled or refused. -/
def State.ispEnable (s : State) (n v : Nat) : State :=
  let r := s.ispReason n v
  if r ≠ 0 then
    (((s.fset ISPn_Sv_CTRL_ENABLE 0 n v).fset ISPn_Sv_STATUS_REJECT_SEEN 1 n v).fset ISPn_Sv_STATUS_REJECT_STATUS stLimitReject n v).fset
      ISPn_Sv_STATUS_REJECT_REASON r n v
  else
    let c := s.ispCfg n v
    let s := (s.fset ISPn_Sv_STATUS_ENABLED 1 n v).fset ISPn_Sv_FRAME_CURRENT 0xFFFF_FFFF n v
    (s.fset ISPn_Sv_BUF_BUF_B (256 + c.imageBytes) n v).fset ISPn_Sv_BUF_TAP_BUF_B (if c.tap = 0 then 0 else 256 + c.tapBytes) n v

/-- ENABLE turns 0: a frame in progress ends void, and the pending parameter queues are cleared. -/
def State.ispDisable (s : State) (n v : Nat) : State :=
  ((s.endFrame n v 13 (0, 0)).fset ISPn_Sv_STATUS_ENABLED 0 n v).modStream n v (fun x => { x with queue := [], started := false })

/-- A write of ISPn_Sv_CTRL (R323). -/
def ispCtrlEffect (n v value : Nat) (s : State) : State × Nat :=
  let was := s.ispEnabled n v
  let s := s.rset ISPn_Sv_CTRL (BitVec.ofNat 64 (value % 2 ^ 53)) n v
  (if bitAt value 0 && !was then s.ispEnable n v else if !bitAt value 0 && was then s.ispDisable n v else s, stOK)

/-- ISP_STREAM_ENABLE (R323) [DEDUCED, log entry 28]. -/
def execIspStreamEnable (src n v value : Nat) (s : State) : Result :=
  regCmd (n < 4 && v < 4) s src (regAddr ISPn_Sv_CTRL n v) 8 (putBits (wrap 64 value) 0 1 1)
    (ispCtrlEffect n v (putBits (wrap 64 value) 0 1 1))

/-- ISP_STREAM_DISABLE (R323) [DEDUCED, log entry 28]. -/
def execIspStreamDisable (src n v value : Nat) (s : State) : Result :=
  regCmd (n < 4 && v < 4) s src (regAddr ISPn_Sv_CTRL n v) 8 (putBits (wrap 64 value) 0 1 0)
    (ispCtrlEffect n v (putBits (wrap 64 value) 0 1 0))

/-- A write of a stream's configuration register (R322): refused while the stream is enabled. -/
def ispCfgEffect (n v addr value : Nat) (s : State) : State × Nat :=
  if s.fbit ISPn_Sv_CTRL_ENABLE n v then (s, stBusError) else (s.plainWrite addr value, stOK)

/-- A write of CSIn_CTRL (R336). -/
def csiCtrlEffect (n value : Nat) (s : State) : State × Nat :=
  if bits value 1 2 = 3 ∨ (s.fbit CSIn_CTRL_ENABLE n ∧ bits value 1 3 ≠ bits (s.rword CSIn_CTRL n).toNat 1 3) then (s, stBusError)
  else (s.plainWrite (regAddr CSIn_CTRL n) value, stOK)

/-- A write of CSIn_VC_MAP (R336). -/
def csiMapEffect (n value : Nat) (s : State) : State × Nat :=
  if (List.range 4).any (fun v => s.ispEnabled n v && bits value (8 * v) 5 != s.vcOf n v) then (s, stBusError)
  else (s.plainWrite (regAddr CSIn_VC_MAP n) value, stOK)

/-! ### Parameter sets (R333) -/

/-- Sets PARAM_RESULT. -/
def State.paramResult (s : State) (n busy status reason : Nat) : State :=
  s.rset ISPn_PARAM_RESULT (BitVec.ofNat 64 (busy + status * 2 ^ 8 + reason * 2 ^ 16)) n

/-- A write of ISPn_PARAM_PUSH: refused while a push is BUSY. -/
def paramPushEffect (n value : Nat) (s : State) : State × Nat :=
  if (s.ispPort n).push.isSome then (s.paramResult n 1 stQueueFull 0, stOK)
  else
    let s := s.modPort n (fun p => { p with push := some (bits value 0 32, bits value 32 2, s.fget ISPn_PARAM_TAG_FRAME_TAG n) })
    (s.fset ISPn_PARAM_RESULT_BUSY 1 n, stOK)

/-- ISP_PARAM_PUSH (R333). -/
def execIspParamPush (src n handle v : Nat) (s : State) : Result :=
  let w := handle % 2 ^ 32 + v % 4 * 2 ^ 32
  regCmd (n < 4) s src (regAddr ISPn_PARAM_PUSH n) 8 w (paramPushEffect n w)

/-- A read of DRAM by a hub block at a handle, charged to a class; zeros where the handle names none or past its die. -/
def State.bufRead (s : State) (cls h off len : Nat) : State × List Byte :=
  let a := dramAddr h + off
  let k := min len (dieEnd (dramAddr h) - a)
  if isDram h then ((s.hubRead a k).chargeTx cls (txCount a k), s.readBytes a k ++ List.replicate (len - k) 0)
  else (s, List.replicate len 0)

/-- The outcome of a push: the block is read and checked. -/
def State.paramDone (s : State) (n h v tag : Nat) : State :=
  let s := s.modPort n (fun p => { p with push := none })
  let a := s.bufRead (ispClass n) h 0 16
  let hdr := leVal a.2
  let len := min (bits hdr 32 32) 32768
  let b := a.1.bufRead (ispClass n) h 16 len
  let r := if isDram h then paramReason hdr b.2 (s.fget ISPn_Sv_FORMAT_WIDTH n v) else 1
  let g := bits hdr 0 8
  let full := decide (4 ≤ ((s.ispStream n v).queue.filter (fun p => p.group == g)).length)
  if r ≠ 0 then (b.1.fset ISPn_STATUS_PARAM_REJECT_SEEN 1 n).paramResult n 0 stLimitReject r
  else if full then b.1.paramResult n 0 stQueueFull 0
  else
    (b.1.modStream n v (fun x => { x with queue := x.queue ++ [⟨g, bits hdr 16 16, tag, b.2⟩] })).paramResult n 0 stOK 0

/-- ISP_PARAM_CHECK_DONE (R333). -/
def execIspParamCheckDone (n : Nat) (s : State) : Result :=
  unit (n < 4) (match (s.ispPort n).push with
    | none => .next s
    | some p => due s.up s (s.paramDone n p.1 p.2.1 p.2.2))

/-- A read of ISPn_WB_FILL_MAX_B (R337): returns and clears it. -/
def wbFillRead (n : Nat) (s : State) : State × Nat :=
  (s.fset ISPn_WB_FILL_MAX_B_FILL_MAX_B 0 n, s.fget ISPn_WB_FILL_MAX_B_FILL_MAX_B n)

/-- WB_FILL_MAX_READ (R337). -/
def execWbFillMaxRead (src n : Nat) (s : State) : Result := readCmd (n < 4) s src (regAddr ISPn_WB_FILL_MAX_B n) (wbFillRead n)

/-- A report of class C or U of a port's line store or of a write-back buffer that the model's own checks have not asserted: uncorrectable,
it voids one of the port's frames in reception, a free value says which (R321, R331, R337) [DESIGN CHOICE, log entry 86]. -/
def State.storeError (s : State) (n cls : Nat) : State :=
  let s := s.fset ISPn_STATUS_ECC_SEEN 1 n
  let l := (List.range 4).filter (fun v => (s.ispStream n v).frame.isSome)
  if cls ≠ clsU ∨ l = [] then s
  else
    let x := s.free 2
    x.2.endFrame n (l.getD (x.1 % l.length) 0) 12 (0, 0)

/-- What the fold does to the streams (R438): frames in progress end as on disable, streams stay enabled. -/
def State.foldIsp (s : State) : State :=
  (List.range 16).foldl (fun s k => s.endFrame (k / 4) (k % 4) 13 (0, 0)) s

end Sys2Proof.Machine
end

