-- ==== Sys2Proof/Machine/Spx.lean ====
section
/-! DEFINITION. TDM ports and the spectral engine SPX (R339 to R347, R358, R438). -/

namespace Sys2Proof.Machine

/-! ### Ports (R339, R340) -/

/-- Bits coded by SLOT_BITS and SAMPLE_BITS. -/
def tdmBits (code : Nat) : Nat := if code = 0 then 16 else if code = 1 then 24 else 32

def State.tdmPort (s : State) (p : Nat) : TdmPort := s.tdm.getD p TdmPort.empty
def State.modTdm (s : State) (p : Nat) (f : TdmPort → TdmPort) : State := { s with tdm := modAt s.tdm p f }
def State.spxStream (s : State) (f : Nat) : SpxStream := s.spx.getD f SpxStream.empty
def State.modSpx (s : State) (f : Nat) (g : SpxStream → SpxStream) : State := { s with spx := modAt s.spx f g }
def State.tdmSlots (s : State) (p : Nat) : Nat := s.fget SPX_TDMp_CFG_SLOTS p + 1
def State.tdmSample (s : State) (p : Nat) : Nat := tdmBits (s.fget SPX_TDMp_CFG_SAMPLE_BITS p)
def State.spxEnabled (s : State) (f : Nat) : Bool := s.fbit SPX_Ff_STATUS_ENABLED f

/-- SPX's ration class (R342). -/
def spxClass : Nat := 13

/-- Whether SPX's output store of 64 KiB is full under a ration hold (R347): computation stops [DEDUCED, log entry 52]. -/
def State.spxStalled (s : State) : Bool := 256 ≤ s.heldTx spxClass

/-- A stream's configuration. -/
structure SpxCfg where
  port : Nat
  slot : Nat
  l : Nat
  bank : Bool
  q8 : Bool
  exp : Nat
  z : Int
  hop : Nat
  bands : Nat
  frames : Nat
  scale : Nat
  floor : Nat
  deriving DecidableEq, Repr

def State.spxCfg (s : State) (f : Nat) : SpxCfg :=
  { port := s.fget SPX_Ff_CFG_PORT f, slot := s.fget SPX_Ff_CFG_SLOT f, l := s.fget SPX_Ff_CFG_LOG2_N f
    bank := s.fbit SPX_Ff_CFG_BANK f, q8 := s.fbit SPX_Ff_CFG_OUT_FMT f, exp := s.fget SPX_Ff_CFG_EXP f
    z := sext 8 (s.fget SPX_Ff_CFG_Z f), hop := s.fget SPX_Ff_CFG_HOP f, bands := s.fget SPX_Ff_CFG_BANDS f + 1
    frames := s.fget SPX_Ff_CFG_FRAMES f + 1, scale := s.fget SPX_Ff_SCALE_LOG_SCALE f, floor := s.fget SPX_Ff_SCALE_FLOOR f }

def SpxCfg.n (c : SpxCfg) : Nat := 2 ^ c.l

/-- The FP32 value of an `n`-bit sample (R341). -/
def sampleFp (n v : Nat) : Nat := fp32Round ⟨sext n v, -((n : Int) - 1)⟩

/-- Appends a frame's sample to every enabled stream of a port; `lost` is its reason, 0 for a good frame. -/
def State.addSamples (s : State) (p lost : Nat) (samples : List Nat) : State :=
  let t := s.tdmPort p
  { s with spx := ((List.range 16).zip s.spx).map (fun x =>
      if s.spxEnabled x.1 && s.fget SPX_Ff_CFG_PORT x.1 == p then
        let v := if lost = 0 then sampleFp (s.tdmSample p) (samples.getD (s.fget SPX_Ff_CFG_SLOT x.1) 0) else 0
        { x.2 with samples := x.2.samples ++ [⟨v, lost, t.sec, t.ns, s.refTick⟩] }
      else x.2) }

/-- Bytes of a frame of a port in its sample store. -/
def State.tdmFrameB (s : State) (p : Nat) : Nat := s.tdmSlots p * s.tdmSample p / 8

/-- Samples of a stream that wait behind those of its next frame: the sample store keeps them (R340, R347). -/
def SpxCfg.backlog (c : SpxCfg) (t : SpxStream) : Nat :=
  ((t.samples.drop (t.next * c.hop + c.n - t.base)).filter (fun x => x.lost == 0)).length

/-- Bytes that a port's sample store holds: the frames that the slowest of its streams has still to take [DEDUCED, log entry 52]. -/
def State.tdmStoreB (s : State) (p : Nat) : Nat :=
  s.tdmFrameB p * (((List.range 16).filter (fun f => s.spxEnabled f && s.fget SPX_Ff_CFG_PORT f == p)).map (fun f =>
    (s.spxCfg f).backlog (s.spxStream f))).foldl max 0

/-- Whether a port's sample store has no room for a frame of samples more. -/
def State.tdmFull (s : State) (p : Nat) : Bool := decide (32768 < s.tdmStoreB p + s.tdmFrameB p)

/-- A frame whose bit clocks were right: lost under a rate error, or when the sample store is full (R340). -/
def State.goodSync (s : State) (p : Nat) (samples : List Nat) : State :=
  let rate := s.fbit SPX_TDMp_STATUS_RATE_ERR p
  let u := s.addSamples p (if rate then 2 else if s.tdmFull p then 3 else 0) samples
  let u := if u.tdmFull p then u.fset SPX_STATUS_STORE_FULL_SEEN 1 else u
  if rate then u
  else
    let u := u.modTdm p (fun t => { t with good := t.good + 1 })
    if 1 ≤ (s.tdmPort p).good then u.fset SPX_TDMp_STATUS_LOCKED 1 p else u

/-- A sync error (R340). -/
def State.badSync (s : State) (p : Nat) : State :=
  let s := ((s.fadd SPX_TDMp_STATUS_SYNC_ERRS 1 p).fset SPX_TDMp_STATUS_LOCKED 0 p).fset SPX_STATUS_SYNC_ERR_SEEN 1
  (s.addSamples p 1 []).modTdm p (fun t => { t with good := 0 })

/-- Whether a port is set to what R339 supports. -/
def State.tdmSupported (s : State) (p : Nat) : Bool :=
  let c := s.fget SPX_TDMp_CFG_SLOT_BITS p
  let r := s.fget SPX_TDMp_CFG_RATE_HZ p
  c != 3 && s.fget SPX_TDMp_CFG_SAMPLE_BITS p != 3 && s.tdmSample p ≤ tdmBits c && 8000 ≤ r && r ≤ 192000

/-- The samples of a frame of a port, by slot, out of the `n` bits of its data line from the frame's sync on, the earliest most significant:
left-justified in slots that begin FS_DELAY bit clocks after the sync (R339). -/
def State.tdmSamples (s : State) (p n line : Nat) : List Nat :=
  let b := s.tdmSample p
  (List.range (s.tdmSlots p)).map (fun k =>
    bits line (n - (s.fget SPX_TDMp_CFG_FS_DELAY p + k * tdmBits (s.fget SPX_TDMp_CFG_SLOT_BITS p) + b)) b)

/-- The samples of a frame, from the edge of the bit clock that EDGE names; free values on a port that is set to what R339 does not support
[DESIGN CHOICE, log entry 88]. -/
def State.tdmTake (s : State) (p n onRise onFall : Nat) : State × List Nat :=
  if s.tdmSupported p then (s, s.tdmSamples p n (if s.fbit SPX_TDMp_CFG_EDGE p then onFall else onRise))
  else
    let x := s.free 256
    (x.2, (List.range 8).map (fun k => bits x.1 (32 * k) (s.tdmSample p)))

/-- TDM_FRAME_SYNC (R340): `bitsSeen` bit clocks since the sync before; an edge against FS_POL is none (R339). -/
def execTdmFrameSync (p bitsSeen : Nat) (l : TdmLines) (s : State) : Result :=
  let t :=
    if !(s.tdmPort p).synced then s
    else if bitsSeen = s.tdmSlots p * tdmBits (s.fget SPX_TDMp_CFG_SLOT_BITS p) then
      let x := s.tdmTake p (bitsSeen + 1) l.onRise l.onFall
      x.1.goodSync p x.2
    else s.badSync p
  unit (p < 2) (due (s.up && s.fbit SPX_TDMp_CFG_ENABLE p && l.rising != s.fbit SPX_TDMp_CFG_FS_POL p) s
    (t.modTdm p (fun x => { x with synced := true, sec := s.tim.sec, ns := s.tim.ns })))

/-- TDM_RATE_MEASURE (R340). -/
def execTdmRateMeasure (p hz : Nat) (s : State) : Result :=
  let r := s.fget SPX_TDMp_CFG_RATE_HZ p
  let bad := decide (r < 256 * (hz - r + (r - hz)))
  let t := (s.fset SPX_TDMp_STATUS_MEASURED_HZ hz p).fflag SPX_TDMp_STATUS_RATE_ERR bad p
  unit (p < 2) (due (s.up && s.fbit SPX_TDMp_CFG_ENABLE p) s (
    if bad then ((t.fset SPX_STATUS_SYNC_ERR_SEEN 1).fset SPX_TDMp_STATUS_LOCKED 0 p).modTdm p (fun x => { x with good := 0 }) else t))

/-- A write of SPX_TDMp_CFG (R358): the port starts unaligned, and LOCKED with it. -/
def tdmCfgEffect (p value : Nat) (s : State) : State × Nat :=
  let was := s.fbit SPX_TDMp_CFG_ENABLE p
  if was && bitAt value 0 then (s, stBusError)
  else
    let s := s.plainWrite (regAddr SPX_TDMp_CFG p) value
    ((s.modTdm p (fun _ => TdmPort.empty)).fset SPX_TDMp_STATUS_LOCKED 0 p, stOK)

/-! ### The arithmetic of a frame (R343 to R345) -/

/-- π in units of 2^-248. -/
def piFix : Nat := 0x3_243F6A8885A308D313198A2E03707344A4093822299F31D0082EFA98EC4E6C

/-- Terms of the cosine (first term 1) or sine (first term θ) series at θ, in units of 2^-248. -/
def trigSeries (theta : Int) : Nat → Int → Nat → Int
  | 0, _, _ => 0
  | n + 1, term, k => term + trigSeries theta n (-(term * theta / 2 ^ 248 * theta / 2 ^ 248 / ((k + 1) * (k + 2) : Nat))) (k + 2)

/-- cos and sin of 2πm/N rounded to FP32 (R343). -/
def twiddle (n m : Nat) : Nat × Nat :=
  let theta : Int := (2 * piFix * m / n : Nat)
  let q : Nat := 4 * m
  let c : Nat := if q = n then 0 else fpOf ⟨trigSeries theta 60 (2 ^ 248) 0, -248⟩
  let s : Nat := if 2 * m = n ∨ m = 0 then 0 else if q = n then fpOf ⟨1, 0⟩ else fpOf ⟨trigSeries theta 60 theta 1, -248⟩
  (c, s)

/-- A complex number of FP32 patterns. -/
abbrev Cx := Nat × Nat

/-- Multiplication by the twiddle factor cos − i sin, as two products and one sum or difference each [DEDUCED, log entry 52]. -/
def cxTwiddle (b : Cx) (w : Nat × Nat) : Cx :=
  (fpAdd (fpMul b.1 w.1) (fpMul b.2 w.2), fpSub (fpMul b.2 w.1) (fpMul b.1 w.2))

/-- Index with its low `l` bits reversed. -/
def bitRev : Nat → Nat → Nat
  | 0, _ => 0
  | l + 1, i => i % 2 * 2 ^ l + bitRev l (i / 2)

/-- Stage `st` of a decimation-in-time transform of size `n` [DEDUCED, log entry 52]. -/
def fftStage (n st : Nat) (x : List Cx) : List Cx :=
  let h := 2 ^ st
  (List.range n).map (fun i =>
    let j := i % (2 * h)
    let k := j % h
    let a := x.getD (i - j + k) (0, 0)
    let t := cxTwiddle (x.getD (i - j + k + h) (0, 0)) (twiddle n (k * (n / (2 * h))))
    if j < h then (fpAdd a.1 t.1, fpAdd a.2 t.2) else (fpSub a.1 t.1, fpSub a.2 t.2))

/-- The transform of real samples. -/
def fft (l : Nat) (x : List Nat) : List Cx :=
  let n := 2 ^ l
  (List.range l).foldl (fun y st => fftStage n st y) ((List.range n).map (fun i => (x.getD (bitRev l i) 0, 0)))

/-- Band `j` of the powers `p` (R343 step 4). -/
def SpxCfg.band (c : SpxCfg) (t : SpxStream) (p : List Nat) (j : Nat) : Nat :=
  if !c.bank then p.getD j 0
  else
    let e := t.bank.getD j (0, 0, 0)
    let xs := (List.range e.2.1).map (fun i => fpMul (t.weights.getD (e.2.2 + i) 0) (p.getD (e.1 + i) 0))
    (xs.drop 1).foldl fpAdd (xs.headD 0)

/-- The first `n` bits of the logarithm to base 2 of `x` × 2^-96, from 1 up to 2, by repeated squaring. -/
def log2Bits : Nat → Nat → Nat → Nat
  | 0, _, acc => acc
  | n + 1, x, acc =>
    let y := x * x / 2 ^ 96
    if 2 ^ 97 ≤ y then log2Bits n (y / 2) (2 * acc + 1) else log2Bits n y (2 * acc)

/-- The mantissa logarithm of 1 + `f` × 2^-23 in units of 2^-64: the quadratic of its segment, which lies within 2^-20 of the logarithm
(R345) [DESIGN CHOICE, log entry 49]. -/
def romMantissa (f : Nat) : Int :=
  let k := Config.romLogCoef (BitVec.ofNat 10 (f / 2 ^ 13))
  let t : Int := (f % 2 ^ 13 : Nat)
  let l : Int := (log2Bits 64 ((2 ^ 23 + f) * 2 ^ 73) 0 : Nat)
  max (l - 2 ^ 44 + 2) (min (l + 2 ^ 44 - 1) (k.1 + k.2.1 * t + k.2.2 * t * t))

/-- The logarithm to base 2 of an FP32 pattern, as mantissa and exponent of 2: its exponent and the mantissa's logarithm (R345). -/
def spxLog2 (e : Nat) : Int × Int :=
  let d := (fp32 e).dy
  let m := d.m.toNat
  if !isFinite32 e || m = 0 then Config.romLog2 e
  else
    let k := Nat.log2 m
    ((d.e + k) * 2 ^ 64 + romMantissa (m * 2 ^ (23 - k) - 2 ^ 23), -64)

/-- The stored form of an output (R345). -/
def SpxCfg.store (c : SpxCfg) (e : Nat) : Nat :=
  let r := spxLog2 (fpMax e c.floor)
  let v := (fp32 c.scale).dy.mul ⟨r.1, r.2⟩
  if c.q8 then wrapInt 8 (toCode fmtQ8 (v.shift (-(sext 5 c.exp))) c.z).1 else fp32Round v

/-- The outputs of a frame from its N samples (R343). -/
def SpxCfg.feature (c : SpxCfg) (t : SpxStream) (x : List Nat) : List Nat :=
  let y := (List.range c.n).map (fun i => fpMul (x.getD i 0) (t.window.getD i 0))
  let f := fft c.l y
  let p := (List.range (c.n / 2 + 1)).map (fun b =>
    let v := f.getD b (0, 0)
    fpAdd (fpMul v.1 v.1) (fpMul v.2 v.2))
  (List.range c.bands).map (fun j => c.store (c.band t p j))

/-! ### Buffers (R346, R347) -/

/-- Bytes of a buffer's data. -/
def SpxCfg.dataBytes (c : SpxCfg) : Nat :=
  if c.q8 then ceilDiv c.frames 32 * ceilDiv c.bands 32 * 1056 else 4 * c.frames * c.bands

/-- STATUS of a buffer (R346, R347). -/
def SpxBuf.status (b : SpxBuf) : Nat := if b.expired then stBudgetExpired else if b.reason = 0 then stOK else stVoidInput

/-- The header. -/
def SpxCfg.header (c : SpxCfg) (f : Nat) (b : SpxBuf) : List Byte :=
  leBytes 4 b.first ++ leBytes 1 b.status ++ leBytes 1 b.reason ++ leBytes 1 f ++
  leBytes 1 (b2n c.q8) ++ leBytes 2 c.frames ++ leBytes 2 c.bands ++ leBytes 6 b.sec ++ leBytes 4 b.ns ++ List.replicate 10 0 ++
  leBytes 32 b.lostMap ++ List.replicate 64 0

/-- The data of a buffer; frames it does not hold are free. -/
def SpxCfg.dataOf (c : SpxCfg) (b : SpxBuf) (free : Nat) : List Byte :=
  let at_ (k j : Nat) : Nat :=
    match b.frames[k]? with
    | some l => l.getD j 0
    | none => bits free (32 * (k * c.bands + j)) 32
  if c.q8 then
    let cb := ceilDiv c.bands 32
    (List.range (ceilDiv c.frames 32 * cb)).flatMap (fun i =>
      List.replicate 32 (BitVec.ofNat 8 c.exp) ++ (List.range 32).flatMap (fun ch => (List.range 32).map (fun q =>
        let k := 32 * (i / cb) + q
        let j := 32 * (i % cb) + ch
        if k < c.frames ∧ j < c.bands then BitVec.ofNat 8 (at_ k j) else 0)))
  else (List.range (c.frames * c.bands)).flatMap (fun i => leBytes 4 (at_ (i / c.bands) (i % c.bands)))

/-- Puts the oldest buffer of a stream, if OUT_WAY takes it. -/
def State.spxPut (s : State) (f : Nat) : State :=
  match (s.spxStream f).outQ with
  | [] => s
  | b :: bs =>
    let r := s.wayPut (s.fget SPX_Ff_WAY_OUT_WAY f) (b.handle.getD (s.fget SPX_Ff_WAY_VOID_HANDLE f)) b.status
    if !r.2 then r.1
    else
      let s := r.1.modSpx f (fun x => { x with outQ := bs })
      if b.expired then s.fadd SPX_Ff_COUNTS_EXPIRED 1 f
      else if b.handle.isNone then s.fadd SPX_Ff_COUNTS_NO_BUFFER 1 f
      else if b.reason = 0 then s.fadd SPX_Ff_COUNTS_OK 1 f
      else s.fadd SPX_Ff_COUNTS_VOID 1 f

/-- Writes a buffer that is complete, or that a disable has cut short, and queues it. -/
def State.spxClose (s : State) (f : Nat) (b : SpxBuf) : State :=
  let c := s.spxCfg f
  let r := if b.frames.length = c.frames then (0, s) else s.free (32 * c.frames * c.bands)
  let s := match b.handle with
    | none => r.2
    | some h => (r.2.bufWrite spxClass h 128 (c.dataOf b r.1)).bufWrite spxClass h 0 (c.header f b)
  let s := if b.reason = 0 then s else s.fset SPX_Ff_STATUS_LAST_VOID_REASON b.reason f
  s.modSpx f (fun x => { x with cur := none, outQ := x.outQ ++ [b] })

/-- The buffer a frame belongs to: the one being filled, or one taken now. -/
def State.spxBuffer (s : State) (f k : Nat) (t0 : SpxSample) : State × SpxBuf :=
  match (s.spxStream f).cur with
  | some b => (s, b)
  | none =>
    let r := s.wayTake (s.fget SPX_Ff_WAY_FREE_WAY f)
    (r.1, ⟨k, r.2.map (·.handle), [], 0, 0, t0.sec, t0.ns, 0, false⟩)

/-- The first of some reasons that is one. -/
def firstReason (l : List Nat) : Nat := (l.find? (· != 0)).getD 0

/-- Computes the next frame of a stream. Its buffer keeps the first reason that arose: that of a lost sample, an error as it is computed, or
no buffer once it is complete (R347). -/
def State.spxFrame (s : State) (f : Nat) : State :=
  let c := s.spxCfg f
  let t := s.spxStream f
  let xs := slice t.samples (t.next * c.hop - t.base) c.n
  let r := s.spxBuffer f t.next (xs.headD ⟨0, 0, 0, 0, 0⟩)
  let i := r.1.injectCheck 0x018 clsU none 0 none
  let why := [firstReason (xs.map (·.lost)), if i.2 = clsU then 6 else 0]
  let lost := firstReason why ≠ 0
  let b := { r.2 with
    frames := r.2.frames ++ [c.feature t (xs.map (·.v))]
    lostMap := r.2.lostMap + b2n (decide lost) * 2 ^ r.2.frames.length
    reason := firstReason (r.2.reason :: why ++ [if r.2.handle.isNone then 4 else 0])
    tick := xs.foldl (fun m x => max m x.tick) 0 }
  let drop := min ((t.next + 1) * c.hop - t.base) t.samples.length
  let s := i.1.modSpx f (fun x => { x with
    next := x.next + 1, samples := x.samples.drop drop, base := x.base + drop, cur := some b })
  if b.frames.length = c.frames then s.spxClose f b else s

/-- Whether a stream's next frame has all its samples. -/
def State.spxReady (s : State) (f : Nat) : Bool :=
  let c := s.spxCfg f
  let t := s.spxStream f
  decide (t.next * c.hop + c.n ≤ t.base + t.samples.length)

/-- FEATURE_FRAME_COMPUTE (R343). -/
def execFeatureFrameCompute (f : Nat) (s : State) : Result :=
  unit (f < 16) (due (s.up && s.inRun && s.spxEnabled f && s.spxReady f && !s.spxStalled) s (s.spxFrame f))

/-- Arrival tick of the last sample of the buffer being filled, once it has arrived. -/
def State.spxLastTick (s : State) (f : Nat) (b : SpxBuf) : Option Nat :=
  let c := s.spxCfg f
  let t := s.spxStream f
  let i := (b.first + c.frames - 1) * c.hop + c.n - 1
  if i < t.base then none else (t.samples[i - t.base]?).map (·.tick)

/-- Abandons a buffer: writes of it that wait are dropped, its data are undefined, its header says so (R346, R347). -/
def State.spxAbandon (s : State) (f : Nat) (b : SpxBuf) : State :=
  let size := (s.spxCfg f).dataBytes
  let r := s.free (8 * size)
  let s := match b.handle with
    | none => r.2
    | some h =>
      let t := r.2.dropWrites spxClass (dramAddr h) (dramAddr h + 128 + size)
      let u := if isDram h then t.dramWrite (dramAddr h + 128) ((leBytes size r.1).take (dieEnd (dramAddr h) - (dramAddr h + 128))) else t
      u.bufWrite spxClass h 0 ((s.spxCfg f).header f { b with expired := true })
  s.fset SPX_STATUS_EXPIRED_SEEN 1

/-- Whether more than BUDGET_US have passed since a tick (R347). -/
def State.spxPast (s : State) (f t : Nat) : Bool :=
  s.fget SPX_Ff_BUDGET_BUDGET_US f != 0 && decide (t + usTicks (s.fget SPX_Ff_BUDGET_BUDGET_US f) < s.refTick)

/-- Whether a buffer that waits for its put has expired. -/
def State.spxLate (s : State) (f : Nat) (b : SpxBuf) : Bool := s.spxPast f b.tick && !b.expired && b.reason != 5

/-- The first waiting buffer past its budget, of number `i`, is abandoned; its entry is put at once unless others stand before it. -/
def State.spxExpireWaiting (s : State) (f i : Nat) (b : SpxBuf) : State :=
  let s := (s.spxAbandon f b).modSpx f (fun x => { x with outQ := x.outQ.set i { b with expired := true } })
  if i = 0 then s.spxPut f else s

/-- The buffer of the next frames of a stream is abandoned before it is complete. -/
def State.spxExpireOpen (s : State) (f : Nat) (b : SpxBuf) : State :=
  let s := (s.spxAbandon f b).modSpx f (fun x =>
    let n := b.first + (s.spxCfg f).frames
    let d := min (n * (s.spxCfg f).hop - x.base) x.samples.length
    { x with cur := none, outQ := x.outQ ++ [{ b with expired := true }], next := n, samples := x.samples.drop d, base := x.base + d })
  if (s.spxStream f).outQ.length = 1 then s.spxPut f else s

/-- SPX_BUFFER_PUT (R347): once the oldest buffer's last write is visible and OUT_WAY has room; past its budget it has expired. -/
def execSpxBufferPut (f : Nat) (s : State) : Result :=
  unit (f < 16) (match (s.spxStream f).outQ with
    | [] => .next s
    | b :: _ => due (s.up && (s.heldTx spxClass == 0 || b.expired) && !s.wayFull (s.fget SPX_Ff_WAY_OUT_WAY f)) s
        (if s.spxLate f b then s.spxExpireWaiting f 0 b else s.spxPut f))

/-- SPX_BUDGET_EXPIRY (R347): the oldest buffer past its budget: one that waits for its put, the one being filled, or one none of whose
frames has been computed, for which a buffer is taken now [DEDUCED, log entry 52]. -/
def execSpxBudgetExpiry (f : Nat) (s : State) : Result :=
  let t := s.spxStream f
  let r := s.spxBuffer f t.next (t.samples.getD (t.next * (s.spxCfg f).hop - t.base) ⟨0, 0, 0, 0, 0⟩)
  unit (f < 16) (match t.outQ.findIdx? (s.spxLate f) with
    | some i => due s.up s (s.spxExpireWaiting f i (t.outQ.getD i r.2))
    | none => due (s.up && s.spxEnabled f && (s.spxLastTick f r.2).elim false (s.spxPast f)) s (r.1.spxExpireOpen f r.2))

/-! ### Enable and disable (R342, R358) -/

/-- Entry `j` of a bank table's bytes: START, COUNT, W_OFF. -/
def bankEntry (d : List Byte) (j : Nat) : Nat × Nat × Nat := (pbytes d (8 * j) 2, pbytes d (8 * j + 2) 2, pbytes d (8 * j + 4) 4)

/-- Weights that a bank's entries reach [DEDUCED, log entry 52]. -/
def bankWeights (l : List (Nat × Nat × Nat)) : Nat := l.foldl (fun m e => if e.2.1 = 0 then m else max m (e.2.2 + e.2.1)) 0

/-- Bytes of table memory of a stream. -/
def SpxCfg.tableBytes (c : SpxCfg) (weights : Nat) : Nat := 4 * c.n + (if c.bank then 8 * c.bands + 4 * weights else 0)

/-- The load of the enabled streams and one more, as a fraction (R342 reason 5). -/
def State.spxLoad (s : State) (f : Nat) : Nat × Nat :=
  ((List.range 16).filter (fun g => g == f || s.spxEnabled g)).foldl (fun a g =>
    let c := s.spxCfg g
    (a.1 * c.hop + s.fget SPX_TDMp_CFG_RATE_HZ c.port * c.n * c.l * a.2, a.2 * c.hop)) (0, 1)

/-- The tables a stream's registers name, as read: window, bank entries, weights. -/
def State.spxTables (s : State) (f : Nat) : State × List Nat × List (Nat × Nat × Nat) × List Nat :=
  let c := s.spxCfg f
  let w := s.bufRead spxClass (s.fget SPX_Ff_TABLES_WINDOW f) 0 (4 * c.n)
  let win := (List.range c.n).map (fun i => pbytes w.2 (4 * i) 4)
  if !c.bank then (w.1, win, [], [])
  else
    let h := s.fget SPX_Ff_TABLES_BANK_TABLE f
    let b := w.1.bufRead spxClass h 0 (8 * c.bands)
    let es := (List.range c.bands).map (bankEntry b.2)
    let k := min (bankWeights es) 65536
    let v := b.1.bufRead spxClass h (8 * c.bands) (4 * k)
    (v.1, win, es, (List.range k).map (fun i => pbytes v.2 (4 * i) 4))

/-- The row of R342 that a stream fails on its registers alone, 0 for none. -/
def State.spxReason1 (s : State) (f : Nat) : Nat :=
  let c := s.spxCfg f
  if !s.fbit SPX_TDMp_CFG_ENABLE c.port ∨ s.tdmSlots c.port ≤ c.slot ∨ c.l < 6 ∨ 12 < c.l ∨ c.hop = 0 ∨ c.n < c.hop ∨ 256 < c.frames then 1
  else if 512 < c.bands ∨ (!c.bank ∧ c.n / 2 + 1 < c.bands) then 2
  else 0

/-- The row of R342 that a stream fails once its tables have been read, 0 for none. -/
def State.spxReason2 (s : State) (f : Nat) (win : List Nat) (es : List (Nat × Nat × Nat)) (ws : List Nat) : Nat :=
  let c := s.spxCfg f
  let others := ((List.range 16).filter (fun g => g != f && s.spxEnabled g)).map (fun g =>
    (s.spxCfg g).tableBytes (s.spxStream g).weights.length)
  let ld := s.spxLoad f
  if !win.all isFinite32 || es.any (fun e => decide (c.n / 2 + 1 < e.1 + e.2.1)) || 65536 < bankWeights es || !ws.all isFinite32 then 3
  else if 262144 < others.sum + c.tableBytes ws.length then 4
  else if 2_000_000_000 * ld.2 < ld.1 then 5
  else if !isFinite32 c.scale || bits c.scale 0 31 == 0 || !isFinite32 c.floor || !fpLt 0 c.floor then 6
  else if !(s.isWay (s.fget SPX_Ff_WAY_FREE_WAY f) && s.isWay (s.fget SPX_Ff_WAY_OUT_WAY f)) then 7
  else 0

/-- A stream's enable fails. -/
def State.spxReject (s : State) (f r : Nat) : State :=
  let s := (s.fset SPX_Ff_CFG_ENABLE 0 f).fset SPX_STATUS_REJECT_SEEN 1
  ((s.fset SPX_Ff_STATUS_REJECT_SEEN 1 f).fset SPX_Ff_STATUS_REJECT_STATUS stLimitReject f).fset SPX_Ff_STATUS_REJECT_REASON r f

/-- ENABLE turns 1. -/
def State.spxEnable (s : State) (f : Nat) : State :=
  let r := s.spxReason1 f
  if r ≠ 0 then s.spxReject f r
  else
    let t := s.spxTables f
    let r := s.spxReason2 f t.2.1 t.2.2.1 t.2.2.2
    if r ≠ 0 then t.1.spxReject f r
    else
      let c := s.spxCfg f
      let s := (t.1.fset SPX_Ff_STATUS_ENABLED 1 f).fset SPX_Ff_STATUS_BUF_B (128 + c.dataBytes) f
      s.modSpx f (fun x => { x with
        samples := [], base := 0, window := t.2.1, bank := t.2.2.1, weights := t.2.2.2, next := 0, cur := none })

/-- Ends the buffer being filled as on disable (reason 5) [DEDUCED, log entry 52]. -/
def State.spxCut (s : State) (f : Nat) : State :=
  match (s.spxStream f).cur with
  | none => s
  | some b => s.spxClose f { b with reason := if b.reason = 0 then 5 else b.reason }

/-- A write of SPX_Ff_CFG (R342, R347, R358). -/
def spxCfgEffect (f value : Nat) (s : State) : State × Nat :=
  let was := s.spxEnabled f
  let old := (s.rword SPX_Ff_CFG f).toNat
  if was && bits value 1 53 != bits old 1 53 then (s, stBusError)
  else
    let s := s.plainWrite (regAddr SPX_Ff_CFG f) value
    (if bitAt value 0 && !was then s.spxEnable f
     else if !bitAt value 0 && was then (s.spxCut f).fset SPX_Ff_STATUS_ENABLED 0 f
     else s, stOK)

/-- A write of another configuration register of a stream (R358). -/
def spxRegEffect (f addr value : Nat) (s : State) : State × Nat :=
  if s.spxEnabled f then (s, stBusError) else (s.plainWrite addr value, stOK)

/-- SPX_STREAM_ENABLE (R342) [DEDUCED, log entry 28]. -/
def execSpxStreamEnable (src f value : Nat) (s : State) : Result :=
  regCmd (f < 16) s src (regAddr SPX_Ff_CFG f) 8 (putBits (wrap 64 value) 0 1 1) (spxCfgEffect f (putBits (wrap 64 value) 0 1 1))

/-- SPX_STREAM_DISABLE (R347) [DEDUCED, log entry 28]. -/
def execSpxStreamDisable (src f value : Nat) (s : State) : Result :=
  regCmd (f < 16) s src (regAddr SPX_Ff_CFG f) 8 (putBits (wrap 64 value) 0 1 0) (spxCfgEffect f (putBits (wrap 64 value) 0 1 0))

/-- An uncorrectable error in SPX's sample or table memory that the model's own checks have not asserted: the next frame of an enabled stream
is lost with reason 6, a free value says whose (R347) [DESIGN CHOICE, log entry 86]. -/
def State.spxError (s : State) : State :=
  let l := (List.range 16).filter (fun f => s.spxEnabled f && (s.spxStream f).samples != [])
  if l = [] then s
  else
    let x := s.free 4
    let f := l.getD (x.1 % l.length) 0
    let c := s.spxCfg f
    x.2.modSpx f (fun t => { t with samples := modAt t.samples (t.next * c.hop - t.base) (fun y => if y.lost = 0 then { y with lost := 6 } else y) })

/-- What the fold does to the feature streams (R438). -/
def State.foldSpx (s : State) : State := (List.range 16).foldl (fun s f => s.spxCut f) s

end Sys2Proof.Machine
end

