-- ==== Sys2Proof/Machine/Codec.lean ====
section
/-! DEFINITION. The bytes that the codec's encoders write: JPEG with its markers and Annex K codes (R357), HEVC with its parameter sets
and slices (R348, R356). The transforms themselves are constants of Config [DESIGN CHOICE, log entry 49]. -/

namespace Sys2Proof.Machine

/-- Byte `i` of a list, as a number. -/
def byteAt (d : List Byte) (i : Nat) : Nat := (d.getD i 0).toNat

/-- The bits of a number, the highest first. -/
def beBits (n v : Nat) : List Bool := (List.range n).map (fun i => v.testBit (n - 1 - i))

/-! ### JPEG (R348, R350, R357) -/

/-- A Huffman table of Annex K: how many codes of each length from 1 on there are, and the symbols in the order of their codes. -/
structure HuffTable where
  counts : List Nat
  symbols : List Nat
  deriving DecidableEq, Repr

/-- The symbols of run `r` and sizes from `lo` to 10 for each of `rs`. -/
def huffRuns (rs : List Nat) (lo : Nat) : List Nat := rs.flatMap (fun r => (List.range (11 - lo)).map (fun i => 16 * r + lo + i))

/-- Annex K's tables by class (0 DC, 1 AC) and component (0 luma, 1 chroma) [PRESUMED, log entry 82]. -/
def annexK : Nat → Nat → HuffTable
  | 0, 0 => ⟨[0, 1, 5, 1, 1, 1, 1, 1, 1, 0, 0, 0, 0, 0, 0, 0], List.range 12⟩
  | 0, _ => ⟨[0, 3, 1, 1, 1, 1, 1, 1, 1, 1, 1, 0, 0, 0, 0, 0], List.range 12⟩
  | _, 0 => ⟨[0, 2, 1, 3, 3, 2, 4, 3, 5, 5, 4, 4, 0, 0, 1, 125],
      [0x01, 0x02, 0x03, 0x00, 0x04, 0x11, 0x05, 0x12, 0x21, 0x31, 0x41, 0x06, 0x13, 0x51, 0x61, 0x07, 0x22, 0x71, 0x14, 0x32, 0x81,
        0x91, 0xA1, 0x08, 0x23, 0x42, 0xB1, 0xC1, 0x15, 0x52, 0xD1, 0xF0, 0x24, 0x33, 0x62, 0x72, 0x82, 0x09, 0x0A] ++
      huffRuns [1] 6 ++ huffRuns [2] 5 ++ huffRuns [3] 4 ++ huffRuns [4, 5, 6, 7, 8] 3 ++ huffRuns [9, 10, 11, 12, 13] 2 ++ huffRuns [14, 15] 1⟩
  | _, _ => ⟨[0, 2, 1, 2, 4, 4, 3, 4, 7, 5, 4, 4, 0, 1, 2, 119],
      [0x00, 0x01, 0x02, 0x03, 0x11, 0x04, 0x05, 0x21, 0x31, 0x06, 0x12, 0x41, 0x51, 0x07, 0x61, 0x71, 0x13, 0x22, 0x32, 0x81, 0x08,
        0x14, 0x42, 0x91, 0xA1, 0xB1, 0xC1, 0x09, 0x23, 0x33, 0x52, 0xF0, 0x15, 0x62, 0x72, 0xD1, 0x0A, 0x16, 0x24, 0x34, 0xE1, 0x25,
        0xF1, 0x17, 0x18, 0x19, 0x1A] ++
      huffRuns [2] 6 ++ huffRuns [3] 5 ++ huffRuns [4, 5, 6, 7] 3 ++ huffRuns [8, 9, 10, 11, 12, 13, 14, 15] 2⟩

/-- The codes of a table: symbol, length and value, given out in order of length. -/
def HuffTable.codes (t : HuffTable) : List (Nat × Nat × Nat) :=
  let lens := (t.counts.zipIdx).flatMap (fun x => List.replicate x.1 (x.2 + 1))
  ((t.symbols.zip lens).foldl (fun (acc : List (Nat × Nat × Nat) × Nat × Nat) x =>
    let v := acc.2.1 * 2 ^ (x.2 - acc.2.2)
    (acc.1 ++ [(x.1, x.2, v)], v + 1, x.2)) ([], 0, 0)).1

/-- The code of a symbol, as bits. -/
def HuffTable.code (t : HuffTable) (sym : Nat) : List Bool :=
  match t.codes.find? (fun x => x.1 == sym) with
  | some x => beBits x.2.1 x.2.2
  | none => []

/-- The size category of a value. -/
def jpegSize (v : Int) : Nat := if v = 0 then 0 else Nat.log2 v.natAbs + 1

/-- The extra bits of a value of a size: a negative one less one. -/
def jpegExtra (n : Nat) (v : Int) : List Bool := beBits n (if 0 ≤ v then v.toNat else (v + 2 ^ n - 1).toNat)

/-- The AC coefficients of a block from `run` zeros on. -/
def jpegAc (t : HuffTable) : Nat → List Int → List Bool
  | _, [] => []
  | run, v :: l =>
    if (v :: l).all (· == 0) then t.code 0
    else if v = 0 then (if run = 15 then t.code 0xF0 ++ jpegAc t 0 l else jpegAc t (run + 1) l)
    else t.code (16 * run + jpegSize v) ++ jpegExtra (jpegSize v) v ++ jpegAc t 0 l

/-- The bits of a block's 64 coefficients in zigzag order under the component's tables, after the DC value `dc`. -/
def jpegBlock (k : Nat) (dc : Int) (x : List Int) : List Bool :=
  let d := x.getD 0 0 - dc
  (annexK 0 k).code (jpegSize d) ++ jpegExtra (jpegSize d) d ++ jpegAc (annexK 1 k) 0 ((x.drop 1).take 63)

/-- Bits as entropy-coded bytes: the last one filled with ones, a zero byte after each 0xFF. -/
def jpegPack (x : List Bool) : List Byte :=
  (List.range (ceilDiv x.length 8)).flatMap (fun i =>
    let v := (List.range 8).foldl (fun v j => 2 * v + b2n (x.getD (8 * i + j) true)) 0
    if v = 255 then [0xFF, 0] else [BitVec.ofNat 8 v])

/-- The parts of an image of format 0 that JPEG codes. -/
structure JpegImage where
  w : Nat
  h : Nat
  grey : Bool
  data : List Byte

/-- The samples of the 8 × 8 block at column `bx` and row `by_` of a component (0 Y, 1 Cb, 2 Cr), those that the picture holds. -/
def JpegImage.block (m : JpegImage) (k bx by_ : Nat) : List (List Nat) :=
  let p := pitch32 m.w
  let ww := if k = 0 then m.w else m.w / 2
  let hh := if k = 0 then m.h else m.h / 2
  (List.range (min 8 (hh - 8 * by_))).map (fun r => (List.range (min 8 (ww - 8 * bx))).map (fun c =>
    let y := 8 * by_ + r
    let x := 8 * bx + c
    byteAt m.data (if k = 0 then p * y + x else p * (m.h + y) + 2 * x + (k - 1))))

/-- The blocks of MCU `i`, in order: component and coefficients. -/
def JpegImage.mcu (m : JpegImage) (luma chroma : List Byte) (i : Nat) : List (Nat × List Int) :=
  let n := ceilDiv m.w (if m.grey then 8 else 16)
  let x := i % n
  let y := i / n
  let cf (k bx by_ : Nat) : Nat × List Int := (k, Config.jpegDct (m.block k bx by_) (if k = 0 then luma else chroma))
  if m.grey then [cf 0 x y]
  else [cf 0 (2 * x) (2 * y), cf 0 (2 * x + 1) (2 * y), cf 0 (2 * x) (2 * y + 1), cf 0 (2 * x + 1) (2 * y + 1), cf 1 x y, cf 2 x y]

/-- The bits of the MCUs of a restart interval; DC prediction starts at 0. -/
def jpegInterval (l : List (Nat × List Int)) : List Bool :=
  (l.foldl (fun (acc : List Bool × List Int) b =>
    (acc.1 ++ jpegBlock (min b.1 1) (acc.2.getD b.1 0) b.2, acc.2.set b.1 (b.2.getD 0 0))) ([], [0, 0, 0])).1

/-- The entropy-coded data: an RSTm marker between restart intervals. -/
def JpegImage.scan (m : JpegImage) (luma chroma : List Byte) (restart : Nat) : List Byte :=
  let e := if m.grey then 8 else 16
  let n := ceilDiv m.w e * ceilDiv m.h e
  let ri := if restart = 0 then n else restart
  (List.range (ceilDiv n ri)).flatMap (fun k =>
    (if k = 0 then [] else [0xFF, BitVec.ofNat 8 (0xD0 + (k - 1) % 8)]) ++
    jpegPack (jpegInterval ((List.range (min ri (n - ri * k))).flatMap (fun i => m.mcu luma chroma (ri * k + i)))))

/-- A marker segment. -/
def jpegSegment (marker : Byte) (d : List Byte) : List Byte := [0xFF, marker] ++ beBytes 2 (d.length + 2) ++ d

/-- The JPEG bytes of an image with a session's parameter block (R357). -/
def jpegEncode (param im : List Byte) : List Byte :=
  let grey := byteAt param 12 == 1
  let m : JpegImage := ⟨pbytes param 4 2, pbytes param 6 2, grey, im⟩
  let restart := pbytes param 16 2
  let luma := slice param 32 64
  let chroma := slice param 96 64
  let comps : List Nat := if grey then [0] else [0, 1, 2]
  let tables : List Nat := if grey then [0] else [0, 1]
  [0xFF, 0xD8] ++
  jpegSegment 0xE0 ([0x4A, 0x46, 0x49, 0x46, 0, 1, 2] ++ leBytes 5 Config.jfifDensity.toNat ++ [0, 0]) ++
  tables.flatMap (fun k => jpegSegment 0xDB (BitVec.ofNat 8 k :: (if k = 0 then luma else chroma))) ++
  jpegSegment 0xC0 ([8] ++ beBytes 2 m.h ++ beBytes 2 m.w ++ [BitVec.ofNat 8 comps.length] ++
    comps.flatMap (fun k => [BitVec.ofNat 8 (k + 1), if k = 0 ∧ !grey then 0x22 else 0x11, BitVec.ofNat 8 (min k 1)])) ++
  tables.flatMap (fun k => [0, 1].flatMap (fun c =>
    let t := annexK c k
    jpegSegment 0xC4 ([BitVec.ofNat 8 (16 * c + k)] ++ t.counts.map (BitVec.ofNat 8) ++ t.symbols.map (BitVec.ofNat 8)))) ++
  (if restart = 0 then [] else jpegSegment 0xDD (beBytes 2 restart)) ++
  jpegSegment 0xDA ([BitVec.ofNat 8 comps.length] ++
    comps.flatMap (fun k => [BitVec.ofNat 8 (k + 1), BitVec.ofNat 8 (17 * min k 1)]) ++ [0, 63, 0]) ++
  m.scan luma chroma restart ++ [0xFF, 0xD9]

/-! ### HEVC encode (R348, R350, R356) -/

/-- A payload with emulation prevention bytes, after `z` zero bytes. -/
def hevcEscape : Nat → List Byte → List Byte
  | _, [] => []
  | z, b :: l =>
    let next := if b = 0 then 1 else 0
    if z = 2 ∧ b.toNat ≤ 3 then 3 :: b :: hevcEscape next l else b :: hevcEscape (if b = 0 then z + 1 else 0) l

/-- A NAL unit of an Annex B byte stream [PRESUMED, log entry 82]. -/
def hevcNal (kind : Nat) (d : List Byte) : List Byte := [0, 0, 0, 1, BitVec.ofNat 8 (2 * kind), 1] ++ hevcEscape 0 d

/-- The SPS: Main profile, level_idc 153 (R348); the rest is the encoder's. -/
def hevcSps (param : List Byte) : List Byte :=
  [0x01, if Config.hevcHighTier then 0x21 else 0x01] ++ leBytes 10 Config.hevcCompat.toNat ++ [153] ++ Config.hevcSpsRest param

/-- What codes a picture: the quantiser under CQP, and under CBR the picture target in bits as a fraction and the virtual buffer's
size, one second of the bit rate (R356). -/
def hevcRate (param : List Byte) (idr : Bool) : Config.HevcRate :=
  if byteAt param 12 = 0 then .cqp (byteAt param (if idr then 13 else 14))
  else .cbr (pbytes param 18 4 * 1000) (byteAt param 15) (pbytes param 18 4 * 1000)

/-- A picture as coded with a parameter block, after the previous picture `ref` and with the rate control at `rc`: an IDR picture has no
reference and its parameter sets stand before it; any other references the previous one (R356). -/
def hevcEncode (param : List Byte) (idr : Bool) (ref : List Byte) (rc : Nat) (im : List Byte) : List Byte × Config.HevcCoded :=
  let c := Config.hevcSlice param (hevcRate param idr) (if idr then none else some ref) rc im
  ((if idr then hevcNal 32 (Config.hevcVps param) ++ hevcNal 33 (hevcSps param) ++ hevcNal 34 (Config.hevcPps param) ++
      hevcNal (if Config.hevcIdrNlp then 20 else 19) c.slice
    else hevcNal 1 c.slice), c)

end Sys2Proof.Machine
end

