-- ==== Sys2Proof/Machine/Vcd.lean ====
section
/-! DEFINITION. The video codecs: sessions, pictures, entries in output order (R348 to R357, R359, R438). -/

namespace Sys2Proof.Machine

def State.vcdAt (s : State) (n : Nat) : VcdSession := s.vcd.getD n VcdSession.empty
def State.modVcd (s : State) (n : Nat) (g : VcdSession → VcdSession) : State := { s with vcd := modAt s.vcd n g }
def State.vcdOpen (s : State) (n : Nat) : Bool := s.fbit VCD_Sn_STATUS_IS_OPEN n

/-- VCD's ration class (R277). -/
def vcdClass : Nat := 12

/-! ### The parameter block (R349, R350) -/

def VcdSession.kind (x : VcdSession) : Nat := pbytes x.param 0 1
def VcdSession.p (x : VcdSession) (o n : Nat) : Nat := pbytes x.param o n

/-- Whether bytes `a` to `b` are all 0. -/
def zeroBytes (d : List Byte) (a b : Nat) : Bool := (slice d a (b + 1 - a)).all (· == 0)

/-- Whether the reserved bytes of a block of a kind are 0. -/
def vcdReservedOk (k : Nat) (d : List Byte) : Bool :=
  zeroBytes d 1 3 &&
  (if k = 1 then zeroBytes d 18 31 else if k = 2 then zeroBytes d 22 31
   else zeroBytes d 8 11 && zeroBytes d 13 15 && zeroBytes d 18 31)

/-- Whether W and H are in range. -/
def vcdSizeOk (k w h : Nat) : Bool :=
  if k = 3 then w % 2 == 0 && h % 2 == 0 && 16 ≤ w && w ≤ 8192 && 16 ≤ h && h ≤ 8192
  else
    (k == 1 || (w % 8 == 0 && h % 8 == 0)) && 64 ≤ w && w ≤ 8192 && 64 ≤ h && h ≤ 8192 && decide (w * h ≤ 8_912_896)

/-- Whether the other fields are in range. -/
def vcdFieldsOk (k : Nat) (d : List Byte) : Bool :=
  let f (o n : Nat) : Nat := pbytes d o n
  if k = 1 then 1 ≤ f 12 1 && f 12 1 ≤ 16 && (f 13 1 == 0 || f 13 1 == 4 || f 13 1 == 5)
  else if k = 2 then
    f 12 1 ≤ 1 && f 13 1 ≤ 51 && f 14 1 ≤ 51 && 1 ≤ f 15 1 && f 15 1 ≤ 120 && f 16 2 != 0 && 100 ≤ f 18 4 && f 18 4 ≤ 200_000
  else f 12 1 ≤ 1 && (slice d 32 128).all (· != 0)

/-- REF_B. -/
def VcdSession.refB (x : VcdSession) : Nat :=
  if x.kind = 3 then 0 else (if x.kind = 1 then x.p 12 1 else 2) * 3 * 32 * ceilDiv (x.p 4 2) 32 * x.p 6 2

/-- Bytes of the layout of an OUT_FMT at a size, with `h2` rows in place of the height rounded up to even. -/
def vcdLayout (fmt w h h2 : Nat) : Nat :=
  if fmt = 4 then h * ceilDiv w 32 * 1056 else 3 * ((if fmt = 0 then pitch32 w else pitch32 (2 * w)) * h2) / 2

/-- BUF_B. -/
def VcdSession.bufB (x : VcdSession) : Nat :=
  let w := x.p 4 2
  let h := x.p 6 2
  256 + (if x.kind = 1 then vcdLayout (x.p 13 1) w h (2 * ceilDiv h 2) else 2 * w * h)

/-- The reason for which a session fails to open, 0 for none. -/
def State.vcdReason (s : State) (n : Nat) (x : VcdSession) : Nat :=
  let k := s.fget VCD_Sn_CTRL_KIND n
  let r := x.p 8 4
  if k = 0 ∨ x.kind ≠ k ∨ !vcdReservedOk k x.param then 1
  else if !vcdSizeOk k (x.p 4 2) (x.p 6 2) then 2
  else if !vcdFieldsOk k x.param then 3
  else if !([s.fget VCD_Sn_WAY_IN_WAY n, s.fget VCD_Sn_WAY_IN_FREE_WAY n, s.fget VCD_Sn_WAY_FREE_WAY n,
      s.fget VCD_Sn_WAY_OUT_WAY n].all s.isWay) then 4
  else if k ≠ 3 ∧ (!isDram r ∨ dieEnd (dramAddr r) < dramAddr r + x.refB) then 5
  else 0

/-! ### Entries (R354) -/

/-- Status of an entry by its reason. -/
def vcdStatus (reason : Nat) : Nat := if reason = 0 then stOK else if reason = 4 then stBudgetExpired else stVoidInput

/-- Puts entries of a session while OUT_WAY takes them, at most `k`. -/
def State.vcdDrain (s : State) (n : Nat) : Nat → State
  | 0 => s
  | k + 1 =>
    match (s.vcdAt n).outQ with
    | [] => s
    | e :: es =>
      let r := s.wayPut (s.fget VCD_Sn_WAY_OUT_WAY n) e.1 e.2
      if !r.2 then r.1
      else
        let s := r.1.modVcd n (fun x => { x with outQ := es })
        let s := if e.2 = stOK then s.fadd VCD_Sn_COUNTS_OK 1 n else if e.2 = stBudgetExpired then s.fadd VCD_Sn_COUNTS_EXPIRED 1 n
          else s.fadd VCD_Sn_COUNTS_VOID 1 n
        s.vcdDrain n k

/-- Puts what can be put; a closing session whose entries are all out reads as closed [DEDUCED, log entry 53]. -/
def State.vcdPut (s : State) (n : Nat) : State :=
  let s := s.vcdDrain n (s.vcdAt n).outQ.length
  let x := s.vcdAt n
  if x.closing ∧ x.outQ = [] then
    ((s.fset VCD_Sn_STATUS_IS_OPEN 0 n).fset VCD_Sn_STATUS_WAIT_IRAP 0 n).modVcd n (fun _ => VcdSession.empty)
  else s

/-- Queues the entry of a picture. -/
def State.vcdQueue (s : State) (n : Nat) (p : VcdPic) : State :=
  let h := p.buf.getD (s.fget VCD_Sn_VOID_VOID_HANDLE n)
  s.modVcd n (fun x => { x with outQ := x.outQ ++ [(h, vcdStatus p.reason)] })

/-- Pictures whose place in output order has come, of those held. -/
def State.vcdRelease (s : State) (n : Nat) (flush : Bool) : State :=
  let x := s.vcdAt n
  (Config.hevcOutput flush x.inputs).foldl (fun s i =>
    match (s.vcdAt n).held.find? (fun p => p.seq == i) with
    | none => s
    | some p => (s.vcdQueue n p).modVcd n (fun x => { x with held := x.held.filter (fun q => q.seq != i) })) s

/-- The header (R355). -/
def VcdSession.header (x : VcdSession) (n : Nat) (p : VcdPic) (us : Nat) : List Byte :=
  leBytes 4 p.seq ++ leBytes 1 (vcdStatus p.reason) ++ leBytes 1 p.reason ++ leBytes 1 n ++
  leBytes 1 (if x.kind = 1 then x.p 13 1 else 6 + x.kind) ++ leBytes 2 p.w ++ leBytes 2 p.h ++ leBytes 1 p.depth ++
  leBytes 1 (b2n p.irap) ++ leBytes 2 0 ++ leBytes 4 (wrapInt 32 p.poc) ++ leBytes 4 p.lenB ++ leBytes 8 p.pts ++ leBytes 4 us ++
  List.replicate 220 0

/-- Whether a picture is lost as a reference: under reason 5 a decoded picture still serves as one, while an encoder codes the next picture as
IDR after any lost one (R354, R356). -/
def VcdSession.losesRef (x : VcdSession) (p : VcdPic) : Bool := p.reason != 0 && !(p.reason == 5 && x.kind == 1)

/-- Ends a picture: header, entry in its place, and its being lost. `placed` is whether its slice header gave it a place in output order
[DEDUCED, log entry 53]. -/
def State.vcdFinish (s : State) (n : Nat) (p : VcdPic) (placed flush : Bool) : State :=
  let x := s.vcdAt n
  let s := match p.buf with
    | none => s
    | some h => s.bufWrite vcdClass h 0 (x.header n p ((s.refTick - p.start) / 125))
  let s := if p.reason = 0 then s else s.fset VCD_Sn_STATUS_LAST_VOID_REASON p.reason n
  let s := s.modVcd n (fun x => { x with
    run := none, lost := if x.losesRef p then x.lost ++ [p.seq] else x.lost
    held := if placed && x.kind == 1 then x.held ++ [p] else x.held })
  let s := if placed && x.kind == 1 then s.vcdRelease n flush else (s.vcdQueue n p).vcdRelease n flush
  s.vcdPut n

/-! ### Pictures (R351 to R353, R355, R356) -/

/-- A decoded picture's payload. -/
def VcdSession.payload (x : VcdSession) (d : Config.HevcPicture) : List Byte :=
  let v (l : List Nat) (i : Nat) : Nat := l.getD i 0 * 2 ^ (16 - d.depth)
  let u (l : List Nat) (i : Nat) : Nat := v l i * x.p 16 2
  let cw := ceilDiv d.w 2
  let el (row : Nat) (e : Nat) : Nat :=
    if row < d.h then (if e < d.w then v d.y (row * d.w + e) else 0)
    else if e < 2 * cw then v (if e % 2 = 0 then d.cb else d.cr) ((row - d.h) * cw + e / 2) else 0
  let el8 (row : Nat) (e : Nat) : Nat :=
    if row < d.h then (if e < d.w then u8 (u d.y (row * d.w + e) : Nat) 65536 else 0)
    else if e < 2 * cw then u8 (u (if e % 2 = 0 then d.cb else d.cr) ((row - d.h) * cw + e / 2) : Nat) 65536 else 0
  let rows := d.h + ceilDiv d.h 2
  if x.p 13 1 = 0 then
    (List.range rows).flatMap (fun r => (List.range (pitch32 d.w)).map (fun e => BitVec.ofNat 8 (el8 r e)))
  else if x.p 13 1 = 5 then
    (List.range rows).flatMap (fun r => (List.range (pitch32 (2 * d.w) / 2)).flatMap (fun e => leBytes 2 (el r e)))
  else
    (List.range (d.h * ceilDiv d.w 32)).flatMap (fun k =>
      let y := k / ceilDiv d.w 32
      let x0 := 32 * (k % ceilDiv d.w 32)
      List.replicate 32 (BitVec.ofNat 8 (x.p 15 1 % 32)) ++ (List.range 32).flatMap (fun ch => (List.range 32).map (fun i =>
        if ch = 0 ∧ x0 + i < d.w then
          BitVec.ofNat 8 (wrapInt 8 (clampInt (-128) 127 (divRound (u d.y (y * d.w + x0 + i) : Nat) 65536 + sext 8 (x.p 14 1))))
        else 0)))

/-- Whether an SPS passes for a session (R352): profile, tier, level, chroma format, depths, width, height, DPB size. -/
def VcdSession.spsOk (x : VcdSession) (l : List Nat) : Bool :=
  let f (i : Nat) : Nat := l.getD i 0
  (f 0 == 1 || f 0 == 2) && f 1 == 0 && f 2 ≤ 153 && f 3 == 1 && 8 ≤ f 4 && f 4 ≤ 10 && 8 ≤ f 5 && f 5 ≤ 10 &&
    f 6 ≤ x.p 4 2 && f 7 ≤ x.p 6 2 && f 8 ≤ x.p 12 1

/-- A buffer for a picture [DEDUCED, log entry 53]. -/
def State.vcdBuffer (s : State) (n : Nat) : State × Option Nat :=
  let r := s.wayTake (s.fget VCD_Sn_WAY_FREE_WAY n)
  (r.1, r.2.map (·.handle))

/-- The payload area of a void picture's buffer is free [DEDUCED, log entry 53]. -/
def State.vcdScramble (s : State) (n : Nat) (p : VcdPic) : State :=
  match p.buf with
  | none => s
  | some h =>
    let k := (s.vcdAt n).bufB - 256
    let r := s.free (8 * k)
    r.2.bufWrite vcdClass h 256 (leBytes k r.1)

/-- Reads VCD's memory once for a picture: 8 under an uncorrectable error, else 0. -/
def State.vcdCheck (s : State) : State × Nat :=
  let r := s.injectCheck 0x019 clsU none 0 none
  if r.2 = 0 then (r.1, 0) else (r.1.fset VCD_STATUS_ECC_SEEN 1, if r.2 = clsU then 8 else 0)

/-- Puts a picture on a core: its payload is written, or its area left free under a reason [DEDUCED, log entry 53]. -/
def State.vcdRun (s : State) (n : Nat) (p : VcdPic) (data : List Byte) : State :=
  let c := s.vcdCheck
  let why := if p.reason ≠ 0 then p.reason else c.2
  let p := { p with reason := why, lenB := if why = 0 ∨ why = 5 then data.length else 0 }
  let s := if why = 0 then (p.buf.elim c.1 (fun h => c.1.bufWrite vcdClass h 256 data)) else if why = 8 ∨ why = 6 then c.1.vcdScramble n p else c.1
  s.modVcd n (fun x => { x with run := some p })

/-- The SPS check's outcome: WAIT_IRAP follows, and a rejection is recorded. -/
def State.vcdRejected (s : State) (n : Nat) : State :=
  let s := ((s.fset VCD_STATUS_REJECT_SEEN 1).fset VCD_Sn_STATUS_REJECT_SEEN 1 n).fset VCD_Sn_STATUS_WAIT_IRAP 1 n
  ((s.fset VCD_Sn_STATUS_REJECT_STATUS stLimitReject n).fset VCD_Sn_STATUS_REJECT_REASON 6 n).fadd VCD_Sn_COUNTS_REJECTED 1 n

/-- A decode session's next access unit, read: its bytes 0–31 and its Annex B bytes are taken. -/
def State.vcdDecode (s : State) (n : Nat) (hdr au : List Byte) : State :=
  let seq := (s.vcdAt n).inputs.length
  let s := s.modVcd n (fun x => { x with inputs := x.inputs ++ [au] })
  let x := s.vcdAt n
  let d := Config.hevcDecode x.inputs
  let len := pbytes hdr 0 4
  let bad := d.broken || !d.parsed || bitAt (pbytes hdr 12 1) 0 || len == 0 || decide (16_777_216 < len)
  let pass := if s.fbit VCD_Sn_STATUS_WAIT_IRAP n then d.irap && d.sps != [] && x.spsOk d.sps else d.sps == [] || x.spsOk d.sps
  let s := if pass then s.fset VCD_Sn_STATUS_WAIT_IRAP 0 n else s.vcdRejected n
  let shown := !d.parsed || (Config.hevcOutput true x.inputs).contains seq
  let b := if shown then s.vcdBuffer n else (s, none)
  let refLost := !d.irap && d.refs.any (fun i => x.lost.contains i)
  let why := if bad then 1 else if !pass then 2 else if refLost then 3 else if shown && b.2.isNone then 5 else 0
  let p : VcdPic := ⟨seq, s.refTick, pbytes hdr 4 8, b.2, why, 0, d.w, d.h, d.depth, d.irap, d.poc⟩
  if why = 0 ∨ why = 5 then b.1.vcdRun n p (x.payload d) else b.1.vcdFinish n p d.parsed false

/-- PTS_90K of an input picture (R356). -/
def pts90k (sec ns : Nat) : Nat := ((sec * 1_000_000_000 + ns) * 9 / 100_000) % 2 ^ 33

/-- Whether picture `i` of an encode session is IDR (R356). -/
def VcdSession.idr (x : VcdSession) (i : Nat) : Bool := i % x.p 16 2 == 0 || (1 ≤ i && x.lost.contains (i - 1))

/-- The latest IDR picture up to `i` [DESIGN CHOICE, log entry 49]. -/
def VcdSession.lastIdr (x : VcdSession) : Nat → Nat
  | 0 => 0
  | i + 1 => if x.idr (i + 1) then i + 1 else x.lastIdr i

/-- An encode session's next picture, read: header and image; the entry that named it had a status. An input is void under its entry's
status or its header's (R354) [DEDUCED, log entry 53]. -/
def State.vcdEncode (s : State) (n status : Nat) (hdr im : List Byte) : State :=
  let x := s.vcdAt n
  let seq := x.inputs.length
  let ok := status == stOK && pbytes hdr 4 1 == stOK && pbytes hdr 16 1 == 0 && pbytes hdr 12 2 == x.p 4 2 && pbytes hdr 14 2 == x.p 6 2
  let hevc := x.kind == 2
  let e := hevcEncode x.param (x.idr seq) x.ref x.rc im
  let data := if hevc then e.1 else jpegEncode x.param im
  let s := s.modVcd n (fun x => { x with
    inputs := x.inputs ++ [im], ref := if ok && hevc then e.2.picture else x.ref, rc := if ok && hevc then e.2.rate else x.rc })
  let b := s.vcdBuffer n
  let why := if b.2.isNone then 5 else if x.bufB - 256 < data.length then 6 else 0
  let p : VcdPic := ⟨seq, s.refTick, pts90k (pbytes hdr 18 6) (pbytes hdr 24 4), b.2, if why = 5 then 5 else if ok then why else 7, 0,
    x.p 4 2, x.p 6 2, 8, hevc && x.idr seq, if hevc then Config.hevcPoc (seq - x.lastIdr seq) else 0⟩
  if !ok then b.1.vcdFinish n p false false else b.1.vcdRun n p data

/-- Cores of a kind. -/
def vcdCores (k : Nat) : Nat := if k = 1 then 4 else if k = 2 then 2 else 1

/-- Whether a session can start a picture [DEDUCED, log entry 53]. -/
def State.vcdReady (s : State) (n : Nat) : Bool :=
  let x := s.vcdAt n
  let w := s.fget VCD_Sn_WAY_IN_WAY n
  s.vcdOpen n && !x.closing && x.run.isNone && x.outQ.length < 8 && s.qEnabled w && s.qKind w == 2 && s.qFill w != 0 &&
    !s.wayFull (s.fget VCD_Sn_WAY_IN_FREE_WAY n)

/-- Whether a core of a kind is free. -/
def State.vcdFree (s : State) (k : Nat) : Bool :=
  decide ((s.vcd.filter (fun x => x.run.isSome && x.kind == k)).length < vcdCores k)

/-- Whether a ready session's turn has come: none that is ready stands between the last one served and it. -/
def State.vcdTurn (s : State) (n : Nat) : Bool :=
  let k := (s.vcdAt n).kind
  let l := s.vcdLast.getD k 0
  let d := (n + 15 - l) % 16
  (List.range d).all (fun i =>
    let m := (l + 1 + i) % 16
    !(s.vcdReady m && (s.vcdAt m).kind == k))

/-- Starts the next picture of a session [DEDUCED, log entry 53]. -/
def State.vcdStart (s : State) (n : Nat) : State :=
  let k := (s.vcdAt n).kind
  let r := s.wayTake (s.fget VCD_Sn_WAY_IN_WAY n)
  let s := { r.1 with vcdLast := r.1.vcdLast.set k n }
  match r.2 with
  | none => s
  | some e =>
    let off := if k = 1 then 32 else 256
    let a := s.bufRead vcdClass e.handle 0 off
    let x := s.vcdAt n
    let b := a.1.bufRead vcdClass e.handle off (if k = 1 then min (pbytes a.2 0 4) 16_777_216 else vcdLayout 0 (x.p 4 2) (x.p 6 2) (x.p 6 2))
    let s := (b.1.wayPut (s.fget VCD_Sn_WAY_IN_FREE_WAY n) e.handle stOK).1
    if k = 1 then s.vcdDecode n a.2 b.2 else s.vcdEncode n e.status a.2 b.2

/-- VCD_PICTURE_START (R353). -/
def execVcdPictureStart (n : Nat) (s : State) : Result :=
  unit (n < 16) (due (s.up && s.inRun && s.vcdReady n && s.vcdFree (s.vcdAt n).kind && s.vcdTurn n) s (s.vcdStart n))

/-- Records the time a picture took. -/
def State.vcdTime (s : State) (n : Nat) (p : VcdPic) : State :=
  let s := s.modVcd n (fun x => { x with times := (8 * (s.refTick - p.start) :: x.times).take 64 })
  let l := (s.vcdAt n).times
  s.fset VCD_Sn_STATUS_AVG_NS (l.sum / l.length) n

/-- Abandons the picture on a core: its writes on hold are dropped, a reason it had before stays (R354), and it serves as no reference
whatever the reason [DEDUCED, log entry 53]. -/
def State.vcdVoid (s : State) (n reason : Nat) (p : VcdPic) (flush : Bool) : State :=
  let p := { p with reason := if p.reason ≠ 0 then p.reason else reason, lenB := 0 }
  let a := p.buf.elim 0 dramAddr
  let s := s.dropWrites vcdClass a (a + (s.vcdAt n).bufB)
  let s := if (s.vcdAt n).losesRef p then s else s.modVcd n (fun x => { x with lost := x.lost ++ [p.seq] })
  ((s.vcdScramble n p).vcdTime n p).vcdFinish n p true flush

/-- Whether a picture's BUDGET_US is past (R353). -/
def State.vcdLate (s : State) (n : Nat) (p : VcdPic) : Bool :=
  s.fget VCD_Sn_VOID_BUDGET_US n != 0 && s.elapsed p.start (usTicks (s.fget VCD_Sn_VOID_BUDGET_US n))

/-- Abandons a picture under R353. -/
def State.vcdExpire (s : State) (n : Nat) (p : VcdPic) : State := (s.fset VCD_STATUS_EXPIRED_SEEN 1).vcdVoid n 4 p false

/-- VCD_PICTURE_DONE (R354): the picture's last write is issued; past its BUDGET_US it is abandoned (R353). With no picture on a core,
entries that a full OUT_WAY refused are put again. -/
def execVcdPictureDone (n : Nat) (s : State) : Result :=
  unit (n < 16) (match (s.vcdAt n).run with
    | none =>
      due (s.up && (s.vcdAt n).outQ != [] && !s.wayFull (s.fget VCD_Sn_WAY_OUT_WAY n)) s (s.vcdPut n)
    | some p =>
      let t := if (s.vcdAt n).kind = 1 ∧ (p.reason = 0 ∨ p.reason = 5) then s.fadd VCD_LUMA_DECODED_COUNT (p.w * p.h) else s
      due (s.up && (s.vcdLate n p || s.heldTx vcdClass == 0)) s (
        if s.vcdLate n p then s.vcdExpire n p else (t.vcdTime n p).vcdFinish n p true false))

/-- VCD_PICTURE_BUDGET_EXPIRY (R353). -/
def execVcdPictureBudgetExpiry (n : Nat) (s : State) : Result :=
  unit (n < 16) (match (s.vcdAt n).run with
    | none => .next s
    | some p => due (s.up && s.vcdLate n p) s (s.vcdExpire n p))

/-- An error in VCD memory that the model's own check has not asserted: uncorrectable, it voids a picture on a core with reason 8, a free
value says which (R354, R359) [DESIGN CHOICE, log entry 86]. -/
def State.vcdError (s : State) (cls : Nat) : State :=
  let s := s.fset VCD_STATUS_ECC_SEEN 1
  let l := (List.range 16).filter (fun n => (s.vcdAt n).run.isSome)
  if cls ≠ clsU ∨ l = [] then s
  else
    let x := s.free 4
    let n := l.getD (x.1 % l.length) 0
    (x.2.vcdAt n).run.elim x.2 (fun p => x.2.vcdVoid n 8 p false)

/-! ### Open and close (R349, R354, R359) -/

/-- OPEN turns 1. -/
def State.vcdOpenSession (s : State) (n : Nat) : State :=
  let r := s.bufRead vcdClass (s.fget VCD_Sn_PARAM_HANDLE n) 0 (if s.fget VCD_Sn_CTRL_KIND n = 3 then 160 else 32)
  let x := { VcdSession.empty with param := r.2 }
  let why := r.1.vcdReason n x
  if why ≠ 0 then
    let s := ((r.1.fset VCD_Sn_CTRL_OPEN 0 n).fset VCD_STATUS_REJECT_SEEN 1).fset VCD_Sn_STATUS_REJECT_SEEN 1 n
    (s.fset VCD_Sn_STATUS_REJECT_STATUS stLimitReject n).fset VCD_Sn_STATUS_REJECT_REASON why n
  else
    let s := (r.1.modVcd n (fun _ => x)).fset VCD_Sn_STATUS_IS_OPEN 1 n
    (s.fset VCD_Sn_BUF_BUF_B x.bufB n).fset VCD_Sn_BUF_REF_B x.refB n

/-- Ends what a session has in flight: the picture on its core with reason 9, those waiting for their place in order. -/
def State.vcdFlush (s : State) (n : Nat) : State :=
  match (s.vcdAt n).run with
  | some p => s.vcdVoid n 9 p true
  | none => (s.vcdRelease n true).vcdPut n

/-- OPEN turns 0 [DEDUCED, log entry 53]. -/
def State.vcdClose (s : State) (n : Nat) : State := (s.modVcd n (fun x => { x with closing := true })).vcdFlush n

/-- A write of VCD_Sn_CTRL (R359). -/
def vcdCtrlEffect (n value : Nat) (s : State) : State × Nat :=
  let was := s.fbit VCD_Sn_CTRL_OPEN n
  if was && bits value 1 2 != s.fget VCD_Sn_CTRL_KIND n then (s, stBusError)
  else
    let value := if (s.vcdAt n).closing then putBits value 0 1 0 else value
    let s := s.plainWrite (regAddr VCD_Sn_CTRL n) value
    (if bitAt value 0 && !was then s.vcdOpenSession n else if !bitAt value 0 && was then s.vcdClose n else s, stOK)

/-- A write of PARAM, WAY or VOID of a session (R359): refused while OPEN is 1, taken while a closed session still drains. -/
def vcdRegEffect (n addr value : Nat) (s : State) : State × Nat :=
  if s.fbit VCD_Sn_CTRL_OPEN n then (s, stBusError) else (s.plainWrite addr value, stOK)

/-- VCD_SESSION_OPEN (R349) [DEDUCED, log entry 28]. -/
def execVcdSessionOpen (src n value : Nat) (s : State) : Result :=
  regCmd (n < 16) s src (regAddr VCD_Sn_CTRL n) 4 (putBits (wrap 32 value) 0 1 1) (vcdCtrlEffect n (putBits (wrap 32 value) 0 1 1))

/-- VCD_SESSION_CLOSE (R354) [DEDUCED, log entry 28]. -/
def execVcdSessionClose (src n value : Nat) (s : State) : Result :=
  regCmd (n < 16) s src (regAddr VCD_Sn_CTRL n) 4 (putBits (wrap 32 value) 0 1 0) (vcdCtrlEffect n (putBits (wrap 32 value) 0 1 0))

/-- What the fold does to the codec sessions (R438): pictures in flight end as on a close; sessions stay open. -/
def State.foldVcd (s : State) : State := (List.range 16).foldl (fun s n => if s.vcdOpen n then s.vcdFlush n else s) s

/-- VCD_STATUS.BUSY. -/
def State.vcdBusy (s : State) : Bool := s.vcd.any (fun x => x.run.isSome)

end Sys2Proof.Machine
end

