-- ==== Sys2Proof/Machine/FaultUnit.lean ====
section
/-! DEFINITION. The fault collector: reports, reactions, the fold, quiet periods and recovery (R430 to R449, R510). -/

namespace Sys2Proof.Machine

/-! ### Scopes -/

/-- Changes the FCU's state. -/
def State.modFcu (s : State) (g : Fcu → Fcu) : State := { s with fcu := g s.fcu }

/-- The fault state of a core. -/
def State.coreScope (s : State) (c : Nat) : FaultScope := s.fcu.cores.getD c FaultScope.empty

/-- Changes the fault state of the part, or of a core. -/
def State.modScope (s : State) (core : Option Nat) (g : FaultScope → FaultScope) : State :=
  match core with
  | none => s.modFcu (fun f => { f with part := g f.part })
  | some c => s.modFcu (fun f => { f with cores := modAt f.cores c g })

/-- Sets FCU_STATUS.STATE, or a core's STATE. -/
def State.setScopeState (s : State) (core : Option Nat) (v : Nat) : State :=
  match core with
  | none => s.fset FCU_STATUS_STATE v
  | some c => s.fset FCU_CORE_STATE_STATE (putBits (s.fget FCU_CORE_STATE_STATE) (2 * c) 2 v)

/-- State of a scope: 0 RUN, 1 FOLD or QUIET, 2 RECOVERING, 3 LATCHED (R442). -/
def State.scopeState (s : State) (core : Option Nat) : Nat := core.elim (s.fget FCU_STATUS_STATE) s.coreState

/-- The fault state of a scope. -/
def State.scope (s : State) (core : Option Nat) : FaultScope := core.elim s.fcu.part s.coreScope

/-- Restarts the quiet period of a scope (R440). -/
def State.restartQuiet (s : State) (core : Option Nat) : State :=
  s.modScope core (fun x => { x with quietEnd := s.refTick + msTicks (s.fget FCU_CTRL_QUIET_MS) })

/-- A scope enters its quiet state, and a quiet period begins (R440, R441, R442) [DEDUCED, log entry 66]. -/
def State.enterQuiet (s : State) (core : Option Nat) : State :=
  ((s.setScopeState core 1).modScope core (fun x => { x with quietStart := s.refTick, phase := 0 })).restartQuiet core

/-- A scope latches (R442) [DEDUCED, log entry 66]. -/
def State.latchScope (s : State) (core : Option Nat) : State :=
  let s := ((s.setScopeState core 3).modScope core (fun x => { x with phase := 0 })).fset FCU_STATUS_LATCH_SEEN 1
  { s with cmb := { s.cmb with alert := putBits s.cmb.alert 1 1 1 } }

/-- Whether a source lies in the domain of a scope's fault state (R439). -/
def inDomain (core : Option Nat) (source : Nat) : Bool :=
  match core with
  | none => srcInFoldDomain source
  | some c => srcCore source == some c

/-- The scopes: the part, then the cores. -/
def scopes : List (Option Nat) := none :: (List.range 8).map some

/-- Whether the reports of a source are masked (R439) [DEDUCED, log entry 65]. -/
def State.srcMasked (s : State) (source : Nat) : Bool := scopes.any (fun c => s.scopeState c != 0 && inDomain c source)

/-- The fault states of which a fault of a source is independent (R441). -/
def State.independentOf (s : State) (source : Nat) : List (Option Nat) :=
  if s.srcMasked source || !s.fbit FCU_REACT_id_ESCALATE source then []
  else scopes.filter (fun c => s.scopeState c != 0 && (s.scope c).source != source)

/-! ### Reports as the FCU takes them (R432 to R436) -/

/-- A report or a wire fault on the pair of class `pair`: its source, reported class, what it is attributed to. -/
structure Taken where
  source : Nat
  pair : Nat
  wire : Bool
  injected : Bool
  ref : Option DescRef
  caravanId : Nat
  core : Option Nat

/-- The reported class: a wire fault is reported class U (R432). -/
def Taken.rep (t : Taken) : Nat := if t.wire then clsU else t.pair

/-- Whether FCU_CTRL.TEST makes an injected fault count only (R448). -/
def State.testOnly (s : State) (t : Taken) : Bool := t.injected && s.fbit FCU_CTRL_TEST

/-- Whether a report escalates (R441) [DEDUCED, log entry 65]. -/
def State.escalates (s : State) (t : Taken) : Bool := !s.testOnly t && s.independentOf t.source != []

/-- The final class (R430, R441). -/
def State.finalClass (s : State) (t : Taken) : Nat := if s.escalates t then min clsF (t.rep + 1) else t.rep

/-- Reaction codes of the log (R434): 0 COUNT, 1 RELEASE, 2 RESET, 3 CORE_RECOVER, 4 FOLD [DEDUCED, log entry 65]. -/
def State.reaction (s : State) (t : Taken) : Nat :=
  let final := s.finalClass t
  let act := s.fget FCU_REACT_id_U_ACT t.source
  if s.srcMasked t.source || s.testOnly t || final == clsC then 0
  else if final = clsF ∨ (t.wire ∧ t.pair = clsF ∧ s.fbit FCU_REACT_id_WIRE_F_FOLD t.source) then 4
  else if act = actCoreRecover ∧ srcCore t.source = none then 2
  else act + 1

/-- Low 32 bits of a source's own capture register (R434). -/
def State.captureOf (s : State) (source : Nat) : Nat :=
  match srcCore source with
  | none => 0
  | some c =>
    let o := (source - 0x100) % 0x40
    let r := if 0x18 ≤ o ∧ o ≤ 0x1A then some SP_ECC_LAST else if o = 0x11 then some CORE_LOCK_FIRST_SKEW
      else if o = 0x10 then some WIN_LAST_REJECT else none
    r.elim 0 (fun r => bits (s.rword r c).toNat 0 32)

/-- The 32 bytes of a log record (R434). -/
def State.faultRecord (s : State) (t : Taken) : List Byte :=
  let final := s.finalClass t
  let f := t.ref.bind s.flight?
  let core := t.core.elim (srcCore t.source) some
  let status := if t.wire then stWireFault else f.elim 0 (·.status)
  leBytes 2 t.source ++
  leBytes 1 (t.rep + final * 4 + b2n (s.escalates t) * 16 +
    b2n t.wire * 32 + b2n t.injected * 64 + b2n (s.srcMasked t.source) * 128) ++
  leBytes 1 status ++ leBytes 1 (s.reaction t) ++ leBytes 1 (core.elim 0 (fun c => 8 + c)) ++
  leBytes 2 (t.ref.elim 0 (·.queue)) ++ leBytes 4 t.caravanId ++ leBytes 4 (s.captureOf t.source) ++ leBytes 6 s.tim.sec ++
  leBytes 4 s.tim.ns ++ leBytes 4 s.uptimeUs ++ leBytes 2 (s.fget FCU_LOG_NEXT_INDEX)

/-- Writes a record into the fault log (R434) [DEDUCED, log entry 65]. -/
def State.logFault (s : State) (t : Taken) : State :=
  let i := s.fget FCU_LOG_NEXT_INDEX
  let b := s.faultRecord t
  let s := (List.range 4).foldl (fun s w => s.rset FCU_LOG_e_Ww (BitVec.ofNat 64 (leVal (slice b (8 * w) 8))) (i % 256) w) s
  s.fset FCU_LOG_NEXT_INDEX (i + 1)

/-- Counts a report (R432, R449). -/
def State.countFault (s : State) (t : Taken) : State :=
  let final := s.finalClass t
  let s :=
    if t.wire then (s.fadd FCU_SRC_id_COUNT_WIRE 1 t.source).fset FCU_STATUS_WIRE_SEEN 1
    else s.fadd (if t.pair = clsC then FCU_SRC_id_COUNT_C else if t.pair = clsU then FCU_SRC_id_COUNT_U else FCU_SRC_id_COUNT_F) 1 t.source
  let s := s.fadd (if final = clsC then FCU_COUNT_C_COUNT else if final = clsU then FCU_COUNT_U_COUNT else FCU_COUNT_F_COUNT) 1
  let s := if s.srcMasked t.source then s.fadd FCU_COUNT_MASKED_COUNT 1 else s
  if s.escalates t then (s.fadd FCU_COUNT_ESCALATED_COUNT 1).fset FCU_STATUS_ESCALATED_SEEN 1 else s

/-! ### The fold (R437 to R441) -/

/-- The fold begins, caused by a fault whose record has log index `i` [DEDUCED, log entry 66]. -/
def State.startFold (s : State) (t : Taken) (escalated : Bool) (i : Nat) : State :=
  let s := { s with pins := { s.pins with faultN := true }, crc := { s.crc with clean := false }
                    cmb := { s.cmb with alert := putBits s.cmb.alert 0 1 1 } }
  let s := (s.fset FCU_STATUS_FOLD_SEEN 1).fadd FCU_FOLDS_COUNT 1
  let s := (s.fset FCU_FOLD_CAUSE_SOURCE t.source).fset FCU_FOLD_CAUSE_CLASS_REPORTED t.rep
  let s := ((s.fset FCU_FOLD_CAUSE_ESCALATED (b2n escalated)).fset FCU_FOLD_CAUSE_WIRE (b2n t.wire)).fset FCU_FOLD_CAUSE_LOG_INDEX i
  let s := (s.enterQuiet none).modScope none (fun x => { x with source := t.source })
  let s := (List.range 8).foldl (fun s c =>
    let s := if s.coreState c = 3 then s else (s.setScopeState (some c) 0).modScope (some c) (fun x => { x with phase := 0 })
    (s.requestStep c 3).dropHeld c) s
  ((((s.foldTime.foldIsp).foldSpx).foldVcd).foldEth t.source).foldAdm

/-- A part or core recovery is abandoned (R441). -/
def State.abandon (s : State) (core : Option Nat) : State := if s.scopeState core = 2 then s.enterQuiet core else s

/-- A caravan put at its place in queue order, behind those of its queue. -/
def insertCaravan (k : Caravan) : List Caravan → List Caravan
  | [] => [k]
  | x :: l => if k.queue < x.queue then k :: x :: l else x :: insertCaravan k l

/-- Caravans in flight on a core, or on any, in queue order (R446). -/
def State.flushable (s : State) (core : Option Nat) : List Caravan :=
  (s.drover.caravans.filter (fun k => k.core.isSome && (!s.overAt k || k.statuses.all delivers) && (core.isNone || k.core == core))).foldl (fun l k => insertCaravan k l) []

/-- The Drover ends every caravan in flight on a core, or on the part (R445, R446) [DEDUCED, log entry 66]. -/
def State.flush (s : State) (core : Option Nat) : State :=
  (s.flushable core).foldl (fun s k => s.endWhole k stFlushed) s

/-- A core fault state begins, with its flushes (R436, R443). -/
def State.enterCoreFault (s : State) (c source : Nat) : State :=
  ((s.enterQuiet (some c)).modScope (some c) (fun x => { x with source := source })).flush (some c)

/-- The chain position after a descriptor, or after the last member of the lockstep group in progress that it belongs to: nothing stalls or
stops a member within a group (R111, R123). -/
def State.afterGroup (s : State) (r : DescRef) : Nat :=
  (List.range 8).foldl (fun p c =>
    (s.coreAt c).group.elim p (fun g =>
      if g.started && g.members.any (fun m => m.ref == r) then max p (g.opener.pos + g.members.length + 1) else p)) (r.pos + 1)

/-- The reset reaction of R218 for an attributed fault: later descriptors of the caravan complete CONTAINED_FAULT, and its request
fails [DEDUCED, log entry 65]. -/
def State.resetReaction (s : State) (r : DescRef) : State :=
  if r.pos = 0 then s
  else
    (s.endCaravan r.queue r.index (s.afterGroup r) stContainedFault false).modCaravan r.queue r.index (fun k =>
      if k.ended then k else { k with statuses := k.statuses ++ [stContainedFault] })

/-- What a reaction does (R436). -/
def State.react (s : State) (t : Taken) (act : Nat) (escalated : Bool) (i : Nat) : State :=
  if act = 1 then t.ref.elim s s.releaseSignals
  else if act = 2 then t.ref.elim s s.resetReaction
  else if act = 3 then
    match srcCore t.source with
    | some c => (t.ref.elim s s.resetReaction).enterCoreFault c t.source
    | none => s
  else if act = 4 ∧ s.inRun then s.startFold t escalated i
  else s

/-- The quiet periods that a report restarts and the recoveries it abandons (R440, R441), outside R448's test. -/
def State.disturb (s : State) (t : Taken) : State :=
  let indep := s.independentOf t.source
  let unmaskedF := !s.srcMasked t.source && s.finalClass t == clsF
  scopes.foldl (fun s c =>
    let st := s.scopeState c
    if indep.contains c ∨ (c = none ∧ unmaskedF ∧ st ≠ 0) then (s.abandon c).restartQuiet c
    else if st = 1 ∧ (s.scope c).source = t.source then s.restartQuiet c
    else s) s

/-- The FCU takes a report (R432 to R441). -/
def State.takeFault (s : State) (t : Taken) : State :=
  let final := s.finalClass t
  let act := s.reaction t
  let i := s.fget FCU_LOG_NEXT_INDEX
  let u := s.countFault t
  let u := if final ≠ clsC ∨ t.wire ∨ s.fbit FCU_CTRL_LOG_C then u.logFault t else u
  let u := t.ref.elim u (fun r => u.modFlight r (fun f => { f with fclass := max f.fclass final }))
  let irq := final = clsF ∨ (final = clsU ∧ s.fbit FCU_REACT_id_IRQ_U t.source) ∨ (final = clsC ∧ s.fbit FCU_REACT_id_IRQ_C t.source)
  let u := if !s.srcMasked t.source ∧ irq then u.irq SYS_IRQ_PENDING_FAULT else u
  let u := if s.testOnly t then u else u.disturb t
  u.react t act (s.escalates t) i

/-! ### FAULT_REPORT, WIRE_FAULT, LEVEL_FAULT_REREPORT -/

/-- Whether a pair is marked broken (R432). -/
def State.pairBroken (s : State) (source pair : Nat) : Bool := bitAt (s.fget FCU_SRC_id_WIRE source) (pair - 1)

/-- The first report asserted on a pair, removed. -/
def State.popReport (s : State) (source cls : Nat) : Option (Report × State) :=
  match s.fcu.reports.find? (fun r => r.source == source && r.cls == cls) with
  | none => none
  | some r => some (r, s.modFcu (fun f => { f with reports := f.reports.erase r }))

/-- Notes the tick of a LEVEL source's report (R431). -/
def State.noteLevel (s : State) (source cls : Nat) : State :=
  s.modFcu (fun f => { f with levelAt := AMap.set f.levelAt (source * 4 + cls) s.refTick })

/-- What an error in a unit's memory does beside its report (R331, R337, R347, R354, R359): those of the line stores and write-back buffers
of ISP, of SPX and of VCD. -/
def State.memoryError (s : State) (source cls : Nat) : State :=
  if 0x010 ≤ source ∧ source < 0x018 then s.storeError (source % 4) cls
  else if source = 0x018 then (if cls = clsU then s.spxError else s)
  else if source = 0x019 then s.vcdError cls
  else s

/-- FAULT_REPORT (R432): a pair reads (1, 0). A report that the part's own checks have asserted is taken with what it is attributed to;
otherwise it comes from a checker that the model does not hold, is unattributed, and is itself an error of that memory. A broken pair is
ignored [DEDUCED, log entry 65]. -/
def execFaultReport (source cls : Nat) (s : State) : Result :=
  let q := (s.popReport source cls).getD (⟨source, cls, none, 0, none, false⟩, s.memoryError source cls)
  let t : Taken := ⟨source, cls, false, q.1.injected, q.1.ref, q.1.caravanId, q.1.core⟩
  unit (srcRaises source cls) (due (!s.clk.inReset) s (
    if s.pairBroken source cls then q.2 else (q.2.takeFault t).noteLevel source cls))

/-- WIRE_FAULT (R432, R447): a pair reads both rails alike in three samples. A test's wire fault leaves the pair unbroken. -/
def execWireFault (source pair level : Nat) (s : State) : Result :=
  let x := (source, (pair, level))
  let test := s.fcu.wireTests.contains x
  let u := if test then s.modFcu (fun f => { f with wireTests := f.wireTests.erase x }) else s
  let v := u.takeFault ⟨source, pair, true, test, none, 0, none⟩
  let mark := putBits (s.fget FCU_SRC_id_WIRE source) (pair - 1) 1 1
  unit (srcRaises source pair && level < 2) (due (!s.clk.inReset) s (
    if s.pairBroken source pair then u else if test then v else v.fset FCU_SRC_id_WIRE mark source))

/-- LEVEL_FAULT_REREPORT (R431): a LEVEL source reports again every 1 ms while its condition persists. -/
def execLevelFaultRereport (source cls : Nat) (s : State) : Result :=
  let since := (AMap.get? s.fcu.levelAt (source * 4 + cls)).getD 0
  unit (srcRaises source cls) (due (!s.clk.inReset && (srcInfo source).elim false (·.level) && s.levelPersists source cls &&
      (AMap.get? s.fcu.levelAt (source * 4 + cls)).isSome && s.elapsed since (msTicks 1)) s (
    if s.pairBroken source cls then s else (s.takeFault ⟨source, cls, false, false, none, 0, none⟩).noteLevel source cls))

/-! ### Quiet periods and recovery (R442 to R446) -/

/-- Ticks of 60 s. -/
def historyTicks : Nat := msTicks 60000

/-- QUIET_PERIOD_EXPIRY (R442). -/
def execQuietPeriodExpiry (core : Option Nat) (s : State) : Result :=
  let x := s.scope core
  let recent := x.begun.filter (fun t => decide (s.refTick < t + historyTicks))
  let begin := (s.setScopeState core 2).modScope core (fun x => { x with
    phase := if core.isSome then 2 else 1, seqStart := s.refTick, begun := s.refTick :: recent })
  unit (core.elim true (· < 8)) (due (!s.clk.inReset && s.scopeState core == 1 && x.quietEnd ≤ s.refTick) s (
    if 3 ≤ recent.length then s.latchScope core else begin))

/-- Phase 6 on one core (R443, R444): scratchpads zero, marks, stamps and curve stores gone, levels 0, work in flight gone, resident
state discarded to its area. -/
def State.initCore (s : State) (c : Nat) : State :=
  let dirty := (s.coreAt c).resident.elim false (·.dirty)
  let s := [spWSP, spASP, spPSP].foldl (fun s sp => s.zeroRows c sp 0 (s.spRowCount c sp)) s
  let s := s.modCore c (fun k => { k with
    zeroing := [], packhorse := [], corrections := [[], [], []], curves := [none, none, none, none], resident := none, group := none })
  let s := (s.fset CORE_TASK_ZEROING_ZEROING 0 c).fset VEC_STATUS_CURVES_LOADED 0 c
  let s := (s.fset CORE_LOCK_STATUS_IN_GROUP 0 c).fset CORE_LOCK_CYCLE_GROUP_CYCLE 0 c
  let s := (s.setLevel c 0 0).setLevel c 1 0
  if dirty then s.fadd QM_ROLLBACKS_COUNT 1 else s

/-- Phase 6 of a part recovery. -/
def State.initPart (s : State) : State :=
  let s := (List.range 8).foldl State.initCore s
  (List.range 2).foldl (fun s k => (s.wcClear k).fset SYS_WCk_CTRL_INVALIDATING 0 k) s

/-- Phase 2 of a part recovery (R432, R443): wires are tried again. -/
def State.clearWires (s : State) : State :=
  (List.range 4096).foldl (fun s id => if s.fget FCU_SRC_id_WIRE id = 0 then s else s.fset FCU_SRC_id_WIRE 0 id) s

/-- Phase 3 of a part recovery (R20, R443): the links are up. -/
def State.trainLinks (s : State) : State :=
  let s := (List.range 3).foldl (fun s n => s.fset D2D_Ln_STATUS_UP 1 n) s
  { s with clk := { s.clk with linkFails := [0, 0, 0] } }

/-- The links are trained, with the spare lanes that training maps (R20, R21) [DEDUCED, log entry 70]. -/
def State.trainSpares (s : State) : State :=
  (List.range 3).foldl (fun s n => (s.free 8).2.fset D2D_Ln_STATUS_SPARES_USED (s.free 8).1 n) s.trainLinks

/-- The end of a part recovery (R442, R445, R446). -/
def State.endRecovery (s : State) : State :=
  let x := s.fcu.part
  let s := (s.flush none).setScopeState none 0
  let s := (s.fset FCU_RECOVERY_LAST_QUIET_US ((x.seqStart - x.quietStart) / 125)).fset FCU_RECOVERY_LAST_SEQUENCE_US ((s.refTick - x.seqStart) / 125)
  let s := (s.fadd FCU_RECOVERIES_COUNT 1).modScope none (fun x => { x with phase := 0 })
  { s with pins := { s.pins with faultN := false } }

/-- The self-test's result in a part recovery: failed elements 0 to 7 are cores, others hub, link or DRAM elements [DEDUCED, log entry 66]. -/
def State.selfTest (s : State) (failed : List Nat) : State :=
  let cores := (List.range 8).filter (fun c => failed.contains c && s.coreState c != 3)
  let s := if failed = [] then s else s.fset FCU_STATUS_SELFTEST_FAIL_SEEN 1
  let s := cores.foldl (fun s c => s.latchScope (some c)) s
  if failed.any (fun e => 8 ≤ e) then s.latchScope none else s.modScope none (fun x => { x with phase := 6 })

/-- One phase of a part recovery has run (R443) [DEDUCED, log entry 66]. -/
def State.partPhase (s : State) (failed : List Nat) : State :=
  let p := s.fcu.part.phase
  let next (t : State) : State := t.modScope none (fun x => { x with phase := p + 1 })
  if p = 2 then next s.clearWires
  else if p = 3 then next s.trainSpares
  else if p = 5 then s.selfTest failed
  else if p = 6 then next s.initPart
  else if p = 7 then s.endRecovery
  else next s

/-- One phase of a core recovery has run: phases 2, 5 and 6 (R443) [DEDUCED, log entry 66]. -/
def State.corePhase (s : State) (c : Nat) (failed : List Nat) : State :=
  let p := (s.coreScope c).phase
  let n := s.fget FCU_CORE_RECOVERIES_COUNT
  if p = 2 then s.modScope (some c) (fun x => { x with phase := 5 })
  else if p = 5 then
    if failed = [] then s.modScope (some c) (fun x => { x with phase := 6 })
    else (s.fset FCU_STATUS_SELFTEST_FAIL_SEEN 1).latchScope (some c)
  else
    let s := ((s.initCore c).setScopeState (some c) 0).modScope (some c) (fun x => { x with phase := 0 })
    s.fset FCU_CORE_RECOVERIES_COUNT (putBits n (8 * c) 8 (bits n (8 * c) 8 + 1))

/-- RECOVERY_PHASE_COMPLETE (R443 to R446): the phase at hand has run; for a self-test, with the elements that failed
[DESIGN CHOICE, log entry 14]. -/
def execRecoveryPhaseComplete (core : Option Nat) (failed : List Nat) (s : State) : Result :=
  unit (core.elim true (· < 8)) (due (s.up && s.scopeState core == 2) s (
    match core with
    | none => s.partPhase failed
    | some c => s.corePhase c failed))

/-! ### Register writes (R442, R447, R449) -/

/-- A latch is cleared by software (R442): history gone, a new quiet period. -/
def State.clearLatch (s : State) (core : Option Nat) : State :=
  if s.scopeState core = 3 then (s.modScope core (fun x => { x with begun := [] })).enterQuiet core else s

/-- A write of FCU_CTRL. -/
def fcuCtrlEffect (v : Nat) (s : State) : State × Nat :=
  let s := s.plainWrite (regAddr FCU_CTRL) (putBits v 16 16 (max 1 (min 10_000 (bits v 16 16))))
  (if bitAt v 1 then s.clearLatch none else s, stOK)

/-- FCU_CLEAR_LATCH (R442). -/
def execFcuClearLatch (src v : Nat) (s : State) : Result :=
  regCmd true s src (regAddr FCU_CTRL) 4 (wrap 32 v) (fcuCtrlEffect (wrap 32 v))

/-- A write of FCU_CORE_CLEAR. -/
def fcuCoreClearEffect (v : Nat) (s : State) : State × Nat :=
  ((whichBelow 8 (bitAt v ·)).foldl (fun s c => s.clearLatch (some c)) s, stOK)

/-- FCU_CORE_CLEAR (R442). -/
def execFcuCoreClear (src cores : Nat) (s : State) : Result :=
  regCmd true s src (regAddr FCU_CORE_CLEAR) 4 (wrap 32 cores) (fcuCoreClearEffect (wrap 32 cores))

/-- A write of FCU_SRC_id: FORCE makes the source report (R447). -/
def fcuSrcEffect (id v : Nat) (s : State) : State × Nat :=
  let cls := bits v 51 2
  if (srcInfo id).isNone then (s, stBusError)
  else if cls = 0 then (s, stOK)
  else if srcRaises id cls then (s.report id cls none 0 none true, stOK)
  else (s, stBusError)

/-- FAULT_FORCE (R447). -/
def execFaultForce (src source cls : Nat) (s : State) : Result :=
  regCmd (source < 4096) s src (regAddr FCU_SRC_id source) 8 (cls % 4 * 2 ^ 51) (fcuSrcEffect source (cls % 4 * 2 ^ 51))

/-- A write of FCU_INJECT (R447, R510). -/
def fcuInjectEffect (v : Nat) (s : State) : State × Nat :=
  if bitAt v 14 && !srcHasCheckBits (bits v 0 12) then (s, stBusError) else (s.plainWrite (regAddr FCU_INJECT) v, stOK)

/-- FAULT_INJECT_ARM (R447). -/
def execFaultInjectArm (src v : Nat) (s : State) : Result :=
  regCmd true s src (regAddr FCU_INJECT) 4 (wrap 32 v) (fcuInjectEffect (wrap 32 v))

/-- A write of FCU_WIRE_TEST (R447). -/
def wireTestEffect (v : Nat) (s : State) : State × Nat :=
  let source := bits v 0 12
  let pair := bits v 12 2
  if !bitAt v 15 then (s, stOK)
  else if !srcRaises source pair then (s, stBusError)
  else (s.modFcu (fun f => { f with wireTests := f.wireTests ++ [(source, (pair, bits v 14 1))] }), stOK)

/-- WIRE_TEST (R447). -/
def execWireTest (src v : Nat) (s : State) : Result :=
  regCmd true s src (regAddr FCU_WIRE_TEST) 4 (wrap 32 v) (wireTestEffect (wrap 32 v))

end Sys2Proof.Machine
end

