-- ==== Sys2Proof/Machine/Nvm.lean ====
section
/-! DEFINITION. The one-time-programmable store, the release of control cores, and the register writes that start a boot attempt or an
attestation report (R455, R456, R459, R460, R467). -/

namespace Sys2Proof.Machine

/-- Changes the one-time-programmable store. -/
def State.modNvm (s : State) (g : Nvm → Nvm) : State := { s with nvm := g s.nvm }

/-- Whether a one-time-programmable write is under way (NVM_STATUS.BUSY). -/
def State.nvmBusy (s : State) : Bool := s.nvm.job.isSome

/-- A one-time-programmable write begins, if its rule allows it and none is under way (R455) [DEDUCED, log entry 68]. -/
def State.nvmBegin (s : State) (ok : Bool) (j : NvmJob) : State × Nat :=
  if s.nvmBusy || !ok then (s, stBusError) else (s.modNvm (fun n => { n with job := some (j, s.refTick) }), stOK)

/-- A write of NVM_ROLLBACK_ADVANCE (R455). -/
def rollbackEffect (v : Nat) (s : State) : State × Nat :=
  s.nvmBegin (decide (s.nvm.counter < v) && decide (v ≤ s.fget BOOT_IMAGE_SEQUENCE) && s.nvm.advancesLeft != 0) (.advance v)

/-- ROLLBACK_ADVANCE (R455). -/
def execRollbackAdvance (src v : Nat) (s : State) : Result :=
  regCmd true s src (regAddr NVM_ROLLBACK_ADVANCE) 4 (wrap 32 v) (rollbackEffect (wrap 32 v))

/-- The staged hash (R456). -/
def State.stagedHash (s : State) : Nat :=
  (List.range 8).foldl (fun h w => h + (s.rword NVM_KEY_STAGE_w w).toNat * 2 ^ (64 * w)) 0

/-- A write of NVM_KEY_PROGRAM (R456): performed without GO, it does nothing [DEDUCED, log entry 68]. -/
def keyProgramEffect (v : Nat) (s : State) : State × Nat :=
  let k := v % 8
  if bitAt v 8 then s.nvmBegin ((s.nvm.slots.getD k ⟨none, true⟩).hash.isNone && !s.nvm.locked) (.key k s.stagedHash)
  else if s.nvmBusy then (s, stBusError) else (s, stOK)

/-- KEY_PROGRAM (R456). -/
def execKeyProgram (src slot : Nat) (s : State) : Result :=
  regCmd (slot < 8) s src (regAddr NVM_KEY_PROGRAM) 4 (slot % 8 + 2 ^ 8) (keyProgramEffect (slot % 8 + 2 ^ 8))

/-- Whether a boot slot would remain after a revocation. -/
def State.bootSlotLeft (s : State) (slots : Nat) : Bool :=
  (List.range 4).any (fun k =>
    let x := s.nvm.slots.getD k ⟨none, true⟩
    x.hash.isSome && !x.revoked && !bitAt slots k)

/-- A write of NVM_REVOKE (R456). -/
def revokeEffect (v : Nat) (s : State) : State × Nat := s.nvmBegin (s.bootSlotLeft (v % 256)) (.revoke (v % 256))

/-- REVOKE (R456). -/
def execRevoke (src slots : Nat) (s : State) : Result :=
  regCmd true s src (regAddr NVM_REVOKE) 4 (wrap 32 slots) (revokeEffect (wrap 32 slots))

/-- A write of NVM_LOCK (R456): a 0 does nothing [DEDUCED, log entry 68]. -/
def nvmLockEffect (v : Nat) (s : State) : State × Nat :=
  if bitAt v 0 then s.nvmBegin true .lock else if s.nvmBusy then (s, stBusError) else (s, stOK)

/-- NVM_LOCK (R456). -/
def execNvmLock (src : Nat) (s : State) : Result := regCmd true s src (regAddr NVM_LOCK) 4 1 (nvmLockEffect 1)

/-- A write of another NVM_ register: refused while BUSY (R455) [DEDUCED, log entry 68]. -/
def nvmPlainEffect (a v : Nat) (s : State) : State × Nat := if s.nvmBusy then (s, stBusError) else (s.plainWrite a v, stOK)

/-- What a completed write has set. -/
def Nvm.apply (n : Nvm) (j : NvmJob) : Nvm :=
  match j with
  | .advance v => { n with counter := v, advancesLeft := n.advancesLeft - 1 }
  | .key k h => { n with slots := modAt n.slots k (fun x => { x with hash := some h }) }
  | .revoke m => { n with slots := (List.range n.slots.length).zipWith (fun i x => if bitAt m i then { x with revoked := true } else x) n.slots }
  | .lock => { n with locked := true }

/-- What a write that failed to verify leaves: each word as it was, as written, or failing its check at the next boot, by the bits of a free
value (R470, R501) [DEDUCED, log entry 68]. -/
def Nvm.failed (n : Nvm) (j : NvmJob) (x : Nat) : Nvm :=
  match j with
  | .revoke m => { n.apply (.revoke (m &&& x)) with broken := n.broken ++ [.revoke (bits (m - (m &&& x)) 0 8 &&& (x / 2 ^ 8))] }
  | _ => if bitAt x 0 then n.apply j else if bitAt x 1 then { n with broken := n.broken ++ [j] } else n

/-- What a word that fails its check reads as (R501): a rollback advance is ignored and counts as one of the 64, a key slot reads as
programmed and revoked, the LOCK bit as set. -/
def Nvm.checkFailed (n : Nvm) (j : NvmJob) : Nvm :=
  match j with
  | .advance _ => { n with advancesLeft := n.advancesLeft - 1 }
  | .key k h => { n with slots := modAt n.slots k (fun _ => ⟨some h, true⟩) }
  | .revoke m => { n with slots := (List.range n.slots.length).zipWith (fun i x => if bitAt m i then ⟨some (x.hash.getD 0), true⟩ else x) n.slots }
  | .lock => { n with locked := true }

/-- The store as a boot reads it (R457, R501). -/
def Nvm.read (n : Nvm) : Nvm := n.broken.foldl Nvm.checkFailed { n with broken := [] }

/-- NVM_PROGRAM_DONE (R455): after 2 ms the write is done; one that failed to verify sets FAIL_SEEN. -/
def execNvmProgramDone (ok : Bool) (s : State) : Result :=
  match s.nvm.job with
  | none => .next s
  | some (j, since) =>
    let t := s.modNvm (fun n => { n with job := none })
    due (s.up && s.elapsed since (msTicks 2)) s (
      if ok then t.modNvm (fun n => n.apply j)
      else (((t.free 16).2.modNvm (fun n => n.failed j (t.free 16).1)).fset NVM_STATUS_FAIL_SEEN 1))

/-! ### Release of control cores (R460) -/

/-- A write of SYS_CORE_RELEASE: bits 1 to 7 release cores 1 to 7; core 0 is released by step 7 of R457 (R460, R468). -/
def coreReleaseEffect (v : Nat) (s : State) : State × Nat :=
  (s.fset SYS_CORE_RELEASE_RELEASED (s.fget SYS_CORE_RELEASE_RELEASED ||| (v % 256 &&& 0xFE)), stOK)

/-- CONTROL_CORE_RELEASE (R460): the named control cores begin at their start offsets. -/
def execControlCoreRelease (src cores : Nat) (s : State) : Result :=
  regCmd true s src (regAddr SYS_CORE_RELEASE) 4 (wrap 32 cores) (coreReleaseEffect (wrap 32 cores))

/-! ### Starting an attempt or a report (R459, R467) -/

/-- A write of BOOT_CTRL: ignored outside PROVISION. -/
def bootCtrlEffect (v : Nat) (s : State) : State × Nat :=
  if bitAt v 0 && s.fget BOOT_STATUS_STATE == 7 then
    ({ s.fset BOOT_STATUS_STATE 0 with boot := { s.boot with forced := true, start := s.refTick } }, stOK)
  else (s, stOK)

/-- BOOT_RESTART (R459). -/
def execBootRestart (src : Nat) (s : State) : Result := regCmd true s src (regAddr BOOT_CTRL) 4 1 (bootCtrlEffect 1)

/-- A write of SEC_ATTEST_CTRL (R467): refused with GO while BUSY, or with more than 32 models [DEDUCED, log entry 69]. -/
def attestEffect (v : Nat) (s : State) : State × Nat :=
  if bitAt v 0 && (s.fbit SEC_ATTEST_CTRL_BUSY || decide (32 < bits v 8 6)) then (s, stBusError)
  else
    let s := s.plainWrite (regAddr SEC_ATTEST_CTRL) v
    (if bitAt v 0 then s.fset SEC_ATTEST_CTRL_BUSY 1 else s, stOK)

/-- ATTEST_GO (R467). -/
def execAttestGo (src v : Nat) (s : State) : Result :=
  regCmd true s src (regAddr SEC_ATTEST_CTRL) 4 (putBits (wrap 32 v) 0 1 1) (attestEffect (putBits (wrap 32 v) 0 1 1))

end Sys2Proof.Machine
end

