-- ==== Sys2Proof/Machine/Queue.lean ====
section
/-! DEFINITION. Pushes, index writes and control writes of the queues, the tally registers and the waystation registers
(R245 to R254, R266, R267, R272): the commands STAGE_PUSH to WAY_TAKE. -/

namespace Sys2Proof.Machine

/-- Number of queues, waystations and tallies (R1). -/
def queueCount : Nat := 65536

/-! ### Descriptor rings -/

/-- The staged descriptor of stage `st` (R246, R252). -/
def State.staged (s : State) (st : Nat) : Nat :=
  (List.range 8).foldl (fun d w => d + (s.rword QM_STAGEs_DATAw st w).toNat * 2 ^ (64 * w)) 0

/-- A write of QM_STAGEs_PUSH (R246, R247). -/
def stagePushEffect (st q : Nat) (s : State) : State × Nat :=
  let r := s.pushDesc q (s.staged st)
  (r.1.fset QM_STAGEs_PUSH_RESULT r.2 st, stOK)

/-- A software write of TAIL (R247, R267): refused for an index the Drover owns [DEDUCED, log entry 20]. -/
def tailWriteEffect (q v : Nat) (s : State) : State × Nat :=
  let n := sub32 v (s.qTail q)
  if s.qKind q = 0 ∧ n = 0 then (s, stOK)
  else if s.qKind q ≠ 0 ∨ 2 ^ 31 ≤ n ∨ s.pushRefused q 0 n then (s.pushRefusal q, stQueueFull)
  else ((s.fset QM_Qq_TAIL_INDEX v q).pushTaken q n, stOK)

/-- A software write of HEAD: the consumer index of a completion ring; refused elsewhere (R245, R247, R267). -/
def headWriteEffect (q v : Nat) (s : State) : State × Nat :=
  if s.qKind q ≠ 1 then (s.pushRefusal q, stQueueFull)
  else
    let s := s.fset QM_Qq_HEAD_INDEX v q
    (if s.ringTakes q then s.fset QM_Qq_STATUS_STALLED 0 q else s, stOK)

/-- A software write of FETCH and RETIRED: FETCH is the Drover's index of a descriptor ring (R245, R247). -/
def progressWriteEffect (q : Nat) (s : State) : State × Nat := if s.qKind q = 0 then (s.pushRefusal q, stQueueFull) else (s, stOK)

/-- QM_Qq_CTRL.STOP (R249). -/
def stopQueue (q : Nat) (s : State) : State := (s.haltQueue q 1).updateDrained q

/-- QM_Qq_CTRL.RESUME: a descriptor held by a TAG break is forwarded first (R249, R251). -/
def resumeQueue (q : Nat) (s : State) : State :=
  let s := (s.fset QM_Qq_STATUS_HALTED 0 q).fset QM_Qq_STATUS_DRAINED 0 q
  s.setFlights (s.drover.flights.map (fun f =>
    if f.queue = q ∧ f.stage = .broken then { f with stage := .fetched } else f))

/-- QM_Qq_CTRL.RESET_INDEX: ignored unless ENABLE is 0 or DRAINED is 1 (R250, R253). -/
def resetQueueIndex (q : Nat) (s : State) : State :=
  if s.qEnabled q && !s.fbit QM_Qq_STATUS_DRAINED q then s
  else
    let s := (s.fset QM_Qq_HEAD_INDEX 0 q).fset QM_Qq_TAIL_INDEX 0 q
    (s.fset QM_Qq_PROGRESS_FETCH 0 q).fset QM_Qq_PROGRESS_RETIRED 0 q

/-- A write of QM_Qq_CTRL: each bit written 1 acts once, STOP before RESUME before RESET_INDEX (log entry 7). -/
def queueCtrlEffect (q v : Nat) (s : State) : State × Nat :=
  let s := if bitAt v 0 then stopQueue q s else s
  let s := if bitAt v 1 then resumeQueue q s else s
  (if bitAt v 2 then resetQueueIndex q s else s, stOK)

/-- Bytes of one slot of a queue of a kind (R245, R265). -/
def slotBytes (kind : Nat) : Nat := if kind = 0 then 64 else if kind = 1 then 32 else 8

/-- Whether a ring lies on one DRAM die (R245, R253). -/
def ringOnOneDie (base sizeLog2 kind : Nat) : Bool :=
  decide (base + slotBytes kind * 2 ^ sizeLog2 ≤ dieEnd base)

/-- When BASE and CFG of a queue may be written (R249): ENABLE 0, or a drained descriptor ring. -/
def State.cfgOpen (s : State) (q : Nat) : Bool :=
  !s.qEnabled q || (s.qKind q == 0 && s.fbit QM_Qq_STATUS_DRAINED q)

/-- A write of QM_Qq_BASE (R249, R253). -/
def queueBaseEffect (q v : Nat) (s : State) : State × Nat :=
  let b := bits v 6 29
  if !s.cfgOpen q then (s, stBusError)
  else if s.qEnabled q && !ringOnOneDie (64 * b) (s.fget QM_Qq_CFG_SIZE_LOG2 q) (s.qKind q) then (s, stBusError)
  else (s.fset QM_Qq_BASE_BASE b q, stOK)

/-- Whether a write of CFG changes nothing but ENABLE, from 1 to 0, of a completion ring or waystation (R249). -/
def State.onlyDisables (s : State) (q v : Nat) : Bool :=
  s.qEnabled q && (s.qKind q == 1 || s.qKind q == 2) && v % 2 ^ 40 == putBits ((s.rword QM_Qq_CFG q).toNat % 2 ^ 40) 7 1 0

/-- A write of QM_Qq_CFG (R249, R253). -/
def queueCfgEffect (q v : Nat) (s : State) : State × Nat :=
  let size := bits v 0 5
  let new := v % 2 ^ 40
  if size < 4 ∨ 20 < size then (s, stBusError)
  else if !s.cfgOpen q && !s.onlyDisables q v then (s, stBusError)
  else if bitAt v 7 && !ringOnOneDie (s.qBase q) size (bits v 5 2) then (s, stBusError)
  else
    let s := s.rset QM_Qq_CFG (BitVec.ofNat 64 new) q
    (if s.ringTakes q then s.fset QM_Qq_STATUS_STALLED 0 q else s, stOK)

/-! ### Tallies (R254) -/

/-- A write of TLY_t_ADD: signal(t, INC), and nothing for INC 0. -/
def tlyAddEffect (t inc : Nat) (s : State) : State × Nat :=
  (if inc % 65536 = 0 then s else s.signal t (inc % 65536), stOK)

/-- Whether a descriptor at its head waits on tally `t` with that wait not yet met. -/
def State.tallyWaited (s : State) (t : Nat) : Bool :=
  s.drover.flights.any (fun f =>
    s.atHead f && !f.member && (List.range (dWaits f.desc)).any (fun j =>
      !bitAt (s.metNow f) j && tallyNum (dWait f.desc j).1 (s.ownRange f) == t))

/-- A write of TLY_SET: the count is loaded, waits not yet met are tested against it, met waits stay met. -/
def tlySetEffect (t v : Nat) (s : State) : State × Nat :=
  let waited := s.tallyWaited t
  let s := (s.tallyPut t v).latchWaits
  (if waited then s.fset TLY_STATUS_SET_WITH_WAITERS 1 else s, stOK)

/-! ### Waystation registers (R272) -/

/-- A write of QM_WAY_PUT. -/
def wayPutEffect (w handle status : Nat) (s : State) : State × Nat := ((s.wayPut w handle status).1, stOK)

/-- A read of QM_WAYw_TAKE: takes the head entry; zeros from an empty waystation. -/
def wayTakeRead (w : Nat) (s : State) : State × Nat :=
  match s.wayTake w with
  | (s, none) => (s, 0)
  | (s, some e) => (s, e.handle + e.status * 2 ^ 32 + 2 ^ 40 + e.seq * 2 ^ 48)

/-! ### The commands -/

/-- STAGE_PUSH (R246). -/
def execStagePush (src st q : Nat) (s : State) : Result :=
  regCmd (st < 16 && q < queueCount) s src (regAddr QM_STAGEs_PUSH st) 4 q (stagePushEffect st q)

/-- TAIL_WRITE (R247). -/
def execTailWrite (src q v : Nat) (s : State) : Result :=
  regCmd (q < queueCount) s src (regAddr QM_Qq_TAIL q) 4 (wrap 32 v) (tailWriteEffect q (wrap 32 v))

/-- HEAD_WRITE (R245). -/
def execHeadWrite (src q v : Nat) (s : State) : Result :=
  regCmd (q < queueCount) s src (regAddr QM_Qq_HEAD q) 4 (wrap 32 v) (headWriteEffect q (wrap 32 v))

/-- STOP (R249). -/
def execStop (src q : Nat) (s : State) : Result :=
  regCmd (q < queueCount) s src (regAddr QM_Qq_CTRL q) 4 1 (queueCtrlEffect q 1)

/-- RESUME (R249). -/
def execResume (src q : Nat) (s : State) : Result :=
  regCmd (q < queueCount) s src (regAddr QM_Qq_CTRL q) 4 2 (queueCtrlEffect q 2)

/-- RESET_INDEX (R250). -/
def execResetIndex (src q : Nat) (s : State) : Result :=
  regCmd (q < queueCount) s src (regAddr QM_Qq_CTRL q) 4 4 (queueCtrlEffect q 4)

/-- QUEUE_CFG_WRITE (R249): a write of BASE or of CFG. -/
def execQueueCfgWrite (src q : Nat) (base : Bool) (v : Nat) (s : State) : Result :=
  if base then regCmd (q < queueCount) s src (regAddr QM_Qq_BASE q) 8 (wrap 64 v) (queueBaseEffect q (wrap 64 v))
  else regCmd (q < queueCount) s src (regAddr QM_Qq_CFG q) 8 (wrap 64 v) (queueCfgEffect q (wrap 64 v))

/-- TLY_ADD (R254). -/
def execTlyAdd (src t inc : Nat) (s : State) : Result :=
  regCmd (t < queueCount) s src (regAddr TLY_t_ADD t) 4 (wrap 32 inc) (tlyAddEffect t inc)

/-- TLY_SET (R254). -/
def execTlySet (src t v : Nat) (s : State) : Result :=
  regCmd (t < queueCount) s src (regAddr TLY_SET) 8 (t + wrap 32 v * 2 ^ 32) (tlySetEffect t (wrap 32 v))

/-- WAY_PUT (R266). -/
def execWayPut (src w handle status : Nat) (s : State) : Result :=
  regCmd (w < queueCount) s src (regAddr QM_WAY_PUT) 8 (wrap 32 handle + wrap 8 status * 2 ^ 32 + w * 2 ^ 48)
    (wayPutEffect w (wrap 32 handle) (wrap 8 status))

/-- WAY_TAKE (R272). -/
def execWayTake (src w : Nat) (s : State) : Result :=
  readCmd (w < queueCount) s src (regAddr QM_WAYw_TAKE w) (wayTakeRead w)

end Sys2Proof.Machine
end

