-- ==== Sys2Proof/Machine/Roi.lean ====
section
/-! DEFINITION. ROI: window pooling, box pooling, crop-and-resize (R177 to R186, R188, R229). -/

namespace Sys2Proof.Machine

/-! ### The parameter record (R177, R229) -/

/-- A ROI descriptor's parameters. -/
structure RoiD where
  op : Nat
  func : Nat
  nearest : Bool
  same : Bool
  zpc : Bool
  outExp : Int
  z : Int
  zp : Nat
  extrap : Nat
  map : FMap
  boxMax : Nat
  oh : Nat
  ow : Nat
  lay : Layer
  ons : Nat
  oy0 : Nat
  ox0 : Nat
  onr : Nat
  box : Nat
  out : Nat
  inp : Nat
  badBits : Bool
  deriving DecidableEq, Repr

def roiWINDOW : Nat := 1
def roiBOX : Nat := 2
def roiCROP : Nat := 3

def roiParam (d : Nat) : Nat := dbytes d 16 4

/-- The parameters from the descriptor `d` and its record `r`. -/
def roiOf (d r : Nat) (j : Job) : RoiD :=
  let h := dbytes r 12 2
  let w := dbytes r 14 2
  { op := dbits r 0 0 2, func := dbits r 0 2 2, nearest := dbits r 0 4 1 == 1, same := dbits r 0 5 1 == 1
    zpc := dbits r 0 6 1 == 1, outExp := sext 5 (dbits r 2 0 5), z := sext 8 (dbytes r 3 1), zp := dbytes r 4 4
    extrap := dbytes r 8 4
    map := ⟨j.at (dbytes d 20 4), h, w, dbytes r 16 2, dbits r 1 0 4, dbytes r 18 2, dbytes r 20 2, dbytes r 22 2, dbytes r 24 1 + 1⟩
    boxMax := dbytes r 26 2, oh := dbytes r 28 1, ow := dbytes r 29 1
    lay := ⟨h, w, dbytes r 30 1, dbytes r 31 1, dbits r 32 0 4 + 1, dbits r 32 4 4 + 1, 1, 1, dbytes r 33 1, dbytes r 34 1,
      dbytes r 35 1, dbytes r 36 1⟩
    ons := dbytes r 37 1 + 1, oy0 := dbytes r 38 2, ox0 := dbytes r 40 2, onr := dbytes r 42 2, box := dbytes d 28 4
    out := dbytes d 24 4, inp := dbytes d 20 4
    badBits := dbits r 0 7 1 != 0 || dbits r 1 4 4 != 0 || dbits r 2 5 3 != 0 || dbytes r 25 1 != 0 || dbytes r 44 20 != 0 ||
      (dbits r 0 6 1 == 0 && dbytes r 5 3 != 0) }

def RoiD.window (p : RoiD) : Bool := p.op == roiWINDOW

/-- A parameter out of range, or a non-finite EXTRAP (R177). -/
def RoiD.bad (p : RoiD) : Bool :=
  p.badBits || p.op == 0 || (p.op != roiCROP && p.func == 3) || 4 < p.map.fmt || p.map.h == 0 || 8192 < p.map.h || p.map.w == 0 ||
  8192 < p.map.w || p.map.c == 0 || 4096 < p.map.c || p.map.x0 % 32 != 0 || p.map.nr == 0 || 8192 < p.map.nr ||
  !isFinite32 p.extrap ||
  (if p.window then !p.lay.ok || p.ox0 % 32 != 0 || p.onr == 0 || 8192 < p.onr || p.box != 0
   else p.boxMax == 0 || 4096 < p.boxMax || p.oh == 0 || 64 < p.oh || p.ow == 0 || 64 < p.ow)

/-- Rows and columns of one output map, its strips, and bytes of the output region for `n` maps (R185). OH and OW are fields of the box
operations; a window map in FP32 form takes its output rectangle's ONR rows and 32 × ONS columns in their place [DESIGN CHOICE, log entry 40]. -/
def RoiD.rows (p : RoiD) : Nat := if p.window then p.onr else p.oh
def RoiD.cols (p : RoiD) : Nat := if p.window then 32 * p.ons else p.ow
def RoiD.strips (p : RoiD) : Nat := ceilDiv p.cols 32
def RoiD.outBytes (p : RoiD) (n : Nat) : Nat :=
  if p.same then n * p.rows * p.strips * p.map.cb * p.map.baleBytes else 4 * (n * p.rows * p.cols * p.map.c)

/-- Whether position (i, k) of an output map is an output position (R158, R180). -/
def RoiD.isOut (p : RoiD) (i k : Nat) : Bool :=
  !p.window || (decide (p.oy0 + i < p.lay.hOut) && decide (p.ox0 + k < p.lay.wOut))

/-! ### Boxes (R181, R182) -/

/-- A box: its corners in units of 2^-8 pixel, and poison. -/
structure RBox where
  y1 : Int
  x1 : Int
  y2 : Int
  x2 : Int
  poison : Bool
  deriving DecidableEq, Repr

/-- Rows of the map that are available among `lo` to `hi - 1`. -/
def clipRange (lo hi : Int) (a b : Nat) : List Nat :=
  let l := (max lo a).toNat
  (List.range ((min hi b).toNat - l)).map (· + l)

/-- The available positions among rows `ya` to `yb - 1` and columns `xa` to `xb - 1`, in the order of R179. -/
def FMap.positions (m : FMap) (ya yb xa xb : Int) : List (Nat × Nat) :=
  let xs := clipRange xa xb m.x0 (min m.w (m.x0 + 32 * m.ns))
  (clipRange ya yb m.y0 (min m.h (m.y0 + m.nr))).flatMap (fun y => xs.map (fun x => (y, x)))

/-- First and last rows of bin `i` of `n` over the corners `a` and `b` (R182), the second exclusive. -/
def binRange (a b : Int) (i n : Nat) : Int × Int :=
  let p := divRound a 256
  let q := divRound b 256
  let lo := min p q
  let h := (max p q - lo + 1).toNat
  (lo + (i * h / n : Nat), lo + (ceilDiv ((i + 1) * h) n : Nat))

/-- The positions that output (i, k) reduces in pooling. -/
def RoiD.bin (p : RoiD) (b : RBox) (i k : Nat) : List (Nat × Nat) :=
  if p.window then
    let y : Int := ((p.oy0 + i) * p.lay.sy : Nat) - (p.lay.pt : Int)
    let x : Int := ((p.ox0 + k) * p.lay.sx : Nat) - (p.lay.pl : Int)
    p.map.positions y (y + p.lay.kh) x (x + p.lay.kw)
  else
    let y := binRange b.y1 b.y2 i p.oh
    let x := binRange b.x1 b.x2 k p.ow
    p.map.positions y.1 y.2 x.1 x.2

/-! ### Values (R178, R179, R184) -/

/-- The FP32 value of a pixel and channel as ROI reads it from view `v` (R178), with poison and whether its scale byte is corrupt. -/
def State.roiIn (v : State) (j : Job) (p : RoiD) (y x c : Nat) : VIn :=
  let e := v.pixel j p.map y x c
  let o := j.at p.zp + c
  let z := if p.zpc then (sext 8 (v.jByte j spASP o).toNat, v.jWordPoison j spASP o) else (sext 8 (p.zp % 256), false)
  ⟨codeToFp p.map.fmt e.code (scaleExp e.scale) z.1, e.poison || z.2 || scaleCorrupt e.scale, scaleCorrupt e.scale⟩

/-- A reduction of at least one value in order (R179). -/
def roiReduce (func : Nat) (l : List Nat) : Nat :=
  let fold (f : Nat → Nat → Nat) (l : List Nat) : Nat := (l.drop 1).foldl f (l.headD 0)
  if func = 0 then fold fpMax l
  else if func = 1 then fpDivNat (fold fpAdd l) l.length
  else fpSqrt (fold fpAdd (l.map (fun x => fpMul x x)))

/-- An output value: pattern, poison, whether it took EXTRAP, whether it met a corrupt scale byte. -/
structure RVal where
  v : Nat
  poison : Bool
  extrap : Bool
  corrupt : Bool
  deriving DecidableEq, Repr

/-- The pooled output of a bin [DESIGN CHOICE, log entry 40]. -/
def State.roiPool (v : State) (j : Job) (p : RoiD) (l : List (Nat × Nat)) (c : Nat) : RVal :=
  if l = [] then ⟨p.extrap, false, true, false⟩
  else
    let xs := l.map (fun q => v.roiIn j p q.1 q.2 c)
    ⟨roiReduce p.func (xs.map (·.v)), xs.any (·.poison), false, xs.any (·.corrupt)⟩

/-- Coordinate of sample `i` of `n` between corners `a` and `b`, in units of 2^-16 pixel (R183). -/
def sampleAt (a b : Int) (i n : Nat) : Int :=
  if n = 1 then 128 * (a + b) else 256 * a + divRound (i * 256 * (b - a)) (n - 1)

/-- The sample at a coordinate pair (R183, R184) [DESIGN CHOICE, log entry 40]. -/
def State.roiSample (v : State) (j : Job) (p : RoiD) (ys xs : Int) (c : Nat) : RVal :=
  let ex : RVal := ⟨p.extrap, false, true, false⟩
  if ys < 0 ∨ 2 ^ 16 * ((p.map.h : Int) - 1) < ys ∨ xs < 0 ∨ 2 ^ 16 * ((p.map.w : Int) - 1) < xs then ex
  else if p.nearest then
    let y : Nat := ((ys + 2 ^ 15) / 2 ^ 16).toNat
    let x : Nat := ((xs + 2 ^ 15) / 2 ^ 16).toNat
    if !p.map.has y x then ex
    else
      let r := v.roiIn j p y x c
      ⟨r.v, r.poison, false, r.corrupt⟩
  else
    let y0 : Nat := (ys / 2 ^ 16).toNat
    let x0 : Nat := (xs / 2 ^ 16).toNat
    let fy := fpOf ⟨ys % 2 ^ 16, -16⟩
    let fx := fpOf ⟨xs % 2 ^ 16, -16⟩
    let y1 : Nat := if p.map.h ≤ y0 + 1 then y0 else y0 + 1
    let x1 : Nat := if p.map.w ≤ x0 + 1 then x0 else x0 + 1
    if !(p.map.has y0 x0 && p.map.has y0 x1 && p.map.has y1 x0 && p.map.has y1 x1) then ex
    else
      let a := v.roiIn j p y0 x0 c
      let b := v.roiIn j p y0 x1 c
      let g := v.roiIn j p y1 x0 c
      let h := v.roiIn j p y1 x1 c
      let top := fpAdd a.v (fpMul fx (fpSub b.v a.v))
      let bottom := fpAdd g.v (fpMul fx (fpSub h.v g.v))
      let l := [a, b, g, h]
      ⟨fpAdd top (fpMul fy (fpSub bottom top)), l.any (·.poison), false, l.any (·.corrupt)⟩

/-- Output (i, k) of a box, channel c, read from view `v` [DESIGN CHOICE, log entry 40]. -/
def State.roiOut (v : State) (j : Job) (p : RoiD) (b : RBox) (i k c : Nat) : RVal :=
  let r := if p.op = roiCROP then v.roiSample j p (sampleAt b.y1 b.y2 i p.oh) (sampleAt b.x1 b.x2 k p.ow) c
    else v.roiPool j p (p.bin b i k) c
  { r with poison := r.poison || b.poison }

/-! ### Writing (R185) -/

/-- The code of a value in SAME form; none for a NaN, for which the spec states no code. -/
def RoiD.code (p : RoiD) (v : Nat) : Option Nat :=
  match fp32 v with
  | .nan => none
  | .inf s =>
    some (if p.map.fmt ≤ fmtQ8 then extremeCode p.map.fmt s else fp8Code p.map.fmt ⟨if s then -1 else 1, 128⟩ s)
  | .fin s m e =>
    let x : Dy := ⟨if s then -(m : Int) else m, e - p.outExp⟩
    some (if p.map.fmt ≤ fmtQ8 then wrapInt (codeBits p.map.fmt) (toCode p.map.fmt x p.z).1
      else fp8Code p.map.fmt (x.add (Dy.ofInt p.z)) s)

/-- Bale `k` of a map in SAME form: positions and channels that are no output, and NaN values, hold free codes `fill` by block and position.
The scale bytes are OUT_EXP, which derives from no input (R186). -/
def RoiD.bale (p : RoiD) (val : Nat → Nat → Nat → RVal) (k : Nat) (fill : Nat → Nat) : List (Nat × Bool) :=
  let cb := p.map.cb
  let i := k / (p.strips * cb)
  packBale p.map.fmt ((List.range 32).map (fun b =>
    let c := 32 * (k % cb) + b
    ⟨wrapInt 5 p.outExp, false, (List.range 32).map (fun q =>
      let x := 32 * (k / cb % p.strips) + q
      let free := fill (32 * b + q) % 2 ^ codeBits p.map.fmt
      if p.isOut i x && decide (x < p.cols) && decide (c < p.map.c) then
        let r := val i x c
        ((p.code r.v).getD free, r.poison)
      else (free, false)), 0, false⟩))

/-- Bytes with poison for a narrow write. -/
def asBytes (l : List (Nat × Bool)) : List (Byte × Bool) := l.map (fun x => (BitVec.ofNat 8 x.1, x.2))

/-- Writes one map: box `n`, its values from the view. -/
def State.roiWrite (s v : State) (j : Job) (p : RoiD) (n : Nat) (b : RBox) : State :=
  let sp := handleSpace p.out
  let o := j.at p.out
  let val (i k c : Nat) : RVal := v.roiOut j p b i k c
  if p.same then
    let per := p.rows * p.strips * p.map.cb
    (List.range per).foldl (fun s k =>
      let fill (i : Nat) : Nat := (Config.freeOf [6, j.f.desc, n, k, i]).toNat
      s.narrowWrite j.c sp (o + (n * per + k) * p.map.baleBytes) (asBytes (p.bale val k fill)) j.task (some j.f.ref)) s
  else
    (List.range (p.rows * p.cols)).foldl (fun s q =>
      let i := q / p.cols
      let k := q % p.cols
      if !p.isOut i k then s
      else
        let bs := (List.range p.map.c).flatMap (fun c =>
          let r := val i k c
          (List.range 4).map (fun y => (bits r.v (8 * y) 8, r.poison)))
        s.narrowWrite j.c sp (o + 4 * (((n * p.rows + i) * p.cols + k) * p.map.c)) (asBytes bs) j.task (some j.f.ref)) s

/-- What the outputs of a map count as: output positions, positions given EXTRAP, whether any value is poisoned or met a corrupt scale
byte. -/
def State.roiCount (v : State) (j : Job) (p : RoiD) (b : RBox) : Nat × Nat × Bool × Bool :=
  (List.range (p.rows * p.cols)).foldl (fun r q =>
    let i := q / p.cols
    let k := q % p.cols
    if !p.isOut i k then r
    else
      let xs := (List.range p.map.c).map (fun c => v.roiOut j p b i k c)
      (r.1 + 1, r.2.1 + b2n (xs.any (·.extrap)), r.2.2.1 || xs.any (·.poison), r.2.2.2 || xs.any (·.corrupt))) (0, 0, false, false)

/-! ### A descriptor -/

/-- Box `n` of the list at offset `o`. -/
def State.roiBox (v : State) (j : Job) (o n : Nat) : RBox :=
  let a := o + 16 + 16 * n
  let w (i : Nat) : Int := sext 32 (v.jLE j spASP (a + 4 * i) 4)
  ⟨w 0, w 1, w 2, w 3, v.jPoison j spASP a 16⟩

/-- The maps a descriptor computes: its boxes, or the one window map; `poison` marks them all [DESIGN CHOICE, log entry 40]. -/
def State.roiBoxes (v : State) (j : Job) (p : RoiD) (count : Nat) (poison : Bool) : List RBox :=
  if p.window then [⟨0, 0, 0, 0, poison⟩]
  else (List.range (min count p.boxMax)).map (fun n =>
    let b := v.roiBox j (j.at p.box) n
    { b with poison := b.poison || poison })

/-- The regions of a descriptor, the record aside (R186): COUNT is not yet read, so the box list and the output region are checked for BOX_MAX
boxes [DESIGN CHOICE, log entry 40]. -/
def RoiD.regions (p : RoiD) (j : Job) : List (Nat × Nat × Nat) :=
  [(spASP, p.map.off, p.map.bytes), (handleSpace p.out, j.at p.out, p.outBytes (if p.window then 1 else p.boxMax))] ++
  (if p.zpc then [(spASP, j.at p.zp, 32 * p.map.cb)] else []) ++
  (if p.window then [] else [(spASP, j.at p.box, 16 + 16 * p.boxMax)])

/-- Runs a descriptor whose checks have passed. -/
def State.roiRun (s : State) (j : Job) (p : RoiD) (recPoison : Bool) : State :=
  let c := j.c
  let s := s.eccRead c spASP p.map.off p.map.bytes (some j.f.ref)
  let s := if p.zpc then s.eccRead c spASP (j.at p.zp) (32 * p.map.cb) (some j.f.ref) else s
  let s := if p.window then s else s.eccRead c spASP (j.at p.box) 16 (some j.f.ref)
  let v := s.phView c
  let count := if p.window then 0 else v.jLE j spASP (j.at p.box) 4
  if !p.window && v.jLE j spASP (j.at p.box + 4) 12 != 0 then s.fieldStop j
  else
    let poison := recPoison || (!p.window && v.jPoison j spASP (j.at p.box) 16)
    let l := v.roiBoxes j p count poison
    let s := if p.window then s else s.eccRead c spASP (j.at p.box + 16) (16 * l.length) (some j.f.ref)
    let cn := l.map (fun b => v.roiCount j p b)
    let s := ((List.range l.length).zip l).foldl (fun s b => s.roiWrite v j p b.1 b.2) s
    let outs := (cn.map (·.1)).sum
    let ext := (cn.map (·.2.1)).sum
    let pz := cn.any (·.2.2.1)
    let cor := cn.any (·.2.2.2)
    let s := (s.fadd ROI_OUTPUTS_COUNT (outs * p.map.cb) c).fadd ROI_EXTRAP_COUNT (ext * p.map.cb) c
    let s := if ext = 0 then s else s.fset ROI_STATUS_EXTRAP_SEEN 1 c
    let s := if pz then s.fset ROI_STATUS_POISON_SEEN 1 c else s
    let s := if p.window then s else s.fadd ROI_BOXES_COUNT l.length c
    let s := if count ≤ l.length then s
      else (s.fadd ROI_BOXES_DROPPED_COUNT (count - l.length) c).fset ROI_STATUS_TRUNCATED_SEEN 1 c
    let s := if cor then s.reportFor j.f.ref (coreSrc c 0x16) clsU else s
    let st := if cor then stContainedFault else stOK
    s.endJob { j with poison := j.poison || pz } 0 st

/-- What ROI does with a descriptor. -/
def State.roiJob (s : State) (j : Job) : State :=
  let d := j.f.desc
  let at_ := j.at (roiParam d)
  if handleSpace (roiParam d) != spASP then s.handleStop j
  else if !s.jBounds j [(spASP, at_, 64)] then s.boundStop j
  else
    let s := s.eccRead j.c spASP at_ 64 (some j.f.ref)
    let v := s.phView j.c
    let p := roiOf d (v.jLE j spASP at_ 64) j
    if p.bad then s.fieldStop j
    else if handleSpace p.inp != spASP || !(2 ≤ handleSpace p.out && handleSpace p.out ≤ 4) || (p.zpc && handleSpace p.zp != spASP) ||
        (!p.window && handleSpace p.box != spASP) then s.handleStop j
    else if !s.jBounds j (p.regions j) then s.boundStop j
    else s.roiRun j p (v.jPoison j spASP at_ 64)

/-- OP of the record that a ROI descriptor names, as ROI will read it; 0 where it names none [DEDUCED, log entry 38]. -/
def State.roiOp (s : State) (j : Job) : Nat :=
  let h := roiParam j.f.desc
  if handleSpace h = spASP then bits ((s.phView j.c).jByte j spASP (j.at h)).toNat 0 2 else 0

/-- WINDOW_POOLING (R180). A descriptor without a legal OP is executed with this command and only stopped (R177). -/
def execWindowPooling (c : Nat) (s : State) : Result :=
  engineCmd c enROI (fun d => dOpcode d == opROI_OP) (fun s j => s.roiOp j == roiWINDOW || s.roiOp j == 0) s State.roiJob

/-- BOX_POOLING (R182). -/
def execBoxPooling (c : Nat) (s : State) : Result :=
  engineCmd c enROI (fun d => dOpcode d == opROI_OP) (fun s j => s.roiOp j == roiBOX) s State.roiJob

/-- CROP_AND_RESIZE (R183). -/
def execCropAndResize (c : Nat) (s : State) : Result :=
  engineCmd c enROI (fun d => dOpcode d == opROI_OP) (fun s j => s.roiOp j == roiCROP) s State.roiJob

end Sys2Proof.Machine
end

