-- ==== Sys2Proof/Machine/Bus.lean ====
section
/-! DEFINITION. The register interface: an access of any path to any address of the space (R471 to R481), by the effect that the
register's own chapter gives its write, and by the value that it gives its read. -/

namespace Sys2Proof.Machine

/-! ### Writes of registers -/

/-- A write of SP_SCRUB_CTRL: INTERVAL_ARRC is stored as the nearest limit (R154). -/
def scrubCtrlEffect (a v : Nat) (s : State) : State × Nat :=
  (s.plainWrite a (putBits v 16 13 (max 16 (min 4096 (bits v 16 13)))), stOK)

/-- A write of QM_COMMIT_BASE: SIZE_LOG2 outside 8 to 20 is refused (R316). -/
def commitBaseEffect (a v : Nat) (s : State) : State × Nat :=
  if bits v 35 5 < 8 ∨ 20 < bits v 35 5 then (s, stBusError) else (s.plainWrite a v, stOK)

/-- The effect of a write on a register copy: copy, address, value. -/
abbrev WriteFn := RegAt → Nat → Nat → State → State × Nat

/-- Registers of the SYS_ to NVM_ blocks whose write does more than its fields' types say. -/
def writesHubA : List (Nat × WriteFn) := [
  (SYS_IRQ_SET.base, fun _ _ v => irqSetEffect v), (SYS_WCk_CTRL.base, fun r _ v => wcCtrlEffect r.i v),
  (SYS_CORE_RELEASE.base, fun _ _ v => coreReleaseEffect v), (CFG_CRC_COMMIT.base, fun _ _ v => crcCommitEffect v),
  (FCU_CTRL.base, fun _ _ v => fcuCtrlEffect v), (FCU_CORE_CLEAR.base, fun _ _ v => fcuCoreClearEffect v),
  (FCU_INJECT.base, fun _ _ v => fcuInjectEffect v), (FCU_WIRE_TEST.base, fun _ _ v => wireTestEffect v),
  (FCU_SRC_id.base, fun r _ v => fcuSrcEffect r.i v), (PWR_CTRL.base, fun _ _ v => pwrCtrlEffect v),
  (PWR_CAP.base, fun _ _ v => pwrCapEffect v), (PWR_THERM_CTRL.base, fun _ _ v => thermCtrlEffect v),
  (PWR_PHASE_p.base, fun r _ v => phaseEffect r.i v), (TIM_CTRL.base, fun _ _ v => timCtrlEffect v),
  (TIM_RATE.base, fun _ _ v => timeRateEffect v), (TIM_SET_S.base, fun _ _ v => timeSetSEffect v),
  (TIM_SET_NS.base, fun _ _ v => timeSetEffect v), (TIM_STEP.base, fun _ _ v => timeStepEffect v),
  (TIM_KICK.base, fun _ _ v => timeKickEffect v), (TIM_PTP_TX_GO.base, fun _ _ v => ptpTxGoEffect v),
  (TIM_TRIGn_CFG.base, fun r _ v => trigCfgEffect r.i v)]

/-- The registers of triggers, timers, boot, security and one-time-programmable store. -/
def writesHubB : List (Nat × WriteFn) := [
  (TIM_TRIGn_START_S.base, fun r a v s => scheduleEffect (s.fbit TIM_TRIGn_CFG_ARM r.i) a v s),
  (TIM_TRIGn_START_NS.base, fun r a v s => scheduleEffect (s.fbit TIM_TRIGn_CFG_ARM r.i) a v s),
  (TIM_TRIGn_PERIOD.base, fun r a v s => scheduleEffect (s.fbit TIM_TRIGn_CFG_ARM r.i) a v s),
  (TIM_CTk_CFG.base, fun r _ v => timerCfgEffect r.i v),
  (TIM_CTk_START_S.base, fun r a v s => scheduleEffect (s.fbit TIM_CTk_CFG_ARM r.i) a v s),
  (TIM_CTk_START_NS.base, fun r a v s => scheduleEffect (s.fbit TIM_CTk_CFG_ARM r.i) a v s),
  (TIM_CTk_SCHED.base, fun r a v s => scheduleEffect (s.fbit TIM_CTk_CFG_ARM r.i) a v s),
  (BOOT_CTRL.base, fun _ _ v => bootCtrlEffect v), (SEC_ATTEST_CTRL.base, fun _ _ v => attestEffect v),
  (SEC_ADMIT_REQ.base, fun _ _ v => admitReqEffect v), (NVM_STATUS.base, fun _ a v => nvmPlainEffect a v),
  (NVM_KEY_STAGE_w.base, fun _ a v => nvmPlainEffect a v), (NVM_ROLLBACK_ADVANCE.base, fun _ _ v => rollbackEffect v),
  (NVM_KEY_PROGRAM.base, fun _ _ v => keyProgramEffect v), (NVM_REVOKE.base, fun _ _ v => revokeEffect v),
  (NVM_LOCK.base, fun _ _ v => nvmLockEffect v)]

/-- The registers of the ports. -/
def writesPorts : List (Nat × WriteFn) := [
  (HMP_FW_DONE.base, fun _ _ v => fwDoneEffect v), (HMP_SESSIONs_CTRL.base, fun r _ v => sessionCtrlEffect r.i v),
  (ETHn_CTRL.base, fun r _ v => ethCtrlEffect r.i v), (ETHn_QBV_LEN.base, fun r _ v => qbvLenEffect r.i v),
  (ETHn_MACSEC_TXa_KEYw.base, fun _ a v => macsecKeyEffect a v), (ETHn_MACSEC_RXc_Aa_KEYw.base, fun _ a v => macsecKeyEffect a v),
  (ETHn_MACSEC_RXc_Aa_PN.base, fun r a v => rxPnEffect r.i r.j r.k a v),
  (MGT_CTRL.base, fun _ _ v => mgtCtrlEffect v), (MGT_MDIO.base, fun _ _ v => mdioEffect v)]

/-- The registers of the input blocks. -/
def writesInputs : List (Nat × WriteFn) := [
  (CSIn_CTRL.base, fun r _ v => csiCtrlEffect r.i v), (CSIn_VC_MAP.base, fun r _ v => csiMapEffect r.i v),
  (ISPn_PARAM_PUSH.base, fun r _ v => paramPushEffect r.i v), (ISPn_Sv_CTRL.base, fun r _ v => ispCtrlEffect r.i r.j v),
  (ISPn_Sv_FORMAT.base, fun r a v => ispCfgEffect r.i r.j a v), (ISPn_Sv_OUT.base, fun r a v => ispCfgEffect r.i r.j a v),
  (ISPn_Sv_WAY.base, fun r a v => ispCfgEffect r.i r.j a v), (ISPn_Sv_DELAY.base, fun r a v => ispCfgEffect r.i r.j a v),
  (ISPn_Sv_VOID_HANDLE.base, fun r a v => ispCfgEffect r.i r.j a v), (SPX_TDMp_CFG.base, fun r _ v => tdmCfgEffect r.i v),
  (SPX_Ff_CFG.base, fun r _ v => spxCfgEffect r.i v), (SPX_Ff_TABLES.base, fun r a v => spxRegEffect r.i a v),
  (SPX_Ff_WAY.base, fun r a v => spxRegEffect r.i a v), (SPX_Ff_SCALE.base, fun r a v => spxRegEffect r.i a v),
  (SPX_Ff_BUDGET.base, fun r a v => spxRegEffect r.i a v), (VCD_Sn_CTRL.base, fun r _ v => vcdCtrlEffect r.i v),
  (VCD_Sn_PARAM.base, fun r a v => vcdRegEffect r.i a v), (VCD_Sn_WAY.base, fun r a v => vcdRegEffect r.i a v),
  (VCD_Sn_VOID.base, fun r a v => vcdRegEffect r.i a v)]

/-- The registers of the Drover, the tally unit and the cores. -/
def writesCore : List (Nat × WriteFn) := [
  (QM_STAGEs_PUSH.base, fun r _ v => stagePushEffect r.i (v % 65536)),
  (QM_WAY_PUT.base, fun _ _ v => wayPutEffect (bits v 48 16) (bits v 0 32) (bits v 32 8)),
  (QM_COMMIT_BASE.base, fun _ a v => commitBaseEffect a v), (QM_KILL.base, fun _ _ v => killEffect (bits v 0 32)),
  (QM_MBX_CLAIMk.base, fun r _ v => mbxClaimEffect r.i (bits v 0 12) (bits v 32 32)),
  (QM_MBXm_CFG.base, fun r _ v => mbxCfgEffect r.i v), (QM_Qq_BASE.base, fun r _ v => queueBaseEffect r.i v),
  (QM_Qq_CFG.base, fun r _ v => queueCfgEffect r.i v), (QM_Qq_HEAD.base, fun r _ v => headWriteEffect r.i v),
  (QM_Qq_TAIL.base, fun r _ v => tailWriteEffect r.i v), (QM_Qq_CTRL.base, fun r _ v => queueCtrlEffect r.i v),
  (QM_Qq_PROGRESS.base, fun r _ _ => progressWriteEffect r.i),
  (TLY_t_ADD.base, fun r _ v => tlyAddEffect r.i v), (TLY_SET.base, fun _ _ v => tlySetEffect (bits v 0 16) (bits v 32 32)),
  (CORE_TASK_RELEASE.base, fun r _ v => taskReleaseEffect r.i (v % 65536)), (SP_SCRUB_CTRL.base, fun _ a v => scrubCtrlEffect a v),
  (SP_ECC_INJECT.base, fun r _ v => eccInjectEffect r.i v)]

/-- Every register whose write does more than its fields' types say. -/
def writeTable : List (Nat × WriteFn) := writesHubA ++ writesHubB ++ writesPorts ++ writesInputs ++ writesCore

/-- The row of a table for a register. -/
def lookupFn {α : Type} (b : Nat) : List (Nat × α) → Option α
  | [] => none
  | (k, f) :: l => if k = b then some f else lookupFn b l

/-- The effect of a write of the width that its register's map states (R477, R478). -/
def State.regEffect (s : State) (r : RegAt) (a v : Nat) : State × Nat :=
  match lookupFn r.t.reg.base writeTable with
  | some f => f r a (v % 2 ^ r.t.width) s
  | none => (s.plainWrite a (v % 2 ^ r.t.width), stOK)

/-- Whether an access of a register block is of its register's width at an implemented address, and the block answers (R443, R472,
R477). -/
def State.regFound (s : State) (a width : Nat) : Option RegAt :=
  match regAt? a regTable with
  | none => none
  | some r => if 8 * width = r.t.width ∧ s.implemented r ∧ !s.blocked a then some r else none

/-- A register write of any address of the register ranges: performed or refused. -/
def State.regWriteAt (s : State) (a width v : Nat) : State × Nat :=
  match s.regFound a width with
  | none => (s, stBusError)
  | some r => s.regEffect r a v

/-! ### Reads of registers -/

/-- The value of a read of a register copy: copy, reading path. -/
abbrev ReadFn := RegAt → Nat → State → State × Nat

/-- The stored word of a register as it reads: WO fields read 0. -/
def State.plainRead (s : State) (r : RegAt) : Nat :=
  let w := ((AMap.get? s.regs r.addr).getD r.rst).toNat % 2 ^ r.t.width
  w - (w &&& r.t.wo)

/-- A read whose value is the stored word with fields that follow other state. -/
def follows (g : RegAt → State → List (Field × Nat)) : ReadFn := fun r _ s =>
  (s, (g r s).foldl (fun w f => putBits w f.1.lo f.1.len f.2) (s.plainRead r))

/-- A read with a read side effect [DEDUCED, log entry 25]. -/
def effectRead (g : RegAt → State → State × Nat) : ReadFn := fun r _ s => g r s

/-- A read of MOV_OUTSTANDING_MAX (R287), and of SYS_RATION_c_MAX_HOLD_NS: the value is returned and cleared. -/
def outstandingMaxRead (c : Nat) (s : State) : State × Nat :=
  (s.fset MOV_OUTSTANDING_MAX_MAX 0 c, s.fget MOV_OUTSTANDING_MAX_MAX c)
def maxHoldRead (c : Nat) (s : State) : State × Nat :=
  (s.fset SYS_RATION_c_MAX_HOLD_NS_HOLD_NS 0 c, s.fget SYS_RATION_c_MAX_HOLD_NS_HOLD_NS c)

/-- MOV_OUTSTANDING_MAX_READ (R287). -/
def execMovOutstandingMaxRead (src c : Nat) (s : State) : Result :=
  readCmd (c < 8) s src (regAddr MOV_OUTSTANDING_MAX c) (outstandingMaxRead c)

/-- RATION_MAX_HOLD_READ (R286). -/
def execRationMaxHoldRead (src c : Nat) (s : State) : Result :=
  readCmd (c < 16) s src (regAddr SYS_RATION_c_MAX_HOLD_NS c) (maxHoldRead c)

/-- The descriptor now running on an engine of a core. -/
def State.engineRuns (s : State) (c e : Nat) : Option Flight :=
  s.drover.flights.find? (fun f => f.core == c && f.pos != 0 && dEngine f.desc == e && (f.stage == .running || f.stage == .moved))

/-- BUSY of an engine [DESIGN CHOICE, log entry 22]. -/
def State.engineBusyBit (s : State) (c e : Nat) : Nat := b2n (s.engineRuns c e).isSome

/-- A read of MXAn_STATUS (R101): which of the enabled spans of a running packed instruction have not reached their T_s is a free value
[DESIGN CHOICE, log entry 22]. -/
def mxaStatusRead (r : RegAt) (s : State) : State × Nat :=
  let run := s.engineRuns r.i (enMXA0 + r.j)
  let op := run.elim 0 (fun f => dOpcode f.desc)
  let mode := if op = opMXA_STREAM then 1 else if op = opMXA_PACKED then 2 else if op = opMXA_THROUGH then 3 else 0
  let spans : Nat := match run with
    | some f =>
      if mode = 2 then (liveProbs (s.probs { c := r.i, f := f, member := false, start := 0, length := 0 })).foldl (fun v q => v + 2 ^ q.span) 0
      else 0
    | none => 0
  let x : Nat × State := if spans = 0 then (0, s) else s.free 8
  (x.2, putBits (s.plainRead r) 0 3 (b2n run.isSome + 2 * mode) + (x.1 &&& spans) * 2 ^ 16)

/-- Time left in the part's quiet period, in milliseconds. -/
def State.quietLeftMs (s : State) : Nat := if s.fget FCU_STATUS_STATE = 1 then (s.fcu.part.quietEnd - s.refTick) / 125000 else 0

/-- Registers of the hub that do not simply read as stored. -/
def readsHub : List (Nat × ReadFn) := [
  (SYS_ID.base, follows (fun _ s => [(SYS_ID_ARRAYS, s.arrayCount), (SYS_ID_STEPPING, s.fuses.stepping)])),
  (SYS_UPTIME_US.base, follows (fun _ s => [(SYS_UPTIME_US_UPTIME_US, s.uptimeUs)])),
  (SYS_RATION_c_MAX_HOLD_NS.base, effectRead (fun r => maxHoldRead r.i)),
  (CFG_CRC_COVERED.base, follows (fun _ s => [(CFG_CRC_COVERED_REGISTERS, s.coveredList.length)])),
  (FCU_STATUS.base, follows (fun _ s => [(FCU_STATUS_FAULT_N, b2n s.pins.faultN), (FCU_STATUS_QUIET_LEFT_MS, s.quietLeftMs)])),
  (PWR_GUARANTEE.base, follows (fun _ s => [(PWR_GUARANTEE_STEP0_W, s.guaranteeW 0), (PWR_GUARANTEE_STEP1_W, s.guaranteeW 1),
    (PWR_GUARANTEE_STEP2_W, s.guaranteeW 2), (PWR_GUARANTEE_STEP3_W, s.guaranteeW 3)])),
  (PWR_STATUS.base, follows (fun _ s => [(PWR_STATUS_CAP_BOUND, b2n s.capBound), (PWR_STATUS_FIXED_AT_RISK, b2n s.fixedAtRisk)])),
  (PWR_CORE_c.base, follows (fun r s => [(PWR_CORE_c_IDLE, b2n (s.occupant r.i).isNone)])),
  (PWR_TEMP_PEAK.base, effectRead (fun _ => tempPeakRead)),
  (TIM_STATUS.base, follows (fun _ s => [(TIM_STATUS_HOLDOVER_MS, s.holdoverMs)])),
  (TIM_NOW_S.base, fun _ src s => timeNowRead src s), (TIM_NOW_NS.base, fun _ src s => (s, s.timeNowNs src)),
  (TIM_CAPn_POP_S.base, effectRead (fun r => capPopRead r.i)),
  (SEC_PART_SERIAL.base, follows (fun _ s => [(SEC_PART_SERIAL_SERIAL, s.fuses.serial)])),
  (SEC_ATTEST_PK_w.base, follows (fun r _ => [(SEC_ATTEST_PK_w_PK, leVal (slice Config.attestKey (8 * r.i) 8))])),
  (NVM_STATUS.base, follows (fun _ s => [(NVM_STATUS_BUSY, b2n s.nvmBusy), (NVM_STATUS_LOCKED, b2n s.nvm.locked),
    (NVM_STATUS_PROGRAMMED, (List.range 8).foldl (fun m k => putBits m k 1 (b2n (s.nvm.slots.getD k ⟨none, false⟩).hash.isSome)) 0),
    (NVM_STATUS_REVOKED, (List.range 8).foldl (fun m k => putBits m k 1 (b2n (s.nvm.slots.getD k ⟨none, false⟩).revoked)) 0)])),
  (NVM_ROLLBACK.base, follows (fun _ s => [(NVM_ROLLBACK_COUNTER, s.nvm.counter), (NVM_ROLLBACK_ADVANCES_LEFT, s.nvm.advancesLeft)]))]

/-- Registers of ports, inputs and Drover that do not simply read as stored. -/
def readsBlocks : List (Nat × ReadFn) := [
  (HMP_MAC.base, follows (fun _ s => [(HMP_MAC_MAC, s.fuses.mac)])),
  (HMP_SESSIONs_SEQ.base, follows (fun r s => [(HMP_SESSIONs_SEQ_IDLE_MS,
    if s.sessionIsOpen r.i then (s.refTick - (s.hmpSession r.i).last) / 125000 else 0)])),
  (ISPn_STATUS.base, follows (fun r s => [(ISPn_STATUS_BUSY, b2n ((List.range 4).any (fun v => (s.ispStream r.i v).frame.isSome)))])),
  (ISPn_WB_FILL_MAX_B.base, effectRead (fun r => wbFillRead r.i)),
  (SPX_STATUS.base, follows (fun _ s => [(SPX_STATUS_BUSY, b2n ((List.range 16).any s.spxEnabled))])),
  (VCD_STATUS.base, follows (fun _ s => [(VCD_STATUS_BUSY, b2n s.vcdBusy)])),
  (QM_CORE_AVAIL.base, follows (fun _ s => [(QM_CORE_AVAIL_OCCUPIED,
    (List.range 8).foldl (fun m c => putBits m c 1 (b2n (s.occupant c).isSome)) 0)])),
  (QM_WAYw_TAKE.base, effectRead (fun r => wayTakeRead r.i)),
  (TLY_WAITING.base, follows (fun _ s => [(TLY_WAITING_COUNT, s.waiting)]))]

/-- Registers of the cores that do not simply read as stored. -/
def readsCore : List (Nat × ReadFn) := [
  (CORE_ARRAYS_PRESENT.base, follows (fun r s => [(CORE_ARRAYS_PRESENT_MXA0, s.arraysOf r.i), (CORE_ARRAYS_PRESENT_MXA1, s.arraysOf r.i / 2)])),
  (CORE_SP_GEOMETRY.base, follows (fun r s => [(CORE_SP_GEOMETRY_WSP_BANKS, spBanks spWSP), (CORE_SP_GEOMETRY_ASP_BANKS, spBanks spASP),
    (CORE_SP_GEOMETRY_PSP_BANKS, spBanks spPSP), (CORE_SP_GEOMETRY_WSP_ROWS, s.spRows r.i spWSP),
    (CORE_SP_GEOMETRY_ASP_ROWS, s.spRows r.i spASP), (CORE_SP_GEOMETRY_PSP_ROWS, s.spRows r.i spPSP)])),
  (MXAn_STATUS.base, effectRead mxaStatusRead),
  (MVP_STATUS.base, follows (fun r s => [(MVP_STATUS_BUSY, s.engineBusyBit r.i enMVP)])),
  (MVP_SAT_ROWS.base, effectRead (fun r => mvpSatRowsRead r.i)),
  (WIN_STATUS.base, follows (fun r s => [(WIN_STATUS_BUSY, s.engineBusyBit r.i enWIN),
    (WIN_STATUS_MODE, (s.engineRuns r.i enWIN).elim 0 (fun f => if dOpcode f.desc = opWIN_FEED then 1 else 2))])),
  (VEC_STATUS.base, follows (fun r s => [(VEC_STATUS_BUSY, s.engineBusyBit r.i enVEC),
    (VEC_STATUS_FUNC, (s.engineRuns r.i enVEC).elim 0 (fun f => dbits f.desc 16 0 5))])),
  (QNT_STATUS.base, follows (fun r s => [(QNT_STATUS_BUSY, s.engineBusyBit r.i enQNT),
    (QNT_STATUS_ADAPTING, (s.engineRuns r.i enQNT).elim 0 (fun f => b2n (dOpcode f.desc == opQNT_ADAPT)))])),
  (ROI_STATUS.base, follows (fun r s => [(ROI_STATUS_BUSY, s.engineBusyBit r.i enROI),
    (ROI_STATUS_OP, (s.engineRuns r.i enROI).elim 0 (fun f => s.roiOp { c := r.i, f := f, member := false, start := 0, length := 0 }))])),
  (CORE_LOCK_CYCLE.base, follows (fun r s => [(CORE_LOCK_CYCLE_GROUP_CYCLE,
    (s.groupOf r.i).elim 0 (fun g => if g.started then s.arrNow r.i - g.since else 0))])),
  (MOV_STATUS.base, follows (fun r s => [(MOV_STATUS_BUSY, s.engineBusyBit r.i enMOV), (MOV_STATUS_WAY_WAIT, b2n (s.wayWaits r.i)),
    (MOV_STATUS_RATION_WAIT, b2n (s.heldTx r.i != 0))])),
  (MOV_OUTSTANDING_MAX.base, effectRead (fun r => outstandingMaxRead r.i)),
  (SP_PH_STATUS.base, follows (fun r s => [(SP_PH_STATUS_ENTRIES_USED, (s.coreAt r.i).packhorse.length)]))]

/-- Every register that does not simply read as stored. -/
def readTable : List (Nat × ReadFn) := readsHub ++ readsBlocks ++ readsCore

/-- The value of an implemented register copy, on path `src`. -/
def State.regValue (s : State) (r : RegAt) (src : Nat) : State × Nat :=
  match lookupFn r.t.reg.base readTable with
  | some f => f r src s
  | none => (s, s.plainRead r)

/-- A register read: state, status, value. -/
def State.regReadAt (s : State) (src a width : Nat) : State × Nat × Nat :=
  match s.regFound a width with
  | none => (s, stBusError, 0)
  | some r =>
    let x := s.regValue r src
    (x.1, stOK, x.2)

/-! ### Any access -/

/-- An access of path `src`, for HMP of session slot `session`: state, status, value (R471 to R484). Register writes are journalled; what
a memory access is charged to, its command charges [DEDUCED, log entry 75]. -/
def State.access (s : State) (src session : Nat) (a : Access) : State × Nat × Nat :=
  let x := { a with addr := a.addr % 2 ^ 48 }
  if isRegSpace x.addr then
    if x.write then
      let r := s.regWriteAt x.addr x.width (x.value % 2 ^ 64)
      (State.writeEnd r src session x.addr x.width (x.value % 2 ^ (8 * x.width)), r.2, 0)
    else
      let r := s.regReadAt src x.addr x.width
      ({ r.1.busError src x.addr r.2.1 false with lastAccess := ⟨r.2.1, r.2.2⟩ }, r.2)
  else s.memorySide src x

/-- REGISTER_WRITE (R478): a write of any address by a writer that has no row of its own [DEDUCED, log entry 75]. -/
def execRegisterWrite (src addr width value : Nat) (s : State) : Result :=
  let a : Access := ⟨true, addr % 2 ^ 48, width, value⟩
  unit (isSource src) (due s.up s (if isRegSpace a.addr then (s.access src 0xFF a).1 else s.memoryCommand src a))

end Sys2Proof.Machine
end

