-- ==== Sys2Proof/Machine/Boot.lean ====
section
/-! DEFINITION. The boot sequence, its failures and retries (R450 to R459), and attestation reports (R467). -/

namespace Sys2Proof.Machine

/-! ### The internal reset (R458, R482) -/

/-- Registers that an internal reset keeps, the live bits of CLK_STATUS among them: BOOT_STATUS and BOOT_FAIL, the journal and its index
[DEDUCED, log entry 71]. -/
def keptByRetry (a : Nat) : Bool :=
  a == regAddr BOOT_STATUS || a == regAddr BOOT_FAIL || a == regAddr CFG_JOURNAL_NEXT ||
  (CFG_JOURNAL_e_Ww.base ≤ a && a < CFG_JOURNAL_e_Ww.base + 0x2_0000)

/-- The part after an internal reset. Memories, one-time-programmable store, debug port, CMB, pins' inputs and the running clocks keep what
they hold [DEDUCED, log entry 71]. -/
def State.internalReset (s : State) : State :=
  let r := State.reset
  let s := s.rebaseAll s.refTick
  let core (c : Nat) : PwrCore := { PwrCore.empty with start := s.arrNow c, since := s.arrNow c }
  let t : State := { r with
    pending := s.pending, regs := s.regs.filter (fun e => keptByRetry e.1), mem := s.mem, poison := s.poison, checkFlips := s.checkFlips
    stamps := s.stamps, nor := s.nor, fuses := s.fuses, nvm := s.nvm, dbg := s.dbg, cmb := s.cmb, refTick := s.refTick
    clk := { s.clk with pendingStep := r.clk.pendingStep, linkFails := r.clk.linkFails }
    pwr := { r.pwr with start := s.refTick, sampled := s.refTick, thermal := s.refTick, cores := (List.range 8).map core }
    cores := r.cores.map (fun k => { k with scrubStart := s.refTick })
    lastAccess := s.lastAccess, freeIndex := s.freeIndex }
  (t.fset CLK_STATUS_PLL_LOCK (s.fget CLK_STATUS_PLL_LOCK)).fset CLK_STATUS_REF_PRESENT (s.fget CLK_STATUS_REF_PRESENT)

/-- Changes the boot state. -/
def State.modBoot (s : State) (f : Boot → Boot) : State := { s with boot := f s.boot }

/-- A failed check ends the attempt (R458); one that RESTART began without a programmed slot is retried like any other (R459). DETAIL is a
free value where the table gives it no meaning [DEDUCED, log entry 70]. -/
def State.bootFail (s : State) (reason : Nat) (detail : Option Nat) : State :=
  let x := match detail with
    | some d => (d, s)
    | none => s.free 32
  let s := ((x.2.fset BOOT_FAIL_REASON reason).fset BOOT_FAIL_DETAIL x.1).fadd BOOT_STATUS_ATTEMPTS 1
  let s := { s with cmb := { s.cmb with alert := putBits s.cmb.alert 2 1 1 } }
  (s.internalReset.fset BOOT_STATUS_STATE 6).modBoot (fun b => { b with failTick := s.refTick, forced := s.boot.forced })

/-! ### Header and manifest (R450 to R453, R457, R459) -/

/-- The largest NOR device (R450). -/
def norEnd : Nat := 0x2000_0000

/-- `n` bytes of the NOR; a byte that the board has not written reads 0xFF [DESIGN CHOICE, log entry 2]. -/
def State.norBytes (s : State) (o n : Nat) : List Byte := Memory.read 0xFF s.nor o n

/-- Whether a header passes: MAGIC, MODE with its read command, and CRC (R451) [DEDUCED, log entry 70]. -/
def norHeaderOk (h : List Byte) : Bool :=
  let mode := mf h 4 1
  mf h 0 4 == 0x3148_4E4B &&
  (mode == 0 || (mode == 1 && (mf h 5 1 == 0xEE || mf h 5 1 == 0xEC) && 8 ≤ mf h 6 1 && mf h 6 1 ≤ 32)) &&
  mf h 4092 4 == crc32c (h.take 4092)

/-- Where the upper half of shared memory begins. -/
def sharedUpper : Nat := sharedBase + 0x10_0000

/-- Whether a boot slot is programmed (R459). -/
def State.bootSlotProgrammed (s : State) : Bool := (s.nvm.slots.take 4).any (fun k => k.hash.isSome)

/-- Steps 2 and 3 of R457, on a header that has passed [DEDUCED, log entry 70]. -/
def State.bootManifest (s : State) (h : List Byte) : State :=
  let at_ := mf h 8 4
  let n := mf h 12 4
  let pay := mf h 16 4
  if norEnd < at_ + n then s.bootFail 2 (some (max at_ norEnd))
  else if 0x10_0000 < n then s.bootFail rsLayout none
  else
    let m := s.norBytes at_ n
    let s := s.writeBytes sharedUpper m
    match s.manifestFails m 1 n with
    | some (reason, d) => s.bootFail reason d
    | none =>
      if mfSequence m < s.nvm.counter then s.bootFail 7 (some s.nvm.counter)
      else if norEnd < pay + mfPayloadB m then s.bootFail 2 (some (max pay norEnd))
      else
        let s := (s.fset BOOT_STATUS_STATE 3).fset BOOT_TIMES_VERIFY_US ((s.refTick - s.boot.start) / 125)
        let s := s.modBoot (fun b => { b with manifest := m, payloadAt := pay, next := 0, config := [], hwDone := false })
        { s with pins := { s.pins with xspi := true } }

/-- An attempt up to the acceptance of its manifest, or its failure; without a programmed boot slot, PROVISION [DEDUCED, log entry 70]. -/
def State.bootAttempt (s : State) : State :=
  let s := s.modNvm Nvm.read
  if !s.bootSlotProgrammed && !s.boot.forced then s.fset BOOT_STATUS_STATE 7
  else
    let h := s.norBytes 0 4096
    if norHeaderOk h then s.bootManifest h else s.bootFail 1 none

/-- BOOT_ATTEMPT (R457, R459): steps 1 to 3. -/
def execBootAttempt (s : State) : Result := due (s.up && s.fget BOOT_STATUS_STATE == 0) s s.bootAttempt

/-! ### Payload (R457) -/

/-- Writes what a block holds of a segment to its destination. -/
def State.bootPiece (s : State) (g : Segment) (b : Nat) (block : List Byte) : State :=
  match g.piece b block with
  | none => s
  | some (o, bs) =>
    if g.kind = sgConfig then s.modBoot (fun x => { x with config := x.config ++ bs })
    else if g.kind = sgDram then s.hubWrite (g.base + o) bs
    else s.writeBytes (g.base + o) bs

/-- Block `next`, its digest checked: written to its destinations, or the attempt fails. -/
def State.bootBlock (s : State) (block : List Byte) : State :=
  let m := s.boot.manifest
  let b := s.boot.next
  if sha512 block ≠ mfDigest m b then s.bootFail 8 (some b)
  else
    let s := (mfTable m).foldl (fun s g => s.bootPiece g b block) s
    let s := s.modBoot (fun x => { x with next := b + 1 })
    if b + 1 = mfBlocks m then { s with pins := { s.pins with xspi := false } } else s

/-- BOOT_BLOCK_LOAD (R457): the next block; a DRAM write waits until DRAM is ready. -/
def execBootBlockLoad (s : State) : Result :=
  let m := s.boot.manifest
  let b := s.boot.next
  let block := s.norBytes (s.boot.payloadAt + 65536 * b) (blockLen (mfPayloadB m) b)
  let waits := !s.boot.hwDone && (mfTable m).any (fun g => g.kind == sgDram && (g.piece b block).isSome)
  due (s.up && s.fget BOOT_STATUS_STATE == 3 && decide (b < mfBlocks m) && !waits) s (s.bootBlock block)

/-! ### Links, DRAM and self-test (R457) -/

/-- DRAM's initialisation leaves its contents unspecified: they read as unwritten (R499) [DESIGN CHOICE, log entry 2]. -/
def State.clearDram (s : State) : State :=
  { s with mem := s.mem.filter (fun c => decide (dramEnd ≤ c.1)), poison := s.poison.filter (fun a => decide (dramEnd ≤ a)) }

/-- BOOT_HARDWARE_INIT_COMPLETE (R457, R458): a hub, link or DRAM element that failed ends the attempt; a core that failed latches
offline. -/
def execBootHardwareInitComplete (failedCores : List Nat) (hubFailed : Bool) (s : State) : Result :=
  let t := (s.trainSpares.clearDram).initPart
  let t := if failedCores = [] then t else t.fset FCU_STATUS_SELFTEST_FAIL_SEEN 1
  let t := failedCores.foldl (fun t c => t.latchScope (some c)) t
  unit (failedCores.all (· < 8)) (due (s.up && s.fget BOOT_STATUS_STATE == 3 && !s.boot.hwDone) s (
    if hubFailed then s.bootFail 10 none else t.modBoot (fun b => { b with hwDone := true })))

/-! ### CONFIG and the Bellwether (R457) -/

/-- The entry of a CONFIG segment at the head of its bytes: a register write laid out as in R381. -/
def configEntry (d : List Byte) : Access := ⟨true, mf d 0 6, mf d 6 1, mf d 8 8⟩

/-- Applies the CONFIG entries in order, from number `i`: the first that does not return OK, if one does not. -/
def State.applyConfig (s : State) (d : List Byte) (i : Nat) : Nat → State × Option Nat
  | 0 => (s, none)
  | n + 1 =>
    let x := s.access 4 0xFF (configEntry (d.drop (16 * i)))
    if x.2.1 ≠ stOK then (x.1, some i) else State.applyConfig x.1 d (i + 1) n

/-- Steps 6 and 7. -/
def State.bootStart (s : State) : State :=
  let m := s.boot.manifest
  let d := mfMeasurement m
  let s := { s with mem := s.mem.filter (fun c => decide (c.1 < sharedUpper ∨ sharedUpper + 0x10_0000 ≤ c.1)) }
  let s := (List.range 8).foldl (fun s w => s.rset BOOT_DIGEST_w (BitVec.ofNat 64 (leVal (slice d (8 * w) 8))) w) s
  let s := ((s.fset BOOT_IMAGE_SEQUENCE (mfSequence m)).fset BOOT_IMAGE_BLOCKS (mfBlocks m)).fset BOOT_IMAGE_KEY_SLOT (mfSlot m)
  let s := s.fset SYS_CORE_RELEASE_RELEASED (s.fget SYS_CORE_RELEASE_RELEASED ||| 1)
  let s := (s.fset BOOT_STATUS_STATE 5).fset BOOT_TIMES_RELEASE_US ((s.refTick - s.boot.start) / 125)
  { s with pins := { s.pins with faultN := !s.inRun } }

/-- BOOT_COMPLETE (R457): steps 5 to 7, once every block is written and the self-test has passed. -/
def execBootComplete (s : State) : Result :=
  let x := s.applyConfig s.boot.config 0 (s.boot.config.length / 16)
  due (s.up && s.fget BOOT_STATUS_STATE == 3 && s.boot.next == mfBlocks s.boot.manifest && s.boot.hwDone) s (
    match x.2 with
    | some i => x.1.bootFail 9 (some i)
    | none => x.1.bootStart)

/-- BOOT_RETRY (R458): 1 s after the failure. -/
def execBootRetry (s : State) : Result :=
  due (s.up && s.fget BOOT_STATUS_STATE == 6 && s.elapsed s.boot.failTick (msTicks 1000)) s
    ((s.fset BOOT_STATUS_STATE 0).modBoot (fun b => { b with start := s.refTick }))

/-! ### Attestation (R467) -/

/-- A byte list cut or filled with zeros to `n` bytes [DEDUCED, log entry 69]. -/
def fitBytes (n : Nat) (l : List Byte) : List Byte := (l ++ List.replicate n 0).take n

/-- The 72 bytes of a model's admission record in a report. -/
def State.reportRecord (s : State) (x : Nat) : List Byte :=
  leBytes 4 x ++ (match s.adm.records.find? (fun y => y.model == x) with
    | some y => leBytes 4 y.sequence ++ fitBytes 64 y.measurement
    | none => leBytes 4 0xFFFF_FFFF ++ List.replicate 64 0)

/-- Words 0 to `n - 1` of a register array, as bytes. -/
def State.regBytes (s : State) (r : Reg) (n : Nat) : List Byte := (List.range n).flatMap (fun w => leBytes 8 (s.rword r w).toNat)

/-- Bytes 0 to BODY_B - 1 of a report. -/
def State.reportBody (s : State) : List Byte :=
  let n := s.fget SEC_ATTEST_CTRL_COUNT
  leBytes 4 0x3152_414B ++ [1] ++ leBytes 1 (b2n s.nvm.locked + 2 * s.fget FCU_CTRL_TEST) ++ leBytes 2 n ++
  leBytes 8 s.fuses.serial ++ s.regBytes SEC_ATTEST_NONCE_w 8 ++ leBytes 6 s.tim.sec ++ leBytes 4 s.tim.ns ++ leBytes 2 0 ++
  leBytes 4 (s.fget BOOT_IMAGE_SEQUENCE) ++ leBytes 4 s.nvm.counter ++ leBytes 1 (s.fget BOOT_IMAGE_KEY_SLOT) ++ leBytes 3 0 ++
  s.regBytes BOOT_DIGEST_w 8 ++ sha512 s.configImage ++
  sha512 (s.adm.records.flatMap (fun y => s.reportRecord y.model)) ++ leBytes 4 s.adm.records.length ++ leBytes 20 0 ++
  (List.range n).flatMap (fun j => s.reportRecord (s.fget SEC_ATTEST_MODEL_j_MODEL_ID j))

/-- A report: body and both signatures [DEDUCED, log entry 69]. -/
def State.attestReport (s : State) : List Byte :=
  let b := s.reportBody
  b ++ fitBytes 64 (Config.edSign b) ++ fitBytes 3309 (Config.mlSign b)

/-- Puts a report into SEC_REPORT; bytes after its end keep what they held [DEDUCED, log entry 69]. -/
def State.putReport (s : State) (b : List Byte) : State :=
  (List.range (ceilDiv b.length 8)).foldl (fun s w =>
    let d := slice b (8 * w) 8
    let old := leBytes 8 (s.rword SEC_REPORT_w w).toNat
    s.rset SEC_REPORT_w (BitVec.ofNat 64 (leVal (d ++ old.drop d.length))) w) s

/-- ATTEST_DONE (R467) [DEDUCED, log entry 69]. -/
def execAttestDone (s : State) : Result :=
  let b := s.attestReport
  due (s.up && s.fbit SEC_ATTEST_CTRL_BUSY) s
    (((s.putReport b).fset SEC_REPORT_B_REPORT_B b.length).fset SEC_ATTEST_CTRL_BUSY 0)

end Sys2Proof.Machine
end

