-- ==== Sys2Proof/Machine/Hmp.lean ====
section
/-! DEFINITION. The messages that the HMP engine executes (R372 to R386), and the ration-period boundary with what it lets go (R279, R280). -/

namespace Sys2Proof.Machine

/-! ### The next request (R375, R377) -/

/-- Whether a request waits for another of its session. -/
def HmpReq.waits (r : HmpReq) (busy : List Nat) : Bool := r.slot.elim false (fun k => busy.contains k)

/-- The first request of a wanted type that waits for no other, `busy` being the sessions with a request before it [DEDUCED, log entry 59]. -/
def firstReq (want : Nat → Bool) (busy : List Nat) : List HmpReq → Option HmpReq
  | [] => none
  | r :: l => if r.waits busy then firstReq want busy l else if want r.type then some r else firstReq want (r.slot.toList ++ busy) l

/-- Sessions with a request at firmware (R377). -/
def State.fwSessions (s : State) : List Nat := s.hmp.fw.filterMap (fun j => j.req.slot)

/-- The request that a message command executes. -/
def State.nextReq (s : State) (want : Nat → Bool) : Option HmpReq := firstReq want s.fwSessions s.hmp.queue

/-- A request of the queue marked as charged: it waits for its transactions. -/
def State.markCharged (s : State) (r : HmpReq) : State :=
  s.modHmp (fun m => { m with queue := m.queue.map (fun x => if x = r then { x with charged := true } else x) })

/-- Takes a request off the queue. -/
def State.dropReq (s : State) (r : HmpReq) : State := s.modHmp (fun m => { m with queue := m.queue.erase r })

/-- A message command: the next request of its type is executed, or in the fold answered CONTAINED_FAULT where R379 does not allow it. Its
transactions, `cost` of them, are charged to class 14 first; where some are held it executes once none is (R278, R280, R378)
[DEDUCED, log entry 78]. -/
def hmpCmd (want : Nat → Bool) (s : State) (cost : HmpReq → State → Nat) (body : HmpReq → State → State) : Result :=
  match s.nextReq want with
  | none => .next s
  | some r =>
    let u := if r.charged then s else s.chargeTx 14 (cost r s)
    let go := (if r.charged then s.heldTx 14 == 0 else cost r s == 0 || u.heldTx 14 == 0)
    due s.up s (
      if !(s.inRun || hmpInFold r.type) then (s.dropReq r).respond r stContainedFault []
      else if go then body r (u.dropReq r)
      else u.markCharged r)

/-- The cost of a message that accesses no memory. -/
def noTx (_ : HmpReq) (_ : State) : Nat := 0

/-! ### Sessions (R372, R374, R380) -/

/-- The session that a SESSION_OPEN repeats (R372). -/
def State.sameOpen (s : State) (r : HmpReq) : Option Nat :=
  (List.range 64).find? (fun k => s.sessionIsOpen k && (s.hmpSession k).partner == r.partner && (s.hmpSession k).s0 == r.seq &&
    s.fget HMP_SESSIONs_SEQ_EXPECTED k == (r.seq + 1) % 2 ^ 32)

/-- Payload of a SESSION_OPEN response [DESIGN CHOICE, log entry 58]. -/
def State.openPayload (s : State) (p timeout : Nat) : List Byte :=
  leBytes 4 timeout ++ leBytes 8 s.fuses.serial ++ leBytes 2 (s.maxPayload p) ++ leBytes 2 0

/-- Generation after `g`. -/
def nextGen (g : Nat) : Nat := if g + 1 = 2 ^ 26 then 1 else g + 1

/-- Slots of no open session [DESIGN CHOICE, log entry 58]. -/
def State.freeSlots (s : State) : List Nat := whichBelow 64 (fun k => !s.sessionIsOpen k)

/-- Opens slot `k` for a request, with the granted timeout [DESIGN CHOICE, log entry 58]. -/
def State.openSlot (s : State) (r : HmpReq) (k timeout : Nat) : State :=
  let g := nextGen (s.hmpSession k).gen
  let s := s.modSession k (fun _ => ⟨g, r.partner, r.seq, timeout, s.refTick, [], s.clk.periodStart, 0⟩)
  let s := s.rset HMP_SESSIONs_STATE
    (BitVec.ofNat 64 (g * 64 + k + 2 ^ 32 + r.partner.port * 2 ^ 33 + b2n r.partner.udp.isSome * 2 ^ 35)) k
  (s.fset HMP_SESSIONs_SEQ_EXPECTED (r.seq + 1) k).fadd HMP_STATUS_SESSIONS_OPEN 1

/-- TIMEOUT_MS that a request is granted. -/
def State.grantMs (s : State) (r : HmpReq) : Nat :=
  if pl r.payload 0 4 = 0 then s.fget HMP_CFG_DEFAULT_TIMEOUT_MS else pl r.payload 0 4

/-- SESSION_OPEN. Which free slot it takes is open; so are session ID and TIMEOUT_MS of a refused open [DESIGN CHOICE, log entry 58]. -/
def State.sessionOpen (r : HmpReq) (s : State) : State :=
  let s := (List.range 64).foldl (fun s k => s.expireSession k) s
  match s.sameOpen r with
  | some k =>
    s.respondAs { r with replayed := true } (s.fget HMP_SESSIONs_STATE_ID k) stOK (s.openPayload r.partner.port (s.hmpSession k).timeout)
  | none =>
    let x := s.free 32
    match s.freeSlots[x.1 % s.freeSlots.length]? with
    | none =>
      let y := x.2.free 32
      y.2.respondAs r y.1 stQueueFull (y.2.openPayload r.partner.port x.1)
    | some k =>
      let t := x.2.openSlot r k (s.grantMs r)
      t.respondAs r (t.fget HMP_SESSIONs_STATE_ID k) stOK (t.openPayload r.partner.port (s.grantMs r))

/-- SESSION_OPEN (R372, R380). -/
def execSessionOpen (s : State) : Result := hmpCmd (· == 0x01) s noTx State.sessionOpen

/-- The response is the session's last message, then the session closes. -/
def State.sessionClose (r : HmpReq) (s : State) : State := r.slot.elim s (fun k => (s.respond r stOK []).closeSession k)

/-- SESSION_CLOSE (R374, R380). -/
def execSessionClose (s : State) : Result := hmpCmd (· == 0x02) s noTx State.sessionClose

/-- KEEPALIVE's effect: the PTP time is returned. -/
def State.keepalive (r : HmpReq) (s : State) : State :=
  s.respond r stOK (leBytes 6 s.tim.sec ++ leBytes 4 s.tim.ns ++ leBytes 6 0)

/-- KEEPALIVE (R380). -/
def execKeepalive (s : State) : Result := hmpCmd (· == 0x03) s noTx State.keepalive

/-! ### Registers (R381) -/

/-- The header status of a list of entry statuses. -/
def firstStatus (l : List Nat) : Nat :=
  if l.contains stZeroing then stZeroing
  else if l.contains stBusError then stBusError
  else if l.contains stQueueFull then stQueueFull
  else stOK

/-- Performs accesses in order, each whatever the others return: the status and value of each. -/
def State.accesses (s : State) (src session : Nat) : List Access → State × List (Nat × Nat)
  | [] => (s, [])
  | a :: l =>
    let x := s.access src session a
    let y := State.accesses x.1 src session l
    (y.1, x.2 :: y.2)

/-- The entries of a REG_READ or REG_WRITE request. -/
def regEntries (write : Bool) (d : List Byte) : List Access :=
  (List.range (pl d 0 1)).map (fun i =>
    let o := 8 + (if write then 16 else 8) * i
    ⟨write, pl d o 6, pl d (o + 6) 1, pl d (o + 8) (if write then 8 else 0)⟩)

/-- What a REG_READ or REG_WRITE does. -/
def State.regMessage (write : Bool) (r : HmpReq) (s : State) : State :=
  let x := s.accesses r.partner.port (r.session % 64) (regEntries write r.payload)
  let out := if write then x.2.map (fun e => BitVec.ofNat 8 e.1) else x.2.flatMap (fun e => leBytes 8 e.1 ++ leBytes 8 e.2)
  x.1.respond r (firstStatus (x.2.map (·.1))) (r.payload.take 8 ++ out)

/-- The transactions of a REG_READ or REG_WRITE: one per entry that accesses DRAM or a scratchpad window (R278). -/
def regTx (write : Bool) (r : HmpReq) (_ : State) : Nat := ((regEntries write r.payload).filter isTx).length

/-- REG_READ (R381). -/
def execRegRead (s : State) : Result := hmpCmd (· == 0x10) s (regTx false) (State.regMessage false)

/-- REG_WRITE (R381). -/
def execRegWrite (s : State) : Result := hmpCmd (· == 0x11) s (regTx true) (State.regMessage true)

/-! ### QUEUE_PUSH (R382) -/

/-- Pushes descriptors in order up to the first refusal: state, pushes accepted, and the refusal's status or 0. -/
def State.pushAll (s : State) (q : Nat) : List Nat → State × (Nat × Nat)
  | [] => (s, (0, 0))
  | d :: l =>
    let x := s.pushDesc q d
    if x.2 ≠ stOK then (x.1, (0, x.2))
    else
      let y := State.pushAll x.1 q l
      (y.1, (y.2.1 + 1, y.2.2))

/-- The descriptors of a QUEUE_PUSH. -/
def pushedDescs (d : List Byte) : List Nat := (List.range (pl d 2 1)).map (fun i => pl d (8 + 64 * i) 64)

/-- QUEUE_PUSH's effect. -/
def State.queuePush (r : HmpReq) (s : State) : State :=
  let q := pl r.payload 0 2
  let x := s.pushAll q (pushedDescs r.payload)
  x.1.respond r (if x.2.2 = 0 then stOK else stQueueFull)
    (leBytes 1 x.2.1 ++ leBytes 1 x.2.2 ++ leBytes 2 0 ++ leBytes 4 (x.1.fget QM_Qq_TAIL_INDEX q))

/-- The transactions of a QUEUE_PUSH: one per descriptor that is accepted (R382). -/
def pushTx (r : HmpReq) (s : State) : Nat := (s.pushAll (pl r.payload 0 2) (pushedDescs r.payload)).2.1

/-- QUEUE_PUSH (R382). -/
def execQueuePush (s : State) : Result := hmpCmd (· == 0x20) s pushTx State.queuePush

/-! ### MAILBOX_GET (R383) -/

/-- The ranges of memory that bytes `[o, o + n)` of a mailbox half's view lie in: header, then data. -/
def State.viewRanges (s : State) (m half o n : Nat) : List (Nat × Nat) :=
  let h := min (o + n) 256 - o
  let d := max o 256
  [(s.mbxHeader m half + o, h), (s.mbxData m half + (d - 256), o + n - d)].filter (fun r => r.2 != 0)

/-- Reads ranges of DRAM for a message: their bytes. -/
def State.hmpReads (s : State) : List (Nat × Nat) → State × List Byte
  | [] => (s, [])
  | (a, n) :: l =>
    let bs := s.readBytes a n
    let y := State.hmpReads (s.hubRead a n) l
    (y.1, bs ++ y.2)

/-- The transactions that ranges of DRAM take. -/
def rangesTx (l : List (Nat × Nat)) : Nat := (l.map (fun r => txCount r.1 r.2)).sum

/-- VIEW_B of a mailbox that holds a result. -/
def State.viewB (s : State) (m : Nat) : Nat := 256 + s.readLE (s.mbxHeader m (s.fget QM_MBXm_STATE_HALF m) + 12) 4

/-- The ranges of memory whose bytes a MAILBOX_GET returns. -/
def State.mbxRanges (s : State) (d : List Byte) : List (Nat × Nat) :=
  let m := pl d 0 2
  let o := pl d 8 4
  let x := (s.mbxRead m (pl d 4 4)).2
  let n := if x.data then min (pl d 12 2) (s.viewB m - o) else 0
  if n = 0 then [] else s.viewRanges m x.half o n

/-- MAILBOX_GET's effect. VIEW_B of a mailbox without a result is open [DEDUCED, log entry 59]. -/
def State.mailboxGet (r : HmpReq) (s : State) : State :=
  let d := r.payload
  let m := pl d 0 2
  let o := pl d 8 4
  let x := s.mbxRead m (pl d 4 4)
  let v : Nat × State := if x.2.seq = 0 then x.1.free 32 else (s.viewB m, x.1)
  let y := v.2.hmpReads (s.mbxRanges d)
  let flags := b2n x.2.seen + 2 * b2n x.2.overtaken + 4 * b2n x.2.pending + 8 * x.2.half
  y.1.respond r x.2.status (leBytes 4 x.2.seq ++ leBytes 1 flags ++ leBytes 3 0 ++ leBytes 4 o ++ leBytes 4 v.1 ++ y.2)

/-- MAILBOX_GET (R383). -/
def execMailboxGet (s : State) : Result := hmpCmd (· == 0x30) s (fun r s => rangesTx (s.mbxRanges r.payload)) State.mailboxGet

/-! ### COMMIT_GET, JOURNAL_GET (R384, R385, R485) -/

/-- First index and number of the commit records that a COMMIT_GET asks for and the log holds. -/
def State.commitAsked (s : State) (d : List Byte) : Nat × Nat :=
  let n := s.fget QM_COMMIT_NEXT_INDEX
  let start := max (pl d 0 4) (n - 2 ^ s.fget QM_COMMIT_BASE_SIZE_LOG2)
  (start, min (pl d 4 1) (n - start))

/-- Whether the die of the commit log answers. -/
def State.commitDieDown (s : State) : Bool := s.dieDown (hubLinkOf (64 * s.fget QM_COMMIT_BASE_BASE))

/-- The slots of the commit log that a COMMIT_GET reads. -/
def State.commitRanges (s : State) (d : List Byte) : List (Nat × Nat) :=
  let x := s.commitAsked d
  if s.commitDieDown then []
  else (List.range x.2).map (fun i =>
    (64 * s.fget QM_COMMIT_BASE_BASE + 64 * ((x.1 + i) % 2 ^ s.fget QM_COMMIT_BASE_SIZE_LOG2), 64))

/-- COMMIT_GET's effect. Where the log's die does not answer, no record is returned and the status is BUS_ERROR [DEDUCED, log entry 59]. -/
def State.commitGet (r : HmpReq) (s : State) : State :=
  let l := s.commitRanges r.payload
  let down := s.commitDieDown && (s.commitAsked r.payload).2 != 0
  let y := s.hmpReads l
  y.1.respond r (if down then stBusError else stOK) (leBytes 4 (s.fget QM_COMMIT_NEXT_INDEX) ++ leBytes 1 l.length ++ leBytes 11 0 ++ y.2)

/-- COMMIT_GET (R384). -/
def execCommitGet (s : State) : Result := hmpCmd (· == 0x31) s (fun r s => rangesTx (s.commitRanges r.payload)) State.commitGet

/-- The 32 bytes of the journal's entry `i` (R484). -/
def State.journalEntry (s : State) (i : Nat) : List Byte :=
  (List.range 4).flatMap (fun w => leBytes 8 (s.rword CFG_JOURNAL_e_Ww (i % 4096) w).toNat)

/-- JOURNAL_GET's effect. -/
def State.journalGet (r : HmpReq) (s : State) : State :=
  let next := s.fget CFG_JOURNAL_NEXT_INDEX
  let first := pl r.payload 0 4
  let cnt := min (pl r.payload 4 2) (if s.jumbo r.partner.port then 256 else 32)
  let is := ((List.range cnt).map (first + ·)).filter (fun i => decide (next - 4096 ≤ i) && decide (i < next))
  s.respond r stOK (leBytes 4 next ++ leBytes 2 is.length ++ leBytes 10 0 ++ is.flatMap s.journalEntry)

/-- JOURNAL_GET (R385). -/
def execJournalGet (s : State) : Result := hmpCmd (· == 0x32) s noTx State.journalGet

/-! ### Requests for firmware (R386) -/

/-- Writes a request whole into the firmware ring, behind its record
[DEDUCED, log entry 57; DESIGN CHOICE, log entry 60]. -/
def State.toFirmware (r : HmpReq) (s : State) : State :=
  let i := s.fget HMP_FW_CTRL_NEXT_SLOT
  let w := r.partner
  let b := leBytes 32 (Config.fwRecord r.session w.port w.mac w.vid w.udp r.sec r.ns).toNat ++ hmpHeader r.type 0 0 r.session r.seq r.payload.length 0 ++ r.payload
  let a := s.fwSlot i
  let s := (s.hubWrite a b).fset HMP_FW_CTRL_NEXT_SLOT (i + 1)
  (s.modHmp (fun m => { m with fw := m.fw ++ [⟨i, r, s.refTick, false⟩] })).irq SYS_IRQ_PENDING_HMP_FW

/-- The transactions of a write into the firmware ring. -/
def fwTx (r : HmpReq) (s : State) : Nat := txCount (s.fwSlot (s.fget HMP_FW_CTRL_NEXT_SLOT)) (48 + r.payload.length)

/-- MODEL_ADMIT (R386). -/
def execModelAdmit (s : State) : Result := hmpCmd (· == 0x40) s fwTx State.toFirmware

/-- FIRMWARE (R386). -/
def execFirmware (s : State) : Result := hmpCmd (fun t => decide (0x41 ≤ t) && decide (t ≤ 0x4F)) s fwTx State.toFirmware

/-! ### The ration-period boundary (R27, R279, R280) -/

/-- What granted transactions let go (R280). -/
def State.letGo (s : State) (op : HeldOp) : State :=
  match op with
  | .none => s
  | .access src a => (s.memorySide src a).1
  | .write a bs => s.hubWrite a bs
  | .push k => s.timerActs k
  | .respond i => s.fwAnswer i
  | .answer a bs r => (s.hubWrite a bs).admEnd r

/-- RATION_PERIOD_BOUNDARY (R27, R279): due 10 µs after the period began. -/
def execRationPeriodBoundary (s : State) : Result :=
  let r := s.rationBoundary
  let t := r.2.foldl State.letGo r.1
  let t := (List.range 8).foldl State.applyStep t
  due (s.up && s.elapsed s.clk.periodStart (usTicks 10)) s
    { t with clk := { t.clk with periodStart := s.clk.periodStart + usTicks 10 } }

end Sys2Proof.Machine
end

