-- ==== Sys2Proof/Machine/Package.lean ====
section
/-! DEFINITION. The package's pins: RESET_N, debug port, board controller interface (R498 to R506). -/

namespace Sys2Proof.Machine

/-! ### RESET_N (R482, R499, R501) -/

/-- What an interrupted one-time-programmable write leaves: each word wholly programmed or wholly unprogrammed, which of the two being
open [DEDUCED, log entry 68]. -/
def State.nvmCut (s : State) : State :=
  match s.nvm.job with
  | none => s
  | some (j, _) =>
    let x := s.free 8
    let n := { s.nvm with job := none }
    let n := match j with
      | .revoke m => n.apply (.revoke (m &&& x.1))
      | _ => if bitAt x.1 0 then n.apply j else n
    { x.2 with nvm := n }

/-- The part in reset: memories, boot store, one-time-programmable store and debug port keep what they hold [DEDUCED, log entry 72]. -/
def State.resetAssert (s : State) : State :=
  let t := s.nvmCut
  let r := State.reset
  { r with
    pending := t.pending, mem := t.mem, poison := t.poison, checkFlips := t.checkFlips, stamps := t.stamps, nor := t.nor
    fuses := t.fuses, nvm := t.nvm, dbg := t.dbg, lastAccess := t.lastAccess, freeIndex := t.freeIndex
    clk := { r.clk with inReset := true } }

/-- RESET_ASSERT (R499): RESET_N held low for at least 10 µs. -/
def execResetAssert (s : State) : Result := .next s.resetAssert

/-- RESET_RELEASE (R499, R505): the straps are sampled, and time counts from here [PRESUMED, log entry 4]. -/
def execResetRelease (straps : Nat) (s : State) : Result :=
  due s.clk.inReset s
    { s with clk := { s.clk with inReset := false }, refTick := 0, cmb := { s.cmb with straps := straps % 4 } }

/-! ### The debug port (R504) -/

/-- Codes of the instruction register. -/
def irEXTEST : Nat := 0x00
def irIDCODE : Nat := 0x01
def irSAMPLE : Nat := 0x02
def irBUS : Nat := 0x20
def irBYPASS : Nat := 0x3F

/-- An instruction is loaded and its data register captured. -/
def State.tap (s : State) (ir dr : Nat) : State := { s with dbg := { s.dbg with ir := ir, dr := dr } }

/-- The identification register. -/
def State.idcodeWord (s : State) : Nat := 1 + 0x4AB * 2 + 0x4160 * 2 ^ 12 + s.fuses.stepping % 16 * 2 ^ 28

/-- IDCODE. -/
def execIdcode (s : State) : Result := .next (s.tap irIDCODE s.idcodeWord)

/-- BYPASS, or any other code: one bit, captured 0. -/
def execBypass (s : State) : Result := .next (s.tap irBYPASS 0)

/-- The boundary register, with what it captures from the balls [PRESUMED, log entry 73]. -/
def State.boundary (s : State) (ir : Nat) : State := (s.free Config.boundaryBits).2.tap ir (s.free Config.boundaryBits).1

/-- SAMPLE/PRELOAD. -/
def execSamplePreload (s : State) : Result := .next (s.boundary irSAMPLE)

/-- EXTEST: loaded as BYPASS unless RESET_N is asserted [PRESUMED, log entry 73]. -/
def execExtest (s : State) : Result := .next (if s.clk.inReset then s.boundary irEXTEST else s.tap irBYPASS 0)

/-- DEBUG_PORT_RESET: DBG_TRST_N resets the port alone [PRESUMED, log entry 4]. -/
def execDebugPortReset (s : State) : Result := .next { s with dbg := State.reset.dbg }

/-- What the access register captures. -/
def Dbg.captured (d : Dbg) : Nat :=
  b2n d.done * 2 ^ 52 + b2n d.overrun * 2 ^ 53 + d.status % 256 * 2 ^ 56 + d.data % 2 ^ 64 * 2 ^ 64

/-- The access that the shifted bits of the access register name. -/
def busAccessOf (shift : Nat) : Access := ⟨bitAt shift 50, bits shift 0 48, 2 ^ bits shift 48 2, bits shift 64 64⟩

/-- BUS_ACCESS with its data register captured, before Update-DR acts [DEDUCED, log entry 72]. -/
def State.busScan (s : State) : State := s.tap irBUS s.dbg.captured

/-- The result of an access, as the next capture shows it. -/
def State.busDone (s : State) (status data : Nat) : State :=
  { s with dbg := { s.dbg with done := true, overrun := false, status := status, data := data } }

/-- BUS_ACCESS: a scan of the access register; with GO, Update-DR performs one access as source 3. While RESET_N is asserted, or before
the clocks start, it completes at once with BUS_ERROR [DEDUCED, log entry 72]. -/
def execBusAccess (shift : Nat) (s : State) : Result :=
  let a := busAccessOf shift
  let t := s.busScan
  let x := t.access 3 0xFF a
  .next (
    if !bitAt shift 51 then { t with dbg := { t.dbg with data := a.value } }
    else if s.clk.inReset || !s.clk.started then t.busDone stBusError 0
    else if !s.clk.running then { t with dbg := { t.dbg with done := false, overrun := t.dbg.overrun || !t.dbg.done } }
    else x.1.busDone x.2.1 (if a.write then a.value else x.2.2))

/-! ### The board controller interface (R505, R506) -/

/-- Changes the CMB. -/
def State.modCmb (s : State) (f : Cmb → Cmb) : State := { s with cmb := f s.cmb }

/-- Whether the CMB answers to a 7-bit address: from 100 µs after release. -/
def State.cmbAnswers (s : State) (addr : Nat) : Bool :=
  !s.clk.inReset && s.elapsed s.clk.releasedAt (usTicks 100) && addr == 0x58 + s.cmb.straps

/-- The value of a CMB register. -/
def State.cmbValue (s : State) (reg : Nat) : Nat :=
  if reg = 0x00 then 0x4160 + s.fuses.stepping % 256 * 2 ^ 16
  else if reg = 0x01 then
    s.fget BOOT_STATUS_STATE + s.fget BOOT_FAIL_REASON * 2 ^ 8 + min (s.fget BOOT_STATUS_ATTEMPTS) 65535 * 2 ^ 16
  else if reg = 0x02 then s.fget BOOT_FAIL_DETAIL
  else if reg = 0x03 then s.fget FCU_STATUS_STATE + b2n s.pins.faultN * 4
  else if reg = 0x04 then s.cmb.alert
  else if reg = 0x05 then s.cmb.mask
  else if reg = 0x06 then s.fget PWR_TEMP_MAX_MAX_MC
  else if reg = 0x07 then s.fget PWR_MEAS_MEAS_MW
  else if reg = 0x08 then s.fuses.serial % 2 ^ 32
  else if reg = 0x09 then s.fuses.serial / 2 ^ 32 % 2 ^ 32
  else if 0x10 ≤ reg ∧ reg ≤ 0x17 then s.cmb.rails.getD (reg - 0x10) 0
  else 0xFFFF_FFFF

/-- What four bytes written to a CMB register do: CMB_ALERT is cleared by 1s, CMB_ALERT_MASK is stored, the others are ignored. -/
def Cmb.write (c : Cmb) (reg v : Nat) : Cmb :=
  if reg = 0x04 then { c with alert := c.alert - (c.alert &&& v) }
  else if reg = 0x05 then { c with mask := v % 32 }
  else c

/-- CMB_WRITE: a write transaction of an index and four bytes. -/
def execCmbWrite (addr reg : Nat) (data : List Nat) (s : State) : Result :=
  let v := leVal (data.map (BitVec.ofNat 8))
  due (s.cmbAnswers addr && data.length == 4) s (s.modCmb (fun c => c.write reg v))

/-- CMB_READ: a read transaction returns the register's four bytes. -/
def execCmbRead (addr reg : Nat) (s : State) : Result :=
  due (s.cmbAnswers addr) s (s.modCmb (fun c => { c with lastRead := s.cmbValue reg }))

/-- Whether a voltage is outside `tol` percent of a nominal one, in millivolts. -/
def railOff (nom tol mv : Nat) : Bool := decide (100 * mv < (100 - tol) * nom) || decide ((100 + tol) * nom < 100 * mv)

/-- Whether rail `k` in the order of R495 is outside its tolerance. -/
def railOut (k mv : Nat) : Bool :=
  if k ≤ 2 then railOff 750 3 mv
  else if k = 3 then railOff 1100 3 mv
  else if k = 4 then railOff 900 2 mv
  else if k = 5 then railOff 900 3 mv
  else if k = 6 then railOff 1800 5 mv
  else railOff 1800 5 mv && railOff 2500 5 mv

/-- CMB_RAIL_k after a comparison. -/
def railWord (old k mv : Nat) : Nat := putBits (putBits old 0 16 mv) 31 1 (b2n (railOut k mv))

/-- RAIL_CHECK: the CMB compares the rails with their tolerances, every 100 µs [DEDUCED, log entry 74]. -/
def execRailCheck (millivolts : List Nat) (s : State) : Result :=
  let rails := (List.range 8).map (fun k =>
    let old := s.cmb.rails.getD k 0
    (millivolts[k]?).elim old (railWord old k))
  let bad := (List.range 8).any (fun k => (millivolts[k]?).elim false (railOut k))
  let alert := if bad then putBits s.cmb.alert 4 1 1 else s.cmb.alert
  due (!s.clk.inReset && s.elapsed s.cmb.checked (usTicks 100)) s
    (s.modCmb (fun c => { c with rails := rails, alert := alert, checked := s.refTick }))

end Sys2Proof.Machine
end

