-- ==== Sys2Proof/Machine/Dispatch.lean ====
section
/-! DEFINITION. One arm per command: the meaning of each. -/

namespace Sys2Proof.Machine

def exec (i : Instr) (s : State) : Host.Outcome State Fault Refusal :=
  match i with
  | .resetAssert => Sys2Proof.Machine.execResetAssert s
  | .resetRelease straps => Sys2Proof.Machine.execResetRelease straps s
  | .clocksStart => Sys2Proof.Machine.execClocksStart s
  | .pllLockLoss => Sys2Proof.Machine.execPllLockLoss s
  | .referenceLoss => Sys2Proof.Machine.execReferenceLoss s
  | .clocksRestart => Sys2Proof.Machine.execClocksRestart s
  | .rationPeriodBoundary => Sys2Proof.Machine.execRationPeriodBoundary s
  | .linkReplay link bytes success => Sys2Proof.Machine.execLinkReplay link bytes success s
  | .descriptorFetch queue => Sys2Proof.Machine.execDescriptorFetch queue s
  | .descriptorForward core => Sys2Proof.Machine.execDescriptorForward core s
  | .nop ref => Sys2Proof.Machine.execNop ref s
  | .caravanBegin queue => Sys2Proof.Machine.execCaravanBegin queue s
  | .caravanPlace => Sys2Proof.Machine.execCaravanPlace s
  | .caravanEnd core => Sys2Proof.Machine.execCaravanEnd core s
  | .fence queue => Sys2Proof.Machine.execFence queue s
  | .groupOpen core => Sys2Proof.Machine.execGroupOpen core s
  | .groupStart core => Sys2Proof.Machine.execGroupStart core s
  | .memberStart core => Sys2Proof.Machine.execMemberStart core s
  | .groupEnd core => Sys2Proof.Machine.execGroupEnd core s
  | .mxaStream core array => Sys2Proof.Machine.execMxaStream core array s
  | .mxaPacked core array => Sys2Proof.Machine.execMxaPacked core array s
  | .mxaThrough core array => Sys2Proof.Machine.execMxaThrough core array s
  | .mvpMatvec core => Sys2Proof.Machine.execMvpMatvec core s
  | .winFeed core => Sys2Proof.Machine.execWinFeed core s
  | .winRegroup core => Sys2Proof.Machine.execWinRegroup core s
  | .add core => Sys2Proof.Machine.execAdd core s
  | .sub core => Sys2Proof.Machine.execSub core s
  | .mul core => Sys2Proof.Machine.execMul core s
  | .fma core => Sys2Proof.Machine.execFma core s
  | .min core => Sys2Proof.Machine.execMin core s
  | .max core => Sys2Proof.Machine.execMax core s
  | .abs core => Sys2Proof.Machine.execAbs core s
  | .neg core => Sys2Proof.Machine.execNeg core s
  | .clamp core => Sys2Proof.Machine.execClamp core s
  | .select core => Sys2Proof.Machine.execSelect core s
  | .curve core => Sys2Proof.Machine.execCurve core s
  | .convert core => Sys2Proof.Machine.execConvert core s
  | .slotAdd core => Sys2Proof.Machine.execSlotAdd core s
  | .slotToFp32 core => Sys2Proof.Machine.execSlotToFp32 core s
  | .reduceSum core => Sys2Proof.Machine.execReduceSum core s
  | .reduceMax core => Sys2Proof.Machine.execReduceMax core s
  | .curveLoad core => Sys2Proof.Machine.execCurveLoad core s
  | .qntConvert core => Sys2Proof.Machine.execQntConvert core s
  | .qntAdapt core => Sys2Proof.Machine.execQntAdapt core s
  | .windowPooling core => Sys2Proof.Machine.execWindowPooling core s
  | .boxPooling core => Sys2Proof.Machine.execBoxPooling core s
  | .cropAndResize core => Sys2Proof.Machine.execCropAndResize core s
  | .movStream core => Sys2Proof.Machine.execMovStream core s
  | .movWayInTake core => Sys2Proof.Machine.execMovWayInTake core s
  | .movWayOutPut core => Sys2Proof.Machine.execMovWayOutPut core s
  | .descriptorComplete ref => Sys2Proof.Machine.execDescriptorComplete ref s
  | .completionRecordPost queue => Sys2Proof.Machine.execCompletionRecordPost queue s
  | .stagePush src stage queue => Sys2Proof.Machine.execStagePush src stage queue s
  | .tailWrite src queue value => Sys2Proof.Machine.execTailWrite src queue value s
  | .headWrite src queue value => Sys2Proof.Machine.execHeadWrite src queue value s
  | .stop src queue => Sys2Proof.Machine.execStop src queue s
  | .resume src queue => Sys2Proof.Machine.execResume src queue s
  | .resetIndex src queue => Sys2Proof.Machine.execResetIndex src queue s
  | .queueCfgWrite src queue base value => Sys2Proof.Machine.execQueueCfgWrite src queue base value s
  | .tlyAdd src tally inc => Sys2Proof.Machine.execTlyAdd src tally inc s
  | .tlySet src tally value => Sys2Proof.Machine.execTlySet src tally value s
  | .wayPut src way handle status => Sys2Proof.Machine.execWayPut src way handle status s
  | .wayTake src way => Sys2Proof.Machine.execWayTake src way s
  | .kill src caravanId => Sys2Proof.Machine.execKill src caravanId s
  | .runLimitExpiry core => Sys2Proof.Machine.execRunLimitExpiry core s
  | .mailboxCancel src mailbox => Sys2Proof.Machine.execMailboxCancel src mailbox s
  | .mailboxClaim src claim mailbox want => Sys2Proof.Machine.execMailboxClaim src claim mailbox want s
  | .taskRelease src core tasks => Sys2Proof.Machine.execTaskRelease src core tasks s
  | .zeroingBegin core task => Sys2Proof.Machine.execZeroingBegin core task s
  | .zeroingComplete core task => Sys2Proof.Machine.execZeroingComplete core task s
  | .packhorseDrain core row => Sys2Proof.Machine.execPackhorseDrain core row s
  | .correctionWriteBack core space => Sys2Proof.Machine.execCorrectionWriteBack core space s
  | .scrubRead core space bank => Sys2Proof.Machine.execScrubRead core space bank s
  | .eccInjectArm src core value => Sys2Proof.Machine.execEccInjectArm src core value s
  | .scratchpadWindowAccess src access => Sys2Proof.Machine.execScratchpadWindowAccess src access s
  | .wcInvalidate src cache value => Sys2Proof.Machine.execWcInvalidate src cache value s
  | .wcInvalidateDone cache => Sys2Proof.Machine.execWcInvalidateDone cache s
  | .csiFrameStart port vc frameNumber => Sys2Proof.Machine.execCsiFrameStart port vc frameNumber s
  | .csiLongPacket port packet => Sys2Proof.Machine.execCsiLongPacket port packet s
  | .csiFrameEnd port vc frameNumber => Sys2Proof.Machine.execCsiFrameEnd port vc frameNumber s
  | .frameTimeout port stream => Sys2Proof.Machine.execFrameTimeout port stream s
  | .byteClkMeasure port khz => Sys2Proof.Machine.execByteClkMeasure port khz s
  | .ispStreamEnable src port stream value => Sys2Proof.Machine.execIspStreamEnable src port stream value s
  | .ispStreamDisable src port stream value => Sys2Proof.Machine.execIspStreamDisable src port stream value s
  | .ispParamPush src port handle stream => Sys2Proof.Machine.execIspParamPush src port handle stream s
  | .ispParamCheckDone port => Sys2Proof.Machine.execIspParamCheckDone port s
  | .ispFrameDeliver port stream => Sys2Proof.Machine.execIspFrameDeliver port stream s
  | .ispEntryPut port stream => Sys2Proof.Machine.execIspEntryPut port stream s
  | .tdmFrameSync port bitsSeen samples => Sys2Proof.Machine.execTdmFrameSync port bitsSeen samples s
  | .tdmRateMeasure port hz => Sys2Proof.Machine.execTdmRateMeasure port hz s
  | .spxStreamEnable src stream value => Sys2Proof.Machine.execSpxStreamEnable src stream value s
  | .spxStreamDisable src stream value => Sys2Proof.Machine.execSpxStreamDisable src stream value s
  | .featureFrameCompute stream => Sys2Proof.Machine.execFeatureFrameCompute stream s
  | .spxBufferPut stream => Sys2Proof.Machine.execSpxBufferPut stream s
  | .spxBudgetExpiry stream => Sys2Proof.Machine.execSpxBudgetExpiry stream s
  | .vcdSessionOpen src session value => Sys2Proof.Machine.execVcdSessionOpen src session value s
  | .vcdSessionClose src session value => Sys2Proof.Machine.execVcdSessionClose src session value s
  | .vcdPictureStart session => Sys2Proof.Machine.execVcdPictureStart session s
  | .vcdPictureDone session => Sys2Proof.Machine.execVcdPictureDone session s
  | .vcdPictureBudgetExpiry session => Sys2Proof.Machine.execVcdPictureBudgetExpiry session s
  | .ethFrameReceive port frame => Sys2Proof.Machine.execEthFrameReceive port frame s
  | .ethLinkLoss port => Sys2Proof.Machine.execEthLinkLoss port s
  | .sessionOpen => Sys2Proof.Machine.execSessionOpen s
  | .sessionClose => Sys2Proof.Machine.execSessionClose s
  | .keepalive => Sys2Proof.Machine.execKeepalive s
  | .regRead => Sys2Proof.Machine.execRegRead s
  | .regWrite => Sys2Proof.Machine.execRegWrite s
  | .queuePush => Sys2Proof.Machine.execQueuePush s
  | .mailboxGet => Sys2Proof.Machine.execMailboxGet s
  | .commitGet => Sys2Proof.Machine.execCommitGet s
  | .journalGet => Sys2Proof.Machine.execJournalGet s
  | .modelAdmit => Sys2Proof.Machine.execModelAdmit s
  | .firmware => Sys2Proof.Machine.execFirmware s
  | .sessionTimeout session => Sys2Proof.Machine.execSessionTimeout session s
  | .hmpSessionCloseWrite src session => Sys2Proof.Machine.execHmpSessionCloseWrite src session s
  | .fwDone src slot => Sys2Proof.Machine.execFwDone src slot s
  | .fwResponseTimeout slot => Sys2Proof.Machine.execFwResponseTimeout slot s
  | .lastWordCopy copy => Sys2Proof.Machine.execLastWordCopy copy s
  | .macsecKeyWrite src addr value => Sys2Proof.Machine.execMacsecKeyWrite src addr value s
  | .ethFrameTransmit port => Sys2Proof.Machine.execEthFrameTransmit port s
  | .qbvCommit src port value => Sys2Proof.Machine.execQbvCommit src port value s
  | .qbvCycleBoundary port => Sys2Proof.Machine.execQbvCycleBoundary port s
  | .cbRecoveryReset port stream => Sys2Proof.Machine.execCbRecoveryReset port stream s
  | .mdioAccess src value => Sys2Proof.Machine.execMdioAccess src value s
  | .mdioDone data => Sys2Proof.Machine.execMdioDone data s
  | .ptpTxGo src slot => Sys2Proof.Machine.execPtpTxGo src slot s
  | .ptpTxDone slot => Sys2Proof.Machine.execPtpTxDone slot s
  | .timeSet src ns => Sys2Proof.Machine.execTimeSet src ns s
  | .timeStep src step => Sys2Proof.Machine.execTimeStep src step s
  | .timeRateWrite src increment => Sys2Proof.Machine.execTimeRateWrite src increment s
  | .timeKick src => Sys2Proof.Machine.execTimeKick src s
  | .timLock src => Sys2Proof.Machine.execTimLock src s
  | .timHold src => Sys2Proof.Machine.execTimHold src s
  | .timRelease src => Sys2Proof.Machine.execTimRelease src s
  | .syncTimeout => Sys2Proof.Machine.execSyncTimeout s
  | .timeNowRead src => Sys2Proof.Machine.execTimeNowRead src s
  | .triggerArm src trigger value => Sys2Proof.Machine.execTriggerArm src trigger value s
  | .triggerDisarm src trigger value => Sys2Proof.Machine.execTriggerDisarm src trigger value s
  | .triggerFire trigger => Sys2Proof.Machine.execTriggerFire trigger s
  | .triggerPulseEnd trigger => Sys2Proof.Machine.execTriggerPulseEnd trigger s
  | .controlTimerArm src timer value => Sys2Proof.Machine.execControlTimerArm src timer value s
  | .controlTimerFire timer => Sys2Proof.Machine.execControlTimerFire timer s
  | .captureEdge input rising => Sys2Proof.Machine.execCaptureEdge input rising s
  | .capturePop src input => Sys2Proof.Machine.execCapturePop src input s
  | .powerSample rails => Sys2Proof.Machine.execPowerSample rails s
  | .controlIntervalEnd estimates => Sys2Proof.Machine.execControlIntervalEnd estimates s
  | .activityLevelChange array => Sys2Proof.Machine.execActivityLevelChange array s
  | .thermalSample readings => Sys2Proof.Machine.execThermalSample readings s
  | .powerModeWrite src value => Sys2Proof.Machine.execPowerModeWrite src value s
  | .powerCapWrite src value => Sys2Proof.Machine.execPowerCapWrite src value s
  | .phaseWrite src phase value => Sys2Proof.Machine.execPhaseWrite src phase value s
  | .faultReport source cls => Sys2Proof.Machine.execFaultReport source cls s
  | .wireFault source pair level => Sys2Proof.Machine.execWireFault source pair level s
  | .levelFaultRereport source cls => Sys2Proof.Machine.execLevelFaultRereport source cls s
  | .quietPeriodExpiry core => Sys2Proof.Machine.execQuietPeriodExpiry core s
  | .recoveryPhaseComplete core failed => Sys2Proof.Machine.execRecoveryPhaseComplete core failed s
  | .fcuClearLatch src value => Sys2Proof.Machine.execFcuClearLatch src value s
  | .fcuCoreClear src cores => Sys2Proof.Machine.execFcuCoreClear src cores s
  | .faultForce src source cls => Sys2Proof.Machine.execFaultForce src source cls s
  | .faultInjectArm src value => Sys2Proof.Machine.execFaultInjectArm src value s
  | .wireTest src value => Sys2Proof.Machine.execWireTest src value s
  | .bootAttempt => Sys2Proof.Machine.execBootAttempt s
  | .bootBlockLoad => Sys2Proof.Machine.execBootBlockLoad s
  | .bootComplete => Sys2Proof.Machine.execBootComplete s
  | .bootRetry => Sys2Proof.Machine.execBootRetry s
  | .bootRestart src => Sys2Proof.Machine.execBootRestart src s
  | .controlCoreRelease src cores => Sys2Proof.Machine.execControlCoreRelease src cores s
  | .rollbackAdvance src value => Sys2Proof.Machine.execRollbackAdvance src value s
  | .keyProgram src slot => Sys2Proof.Machine.execKeyProgram src slot s
  | .revoke src slots => Sys2Proof.Machine.execRevoke src slots s
  | .nvmLock src => Sys2Proof.Machine.execNvmLock src s
  | .nvmProgramDone ok => Sys2Proof.Machine.execNvmProgramDone ok s
  | .begin_ => Sys2Proof.Machine.execBegin s
  | .manifest => Sys2Proof.Machine.execManifest s
  | .data => Sys2Proof.Machine.execData s
  | .finish => Sys2Proof.Machine.execFinish s
  | .abort => Sys2Proof.Machine.execAbort s
  | .remove => Sys2Proof.Machine.execRemove s
  | .admitTimeout context => Sys2Proof.Machine.execAdmitTimeout context s
  | .attestGo src value => Sys2Proof.Machine.execAttestGo src value s
  | .attestDone => Sys2Proof.Machine.execAttestDone s
  | .registerWrite src addr width value => Sys2Proof.Machine.execRegisterWrite src addr width value s
  | .crcCommit src => Sys2Proof.Machine.execCrcCommit src s
  | .crcPassEnd => Sys2Proof.Machine.execCrcPassEnd s
  | .irqSet src => Sys2Proof.Machine.execIrqSet src s
  | .mvpSatRowsRead src core => Sys2Proof.Machine.execMvpSatRowsRead src core s
  | .movOutstandingMaxRead src core => Sys2Proof.Machine.execMovOutstandingMaxRead src core s
  | .rationMaxHoldRead src cls => Sys2Proof.Machine.execRationMaxHoldRead src cls s
  | .wbFillMaxRead src port => Sys2Proof.Machine.execWbFillMaxRead src port s
  | .tempPeakRead src => Sys2Proof.Machine.execTempPeakRead src s
  | .busAccess shift => Sys2Proof.Machine.execBusAccess shift s
  | .idcode => Sys2Proof.Machine.execIdcode s
  | .extest => Sys2Proof.Machine.execExtest s
  | .samplePreload => Sys2Proof.Machine.execSamplePreload s
  | .bypass => Sys2Proof.Machine.execBypass s
  | .debugPortReset => Sys2Proof.Machine.execDebugPortReset s
  | .cmbWrite addr reg data => Sys2Proof.Machine.execCmbWrite addr reg data s
  | .cmbRead addr reg => Sys2Proof.Machine.execCmbRead addr reg s
  | .railCheck millivolts => Sys2Proof.Machine.execRailCheck millivolts s
  | .ethLinkUp port => Sys2Proof.Machine.execEthLinkUp port s
  | .csiSkewCalibration port initial => Sys2Proof.Machine.execCsiSkewCalibration port initial s
  | .csiClockLaneModeChange port highSpeed => Sys2Proof.Machine.execCsiClockLaneModeChange port highSpeed s
  | .bootHardwareInitComplete failedCores hubFailed => Sys2Proof.Machine.execBootHardwareInitComplete failedCores hubFailed s

end Sys2Proof.Machine
end

