-- ==== Sys2Proof/Safety.lean ====
section
/-! DEFINITION. What counts as a safe outcome and a sound state: the terms that statements use. -/

namespace Sys2Proof.Machine

/-- A step answered a next state with a property. -/
def nextHas (o : Host.Outcome State Fault Refusal) (p : State → Prop) : Prop := ∃ t, o = .next t ∧ p t

/-- The canonical form of the part's memories and of its register store. -/
structure State.Sound (s : State) : Prop where
  mem : Memory.wf 0 s.mem = true
  nor : Memory.wf 0xFF s.nor = true
  regs : AMap.sortedFrom 0 s.regs = true

/-- The registers that the common end of a register access may write (R478, R483): the bus-error capture and the journal. -/
def busLogReg (a : Nat) : Prop :=
  a = SYS_BUS_ERRORS.addr 0 0 0 0 ∨ a = SYS_BUS_ERR_LAST.addr 0 0 0 0 ∨ a = CFG_JOURNAL_NEXT.addr 0 0 0 0 ∨
    ∃ e w, e < 4096 ∧ w < 4 ∧ a = CFG_JOURNAL_e_Ww.addr e w 0 0

/-- Every register copy but those named reads as before. -/
def regsKept (s t : State) (written : Nat → Prop) : Prop := ∀ a, ¬ written a → AMap.get? t.regs a = AMap.get? s.regs a

/-- Every byte of memory but those named reads as before. -/
def memKept (s t : State) (stored : Nat → Prop) : Prop := ∀ a, ¬ stored a → t.readByte a = s.readByte a

/-- An access by a writer of R475 reaches the register copy at an address: the clocks run and its block answers. -/
def reaches (s : State) (src a : Nat) : Prop := isSource src = true ∧ s.up = true ∧ s.blocked a = false

/-- No address: what a command that stores nothing stores to. -/
def nowhere : Nat → Prop := fun _ => False

/-- Addresses of `n` bytes from `a` on. -/
def bytesAt (a n : Nat) : Nat → Prop := fun x => a ≤ x ∧ x < a + n

/-- Addresses of register copies. -/
def anyOf (l : List Nat) : Nat → Prop := fun a => a ∈ l

/-- The register copies of a list, and those that the common end of a register access may write. -/
def loggedAnd (l : List Nat) : Nat → Prop := fun a => a ∈ l ∨ busLogReg a

/-- What a list of signals adds to a tally. -/
def signalSum (l : List (Nat × Nat)) (n : Nat) : Nat := ((l.filter (fun x => x.1 == n)).map (·.2)).sum

/-- Every flight of a descriptor has a property. -/
def flightHas (t : State) (r : DescRef) (p : Flight → Prop) : Prop := ∀ g ∈ t.drover.flights, g.ref = r → p g

/-- Every caravan of a ring slot has a property. -/
def caravanHas (t : State) (q idx : Nat) (p : Caravan → Prop) : Prop := ∀ k ∈ t.drover.caravans, k.queue = q → k.index = idx → p k

/-- EtherType and headers with which a PDU goes to a partner: none under its own EtherType, else IP and UDP headers to the partner's address
and port, from an own address and with the open fields at some value (R362, R369). -/
def goesTo (f : TxFrame) (u : Option (Bool × (Nat × Nat))) (pdu : List Byte) : Prop :=
  match u with
  | none => f.etherType = 0x88B5 ∧ f.head = []
  | some (v6, addr, port) => ∃ own x, f.etherType = (if v6 then 0x86DD else 0x0800) ∧
      f.head = if v6 then ip6Header own addr port x pdu else ip4Header own addr port x pdu

/-- The ration of a class issues `n` transactions at once: it holds none, and its budget has room for them (R278, R280). -/
def State.grants (s : State) (c n : Nat) : Prop := s.heldTx c = 0 ∧ s.usedTx c + n ≤ s.budgetOf c

/-- The `n` transactions of a message are issued: it has been charged and none is held, it has none, or its ration and the lenders issue them
all (R278, R280, R281). -/
def State.pays (s : State) (r : HmpReq) (n : Nat) : Prop :=
  if r.charged then s.heldTx 14 = 0 else n = 0 ∨ (s.heldTx 14 = 0 ∧ (s.issueTx 14 n).2 = 0)

/-- The state in which a message executes: its `n` transactions charged, and itself off the queue. -/
def State.paid (s : State) (r : HmpReq) (n : Nat) : State := (if r.charged then s else s.chargeTx 14 n).dropReq r

/-- Ports on which a response leaves: its request's, or ETH0 and ETH1 under HMP_CFG.CB_MODE (R364, R369). -/
def State.responsePorts (t : State) (r : HmpReq) : List Nat := if t.fbit HMP_CFG_CB_MODE then [0, 1] else [r.partner.port]

/-- A response to a request waits on each of its ports whose link is up: its header (R370), its payload, and its partner (R376). -/
def State.answers (t : State) (r : HmpReq) (session status : Nat) (payload : List Byte) : Prop :=
  ∀ p ∈ t.responsePorts r, t.linkUp p = true → ∃ f ∈ (t.ethPort p).txq, f.da = r.partner.mac ∧ goesTo f r.partner.udp f.bytes ∧
    f.bytes = hmpHeader r.type (1 + 2 * b2n r.replayed + 4 * b2n (r.gap != 0)) status session r.seq payload.length
      (min r.gap 65535) ++ payload

/-- A member of a lockstep group whose members have written no row yet, or a descriptor outside lockstep: no write of a later cycle stands in
the banks before its own. -/
def State.writesFirst (s : State) (j : Job) : Prop := j.member = true → ∀ g, s.groupOf j.c = some g → g.writes = []

/-- The runs of a mover's blocks that name no waystation entry: source space and address, destination space and address, bytes. -/
def movRunsOf (c : Nat) (t : TaskLatch) (bl : List Block) : List (Nat × Nat × Nat × Nat × Nat) :=
  bl.flatMap (fun b => (List.range (b.n1 * b.n2 * b.n3)).map (fun i =>
    (handleSpace b.src, sideAddr c t (handleSpace b.src) (runGranule (handleIndex b.src) b.srcS (runIndex b i)),
      handleSpace b.dst, sideAddr c t (handleSpace b.dst) (runGranule (handleIndex b.dst) b.dstS (runIndex b i)), b.len)))

/-- Every run of a block lies within the task's bounds and on its die (R147, R259). -/
def State.runsAllowed (s : State) (c : Nat) (t : TaskLatch) (b : Block) : Bool :=
  s.blockBounded c t b (blockSide b.src false none) (blockSide b.dst false none) &&
  (List.range (b.n1 * b.n2 * b.n3)).all (fun i =>
    dieHolds (handleSpace b.src) (runGranule (handleIndex b.src) b.srcS (runIndex b i)) b.len &&
    dieHolds (handleSpace b.dst) (runGranule (handleIndex b.dst) b.dstS (runIndex b i)) b.len)

/-- Two ranges of as many bytes share none. -/
def rangesApart (a n b m : Nat) : Prop := a + n ≤ b ∨ b + m ≤ a

/-- Destinations of runs lie apart from each other and from every source. -/
def runsApart (runs : List (Nat × Nat × Nat × Nat × Nat)) : Prop :=
  runs.Pairwise (fun r q => rangesApart r.2.2.2.1 r.2.2.2.2 q.2.2.2.1 q.2.2.2.2) ∧
  ∀ r ∈ runs, ∀ q ∈ runs, rangesApart r.2.2.2.1 r.2.2.2.2 q.2.1 q.2.2.2.2

/-- Ration transactions of a mover descriptor: those of its list's read and of its runs (R263, R278). -/
def movTx (d : Nat) (runs : List (Nat × Nat × Nat × Nat × Nat)) : Nat :=
  (if handleSpace (mvList d) ≤ 1 then txCount (dramAddr (mvList d)) (64 * mvBlocks d) else 0) +
  (runs.map (fun r => runTx r.1 r.2.1 r.2.2.1 r.2.2.2.1 r.2.2.2.2)).sum

/-- A request of the admission engine has been answered in its slot with an OP, a reason, a context, NEXT_OFFSET and BLOCKS_DONE
(R461, R462). -/
def State.admAnswered (t : State) (a op reason id next done : Nat) : Prop :=
  t.adm.req = none ∧ t.fbit SEC_ADMIT_STATUS_BUSY = false ∧ t.fbit SEC_ADMIT_STATUS_DONE_SEEN = true ∧
    t.fget SEC_ADMIT_STATUS_LAST_REASON = reason ∧ t.fbit SYS_IRQ_PENDING_ADMIT = true ∧
    t.readBytes (a + 8336) 16 = leBytes 1 op ++ leBytes 1 reason ++ leBytes 2 0 ++ leBytes 4 id ++ leBytes 4 next ++ leBytes 4 done

end Sys2Proof.Machine
end

