-- ==== Sys2Proof/WellFormed.lean ====
section
/-! DEFINITION. Which commands name units that the part can have: writers, cores, queues, ports, streams, slots. A command that is not
well formed names a unit that no part has. -/

namespace Sys2Proof

open Sys2Proof.Machine

/-- The unit that a command names is below the number of its kind. -/
def Instr.unitOk : Instr → Bool
  | .linkReplay l _ _ => l < 3
  | .descriptorFetch q | .caravanBegin q | .fence q | .completionRecordPost q => q < 65536
  | .nop r | .descriptorComplete r => r.queue < 65536
  | .descriptorForward c | .caravanEnd c | .groupOpen c | .groupStart c | .memberStart c | .groupEnd c => c < 8
  | .mxaStream c a | .mxaPacked c a | .mxaThrough c a => c < 8 && a < 2
  | .mvpMatvec c | .winFeed c | .winRegroup c | .add c | .sub c | .mul c | .fma c | .min c | .max c | .abs c | .neg c => c < 8
  | .clamp c | .select c | .curve c | .convert c | .slotAdd c | .slotToFp32 c | .reduceSum c | .reduceMax c | .curveLoad c => c < 8
  | .qntConvert c | .qntAdapt c | .windowPooling c | .boxPooling c | .cropAndResize c => c < 8
  | .movStream c | .movWayInTake c | .movWayOutPut c | .runLimitExpiry c => c < 8
  | .stagePush _ st q => st < 16 && q < 65536
  | .tailWrite _ q _ | .headWrite _ q _ | .stop _ q | .resume _ q | .resetIndex _ q | .queueCfgWrite _ q _ _ => q < 65536
  | .tlyAdd _ t _ | .tlySet _ t _ => t < 65536
  | .wayPut _ w _ _ | .wayTake _ w => w < 65536
  | .mailboxCancel _ m => m < 4096
  | .mailboxClaim _ k m _ => k < 8 && m < 4096
  | .taskRelease _ c _ | .packhorseDrain c _ | .eccInjectArm _ c _ | .mvpSatRowsRead _ c | .movOutstandingMaxRead _ c => c < 8
  | .zeroingBegin c n | .zeroingComplete c n => c < 8 && n < 16
  | .correctionWriteBack c sp => c < 8 && 2 ≤ sp && sp ≤ 4
  | .scrubRead c sp b => c < 8 && 2 ≤ sp && sp ≤ 4 && b < spBanks sp
  | .wcInvalidate _ k _ => k < 2
  | .wcInvalidateDone k => k < 2
  | .csiFrameStart n _ _ | .csiLongPacket n _ | .csiFrameEnd n _ _ | .byteClkMeasure n _ | .csiSkewCalibration n _ => n < 4
  | .csiClockLaneModeChange n _ | .ispParamPush _ n _ _ | .ispParamCheckDone n | .wbFillMaxRead _ n => n < 4
  | .frameTimeout n v | .ispFrameDeliver n v | .ispEntryPut n v => n < 4 && v < 4
  | .ispStreamEnable _ n v _ | .ispStreamDisable _ n v _ => n < 4 && v < 4
  | .tdmFrameSync p _ _ | .tdmRateMeasure p _ => p < 2
  | .spxStreamEnable _ f _ | .spxStreamDisable _ f _ | .featureFrameCompute f | .spxBufferPut f | .spxBudgetExpiry f => f < 16
  | .vcdSessionOpen _ n _ | .vcdSessionClose _ n _ | .vcdPictureStart n | .vcdPictureDone n | .vcdPictureBudgetExpiry n => n < 16
  | .ethFrameReceive p _ | .ethFrameTransmit p => p < 3
  | .ethLinkLoss p | .ethLinkUp p | .qbvCommit _ p _ | .qbvCycleBoundary p => p < 2
  | .sessionTimeout k | .hmpSessionCloseWrite _ k => k < 64
  | .fwDone _ i | .fwResponseTimeout i => i < 64
  | .macsecKeyWrite _ a _ => isKeyAddr a
  | .cbRecoveryReset p i => p < 2 && i < 64
  | .ptpTxGo _ i => i < 16
  | .ptpTxDone i => i < 16
  | .triggerArm _ n _ | .triggerDisarm _ n _ | .triggerFire n | .triggerPulseEnd n => n < 8
  | .controlTimerArm _ k _ | .controlTimerFire k => k < 16
  | .captureEdge n _ | .capturePop _ n => n < 4
  | .activityLevelChange n => n < 16
  | .phaseWrite _ p _ => p < 256
  | .faultReport id cls | .levelFaultRereport id cls => srcRaises id cls
  | .wireFault id pair level => srcRaises id pair && level < 2
  | .quietPeriodExpiry c | .recoveryPhaseComplete c _ => c.elim true (· < 8)
  | .faultForce _ id _ => id < 4096
  | .keyProgram _ slot => slot < 8
  | .admitTimeout k => k < 4
  | .rationMaxHoldRead _ c => c < 16
  | .scratchpadWindowAccess _ a => windowBase ≤ a.addr && a.addr < windowBase + 0x2000_0000
  | .bootHardwareInitComplete f _ => f.all (· < 8)
  | _ => true

/-- The writer or reader that a command comes from, for those that name one. -/
def Instr.source : Instr → Option Nat
  | .stagePush s _ _ | .tailWrite s _ _ | .headWrite s _ _ | .stop s _ | .resume s _ | .resetIndex s _ | .queueCfgWrite s _ _ _ => some s
  | .tlyAdd s _ _ | .tlySet s _ _ | .wayPut s _ _ _ | .wayTake s _ | .kill s _ | .mailboxCancel s _ | .mailboxClaim s _ _ _ => some s
  | .taskRelease s _ _ | .eccInjectArm s _ _ | .scratchpadWindowAccess s _ | .wcInvalidate s _ _ => some s
  | .ispStreamEnable s _ _ _ | .ispStreamDisable s _ _ _ | .ispParamPush s _ _ _ => some s
  | .spxStreamEnable s _ _ | .spxStreamDisable s _ _ | .vcdSessionOpen s _ _ | .vcdSessionClose s _ _ => some s
  | .hmpSessionCloseWrite s _ | .fwDone s _ | .macsecKeyWrite s _ _ | .qbvCommit s _ _ | .mdioAccess s _ | .ptpTxGo s _ => some s
  | .timeSet s _ | .timeStep s _ | .timeRateWrite s _ | .timeKick s | .timLock s | .timHold s | .timRelease s | .timeNowRead s => some s
  | .triggerArm s _ _ | .triggerDisarm s _ _ | .controlTimerArm s _ _ | .capturePop s _ => some s
  | .powerModeWrite s _ | .powerCapWrite s _ | .phaseWrite s _ _ | .fcuClearLatch s _ | .fcuCoreClear s _ => some s
  | .faultForce s _ _ | .faultInjectArm s _ | .wireTest s _ | .bootRestart s | .controlCoreRelease s _ => some s
  | .rollbackAdvance s _ | .keyProgram s _ | .revoke s _ | .nvmLock s | .attestGo s _ | .registerWrite s _ _ _ => some s
  | .crcCommit s | .irqSet s | .mvpSatRowsRead s _ | .movOutstandingMaxRead s _ | .rationMaxHoldRead s _ | .wbFillMaxRead s _ => some s
  | .tempPeakRead s => some s
  | _ => none

/-- A command that names a writer of R475 where it names one, and a unit that exists. -/
def Instr.wf (i : Instr) : Bool := i.source.elim true isSource && i.unitOk

end Sys2Proof
end

