-- ==== Sys2Proof/Certificates/Slice0/Obligations.lean ====
section
/-! DEFINITION. The statements about the block, one for each claim. -/

open Sys2Proof Sys2Proof.Machine

/-- A step takes the command at the front of the queue and executes it on the state with the queue's rest.
Where the spec leaves a point open the model's choice stands: log entry 1. -/
def Obligations.StepRunsTheFrontCommand : Prop :=
  ∀ (i : Instr) (rest : List Instr) (s : State), s.pending = i :: rest → step s = exec i { s with pending := rest }

/-- No command puts a command on the queue or takes one from it: the queue is the sender's (log entry 1). -/
def Obligations.CommandsLeaveTheQueue : Prop :=
  ∀ (i : Instr) (s t : State), exec i s = .next t → t.pending = s.pending

/-- Every step, of a command or of the idle block, keeps the canonical form of the memories and of the register store.
Where the spec leaves a point open the model's choice stands: log entries 1 and 2. -/
def Obligations.StepKeepsSound : Prop :=
  ∀ s t : State, s.Sound → step s = .next t → t.Sound

/-- The state after reset has that form, and no command waits. RESET_N is released, the clocks stand, and a reset value of each kind of
register that the spec gives: rates, caps, timeouts, limits, states.
Where the spec leaves a point open the model's choice stands: log entries 1, 2 and 3. -/
def Obligations.ResetIsSound : Prop :=
  State.reset.Sound ∧ State.reset.pending = [] ∧ State.reset.clk.inReset = false ∧ State.reset.up = false ∧ State.reset.pins.faultN = true ∧
  State.reset.fget TIM_RATE_INCREMENT = 0x8_0000_0000 ∧ State.reset.fget TIM_CTRL_SYNC_TIMEOUT_MS = 2000 ∧
  State.reset.fget TIM_STATUS_STATE = 0 ∧ State.reset.fget PWR_CAP_CAP_MW = 150_000 ∧ State.reset.fget PWR_MARGIN_MARGIN_MW = 3000 ∧
  State.reset.fget FCU_STATUS_STATE = 0 ∧ State.reset.fget CLK_CORE_STEP_STEP = 0 ∧ State.reset.fget CFG_JOURNAL_NEXT_INDEX = 0 ∧
  (∀ q, State.reset.qEnabled q = false ∧ State.reset.qHead q = 0 ∧ State.reset.qTail q = 0) ∧ (∀ n, State.reset.tally n = 0) ∧
  (∀ m, State.reset.fget QM_MBXm_STATE_SEQ m = 0) ∧ State.reset.drover.caravans = [] ∧ State.reset.drover.flights = [] ∧
  State.reset.hmp.queue = []

/-- A queue of well-formed commands never stops the block: each step answers a next state whose queue is the rest, still well formed. A
command stops where it names a unit of which no part has so many, or a writer that R475 does not name, and for no other reason.
Where the spec leaves a point open the model's choice stands: log entry 6. -/
def Obligations.WellFormedQueuesNeverStop : Prop :=
  (∀ s : State, (∀ i ∈ s.pending, i.wf = true) →
    ∃ t, step s = .next t ∧ t.pending = s.pending.tail ∧ ∀ i ∈ t.pending, i.wf = true) ∧
  (∀ (i : Instr) (s : State), exec i s = .fault .noSuchUnit ↔ i.wf = false)

/-- RESET_ASSERT puts every register and unit at its reset value, with FAULT_N asserted, every trigger output low and the clocks stopped, and
leaves memories, fuses and debug port; RESET_RELEASE ends it, samples the straps and starts the time that SYS_UPTIME_US counts.
Where the spec leaves a point open the model's choice stands: log entry 72. -/
def Obligations.ResetPinsAct : Prop :=
  (∀ s : State, ∃ t, exec .resetAssert s = .next t ∧ t.regs = State.reset.regs ∧ t.up = false ∧ t.clk.started = false ∧
    t.clk.inReset = true ∧ t.pins.faultN = true ∧ (∀ x ∈ t.tim.trigs, x.level = false) ∧ t.drover = State.reset.drover ∧
    t.fcu = State.reset.fcu ∧ t.cores = State.reset.cores ∧ t.hmp = State.reset.hmp ∧ memKept s t nowhere ∧ t.nor = s.nor ∧
    t.fuses = s.fuses ∧ t.dbg = s.dbg) ∧
  (∀ (s : State) (straps : Nat), s.clk.inReset = true → ∃ t, exec (.resetRelease straps) s = .next t ∧ t.clk.inReset = false ∧
    t.clk.started = s.clk.started ∧ t.uptimeUs = 0 ∧ t.cmb.straps = straps % 4 ∧ regsKept s t nowhere ∧ memKept s t nowhere)

/-- CLOCKS_START starts the six clocks at step 0 of every core and the PTP clock at 0; PLL_LOCK_LOSS and REFERENCE_LOSS stop them, discard
the divider requests, put the time unit into HOLDOVER with TIME_LOST and report class F; CLOCKS_RESTART starts them on a new grid at the
steps they had.
Where the spec leaves a point open the model's choice stands: log entry 13. -/
def Obligations.ClocksStartStopAndRestart : Prop :=
  (∀ s : State, s.clk.inReset = false → s.clk.started = false → ∃ t, exec .clocksStart s = .next t ∧ t.up = true ∧
    t.clk.started = true ∧ t.clk.periodStart = s.refTick ∧ (∀ c, c < 8 → t.coreStep c = 0) ∧ t.tim.sec = 0 ∧ t.tim.ns = 0 ∧
    t.fbit CLK_STATUS_PLL_LOCK = true ∧ t.fbit CLK_STATUS_REF_PRESENT = true ∧
    regsKept s t (anyOf [CLK_STATUS.addr 0 0 0 0, CLK_CORE_STEP.addr 0 0 0 0]) ∧ memKept s t nowhere) ∧
  (∀ s : State, s.fbit CLK_STATUS_PLL_LOCK = true → s.clk.started = true → ∃ t, exec .pllLockLoss s = .next t ∧ t.up = false ∧
    t.fbit CLK_STATUS_PLL_LOCK = false ∧ t.fbit CLK_STATUS_LOCK_LOST = true ∧ (∀ x ∈ t.clk.pendingStep, x = none) ∧
    t.fget TIM_STATUS_STATE = 2 ∧ t.fbit TIM_STATUS_TIME_LOST = true ∧
    t.fcu.reports = s.fcu.reports ++ [⟨0x030, clsF, none, 0, none, false⟩] ∧
    regsKept s t (anyOf [CLK_STATUS.addr 0 0 0 0, TIM_STATUS.addr 0 0 0 0]) ∧ memKept s t nowhere) ∧
  (∀ s : State, s.fbit CLK_STATUS_REF_PRESENT = true → s.clk.started = true → ∃ t, exec .referenceLoss s = .next t ∧ t.up = false ∧
    t.pins.faultN = true ∧ t.fbit CLK_STATUS_REF_PRESENT = false ∧ t.fbit CLK_STATUS_REF_LOST = true ∧
    (∀ x ∈ t.clk.pendingStep, x = none) ∧ t.fget TIM_STATUS_STATE = 2 ∧ t.fbit TIM_STATUS_TIME_LOST = true ∧
    t.fcu.reports = s.fcu.reports ++ [⟨0x030, clsF, none, 0, none, false⟩] ∧
    regsKept s t (anyOf [CLK_STATUS.addr 0 0 0 0, TIM_STATUS.addr 0 0 0 0]) ∧ memKept s t nowhere) ∧
  (∀ s : State, s.clk.inReset = false → s.clk.started = true → s.clk.running = false → ∃ t, exec .clocksRestart s = .next t ∧
    t.up = true ∧ t.clk.periodStart = s.refTick ∧ (∀ c, t.coreStep c = s.coreStep c) ∧ t.clk.pendingStep = s.clk.pendingStep ∧
    regsKept s t (anyOf [CLK_STATUS.addr 0 0 0 0]) ∧ memKept s t nowhere)

/-- RATION_PERIOD_BOUNDARY, where no class holds transactions: every class's USED_TX returns to 0 and its value
stands in LAST_TX, the budgets written come into force, the pushes of the period are forgotten, the requested dividers take effect, and
the next boundary is 10 µs on.
Where the spec leaves a point open the model's choice stands: log entries 14 and 78. -/
def Obligations.RationPeriodBoundaryStartsAPeriod : Prop :=
  ∀ s : State, s.up = true → s.elapsed s.clk.periodStart (usTicks 10) = true → (∀ k, k < 16 → s.heldTx k = 0) →
    s.ration.held.length = 16 → s.clk.pendingStep.length = 8 →
    s.clk.pendingStep.all (fun x => x.elim true (fun st => decide (st < 4))) = true →
    ∃ t, exec .rationPeriodBoundary s = .next t ∧ t.clk.periodStart = s.clk.periodStart + 1250 ∧
      (∀ k, k < 16 → t.usedTx k = 0 ∧ t.fget SYS_RATION_c_USED_LAST_TX k = s.usedTx k ∧ t.fget SYS_RATION_c_USED_BORROWED_TX k = 0 ∧
        t.budgetOf k = s.fget SYS_RATION_c_CFG_BUDGET_TX k ∧ t.heldTx k = 0) ∧
      (∀ q, t.pushesOf q = 0) ∧
      (∀ c, c < 8 → t.coreStep c = (s.clk.pendingStep.getD c none).getD (s.coreStep c)) ∧
      (∀ c, c < 8 → t.clk.pendingStep.getD c none = none) ∧
      t.fget SYS_RATION_PERIODS_COUNT = (s.fget SYS_RATION_PERIODS_COUNT + 1) % 2 ^ 64 ∧ memKept s t nowhere

/-- LINK_REPLAY on a link that is up: a replay that succeeds ends the run of failures and is a class C fault; the
sixteenth failure in a row takes the link down, class F; an earlier one only lengthens the run. -/
def Obligations.LinkReplayCountsAndReports : Prop :=
  ∀ (l n : Nat) (ok : Bool) (s : State), l < 3 → s.clk.linkFails.length = 3 → s.up = true → s.fbit D2D_Ln_STATUS_UP l = true →
    s.fbit FCU_INJECT_ARM = false → ∃ t, exec (.linkReplay l n ok) s = .next t ∧
      t.fbit D2D_Ln_STATUS_CRC_SEEN l = true ∧ memKept s t nowhere ∧
      (ok = true → t.clk.linkFails.getD l 0 = 0 ∧ t.fbit D2D_Ln_STATUS_UP l = true ∧
        t.fcu.reports = s.fcu.reports ++ [⟨0x320 + l, clsC, none, 0, none, false⟩]) ∧
      (ok = false → s.clk.linkFails.getD l 0 = 15 → t.fbit D2D_Ln_STATUS_UP l = false ∧ t.fbit D2D_Ln_STATUS_DOWN_LATCHED l = true ∧
        t.fcu.reports = s.fcu.reports ++ [⟨0x320 + l, clsF, none, 0, none, false⟩]) ∧
      (ok = false → s.clk.linkFails.getD l 0 ≠ 15 → t.clk.linkFails.getD l 0 = s.clk.linkFails.getD l 0 + 1 ∧
        t.fbit D2D_Ln_STATUS_UP l = true ∧ t.fcu.reports = s.fcu.reports)

/-- DESCRIPTOR_FETCH takes the slot at FETCH, or the next descriptor of an open chain: a well-formed one joins the queue's descriptors as read,
and FETCH or the chain's count advances. A malformed descriptor of a ring completes with a status that does not deliver, is counted in
QM_MALFORMED, and is a class U fault of the descriptor check; fetching goes on.
Where the spec leaves a point open the model's choice stands: log entries 8 and 15. -/
def Obligations.DescriptorFetchTakesTheNextOne : Prop :=
  (∀ (q d : Nat) (s : State), q < 65536 → s.works = true → s.nextFetch q = some .ring →
    d = s.readLE (s.qBase q + 64 * (s.qFetch q % s.qSize q)) 64 → malformed d true false false none = false →
    s.fbit QM_Qq_BREAK_ON_TAG q = false → ∃ t, exec (.descriptorFetch q) s = .next t ∧
      t.drover.flights = s.drover.flights ++ [newFlight q (s.qFetch q) 0 d 0 false 0] ∧
      t.drover.caravans = s.drover.caravans ++ (if dOpcode d = opCARAVAN_BEGIN then [caravanOfDesc q (s.qFetch q) d] else []) ∧
      t.qFetch q = (s.qFetch q + 1) % 2 ^ 32 ∧ t.fget QM_FETCHED_COUNT = (s.fget QM_FETCHED_COUNT + 1) % 2 ^ 64 ∧
      memKept s t nowhere) ∧
  (∀ (q d : Nat) (k : Caravan) (s : State), q < 65536 → s.works = true → s.nextFetch q = some (.chain k) → k.ending = none →
    d = s.chainDesc k k.fetched →
    malformed d false (k.fetched + 1 == k.len) (k.membersLeft != 0) (some (k.tallyBase, k.tallyCount)) = false →
    dOpcode d ≠ opQNT_ADAPT → s.fbit QM_Qq_BREAK_ON_TAG q = false → ∃ t, exec (.descriptorFetch q) s = .next t ∧
      t.drover.flights = s.drover.flights ++
        [newFlight q k.index (k.fetched + 1) d (k.core.getD 0) (k.membersLeft != 0) k.openerPos] ∧
      caravanHas t q k.index (fun x => x.fetched = k.fetched + 1) ∧
      t.fget QM_FETCHED_COUNT = (s.fget QM_FETCHED_COUNT + 1) % 2 ^ 64 ∧ memKept s t nowhere) ∧
  (∀ (q d : Nat) (s : State), q < 65536 → s.works = true → s.nextFetch q = some .ring →
      d = s.readLE (s.qBase q + 64 * (s.qFetch q % s.qSize q)) 64 → malformed d true false false none = true →
      ∃ t, exec (.descriptorFetch q) s = .next t ∧
        (∃ f ∈ t.drover.flights, f.ref = ⟨q, s.qFetch q, 0⟩) ∧
        flightHas t ⟨q, s.qFetch q, 0⟩ (fun f => f.stage = .ended ∧ delivers f.status = false) ∧
        (∃ r ∈ t.fcu.reports, r.source = 0x001 ∧ r.cls = clsU ∧ r.ref = some ⟨q, s.qFetch q, 0⟩) ∧
        t.qFetch q = (s.qFetch q + 1) % 2 ^ 32 ∧ t.fget QM_MALFORMED_COUNT = (s.fget QM_MALFORMED_COUNT + 1) % 2 ^ 32 ∧
        t.fbit QM_STATUS_MALFORMED_SEEN = true ∧ memKept s t nowhere)

/-- DESCRIPTOR_FORWARD puts a core's next chain descriptor into its engine's intake, with the latch of the current task; no byte of memory
changes, and no register but the counts of the core's link, which carries the descriptor.
Where the spec leaves a point open the model's choice stands: log entry 14. -/
def Obligations.DescriptorForwardEntersTheIntake : Prop :=
  ∀ (c : Nat) (f : Flight) (s : State), c < 8 → s.coreWorks c = true → s.nextForward c = some f →
    s.intakeFill c (dEngine f.desc) < 16 → ∃ t, exec (.descriptorForward c) s = .next t ∧
      t.drover.flights = s.drover.flights.map (fun g =>
        if g.ref = f.ref then { g with stage := .intake, latch := s.taskLatch c (s.fget CORE_TASK_CURRENT_TASK c) } else g) ∧
      t.fget D2D_Ln_TX_B_BYTES_B (coreLink c) = (s.fget D2D_Ln_TX_B_BYTES_B (coreLink c) + 64) % 2 ^ 64 ∧
      regsKept s t (anyOf [D2D_Ln_TX_B.addr (coreLink c) 0 0 0, D2D_Ln_REPLAYS.addr (coreLink c) 0 0 0,
        D2D_Ln_STATUS.addr (coreLink c) 0 0 0, FCU_INJECT.addr 0 0 0 0]) ∧ memKept s t nowhere

/-- NOP at its head with its waits met, and a descriptor that has ended with its writes visible, complete: their signals are added to their
tallies modulo 2^32, or, for a status that does not deliver, are withheld and no tally changes.
Where the spec leaves a point open the model's choice stands: log entry 15. -/
def Obligations.CompletionDeliversOrWithholds : Prop :=
  (∀ (r : DescRef) (f : Flight) (s : State), r.queue < 65536 → s.works = true → s.flight? r = some f → dOpcode f.desc = opNOP →
    s.mayStart f = true → s.waitsMet f = true → f.status = stOK → (∀ x ∈ s.signalsOf f, x.1 < 65536) → ∃ t, exec (.nop r) s = .next t ∧
      flightHas t r (fun g => g.stage = .done) ∧
      (∀ n, n < 65536 → t.tally n = (s.tally n + signalSum (s.signalsOf f) n) % 2 ^ 32) ∧
      t.fget TLY_SIGNALS_COUNT = (s.fget TLY_SIGNALS_COUNT + (s.signalsOf f).length) % 2 ^ 64 ∧ memKept s t nowhere) ∧
  (∀ (r : DescRef) (f : Flight) (s : State), r.queue < 65536 → s.works = true → s.flight? r = some f → f.stage = .ended →
    s.writesVisible f = true → s.inTurn f = true → s.inGroup f = false → ∃ t, exec (.descriptorComplete r) s = .next t ∧
      flightHas t r (fun g => g.stage = .done) ∧ ((f.discarded && f.entry.isSome) = false → memKept s t nowhere) ∧
      (delivers f.status = true ∨ f.released = true →
        ∀ n, n < 65536 → t.tally n = (s.tally n + signalSum (s.signalsOf f) n) % 2 ^ 32) ∧
      (delivers f.status = false → f.released = false → (∀ n, n < 65536 → t.tally n = s.tally n) ∧
        t.drover.withheld = s.drover.withheld ++ (if s.signalsOf f = [] then [] else [⟨f.ref, s.signalsOf f⟩])))

/-- FENCE, first of its queue with its waits met, completes, its core set is forgotten, and with PAUSE its queue halts.
Where the spec leaves a point open the model's choice stands: log entry 15. -/
def Obligations.FenceCompletesAndPauses : Prop :=
  ∀ (q : Nat) (f : Flight) (l : List Flight) (s : State), q < 65536 → s.works = true → s.flightsOf q = f :: l → dOpcode f.desc = opFENCE →
    f.stage = .fetched → f.pos = 0 → s.waitsMet f = true → AMap.sortedFrom 0 s.drover.fenceCores = true →
    ∃ t, exec (.fence q) s = .next t ∧
      flightHas t f.ref (fun g => g.stage = .done) ∧ AMap.get? t.drover.fenceCores q = none ∧
      (fePause f.desc = true → t.fbit QM_Qq_STATUS_HALTED q = true) ∧
      (fePause f.desc = false → t.fbit QM_Qq_STATUS_HALTED q = s.fbit QM_Qq_STATUS_HALTED q)

/-- CARAVAN_BEGIN with a mailbox that takes its part and an entry that passes becomes ready, at the time its waits were met, with that entry;
CARAVAN_PLACE puts the caravan
chosen on the core chosen, makes its task current, empties the curve stores, counts, and begins its part.
Where the spec leaves a point open the model's choice stands: log entry 16. -/
def Obligations.CaravansBecomeReadyAndArePlaced : Prop :=
  (∀ (q : Nat) (f : Flight) (k : Caravan) (s : State), q < 65536 → s.works = true →
    s.drover.flights.find? (fun f => f.queue == q && f.pos == 0 && dOpcode f.desc == opCARAVAN_BEGIN && s.mayStart f && s.waitsMet f) =
      some f →
    s.caravanOf f = some k → k.checked = false → k.core = none → s.mbxAccepts k.mailbox k.part = true →
    s.partTaken k.mailbox k.part = false → s.entryFails k (s.modelEntry k.model) = false →
    ∃ t, exec (.caravanBegin q) s = .next t ∧
      caravanHas t q f.index (fun x => x.checked = true ∧ x.entry = s.modelEntry k.model) ∧
      (∃ x, t.caravan? q f.index = some x ∧ x.readyAt = some (k.readyAt.getD s.refTick)) ∧ memKept s t nowhere) ∧
  (∀ (c : Nat) (k : Caravan) (s : State), s.works = true → s.nextPlaced = some k → s.coreFor k = some c → c < s.cores.length →
    k.tallyBase + k.tallyCount ≤ 65536 → s.liveBounded c k.entry (s.taskLatch c k.task) = true → s.sheetBad k.mailbox k.part = false → k.mailbox < 4096 →
    k.part < 16 → ∃ t, exec .caravanPlace s = .next t ∧
      caravanHas t k.queue k.index (fun x => x.core = some c ∧ x.begun = true ∧ x.placedAt = s.refTick) ∧
      t.fget CORE_TASK_CURRENT_TASK c = k.task % 16 ∧ (t.coreAt c).curves = [none, none, none, none] ∧
      t.mbxPending k.mailbox = true ∧ bitAt (t.fget QM_MBXm_STATE_BEGUN k.mailbox) k.part = true ∧
      t.fget QM_PLACEMENTS_COUNT = (s.fget QM_PLACEMENTS_COUNT + 1) % 2 ^ 64)

/-- CARAVAN_END of a part all of whose statuses deliver copies the result into the part's place in the mailbox's other half, and stores
nowhere else; the part has ended with its length.
Where the spec leaves a point open the model's choice stands: log entry 18. -/
def Obligations.CaravanEndCopiesTheResult : Prop :=
  ∀ (c : Nat) (f : Flight) (k : Caravan) (s : State), s.Sound → c < 8 → s.works = true →
    s.drover.flights.find? (fun f => f.core == c && f.pos != 0 && dOpcode f.desc == opCARAVAN_END && s.mayStart f && s.waitsMet f) =
      some f →
    s.caravanOf f = some k → k.core = some c → s.heldTx c = 0 → k.statuses.all delivers = true →
    s.drover.flights.all (fun g => !(g.queue == f.queue && g.index == f.index) || g.ref == f.ref || g.stage == .done) = true →
    (s.resultCopy k f.desc).2.1 = stOK →
    ∃ t b, exec (.caravanEnd c) s = .next t ∧
      b = s.mbxData k.mailbox (1 - s.fget QM_MBXm_STATE_HALF k.mailbox) + k.part * (32 * s.fget QM_MBXm_CFG_PART_STRIDE k.mailbox) ∧
      t.readBytes b (ceResultB f.desc) = s.readBytes (dramAddr (ceResult f.desc)) (ceResultB f.desc) ∧
      memKept s t (bytesAt b (ceResultB f.desc)) ∧
      caravanHas t f.queue f.index (fun x => x.ended = true ∧ x.lenB = ceResultB f.desc) ∧
      flightHas t f.ref (fun g => g.stage = .done)

/-- COMPLETION_RECORD_POST writes the record of its queue's oldest completed descriptor at the ring's TAIL, which advances, and the
descriptor retires; with a ring that takes none it is held and STALLED is set. (Where it ends no part.)
Where the spec leaves a point open the model's choice stands: log entry 19. -/
def Obligations.CompletionRecordsArePosted : Prop :=
  ∀ (q ring : Nat) (f : Flight) (l : List Flight) (s : State), s.Sound → q < 65536 → s.works = true → s.flightsOf q = f :: l → f.stage = .done →
    s.fcu.reports.any (fun r => r.ref == some f.ref) = false → ring = s.fget QM_Qq_CFG_COMPL_QUEUE q →
    (s.ringTakes ring = true → (s.lastOfSlot f = false ∨ s.caravanOf f = none) → ∃ t a, exec (.completionRecordPost q) s = .next t ∧
      a = s.qBase ring + 32 * (s.qTail ring % s.qSize ring) ∧
      t.readBytes a 32 = s.recordBytes f (s.qTail ring) (s.qSize ring) ∧ memKept s t (bytesAt a 32) ∧
      t.qTail ring = (s.qTail ring + 1) % 2 ^ 32 ∧ (∀ g ∈ t.drover.flights, g.ref ≠ f.ref) ∧
      t.fget QM_RETIRED_COUNT = (s.fget QM_RETIRED_COUNT + 1) % 2 ^ 64) ∧
    (s.ringTakes ring = false → ∃ t, exec (.completionRecordPost q) s = .next t ∧ t.fbit QM_Qq_STATUS_STALLED ring = true ∧
      t.drover = s.drover ∧ memKept s t nowhere)

/-- The record that ends the only part of a request, all of its statuses delivering, flips the mailbox: the next sequence number, READY,
not SEEN, and the other half.
Where the spec leaves a point open the model's choice stands: log entry 19. -/
def Obligations.LastPartFlipsTheMailbox : Prop :=
  ∀ (q c : Nat) (f : Flight) (l : List Flight) (k : Caravan) (s : State), q < 65536 → s.works = true → s.flightsOf q = f :: l →
    f.stage = .done → s.fcu.reports.any (fun r => r.ref == some f.ref) = false → s.ringTakes (s.fget QM_Qq_CFG_COMPL_QUEUE q) = true →
    s.caravanOf f = some k → k.core = some c → f.pos = k.len → k.begun = true → k.statuses.all delivers = true →
    k.mailbox < 4096 → k.part = 0 → s.mbxPending k.mailbox = true → s.mbxParts k.mailbox = 1 → s.partEnds k.mailbox = [] →
    ∃ t, exec (.completionRecordPost q) s = .next t ∧
      t.fget QM_MBXm_STATE_SEQ k.mailbox = nextSeq (s.fget QM_MBXm_STATE_SEQ k.mailbox) ∧
      t.fget QM_MBXm_STATE_STATE k.mailbox = 1 ∧ t.fbit QM_MBXm_STATE_SEEN k.mailbox = false ∧
      t.fget QM_MBXm_STATE_HALF k.mailbox = 1 - s.fget QM_MBXm_STATE_HALF k.mailbox ∧
      (∀ x ∈ t.drover.caravans, x.queue = k.queue → x.index ≠ k.index)

/-- STAGE_PUSH: an accepted push writes the staged descriptor into the slot at TAIL and advances TAIL; a refused one stores nothing, moves no
index, and is recorded and counted as QUEUE_FULL. -/
def Obligations.StagePushWritesTheSlotOrIsRefused : Prop :=
  ∀ (src st q : Nat) (s : State), s.Sound → st < 16 → q < 65536 → reaches s src (QM_STAGEs_PUSH.addr st 0 0 0) →
    (s.pushRefused q 0 1 = false → s.inRun = true → ∃ t a, exec (.stagePush src st q) s = .next t ∧
      a = s.qBase q + 64 * (s.qTail q % s.qSize q) ∧ t.readBytes a 64 = leBytes 64 (s.staged st) ∧ memKept s t (bytesAt a 64) ∧
      t.qTail q = (s.qTail q + 1) % 2 ^ 32 ∧ t.pushesOf q = s.pushesOf q + 1 ∧ t.fget QM_STAGEs_PUSH_RESULT st = stOK ∧
      t.qHead q = s.qHead q ∧ t.lastAccess = ⟨stOK, 0⟩) ∧
    (s.pushRefused q 0 1 = true ∨ s.inRun = false → ∃ t, exec (.stagePush src st q) s = .next t ∧ memKept s t nowhere ∧
      t.qTail q = s.qTail q ∧ t.fget QM_STAGEs_PUSH_RESULT st = stQueueFull ∧ t.fget QM_Qq_STATUS_LAST_PUSH q = stQueueFull ∧
      t.fget QM_Qq_STATUS_REFUSED q = (s.fget QM_Qq_STATUS_REFUSED q + 1) % 2 ^ 16 ∧
      t.fget QM_REFUSED_COUNT = (s.fget QM_REFUSED_COUNT + 1) % 2 ^ 32)

/-- TAIL_WRITE and HEAD_WRITE: a forward TAIL within the queue's room, and any HEAD of a completion ring, are stored; every other index write
moves no index and is handled as a refused push.
Where the spec leaves a point open the model's choice stands: log entry 20. -/
def Obligations.IndexWritesMoveOwnedIndicesOnly : Prop :=
  (∀ (src q v n : Nat) (s : State), q < 65536 → reaches s src (QM_Qq_TAIL.addr q 0 0 0) → n = sub32 (v % 2 ^ 32) (s.qTail q) →
    (s.qKind q = 0 → 0 < n → n < 2 ^ 31 → s.pushRefused q 0 n = false → ∃ t, exec (.tailWrite src q v) s = .next t ∧
      t.qTail q = v % 2 ^ 32 ∧ t.pushesOf q = s.pushesOf q + n ∧ t.lastAccess = ⟨stOK, 0⟩ ∧ memKept s t nowhere ∧
      regsKept s t (loggedAnd [QM_Qq_TAIL.addr q 0 0 0, QM_Qq_STATUS.addr q 0 0 0])) ∧
    (s.qKind q = 0 → n = 0 → ∃ t, exec (.tailWrite src q v) s = .next t ∧ t.lastAccess = ⟨stOK, 0⟩ ∧
      regsKept s t (loggedAnd []) ∧ memKept s t nowhere) ∧
    (s.qKind q ≠ 0 ∨ 2 ^ 31 ≤ n ∨ (0 < n ∧ s.pushRefused q 0 n = true) → ∃ t, exec (.tailWrite src q v) s = .next t ∧
      t.lastAccess = ⟨stQueueFull, 0⟩ ∧ t.fget QM_Qq_STATUS_LAST_PUSH q = stQueueFull ∧
      t.fget QM_Qq_STATUS_REFUSED q = (s.fget QM_Qq_STATUS_REFUSED q + 1) % 2 ^ 16 ∧ memKept s t nowhere ∧
      regsKept s t (loggedAnd [QM_Qq_STATUS.addr q 0 0 0, QM_REFUSED.addr 0 0 0 0]))) ∧
  (∀ (src q v : Nat) (s : State), q < 65536 → reaches s src (QM_Qq_HEAD.addr q 0 0 0) →
    (s.qKind q = 1 → ∃ t, exec (.headWrite src q v) s = .next t ∧ t.qHead q = v % 2 ^ 32 ∧ t.lastAccess = ⟨stOK, 0⟩ ∧
      regsKept s t (loggedAnd [QM_Qq_HEAD.addr q 0 0 0, QM_Qq_STATUS.addr q 0 0 0]) ∧ memKept s t nowhere) ∧
    (s.qKind q ≠ 1 → ∃ t, exec (.headWrite src q v) s = .next t ∧ t.lastAccess = ⟨stQueueFull, 0⟩ ∧
      t.fget QM_Qq_STATUS_LAST_PUSH q = stQueueFull ∧
      regsKept s t (loggedAnd [QM_Qq_STATUS.addr q 0 0 0, QM_REFUSED.addr 0 0 0 0]) ∧ memKept s t nowhere))

/-- STOP halts a queue; RESUME clears HALTED and DRAINED and frees what a TAG break held; RESET_INDEX puts the four indices to 0 where the
queue is disabled or drained, and does nothing elsewhere.
Where the spec leaves a point open the model's choice stands: log entry 7. -/
def Obligations.QueueControlBitsAct : Prop :=
  ∀ (src q : Nat) (s : State), q < 65536 → reaches s src (QM_Qq_CTRL.addr q 0 0 0) →
    (∃ t, exec (.stop src q) s = .next t ∧ t.fbit QM_Qq_STATUS_HALTED q = true ∧ t.drover = s.drover ∧
      regsKept s t (loggedAnd [QM_Qq_STATUS.addr q 0 0 0]) ∧ memKept s t nowhere) ∧
    (∃ t, exec (.resume src q) s = .next t ∧ t.fbit QM_Qq_STATUS_HALTED q = false ∧ t.fbit QM_Qq_STATUS_DRAINED q = false ∧
      (∀ f ∈ t.drover.flights, f.queue = q → f.stage ≠ .broken) ∧
      regsKept s t (loggedAnd [QM_Qq_STATUS.addr q 0 0 0]) ∧ memKept s t nowhere) ∧
    (∃ t, exec (.resetIndex src q) s = .next t ∧ memKept s t nowhere ∧ t.drover = s.drover ∧
      regsKept s t (loggedAnd [QM_Qq_HEAD.addr q 0 0 0, QM_Qq_TAIL.addr q 0 0 0, QM_Qq_PROGRESS.addr q 0 0 0]) ∧
      (s.qEnabled q = false ∨ s.fbit QM_Qq_STATUS_DRAINED q = true →
        t.qHead q = 0 ∧ t.qTail q = 0 ∧ t.qFetch q = 0 ∧ t.fget QM_Qq_PROGRESS_RETIRED q = 0) ∧
      (s.qEnabled q = true → s.fbit QM_Qq_STATUS_DRAINED q = false →
        t.qHead q = s.qHead q ∧ t.qTail q = s.qTail q ∧ t.qFetch q = s.qFetch q))

/-- QUEUE_CFG_WRITE: BASE and CFG take their fields while the queue is open to it, its size within 4 to 20 and its ring on one die, and a ring
or waystation that is enabled may be disabled; every other write of them changes no queue register and returns BUS_ERROR. -/
def Obligations.QueueConfigurationIsGuarded : Prop :=
  (∀ (src q v : Nat) (s : State), q < 65536 → reaches s src (QM_Qq_BASE.addr q 0 0 0) → s.cfgOpen q = true →
    (s.qEnabled q = false ∨ ringOnOneDie (64 * bits v 6 29) (s.fget QM_Qq_CFG_SIZE_LOG2 q) (s.qKind q) = true) →
    ∃ t, exec (.queueCfgWrite src q true v) s = .next t ∧ t.fget QM_Qq_BASE_BASE q = bits v 6 29 ∧ t.lastAccess = ⟨stOK, 0⟩ ∧
      regsKept s t (loggedAnd [QM_Qq_BASE.addr q 0 0 0]) ∧ memKept s t nowhere) ∧
  (∀ (src q v : Nat) (s : State), q < 65536 → reaches s src (QM_Qq_BASE.addr q 0 0 0) →
    (s.cfgOpen q = false ∨
      (s.qEnabled q = true ∧ ringOnOneDie (64 * bits v 6 29) (s.fget QM_Qq_CFG_SIZE_LOG2 q) (s.qKind q) = false)) →
    ∃ t, exec (.queueCfgWrite src q true v) s = .next t ∧ t.lastAccess = ⟨stBusError, 0⟩ ∧ regsKept s t (loggedAnd []) ∧
      memKept s t nowhere) ∧
  (∀ (src q v : Nat) (s : State), q < 65536 → reaches s src (QM_Qq_CFG.addr q 0 0 0) →
    ((s.cfgOpen q = true ∨ s.onlyDisables q v = true) → 4 ≤ bits v 0 5 → bits v 0 5 ≤ 20 →
      (bitAt v 7 = false ∨ ringOnOneDie (s.qBase q) (bits v 0 5) (bits v 5 2) = true) →
      ∃ t, exec (.queueCfgWrite src q false v) s = .next t ∧ (t.rword QM_Qq_CFG q).toNat = v % 2 ^ 40 ∧
        t.lastAccess = ⟨stOK, 0⟩ ∧ regsKept s t (loggedAnd [QM_Qq_CFG.addr q 0 0 0, QM_Qq_STATUS.addr q 0 0 0]) ∧
        memKept s t nowhere) ∧
    (bits v 0 5 < 4 ∨ 20 < bits v 0 5 ∨ (s.cfgOpen q = false ∧ s.onlyDisables q v = false) ∨
      (bitAt v 7 = true ∧ ringOnOneDie (s.qBase q) (bits v 0 5) (bits v 5 2) = false) → ∃ t, exec (.queueCfgWrite src q false v) s = .next t ∧ t.lastAccess = ⟨stBusError, 0⟩ ∧
      regsKept s t (loggedAnd []) ∧ memKept s t nowhere))

/-- TLY_ADD adds INC to its tally modulo 2^32 and counts one signal, or for INC 0 does nothing; TLY_SET loads its tally. No other tally
changes. -/
def Obligations.TallyWritesAddAndLoad : Prop :=
  (∀ (src n inc : Nat) (s : State), n < 65536 → reaches s src (TLY_t_ADD.addr n 0 0 0) → ∃ t, exec (.tlyAdd src n inc) s = .next t ∧
    t.tally n = (s.tally n + inc % 65536) % 2 ^ 32 ∧
    t.fget TLY_SIGNALS_COUNT = (s.fget TLY_SIGNALS_COUNT + (if inc % 65536 = 0 then 0 else 1)) % 2 ^ 64 ∧
    regsKept s t (loggedAnd [TLY_t_COUNT.addr n 0 0 0, TLY_SIGNALS.addr 0 0 0 0]) ∧ memKept s t nowhere) ∧
  (∀ (src n v : Nat) (s : State), n < 65536 → reaches s src (TLY_SET.addr 0 0 0 0) → ∃ t, exec (.tlySet src n v) s = .next t ∧
    t.tally n = v % 2 ^ 32 ∧ (s.tallyWaited n = true → t.fbit TLY_STATUS_SET_WITH_WAITERS = true) ∧
    regsKept s t (loggedAnd [TLY_t_COUNT.addr n 0 0 0, TLY_STATUS.addr 0 0 0 0]) ∧ memKept s t nowhere)

/-- WAY_PUT writes the entry at TAIL and advances TAIL, or is refused with nothing stored; WAY_TAKE answers the entry at HEAD and advances HEAD,
or answers zeros from an empty waystation and moves nothing. -/
def Obligations.WaystationsPutAndTakeInOrder : Prop :=
  (∀ (src w h st : Nat) (s : State), s.Sound → w < 65536 → reaches s src (QM_WAY_PUT.addr 0 0 0 0) →
    (s.pushRefused w 2 1 = false → ∃ t a, exec (.wayPut src w h st) s = .next t ∧ a = s.qBase w + 8 * (s.qTail w % s.qSize w) ∧
      t.readBytes a 8 = leBytes 4 h ++ [BitVec.ofNat 8 st, 1] ++ leBytes 2 (s.qTail w) ∧ memKept s t (bytesAt a 8) ∧
      t.qTail w = (s.qTail w + 1) % 2 ^ 32 ∧ t.qHead w = s.qHead w) ∧
    (s.pushRefused w 2 1 = true → ∃ t, exec (.wayPut src w h st) s = .next t ∧ memKept s t nowhere ∧ t.qTail w = s.qTail w ∧
      t.fget QM_Qq_STATUS_LAST_PUSH w = stQueueFull ∧ t.fget QM_REFUSED_COUNT = (s.fget QM_REFUSED_COUNT + 1) % 2 ^ 32)) ∧
  (∀ (src w : Nat) (s : State), w < 65536 → reaches s src (QM_WAYw_TAKE.addr w 0 0 0) →
    (s.qEnabled w = true → s.qKind w = 2 → s.qFill w ≠ 0 → ∃ t a, exec (.wayTake src w) s = .next t ∧
      a = s.qBase w + 8 * (s.qHead w % s.qSize w) ∧
      t.lastAccess = ⟨stOK, s.readLE a 4 + s.readLE (a + 4) 1 * 2 ^ 32 + 2 ^ 40 + s.readLE (a + 6) 2 * 2 ^ 48⟩ ∧
      t.qHead w = (s.qHead w + 1) % 2 ^ 32 ∧ t.qTail w = s.qTail w ∧ memKept s t nowhere) ∧
    (s.qEnabled w = false ∨ s.qKind w ≠ 2 ∨ s.qFill w = 0 → ∃ t, exec (.wayTake src w) s = .next t ∧ t.lastAccess = ⟨stOK, 0⟩ ∧
      regsKept s t nowhere ∧ memKept s t nowhere))

/-- MAILBOX_CLAIM answers the current result of a mailbox that has one at or after the sequence number wanted and marks it SEEN; otherwise it
answers NOT_READY and marks nothing.
Where the spec leaves a point open the model's choice stands: log entry 59. -/
def Obligations.MailboxClaimsReadTheResult : Prop :=
  ∀ (src k m w q : Nat) (s : State), k < 8 → m < 4096 → reaches s src (QM_MBX_CLAIMk.addr k 0 0 0) → q = s.fget QM_MBXm_STATE_SEQ m →
    (q ≠ 0 → (w % 2 ^ 32 = 0 ∨ w % 2 ^ 32 = q ∨ 2 ^ 31 ≤ sub32 (w % 2 ^ 32) q) → ∃ t, exec (.mailboxClaim src k m w) s = .next t ∧
      t.fget QM_MBX_CLAIMk_RESULT_SEQ k = q ∧
      t.fget QM_MBX_CLAIMk_RESULT_STATUS k = s.readLE (s.mbxHeader m (s.fget QM_MBXm_STATE_HALF m) + 4) 1 ∧
      t.fget QM_MBX_CLAIMk_RESULT_SEEN k = s.fget QM_MBXm_STATE_SEEN m ∧
      t.fget QM_MBX_CLAIMk_RESULT_HALF k = s.fget QM_MBXm_STATE_HALF m ∧ t.fbit QM_MBXm_STATE_SEEN m = true ∧ memKept s t nowhere) ∧
    (q = 0 ∨ (w % 2 ^ 32 ≠ 0 ∧ w % 2 ^ 32 ≠ q ∧ sub32 (w % 2 ^ 32) q < 2 ^ 31) → ∃ t, exec (.mailboxClaim src k m w) s = .next t ∧
      t.fget QM_MBX_CLAIMk_RESULT_STATUS k = stNotReady ∧ t.fget QM_MBXm_STATE_SEEN m = s.fget QM_MBXm_STATE_SEEN m ∧
      memKept s t nowhere)

/-- KILL, RUN_LIMIT_EXPIRY and MAILBOX_CANCEL end what they name: every caravan they reach is marked killed, and each descriptor of a placed one
has completed or ended; a KILL that reaches none says so and changes nothing else.
Where the spec leaves a point open the model's choice stands: log entry 19. -/
def Obligations.KillsEndCaravans : Prop :=
  (∀ (src id : Nat) (s : State), reaches s src (QM_KILL.addr 0 0 0 0) →
    ((∃ k ∈ s.drover.caravans, k.id = id % 2 ^ 32 ∧ s.killable k = true) → ∃ t, exec (.kill src id) s = .next t ∧
      t.fget QM_KILL_RESULT = 1 ∧ ∀ k ∈ s.drover.caravans, k.id = id % 2 ^ 32 → s.killable k = true →
        caravanHas t k.queue k.index (fun x => x.killed = true) ∧
        (k.core.isSome = true → ∀ f ∈ t.drover.flights, f.queue = k.queue → f.index = k.index → f.pos ≠ 0 → f.completed = true)) ∧
    ((∀ k ∈ s.drover.caravans, k.id = id % 2 ^ 32 → s.killable k = false) → ∃ t, exec (.kill src id) s = .next t ∧
      t.fget QM_KILL_RESULT = 2 ∧ t.drover = s.drover ∧ regsKept s t (loggedAnd [QM_KILL.addr 0 0 0 0]) ∧ memKept s t nowhere)) ∧
  (∀ (c : Nat) (k : Caravan) (s : State), c < 8 → s.occupant c = some k → s.works = true → s.killable k = true → meMaxRun k.entry ≠ 0 →
    s.elapsed k.placedAt (usTicks (meMaxRun k.entry)) = true → ∃ t, exec (.runLimitExpiry c) s = .next t ∧
      caravanHas t k.queue k.index (fun x => x.killed = true) ∧
      ∀ f ∈ t.drover.flights, f.queue = k.queue → f.index = k.index → f.pos ≠ 0 → f.completed = true) ∧
  (∀ (src m p : Nat) (s : State), m < 4096 → reaches s src (QM_MBXm_CFG.addr m 0 0 0) → s.mbxPending m = true →
    p < s.mbxParts m → s.partTaken m p = false →
    (∀ k ∈ s.drover.caravans, k.mailbox = m → k.begun = true → s.killable k = true → k.core.isSome = true) →
    (∃ b, b < s.mbxParts m ∧ s.partTaken m b = true ∧ (s.partEnds m).all (fun x => x.part != b) = true) →
    ∃ t, exec (.mailboxCancel src m) s = .next t ∧
      t.partEnds m = s.partEnds m ++ (whichBelow (s.mbxParts m) (fun p => !s.partTaken m p)).map (fun p => ⟨p, stKilled, false, 0, none⟩) ∧
      ∀ k ∈ s.drover.caravans, k.mailbox = m → k.begun = true → s.overAt k = false → s.killable k = true →
        caravanHas t k.queue k.index (fun x => x.killed = true))

/-- GROUP_OPEN: a group that passes every check of R105 and R165 waits for its start, nothing else changing; one that fails a check is
rejected: REJECT_SEEN, opener and members completed, the opener not delivering, one class U fault of the sequencer.
Where the spec leaves a point open the model's choice stands: log entries 42 and 76. -/
def Obligations.GroupsAreCheckedAndOpened : Prop :=
  ∀ (c : Nat) (o : Flight) (s : State), c < 8 → c < s.cores.length → s.coreWorks c = true → s.opener c = some o →
    s.membersFetched o = true → s.groupOpened c o = false →
    (s.groupBad c o (s.followers o) = false → s.feedReject c (s.followers o) = none → ∃ t, exec (.groupOpen c) s = .next t ∧
      t.groupOf c = some { opener := o.ref, length := goLength o.desc, started := false, members := (s.followers o).map memberOf } ∧
      t.drover = s.drover ∧ regsKept s t nowhere ∧ memKept s t nowhere) ∧
    (s.groupBad c o (s.followers o) = true ∨ (s.feedReject c (s.followers o)).isSome = true → ∃ t,
      exec (.groupOpen c) s = .next t ∧ t.fbit CORE_LOCK_STATUS_REJECT_SEEN c = true ∧
      flightHas t o.ref (fun g => g.stage = .ended ∧ delivers g.status = false) ∧
      (∀ f ∈ s.followers o, flightHas t f.ref (fun g => g.completed = true)) ∧
      (∃ r ∈ t.fcu.reports, r.source = coreSrc c 0x10 ∧ r.cls = clsU ∧ r.ref = some o.ref) ∧ memKept s t nowhere)

/-- GROUP_START: with every condition of R106 holding, group cycle 0 begins, the opener runs, IN_GROUP is set and every stamp of the core is
cleared. MEMBER_START: the next member runs from its LOCK_OFFSET or, slipped, later; one whose engine is still busy does not run and ends
with a status that does not deliver, FIRST_SKEW holding a record. GROUP_END: every member ended, the group is gone, opener and members are
done, GROUPS counts one, and an opener with a TIMING_SKEW member does not deliver.
Where the spec leaves a point open the model's choice stands: log entries 32 and 76. -/
def Obligations.GroupsStartRunAndEnd : Prop :=
  (∀ (c : Nat) (o : Flight) (s : State), c < 8 → s.coreWorks c = true → s.opener c = some o → s.groupOpened c o = true →
    s.groupReady c o (s.followers o) = true → ∃ t g, exec (.groupStart c) s = .next t ∧ s.groupOf c = some g ∧
      t.groupOf c = some { g with started := true, since := s.arrNow c, seed := s.fget CORE_LOCK_GROUPS_COUNT c } ∧ t.fbit CORE_LOCK_STATUS_IN_GROUP c = true ∧
      flightHas t o.ref (fun f => f.stage = .running) ∧ (∀ e ∈ t.stamps, (spOf e.1).1 ≠ c) ∧
      regsKept s t (anyOf [CORE_LOCK_STATUS.addr c 0 0 0]) ∧ memKept s t nowhere) ∧
  (∀ (c : Nat) (g : Group) (m : Member) (f : Flight) (s : State), c < 8 → s.coreWorks c = true → s.groupOf c = some g →
    nextMember g.members = some m → g.started = true → (s.memberFlights g).all (fun f => f.stage != .running) = true →
    s.flight? m.ref = some f → f.completed = false →
    (engineBusy g m = false → ∃ t g', exec (.memberStart c) s = .next t ∧ t.groupOf c = some g' ∧
      (∀ x ∈ g'.members, x.ref = m.ref → x.started = true) ∧ flightHas t m.ref (fun f => f.stage = .running) ∧
      memKept s t nowhere) ∧
    (engineBusy g m = true → ∃ t, exec (.memberStart c) s = .next t ∧
      flightHas t m.ref (fun f => f.stage = .ended ∧ delivers f.status = false) ∧
      t.fbit CORE_LOCK_FIRST_SKEW_VALID c = true ∧ memKept s t nowhere)) ∧
  (∀ (c : Nat) (g : Group) (s : State), c < 8 → s.coreWorks c = true → s.groupOf c = some g → g.started = true →
    g.members.all (·.started) = true → (s.memberFlights g).all (·.completed) = true →
    (∀ f ∈ s.drover.flights, ∀ x ∈ s.signalsOf f, x.1 < 65536) → ∃ t, exec (.groupEnd c) s = .next t ∧ t.groupOf c = none ∧
      t.fbit CORE_LOCK_STATUS_IN_GROUP c = false ∧
      t.fget CORE_LOCK_GROUPS_COUNT c = (s.fget CORE_LOCK_GROUPS_COUNT c + 1) % 2 ^ 32 ∧
      flightHas t g.opener (fun f => f.stage = .done) ∧
      (∀ f ∈ s.memberFlights g, flightHas t f.ref (fun f => f.stage = .done)) ∧
      ((∃ f ∈ s.memberFlights g, f.status = stTimingSkew) → flightHas t g.opener (fun f => delivers f.status = false)) ∧
      memKept s t nowhere)

/-- R33: the value of a W12 pattern, here in units of 2^-13, is that of its sign, exponent field and fraction, and the table's patterns have
their values. R34, R35: 0x800 reads as zero, every other pattern is the one pattern of its value, a conversion from binary32 answers a pattern
that is not 0x800, an infinity becomes plus or minus 510 and a NaN 0x000. -/
def Obligations.W12ValuesFollowTheFormat : Prop :=
  (∀ s e f, s < 2 → e < 16 → f < 128 →
    (e = 0 → w12Decode (s * 2 ^ 11 + e * 2 ^ 7 + f) = (-1) ^ s * (f : Int)) ∧
    (1 ≤ e → w12Decode (s * 2 ^ 11 + e * 2 ^ 7 + f) = (-1) ^ s * (2 ^ (e - 1) * (128 + (f : Int))))) ∧
  ([0x000, 0x001, 0x07F, 0x080, 0x380, 0x700, 0xF00, 0x77F, 0x7FF, 0xFFF].map w12Decode =
    [0, 1, 127, 128, 8192, 128 * 8192, -128 * 8192, 255 * 8192, 510 * 8192, -510 * 8192]) ∧
  w12Decode 0x800 = 0 ∧ (∀ w, w < 4096 → w ≠ 0x800 → w12Encode (w12Decode w) = w) ∧
  (∀ a, fpToW12 a < 4096 ∧ fpToW12 a ≠ 0x800) ∧
  fpToW12 0x7F80_0000 = 0x7FF ∧ fpToW12 0xFF80_0000 = 0xFFF ∧ (∀ f, 0 < f → f < 2 ^ 23 → fpToW12 (0x7F80_0000 + f) = 0)

/-- Every engine command runs the descriptor its engine has at hand: a next state, in which that descriptor has ended and the core has the
descriptor's phase. (An array once its activity level has reached the need; ROI by the OP of the parameter record.)
Where the spec leaves a point open the model's choice stands: log entries 14 and 22. -/
def Obligations.EnginesRunTheirDescriptors : Prop :=
  ∀ (i : Instr) (c e a : Nat) (p : Nat → Bool) (j : Job) (s : State), c < 8 → a < 2 → s.coreWorks c = true →
    s.jobFor c e = some j → p j.f.desc = true →
    (i, e, p) ∈ [(Instr.winFeed c, enWIN, fun d => dOpcode d == opWIN_FEED), (.winRegroup c, enWIN, fun d => dOpcode d == opWIN_REGROUP),
        (.mvpMatvec c, enMVP, fun d => dOpcode d == opMVP_MATVEC), (.qntConvert c, enQNT, fun d => dOpcode d == opQNT_CONVERT),
        (.qntAdapt c, enQNT, fun d => dOpcode d == opQNT_ADAPT)] ++
      ([(Instr.add c, fnADD), (.sub c, fnSUB), (.mul c, fnMUL), (.fma c, fnFMA), (.min c, fnMIN), (.max c, fnMAX), (.abs c, fnABS),
        (.neg c, fnNEG), (.clamp c, fnCLAMP), (.select c, fnSELECT), (.curve c, fnCURVE), (.convert c, fnCONVERT),
        (.slotAdd c, fnSLOT_ADD), (.slotToFp32 c, fnSLOT_TO_FP32), (.reduceSum c, fnREDUCE_SUM), (.reduceMax c, fnREDUCE_MAX),
        (.curveLoad c, fnCURVE_LOAD)].map (fun x => (x.1, enVEC, fun d => dOpcode d == opVEC_OP && (vecOf d).func == x.2))) ++
      ([(Instr.mxaStream c a, opMXA_STREAM), (.mxaPacked c a, opMXA_PACKED), (.mxaThrough c a, opMXA_THROUGH)].map
        (fun x => (x.1, enMXA0 + a, fun d => dOpcode d == x.2 && decide (s.arrayNeed j ≤ s.level c a)))) ++
      ([(Instr.windowPooling c, roiWINDOW), (.boxPooling c, roiBOX), (.cropAndResize c, roiCROP)].map
        (fun x => (x.1, enROI, fun d => dOpcode d == opROI_OP && s.roiOp j == x.2))) →
    ∃ t, exec i s = .next t ∧ flightHas t j.f.ref (fun f => f.stage = .ended) ∧
      t.fget PWR_CORE_c_PHASE c = dPhase j.f.desc

/-- A descriptor of an array, MVP, VEC or QNT that a check stops before it starts (field block, handle space, bounds, span table) writes no
byte of memory, ends with a status that does not deliver, and is reported class U.
Where the spec leaves a point open the model's choice stands: log entries 11, 38, 39 and 42. -/
def Obligations.ChecksStopDescriptorsBeforeTheyWrite : Prop :=
  ∀ (i : Instr) (c a e op : Nat) (stops : Bool) (j : Job) (s : State), c < 8 → a < 2 → s.coreWorks c = true → s.jobFor c e = some j →
    dOpcode j.f.desc = op → stops = true →
    (i, e, op, stops) ∈ [(Instr.mxaStream c a, enMXA0 + a, opMXA_STREAM, (s.arrayStop j).isSome),
      (.mxaPacked c a, enMXA0 + a, opMXA_PACKED, (s.arrayStop j).isSome),
      (.mxaThrough c a, enMXA0 + a, opMXA_THROUGH, (s.arrayStop j).isSome),
      (.mvpMatvec c, enMVP, opMVP_MATVEC, mvFieldBad j.f.desc || !s.jBounds j (mvRegions j)),
      (.add c, enVEC, opVEC_OP, fnCURVE_LOAD < (vecOf j.f.desc).func),
      (.mul c, enVEC, opVEC_OP, (vecOf j.f.desc).func == fnMUL && ((vecOf j.f.desc).bad || !s.jBounds j ((vecOf j.f.desc).regions j))),
      (.curve c, enVEC, opVEC_OP, (vecOf j.f.desc).func == fnCURVE && (s.vecStore j (vecOf j.f.desc)).isNone),
      (.qntConvert c, enQNT, opQNT_CONVERT,
        (qntOf j.f.desc).bad || !isFinite32 (qntOf j.f.desc).mult || !s.jBounds j ((qntOf j.f.desc).regions j)),
      (.winFeed c, enWIN, opWIN_FEED, !j.member)] →
    ∃ t, exec i s = .next t ∧ flightHas t j.f.ref (fun f => f.stage = .ended ∧ delivers f.status = false) ∧
      (∃ r ∈ t.fcu.reports, r.cls = clsU ∧ r.ref = some j.f.ref) ∧ memKept s t nowhere

/-- The VEC functions: element i of the destination is the function of element i of the operands, or the one result of a reduction in its
fixed order, in the destination's type (of a lockstep member, where no member has written yet); no other byte of memory changes, and
ELEMENTS counts the elements. CURVE_LOAD puts its table into
the store it names, or, with a header that does not stand, empties the store.
Where the spec leaves a point open the model's choice stands: log entries 9, 36, 37 and 38. -/
def Obligations.VecWritesItsFunctions : Prop :=
  (∀ (i : Instr) (c fn : Nat) (j : Job) (v : VecD) (out : List VOut) (s : State), s.Sound → c < 8 → s.coreWorks c = true →
    s.jobFor c enVEC = some j → dOpcode j.f.desc = opVEC_OP → v = vecOf j.f.desc → v.func = fn →
    (i, fn) ∈ [(Instr.add c, fnADD), (.sub c, fnSUB), (.mul c, fnMUL), (.fma c, fnFMA), (.min c, fnMIN), (.max c, fnMAX), (.abs c, fnABS),
      (.neg c, fnNEG), (.clamp c, fnCLAMP), (.select c, fnSELECT), (.curve c, fnCURVE), (.convert c, fnCONVERT), (.slotAdd c, fnSLOT_ADD),
      (.slotToFp32 c, fnSLOT_TO_FP32), (.reduceSum c, fnREDUCE_SUM), (.reduceMax c, fnREDUCE_MAX)] →
    v.bad = false → (fn = fnCURVE → (s.vecStore j v).isSome = true) → v.memOps.all (fun o => opSpaceOk o.2.ty o.2.h) = true →
    (v.dst = 0 → opSpaceOk v.tD v.d = true) → s.jBounds j (v.regions j) = true → (s.coreAt c).zeroing = [] → s.writesFirst j →
    out = s.vecOuts j v (if v.srcA = 1 then (s.takeWords j lkQV (Config.vecCapture v.func) (ceilDiv v.e 128)).2.2 else []) →
    ∃ t, exec i s = .next t ∧ flightHas t j.f.ref (fun f => f.stage = .ended) ∧
      t.fget VEC_ELEMENTS_COUNT c = (s.fget VEC_ELEMENTS_COUNT c + v.e) % 2 ^ 64 ∧
      (v.dst = 0 → v.tD = 0 → t.readBytes (spAddr c (handleSpace v.d) (j.at v.d)) (4 * v.outs) = out.flatMap (fun x => leBytes 4 x.v)) ∧
      (v.dst = 0 → v.tD = 1 →
        t.readBytes (spAddr c (handleSpace v.d) (j.at v.d)) (2 * v.outs) = out.flatMap (fun x => leBytes 2 (fpToW12 x.v))) ∧
      (v.dst = 0 → v.tD = 2 → j.member = false → t.readBytes (spAddr c (handleSpace v.d) (j.at v.d)) (16 * v.outs) =
        out.flatMap (fun x => leBytes 16 { slotOf x.v with poison := x.poison }.toNat)) ∧
      (v.dst = 0 → memKept s t (bytesAt (spAddr c (handleSpace v.d) (j.at v.d)) (8 * ceilDiv (v.outs * typeBytes v.tD) 8))) ∧
      (v.dst = 1 → memKept s t nowhere)) ∧
  (∀ (c l at_ : Nat) (j : Job) (v : VecD) (h w : List Nat) (s : State), c < 8 → c < s.cores.length → s.coreWorks c = true → s.jobFor c enVEC = some j →
    dOpcode j.f.desc = opVEC_OP → v = vecOf j.f.desc → v.func = fnCURVE_LOAD → v.badBits = false → handleSpace v.a = spASP →
    at_ = j.at v.a → h = s.jWords32 j spASP at_ 8 → l = bits (h.getD 5 0) 8 8 → w = s.jWords32 j spASP at_ (curveBytes l / 4) →
    s.jBounds j [(spASP, at_, 32)] = true → (s.coreAt c).curves.length = 4 →
    (curveHeaderBad h = false → s.jBounds j [(spASP, at_, curveBytes l)] = true → s.jPoison j spASP at_ (curveBytes l) = false →
      j.member = false → (List.range (2 ^ l)).all (fun k => !segmentBad (slice w (8 + 4 * k) 4)) = true →
      ∃ t, exec (.curveLoad c) s = .next t ∧ (t.coreAt c).curves.getD v.store none = some ⟨2 ^ l, w⟩ ∧ memKept s t nowhere) ∧
    (curveHeaderBad h = true → ∃ t, exec (.curveLoad c) s = .next t ∧ (t.coreAt c).curves.getD v.store none = none ∧
      t.fbit VEC_STATUS_CURVE_REJECT_SEEN c = true ∧ flightHas t j.f.ref (fun f => f.stage = .ended ∧ delivers f.status = false) ∧
      memKept s t nowhere))

/-- The arrays and MVP outside lockstep: every slot of an array instruction with one problem is the sum of its terms, added to the slot there
before where it accumulates; every row of MVP is its accumulator as a slot or, for any job, its Q8 code; no other byte of memory changes.
Where the spec leaves a point open the model's choice stands: log entries 9 and 30. -/
def Obligations.ArraysAndMvpWriteTheirSums : Prop :=
  (∀ (i : Instr) (c a op : Nat) (j : Job) (q : Prob) (s : State), s.Sound → c < 8 → a < 2 → s.coreWorks c = true →
    s.jobFor c (enMXA0 + a) = some j → dOpcode j.f.desc = op → j.member = false →
    (i, op) ∈ [(Instr.mxaStream c a, opMXA_STREAM), (.mxaPacked c a, opMXA_PACKED), (.mxaThrough c a, opMXA_THROUGH)] →
    s.arrayNeed j ≤ s.level c a → s.arrayStop j = none → liveProbs (s.probs j) = [q] → (s.coreAt c).zeroing = [] →
    s.fbit FCU_INJECT_ARM = false → (op = opMXA_PACKED → s.jPoison j spWSP (j.at (dbytes j.f.desc 16 4)) 256 = false) →
    ∃ t, exec i s = .next t ∧
      t.fget MXAn_INSTR_COUNT_COUNT c a = (s.fget MXAn_INSTR_COUNT_COUNT c a + 1) % 2 ^ 32 ∧
      t.fget MXAn_TERMS_TERMS c a = (s.fget MXAn_TERMS_TERMS c a + q.terms) % 2 ^ 64 ∧
      (∀ m col p, m < q.m → col < q.n → p = q.base + m * q.pitch + col →
        t.readBytes (spAddr c spPSP (j.f.latch.slotByte p)) 16 = leBytes 16 (if q.accum then
          (s.jSlot j p).add (s.columnSum j q none m col) else s.columnSum j q none m col).toNat) ∧
      memKept s t (fun x => ∃ m col, m < q.m ∧ col < q.n ∧
        bytesAt (spAddr c spPSP (j.f.latch.slotByte (q.base + m * q.pitch + col))) 16 x)) ∧
  (∀ (c : Nat) (j : Job) (d b : Nat) (s : State), s.Sound → c < 8 → s.coreWorks c = true → s.jobFor c enMVP = some j → d = j.f.desc →
    dOpcode d = opMVP_MATVEC → mvFieldBad d = false → handleSpace (mvW d) = spWSP → handleSpace (mvX d) = spASP →
    (mvQ8 d = true → handleSpace (mvDst d) = spASP) → s.jBounds j (mvRegions j) = true → (s.coreAt c).zeroing = [] → s.writesFirst j →
    b = (if mvQ8 d then spAddr c spASP (j.at (mvDst d)) else spAddr c spPSP (j.f.latch.slotByte (mvDst d % 2 ^ 18))) →
    ∃ t, exec (.mvpMatvec c) s = .next t ∧ t.fget MVP_ROWS_COUNT c = (s.fget MVP_ROWS_COUNT c + mvN d) % 2 ^ 32 ∧
      (mvQ8 d = true → t.readBytes b (mvN d) = (List.range (mvN d)).map (fun n => BitVec.ofInt 8 (mvCode d (s.mvRow j n).1)) ∧
        memKept s t (bytesAt b (8 * ceilDiv (mvN d) 8))) ∧
      (mvQ8 d = false → j.member = false →
        t.readBytes b (16 * mvN d) = (List.range (mvN d)).flatMap (fun n =>
          leBytes 16 (mvSlot d (s.mvRow j n).1 (s.mvRow j n).2 (s.mvPoison j n)).toNat) ∧
        memKept s t (bytesAt b (16 * mvN d))))

/-- QNT_CONVERT writes every output as its slot or VQ value converts, as bales of codes or as W12 or FP32 elements, and nothing else but its
statistics record. QNT_ADAPT writes the next half: its counter one on, every entry revised by the records that name it.
Where the spec leaves a point open the model's choice stands: log entries 9, 37 and 39. -/
def Obligations.QntConvertsAndAdapts : Prop :=
  (∀ (c w : Nat) (j : Job) (q : QntD) (x : Int) (out : List QOut) (a st : Nat) (s : State), s.Sound → c < 8 → s.coreWorks c = true →
    s.jobFor c enQNT = some j → dOpcode j.f.desc = opQNT_CONVERT → q = qntOf j.f.desc → q.bad = false → isFinite32 q.mult = true →
    q.qv = false → handleSpace q.dst = spASP → (q.usesStats = true → handleSpace q.stats = spASP) →
    s.jBounds j (q.regions j) = true → (q.usesState = false → x = q.outExp) →
    (q.usesState = true → handleSpace q.state = spASP ∧ s.jBounds j [(spASP, j.at q.state + entryAt q.entry, 1)] = true ∧
      ∃ p, s.stateExp (j.reads 11 0) q = some (x, p)) →
    (s.coreAt c).zeroing = [] → s.writesFirst j →
    a = spAddr c spASP (j.at q.dst) → st = spAddr c spASP (j.at q.stats) → w = (if q.ofmt = 3 then 2 else 4) →
    (q.usesStats = true → st + 16 ≤ a ∨ a + 8 * ceilDiv q.outBytes 8 ≤ st) →
    out = s.qntOuts j q x false (if q.vq then (s.takeWords j lkVQ Config.qntCapture (ceilDiv q.count 128)).2.2 else []) →
    ∃ t, exec (.qntConvert c) s = .next t ∧ flightHas t j.f.ref (fun f => f.stage = .ended) ∧
      (q.code = true → t.readBytes a q.outBytes = (q.bales x false (out.map (fun o => (o.v, false)))).map (fun b => BitVec.ofNat 8 b.1)) ∧
      (q.code = false → t.readBytes a (w * q.count) = out.flatMap (fun o => leBytes w o.v)) ∧
      (q.usesStats = true → t.readLE st 2 = q.entry ∧ t.readLE (st + 4) 6 = q.count) ∧
      memKept s t (fun y => bytesAt a (8 * ceilDiv q.outBytes 8) y ∨ (q.usesStats = true ∧ bytesAt st 16 y))) ∧
  (∀ (c n k i o l hdr : Nat) (j : Job) (recs : List Nat) (s : State), s.Sound → c < 8 → s.coreWorks c = true → s.jobFor c enQNT = some j →
    dOpcode j.f.desc = opQNT_ADAPT → dbits j.f.desc 28 13 3 = 0 → dbytes j.f.desc 30 2 = 0 → n = qaCount j.f.desc → 1 ≤ n → n ≤ 4096 →
    handleSpace (qaIn j.f.desc) = spASP → handleSpace (qaOut j.f.desc) = spASP → handleSpace (qaList j.f.desc) = spASP → isDram (qaTable j.f.desc) = true →
    i = j.at (qaIn j.f.desc) → l = j.at (qaList j.f.desc) → o = j.at (qaOut j.f.desc) → hdr = s.jLE j.adaptHeader spASP i 16 →
    k = bits hdr 32 16 → 1 ≤ k → k ≤ 4096 → bits hdr 48 80 = 0 →
    s.jBounds j [(spASP, i, entryAt k), (spASP, l, 16 * n), (spASP, o, entryAt k)] = true →
    recs = (List.range n).map (fun m => s.jLE (j.adaptRecord m) spASP (l + 16 * m) 16) → recs.all (fun r => decide (bits r 0 16 < k)) = true →
    (List.range k).all (fun m => !scaleEntryBad (s.jLE (j.adaptEntry n m) spASP (i + entryAt m) 8)) = true → (s.coreAt c).zeroing = [] →
    s.writesFirst j →
    ∃ t, exec (.qntAdapt c) s = .next t ∧ flightHas t j.f.ref (fun f => f.stage = .ended) ∧
      t.readLE (spAddr c spASP o) 4 = (bits hdr 0 32 + 1) % 2 ^ 32 ∧ t.readLE (spAddr c spASP o + 4) 4 = k ∧
      (∀ m, m < k → t.readLE (spAddr c spASP (o + entryAt m)) 8 = (reviseBy recs m (s.jLE (j.adaptEntry n m) spASP (i + entryAt m) 8)).1.toNat) ∧
      memKept s t (bytesAt (spAddr c spASP o) (entryAt k)))

/-- WIN_FEED of a group issues one word per row entry on every link it names, present two cycles later, and stores nothing. WIN_REGROUP
writes every bale of the destination rectangle from the source map, the two regions lying apart, and no other byte.
Where the spec leaves a point open the model's choice stands: log entries 10 and 11. -/
def Obligations.WinFeedsAndRegroups : Prop :=
  (∀ (c : Nat) (j : Job) (g : Group) (f : Feed) (p : Bool) (s : State), c < 8 → s.coreWorks c = true → s.jobFor c enWIN = some j →
    dOpcode j.f.desc = opWIN_FEED → j.member = true → s.groupOf c = some g → g.links.length = 4 →
    ((feedOf j.f.desc).chain = 0 ∨ (j.check 14 = none ∧
      s.jBounds j [(spASP, j.at (feedOf j.f.desc).chainHandle, 16 * (feedOf j.f.desc).chain)] = true)) →
    f = s.feedResolved (j.reads 14 0) (feedOf j.f.desc) → p = ((feedOf j.f.desc).chain != 0 &&
      s.jPoison (j.reads 14 0) spASP (j.at (feedOf j.f.desc).chainHandle) (16 * (feedOf j.f.desc).chain)) →
    ∃ t g', exec (.winFeed c) s = .next t ∧ t.groupOf c = some g' ∧ flightHas t j.f.ref (fun f => f.stage = .ended) ∧
      (∀ k, k < 4 → g'.links.getD k [] = g.links.getD k [] ++ (if k < 2 ∧ bitAt f.links k = true then
        (rowEntries f.rows f.blocks f.p).map (fun e =>
          ⟨j.f.ref, j.cyc e.cycle + 2, p || j.late e.cycle, e.num % 16, [(f.word e.m e.kb : Int)]⟩) else [])) ∧
      t.fget WIN_WORDS_COUNT c = (s.fget WIN_WORDS_COUNT c + (rowEntries f.rows f.blocks f.p).length) % 2 ^ 64 ∧
      memKept s t nowhere) ∧
  (∀ (c : Nat) (j : Job) (g : Regroup) (sm dm : FMap) (s : State), s.Sound → c < 8 → s.coreWorks c = true → s.jobFor c enWIN = some j →
    dOpcode j.f.desc = opWIN_REGROUP → g = regroupOf j.f.desc → sm = g.srcMap j → dm = g.dstMap j → g.bad = false →
    handleSpace g.src = spASP → handleSpace g.dst = spASP → (g.zpc = true → handleSpace g.zp = spASP) →
    s.jBounds j ([(spASP, sm.off, sm.bytes), (spASP, dm.off, dm.bytes)] ++
      (if g.zpc then [(spASP, j.at g.zp, 32 * sm.cb)] else [])) = true →
    (sm.off + sm.bytes ≤ dm.off ∨ dm.off + dm.bytes ≤ sm.off) →
    (g.zpc = true → j.at g.zp + 32 * sm.cb ≤ dm.off ∨ dm.off + dm.bytes ≤ j.at g.zp) → (s.coreAt c).zeroing = [] →
    s.writesFirst j →
    ∃ t, exec (.winRegroup c) s = .next t ∧ flightHas t j.f.ref (fun f => f.stage = .ended) ∧
      (∀ k, k < dm.bales → t.readBytes (spAddr c spASP (dm.off + k * dm.baleBytes)) dm.baleBytes =
        (packBale g.fmt (s.regroupBale j g k)).map (fun b => BitVec.ofNat 8 b.1)) ∧
      memKept s t (bytesAt (spAddr c spASP dm.off) dm.bytes))

/-- WINDOW_POOLING, BOX_POOLING and CROP_AND_RESIZE write every output of every map they compute, as FP32 values or as bales of codes, and
no other byte; outputs and boxes are counted. Outputs are read as Packhorse holds them.
Where the spec leaves a point open the model's choice stands: log entries 9, 40 and 45. -/
def Obligations.RoiWritesItsOutputs : Prop :=
  ∀ (i : Instr) (c op a n : Nat) (j : Job) (p : RoiD) (l : List RBox) (s : State), s.Sound → c < 8 → c < s.cores.length →
    s.coreWorks c = true → s.jobFor c enROI = some j → dOpcode j.f.desc = opROI_OP →
    (i, op) ∈ [(Instr.windowPooling c, roiWINDOW), (.boxPooling c, roiBOX), (.cropAndResize c, roiCROP)] →
    handleSpace (roiParam j.f.desc) = spASP → s.jBounds j [(spASP, j.at (roiParam j.f.desc), 64)] = true →
    p = roiOf j.f.desc (s.jLE j spASP (j.at (roiParam j.f.desc)) 64) j → p.op = op → p.bad = false → handleSpace p.inp = spASP →
    2 ≤ handleSpace p.out → handleSpace p.out ≤ 4 → (p.zpc = true → handleSpace p.zp = spASP) →
    (p.window = false → handleSpace p.box = spASP ∧ s.jLE j spASP (j.at p.box + 4) 12 = 0) →
    s.jBounds j (p.regions j) = true → (s.coreAt c).zeroing = [] → (s.coreAt c).packhorse = [] →
    n = (if p.window then 0 else s.jLE j spASP (j.at p.box) 4) → l = s.roiBoxes j p n false →
    a = spAddr c (handleSpace p.out) (j.at p.out) →
    ∃ t, exec i s = .next t ∧ flightHas t j.f.ref (fun f => f.stage = .ended) ∧
      (p.same = false → ∀ m b y x ch e, l[m]? = some b → y < p.rows → x < p.cols → p.isOut y x = true → ch < p.map.c → e < 4 →
        (t.phByte c (a + 4 * (((m * p.rows + y) * p.cols + x) * p.map.c + ch) + e)).toNat = bits (s.roiOut j p b y x ch).v (8 * e) 8) ∧
      (p.same = true → ∀ m b k, l[m]? = some b → k < p.rows * p.strips * p.map.cb → ∃ fill,
        (List.range p.map.baleBytes).map (fun e =>
          t.phByte c (a + (m * (p.rows * p.strips * p.map.cb) + k) * p.map.baleBytes + e)) =
          (p.bale (fun y x ch => s.roiOut j p b y x ch) k fill).map (fun z => BitVec.ofNat 8 z.1)) ∧
      (p.window = false → t.fget ROI_BOXES_COUNT c = (s.fget ROI_BOXES_COUNT c + l.length) % 2 ^ 64 ∧
        t.fget ROI_BOXES_DROPPED_COUNT c = (s.fget ROI_BOXES_DROPPED_COUNT c + (n - l.length)) % 2 ^ 32) ∧
      memKept s t (bytesAt a (p.outBytes l.length))

/-- MOV_STREAM, no waystation named and no transaction held by the ration: every run of every block, their destinations apart from each other
and from every source, is copied; no other byte changes and the descriptor ends. MOV_WAY_IN_TAKE lets a mover that waits on an empty WAY_IN
take the entry now there and go on. MOV_WAY_OUT_PUT puts the descriptor's entry to WAY_OUT and ends it.
Where the spec leaves a point open the model's choice stands: log entries 23 and 43. -/
def Obligations.MoversCopyTakeAndPut : Prop :=
  (∀ (c : Nat) (f : Flight) (l : List Nat) (runs : List (Nat × Nat × Nat × Nat × Nat)) (s : State), s.Sound → c < 8 →
    c < s.cores.length → s.coreWorks c = true → s.moverRuns c = none → s.engineHead c enMOV = some f → dOpcode f.desc = opMOV_STREAM →
    s.flight? f.ref = some f → movList s c f = .ok l → mvWayIn f.desc = 0 → mvWayOut f.desc = 0 → f.entry = none →
    f.status = stOK → runs = movRunsOf c f.latch (l.map blockOf) → (l.map blockOf).all (fun b => s.runsAllowed c f.latch b) = true →
    runsApart runs → s.heldTx c = 0 → s.usedTx c + movTx f.desc runs ≤ s.budgetOf c → s.budgetOf c < 2 ^ 20 → s.fbit FCU_INJECT_ARM = false →
    (s.coreAt c).zeroing = [] → (s.coreAt c).packhorse = [] →
    ∃ t, exec (.movStream c) s = .next t ∧ flightHas t f.ref (fun g => g.stage = .ended) ∧
      (∀ r ∈ runs, ∀ i, i < r.2.2.2.2 → t.phByte c (r.2.2.2.1 + i) = s.readByte (r.2.1 + i)) ∧
      memKept s t (fun x => ∃ r ∈ runs, bytesAt r.2.2.2.1 r.2.2.2.2 x) ∧
      t.fget MOV_RUNS_COUNT c = (s.fget MOV_RUNS_COUNT c + runs.length) % 2 ^ 64) ∧
  (∀ (c : Nat) (f : Flight) (w : MovWork) (e : WayEntry) (s : State), c < 8 → s.coreWorks c = true → s.moverRuns c = some (f, w) →
    mvWayIn f.desc ≠ 0 → f.entry = none → s.moverReady c f = true → (s.wayTake (wayNum (mvWayIn f.desc))).2 = some e →
    ∃ t, exec (.movWayInTake c) s = .next t ∧
      t.qHead (wayNum (mvWayIn f.desc)) = (s.qHead (wayNum (mvWayIn f.desc)) + 1) % 2 ^ 32 ∧
      flightHas t f.ref (fun g => g.entry = some e ∨ g.stage = .ended) ∧
      (s.movPutter c = none → mvWayOut f.desc = 0 → t.wayWaits c = false)) ∧
  (∀ (c w : Nat) (f : Flight) (e : WayEntry) (s : State), s.Sound → c < 8 → s.coreWorks c = true →
    s.movPutter c = some f → w = wayNum (mvWayOut f.desc) → s.writesVisible f = true → f.discarded = false → s.wayFull w = false →
    s.pushRefused w 2 1 = false → e = f.entry.getD ⟨s.movDst c, stOK, 0⟩ →
    ∃ t a, exec (.movWayOutPut c) s = .next t ∧ a = s.qBase w + 8 * (s.qTail w % s.qSize w) ∧
      t.readBytes a 8 = leBytes 4 e.handle ++ [BitVec.ofNat 8 e.status, 1] ++ leBytes 2 (s.qTail w) ∧
      t.qTail w = (s.qTail w + 1) % 2 ^ 32 ∧ flightHas t f.ref (fun g => g.stage = .ended ∧ g.entry = none) ∧
      (t.movPutter c = none → t.wayWaits c = false) ∧ memKept s t (bytesAt a 8))

/-- TASK_RELEASE notes the tasks its mask names whose ENABLE is set. ZEROING_BEGIN, no descriptor of the task left in an engine, clears the
task's ENABLE, sets its ZEROING bit and latches its regions. ZEROING_COMPLETE leaves every row of them zero, without poison or stamp, no
other byte changed, and clears the bit.
Where the spec leaves a point open the model's choice stands: log entry 46. -/
def Obligations.TasksAreReleasedAndZeroed : Prop :=
  (∀ (src c mask : Nat) (s : State), c < 8 → c < s.cores.length → reaches s src (CORE_TASK_RELEASE.addr c 0 0 0) →
    ∃ t, exec (.taskRelease src c mask) s = .next t ∧ t.lastAccess = ⟨stOK, 0⟩ ∧
      (∀ n, n ∈ (t.coreAt c).release ↔ n ∈ (s.coreAt c).release ∨
        (n < 16 ∧ bitAt mask n = true ∧ s.fbit CORE_TASKn_BOUND_ENABLE c n = true)) ∧
      regsKept s t (loggedAnd []) ∧ memKept s t nowhere) ∧
  (∀ (c n : Nat) (s : State), c < 8 → n < 16 → c < s.cores.length → s.up = true → s.coreDown c = false →
    n ∈ (s.coreAt c).release → s.taskBusy c n = false → (s.coreAt c).zeroing.all (fun z => z.task != n) = true →
    ∃ t z, exec (.zeroingBegin c n) s = .next t ∧ z ∈ (t.coreAt c).zeroing ∧ z.task = n ∧ z.lo = (s.taskLatch c n).base ∧
      t.fbit CORE_TASKn_BOUND_ENABLE c n = false ∧ bitAt (t.fget CORE_TASK_ZEROING_ZEROING c) n = true ∧
      n ∉ (t.coreAt c).release ∧ memKept s t nowhere) ∧
  (∀ (c n : Nat) (z : ZeroTask) (s : State), s.Sound → c < 8 → n < 16 → s.up = true → s.coreDown c = false →
    (s.coreAt c).zeroing.find? (fun z => z.task == n) = some z → ∃ t, exec (.zeroingComplete c n) s = .next t ∧
      (∀ sp r i, sp ∈ [spWSP, spASP, spPSP] → z.lo.getD (spIx sp) 0 ≤ r → r < z.hi.getD (spIx sp) 0 → i < 128 →
        t.readByte (rowAddr c sp r + i) = 0 ∧ t.poisoned (rowAddr c sp r + i) = false ∧ AMap.get? t.stamps (rowAddr c sp r) = none) ∧
      bitAt (t.fget CORE_TASK_ZEROING_ZEROING c) n = false ∧ (∀ x ∈ (t.coreAt c).zeroing, x.task ≠ n) ∧
      regsKept s t (anyOf [CORE_TASK_ZEROING.addr c 0 0 0]) ∧
      memKept s t (fun x => ∃ sp r i, sp ∈ [spWSP, spASP, spPSP] ∧ z.lo.getD (spIx sp) 0 ≤ r ∧ r < z.hi.getD (spIx sp) 0 ∧ i < 128 ∧
        x = rowAddr c sp r + i))

/-- PACKHORSE_DRAIN writes a due entry's valid bytes to its row and no other byte; CORRECTION_WRITE_BACK writes the oldest queued word and leaves
the stamps; SCRUB_READ moves to the bank's next row and, with no check bit wrong, changes no register; ECC_INJECT_ARM loads SP_ECC_INJECT.
Where the spec leaves a point open the model's choice stands: log entries 25 and 45. -/
def Obligations.ScratchpadServiceCommandsAct : Prop :=
  (∀ (c sp r : Nat) (e : PhEntry) (s : State), s.Sound → c < 8 → s.up = true → 2 ≤ sp → sp ≤ 4 → r < s.spRowCount c sp →
    s.phEntry? c (rowAddr c sp r) = some e → s.phDue c e = true → s.rowZeroing c sp r e.task = false →
    ∃ t, exec (.packhorseDrain c (rowAddr c sp r)) s = .next t ∧ t.phEntry? c (rowAddr c sp r) = none ∧
      (∀ i, i < 128 → bitAt e.mask i = true → t.readByte (rowAddr c sp r + i) = e.data.getD i 0) ∧
      memKept s t (fun x => ∃ i, i < 128 ∧ bitAt e.mask i = true ∧ x = rowAddr c sp r + i)) ∧
  (∀ (c sp w : Nat) (e : CorrEntry) (l : List CorrEntry) (s : State), s.Sound → c < 8 → s.up = true → 2 ≤ sp → sp ≤ 4 →
    (s.coreAt c).corrections.getD (spIx sp) [] = e :: l → e.addr = spAddr c sp (8 * w) → 8 * w < 128 * s.spRowCount c sp →
    ∃ t, exec (.correctionWriteBack c sp) s = .next t ∧ t.readLE e.addr 8 = e.value % 2 ^ 64 ∧ t.stamps = s.stamps ∧
      (e.poison = true → t.poisoned e.addr = true) ∧ (∀ x ∈ (t.coreAt c).corrections.getD (spIx sp) [], x.addr ≠ e.addr) ∧
      memKept s t (bytesAt e.addr 8)) ∧
  (∀ (c sp bank row : Nat) (s : State), c < 8 → c < s.cores.length → 2 ≤ sp → sp ≤ 4 → bank < spBanks sp → s.coreWorks c = true →
    s.scrubDue c sp bank = true → row = (AMap.get? (s.coreAt c).scrubRow (bankKey sp bank)).getD 0 → row + 1 < s.spRows c sp →
    ∃ t, exec (.scrubRead c sp bank) s = .next t ∧ AMap.get? (t.coreAt c).scrubRow (bankKey sp bank) = some (row + 1) ∧
      AMap.get? (t.coreAt c).scrubTick (bankKey sp bank) = some (s.arrNow c) ∧ (s.checkFlips = [] → regsKept s t nowhere) ∧
      memKept s t nowhere) ∧
  (∀ (src c v : Nat) (s : State), c < 8 → reaches s src (SP_ECC_INJECT.addr c 0 0 0) → ∃ t, exec (.eccInjectArm src c v) s = .next t ∧
    (t.rword SP_ECC_INJECT c).toNat = v % 2 ^ 11 ∧ t.lastAccess = ⟨stOK, 0⟩ ∧
    regsKept s t (loggedAnd [SP_ECC_INJECT.addr c 0 0 0]) ∧ memKept s t nowhere)

/-- SCRATCHPAD_WINDOW_ACCESS, nothing waiting in Packhorse and its path's ration not spent: an aligned write of the data view is in its bank when it is acknowledged, an
aligned read answers the bank's bytes, and a misaligned access or one outside the views answers BUS_ERROR; no other byte changes.
WC_INVALIDATE takes ENABLE and starts the invalidation its value asks for; WC_INVALIDATE_DONE ends it with no line left. LINK_REPLAY counts
in REPLAYS, and the bytes of one that succeeds in RX_B, which is the model's choice.
Where the spec leaves a point open the model's choice stands: log entries 27 and 80. -/
def Obligations.WindowAndWeightCacheCommandsAct : Prop :=
  (∀ (src c o sp b : Nat) (a : Access) (s : State), s.Sound → isSource src = true → s.up = true → c < 8 → c < s.cores.length →
    o < 0x400_0000 → a.addr = windowBase + 0x400_0000 * c + o → s.coreDown c = false → (s.coreAt c).packhorse = [] →
    (∀ k, pathClass src = some k → s.grants k 1) →
    (a.width ∈ [1, 2, 4, 8] → o % a.width = 0 → s.windowPart c o a.width = .data sp b → s.rowZeroing c sp (b / 128) none = false →
      (a.write = true → ∃ t, exec (.scratchpadWindowAccess src a) s = .next t ∧ t.lastAccess = ⟨stOK, 0⟩ ∧
        t.readBytes a.addr a.width = leBytes a.width a.value ∧ memKept s t (bytesAt a.addr a.width)) ∧
      (a.write = false → s.eccUncorrectable c sp b a.width = false → ∃ t, exec (.scratchpadWindowAccess src a) s = .next t ∧
        t.lastAccess = ⟨stOK, s.readLE a.addr a.width⟩ ∧ memKept s t nowhere)) ∧
    (a.width ∉ [1, 2, 4, 8] ∨ o % a.width ≠ 0 ∨ s.windowPart c o a.width = .nothing → ∃ t,
      exec (.scratchpadWindowAccess src a) s = .next t ∧ t.lastAccess = ⟨stBusError, 0⟩ ∧
      t.fget SYS_BUS_ERRORS_COUNT = (s.fget SYS_BUS_ERRORS_COUNT + 1) % 2 ^ 32 ∧ memKept s t nowhere)) ∧
  (∀ (src k v : Nat) (s : State), k < 2 → reaches s src (SYS_WCk_CTRL.addr k 0 0 0) → ∃ t, exec (.wcInvalidate src k v) s = .next t ∧
    t.fget SYS_WCk_CTRL_ENABLE k = bits v 0 1 ∧
    (bitAt v 1 = true ∨ (s.fbit SYS_WCk_CTRL_ENABLE k = true ∧ bitAt v 0 = false) → t.fbit SYS_WCk_CTRL_INVALIDATING k = true) ∧
    (bitAt v 1 = false → (s.fbit SYS_WCk_CTRL_ENABLE k = false ∨ bitAt v 0 = true) →
      t.fget SYS_WCk_CTRL_INVALIDATING k = s.fget SYS_WCk_CTRL_INVALIDATING k) ∧ t.wc = s.wc ∧
    regsKept s t (loggedAnd [SYS_WCk_CTRL.addr k 0 0 0]) ∧ memKept s t nowhere) ∧
  (∀ (k : Nat) (s : State), k < 2 → s.works = true → s.fbit SYS_WCk_CTRL_INVALIDATING k = true → ∃ t,
    exec (.wcInvalidateDone k) s = .next t ∧ t.wc.getD k [] = [] ∧ t.fbit SYS_WCk_CTRL_INVALIDATING k = false ∧
    t.fget SYS_WCk_INVALIDATIONS_COUNT k = (s.fget SYS_WCk_INVALIDATIONS_COUNT k + s.wcLines k) % 2 ^ 64 ∧
    regsKept s t (anyOf [SYS_WCk_CTRL.addr k 0 0 0, SYS_WCk_INVALIDATIONS.addr k 0 0 0]) ∧ memKept s t nowhere) ∧
  (∀ (l n : Nat) (ok : Bool) (s : State), l < 3 → s.up = true → s.fbit D2D_Ln_STATUS_UP l = true → s.fbit FCU_INJECT_ARM = false →
    ∃ t, exec (.linkReplay l n ok) s = .next t ∧ t.fget D2D_Ln_REPLAYS_COUNT l = (s.fget D2D_Ln_REPLAYS_COUNT l + 1) % 2 ^ 32 ∧
      t.fget D2D_Ln_RX_B_BYTES_B l = (s.fget D2D_Ln_RX_B_BYTES_B l + (if ok then n else 0)) % 2 ^ 64)

/-- CSI packets of an enabled stream: a frame start begins the frame with the next number; a good line joins it and its pixels count; a bad
checksum voids it; a frame end of a whole frame writes its image behind the buffer's header area, as the port's ration lets it, and queues
its entry, and one that came too short voids it. A frame that has found no buffer keeps that as its reason. FRAME_TIMEOUT voids a frame whose time is up. A packet that no stream takes is dropped and counted.
Where the spec leaves a point open the model's choice stands: log entries 49 and 50. -/
def Obligations.CameraPacketsBuildFrames : Prop :=
  (∀ (n vc no v : Nat) (cor : Bool) (s : State), n < 4 → s.csiOn n = true → s.inRun = true → s.isp.length = 4 →
    (s.ispPort n).streams.length = 4 →
    (s.streamOf n vc = none → ∃ t, exec (.csiFrameStart n vc ⟨no, cor⟩) s = .next t ∧
      t.fget CSIn_DROPPED_COUNT n = (s.fget CSIn_DROPPED_COUNT n + 1) % 2 ^ 32 ∧
      t.fget CSIn_ECC_CORR_COUNT n = (s.fget CSIn_ECC_CORR_COUNT n + b2n cor) % 2 ^ 32 ∧
      regsKept s t (anyOf [CSIn_DROPPED.addr n 0 0 0, CSIn_STATUS.addr n 0 0 0, CSIn_ECC_CORR.addr n 0 0 0]) ∧ memKept s t nowhere) ∧
    (s.streamOf n vc = some v → (s.ispStream n v).frame = none → s.startLate n v = false → ∃ t f,
      exec (.csiFrameStart n vc ⟨no, cor⟩) s = .next t ∧ (t.ispStream n v).frame = some f ∧
      f.number = (s.fget ISPn_Sv_FRAME_CURRENT n v + 1) % 2 ^ 32 ∧ f.csiNo = no % 65536 ∧ f.lines = [] ∧ f.start = s.refTick ∧
      t.fget ISPn_Sv_FRAME_CURRENT n v = f.number ∧ t.fbit ISPn_Sv_STATUS_IN_FRAME n v = true ∧ memKept s t nowhere)) ∧
  (∀ (n v : Nat) (p : CsiPacket) (f : IspFrame) (s : State), n < 4 → s.csiOn n = true → p.eccBad = false → s.streamOf n p.vc = some v →
    rawBits p.dataType ≠ 0 → (s.ispStream n v).frame = some f →
    (p.crcBad = false → s.storeNow n (rawBits (s.ispCfg n v).dt) + p.payload.length ≤ 262144 → s.fbit FCU_INJECT_ARM = false →
      8 * p.payload.length = (s.ispCfg n v).w * rawBits (s.ispCfg n v).dt → f.lines.length < (s.ispCfg n v).h → ∃ t g,
      exec (.csiLongPacket n p) s = .next t ∧ (t.ispStream n v).frame = some g ∧ g.lines = f.lines ++ [p.payload] ∧
      g.number = f.number ∧ t.fget ISPn_PIXELS_IN_COUNT n = (s.fget ISPn_PIXELS_IN_COUNT n + (s.ispCfg n v).w) % 2 ^ 64 ∧
      memKept s t nowhere) ∧
    (p.crcBad = true → ∃ t, exec (.csiLongPacket n p) s = .next t ∧ (t.ispStream n v).frame = none ∧
      (f.begun = false ∨ f.buf.isSome = true → t.fget ISPn_Sv_STATUS_LAST_VOID_REASON n v = 3) ∧ t.fget CSIn_CRC_ERR_COUNT n = (s.fget CSIn_CRC_ERR_COUNT n + 1) % 2 ^ 32)) ∧
  (∀ (n vc no v h : Nat) (cor : Bool) (f : IspFrame) (s : State), s.Sound → n < 4 → s.csiOn n = true → s.streamOf n vc = some v →
    (s.ispStream n v).frame = some f → f.begun = true → f.buf = some h → f.tap = none → ∃ t hdr,
      exec (.csiFrameEnd n vc ⟨no, cor⟩) s = .next t ∧ (t.ispStream n v).frame = none ∧ t.fbit ISPn_Sv_STATUS_IN_FRAME n v = false ∧
      (t.ispStream n v).outQ = (s.ispStream n v).outQ ++
        [⟨h, if f.lines.length < (s.ispCfg n v).h then stVoidInput else stOK, some hdr, true⟩] ∧
      memKept s t (fun x => dramAddr h + 256 ≤ x ∧ x < dieEnd (dramAddr h)) ∧
      (f.lines.length < (s.ispCfg n v).h → t.fget ISPn_Sv_STATUS_LAST_VOID_REASON n v = 14) ∧
      (∀ im, (s.ispCfg n v).h ≤ f.lines.length → im = ((s.ispCfg n v).images f.force f.lines).1 → isDram h = true →
        dramAddr h + 256 + im.length ≤ dieEnd (dramAddr h) → s.grants (ispClass n) (bufTx h 256 im.length) →
        t.readBytes (dramAddr h + 256) im.length = im)) ∧
  (∀ (n v us : Nat) (f : IspFrame) (s : State), n < 4 → v < 4 → s.up = true → us = s.fget ISPn_Sv_CTRL_MAX_FRAME_US n v → us ≠ 0 →
    (s.ispStream n v).frame = some f → f.start + usTicks us < s.refTick → ∃ t, exec (.frameTimeout n v) s = .next t ∧
      (t.ispStream n v).frame = none ∧ t.fbit ISPn_Sv_STATUS_IN_FRAME n v = false ∧
      (f.begun = false ∨ f.buf.isSome = true → t.fget ISPn_Sv_STATUS_LAST_VOID_REASON n v = 8))

/-- The camera port's status events: BYTE_CLK_MEASURE, the initial CSI_SKEW_CALIBRATION where DESKEW is set, and
CSI_CLOCK_LANE_MODE_CHANGE each write their one field. -/
def Obligations.CameraPortEventsShow : Prop :=
  ∀ (n khz : Nat) (hs : Bool) (s : State), n < 4 → s.up = true →
    (∃ t, exec (.byteClkMeasure n khz) s = .next t ∧ t.fget CSIn_BYTE_CLK_KHZ_BYTE_CLK_KHZ n = khz % 2 ^ 32 ∧
      regsKept s t (anyOf [CSIn_BYTE_CLK_KHZ.addr n 0 0 0]) ∧ memKept s t nowhere) ∧
    (s.fbit CSIn_CTRL_ENABLE n = true → s.fbit CSIn_CTRL_DESKEW n = true → ∃ t, exec (.csiSkewCalibration n true) s = .next t ∧
      t.fbit CSIn_STATUS_DESKEW_DONE n = true ∧ regsKept s t (anyOf [CSIn_STATUS.addr n 0 0 0]) ∧ memKept s t nowhere) ∧
    (∃ t, exec (.csiClockLaneModeChange n hs) s = .next t ∧ t.fbit CSIn_STATUS_LINK_ACTIVE n = hs ∧
      regsKept s t (anyOf [CSIn_STATUS.addr n 0 0 0]) ∧ memKept s t nowhere)

/-- ISP_STREAM_ENABLE enables a stream whose configuration passes R323, or refuses it with the reason; ISP_STREAM_DISABLE ends its frame and
clears its parameter queues. ISP_PARAM_PUSH and ISP_PARAM_CHECK_DONE take, check and queue a set. ISP_FRAME_DELIVER writes a finished frame's
header and counts it; ISP_ENTRY_PUT puts the oldest entry.
Where the spec leaves a point open the model's choice stands: log entries 28, 49 and 50. -/
def Obligations.ImageStreamsEnableAndDeliver : Prop :=
  (∀ (src n v value : Nat) (s : State), n < 4 → v < 4 → reaches s src (ISPn_Sv_CTRL.addr n v 0 0) → s.isp.length = 4 →
    (s.ispPort n).streams.length = 4 →
    (s.ispEnabled n v = false → ∃ t, exec (.ispStreamEnable src n v value) s = .next t ∧ memKept s t nowhere ∧
      regsKept s t (loggedAnd [ISPn_Sv_CTRL.addr n v 0 0, ISPn_Sv_STATUS.addr n v 0 0, ISPn_Sv_FRAME.addr n v 0 0,
        ISPn_Sv_BUF.addr n v 0 0]) ∧
      (s.ispReason n v = 0 → t.ispEnabled n v = true ∧ t.fget ISPn_Sv_FRAME_CURRENT n v = 0xFFFF_FFFF ∧
        t.fbit ISPn_Sv_CTRL_ENABLE n v = true ∧ t.fget ISPn_Sv_BUF_BUF_B n v = (256 + (s.ispCfg n v).imageBytes) % 2 ^ 32) ∧
      (s.ispReason n v ≠ 0 → t.ispEnabled n v = false ∧ t.fbit ISPn_Sv_CTRL_ENABLE n v = false ∧
        t.fget ISPn_Sv_STATUS_REJECT_STATUS n v = stLimitReject ∧ t.fget ISPn_Sv_STATUS_REJECT_REASON n v = s.ispReason n v)) ∧
    (s.ispEnabled n v = true → ∃ t, exec (.ispStreamDisable src n v value) s = .next t ∧ t.ispEnabled n v = false ∧
      (t.ispStream n v).frame = none ∧ (t.ispStream n v).queue = [] ∧
      (∀ f, (s.ispStream n v).frame = some f → f.begun = false ∨ f.buf.isSome = true →
        t.fget ISPn_Sv_STATUS_LAST_VOID_REASON n v = 13))) ∧
  (∀ (src n h v : Nat) (s : State), n < 4 → reaches s src (ISPn_PARAM_PUSH.addr n 0 0 0) → s.isp.length = 4 →
    ((s.ispPort n).push = none → ∃ t, exec (.ispParamPush src n h v) s = .next t ∧ t.fget ISPn_PARAM_RESULT_BUSY n = 1 ∧
      (t.ispPort n).push = some (h % 2 ^ 32, v % 4, s.fget ISPn_PARAM_TAG_FRAME_TAG n) ∧ memKept s t nowhere) ∧
    ((s.ispPort n).push.isSome = true → ∃ t, exec (.ispParamPush src n h v) s = .next t ∧
      t.fget ISPn_PARAM_RESULT_STATUS n = stQueueFull ∧ (t.ispPort n).push = (s.ispPort n).push ∧ memKept s t nowhere)) ∧
  (∀ (n h v tag hdr : Nat) (data : List Byte) (s : State), n < 4 → s.up = true → (s.ispPort n).push = some (h, v, tag) → v < 4 →
    (s.ispPort n).streams.length = 4 → isDram h = true → hdr = leVal (s.bufRead (ispClass n) h 0 16).2 →
    data = (s.bufRead (ispClass n) h 16 (min (bits hdr 32 32) 32768)).2 → ∃ t, exec (.ispParamCheckDone n) s = .next t ∧
      (t.ispPort n).push = none ∧ t.fget ISPn_PARAM_RESULT_BUSY n = 0 ∧ memKept s t nowhere ∧
      (paramReason hdr data (s.fget ISPn_Sv_FORMAT_WIDTH n v) = 0 →
        ((s.ispStream n v).queue.filter (fun p => p.group == bits hdr 0 8)).length < 4 →
        (t.ispStream n v).queue = (s.ispStream n v).queue ++ [⟨bits hdr 0 8, bits hdr 16 16, tag, data⟩] ∧
        t.fget ISPn_PARAM_RESULT_STATUS n = stOK) ∧
      (paramReason hdr data (s.fget ISPn_Sv_FORMAT_WIDTH n v) ≠ 0 → (t.ispStream n v).queue = (s.ispStream n v).queue ∧
        t.fget ISPn_PARAM_RESULT_STATUS n = stLimitReject)) ∧
  (∀ (n v : Nat) (i : OutItem) (h : List Byte) (s : State), s.Sound → n < 4 → v < 4 → s.up = true → s.heldTx (ispClass n) = 0 →
    putRoom (s.ispStream n v).outQ = true → pendingHeader (s.ispStream n v).outQ = some (i, h) →
    itemsBefore (s.ispStream n v).outQ ≠ [] → isDram i.handle = true → dramAddr i.handle + h.length ≤ dieEnd (dramAddr i.handle) →
    s.grants (ispClass n) (bufTx i.handle 0 h.length) →
    ∃ t, exec (.ispFrameDeliver n v) s = .next t ∧ t.readBytes (dramAddr i.handle) h.length = h ∧
      memKept s t (bytesAt (dramAddr i.handle) h.length) ∧ (t.ispStream n v).outQ = headerDone (s.ispStream n v).outQ ∧
      t.fget ISPn_Sv_COUNTS_OK n v = (s.fget ISPn_Sv_COUNTS_OK n v + (if i.status = stOK then 1 else 0)) % 2 ^ 16 ∧
      t.fget ISPn_Sv_COUNTS_VOID n v = (s.fget ISPn_Sv_COUNTS_VOID n v + (if i.status = stOK then 0 else 1)) % 2 ^ 16) ∧
  (∀ (n v w : Nat) (i : OutItem) (l : List OutItem) (s : State), s.Sound → n < 4 → v < 4 → s.up = true →
    (s.ispStream n v).outQ = i :: l → w = s.fget ISPn_Sv_WAY_OUT_WAY n v → s.canPut n (s.ispStream n v).outQ w = true →
    s.pushRefused w 2 1 = false → ∃ t a, exec (.ispEntryPut n v) s = .next t ∧ a = s.qBase w + 8 * (s.qTail w % s.qSize w) ∧
      t.readBytes a 8 = leBytes 4 i.handle ++ [BitVec.ofNat 8 i.status, 1] ++ leBytes 2 (s.qTail w) ∧
      (t.ispStream n v).outQ = l ∧ t.qTail w = (s.qTail w + 1) % 2 ^ 32 ∧ memKept s t (bytesAt a 8))

/-- TDM_FRAME_SYNC, an edge of the polarity set, gives every enabled stream of its port one sample out of its slot, lost where the bit clocks
or the rate are wrong, and keeps LOCKED and SYNC_ERRS; the other edge does nothing; TDM_RATE_MEASURE shows the rate and whether it is off by more than 1/256. SPX_STREAM_ENABLE and SPX_STREAM_DISABLE start and end
a stream; FEATURE_FRAME_COMPUTE computes the next frame; SPX_BUFFER_PUT puts the oldest buffer; SPX_BUDGET_EXPIRY abandons a late one.
Where the spec leaves a point open the model's choice stands: log entries 28 and 52. -/
def Obligations.AudioFeaturesAreComputed : Prop :=
  (∀ (p seen x y : Nat) (s : State), p < 2 → exec (.tdmFrameSync p seen ⟨s.fbit SPX_TDMp_CFG_FS_POL p, x, y⟩) s = .next s) ∧
  (∀ (p seen x y : Nat) (rise : Bool) (s : State), p < 2 → s.up = true → s.fbit SPX_TDMp_CFG_ENABLE p = true → s.spx.length = 16 →
    s.tdm.length = 2 → rise = !s.fbit SPX_TDMp_CFG_FS_POL p →
    ∃ t, exec (.tdmFrameSync p seen ⟨rise, x, y⟩) s = .next t ∧ (t.tdmPort p).synced = true ∧ memKept s t nowhere ∧
      ((s.tdmPort p).synced = false → t.spx = s.spx ∧ regsKept s t nowhere) ∧
      ((s.tdmPort p).synced = true → seen = s.tdmSlots p * tdmBits (s.fget SPX_TDMp_CFG_SLOT_BITS p) →
        s.fbit SPX_TDMp_STATUS_RATE_ERR p = false → s.tdmSupported p = true → s.tdmFull p = false → (t.tdmPort p).good = (s.tdmPort p).good + 1 ∧
        (1 ≤ (s.tdmPort p).good → t.fbit SPX_TDMp_STATUS_LOCKED p = true) ∧
        ∀ f, f < 16 → s.spxEnabled f = true → s.fget SPX_Ff_CFG_PORT f = p → (t.spxStream f).samples = (s.spxStream f).samples ++
          [⟨sampleFp (s.tdmSample p) ((s.tdmSamples p (seen + 1) (if s.fbit SPX_TDMp_CFG_EDGE p then y else x)).getD (s.fget SPX_Ff_CFG_SLOT f) 0), 0, (s.tdmPort p).sec, (s.tdmPort p).ns, s.refTick⟩]) ∧
      ((s.tdmPort p).synced = true → seen ≠ s.tdmSlots p * tdmBits (s.fget SPX_TDMp_CFG_SLOT_BITS p) →
        t.fget SPX_TDMp_STATUS_SYNC_ERRS p = (s.fget SPX_TDMp_STATUS_SYNC_ERRS p + 1) % 2 ^ 16 ∧
        t.fbit SPX_TDMp_STATUS_LOCKED p = false ∧ (t.tdmPort p).good = 0)) ∧
  (∀ (p hz r : Nat) (s : State), p < 2 → s.up = true → s.fbit SPX_TDMp_CFG_ENABLE p = true → r = s.fget SPX_TDMp_CFG_RATE_HZ p →
    ∃ t, exec (.tdmRateMeasure p hz) s = .next t ∧ t.fget SPX_TDMp_STATUS_MEASURED_HZ p = hz % 2 ^ 18 ∧
      t.fbit SPX_TDMp_STATUS_RATE_ERR p = decide (r < 256 * (hz - r + (r - hz))) ∧
      regsKept s t (anyOf [SPX_TDMp_STATUS.addr p 0 0 0, SPX_STATUS.addr 0 0 0 0]) ∧ memKept s t nowhere) ∧
  (∀ (src f value : Nat) (w : State) (s : State), f < 16 → reaches s src (SPX_Ff_CFG.addr f 0 0 0) → s.spxEnabled f = false →
    f < s.spx.length → w = s.plainWrite (regAddr SPX_Ff_CFG f) (putBits (wrap 64 value) 0 1 1) →
    (w.spxReason1 f = 0 → w.spxReason2 f (w.spxTables f).2.1 (w.spxTables f).2.2.1 (w.spxTables f).2.2.2 = 0 → ∃ t,
      exec (.spxStreamEnable src f value) s = .next t ∧ t.spxEnabled f = true ∧ (t.spxStream f).next = 0 ∧
      (t.spxStream f).samples = [] ∧ (t.spxStream f).window = (w.spxTables f).2.1 ∧
      t.fget SPX_Ff_STATUS_BUF_B f = (128 + (w.spxCfg f).dataBytes) % 2 ^ 32 ∧ memKept s t nowhere) ∧
    (w.spxReason1 f ≠ 0 → ∃ t, exec (.spxStreamEnable src f value) s = .next t ∧ t.spxEnabled f = false ∧
      t.fbit SPX_Ff_CFG_ENABLE f = false ∧ t.fget SPX_Ff_STATUS_REJECT_REASON f = w.spxReason1 f ∧
      t.fget SPX_Ff_STATUS_REJECT_STATUS f = stLimitReject ∧ memKept s t nowhere)) ∧
  (∀ (src f value : Nat) (s : State), f < 16 → reaches s src (SPX_Ff_CFG.addr f 0 0 0) → s.spxEnabled f = true →
    bits value 1 53 = bits (s.rword SPX_Ff_CFG f).toNat 1 53 → ∃ t, exec (.spxStreamDisable src f value) s = .next t ∧
      t.spxEnabled f = false ∧ t.fbit SPX_Ff_CFG_ENABLE f = false ∧ (t.spxStream f).cur = none ∧
      (t.spxStream f).outQ.length = (s.spxStream f).outQ.length + (if (s.spxStream f).cur.isSome then 1 else 0)) ∧
  (∀ (f : Nat) (xs : List SpxSample) (b : SpxBuf) (s : State), f < 16 → s.up = true → s.inRun = true → s.spxEnabled f = true →
    s.spxReady f = true → s.spxStalled = false → s.fbit FCU_INJECT_ARM = false → (s.spxStream f).cur = some b →
    b.frames.length + 1 < (s.spxCfg f).frames →
    xs = slice (s.spxStream f).samples ((s.spxStream f).next * (s.spxCfg f).hop - (s.spxStream f).base) (s.spxCfg f).n →
    ∃ t d, exec (.featureFrameCompute f) s = .next t ∧ (t.spxStream f).next = (s.spxStream f).next + 1 ∧
      (t.spxStream f).cur = some d ∧ d.frames = b.frames ++ [(s.spxCfg f).feature (s.spxStream f) (xs.map (·.v))] ∧
      regsKept s t nowhere ∧ memKept s t nowhere) ∧
  (∀ (f w : Nat) (b : SpxBuf) (l : List SpxBuf) (s : State), s.Sound → f < 16 → s.up = true → (s.spxStream f).outQ = b :: l →
    s.heldTx spxClass = 0 → w = s.fget SPX_Ff_WAY_OUT_WAY f → s.wayFull w = false → s.pushRefused w 2 1 = false →
    s.spxLate f b = false → ∃ t a, exec (.spxBufferPut f) s = .next t ∧
      a = s.qBase w + 8 * (s.qTail w % s.qSize w) ∧ t.qTail w = (s.qTail w + 1) % 2 ^ 32 ∧ (t.spxStream f).outQ = l ∧
      t.readBytes a 4 = leBytes 4 (b.handle.getD (s.fget SPX_Ff_WAY_VOID_HANDLE f)) ∧ memKept s t (bytesAt a 8)) ∧
  (∀ (f us : Nat) (b : SpxBuf) (l : List SpxBuf) (s : State), f < 16 → s.up = true → us = s.fget SPX_Ff_BUDGET_BUDGET_US f → us ≠ 0 →
    (s.spxStream f).outQ = b :: l → b.expired = false → b.reason ≠ 5 → b.tick + usTicks us < s.refTick →
    s.pushRefused (s.fget SPX_Ff_WAY_OUT_WAY f) 2 1 = false → ∃ t, exec (.spxBudgetExpiry f) s = .next t ∧
      t.fbit SPX_STATUS_EXPIRED_SEEN = true ∧ (t.spxStream f).outQ = l ∧
      t.fget SPX_Ff_COUNTS_EXPIRED f = (s.fget SPX_Ff_COUNTS_EXPIRED f + 1) % 2 ^ 16)

/-- VCD_SESSION_OPEN opens a session whose parameter block passes R349, or refuses it with the reason; VCD_SESSION_CLOSE ends its picture, and
with nothing left closes it. VCD_PICTURE_START takes the session's next input; VCD_PICTURE_DONE ends the picture on its core and counts
decoded luma; VCD_PICTURE_BUDGET_EXPIRY voids a late one.
Where the spec leaves a point open the model's choice stands: log entries 28 and 53. -/
def Obligations.CodecSessionsRunPictures : Prop :=
  (∀ (src n value : Nat) (w : State) (x : VcdSession) (s : State), n < 16 → n < s.vcd.length → reaches s src (VCD_Sn_CTRL.addr n 0 0 0) →
    s.fbit VCD_Sn_CTRL_OPEN n = false → s.vcdOpen n = false → (s.vcdAt n).closing = false → w = s.plainWrite (regAddr VCD_Sn_CTRL n) (putBits (wrap 32 value) 0 1 1) →
    x = { VcdSession.empty with param :=
      (s.bufRead vcdClass (s.fget VCD_Sn_PARAM_HANDLE n) 0 (if bits value 1 2 = 3 then 160 else 32)).2 } →
    (w.vcdReason n x = 0 → ∃ t, exec (.vcdSessionOpen src n value) s = .next t ∧ t.vcdOpen n = true ∧ t.vcdAt n = x ∧
      t.fget VCD_Sn_BUF_BUF_B n = x.bufB % 2 ^ 32 ∧ t.fget VCD_Sn_BUF_REF_B n = x.refB % 2 ^ 32 ∧ memKept s t nowhere) ∧
    (w.vcdReason n x ≠ 0 → ∃ t, exec (.vcdSessionOpen src n value) s = .next t ∧ t.vcdOpen n = false ∧
      t.fbit VCD_Sn_CTRL_OPEN n = false ∧ t.fget VCD_Sn_STATUS_REJECT_REASON n = w.vcdReason n x ∧
      t.fget VCD_Sn_STATUS_REJECT_STATUS n = stLimitReject ∧ t.vcd = s.vcd ∧ memKept s t nowhere)) ∧
  (∀ (src n value : Nat) (s : State), n < 16 → reaches s src (VCD_Sn_CTRL.addr n 0 0 0) → s.fbit VCD_Sn_CTRL_OPEN n = true →
    (s.vcdAt n).closing = false → bits value 1 2 = s.fget VCD_Sn_CTRL_KIND n → n < s.vcd.length →
    ∃ t, exec (.vcdSessionClose src n value) s = .next t ∧ (t.vcdAt n).run = none ∧
      ((s.vcdAt n).run = none → (s.vcdAt n).held = [] → (s.vcdAt n).outQ = [] → t.vcdOpen n = false ∧
        t.vcdAt n = VcdSession.empty ∧ memKept s t nowhere)) ∧
  (∀ (n k off : Nat) (e : WayEntry) (hdr au : List Byte) (s : State), n < 16 → n < s.vcd.length → s.up = true → s.inRun = true → s.vcdReady n = true →
    k = (s.vcdAt n).kind → s.vcdFree k = true → s.vcdTurn n = true → (s.wayTake (s.fget VCD_Sn_WAY_IN_WAY n)).2 = some e →
    off = (if k = 1 then 32 else 256) → hdr = (s.bufRead vcdClass e.handle 0 off).2 →
    au = (s.bufRead vcdClass e.handle off (if k = 1 then min (pbytes hdr 0 4) 16_777_216
      else vcdLayout 0 ((s.vcdAt n).p 4 2) ((s.vcdAt n).p 6 2) ((s.vcdAt n).p 6 2))).2 →
    ∃ t, exec (.vcdPictureStart n) s = .next t ∧ (t.vcdAt n).inputs = (s.vcdAt n).inputs ++ [au] ∧
      (k < s.vcdLast.length → t.vcdLast.getD k 0 = n) ∧
      (s.fget VCD_Sn_WAY_FREE_WAY n ≠ s.fget VCD_Sn_WAY_IN_WAY n →
        t.qHead (s.fget VCD_Sn_WAY_IN_WAY n) = (s.qHead (s.fget VCD_Sn_WAY_IN_WAY n) + 1) % 2 ^ 32)) ∧
  (∀ (n : Nat) (p : VcdPic) (s : State), n < 16 → s.up = true → (s.vcdAt n).run = some p →
    (s.heldTx vcdClass = 0 → s.vcdLate n p = false → ∃ t, exec (.vcdPictureDone n) s = .next t ∧ (t.vcdAt n).run = none ∧
      t.fget VCD_LUMA_DECODED_COUNT = (s.fget VCD_LUMA_DECODED_COUNT +
        (if (s.vcdAt n).kind = 1 ∧ (p.reason = 0 ∨ p.reason = 5) then p.w * p.h else 0)) % 2 ^ 64) ∧
    (∀ us, us = s.fget VCD_Sn_VOID_BUDGET_US n → us ≠ 0 → s.elapsed p.start (usTicks us) = true → ∃ t,
      exec (.vcdPictureBudgetExpiry n) s = .next t ∧ (t.vcdAt n).run = none ∧ t.fbit VCD_STATUS_EXPIRED_SEEN = true ∧
      t.fget VCD_Sn_STATUS_LAST_VOID_REASON n = (if p.reason ≠ 0 then p.reason else 4)))

/-- ETH_FRAME_RECEIVE counts a good frame and hands it on, to the HMP engine where it is one for it, else to firmware, and counts a bad one as
an error. Link loss empties the port's queue; link up shows. ETH_FRAME_TRANSMIT sends the next frame, secured frames advancing the PN.
Where the spec leaves a point open the model's choice stands: log entries 54 and 57. -/
def Obligations.EthernetReceivesAndSends : Prop :=
  (∀ (p : Nat) (f : EthFrame) (s : State), p < 2 → s.up = true → s.portOn p = true → s.fbit FCU_INJECT_ARM = false →
    (f.good = false ∨ frameLen f < 64 ∨ f.etherType = 0x8808 → ∃ t, exec (.ethFrameReceive p f) s = .next t ∧
      t.fget ETHn_RX_ERRORS_COUNT p = (s.fget ETHn_RX_ERRORS_COUNT p + 1) % 2 ^ 64 ∧ t.hmp = s.hmp ∧ t.eth = s.eth ∧
      regsKept s t (anyOf [ETHn_RX_ERRORS.addr p 0 0 0]) ∧ memKept s t nowhere) ∧
    (f.good = true → 64 ≤ frameLen f → frameLen f ≤ 1522 → f.etherType ≠ 0x8808 → f.sectag = none → f.da = s.fuses.mac →
      s.qciFilter p f.da (f.vlan.elim 0 (fun t => t % 4096)) = none →
      (f.etherType ∉ [0x88B5, 0x0800, 0x86DD, 0x88F7] → ∃ t, exec (.ethFrameReceive p f) s = .next t ∧
        t.hmp = { s.hmp with fwRx := s.hmp.fwRx ++ [(p, f)] } ∧ regsKept s t (anyOf [ETHn_RX_FRAMES.addr p 0 0 0]) ∧
        t.fget ETHn_RX_FRAMES_COUNT p = (s.fget ETHn_RX_FRAMES_COUNT p + 1) % 2 ^ 64 ∧ memKept s t nowhere) ∧
      (f.etherType = 0x88B5 → f.rtag = none → s.hmpPortOn p = true → s.fbit HMP_CFG_RAW_EN = true →
        s.fbit ETHn_CTRL_REQUIRE_MACSEC p = false → s.pduOk p f.payload = true → pl f.payload 1 1 = 1 → ∃ t r,
        exec (.ethFrameReceive p f) s = .next t ∧ t.hmp = { s.hmp with queue := s.hmp.queue ++ [r] } ∧ r.type = 1 ∧
        r.partner = ⟨p, f.sa, f.vlan.elim 0 (fun t => t % 4096), none⟩ ∧ r.seq = pl f.payload 8 4 ∧
        r.payload = slice f.payload 16 (pl f.payload 12 2) ∧ r.secured = false ∧ memKept s t nowhere))) ∧
  (∀ (p : Nat) (s : State), p < 2 → s.up = true →
    (s.fbit ETHn_STATUS_LINK_UP p = true → p < s.eth.length → ∃ t, exec (.ethLinkLoss p) s = .next t ∧
      t.fbit ETHn_STATUS_LINK_UP p = false ∧ t.fbit ETHn_STATUS_LINK_LOST_SEEN p = true ∧ (t.ethPort p).txq = [] ∧
      regsKept s t (anyOf [ETHn_STATUS.addr p 0 0 0]) ∧ memKept s t nowhere) ∧
    (s.fbit ETHn_CTRL_ENABLE p = true → ∃ t, exec (.ethLinkUp p) s = .next t ∧ t.fbit ETHn_STATUS_LINK_UP p = true ∧
      t.eth = s.eth ∧ regsKept s t (anyOf [ETHn_STATUS.addr p 0 0 0]) ∧ memKept s t nowhere)) ∧
  (∀ (p i a : Nat) (f : TxFrame) (s : State), p < 2 → s.up = true → s.portSends p = true → s.wireFree p = true → s.nextTx p = some i →
    (s.ethPort p).txq[i]? = some f → a = s.fget ETHn_MACSEC_CTRL_TX_AN p → a < 4 →
    (f.secure = false → ∃ t, exec (.ethFrameTransmit p) s = .next t ∧ (t.ethPort p).lastTx = some f ∧
      (t.ethPort p).txq = (s.ethPort p).txq.eraseIdx i ∧
      t.fget ETHn_TX_FRAMES_COUNT p = (s.fget ETHn_TX_FRAMES_COUNT p + 1) % 2 ^ 64 ∧
      regsKept s t (anyOf [ETHn_TX_FRAMES.addr p 0 0 0]) ∧ memKept s t nowhere) ∧
    (f.secure = true → s.saUsable p = true → ∃ t g c, exec (.ethFrameTransmit p) s = .next t ∧ (t.ethPort p).lastTx = some g ∧
      g.sectag = some c ∧ c.an = a ∧ c.pn = s.fget ETHn_MACSEC_TXa_PN_NEXT_PN p a ∧
      t.fget ETHn_MACSEC_TXa_PN_NEXT_PN p a = (c.pn + 1) % 2 ^ 32 ∧
      (c.pn + 1 = 0xC000_0000 → t.fbit ETHn_STATUS_PN_THRESHOLD_SEEN p = true ∧ t.fbit SYS_IRQ_PENDING_MACSEC = true) ∧
      memKept s t nowhere) ∧
    (f.secure = true → s.saUsable p = false → ∃ t, exec (.ethFrameTransmit p) s = .next t ∧
      (t.ethPort p).txq = (s.ethPort p).txq.eraseIdx i ∧ (t.ethPort p).lastTx = (s.ethPort p).lastTx ∧
      t.fget ETHn_TX_DROPPED_COUNT p = (s.fget ETHn_TX_DROPPED_COUNT p + 1) % 2 ^ 64 ∧
      t.fbit ETHn_STATUS_PN_EXHAUSTED_SEEN p = true ∧ t.fbit SYS_IRQ_PENDING_MACSEC = true ∧ memKept s t nowhere))

/-- QBV_COMMIT takes a list whose intervals make up its cycle, to start at a boundary no earlier than its base and now, or shows QBV_ERROR;
QBV_CYCLE_BOUNDARY puts it into force. CB_RECOVERY_RESET, MACSEC_KEY_WRITE, MDIO_ACCESS and MDIO_DONE each have their one effect.
Where the spec leaves a point open the model's choice stands: log entries 55, 56 and 61. -/
def Obligations.EthernetPortCommandsAct : Prop :=
  (∀ (src p v len cycle base : Nat) (es : List (Nat × Nat)) (s : State), p < 2 → p < s.eth.length →
    reaches s src (ETHn_QBV_LEN.addr p 0 0 0) → len = bits v 0 9 → cycle = s.fget ETHn_QBV_CYCLE_CYCLE_NS p → len ≤ 256 →
    base = s.fget ETHn_QBV_BASE_SECONDS p * nsPerS + s.fget ETHn_QBV_BASE_NS_NS p →
    es = (List.range len).map (fun e => (s.fget ETHn_QBV_GCLe_GATES p e, s.fget ETHn_QBV_GCLe_INTERVAL p e)) →
    (8 * (es.map (·.2)).sum = cycle → 1000 ≤ cycle → cycle ≤ 1_000_000_000 → es.all (fun e => e.2 != 0) = true → ∃ t start,
      exec (.qbvCommit src p v) s = .next t ∧ (t.ethPort p).admin = some ⟨start, cycle, es⟩ ∧ base ≤ start ∧ s.tim.total ≤ start ∧
      (start - base) % cycle = 0 ∧ (t.ethPort p).oper = (s.ethPort p).oper ∧
      regsKept s t (loggedAnd [ETHn_QBV_LEN.addr p 0 0 0]) ∧ memKept s t nowhere) ∧
    (8 * (es.map (·.2)).sum ≠ cycle → ∃ t, exec (.qbvCommit src p v) s = .next t ∧ t.eth = s.eth ∧
      t.fbit ETHn_STATUS_QBV_ERROR_SEEN p = true ∧
      regsKept s t (loggedAnd [ETHn_QBV_LEN.addr p 0 0 0, ETHn_STATUS.addr p 0 0 0]) ∧ memKept s t nowhere)) ∧
  (∀ (p : Nat) (g : GateList) (s : State), p < 2 → s.up = true → (s.ethPort p).admin = some g → g.start ≤ s.tim.total → ∃ t,
    exec (.qbvCycleBoundary p) s = .next t ∧ (t.ethPort p).oper = some g ∧ (t.ethPort p).admin = none ∧
    t.fbit ETHn_STATUS_QBV_OPER p = true ∧ regsKept s t (anyOf [ETHn_STATUS.addr p 0 0 0]) ∧ memKept s t nowhere) ∧
  (∀ (p i : Nat) (x : CbStream) (s : State), p < 2 → i < 64 → s.up = true → s.hmp.cb[i]? = some x → x.fresh = false →
    s.elapsed x.tick (msTicks 100) = true → ∃ t, exec (.cbRecoveryReset p i) s = .next t ∧
      t.hmp = { s.hmp with cb := s.hmp.cb.set i { x with fresh := true } } ∧ regsKept s t nowhere ∧ memKept s t nowhere) ∧
  (∀ (src p a w v : Nat) (s : State), p < 2 → a < 4 → w < 4 → reaches s src (ETHn_MACSEC_TXa_KEYw.addr p a w 0) → ∃ t,
    exec (.macsecKeyWrite src (ETHn_MACSEC_TXa_KEYw.addr p a w 0) v) s = .next t ∧ memKept s t nowhere ∧
    regsKept s t (loggedAnd [ETHn_MACSEC_TXa_KEYw.addr p a w 0]) ∧
    (s.fbit ETHn_MACSEC_TXa_PN_IN_USE p a = false → (t.rword ETHn_MACSEC_TXa_KEYw p a w).toNat = v % 2 ^ 64) ∧
    (s.fbit ETHn_MACSEC_TXa_PN_IN_USE p a = true → t.rword ETHn_MACSEC_TXa_KEYw p a w = s.rword ETHn_MACSEC_TXa_KEYw p a w ∧
      t.lastAccess = ⟨stBusError, 0⟩)) ∧
  (∀ (src p c a w v : Nat) (s : State), p < 2 → c < 8 → a < 4 → w < 4 → reaches s src (ETHn_MACSEC_RXc_Aa_KEYw.addr p c a w) → ∃ t,
    exec (.macsecKeyWrite src (ETHn_MACSEC_RXc_Aa_KEYw.addr p c a w) v) s = .next t ∧ memKept s t nowhere ∧
    (s.fbit ETHn_MACSEC_RXc_Aa_PN_IN_USE p c a = false → (t.rword ETHn_MACSEC_RXc_Aa_KEYw p c a w).toNat = v % 2 ^ 64) ∧
    (s.fbit ETHn_MACSEC_RXc_Aa_PN_IN_USE p c a = true → t.lastAccess = ⟨stBusError, 0⟩)) ∧
  (∀ (src v : Nat) (s : State), reaches s src (MGT_MDIO.addr 0 0 0 0) → ∃ t, exec (.mdioAccess src v) s = .next t ∧
    t.fbit MGT_MDIO_BUSY = true ∧ t.fget MGT_MDIO_REG = bits v 0 5 ∧ t.fget MGT_MDIO_PHY = bits v 5 5 ∧
    t.fget MGT_MDIO_WRITE = bits v 10 1 ∧ regsKept s t (loggedAnd [MGT_MDIO.addr 0 0 0 0]) ∧ memKept s t nowhere) ∧
  (∀ (d : Nat) (s : State), s.up = true → s.fbit MGT_MDIO_BUSY = true → ∃ t, exec (.mdioDone d) s = .next t ∧
    t.fbit MGT_MDIO_BUSY = false ∧
    t.fget MGT_MDIO_DATA = (if s.fbit MGT_MDIO_WRITE then s.fget MGT_MDIO_DATA else d % 2 ^ 16) ∧
    regsKept s t (anyOf [MGT_MDIO.addr 0 0 0 0]) ∧ memKept s t nowhere)

/-- SESSION_OPEN opens a slot of no open session for the partner and answers its new ID, or QUEUE_FULL where every slot is taken; SESSION_CLOSE
answers, then closes; KEEPALIVE answers the time. SESSION_TIMEOUT and a write of HMP_SESSIONs_CTRL close a session.
Where the spec leaves a point open the model's choice stands: log entries 57 and 58. -/
def Obligations.SessionsOpenAndClose : Prop :=
  (∀ (r : HmpReq) (s : State), s.up = true → s.inRun = true → s.nextReq (· == 0x01) = some r → r.slot = none → r.replayed = false →
    s.pays r 0 → r.partner.port < 3 → s.eth.length = 3 → s.hmp.sessions.length = 64 → (∀ k, k < 64 → s.sessionLate k = false) →
    (∀ k, k < 64 → (s.hmpSession k).gen < 2 ^ 26) → (s.dropReq r).sameOpen r = none →
    (s.freeSlots ≠ [] → ∃ t k, exec .sessionOpen s = .next t ∧ k ∈ s.freeSlots ∧ t.sessionIsOpen k = true ∧
      t.fget HMP_SESSIONs_STATE_ID k = nextGen (s.hmpSession k).gen * 64 + k ∧ (t.hmpSession k).partner = r.partner ∧
      (t.hmpSession k).timeout = s.grantMs r ∧ t.fget HMP_SESSIONs_SEQ_EXPECTED k = (r.seq + 1) % 2 ^ 32 ∧
      t.answers r (t.fget HMP_SESSIONs_STATE_ID k) stOK (s.openPayload r.partner.port (s.grantMs r)) ∧ memKept s t nowhere) ∧
    (s.freeSlots = [] → ∃ t id ms, exec .sessionOpen s = .next t ∧
      t.answers r id stQueueFull (s.openPayload r.partner.port ms) ∧ (∀ k, k < 64 → t.sessionIsOpen k = true) ∧ memKept s t nowhere)) ∧
  (∀ (r : HmpReq) (k : Nat) (s : State), s.up = true → s.inRun = true → s.nextReq (· == 0x02) = some r → r.slot = some k → k < 64 →
    s.sessionIsOpen k = true → s.pays r 0 → r.partner.port < 3 → s.eth.length = 3 → ∃ t, exec .sessionClose s = .next t ∧
      t.sessionIsOpen k = false ∧ (∀ x ∈ t.hmp.queue, x.slot ≠ some k) ∧ t.answers r r.session stOK [] ∧ memKept s t nowhere) ∧
  (∀ (r : HmpReq) (s : State), s.up = true → s.inRun = true → s.nextReq (· == 0x03) = some r → s.pays r 0 → r.partner.port < 3 →
    s.eth.length = 3 → ∃ t, exec .keepalive s = .next t ∧ t.hmp.queue = s.hmp.queue.erase r ∧
      t.answers r r.session stOK (leBytes 6 s.tim.sec ++ leBytes 4 s.tim.ns ++ leBytes 6 0) ∧ memKept s t nowhere) ∧
  (∀ (k : Nat) (s : State), k < 64 → s.up = true → s.sessionLate k = true → ∃ t, exec (.sessionTimeout k) s = .next t ∧
    t.sessionIsOpen k = false ∧ t.fget HMP_EXPIRED_COUNT = (s.fget HMP_EXPIRED_COUNT + 1) % 2 ^ 32 ∧
    regsKept s t (anyOf [HMP_SESSIONs_STATE.addr k 0 0 0, HMP_STATUS.addr 0 0 0 0, HMP_EXPIRED.addr 0 0 0 0]) ∧ memKept s t nowhere) ∧
  (∀ (src k : Nat) (s : State), k < 64 → reaches s src (HMP_SESSIONs_CTRL.addr k 0 0 0) → ∃ t,
    exec (.hmpSessionCloseWrite src k) s = .next t ∧ t.sessionIsOpen k = false ∧ t.lastAccess = ⟨stOK, 0⟩ ∧
    regsKept s t (loggedAnd [HMP_SESSIONs_STATE.addr k 0 0 0, HMP_STATUS.addr 0 0 0 0]) ∧ memKept s t nowhere)

/-- REG_READ and REG_WRITE perform their entries in order and answer each status; QUEUE_PUSH pushes up to the first refusal and answers how
many; MAILBOX_GET, COMMIT_GET and JOURNAL_GET answer the mailbox, the commit records and the journal entries. Each runs where the ration of
its class issues its transactions. Where the spec leaves a point open the model's choice stands: log entries 48, 59 and 78. -/
def Obligations.MessagesReadWriteAndPush : Prop :=
  ∀ (r : HmpReq) (s : State), s.up = true → s.inRun = true → r.partner.port < 3 → s.eth.length = 3 →
    (∀ x, s.nextReq (· == 0x10) = some r → s.pays r (regTx false r s) →
      x = (s.paid r (regTx false r s)).accesses r.partner.port (r.session % 64) (regEntries false r.payload) → ∃ t,
      exec .regRead s = .next t ∧ t.hmp.queue = x.1.hmp.queue ∧ t.mem = x.1.mem ∧ (x.1.eth.length = 3 →
        t.answers r r.session (firstStatus (x.2.map (·.1))) (r.payload.take 8 ++ x.2.flatMap (fun e => leBytes 8 e.1 ++ leBytes 8 e.2)))) ∧
    (∀ x, s.nextReq (· == 0x11) = some r → s.pays r (regTx true r s) →
      x = (s.paid r (regTx true r s)).accesses r.partner.port (r.session % 64) (regEntries true r.payload) → ∃ t,
      exec .regWrite s = .next t ∧ t.hmp.queue = x.1.hmp.queue ∧ t.mem = x.1.mem ∧ (x.1.eth.length = 3 →
        t.answers r r.session (firstStatus (x.2.map (·.1))) (r.payload.take 8 ++ x.2.map (fun e => BitVec.ofNat 8 e.1)))) ∧
    (∀ q n f, s.nextReq (· == 0x20) = some r → s.pays r (pushTx r s) → q = pl r.payload 0 2 →
      (n, f) = ((s.paid r (pushTx r s)).pushAll q (pushedDescs r.payload)).2 → ∃ t,
      exec .queuePush s = .next t ∧ t.hmp.queue = s.hmp.queue.erase r ∧ t.qTail q = (s.qTail q + n) % 2 ^ 32 ∧
        n ≤ (pushedDescs r.payload).length ∧ (f = 0 ↔ n = (pushedDescs r.payload).length) ∧
        t.answers r r.session (if f = 0 then stOK else stQueueFull)
          (leBytes 1 n ++ leBytes 1 f ++ leBytes 2 0 ++ leBytes 4 (t.qTail q))) ∧
    (∀ m x, s.nextReq (· == 0x30) = some r → s.pays r (rangesTx (s.mbxRanges r.payload)) → m = pl r.payload 0 2 → m < 4096 →
      x = (s.mbxRead m (pl r.payload 4 4)).2 → ∃ t rest,
      exec .mailboxGet s = .next t ∧ t.hmp.queue = s.hmp.queue.erase r ∧ t.answers r r.session x.status (leBytes 4 x.seq ++ rest) ∧
      (x.data = true → t.fbit QM_MBXm_STATE_SEEN m = true) ∧ memKept s t nowhere) ∧
    (∀ n k start size base, s.nextReq (· == 0x31) = some r → s.pays r (rangesTx (s.commitRanges r.payload)) →
      n = s.fget QM_COMMIT_NEXT_INDEX → size = 2 ^ s.fget QM_COMMIT_BASE_SIZE_LOG2 → base = 64 * s.fget QM_COMMIT_BASE_BASE →
      start = max (pl r.payload 0 4) (n - size) → k = min (pl r.payload 4 1) (n - start) → s.dieDown (hubLinkOf base) = false →
      ∃ t, exec .commitGet s = .next t ∧ t.hmp.queue = s.hmp.queue.erase r ∧
        t.answers r r.session stOK (leBytes 4 n ++ leBytes 1 k ++ leBytes 11 0 ++
          (List.range k).flatMap (fun i => s.readBytes (base + 64 * ((start + i) % size)) 64)) ∧ memKept s t nowhere) ∧
    (∀ n l, s.nextReq (· == 0x32) = some r → s.pays r 0 → n = s.fget CFG_JOURNAL_NEXT_INDEX →
      l = ((List.range (min (pl r.payload 4 2) (if s.jumbo r.partner.port then 256 else 32))).map (pl r.payload 0 4 + ·)).filter
        (fun i => decide (n - 4096 ≤ i) && decide (i < n)) →
      ∃ t, exec .journalGet s = .next t ∧ t.hmp.queue = s.hmp.queue.erase r ∧
        t.answers r r.session stOK (leBytes 4 n ++ leBytes 2 l.length ++ leBytes 10 0 ++ l.flatMap s.journalEntry) ∧ memKept s t nowhere)

/-- MODEL_ADMIT and FIRMWARE hand a request to firmware: it stands whole in the ring's next slot, which is then in use, and HMP_FW is pending.
FW_DONE sends the response that firmware has written, with the request's GAP, and frees the slot; FW_RESPONSE_TIMEOUT answers CONTAINED_FAULT.
Where the spec leaves a point open the model's choice stands: log entries 60 and 78. -/
def Obligations.FirmwareServesRequests : Prop :=
  (∀ (i : Instr) (want : Nat → Bool) (r : HmpReq) (n : Nat) (s : State),
    (i, want) ∈ [(Instr.modelAdmit, fun t => t == 0x40), (.firmware, fun t => decide (0x41 ≤ t) && decide (t ≤ 0x4F))] →
    s.Sound → s.up = true → s.inRun = true → s.nextReq want = some r → s.pays r (fwTx r s) → n = s.fget HMP_FW_CTRL_NEXT_SLOT → ∃ t,
      exec i s = .next t ∧ t.readBytes (s.fwSlot n + 32) (16 + r.payload.length) =
        hmpHeader r.type 0 0 r.session r.seq r.payload.length 0 ++ r.payload ∧
      t.hmp.fw = s.hmp.fw ++ [⟨n, r, s.refTick, false⟩] ∧ t.hmp.queue = s.hmp.queue.erase r ∧
      t.fget HMP_FW_CTRL_NEXT_SLOT = (n + 1) % 64 ∧ t.fbit SYS_IRQ_PENDING_HMP_FW = true ∧
      memKept s t (bytesAt (s.fwSlot n) (48 + r.payload.length))) ∧
  (∀ (src n k a : Nat) (j : FwJob) (s : State), n < 64 → reaches s src (HMP_FW_DONE.addr 0 0 0 0) →
    s.hmp.fw.find? (fun j => j.slot == n) = some j → j.answered = false → j.req.slot = some k → j.req.partner.port < 3 →
    s.eth.length = 3 → a = s.fwSlot n + 8320 → s.grants 14 (txCount a (16 + s.readLE (a + 12) 2)) → ∃ t,
      exec (.fwDone src n) s = .next t ∧ (∀ x ∈ t.hmp.fw, x.slot ≠ n) ∧ memKept s t nowhere ∧
      ∀ p ∈ t.responsePorts j.req, t.linkUp p = true → ∃ f ∈ (t.ethPort p).txq, f.da = j.req.partner.mac ∧
        f.bytes = fwPdu j.req (s.readBytes a (16 + s.readLE (a + 12) 2)) ∧ goesTo f j.req.partner.udp f.bytes) ∧
  (∀ (n k : Nat) (j : FwJob) (s : State), n < 64 → s.up = true → s.hmp.fw.find? (fun j => j.slot == n) = some j →
    j.answered = false → j.req.slot = some k → s.elapsed j.since (msTicks (s.fget HMP_FW_CTRL_FW_TIMEOUT_MS)) = true →
    j.req.partner.port < 3 → s.eth.length = 3 → ∃ t, exec (.fwResponseTimeout n) s = .next t ∧ (∀ x ∈ t.hmp.fw, x.slot ≠ n) ∧
      t.fbit HMP_STATUS_FW_TIMEOUT_SEEN = true ∧ t.answers j.req j.req.session stContainedFault [] ∧ memKept s t nowhere)

/-- LAST_WORD_COPY sends the second and third copies of the last word, 10 µs apart, on every Ethernet port that is on. PTP_TX_GO puts a slot
on the list to send; PTP_TX_DONE sends its frame and stamps the slot with the time of sending.
Where the spec leaves a point open the model's choice stands: log entry 61. -/
def Obligations.LastWordAndPtpFramesLeave : Prop :=
  (∀ (copy : Nat) (w : LastWord) (s : State), s.inRun = false → s.fbit CLK_STATUS_REF_PRESENT = true → s.hmp.lastWord = some w →
    (copy = 2 ∨ copy = 3) → w.copies + 1 = copy → s.elapsed w.tick (usTicks (10 * (copy - 1))) = true → s.eth.length = 3 → ∃ t,
      exec (.lastWordCopy copy) s = .next t ∧ t.hmp.lastWord = some { w with copies := copy } ∧ memKept s t nowhere ∧
      ∀ p, p < 2 → s.portOn p = true → s.fbit ETHn_CTRL_MACSEC_EN p = false → t.fbit HMP_STATUS_LW_SENT = true ∧
        ∃ f, (t.ethPort p).lastTx = some f ∧ f.bytes = s.lastWordPdu w copy ∧ f.da = s.fget HMP_LW_DA_DA ∧ f.etherType = 0x88B5) ∧
  (∀ (src i : Nat) (s : State), i < 16 → reaches s src (TIM_PTP_TX_GO.addr 0 0 0 0) → ∃ t, exec (.ptpTxGo src i) s = .next t ∧
    i ∈ t.tim.ptpTx ∧ (∀ k, k ≠ i → (k ∈ t.tim.ptpTx ↔ k ∈ s.tim.ptpTx)) ∧ regsKept s t (loggedAnd []) ∧ memKept s t nowhere) ∧
  (∀ (i a p : Nat) (b : List Byte) (s : State), s.Sound → i < 16 → s.up = true → s.inRun = true → s.tim.ptpTx.contains i = true →
    a = s.ptpSlot (64 + i) → p = s.readLE a 1 → p < 2 → s.portSends p = true → s.wireFree p = true → s.eth.length = 3 →
    b = s.readBytes (a + 32) (s.readLE (a + 2) 2) → ∃ t f, exec (.ptpTxDone i) s = .next t ∧ i ∉ t.tim.ptpTx ∧
      (t.ethPort p).lastTx = some f ∧ f.da = beVal (b.take 6) ∧ f.etherType = beVal (slice b 12 2) ∧ f.bytes = b.drop 14 ∧
      t.readBytes (a + 4) 12 = s.stampBytes (s.fget TIM_ETHn_LAT_TX_LAT_NS p : Nat) ∧ bitAt (t.readLE (a + 1) 1) 0 = true ∧
      memKept s t (bytesAt a 16))

/-- R394: INCREMENT resets to 8 ns per tick; a write stores the value, or the limit nearest to one outside 7.9375 to 8.0625 ns; a tick adds
the INCREMENT in force, in units of 2^-32 ns, so that one unit is a 2^35th part of the nominal rate, and brings what is stored into force. -/
def Obligations.RateWritesAreLimited : Prop :=
  State.reset.fget TIM_RATE_INCREMENT = 0x8_0000_0000 ∧ 0x8_0000_0000 = 8 * 2 ^ 32 ∧ 8 * 2 ^ 32 = 2 ^ 35 ∧
  (∀ (src v : Nat) (s : State), reaches s src (TIM_RATE.addr 0 0 0 0) → s.fget TIM_STATUS_STATE ≠ 2 → v < 2 ^ 40 → ∃ t,
    exec (.timeRateWrite src v) s = .next t ∧ t.lastAccess = ⟨stOK, 0⟩ ∧ t.tim.watchStart = s.refTick ∧
    (v < 0x7_F000_0000 → t.fget TIM_RATE_INCREMENT = 0x7_F000_0000) ∧ (0x8_1000_0000 < v → t.fget TIM_RATE_INCREMENT = 0x8_1000_0000) ∧
    (0x7_F000_0000 ≤ v → v ≤ 0x8_1000_0000 → t.fget TIM_RATE_INCREMENT = v) ∧
    regsKept s t (loggedAnd [TIM_RATE.addr 0 0 0 0]) ∧ memKept s t nowhere) ∧
  (∀ (s : State), s.up = true → s.tim.pendingSet = none → s.tim.pendingStep = none → s.tim.ns < nsPerS →
    s.tim.frac < 2 ^ 32 → s.tim.sec + 1 < 2 ^ 48 → s.tick.tim.inc = s.fget TIM_RATE_INCREMENT ∧
    s.tick.tim.total * 2 ^ 32 + s.tick.tim.frac = s.tim.total * 2 ^ 32 + s.tim.frac + s.tim.inc)

/-- The time unit. SET and STEP wait for the end of the tick and then give the clock its value; KICK, STEP and LOCK start the watchdog; a read
latches the nanoseconds for its path alone; LOCK, HOLD, RELEASE and the watchdog are the only moves between their states; in HOLDOVER the time
is not written. A tick is the idle block's step: log entry 1, the model's choice. -/
def Obligations.TimeIsSetHeldAndRead : Prop :=
  (∀ s : State, s.pending = [] → ∃ t, step s = .next t ∧ t.refTick = s.refTick + 1 ∧ t.regs = s.regs ∧ t.mem = s.mem ∧
    t.pending = [] ∧ t.drover = s.drover ∧ t.cores = s.cores ∧ (s.up = false → t.tim = s.tim)) ∧
  (∀ (src ns : Nat) (s : State), reaches s src (TIM_SET_NS.addr 0 0 0 0) → ns < 2 ^ 30 →
    (s.fget TIM_STATUS_STATE ≠ 2 → ns < nsPerS → ∃ t, exec (.timeSet src ns) s = .next t ∧ t.tim.total = s.tim.total ∧
      t.tick.tim.sec = s.fget TIM_SET_S_SECONDS ∧ t.tick.tim.ns = ns ∧ t.tick.tim.frac = 0 ∧ t.tick.tim.pendingSet = none ∧
      regsKept s t busLogReg ∧ memKept s t nowhere) ∧
    (s.fget TIM_STATUS_STATE = 2 ∨ nsPerS ≤ ns → ∃ t, exec (.timeSet src ns) s = .next t ∧ t.tim = s.tim ∧
      t.lastAccess = ⟨stBusError, 0⟩ ∧ regsKept s t busLogReg ∧ memKept s t nowhere)) ∧
  (∀ (src v : Nat) (s : State), reaches s src (TIM_STEP.addr 0 0 0 0) →
    (s.fget TIM_STATUS_STATE ≠ 2 → ∃ t, exec (.timeStep src v) s = .next t ∧ t.tim.total = s.tim.total ∧ t.tim.watchStart = s.refTick ∧
      t.tick.tim.frac = s.tim.frac ∧ t.tick.tim.pendingStep = none ∧ regsKept s t busLogReg ∧ memKept s t nowhere ∧
      (0 ≤ (s.tim.total : Int) + sext 40 v → (s.tim.total : Int) + sext 40 v < (2 ^ 48 * nsPerS : Nat) →
        (t.tick.tim.total : Int) = s.tim.total + sext 40 v ∧ t.tick.tim.ns < nsPerS)) ∧
    (s.fget TIM_STATUS_STATE = 2 → ∃ t, exec (.timeStep src v) s = .next t ∧ t.tim = s.tim ∧ t.lastAccess = ⟨stBusError, 0⟩ ∧
      regsKept s t busLogReg ∧ memKept s t nowhere)) ∧
  (∀ (src : Nat) (s : State), reaches s src (TIM_KICK.addr 0 0 0 0) → ∃ t, exec (.timeKick src) s = .next t ∧
    t.tim = { s.tim with watchStart := s.refTick } ∧ regsKept s t busLogReg ∧ memKept s t nowhere) ∧
  (∀ (src : Nat) (s : State), reaches s src (TIM_NOW_S.addr 0 0 0 0) → ∃ t, exec (.timeNowRead src) s = .next t ∧
    t.lastAccess = ⟨stOK, s.tim.sec⟩ ∧ t.timeNowNs src = s.tim.ns + s.tim.frac / 2 ^ 16 * 2 ^ 32 ∧
    (∀ p, p ≠ src → t.timeNowNs p = s.timeNowNs p) ∧ regsKept s t nowhere ∧ memKept s t nowhere) ∧
  (∀ (src : Nat) (s : State), reaches s src (TIM_CTRL.addr 0 0 0 0) →
    (∃ t, exec (.timLock src) s = .next t ∧
      t.fget TIM_STATUS_STATE = (if s.fget TIM_STATUS_STATE = 0 then 1 else s.fget TIM_STATUS_STATE) ∧
      (s.fget TIM_STATUS_STATE = 0 → t.tim.watchStart = s.refTick) ∧
      t.fget TIM_CTRL_SYNC_TIMEOUT_MS = s.fget TIM_CTRL_SYNC_TIMEOUT_MS ∧
      regsKept s t (loggedAnd [TIM_CTRL.addr 0 0 0 0, TIM_STATUS.addr 0 0 0 0]) ∧ memKept s t nowhere) ∧
    (∃ t, exec (.timHold src) s = .next t ∧
      t.fget TIM_STATUS_STATE = (if s.fget TIM_STATUS_STATE = 1 then 2 else s.fget TIM_STATUS_STATE) ∧
      (s.fget TIM_STATUS_STATE = 1 → t.fbit TIM_STATUS_HOLDOVER = true ∧ t.fbit TIM_STATUS_HOLDOVER_SEEN = true ∧
        t.tim.holdStart = s.refTick) ∧
      regsKept s t (loggedAnd [TIM_CTRL.addr 0 0 0 0, TIM_STATUS.addr 0 0 0 0]) ∧ memKept s t nowhere) ∧
    (∃ t, exec (.timRelease src) s = .next t ∧
      t.fget TIM_STATUS_STATE = (if s.fget TIM_STATUS_STATE = 2 then 0 else s.fget TIM_STATUS_STATE) ∧
      (s.fget TIM_STATUS_STATE = 2 → t.fbit TIM_STATUS_HOLDOVER = false) ∧
      regsKept s t (loggedAnd [TIM_CTRL.addr 0 0 0 0, TIM_STATUS.addr 0 0 0 0]) ∧ memKept s t nowhere)) ∧
  (∀ (s : State), s.up = true → s.fget TIM_STATUS_STATE = 1 → s.fget TIM_CTRL_SYNC_TIMEOUT_MS ≠ 0 →
    s.elapsed s.tim.watchStart (msTicks (s.fget TIM_CTRL_SYNC_TIMEOUT_MS)) = true → ∃ t, exec .syncTimeout s = .next t ∧
    t.fget TIM_STATUS_STATE = 2 ∧ t.fbit TIM_STATUS_HOLDOVER = true ∧ t.fbit TIM_STATUS_HOLDOVER_SEEN = true ∧
    t.fget TIM_RATE_INCREMENT = s.fget TIM_RATE_INCREMENT ∧ regsKept s t (anyOf [TIM_STATUS.addr 0 0 0 0]) ∧ memKept s t nowhere)

/-- Triggers, control-cycle timers and captures. Arming starts a sequence at its first target, or is refused; a firing drives the output, records
its time, counts, and goes on to the next target, past those that a late firing skips; the last target disarms; disarming lets a pulse run out.
A timer's firing pushes its template and adds to its tally. An edge is stamped 16 ns back, and POP takes the oldest stamp. That arming is
refused in the fold is the model's choice (log entries 28 and 29). -/
def Obligations.TriggersTimersAndCapturesAct : Prop :=
  (∀ (src n v w : Nat) (s : State), n < 8 → n < s.tim.trigs.length → reaches s src (TIM_TRIGn_CFG.addr n 0 0 0) →
    s.fbit TIM_TRIGn_CFG_ARM n = false → w = v % 2 ^ 64 →
    (8 ≤ bits w 8 24 → (s.fget TIM_TRIGn_PERIOD_PERIOD_NS n = 0 ∨ pulseTicks (bits w 8 24) * 8 < s.fget TIM_TRIGn_PERIOD_PERIOD_NS n) →
      s.inRun = true → ∃ t, exec (.triggerArm src n v) s = .next t ∧ t.fbit TIM_TRIGn_CFG_ARM n = true ∧
        t.fget TIM_TRIGn_CFG_PULSE_NS n = bits w 8 24 ∧ t.fget TIM_TRIGn_CFG_COUNT n = bits w 32 32 ∧ (t.trig n).next = 0 ∧
        ((s.trig n).pulsing = false → (t.trig n).level = t.inactive n) ∧ regsKept s t (loggedAnd [TIM_TRIGn_CFG.addr n 0 0 0]) ∧
        memKept s t nowhere) ∧
    (bits w 8 24 < 8 ∨ (s.fget TIM_TRIGn_PERIOD_PERIOD_NS n ≠ 0 ∧
        s.fget TIM_TRIGn_PERIOD_PERIOD_NS n ≤ pulseTicks (bits w 8 24) * 8) →
      ∃ t, exec (.triggerArm src n v) s = .next t ∧ t.fbit TIM_TRIGn_CFG_ARM n = false ∧ t.lastAccess = ⟨stBusError, 0⟩ ∧
        t.tim = s.tim ∧ regsKept s t busLogReg ∧ memKept s t nowhere)) ∧
  (∀ (src n : Nat) (s : State), n < 8 → n < s.tim.trigs.length → reaches s src (TIM_TRIGn_CFG.addr n 0 0 0) → ∃ t,
    exec (.triggerDisarm src n (s.rword TIM_TRIGn_CFG n).toNat) s = .next t ∧ t.fbit TIM_TRIGn_CFG_ARM n = false ∧
    t.fget TIM_TRIGn_CFG_PULSE_NS n = s.fget TIM_TRIGn_CFG_PULSE_NS n ∧
    ((s.trig n).pulsing = true → t.trig n = s.trig n) ∧ regsKept s t (loggedAnd [TIM_TRIGn_CFG.addr n 0 0 0]) ∧ memKept s t nowhere) ∧
  (∀ (n k : Nat) (g : Targets) (s : State), n < 8 → n < s.tim.trigs.length → s.up = true → s.fbit TIM_TRIGn_CFG_ARM n = true →
    k = (s.trig n).next → g = s.trigTargets n → g.has k = true → g.at k ≤ s.tim.total → (s.trig n).fired ≠ s.refTick + 1 →
    s.tim.sec < 2 ^ 48 → s.tim.ns < nsPerS → ∃ t, exec (.triggerFire n) s = .next t ∧ (t.trig n).pulsing = true ∧
    (t.trig n).pulseLeft = (s.fget TIM_TRIGn_CFG_PULSE_NS n + 7) / 8 ∧ (t.trig n).level = s.fbit TIM_TRIGn_CFG_ACTIVE_HIGH n ∧
    t.fget TIM_TRIGn_LAST_S_SECONDS n = s.tim.sec ∧ t.fget TIM_TRIGn_LAST_NS_NS n = s.tim.ns ∧
    t.fget TIM_TRIGn_STATUS_FIRED n = (s.fget TIM_TRIGn_STATUS_FIRED n + 1) % 2 ^ 32 ∧ k < (t.trig n).next ∧
    (s.targetLate g k = false → (t.trig n).next = k + 1 ∧ t.fget TIM_TRIGn_STATUS_LATE n = s.fget TIM_TRIGn_STATUS_LATE n ∧
      t.fget TIM_TRIGn_STATUS_SKIPPED n = s.fget TIM_TRIGn_STATUS_SKIPPED n) ∧
    (s.targetLate g k = true → t.fbit TIM_STATUS_LATE_SEEN = true ∧
      t.fget TIM_TRIGn_STATUS_LATE n = (s.fget TIM_TRIGn_STATUS_LATE n + 1) % 2 ^ 16 ∧
      t.fget TIM_TRIGn_STATUS_SKIPPED n = (s.fget TIM_TRIGn_STATUS_SKIPPED n + ((t.trig n).next - (k + 1))) % 2 ^ 16 ∧
      (g.period ≠ 0 → g.has (t.trig n).next = true → s.tim.total < g.at (t.trig n).next)) ∧
    t.fbit TIM_TRIGn_CFG_ARM n = g.has (t.trig n).next ∧
    regsKept s t (anyOf [TIM_TRIGn_CFG.addr n 0 0 0, TIM_TRIGn_STATUS.addr n 0 0 0, TIM_TRIGn_LAST_S.addr n 0 0 0,
      TIM_TRIGn_LAST_NS.addr n 0 0 0, TIM_STATUS.addr 0 0 0 0]) ∧ memKept s t nowhere) ∧
  (∀ (n : Nat) (s : State), n < 8 → n < s.tim.trigs.length → s.up = true → (s.trig n).pulsing = true → (s.trig n).pulseLeft = 0 →
    (s.trig n).safe = false → ∃ t, exec (.triggerPulseEnd n) s = .next t ∧ (t.trig n).pulsing = false ∧
    (t.trig n).level = !s.fbit TIM_TRIGn_CFG_ACTIVE_HIGH n ∧ regsKept s t nowhere ∧ memKept s t nowhere) ∧
  (∀ (src k v w : Nat) (s : State), k < 16 → k < s.tim.timerNext.length → reaches s src (TIM_CTk_CFG.addr k 0 0 0) →
    s.fbit TIM_CTk_CFG_ARM k = false → w = v % 2 ^ 64 → s.inRun = true → ∃ t, exec (.controlTimerArm src k v) s = .next t ∧
    t.fbit TIM_CTk_CFG_ARM k = true ∧ t.fget TIM_CTk_CFG_PUSH_EN k = bits w 1 1 ∧ t.fget TIM_CTk_CFG_TALLY_EN k = bits w 2 1 ∧
    t.fget TIM_CTk_CFG_TALLY k = bits w 3 15 ∧ t.fget TIM_CTk_CFG_QUEUE k = bits w 32 16 ∧ t.tim.timerNext.getD k 0 = 0 ∧
    regsKept s t (loggedAnd [TIM_CTk_CFG.addr k 0 0 0]) ∧ memKept s t nowhere) ∧
  (∀ (k j q : Nat) (g : Targets) (s : State), k < 16 → k < s.tim.timerNext.length → s.up = true → s.Sound →
    s.fbit TIM_CTk_CFG_ARM k = true → j = s.tim.timerNext.getD k 0 → g = s.timerTargets k → g.has j = true → g.at j ≤ s.tim.total →
    s.tim.timerFired.getD k 0 ≠ s.refTick + 1 → q = s.fget TIM_CTk_CFG_QUEUE k →
    (s.fbit TIM_CTk_CFG_PUSH_EN k = false → ∃ t, exec (.controlTimerFire k) s = .next t ∧
      t.fget TIM_CTk_STATUS_FIRED k = (s.fget TIM_CTk_STATUS_FIRED k + 1) % 2 ^ 32 ∧ j < t.tim.timerNext.getD k 0 ∧
      (∀ n, n < 65536 → t.tally n = (if s.fbit TIM_CTk_CFG_TALLY_EN k = true ∧ n = s.fget TIM_CTk_CFG_TALLY k then (s.tally n + 1) % 2 ^ 32
        else s.tally n)) ∧ memKept s t nowhere) ∧
    (s.fbit TIM_CTk_CFG_PUSH_EN k = true → s.pushRefused q 0 1 = true → (s.chargeTx timerClass 1).heldTx timerClass = 0 → ∃ t,
      exec (.controlTimerFire k) s = .next t ∧ t.fget TIM_CTk_STATUS_FIRED k = (s.fget TIM_CTk_STATUS_FIRED k + 1) % 2 ^ 32 ∧
      t.fget TIM_CTk_STATUS_REFUSED k = (s.fget TIM_CTk_STATUS_REFUSED k + 1) % 2 ^ 16 ∧ t.fbit TIM_STATUS_TIMER_MISS_SEEN = true ∧
      memKept s t nowhere) ∧
    (s.fbit TIM_CTk_CFG_PUSH_EN k = true → s.pushRefused q 0 1 = false → s.inRun = true →
      (s.chargeTx timerClass 1).heldTx timerClass = 0 → ∃ t a, exec (.controlTimerFire k) s = .next t ∧
      a = s.qBase q + 64 * (s.qTail q % s.qSize q) ∧ t.readBytes a 64 = leBytes 64 (s.timerDesc k) ∧ t.qTail q = (s.qTail q + 1) % 2 ^ 32 ∧
      t.fget TIM_CTk_STATUS_FIRED k = (s.fget TIM_CTk_STATUS_FIRED k + 1) % 2 ^ 32 ∧ memKept s t (bytesAt a 64))) ∧
  (∀ (n : Nat) (rising : Bool) (u : Tim) (s : State), n < 4 → n < s.tim.caps.length → s.up = true → s.fbit TIM_CAPn_CFG_ENABLE n = true →
    bitAt (s.fget TIM_CAPn_CFG_EDGE n) (if rising then 0 else 1) = true → u = s.tim.stepBy (-16) →
    ((s.capFifo n).length < 16 → ∃ t, exec (.captureEdge n rising) s = .next t ∧
      t.capFifo n = s.capFifo n ++ [⟨u.sec, u.ns, rising⟩] ∧ t.fget TIM_CAPn_STATUS_FILL n = (s.capFifo n).length + 1 ∧
      (s.fbit TIM_CAPn_CFG_TALLY_EN n = true → t.tally (s.fget TIM_CAPn_CFG_TALLY n) = (s.tally (s.fget TIM_CAPn_CFG_TALLY n) + 1) % 2 ^ 32) ∧
      memKept s t nowhere) ∧
    (16 ≤ (s.capFifo n).length → ∃ t, exec (.captureEdge n rising) s = .next t ∧ t.capFifo n = s.capFifo n ∧
      t.fget TIM_CAPn_STATUS_LOST n = (s.fget TIM_CAPn_STATUS_LOST n + 1) % 2 ^ 16 ∧ t.fbit TIM_CAPn_STATUS_OVF_SEEN n = true ∧
      regsKept s t (anyOf [TIM_CAPn_STATUS.addr n 0 0 0]) ∧ memKept s t nowhere)) ∧
  (∀ (src n : Nat) (s : State), n < 4 → n < s.tim.caps.length → reaches s src (TIM_CAPn_POP_S.addr n 0 0 0) →
    (∀ e l, s.capFifo n = e :: l → l.length < 32 → e.ns < 2 ^ 30 → ∃ t, exec (.capturePop src n) s = .next t ∧
      t.lastAccess = ⟨stOK, e.sec + b2n e.rising * 2 ^ 48 + 2 ^ 49⟩ ∧ t.fget TIM_CAPn_POP_NS_NS n = e.ns ∧ t.capFifo n = l ∧
      t.fget TIM_CAPn_STATUS_FILL n = l.length ∧
      regsKept s t (anyOf [TIM_CAPn_STATUS.addr n 0 0 0, TIM_CAPn_POP_NS.addr n 0 0 0]) ∧ memKept s t nowhere) ∧
    (s.capFifo n = [] → ∃ t, exec (.capturePop src n) s = .next t ∧ t.lastAccess = ⟨stOK, 0⟩ ∧ regsKept s t nowhere ∧ memKept s t nowhere))

/-- The CPB. POWER_SAMPLE adds volts times amperes; CONTROL_INTERVAL_END records the mean, the energy and the estimates and asks for each core's
step of the next interval, fixed or as R415 chooses it, and learns a phase; levels move by one; THERMAL_SAMPLE finds the hottest sensor and acts
on it; the writes of mode, cap and phase are stored or refused.
Where the spec leaves a point open the model's choice stands: log entries 62, 63 and 64. -/
def Obligations.PowerIsMeasuredAndLimited : Prop :=
  (∀ (rails : List RailSample) (s : State), s.up = true → s.elapsed s.pwr.sampled (usTicks 1) = true → ∃ t,
    exec (.powerSample rails) s = .next t ∧ regsKept s t nowhere ∧ memKept s t nowhere ∧
    t.pwr = { s.pwr with samples := s.pwr.samples + 1, sum := s.pwr.sum + (rails.map (fun r => r.mv * r.ma)).sum, sampled := s.refTick }) ∧
  (∀ (est : List Nat) (mw uncore : Nat) (s : State), s.up = true → s.pwr.start + usTicks 100 ≤ s.clk.periodStart →
    s.clk.pendingStep.length = 8 → mw = (divRound s.pwr.sum (1000 * max s.pwr.samples 1)).toNat → mw < 2 ^ 18 →
    (est.map (· % 65536)).sum + uncore = mw → ∃ t d, exec (.controlIntervalEnd est) s = .next t ∧ d.length = 8 ∧
    (∀ c, c < 8 → t.fget PWR_CORE_c_DEMAND_MW c = d.getD c 0) ∧ (s.fbit PWR_CTRL_LEARN_EN = false → d = (List.range 8).map s.demand) ∧
    t.fget PWR_MEAS_MEAS_MW = mw ∧ t.fget PWR_MEAS_UNCORE_MW = uncore ∧
    t.fget PWR_ENERGY_UJ_ENERGY_UJ = (s.fget PWR_ENERGY_UJ_ENERGY_UJ + (s.pwr.rest + mw) / 10) % 2 ^ 64 ∧
    t.fget PWR_INTERVALS_COUNT = (s.fget PWR_INTERVALS_COUNT + 1) % 2 ^ 64 ∧
    (∀ c, c < 8 → t.fget PWR_CORE_c_EST_MW c = est.getD c 0 % 65536) ∧ t.pwr.samples = 0 ∧ t.pwr.sum = 0 ∧
    t.pwr.start = s.pwr.start + usTicks 100 ∧
    (s.inRun = false → ∀ c, c < 8 → t.clk.pendingStep.getD c none = some 3) ∧
    (s.inRun = true → s.fbit PWR_CTRL_MODE = true → ∀ c, c < 8 →
      t.clk.pendingStep.getD c none = some (s.fget PWR_CTRL_FIXED_STEP)) ∧
    (s.inRun = true → s.fbit PWR_CTRL_MODE = false → ∀ c, c < 8 → t.clk.pendingStep.getD c none =
      some ((chooseSteps d ((s.capEff : Int) - s.fget PWR_MARGIN_MARGIN_MW - uncore) 24 (List.replicate 8 0)).getD c 0)) ∧
    (180_000 < mw → t.fbit PWR_STATUS_ABS_LIMIT_SEEN = true ∧ ⟨0x031, clsF, none, 0, none, false⟩ ∈ t.fcu.reports) ∧
    memKept s t nowhere) ∧
  (∀ (est : List Nat) (c p v : Nat) (k : Caravan) (s : State), c < 8 → s.up = true → s.pwr.start + usTicks 100 ≤ s.clk.periodStart →
    s.pwr.cores.length = 8 → s.fbit PWR_CTRL_LEARN_EN = true → s.occupant c = some k → k.placedAt ≤ s.pwr.start →
    (∀ x, x < 8 → x ≠ c → s.occupant x = none) → (s.pwr.cores.getD c PwrCore.empty).held = [] →
    (s.pwr.cores.getD c PwrCore.empty).since < s.arrNow c → p = s.fget PWR_CORE_c_PHASE c → p ∉ s.pwr.written →
    s.intervalCycles c ≤ 2 * ((s.pwr.cores.getD c PwrCore.empty).busy).foldl max 0 → s.fbit PWR_PHASE_p_VALID p = false →
    v = (divRound (est.getD c 0 % 65536 * stepDiv (s.coreStep c) : Nat) 4).toNat → v < 2 ^ 16 → ∃ t, exec (.controlIntervalEnd est) s = .next t ∧ t.fbit PWR_PHASE_p_VALID p = true ∧
    t.fget PWR_PHASE_p_E_MW p = v ∧
    t.fget PWR_PHASE_p_UPDATES p = (s.fget PWR_PHASE_p_UPDATES p + 1) % 2 ^ 32) ∧
  (∀ (n c a : Nat) (s : State), n < 16 → c = n / 2 → a = n % 2 → s.up = true → s.arrayPresent c a = true → s.level c a ≤ 4 →
    s.level c a ≠ s.levelTarget c a → (s.coreAt c).levelTick.getD a 0 + 64 ≤ s.arrNow c → ∃ t,
    exec (.activityLevelChange n) s = .next t ∧ memKept s t nowhere ∧
    t.level c a = (if s.level c a < s.levelTarget c a then s.level c a + 1 else s.level c a - 1) ∧
    (∀ x b, x < 8 → b < 2 → (x, b) ≠ (c, a) → t.level x b = s.level x b) ∧
    regsKept s t (anyOf [PWR_RAMP_LEVEL.addr 0 0 0 0, PWR_RAMP_c.addr c 0 0 0])) ∧
  (∀ (v : Nat → Int) (m : Int) (w : Nat) (s : State), s.up = true → s.elapsed s.pwr.thermal (usTicks 10) = true →
    (∀ i, i < 16 → -40_000 ≤ v i ∧ v i ≤ 150_000 ∧ s.fbit PWR_TEMP_s_BAD i = false ∧ v i ≤ m) → (∃ i, i < 16 ∧ v i = m) →
    w = s.fget PWR_THERM_CTRL_WARN_MC → ∃ t, exec (.thermalSample ((List.range 16).map (fun i => some (v i)))) s = .next t ∧
    (∀ i, i < 16 → sext 20 (t.fget PWR_TEMP_s_TEMP_MC i) = v i ∧ t.fbit PWR_TEMP_s_BAD i = false) ∧
    sext 20 (t.fget PWR_TEMP_MAX_MAX_MC) = m ∧ v (t.fget PWR_TEMP_MAX_SENSOR) = m ∧
    sext 20 (t.fget PWR_TEMP_PEAK_PEAK_MC) = max (sext 20 (s.fget PWR_TEMP_PEAK_PEAK_MC)) m ∧
    t.pwr.reached = (List.range 8).map (fun i => decide ((s.fget PWR_THERM_CURVEi_T_MC i : Int) ≤ m) ||
      (s.pwr.reached.getD i false && decide ((s.fget PWR_THERM_CURVEi_T_MC i : Int) - 2000 ≤ m))) ∧
    ((w : Int) ≤ m → t.fbit PWR_STATUS_THERM_WARN = true) ∧ (m < (w : Int) - 5000 → t.fbit PWR_STATUS_THERM_WARN = false) ∧
    ((w : Int) - 5000 ≤ m → m < w → t.fbit PWR_STATUS_THERM_WARN = s.fbit PWR_STATUS_THERM_WARN) ∧
    (m < 125_000 → m < s.fget PWR_THERM_CTRL_CRIT_MC → t.pwr.crit = 0 ∧ t.fcu.reports = s.fcu.reports) ∧
    (125_000 ≤ m → sext 20 (s.fget PWR_TEMP_MAX_MAX_MC) < 125_000 → t.fcu.reports = s.fcu.reports ++ [⟨0x033, clsF, none, 0, none, false⟩]) ∧
    memKept s t nowhere) ∧
  (∀ (l : List (Option Int)) (i : Nat) (s : State), i < 16 → s.up = true → s.elapsed s.pwr.thermal (usTicks 10) = true →
    s.fbit PWR_TEMP_s_BAD i = false → (l.getD i none).elim True (fun v => v < -40_000 ∨ 150_000 < v) → ∃ t,
    exec (.thermalSample l) s = .next t ∧ t.fbit PWR_TEMP_s_BAD i = true ∧ t.fbit PWR_STATUS_SENSOR_BAD_SEEN = true ∧
    ⟨0x032, clsC, none, 0, none, false⟩ ∈ t.fcu.reports ∧ memKept s t nowhere) ∧
  (∀ (src v w : Nat) (s : State), reaches s src (PWR_CTRL.addr 0 0 0 0) → w = v % 2 ^ 32 →
    (bits w 0 1 = 0 ∨ s.fixedMw (bits w 1 2) ≤ s.fget PWR_CAP_CAP_MW → ∃ t, exec (.powerModeWrite src v) s = .next t ∧
      t.fget PWR_CTRL_MODE = bits w 0 1 ∧ t.fget PWR_CTRL_FIXED_STEP = bits w 1 2 ∧ t.fget PWR_CTRL_LEARN_SHIFT = bits w 8 3 ∧
      t.fget PWR_CTRL_LEARN_EN = bits w 11 1 ∧ regsKept s t (loggedAnd [PWR_CTRL.addr 0 0 0 0]) ∧ memKept s t nowhere) ∧
    (bits w 0 1 = 1 → s.fget PWR_CAP_CAP_MW < s.fixedMw (bits w 1 2) →
      (s.fbit PWR_CTRL_MODE = false ∨ bits w 1 2 ≠ s.fget PWR_CTRL_FIXED_STEP) → ∃ t, exec (.powerModeWrite src v) s = .next t ∧
      t.lastAccess = ⟨stBusError, 0⟩ ∧ regsKept s t busLogReg ∧ memKept s t nowhere)) ∧
  (∀ (src v w : Nat) (s : State), reaches s src (PWR_CAP.addr 0 0 0 0) → w = v % 2 ^ 18 →
    (s.fbit PWR_CTRL_MODE = false ∨ s.fixedMw (s.fget PWR_CTRL_FIXED_STEP) ≤ w → ∃ t, exec (.powerCapWrite src v) s = .next t ∧
      t.fget PWR_CAP_CAP_MW = max 40_000 (min 180_000 w) ∧ t.fcu = s.fcu ∧ regsKept s t (loggedAnd [PWR_CAP.addr 0 0 0 0]) ∧
      memKept s t nowhere) ∧
    (s.fbit PWR_CTRL_MODE = true → w < s.fixedMw (s.fget PWR_CTRL_FIXED_STEP) → ∃ t, exec (.powerCapWrite src v) s = .next t ∧
      t.lastAccess = ⟨stBusError, 0⟩ ∧ regsKept s t busLogReg ∧ memKept s t nowhere)) ∧
  (∀ (src p v w : Nat) (s : State), p < 256 → reaches s src (PWR_PHASE_p.addr p 0 0 0) → w = v % 2 ^ 64 → ∃ t,
    exec (.phaseWrite src p v) s = .next t ∧ t.fget PWR_PHASE_p_E_MW p = bits w 0 16 ∧ t.fget PWR_PHASE_p_VALID p = bits w 16 1 ∧
    t.fget PWR_PHASE_p_UPDATES p = s.fget PWR_PHASE_p_UPDATES p ∧ p ∈ t.pwr.written ∧
    regsKept s t (loggedAnd [PWR_PHASE_p.addr p 0 0 0]) ∧ memKept s t nowhere)

/-- Faults reported to a part in RUN. A report counts by source and class, and is logged; class U has the source's reaction, of which core
recovery puts the core into its fault state; class F folds the part: FAULT_N, every trigger at its SAFE level and disarmed, every core to step
3, a quiet period. A wire fault breaks its pair, which is ignored from then on. FORCE, INJECT and WIRE_TEST make what the FCU then takes.
Where the spec leaves a point open the model's choice stands: log entries 65 and 66. -/
def Obligations.FaultsAreTakenAndFold : Prop :=
  (∀ (id cls i : Nat) (s : State), srcRaises id cls = true → s.clk.inReset = false → s.pairBroken id cls = false → s.inRun = true →
    s.fget FCU_CORE_STATE_STATE = 0 → s.fbit FCU_CTRL_TEST = false → i = s.fget FCU_LOG_NEXT_INDEX →
    (cls = clsC → s.fbit FCU_CTRL_LOG_C = false → s.fcu.reports.find? (fun r => r.source == id && r.cls == cls) = none → ∃ t,
      exec (.faultReport id cls) s = .next t ∧ t.fget FCU_SRC_id_COUNT_C id = (s.fget FCU_SRC_id_COUNT_C id + 1) % 2 ^ 16 ∧
      t.fget FCU_COUNT_C_COUNT = (s.fget FCU_COUNT_C_COUNT + 1) % 2 ^ 32 ∧ t.fcu.reports = s.fcu.reports ∧ t.drover = s.drover ∧
      t.inRun = true ∧ regsKept (s.memoryError id clsC) t (anyOf [FCU_SRC_id.addr id 0 0 0, FCU_COUNT_C.addr 0 0 0 0,
        SYS_IRQ_PENDING.addr 0 0 0 0]) ∧ memKept s t nowhere) ∧
    (∀ r, cls = clsC → s.fcu.reports.find? (fun r => r.source == id && r.cls == cls) = some r → ∃ t,
      exec (.faultReport id cls) s = .next t ∧ t.fcu.reports = s.fcu.reports.erase r ∧
      t.fget FCU_SRC_id_COUNT_C id = (s.fget FCU_SRC_id_COUNT_C id + 1) % 2 ^ 16 ∧ t.inRun = true ∧ memKept s t nowhere) ∧
    (cls = clsU → s.fget FCU_REACT_id_U_ACT id ≤ actReset → s.fcu.reports.find? (fun r => r.source == id && r.cls == cls) = none → ∃ t w,
      exec (.faultReport id cls) s = .next t ∧ t.fget FCU_SRC_id_COUNT_U id = (s.fget FCU_SRC_id_COUNT_U id + 1) % 2 ^ 16 ∧
      t.fget FCU_COUNT_U_COUNT = (s.fget FCU_COUNT_U_COUNT + 1) % 2 ^ 32 ∧ t.fget FCU_LOG_NEXT_INDEX = (i + 1) % 2 ^ 32 ∧
      w = (t.rword FCU_LOG_e_Ww (i % 256) 0).toNat ∧ bits w 0 16 = id ∧ bits w 16 2 = clsU ∧ bits w 18 2 = clsU ∧
      (s.fbit FCU_REACT_id_IRQ_U id = true → t.fbit SYS_IRQ_PENDING_FAULT = true) ∧ t.drover = (s.memoryError id clsU).drover ∧
      t.inRun = true ∧ memKept (s.memoryError id clsU) t nowhere) ∧
    (∀ c, c < 8 → cls = clsU → s.fget FCU_REACT_id_U_ACT id = actCoreRecover → srcCore id = some c → s.flushable (some c) = [] →
      s.fcu.cores.length = 8 → s.fcu.reports.find? (fun r => r.source == id && r.cls == cls) = none → ∃ t,
      exec (.faultReport id cls) s = .next t ∧ t.coreState c = 1 ∧ (t.coreScope c).source = id ∧
      (t.coreScope c).quietEnd = s.refTick + msTicks (s.fget FCU_CTRL_QUIET_MS) ∧ t.inRun = true ∧
      (∀ x, x < 8 → x ≠ c → t.coreState x = 0) ∧ memKept s t nowhere) ∧
    (cls = clsF → s.clk.pendingStep.length = 8 → s.tim.trigs.length = 8 → s.fbit FCU_INJECT_ARM = false → ∃ t,
      exec (.faultReport id cls) s = .next t ∧ t.pins.faultN = true ∧ t.fget FCU_STATUS_STATE = 1 ∧ t.fbit FCU_STATUS_FOLD_SEEN = true ∧
      t.fget FCU_FOLDS_COUNT = (s.fget FCU_FOLDS_COUNT + 1) % 2 ^ 32 ∧ t.fget FCU_FOLD_CAUSE_SOURCE = id ∧
      t.fget FCU_FOLD_CAUSE_CLASS_REPORTED = clsF ∧ t.fget FCU_FOLD_CAUSE_LOG_INDEX = i ∧ t.fget FCU_LOG_NEXT_INDEX = (i + 1) % 2 ^ 32 ∧
      t.fcu.part.source = id ∧ t.fcu.part.quietEnd = s.refTick + msTicks (s.fget FCU_CTRL_QUIET_MS) ∧ t.crc.clean = false ∧
      (∀ c, c < 8 → t.clk.pendingStep.getD c none = some 3) ∧
      (∀ n, n < 8 → t.fbit TIM_TRIGn_CFG_ARM n = false ∧ (t.trig n).level = s.fbit TIM_TRIGn_CFG_SAFE_HIGH n ∧
        (t.trig n).pulsing = false) ∧ (∀ k, k < 16 → t.fbit TIM_CTk_CFG_ARM k = false))) ∧
  (∀ (id pair level : Nat) (s : State), srcRaises id pair = true → level < 2 → s.clk.inReset = false → s.inRun = true →
    s.fget FCU_CORE_STATE_STATE = 0 → (id, (pair, level)) ∉ s.fcu.wireTests →
    (s.pairBroken id pair = false → s.fget FCU_REACT_id_U_ACT id ≤ actReset →
      (pair = clsF → s.fbit FCU_REACT_id_WIRE_F_FOLD id = false) → ∃ t, exec (.wireFault id pair level) s = .next t ∧
      t.pairBroken id pair = true ∧ t.fget FCU_SRC_id_COUNT_WIRE id = (s.fget FCU_SRC_id_COUNT_WIRE id + 1) % 2 ^ 8 ∧
      t.fbit FCU_STATUS_WIRE_SEEN = true ∧ t.fget FCU_LOG_NEXT_INDEX = (s.fget FCU_LOG_NEXT_INDEX + 1) % 2 ^ 32 ∧
      t.drover = s.drover ∧ t.inRun = true ∧ memKept s t nowhere) ∧
    (s.pairBroken id pair = true → exec (.wireFault id pair level) s = .next s)) ∧
  (∀ (id k : Nat) (s : State), srcRaises id clsC = true → (srcInfo id).elim false (·.level) = true → s.clk.inReset = false →
    s.levelPersists id clsC = true → AMap.get? s.fcu.levelAt (id * 4 + clsC) = some k → s.elapsed k (msTicks 1) = true →
    s.pairBroken id clsC = false → s.inRun = true → s.fget FCU_CORE_STATE_STATE = 0 → s.fbit FCU_CTRL_TEST = false → ∃ t,
    exec (.levelFaultRereport id clsC) s = .next t ∧ t.fget FCU_SRC_id_COUNT_C id = (s.fget FCU_SRC_id_COUNT_C id + 1) % 2 ^ 16 ∧
    AMap.get? t.fcu.levelAt (id * 4 + clsC) = some s.refTick ∧ t.drover = s.drover ∧ memKept s t nowhere) ∧
  (∀ (src id cls : Nat) (s : State), id < 4096 → reaches s src (FCU_SRC_id.addr id 0 0 0) → cls < 4 →
    (srcRaises id cls = true → ∃ t, exec (.faultForce src id cls) s = .next t ∧ t.lastAccess = ⟨stOK, 0⟩ ∧
      t.fcu.reports = s.fcu.reports ++ [⟨id, cls, none, 0, none, true⟩] ∧ regsKept s t busLogReg ∧ memKept s t nowhere) ∧
    (srcInfo id = none ∨ (cls ≠ 0 ∧ srcRaises id cls = false) → ∃ t, exec (.faultForce src id cls) s = .next t ∧ t.fcu = s.fcu ∧
      t.lastAccess = ⟨stBusError, 0⟩ ∧ regsKept s t busLogReg ∧ memKept s t nowhere)) ∧
  (∀ (src v w : Nat) (s : State), reaches s src (FCU_INJECT.addr 0 0 0 0) → w = v % 2 ^ 32 →
    (bits w 14 1 = 0 ∨ srcHasCheckBits (bits w 0 12) = true → ∃ t, exec (.faultInjectArm src v) s = .next t ∧
      t.fget FCU_INJECT_ARM = bits w 14 1 ∧ t.fget FCU_INJECT_SOURCE = bits w 0 12 ∧ t.fget FCU_INJECT_FLIPS = bits w 12 2 ∧
      regsKept s t (loggedAnd [FCU_INJECT.addr 0 0 0 0]) ∧ memKept s t nowhere) ∧
    (bits w 14 1 = 1 → srcHasCheckBits (bits w 0 12) = false → ∃ t, exec (.faultInjectArm src v) s = .next t ∧
      t.lastAccess = ⟨stBusError, 0⟩ ∧ regsKept s t busLogReg ∧ memKept s t nowhere)) ∧
  (∀ (src v w : Nat) (s : State), reaches s src (FCU_WIRE_TEST.addr 0 0 0 0) → w = v % 2 ^ 32 → bits w 15 1 = 1 →
    (srcRaises (bits w 0 12) (bits w 12 2) = true → ∃ t, exec (.wireTest src v) s = .next t ∧ regsKept s t busLogReg ∧
      t.fcu = { s.fcu with wireTests := s.fcu.wireTests ++ [(bits w 0 12, (bits w 12 2, bits w 14 1))] } ∧ memKept s t nowhere) ∧
    (srcRaises (bits w 0 12) (bits w 12 2) = false → ∃ t, exec (.wireTest src v) s = .next t ∧ t.fcu = s.fcu ∧
      t.lastAccess = ⟨stBusError, 0⟩ ∧ regsKept s t busLogReg ∧ memKept s t nowhere))

/-- Recovery. A quiet period that passes begins a recovery, or latches the scope at the fourth within 60 s; a part's recovery runs its phases in
order and ends in RUN with FAULT_N released; a core's runs three and ends with its scratchpads zero and no model resident; a latch cleared by
software begins a new quiet period with its history gone.
Where the spec leaves a point open the model's choice stands: log entry 66. -/
def Obligations.RecoveriesRunAndLatch : Prop :=
  (∀ (core : Option Nat) (x : FaultScope) (s : State), core.elim True (· < 8) → s.fcu.cores.length = 8 → s.clk.inReset = false →
    x = s.scope core → s.scopeState core = 1 → x.quietEnd ≤ s.refTick →
    ((x.begun.filter (fun k => decide (s.refTick < k + 7_500_000_000))).length < 3 → ∃ t, exec (.quietPeriodExpiry core) s = .next t ∧
      t.scopeState core = 2 ∧ (t.scope core).phase = (if core.isSome then 2 else 1) ∧ (t.scope core).seqStart = s.refTick ∧
      (t.scope core).begun.head? = some s.refTick ∧
      regsKept s t (anyOf [FCU_STATUS.addr 0 0 0 0, FCU_CORE_STATE.addr 0 0 0 0]) ∧ memKept s t nowhere) ∧
    (3 ≤ (x.begun.filter (fun k => decide (s.refTick < k + 7_500_000_000))).length → ∃ t, exec (.quietPeriodExpiry core) s = .next t ∧
      t.scopeState core = 3 ∧ t.fbit FCU_STATUS_LATCH_SEEN = true ∧ bitAt t.cmb.alert 1 = true ∧
      regsKept s t (anyOf [FCU_STATUS.addr 0 0 0 0, FCU_CORE_STATE.addr 0 0 0 0]) ∧ memKept s t nowhere)) ∧
  (∀ (p : Nat) (failed : List Nat) (s : State), s.up = true → s.fget FCU_STATUS_STATE = 2 → p = s.fcu.part.phase →
    (p = 1 ∨ p = 2 ∨ p = 3 ∨ p = 4 ∨ p = 6 ∨ (p = 5 ∧ failed = []) → ∃ t, exec (.recoveryPhaseComplete none failed) s = .next t ∧
      t.fcu.part.phase = p + 1 ∧ t.fget FCU_STATUS_STATE = 2 ∧
      (p = 2 → ∀ id, id < 4096 → t.fget FCU_SRC_id_WIRE id = 0) ∧
      (p = 3 → ∀ l, l < 3 → t.fbit D2D_Ln_STATUS_UP l = true)) ∧
    (p = 5 → (∃ e ∈ failed, 8 ≤ e) → ∃ t, exec (.recoveryPhaseComplete none failed) s = .next t ∧ t.fget FCU_STATUS_STATE = 3 ∧
      t.fbit FCU_STATUS_SELFTEST_FAIL_SEEN = true ∧ t.fbit FCU_STATUS_LATCH_SEEN = true) ∧
    (p = 7 → ∃ t, exec (.recoveryPhaseComplete none failed) s = .next t ∧ t.fget FCU_STATUS_STATE = 0 ∧ t.pins.faultN = false ∧
      t.fcu.part.phase = 0 ∧ t.fget FCU_RECOVERIES_COUNT = (s.fget FCU_RECOVERIES_COUNT + 1) % 2 ^ 32 ∧
      t.fget FCU_RECOVERY_LAST_SEQUENCE_US = (s.refTick - s.fcu.part.seqStart) / 125 % 2 ^ 32)) ∧
  (∀ (c : Nat) (failed : List Nat) (s : State), c < 8 → s.fcu.cores.length = 8 → s.cores.length = 8 → s.Sound → s.up = true →
    s.coreState c = 2 →
    ((s.coreScope c).phase = 2 → ∃ t, exec (.recoveryPhaseComplete (some c) failed) s = .next t ∧ (t.coreScope c).phase = 5 ∧
      t.coreState c = 2 ∧ regsKept s t nowhere ∧ memKept s t nowhere) ∧
    ((s.coreScope c).phase = 5 → failed = [] → ∃ t, exec (.recoveryPhaseComplete (some c) failed) s = .next t ∧
      (t.coreScope c).phase = 6 ∧ t.coreState c = 2 ∧ regsKept s t nowhere ∧ memKept s t nowhere) ∧
    ((s.coreScope c).phase = 5 → failed ≠ [] → ∃ t, exec (.recoveryPhaseComplete (some c) failed) s = .next t ∧ t.coreState c = 3 ∧
      t.fbit FCU_STATUS_SELFTEST_FAIL_SEEN = true ∧ memKept s t nowhere) ∧
    ((s.coreScope c).phase = 6 → ∃ t, exec (.recoveryPhaseComplete (some c) failed) s = .next t ∧ t.coreState c = 0 ∧
      (t.coreAt c).resident = none ∧ (t.coreAt c).group = none ∧ t.level c 0 = 0 ∧ t.level c 1 = 0 ∧
      (∀ sp, sp = spWSP ∨ sp = spASP ∨ sp = spPSP → ∀ a, rowAddr c sp 0 ≤ a → a < rowAddr c sp (s.spRowCount c sp) →
        t.readByte a = 0 ∧ t.poisoned a = false))) ∧
  (∀ (src v w : Nat) (s : State), reaches s src (FCU_CTRL.addr 0 0 0 0) → w = v % 2 ^ 32 → bits w 1 1 = 1 →
    s.fget FCU_STATUS_STATE = 3 → ∃ t, exec (.fcuClearLatch src v) s = .next t ∧ t.fget FCU_STATUS_STATE = 1 ∧ t.fcu.part.begun = [] ∧
    t.fget FCU_CTRL_QUIET_MS = max 1 (min 10_000 (bits w 16 16)) ∧
    t.fcu.part.quietEnd = s.refTick + msTicks (max 1 (min 10_000 (bits w 16 16))) ∧
    regsKept s t (loggedAnd [FCU_CTRL.addr 0 0 0 0, FCU_STATUS.addr 0 0 0 0]) ∧ memKept s t nowhere) ∧
  (∀ (src cores : Nat) (s : State), reaches s src (FCU_CORE_CLEAR.addr 0 0 0 0) → s.fcu.cores.length = 8 → ∃ t,
    exec (.fcuCoreClear src cores) s = .next t ∧
    (∀ c, c < 8 → t.coreState c = (if bitAt cores c = true ∧ s.coreState c = 3 then 1 else s.coreState c)) ∧
    (∀ c, c < 8 → bitAt cores c = true → s.coreState c = 3 → (t.coreScope c).begun = []) ∧
    regsKept s t (loggedAnd [FCU_CORE_STATE.addr 0 0 0 0]) ∧ memKept s t nowhere)

/-- Boot and the one-time-programmable store. An attempt without a boot key goes to PROVISION; one whose header fails ends with reason 1; one
whose manifest is accepted loads it. A block whose digest matches is written where its segment lies, one that does not ends the attempt with
reason 8. Hardware initialisation zeroes memory and latches failed cores. The last step releases control core 0. A one-time-programmable
write allowed by its rule begins, any other is refused, and it takes effect when it is done.
Where the spec leaves a point open the model's choice stands: log entries 68, 70 and 71. -/
def Obligations.BootAndProgrammingAct : Prop :=
  (∀ s u : State, s.Sound → s.up = true → s.fget BOOT_STATUS_STATE = 0 → u = s.modNvm Nvm.read →
    (u.bootSlotProgrammed = false → s.boot.forced = false → ∃ t, exec .bootAttempt s = .next t ∧ t.fget BOOT_STATUS_STATE = 7 ∧
      regsKept s t (anyOf [BOOT_STATUS.addr 0 0 0 0]) ∧ memKept s t nowhere) ∧
    (u.bootSlotProgrammed = true → norHeaderOk (s.norBytes 0 4096) = false → ∃ t, exec .bootAttempt s = .next t ∧
      t.fget BOOT_STATUS_STATE = 6 ∧ t.fget BOOT_FAIL_REASON = 1 ∧
      t.fget BOOT_STATUS_ATTEMPTS = (s.fget BOOT_STATUS_ATTEMPTS + 1) % 2 ^ 32 ∧ t.boot.failTick = s.refTick ∧ t.nvm = u.nvm ∧
      memKept s t nowhere) ∧
    (∀ h m n pay, h = s.norBytes 0 4096 → n = mf h 12 4 → pay = mf h 16 4 → m = s.norBytes (mf h 8 4) n →
      u.bootSlotProgrammed = true → norHeaderOk h = true → mf h 8 4 + n ≤ 0x2000_0000 → n ≤ 0x10_0000 → ∃ t, exec .bootAttempt s = .next t ∧
      t.readBytes sharedUpper n = m ∧ memKept s t (bytesAt sharedUpper n) ∧ t.nvm = u.nvm ∧
      (∀ r d, u.manifestFails m 1 n = some (r, d) → t.fget BOOT_STATUS_STATE = 6 ∧ t.fget BOOT_FAIL_REASON = r) ∧
      (u.manifestFails m 1 n = none → mfSequence m < u.nvm.counter → t.fget BOOT_STATUS_STATE = 6 ∧ t.fget BOOT_FAIL_REASON = 7) ∧
      (u.manifestFails m 1 n = none → u.nvm.counter ≤ mfSequence m → pay + mfPayloadB m ≤ 0x2000_0000 →
        t.fget BOOT_STATUS_STATE = 3 ∧ t.boot.manifest = m ∧ t.boot.payloadAt = pay ∧ t.boot.next = 0 ∧ t.pins.xspi = true))) ∧
  (∀ (m block : List Byte) (b : Nat) (s : State), s.Sound → s.up = true → s.fget BOOT_STATUS_STATE = 3 → s.boot.hwDone = true →
    m = s.boot.manifest → b = s.boot.next → b < mfBlocks m →
    block = s.norBytes (s.boot.payloadAt + 65536 * b) (blockLen (mfPayloadB m) b) →
    (sha512 block = mfDigest m b → ∃ t, exec .bootBlockLoad s = .next t ∧ t.boot.next = b + 1 ∧ t.fget BOOT_STATUS_STATE = 3 ∧
      (b + 1 = mfBlocks m → t.pins.xspi = false) ∧
      memKept s t (fun a => ∃ g ∈ mfTable m, ∃ o bs, g.piece b block = some (o, bs) ∧ bytesAt (g.base + o) bs.length a) ∧
      ∀ g o bs, (mfTable m).filter (fun x => (x.piece b block).isSome) = [g] → g.piece b block = some (o, bs) → g.kind ≠ sgConfig →
        t.readBytes (g.base + o) bs.length = bs) ∧
    (sha512 block ≠ mfDigest m b → ∃ t, exec .bootBlockLoad s = .next t ∧ t.fget BOOT_STATUS_STATE = 6 ∧ t.fget BOOT_FAIL_REASON = 8 ∧
      t.fget BOOT_FAIL_DETAIL = b % 2 ^ 32 ∧ memKept s t nowhere)) ∧
  (∀ (failed : List Nat) (s : State), s.Sound → failed.all (· < 8) = true → s.up = true → s.fget BOOT_STATUS_STATE = 3 → s.boot.hwDone = false →
    (∃ t, exec (.bootHardwareInitComplete failed false) s = .next t ∧ t.boot.hwDone = true ∧ (∀ a, a < dramEnd → t.readByte a = 0) ∧
      (∀ c ∈ failed, t.coreState c = 3) ∧ (failed ≠ [] → t.fbit FCU_STATUS_SELFTEST_FAIL_SEEN = true) ∧
      ∀ l, l < 3 → t.fbit D2D_Ln_STATUS_UP l = true) ∧
    (∃ t, exec (.bootHardwareInitComplete failed true) s = .next t ∧ t.fget BOOT_STATUS_STATE = 6 ∧ t.fget BOOT_FAIL_REASON = 10 ∧
      memKept s t nowhere)) ∧
  (∀ (m : List Byte) (s : State), s.Sound → s.up = true → s.fget BOOT_STATUS_STATE = 3 → s.boot.hwDone = true → m = s.boot.manifest →
    s.boot.next = mfBlocks m →
    (s.boot.config = [] → ∃ t, exec .bootComplete s = .next t ∧ t.fget BOOT_STATUS_STATE = 5 ∧
      bitAt (t.fget SYS_CORE_RELEASE_RELEASED) 0 = true ∧ t.fget BOOT_IMAGE_SEQUENCE = mfSequence m % 2 ^ 32 ∧
      t.fget BOOT_IMAGE_BLOCKS = mfBlocks m % 2 ^ 16 ∧ t.pins.faultN = !s.inRun ∧
      (∀ w, w < 8 → (t.rword BOOT_DIGEST_w w).toNat = leVal (slice (mfMeasurement m) (8 * w) 8) % 2 ^ 64) ∧
      (∀ a, sharedUpper ≤ a → a < sharedUpper + 0x10_0000 → t.readByte a = 0) ∧
      memKept s t (bytesAt sharedUpper 0x10_0000)) ∧
    (∀ i, (s.applyConfig s.boot.config 0 (s.boot.config.length / 16)).2 = some i → ∃ t, exec .bootComplete s = .next t ∧
      t.fget BOOT_STATUS_STATE = 6 ∧ t.fget BOOT_FAIL_REASON = 9 ∧ t.fget BOOT_FAIL_DETAIL = i % 2 ^ 32)) ∧
  (∀ s : State, s.up = true → s.fget BOOT_STATUS_STATE = 6 → s.elapsed s.boot.failTick (msTicks 1000) = true → ∃ t,
    exec .bootRetry s = .next t ∧ t.fget BOOT_STATUS_STATE = 0 ∧ t.boot.start = s.refTick ∧ t.boot.forced = s.boot.forced ∧
    regsKept s t (anyOf [BOOT_STATUS.addr 0 0 0 0]) ∧ memKept s t nowhere) ∧
  (∀ (src : Nat) (s : State), reaches s src (BOOT_CTRL.addr 0 0 0 0) →
    (s.fget BOOT_STATUS_STATE = 7 → ∃ t, exec (.bootRestart src) s = .next t ∧ t.fget BOOT_STATUS_STATE = 0 ∧ t.boot.forced = true ∧
      regsKept s t (loggedAnd [BOOT_STATUS.addr 0 0 0 0]) ∧ memKept s t nowhere) ∧
    (s.fget BOOT_STATUS_STATE ≠ 7 → ∃ t, exec (.bootRestart src) s = .next t ∧ t.boot = s.boot ∧ regsKept s t busLogReg ∧
      memKept s t nowhere)) ∧
  (∀ (src v : Nat) (s : State), reaches s src (SYS_CORE_RELEASE.addr 0 0 0 0) → ∃ t, exec (.controlCoreRelease src v) s = .next t ∧
    t.fget SYS_CORE_RELEASE_RELEASED = s.fget SYS_CORE_RELEASE_RELEASED ||| (v % 256 &&& 0xFE) ∧
    regsKept s t (loggedAnd [SYS_CORE_RELEASE.addr 0 0 0 0]) ∧ memKept s t nowhere) ∧
  (∀ (src v : Nat) (s : State), reaches s src (NVM_ROLLBACK_ADVANCE.addr 0 0 0 0) → v < 2 ^ 32 → s.nvm.job = none →
    (s.nvm.counter < v → v ≤ s.fget BOOT_IMAGE_SEQUENCE → s.nvm.advancesLeft ≠ 0 → ∃ t, exec (.rollbackAdvance src v) s = .next t ∧
      t.nvm = { s.nvm with job := some (.advance v, s.refTick) } ∧ regsKept s t busLogReg ∧ memKept s t nowhere) ∧
    (v ≤ s.nvm.counter ∨ s.fget BOOT_IMAGE_SEQUENCE < v ∨ s.nvm.advancesLeft = 0 → ∃ t, exec (.rollbackAdvance src v) s = .next t ∧
      t.nvm = s.nvm ∧ t.lastAccess = ⟨stBusError, 0⟩ ∧ regsKept s t busLogReg ∧ memKept s t nowhere)) ∧
  (∀ (src k : Nat) (s : State), k < 8 → reaches s src (NVM_KEY_PROGRAM.addr 0 0 0 0) → s.nvm.job = none →
    ((s.nvm.slots.getD k ⟨none, true⟩).hash = none → s.nvm.locked = false → ∃ t, exec (.keyProgram src k) s = .next t ∧
      t.nvm = { s.nvm with job := some (.key k s.stagedHash, s.refTick) } ∧ regsKept s t busLogReg ∧ memKept s t nowhere) ∧
    ((s.nvm.slots.getD k ⟨none, true⟩).hash ≠ none ∨ s.nvm.locked = true → ∃ t, exec (.keyProgram src k) s = .next t ∧ t.nvm = s.nvm ∧
      t.lastAccess = ⟨stBusError, 0⟩ ∧ regsKept s t busLogReg ∧ memKept s t nowhere)) ∧
  (∀ (src v : Nat) (s : State), reaches s src (NVM_REVOKE.addr 0 0 0 0) → s.nvm.job = none →
    (s.bootSlotLeft (v % 256) = true → ∃ t, exec (.revoke src v) s = .next t ∧
      t.nvm = { s.nvm with job := some (.revoke (v % 256), s.refTick) } ∧ regsKept s t busLogReg ∧ memKept s t nowhere) ∧
    (s.bootSlotLeft (v % 256) = false → ∃ t, exec (.revoke src v) s = .next t ∧ t.nvm = s.nvm ∧ t.lastAccess = ⟨stBusError, 0⟩ ∧
      regsKept s t busLogReg ∧ memKept s t nowhere)) ∧
  (∀ (src : Nat) (s : State), reaches s src (NVM_LOCK.addr 0 0 0 0) →
    (s.nvm.job = none → ∃ t, exec (.nvmLock src) s = .next t ∧ t.nvm = { s.nvm with job := some (.lock, s.refTick) } ∧
      regsKept s t busLogReg ∧ memKept s t nowhere) ∧
    (s.nvm.job ≠ none → ∃ t, exec (.nvmLock src) s = .next t ∧ t.nvm = s.nvm ∧ t.lastAccess = ⟨stBusError, 0⟩ ∧
      regsKept s t busLogReg ∧ memKept s t nowhere)) ∧
  (∀ (j : NvmJob) (since : Nat) (s : State), s.up = true → s.nvm.job = some (j, since) → s.elapsed since (msTicks 2) = true →
    (∃ t, exec (.nvmProgramDone true) s = .next t ∧ t.nvm.job = none ∧ regsKept s t nowhere ∧ memKept s t nowhere ∧
      (∀ v, j = .advance v → t.nvm = { s.nvm with job := none, counter := v, advancesLeft := s.nvm.advancesLeft - 1 }) ∧
      (∀ k h, j = .key k h → k < s.nvm.slots.length → (t.nvm.slots.getD k ⟨none, true⟩).hash = some h ∧ t.nvm.counter = s.nvm.counter) ∧
      (∀ m, j = .revoke m → ∀ k, k < s.nvm.slots.length → (t.nvm.slots.getD k ⟨none, true⟩).revoked =
        (bitAt m k || (s.nvm.slots.getD k ⟨none, true⟩).revoked)) ∧
      (j = .lock → t.nvm = { s.nvm with job := none, locked := true })) ∧
    (∃ t x, exec (.nvmProgramDone false) s = .next t ∧ t.nvm = Nvm.failed { s.nvm with job := none } j x ∧
      t.nvm.job = none ∧ t.fbit NVM_STATUS_FAIL_SEEN = true ∧
      regsKept s t (anyOf [NVM_STATUS.addr 0 0 0 0]) ∧ memKept s t nowhere))

/-- The admission engine and attestation. BEGIN opens a context; MANIFEST and DATA take the bytes that follow those they have, and check a manifest
or a block that is complete; FINISH admits the model and sets its entry's VALID bit last; ABORT and a timeout close the context; REMOVE clears
VALID and forgets the model; each is answered in the request's slot, where the ration of class 15 issues the engine's writes. ATTEST_GO starts a report, and ATTEST_DONE puts it into SEC_REPORT. The
number of a new context is a free value (log entry 5). -/
def Obligations.ModelsAreAdmittedAndAttested : Prop :=
  (∀ (a k : Nat) (s : State), s.Sound → s.up = true → s.adm.req = some a → s.adm.ctxs.length = 4 → s.rqOp a = 1 → s.rqBad a = false →
    s.grants 15 (txCount (a + 8320) 32) →
    ((List.range 4).find? (fun k => (s.admCtx k).isNone) = some k → s.rqOffset a ≤ 2 ^ 21 → ∃ t id, exec .begin_ s = .next t ∧
      id % 4 = k ∧ t.admCtx k = some ⟨id, s.rqOffset a, 0, none, [], 0, [], [], s.refTick⟩ ∧ t.admAnswered a 1 0 id 0 0 ∧
      memKept s t (bytesAt (a + 8320) 32)) ∧
    ((List.range 4).find? (fun k => (s.admCtx k).isNone) = none → ∃ t next done, exec .begin_ s = .next t ∧ t.adm.ctxs = s.adm.ctxs ∧
      t.admAnswered a 1 2 (s.rqId a) next done ∧ memKept s t (bytesAt (a + 8320) 32))) ∧
  (∀ (a k off tx : Nat) (c : AdmCtx) (d : List Byte) (s : State), s.Sound → s.up = true → s.adm.req = some a → s.rqBad a = false →
    s.ctxOf (s.rqId a) = some (k, c) → off = s.rqOffset a → tx = txCount (a + 8320) 32 → s.grants 15 tx →
    (s.rqOp a = 2 → c.manifest = none → off ≤ c.next → d = (s.rqData a).drop (c.next - off) → d ≠ [] →
      rangesApart (s.ctxArea k + c.next) d.length a 9728 →
      (c.next + d.length < c.manifestB → s.grants 15 (txCount (s.ctxArea k + c.next) d.length + tx) → ∃ t, exec .manifest s = .next t ∧
        t.admCtx k = some { c with next := c.next + d.length, last := s.refTick } ∧ t.readBytes (s.ctxArea k + c.next) d.length = d ∧
        t.admAnswered a 2 0 c.id (c.next + d.length) c.done ∧
        memKept s t (fun x => bytesAt (s.ctxArea k + c.next) d.length x ∨ bytesAt (a + 8320) 32 x)) ∧
      (c.next + d.length = c.manifestB → rangesApart (s.ctxArea k) c.manifestB a 9728 → s.heldOf 15 = [] →
        s.grants 15 (txCount (s.ctxArea k + c.next) d.length + tx) → ∃ t, exec .manifest s = .next t ∧
        ((t.admCtx k = some { c with next := 0, last := s.refTick, manifest := some (t.readBytes (s.ctxArea k) c.manifestB) } ∧
            t.admAnswered a 2 0 c.id 0 c.done) ∨
          (t.admCtx k = none ∧ t.fget SEC_ADMIT_STATUS_LAST_REASON ≠ 0 ∧ t.adm.records = s.adm.records)) ∧
        memKept s t (fun x => bytesAt (s.ctxArea k + c.next) d.length x ∨ bytesAt (a + 8320) 32 x)) ∧
      (c.manifestB < c.next + d.length → ∃ t, exec .manifest s = .next t ∧ t.admCtx k = none ∧
        t.admAnswered a 2 1 c.id c.next c.done ∧ memKept s t (bytesAt (a + 8320) 32))) ∧
    (s.rqOp a = 3 → c.manifest = none → ∃ t, exec .data s = .next t ∧ t.admCtx k = none ∧ t.admAnswered a 3 12 c.id c.next c.done ∧
      memKept s t (bytesAt (a + 8320) 32)) ∧
    (∀ m n, s.rqOp a = 3 → c.manifest = some m → off ≤ c.next → d = (s.rqData a).drop (c.next - off) →
      c.next + d.length ≤ mfPayloadB m → n = blockLen (mfPayloadB m) c.done →
      (c.block.length + d.length < n → ∃ t, exec .data s = .next t ∧
        t.admCtx k = some { c with block := c.block ++ d, next := c.next + d.length, last := s.refTick } ∧
        t.admAnswered a 3 0 c.id (c.next + d.length) c.done ∧ memKept s t (bytesAt (a + 8320) 32)) ∧
      (c.block.length + d.length = n → n ≠ 0 → sha512 (c.block ++ d) = mfDigest m c.done →
        (∀ g ∈ mfTable m, ∀ o bs, g.piece c.done (c.block ++ d) = some (o, bs) → rangesApart (g.dest + o) bs.length a 9728) →
        s.grants 15 (((mfTable m).map (fun g => (g.piece c.done (c.block ++ d)).elim 0 (fun x =>
          if g.kind = sgDram then txCount (g.dest + x.1) x.2.length else 0))).sum + tx) → ∃ t c', exec .data s = .next t ∧
        t.admCtx k = some c' ∧ c'.done = c.done + 1 ∧ c'.block = [] ∧ c'.next = c.next + d.length ∧ c'.manifest = some m ∧
        t.admAnswered a 3 0 c.id (c.next + d.length) (c.done + 1) ∧
        ∀ g o bs, (mfTable m).filter (fun x => (x.piece c.done (c.block ++ d)).isSome) = [g] → g.kind = sgDram →
          g.piece c.done (c.block ++ d) = some (o, bs) → t.readBytes (g.dest + o) bs.length = bs) ∧
      (c.block.length + d.length = n → n ≠ 0 → sha512 (c.block ++ d) ≠ mfDigest m c.done → ∃ t, exec .data s = .next t ∧
        t.admCtx k = none ∧ t.fget SEC_ADMIT_STATUS_LAST_REASON = 7 ∧ memKept s t (bytesAt (a + 8320) 32))) ∧
    (∀ m, s.rqOp a = 4 → c.manifest = some m →
      (c.done = mfBlocks m → admBodyOk m c = true → 5 ≤ c.entry.length → rangesApart (s.entryAddr (mfModel m)) c.entry.length a 9728 →
        s.grants 15 (txCount (s.entryAddr (mfModel m)) c.entry.length + 1 + tx) → ∃ t, exec .finish s = .next t ∧ t.admCtx k = none ∧ t.admAnswered a 4 0 c.id c.next c.done ∧
        ⟨mfModel m, mfSequence m, mfMeasurement m, mfRanges m⟩ ∈ t.adm.records ∧
        t.readByte (s.entryAddr (mfModel m) + 4) = c.entry.getD 4 0 ||| 1) ∧
      (c.done ≠ mfBlocks m → ∃ t, exec .finish s = .next t ∧ t.admCtx k = none ∧ t.adm.records = s.adm.records ∧
        t.admAnswered a 4 12 c.id c.next c.done ∧ memKept s t (bytesAt (a + 8320) 32))) ∧
    (s.rqOp a = 5 → ∃ t, exec .abort s = .next t ∧ t.admCtx k = none ∧ t.admAnswered a 5 0 c.id c.next c.done ∧
      memKept s t (bytesAt (a + 8320) 32))) ∧
  (∀ (a x : Nat) (s : State), s.Sound → s.up = true → s.adm.req = some a → s.rqOp a = 6 → s.rqBad a = false → x = s.rqId a →
    s.grants 15 (1 + txCount (a + 8320) 32) →
    ((∃ y ∈ s.adm.records, y.model = x) → s.modelRuns x = false → rangesApart (s.entryAddr x + 4) 1 a 9728 → ∃ t next done,
      exec .remove s = .next t ∧ t.adm.records = s.adm.records.filter (fun y => y.model != x) ∧
      t.readByte (s.entryAddr x + 4) = s.readByte (s.entryAddr x + 4) &&& 0xFE ∧ t.admAnswered a 6 0 x next done ∧
      (∀ c r, c < 8 → (t.coreAt c).resident = some r → r.model ≠ x)) ∧
    ((∀ y ∈ s.adm.records, y.model ≠ x) ∨ s.modelRuns x = true → ∃ t next done, exec .remove s = .next t ∧
      t.adm.records = s.adm.records ∧ t.admAnswered a 6 10 x next done ∧ memKept s t (bytesAt (a + 8320) 32))) ∧
  (∀ (k : Nat) (c : AdmCtx) (s : State), k < 4 → s.up = true → s.adm.closed.length = 4 → s.admCtx k = some c →
    s.elapsed c.last (msTicks (s.fget SEC_ADMIT_TIMEOUT_TIMEOUT_MS)) = true → ∃ t, exec (.admitTimeout k) s = .next t ∧
    t.admCtx k = none ∧ t.adm.closed.getD k none = some c.id ∧ regsKept s t (anyOf [SEC_ADMIT_STATUS.addr 0 0 0 0]) ∧
    memKept s t nowhere) ∧
  (∀ (src v : Nat) (s : State), reaches s src (SEC_ATTEST_CTRL.addr 0 0 0 0) →
    (s.fbit SEC_ATTEST_CTRL_BUSY = false → bits v 8 6 ≤ 32 → ∃ t, exec (.attestGo src v) s = .next t ∧
      t.fbit SEC_ATTEST_CTRL_BUSY = true ∧ t.fget SEC_ATTEST_CTRL_COUNT = bits v 8 6 ∧
      regsKept s t (loggedAnd [SEC_ATTEST_CTRL.addr 0 0 0 0]) ∧ memKept s t nowhere) ∧
    (s.fbit SEC_ATTEST_CTRL_BUSY = true ∨ 32 < bits v 8 6 → ∃ t, exec (.attestGo src v) s = .next t ∧
      t.lastAccess = ⟨stBusError, 0⟩ ∧ regsKept s t busLogReg ∧ memKept s t nowhere)) ∧
  (∀ s : State, s.up = true → s.fbit SEC_ATTEST_CTRL_BUSY = true → s.fget SEC_ATTEST_CTRL_COUNT ≤ 32 → ∃ t,
    exec .attestDone s = .next t ∧ t.fbit SEC_ATTEST_CTRL_BUSY = false ∧ t.fget SEC_REPORT_B_REPORT_B = s.attestReport.length ∧
    (∀ w, 8 * w + 8 ≤ s.attestReport.length → (t.rword SEC_REPORT_w w).toNat = leVal (slice s.attestReport (8 * w) 8)) ∧
    slice s.attestReport 0 4 = leBytes 4 0x3152_414B ∧ memKept s t nowhere)

/-- The register interface. REGISTER_WRITE stores what the fields' types take of the value and is journalled, is refused with the bus-error
capture where no register of that width answers, or writes DRAM where the path's ration issues it. COMMIT and the end of a CRC pass keep the reference and compare with it.
IRQ_SET raises the soft interrupt. The five reads that clear return what they clear.
Where the spec leaves a point open the model's choice stands: log entry 75. -/
def Obligations.RegistersAreWrittenReadAndChecked : Prop :=
  (∀ (src a width v : Nat) (r : RegAt) (s : State), isSource src = true → s.up = true → a < 2 ^ 48 → isRegSpace a = true →
    s.regFound a width = some r → lookupFn r.t.reg.base writeTable = none → ¬ busLogReg a → ∃ t i,
    exec (.registerWrite src a width v) s = .next t ∧ t.lastAccess = ⟨stOK, 0⟩ ∧ i = s.fget CFG_JOURNAL_NEXT_INDEX ∧
    AMap.get? t.regs a = some (BitVec.ofNat 64 (r.t.written ((AMap.get? s.regs a).getD r.rst).toNat (v % 2 ^ 64 % 2 ^ r.t.width))) ∧
    t.fget CFG_JOURNAL_NEXT_INDEX = (i + 1) % 2 ^ 32 ∧
    (t.rword CFG_JOURNAL_e_Ww (i % 4096) 0).toNat = a + width % 256 * 2 ^ 48 + src * 2 ^ 56 ∧
    regsKept s t (loggedAnd [a]) ∧ memKept s t nowhere) ∧
  (∀ (src a width v : Nat) (s : State), isSource src = true → s.up = true → a < 2 ^ 48 → isRegSpace a = true →
    s.regFound a width = none → ∃ t, exec (.registerWrite src a width v) s = .next t ∧ t.lastAccess = ⟨stBusError, 0⟩ ∧
    t.fget SYS_BUS_ERRORS_COUNT = (s.fget SYS_BUS_ERRORS_COUNT + 1) % 2 ^ 32 ∧ t.fbit SYS_BUS_ERR_LAST_VALID = true ∧
    (s.fbit SYS_BUS_ERR_LAST_VALID = false → t.fget SYS_BUS_ERR_LAST_ADDRESS = a ∧ t.fget SYS_BUS_ERR_LAST_STATUS = stBusError ∧
      t.fget SYS_BUS_ERR_LAST_SOURCE = src ∧ t.fbit SYS_BUS_ERR_LAST_WRITE = true) ∧
    (s.fbit SYS_BUS_ERR_LAST_VALID = true → t.rword SYS_BUS_ERR_LAST = s.rword SYS_BUS_ERR_LAST) ∧
    t.fget CFG_JOURNAL_NEXT_INDEX = (s.fget CFG_JOURNAL_NEXT_INDEX + 1) % 2 ^ 32 ∧ regsKept s t busLogReg ∧ memKept s t nowhere) ∧
  (∀ (src a n v : Nat) (s : State), s.Sound → isSource src = true → s.up = true → n = 1 ∨ n = 2 ∨ n = 4 ∨ n = 8 → a + n ≤ dramEnd →
    a % n = 0 → s.dieDown (hubLinkOf a) = false → (∀ c, pathClass src = some c → s.grants c 1) → ∃ t,
    exec (.registerWrite src a n v) s = .next t ∧ t.lastAccess = ⟨stOK, 0⟩ ∧
    t.readLE a n = v % 2 ^ (8 * n) ∧ memKept s t (bytesAt a n) ∧
    t.fget CFG_JOURNAL_NEXT_INDEX = s.fget CFG_JOURNAL_NEXT_INDEX) ∧
  (∀ (src : Nat) (s : State), reaches s src (CFG_CRC_COMMIT.addr 0 0 0 0) → ∃ t, exec (.crcCommit src) s = .next t ∧
    t.fbit CFG_CRC_STATUS_COMMIT_PENDING = true ∧ t.crc = { s.crc with clean := false } ∧
    regsKept s t (loggedAnd [CFG_CRC_STATUS.addr 0 0 0 0]) ∧ memKept s t nowhere) ∧
  (∀ (c : Nat) (s : State), s.works = true → c = crc32c s.configImage →
    (s.crc.clean = false → ∃ t, exec .crcPassEnd s = .next t ∧
      t.fget CFG_CRC_PASSES_DISCARDED = (s.fget CFG_CRC_PASSES_DISCARDED + 1) % 2 ^ 32 ∧
      t.crc = ⟨true, s.refTick, s.fbit CFG_CRC_STATUS_COMMIT_PENDING⟩ ∧ t.fcu = s.fcu ∧ memKept s t nowhere) ∧
    (s.crc.clean = true → s.crc.commit = true → ∃ t, exec .crcPassEnd s = .next t ∧ t.fget CFG_CRC_REF_CRC = c % 2 ^ 32 ∧
      t.fget CFG_CRC_LAST_CRC = c % 2 ^ 32 ∧ t.fbit CFG_CRC_STATUS_REF_VALID = true ∧ t.fbit CFG_CRC_STATUS_COMMIT_PENDING = false ∧
      t.fbit CFG_CRC_STATUS_MISMATCH = false ∧ t.crc = ⟨true, s.refTick, false⟩ ∧ t.fcu = s.fcu ∧ memKept s t nowhere) ∧
    (s.crc.clean = true → s.crc.commit = false → s.fbit CFG_CRC_STATUS_REF_VALID = true → s.fbit CFG_CRC_CTRL_CHECK_EN = true → ∃ t,
      exec .crcPassEnd s = .next t ∧ t.fget CFG_CRC_LAST_CRC = c % 2 ^ 32 ∧ t.fget CFG_CRC_REF_CRC = s.fget CFG_CRC_REF_CRC ∧
      t.fbit CFG_CRC_STATUS_MISMATCH = decide (c ≠ s.fget CFG_CRC_REF_CRC) ∧
      (c ≠ s.fget CFG_CRC_REF_CRC → s.fbit CFG_CRC_STATUS_MISMATCH = false → t.fbit CFG_CRC_STATUS_MISMATCH_SEEN = true ∧
        t.fcu.reports = s.fcu.reports ++ [⟨0x042, clsU, none, 0, none, false⟩]) ∧
      (c = s.fget CFG_CRC_REF_CRC ∨ s.fbit CFG_CRC_STATUS_MISMATCH = true → t.fcu = s.fcu) ∧ memKept s t nowhere)) ∧
  (∀ (src : Nat) (s : State), reaches s src (SYS_IRQ_SET.addr 0 0 0 0) → ∃ t, exec (.irqSet src) s = .next t ∧
    t.fbit SYS_IRQ_PENDING_SOFT = true ∧ regsKept s t (loggedAnd [SYS_IRQ_PENDING.addr 0 0 0 0]) ∧ memKept s t nowhere) ∧
  (∀ (src c : Nat) (s : State), c < 8 → reaches s src (MVP_SAT_ROWS.addr c 0 0 0) → ∃ t, exec (.mvpSatRowsRead src c) s = .next t ∧
    t.lastAccess = ⟨stOK, s.fget MVP_SAT_ROWS_COUNT c⟩ ∧ t.fget MVP_SAT_ROWS_COUNT c = 0 ∧
    regsKept s t (anyOf [MVP_SAT_ROWS.addr c 0 0 0]) ∧ memKept s t nowhere) ∧
  (∀ (src c : Nat) (s : State), c < 8 → reaches s src (MOV_OUTSTANDING_MAX.addr c 0 0 0) → ∃ t,
    exec (.movOutstandingMaxRead src c) s = .next t ∧ t.lastAccess = ⟨stOK, s.fget MOV_OUTSTANDING_MAX_MAX c⟩ ∧
    t.fget MOV_OUTSTANDING_MAX_MAX c = 0 ∧ regsKept s t (anyOf [MOV_OUTSTANDING_MAX.addr c 0 0 0]) ∧ memKept s t nowhere) ∧
  (∀ (src c : Nat) (s : State), c < 16 → reaches s src (SYS_RATION_c_MAX_HOLD_NS.addr c 0 0 0) → ∃ t,
    exec (.rationMaxHoldRead src c) s = .next t ∧ t.lastAccess = ⟨stOK, s.fget SYS_RATION_c_MAX_HOLD_NS_HOLD_NS c⟩ ∧
    t.fget SYS_RATION_c_MAX_HOLD_NS_HOLD_NS c = 0 ∧ regsKept s t (anyOf [SYS_RATION_c_MAX_HOLD_NS.addr c 0 0 0]) ∧ memKept s t nowhere) ∧
  (∀ (src p : Nat) (s : State), p < 4 → reaches s src (ISPn_WB_FILL_MAX_B.addr p 0 0 0) → ∃ t, exec (.wbFillMaxRead src p) s = .next t ∧
    t.lastAccess = ⟨stOK, s.fget ISPn_WB_FILL_MAX_B_FILL_MAX_B p⟩ ∧ t.fget ISPn_WB_FILL_MAX_B_FILL_MAX_B p = 0 ∧
    regsKept s t (anyOf [ISPn_WB_FILL_MAX_B.addr p 0 0 0]) ∧ memKept s t nowhere) ∧
  (∀ (src : Nat) (s : State), reaches s src (PWR_TEMP_PEAK.addr 0 0 0 0) → ∃ t, exec (.tempPeakRead src) s = .next t ∧
    t.lastAccess = ⟨stOK, s.fget PWR_TEMP_PEAK_PEAK_MC⟩ ∧ t.fget PWR_TEMP_PEAK_PEAK_MC = 0 ∧
    regsKept s t (anyOf [PWR_TEMP_PEAK.addr 0 0 0 0]) ∧ memKept s t nowhere)

/-- The debug port and the board controller interface. The port's instructions select and capture their data registers and touch nothing else;
EXTEST acts only in reset. A scan with GO performs one access as source 3, or completes with BUS_ERROR before the clocks start. CMB
transactions answer at their address from 100 us after release; RAIL_CHECK marks each rail outside its tolerance. The boundary register's
contents are a free value, and an access while the clocks are stopped waits (log entries 72 and 73). -/
def Obligations.DebugPortAndBoardInterfaceAct : Prop :=
  (∀ s : State, exec .idcode s = .next (s.tap 0x01 (1 + 0x4AB * 2 + 0x4160 * 2 ^ 12 + s.fuses.stepping % 16 * 2 ^ 28)) ∧
    exec .bypass s = .next (s.tap 0x3F 0) ∧
    (s.clk.inReset = false → exec .extest s = .next (s.tap 0x3F 0)) ∧
    (s.clk.inReset = true → ∃ t, exec .extest s = .next t ∧ t.dbg.ir = 0 ∧ regsKept s t nowhere ∧ memKept s t nowhere) ∧
    (∃ t, exec .samplePreload s = .next t ∧ t.dbg.ir = 0x02 ∧ regsKept s t nowhere ∧ memKept s t nowhere) ∧
    (∃ t, exec .debugPortReset s = .next t ∧ t.dbg.ir = 0x01 ∧ regsKept s t nowhere ∧ memKept s t nowhere)) ∧
  (∀ (shift : Nat) (s : State),
    (bitAt shift 51 = false → ∃ t, exec (.busAccess shift) s = .next t ∧ t.dbg.dr = s.dbg.captured ∧ t.dbg.data = bits shift 64 64 ∧
      t.dbg.done = s.dbg.done ∧ regsKept s t nowhere ∧ memKept s t nowhere) ∧
    (bitAt shift 51 = true → s.clk.inReset = true ∨ s.clk.started = false → ∃ t, exec (.busAccess shift) s = .next t ∧
      t.dbg.done = true ∧ t.dbg.status = stBusError ∧ regsKept s t nowhere ∧ memKept s t nowhere) ∧
    (bitAt shift 51 = true → s.up = true → s.clk.started = true → ∃ t x, exec (.busAccess shift) s = .next t ∧
      x = State.access (s.tap 0x20 s.dbg.captured) 3 0xFF
        ⟨bitAt shift 50, bits shift 0 48, 2 ^ bits shift 48 2, bits shift 64 64⟩ ∧
      t.dbg.dr = s.dbg.captured ∧ t.dbg.done = true ∧ t.dbg.overrun = false ∧ t.dbg.status = x.2.1 ∧ t.regs = x.1.regs ∧
      t.mem = x.1.mem ∧ (bitAt shift 50 = false → t.dbg.data = x.2.2))) ∧
  (∀ (addr reg : Nat) (d : List Nat) (v : Nat) (s : State), s.cmbAnswers addr = true → d.length = 4 → v = leVal (d.map (BitVec.ofNat 8)) →
    ∃ t, exec (.cmbWrite addr reg d) s = .next t ∧ regsKept s t nowhere ∧ memKept s t nowhere ∧
    (reg = 0x04 → ∀ k, bitAt t.cmb.alert k = (bitAt s.cmb.alert k && !bitAt v k)) ∧ (reg = 0x05 → t.cmb.mask = v % 32) ∧
    (reg ≠ 0x04 → reg ≠ 0x05 → t.cmb = s.cmb)) ∧
  (∀ (addr reg : Nat) (s : State), s.cmbAnswers addr = true → ∃ t, exec (.cmbRead addr reg) s = .next t ∧
    regsKept s t nowhere ∧ memKept s t nowhere ∧ t.cmb = { s.cmb with lastRead := t.cmb.lastRead } ∧
    (reg = 0x00 → t.cmb.lastRead = 0x4160 + s.fuses.stepping % 256 * 2 ^ 16) ∧ (reg = 0x04 → t.cmb.lastRead = s.cmb.alert) ∧
    (reg = 0x03 → t.cmb.lastRead = s.fget FCU_STATUS_STATE + b2n s.pins.faultN * 4) ∧
    (reg = 0x07 → t.cmb.lastRead = s.fget PWR_MEAS_MEAS_MW) ∧ (0x18 ≤ reg → t.cmb.lastRead = 0xFFFF_FFFF)) ∧
  (∀ (mv : List Nat) (s : State), s.clk.inReset = false → s.elapsed s.cmb.checked (usTicks 100) = true → mv.length = 8 → ∃ t,
    exec (.railCheck mv) s = .next t ∧ t.cmb.checked = s.refTick ∧ regsKept s t nowhere ∧ memKept s t nowhere ∧
    (∀ k, k < 8 → bitAt (t.cmb.rails.getD k 0) 31 = railOut k (mv.getD k 0) ∧
      bits (t.cmb.rails.getD k 0) 0 16 = mv.getD k 0 % 2 ^ 16) ∧
    ((∃ k, k < 8 ∧ railOut k (mv.getD k 0) = true) → bitAt t.cmb.alert 4 = true) ∧
    ((∀ k, k < 8 → railOut k (mv.getD k 0) = false) → t.cmb.alert = s.cmb.alert))
end

