-- ==== Sys2Proof/Laws/Store.lean ====
section
/-! SUPPORT. The laws of association lists, memories and rising sets: what a read gives after a write, and that every operation keeps the
rising order and the canonical form. -/

namespace Sys2Proof.Machine

/-! ### Association lists -/

/-- The value just stored is the value found. -/
@[simp] theorem AMap.get?_set_self {α : Type} (m : List (Nat × α)) (a : Nat) (x : α) : AMap.get? (AMap.set m a x) a = some x := by
  induction m with
  | nil => simp [AMap.set, AMap.get?]
  | cons e m ih =>
    obtain ⟨k, v⟩ := e
    simp only [AMap.set]
    split
    · simp [AMap.get?]
    · split
      · simp [AMap.get?]
      · simp [AMap.get?, *]

/-- Storing under one key leaves the others. -/
theorem AMap.get?_set_ne {α : Type} (m : List (Nat × α)) {a b : Nat} (x : α) (h : b ≠ a) :
    AMap.get? (AMap.set m a x) b = AMap.get? m b := by
  induction m with
  | nil =>
    simp only [AMap.set, AMap.get?]
    split
    · contradiction
    · split <;> rfl
  | cons e m ih =>
    obtain ⟨k, v⟩ := e
    simp only [AMap.set]
    split
    · subst_vars
      simp only [AMap.get?]
      rw [if_neg h, if_neg h]
    · split
      · simp only [AMap.get?]
        rw [if_neg h]
        split
        · rw [if_neg (by omega), if_pos (by omega)]
        · rfl
      · simp only [AMap.get?, ih]

/-- What is found after storing, for any key. -/
theorem AMap.get?_set {α : Type} (m : List (Nat × α)) (a b : Nat) (x : α) :
    AMap.get? (AMap.set m a x) b = if b = a then some x else AMap.get? m b := by
  split
  · subst_vars; simp
  · exact AMap.get?_set_ne m x (by assumption)

/-- A lower bound of the keys can be lowered. -/
theorem AMap.sortedFrom_le {α : Type} {lo lo' : Nat} {m : List (Nat × α)} (h : AMap.sortedFrom lo m = true) (hl : lo' ≤ lo) :
    AMap.sortedFrom lo' m = true := by
  cases m with
  | nil => rfl
  | cons e m =>
    simp only [AMap.sortedFrom, Bool.and_eq_true, decide_eq_true_eq] at *
    exact ⟨by omega, h.2⟩

/-- No key lies below a lower bound of the keys. -/
theorem AMap.get?_below {α : Type} {lo a : Nat} {m : List (Nat × α)} (h : AMap.sortedFrom lo m = true) (ha : a < lo) :
    AMap.get? m a = none := by
  cases m with
  | nil => rfl
  | cons e m =>
    simp only [AMap.sortedFrom, Bool.and_eq_true, decide_eq_true_eq] at h
    simp only [AMap.get?]
    rw [if_neg (by omega), if_pos (by omega)]

/-- Storing keeps the rising order. -/
theorem AMap.sortedFrom_set {α : Type} {lo : Nat} {m : List (Nat × α)} (h : AMap.sortedFrom lo m = true) (a : Nat) (x : α)
    (ha : lo ≤ a) : AMap.sortedFrom lo (AMap.set m a x) = true := by
  induction m generalizing lo with
  | nil => simpa [AMap.set, AMap.sortedFrom] using ha
  | cons e m ih =>
    simp only [AMap.sortedFrom, Bool.and_eq_true, decide_eq_true_eq] at h
    simp only [AMap.set]
    split
    · subst_vars
      simpa [AMap.sortedFrom] using h
    · split
      · simp only [AMap.sortedFrom, Bool.and_eq_true, decide_eq_true_eq]
        exact ⟨ha, by omega, h.2⟩
      · simp only [AMap.sortedFrom, Bool.and_eq_true, decide_eq_true_eq]
        exact ⟨h.1, ih h.2 (by omega)⟩

/-- Removing keeps the rising order. -/
theorem AMap.sortedFrom_del {α : Type} {lo : Nat} {m : List (Nat × α)} (h : AMap.sortedFrom lo m = true) (a : Nat) :
    AMap.sortedFrom lo (AMap.del m a) = true := by
  induction m generalizing lo with
  | nil => rfl
  | cons e m ih =>
    simp only [AMap.sortedFrom, Bool.and_eq_true, decide_eq_true_eq] at h
    simp only [AMap.del]
    split
    · exact AMap.sortedFrom_le h.2 (by omega)
    · split
      · simpa [AMap.sortedFrom] using h
      · simp only [AMap.sortedFrom, Bool.and_eq_true, decide_eq_true_eq]
        exact ⟨h.1, ih h.2⟩

/-- Leaving entries out keeps the rising order. -/
theorem AMap.sortedFrom_filter {α : Type} {lo : Nat} {m : List (Nat × α)} (h : AMap.sortedFrom lo m = true)
    (p : Nat × α → Bool) : AMap.sortedFrom lo (m.filter p) = true := by
  induction m generalizing lo with
  | nil => rfl
  | cons e m ih =>
    simp only [AMap.sortedFrom, Bool.and_eq_true, decide_eq_true_eq] at h
    simp only [List.filter_cons]
    split
    · simp only [AMap.sortedFrom, Bool.and_eq_true, decide_eq_true_eq]
      exact ⟨h.1, ih h.2⟩
    · exact AMap.sortedFrom_le (ih h.2) (by omega)

/-- A removed key is not found. -/
theorem AMap.get?_del_self {α : Type} {lo : Nat} {m : List (Nat × α)} (h : AMap.sortedFrom lo m = true) (a : Nat) :
    AMap.get? (AMap.del m a) a = none := by
  induction m generalizing lo with
  | nil => rfl
  | cons e m ih =>
    simp only [AMap.sortedFrom, Bool.and_eq_true, decide_eq_true_eq] at h
    simp only [AMap.del]
    split
    · exact AMap.get?_below h.2 (by omega)
    · split
      · simp only [AMap.get?]
        rw [if_neg (by assumption), if_pos (by assumption)]
      · simp only [AMap.get?]
        rw [if_neg (by assumption), if_neg (by assumption), ih h.2]

/-- Removing one key leaves the others. -/
theorem AMap.get?_del_ne {α : Type} {lo : Nat} {m : List (Nat × α)} (h : AMap.sortedFrom lo m = true) {a b : Nat} (hab : b ≠ a) :
    AMap.get? (AMap.del m a) b = AMap.get? m b := by
  induction m generalizing lo with
  | nil => rfl
  | cons e m ih =>
    simp only [AMap.sortedFrom, Bool.and_eq_true, decide_eq_true_eq] at h
    simp only [AMap.del]
    split
    · subst_vars
      simp only [AMap.get?]
      rw [if_neg hab]
      split
      · exact AMap.get?_below h.2 (by omega)
      · rfl
    · split
      · rfl
      · simp only [AMap.get?, ih h.2]

/-! ### Memories -/

/-- The rising order of a memory's addresses. -/
theorem Memory.wf_sorted {d : Byte} {m : Memory} (h : Memory.wf d m = true) : AMap.sortedFrom 0 m = true := by
  simp only [Memory.wf, Bool.and_eq_true] at h
  exact h.1

/-- Reading the byte just written gives it. -/
theorem Memory.get_put_self {d : Byte} {m : Memory} (h : Memory.wf d m = true) (a : Nat) (b : Byte) :
    Memory.get d (Memory.put d m a b) a = b := by
  simp only [Memory.get, Memory.put]
  split
  · rw [AMap.get?_del_self (Memory.wf_sorted h)]; simp [*]
  · simp

/-- Writing one byte leaves the others. -/
theorem Memory.get_put_ne {d : Byte} {m : Memory} (h : Memory.wf d m = true) {a c : Nat} (b : Byte) (hc : c ≠ a) :
    Memory.get d (Memory.put d m a b) c = Memory.get d m c := by
  simp only [Memory.get, Memory.put]
  split
  · rw [AMap.get?_del_ne (Memory.wf_sorted h) hc]
  · rw [AMap.get?_set_ne m b hc]

theorem AMap.all_del {α : Type} {m : List (Nat × α)} {p : Nat × α → Bool} (h : m.all p = true) (a : Nat) :
    (AMap.del m a).all p = true := by
  induction m with
  | nil => rfl
  | cons e m ih =>
    simp only [List.all_cons, Bool.and_eq_true] at h
    simp only [AMap.del]
    split
    · exact h.2
    · split
      · simpa using h
      · simp only [List.all_cons, Bool.and_eq_true]
        exact ⟨h.1, ih h.2⟩

theorem AMap.all_set {α : Type} {m : List (Nat × α)} {p : Nat × α → Bool} (h : m.all p = true) (a : Nat) (x : α)
    (hx : p (a, x) = true) : (AMap.set m a x).all p = true := by
  induction m with
  | nil => simpa [AMap.set] using hx
  | cons e m ih =>
    simp only [List.all_cons, Bool.and_eq_true] at h
    simp only [AMap.set]
    split
    · simpa using ⟨hx, by simpa using h.2⟩
    · split
      · simp only [List.all_cons, Bool.and_eq_true]
        exact ⟨hx, h⟩
      · simp only [List.all_cons, Bool.and_eq_true]
        exact ⟨h.1, ih h.2⟩

/-- Writing a byte keeps the canonical form. -/
theorem Memory.wf_put {d : Byte} {m : Memory} (h : Memory.wf d m = true) (a : Nat) (b : Byte) :
    Memory.wf d (Memory.put d m a b) = true := by
  simp only [Memory.wf, Bool.and_eq_true] at h ⊢
  simp only [Memory.put]
  split
  · exact ⟨AMap.sortedFrom_del h.1 a, AMap.all_del h.2 a⟩
  · exact ⟨AMap.sortedFrom_set h.1 a b (by omega), AMap.all_set h.2 a b (by simpa using by assumption)⟩

/-- Leaving cells out keeps the canonical form. -/
theorem Memory.wf_filter {d : Byte} {m : Memory} (h : Memory.wf d m = true) (p : Host.Cell → Bool) :
    Memory.wf d (m.filter p) = true := by
  simp only [Memory.wf, Bool.and_eq_true] at h ⊢
  refine ⟨AMap.sortedFrom_filter h.1 p, ?_⟩
  rw [List.all_eq_true] at *
  intro x hx
  exact h.2 x (List.mem_filter.1 hx).1

/-- Writing bytes keeps the canonical form. -/
theorem Memory.wf_write {d : Byte} {m : Memory} (h : Memory.wf d m = true) (a : Nat) (bs : List Byte) :
    Memory.wf d (Memory.write d m a bs) = true := by
  induction bs generalizing m a with
  | nil => exact h
  | cons b bs ih => exact ih (Memory.wf_put h a b) (a + 1)

/-- Writing bytes leaves every byte outside them. -/
theorem Memory.get_write_outside {d : Byte} {m : Memory} (h : Memory.wf d m = true) (a : Nat) (bs : List Byte) {c : Nat}
    (hc : c < a ∨ a + bs.length ≤ c) : Memory.get d (Memory.write d m a bs) c = Memory.get d m c := by
  induction bs generalizing m a with
  | nil => rfl
  | cons b bs ih =>
    simp only [List.length_cons] at hc
    rw [Memory.write, ih (Memory.wf_put h a b) (a + 1) (by omega), Memory.get_put_ne h b (by omega)]

/-- Bytes just written read as written. -/
theorem Memory.get_write_inside {d : Byte} {m : Memory} (h : Memory.wf d m = true) (a : Nat) (bs : List Byte) {i : Nat}
    (hi : i < bs.length) : Memory.get d (Memory.write d m a bs) (a + i) = bs[i] := by
  induction bs generalizing m a i with
  | nil => simp at hi
  | cons b bs ih =>
    rw [Memory.write]
    cases i with
    | zero => rw [Memory.get_write_outside (Memory.wf_put h a b) _ _ (by omega), Nat.add_zero, Memory.get_put_self h]; rfl
    | succ i =>
      have := ih (Memory.wf_put h a b) (a + 1) (i := i) (by simpa using hi)
      rw [show a + (i + 1) = a + 1 + i by omega, this]
      rfl

end Sys2Proof.Machine
end

