-- ==== Sys2Proof/Laws/Changes.lean ====
section
/-! SUPPORT. What any command can do to the state, said once: it gets from state to state by stores of registers, by writes of bytes, by
leaving memory cells out, and by changes of other fields, and never touches the queue. The canonical forms and the queue are kept by each. -/

namespace Sys2Proof.Machine

/-- `t` is reached from `s` by updates of the model's own kinds, none of which touches the queue of waiting commands. -/
inductive Changes (s : State) : State → Prop where
  | refl : Changes s s
  | other {t u : State} : Changes s t → u.mem = t.mem → u.nor = t.nor → u.regs = t.regs → u.pending = t.pending → Changes s u
  | reg {t u : State} (a : Nat) (w : Word) : Changes s t → u.regs = AMap.set t.regs a w → u.mem = t.mem → u.nor = t.nor →
      u.pending = t.pending → Changes s u
  | regs {t u : State} : Changes s t → AMap.sortedFrom 0 u.regs = true → u.mem = t.mem → u.nor = t.nor → u.pending = t.pending →
      Changes s u
  | kept {t u : State} (p : Nat × Word → Bool) : Changes s t → u.regs = t.regs.filter p → u.mem = t.mem → u.nor = t.nor →
      u.pending = t.pending → Changes s u
  | byte {t u : State} (a : Nat) (b : Byte) : Changes s t → u.mem = Memory.put 0 t.mem a b → u.regs = t.regs → u.nor = t.nor →
      u.pending = t.pending → Changes s u
  | left {t u : State} (p : Host.Cell → Bool) : Changes s t → u.mem = t.mem.filter p → u.regs = t.regs → u.nor = t.nor →
      u.pending = t.pending → Changes s u
  | nor {t u : State} (a : Nat) (b : Byte) : Changes s t → u.nor = Memory.put 0xFF t.nor a b → u.mem = t.mem → u.regs = t.regs →
      u.pending = t.pending → Changes s u

/-- A change leaves the queue. -/
theorem Changes.pending {s t : State} (h : Changes s t) : t.pending = s.pending := by
  induction h with
  | refl => rfl
  | other _ _ _ _ h5 ih => rw [h5, ih]
  | reg _ _ _ _ _ _ h5 ih => rw [h5, ih]
  | regs _ _ _ _ h5 ih => rw [h5, ih]
  | kept _ _ _ _ _ h5 ih => rw [h5, ih]
  | byte _ _ _ _ _ _ h5 ih => rw [h5, ih]
  | left _ _ _ _ _ h5 ih => rw [h5, ih]
  | nor _ _ _ _ _ _ h5 ih => rw [h5, ih]

/-- A change keeps the canonical forms. -/
theorem Changes.sound {s t : State} (h : Changes s t) (hs : s.Sound) : t.Sound := by
  induction h with
  | refl => exact hs
  | other _ h1 h2 h3 _ ih => exact ⟨h1 ▸ ih.mem, h2 ▸ ih.nor, h3 ▸ ih.regs⟩
  | reg a w _ h1 h2 h3 _ ih => exact ⟨h2 ▸ ih.mem, h3 ▸ ih.nor, h1 ▸ AMap.sortedFrom_set ih.regs a w (by omega)⟩
  | regs _ h1 h2 h3 _ ih => exact ⟨h2 ▸ ih.mem, h3 ▸ ih.nor, h1⟩
  | kept p _ h1 h2 h3 _ ih => exact ⟨h2 ▸ ih.mem, h3 ▸ ih.nor, h1 ▸ AMap.sortedFrom_filter ih.regs p⟩
  | byte a b _ h1 h2 h3 _ ih => exact ⟨h1 ▸ Memory.wf_put ih.mem a b, h3 ▸ ih.nor, h2 ▸ ih.regs⟩
  | left p _ h1 h2 h3 _ ih => exact ⟨h1 ▸ Memory.wf_filter ih.mem p, h3 ▸ ih.nor, h2 ▸ ih.regs⟩
  | nor a b _ h1 h2 h3 _ ih => exact ⟨h2 ▸ ih.mem, h1 ▸ Memory.wf_put ih.nor a b, h3 ▸ ih.regs⟩

/-- The next state of an outcome, where there is one, is such a change. -/
def OutChanges (s : State) (o : Host.Outcome State Fault Refusal) : Prop := ∀ t, o = .next t → Changes s t

/-- Changes of any other fields. -/
theorem Changes.made {s t : State}
    {x3 : List Nat} {x4 : List (Nat × Nat)} {x5 : List (Nat × Nat)} {x7 : Fuses} {x8 : Nvm} {x9 : Clk} {x10 : Nat} {x11 :
    Ration} {x12 : List WcSets} {x13 : Drover} {x14 : List CoreState} {x15 : Fcu} {x16 : Tim} {x17 : CrcPass} {x18 : Pins}
    {x19 : Dbg} {x20 : Cmb} {x21 : List IspPort} {x22 : List SpxStream} {x23 : List TdmPort} {x24 : List VcdSession} {x25 :
    List Nat} {x26 : List EthPort} {x27 : Hmp} {x28 : Pwr} {x29 : Boot} {x30 : Adm} {x31 : AccessResult} {x32 : Nat}
    (h : Changes s t) :
    Changes s ⟨t.pending, t.regs, t.mem, x3, x4, x5, t.nor, x7, x8, x9, x10, x11, x12, x13, x14, x15, x16, x17, x18, x19,
      x20, x21, x22, x23, x24, x25, x26, x27, x28, x29, x30, x31, x32⟩ :=
  .other h rfl rfl rfl rfl

/-! ### Conditions, folds and outcomes -/

theorem Changes.ite {s a b : State} {c : Prop} [Decidable c] (ha : Changes s a) (hb : Changes s b) : Changes s (if c then a else b) := by
  split <;> assumption

theorem Changes.ite_fst {s : State} {α : Type} {a b : State × α} {c : Prop} [Decidable c] (ha : Changes s a.1) (hb : Changes s b.1) :
    Changes s (if c then a else b).1 := by
  split <;> assumption

theorem Changes.ite_snd {s : State} {α : Type} {a b : α × State} {c : Prop} [Decidable c] (ha : Changes s a.2) (hb : Changes s b.2) :
    Changes s (if c then a else b).2 := by
  split <;> assumption

theorem Changes.foldl {s : State} {β : Type} {f : State → β → State} (l : List β) {u : State}
    (hf : ∀ v b, Changes s v → Changes s (f v b)) (hu : Changes s u) : Changes s (l.foldl f u) := by
  induction l generalizing u with
  | nil => exact hu
  | cons b l ih => exact ih (hf u b hu)

theorem Changes.foldl_fst {s : State} {α β : Type} {f : State × α → β → State × α} (l : List β) {u : State × α}
    (hf : ∀ v b, Changes s v.1 → Changes s (f v b).1) (hu : Changes s u.1) : Changes s (l.foldl f u).1 := by
  induction l generalizing u with
  | nil => exact hu
  | cons b l ih => exact ih (hf u b hu)

theorem Changes.foldl_snd {s : State} {α β : Type} {f : α × State → β → α × State} (l : List β) {u : α × State}
    (hf : ∀ v b, Changes s v.2 → Changes s (f v b).2) (hu : Changes s u.2) : Changes s (l.foldl f u).2 := by
  induction l generalizing u with
  | nil => exact hu
  | cons b l ih => exact ih (hf u b hu)

theorem Changes.foldr {s : State} {β : Type} {f : β → State → State} (l : List β) {u : State}
    (hf : ∀ b v, Changes s v → Changes s (f b v)) (hu : Changes s u) : Changes s (l.foldr f u) := by
  induction l with
  | nil => exact hu
  | cons b l ih => exact hf b _ ih

/-- The first part of a pair that a match has named. -/
theorem Changes.of_fst_eq {s t : State} {α : Type} {p : State × α} {x : α} (e : p = (t, x)) (h : Changes s p.1) : Changes s t := by
  subst e
  exact h

theorem Changes.elim {s u : State} {α : Type} {f : α → State} (x : Option α) (hu : Changes s u) (hf : ∀ a, Changes s (f a)) :
    Changes s (x.elim u f) := by
  cases x with
  | none => exact hu
  | some a => exact hf a

theorem OutChanges.next {s t : State} (h : Changes s t) : OutChanges s (.next t) := by
  intro u hu
  cases hu
  exact h

theorem OutChanges.fault {s : State} {r : Fault} : OutChanges s (.fault r) := by
  intro u hu
  cases hu

theorem OutChanges.due {s u t : State} {c : Bool} (hu : Changes s u) (ht : Changes s t) : OutChanges s (due c u t) := by
  refine OutChanges.next ?_
  split <;> assumption

theorem OutChanges.unit {s : State} {c : Bool} {o : Result} (h : OutChanges s o) : OutChanges s (unit c o) := by
  unfold Machine.unit
  split
  · exact h
  · exact OutChanges.fault

theorem OutChanges.ite {s : State} {a b : Result} {c : Prop} [Decidable c] (ha : OutChanges s a) (hb : OutChanges s b) :
    OutChanges s (if c then a else b) := by
  split <;> assumption

end Sys2Proof.Machine
end

