-- ==== Sys2Proof/Laws/ChangesOps.lean ====
section
/-! SUPPORT. The state after each definition of Sys2Proof/Machine/Ops.lean is reached by the model's own kinds of update. -/

namespace Sys2Proof.Machine

theorem State.rset_changes {s₀ : State} {s : State} {r : Reg} {w : Word} {i : Nat} {j : Nat} {k : Nat} {l : Nat} (h : Changes s₀ s) : Changes s₀ (State.rset s r w i j k l) := by
  exact .reg _ _ h rfl rfl rfl rfl

theorem State.fset_changes {s₀ : State} {s : State} {f : Field} {v : Nat} {i : Nat} {j : Nat} {k : Nat} {l : Nat} (h : Changes s₀ s) : Changes s₀ (State.fset s f v i j k l) := by
  unfold State.fset
  try dsimp only
  repeat' (first | with_reducible assumption | with_reducible apply State.rset_changes | dsimp only)

theorem State.fflag_changes {s₀ : State} {s : State} {f : Field} {b : Bool} {i : Nat} {j : Nat} {k : Nat} {l : Nat} (h : Changes s₀ s) : Changes s₀ (State.fflag s f b i j k l) := by
  unfold State.fflag
  try dsimp only
  repeat' (first | with_reducible assumption | with_reducible apply State.fset_changes | dsimp only)

theorem State.fadd_changes {s₀ : State} {s : State} {f : Field} {n : Nat} {i : Nat} {j : Nat} {k : Nat} {l : Nat} (h : Changes s₀ s) : Changes s₀ (State.fadd s f n i j k l) := by
  unfold State.fadd
  try dsimp only
  repeat' (first | with_reducible assumption | with_reducible apply State.fset_changes | dsimp only)

theorem State.writeByte_changes {s₀ : State} {s : State} {a : Nat} {b : Byte} (h : Changes s₀ s) : Changes s₀ (State.writeByte s a b) := by
  exact .byte _ _ h rfl rfl rfl rfl

theorem State.writeBytes_changes {s₀ : State} {s : State} {a : Nat} {bs : List Byte} (h : Changes s₀ s) : Changes s₀ (State.writeBytes s a bs) := by
  unfold State.writeBytes
  suffices ∀ (m : Memory) (u : State), Changes s₀ u → u.mem = m → Changes s₀ { u with mem := Memory.write 0 m a bs } from this _ s h rfl
  induction bs generalizing a with
  | nil => intro m u hu hm; exact hm ▸ hu
  | cons b bs ih => exact fun m u hu hm => ih (Memory.put 0 m a b) { u with mem := Memory.put 0 m a b } (.byte a b hu (hm ▸ rfl) rfl rfl rfl) rfl

theorem State.writeLE_changes {s₀ : State} {s : State} {a : Nat} {n : Nat} {v : Nat} (h : Changes s₀ s) : Changes s₀ (State.writeLE s a n v) := by
  unfold State.writeLE
  try dsimp only
  repeat' (first | with_reducible assumption | with_reducible apply State.writeBytes_changes | dsimp only)

theorem State.setPoison_changes {s₀ : State} {s : State} {a : Nat} {b : Bool} (h : Changes s₀ s) : Changes s₀ (State.setPoison s a b) := by
  unfold State.setPoison
  try dsimp only
  repeat' (first | with_reducible assumption | with_reducible apply Changes.ite | with_reducible refine Changes.elim _ ?_ (fun b => ?_) | with_reducible apply Changes.ite_fst | with_reducible apply Changes.ite_snd | with_reducible refine Changes.foldl _ (fun v b hv => ?_) ?_ | with_reducible refine Changes.foldl_fst _ (fun v b hv => ?_) ?_ | with_reducible refine Changes.foldl_snd _ (fun v b hv => ?_) ?_ | dsimp only | split | refine Changes.of_fst_eq (by assumption) ?_ | with_reducible apply Changes.made | exact .left _ (by assumption) rfl rfl rfl rfl | exact .kept _ (by assumption) rfl rfl rfl rfl)

theorem State.wcWrite_changes {s₀ : State} {s : State} {a : Nat} {n : Nat} (h : Changes s₀ s) : Changes s₀ (State.wcWrite s a n) := by
  unfold State.wcWrite
  try dsimp only
  repeat' (first | with_reducible assumption | with_reducible apply State.fadd_changes | with_reducible apply Changes.ite | with_reducible refine Changes.elim _ ?_ (fun b => ?_) | with_reducible apply Changes.ite_fst | with_reducible apply Changes.ite_snd | with_reducible refine Changes.foldl _ (fun v b hv => ?_) ?_ | with_reducible refine Changes.foldl_fst _ (fun v b hv => ?_) ?_ | with_reducible refine Changes.foldl_snd _ (fun v b hv => ?_) ?_ | dsimp only | split | refine Changes.of_fst_eq (by assumption) ?_ | with_reducible apply Changes.made | exact .left _ (by assumption) rfl rfl rfl rfl | exact .kept _ (by assumption) rfl rfl rfl rfl)

theorem State.dramWrite_changes {s₀ : State} {s : State} {a : Nat} {bs : List Byte} (h : Changes s₀ s) : Changes s₀ (State.dramWrite s a bs) := by
  unfold State.dramWrite
  try dsimp only
  repeat' (first | with_reducible assumption | with_reducible apply State.writeBytes_changes | with_reducible apply State.setPoison_changes | with_reducible apply State.wcWrite_changes | with_reducible refine Changes.foldl _ (fun v b hv => ?_) ?_ | dsimp only | split)

theorem State.dramWriteMarked_changes {s₀ : State} {s : State} {a : Nat} {bs : List Byte} {marks : List Nat} (h : Changes s₀ s) : Changes s₀ (State.dramWriteMarked s a bs marks) := by
  unfold State.dramWriteMarked
  try dsimp only
  repeat' (first | with_reducible assumption | with_reducible apply State.dramWrite_changes | with_reducible apply State.setPoison_changes | with_reducible refine Changes.foldl _ (fun v b hv => ?_) ?_ | dsimp only)

theorem State.injectCheck_changes {s₀ : State} {s : State} {source : Nat} {twoBits : Nat} {ref : Option DescRef} {caravanId : Nat} {core : Option Nat} (h : Changes s₀ s) : Changes s₀ (State.injectCheck s source twoBits ref caravanId core).1 := by
  unfold State.injectCheck
  try dsimp only
  repeat' (first | with_reducible assumption | with_reducible apply State.fset_changes | with_reducible apply Changes.ite | with_reducible refine Changes.elim _ ?_ (fun b => ?_) | with_reducible apply Changes.ite_fst | with_reducible apply Changes.ite_snd | with_reducible refine Changes.foldl _ (fun v b hv => ?_) ?_ | with_reducible refine Changes.foldl_fst _ (fun v b hv => ?_) ?_ | with_reducible refine Changes.foldl_snd _ (fun v b hv => ?_) ?_ | dsimp only | split | refine Changes.of_fst_eq (by assumption) ?_ | with_reducible apply Changes.made | exact .left _ (by assumption) rfl rfl rfl rfl | exact .kept _ (by assumption) rfl rfl rfl rfl)

theorem State.linkCheck_changes {s₀ : State} {s : State} {link : Nat} (h : Changes s₀ s) : Changes s₀ (State.linkCheck s link) := by
  unfold State.linkCheck
  try dsimp only
  repeat' (first | with_reducible assumption | with_reducible apply State.injectCheck_changes | with_reducible apply State.fset_changes | with_reducible apply State.fadd_changes | dsimp only | split)

theorem State.linkTx_changes {s₀ : State} {s : State} {link : Nat} {n : Nat} (h : Changes s₀ s) : Changes s₀ (State.linkTx s link n) := by
  unfold State.linkTx
  try dsimp only
  repeat' (first | with_reducible assumption | with_reducible apply State.fadd_changes | with_reducible apply State.linkCheck_changes | dsimp only | split)

theorem State.linkRx_changes {s₀ : State} {s : State} {link : Nat} {n : Nat} (h : Changes s₀ s) : Changes s₀ (State.linkRx s link n) := by
  unfold State.linkRx
  try dsimp only
  repeat' (first | with_reducible assumption | with_reducible apply State.fadd_changes | with_reducible apply State.linkCheck_changes | dsimp only | split)

theorem State.hubWrite_changes {s₀ : State} {s : State} {a : Nat} {bs : List Byte} (h : Changes s₀ s) : Changes s₀ (State.hubWrite s a bs) := by
  unfold State.hubWrite
  try dsimp only
  repeat' (first | with_reducible assumption | with_reducible apply State.linkTx_changes | with_reducible apply State.dramWrite_changes | dsimp only)

theorem State.modCore_changes {s₀ : State} {s : State} {c : Nat} {f : CoreState → CoreState} (h : Changes s₀ s) : Changes s₀ (State.modCore s c f) := by
  unfold State.modCore
  try dsimp only
  repeat' (first | with_reducible assumption | with_reducible apply he | with_reducible apply Changes.ite | with_reducible refine Changes.elim _ ?_ (fun b => ?_) | with_reducible apply Changes.ite_fst | with_reducible apply Changes.ite_snd | with_reducible refine Changes.foldl _ (fun v b hv => ?_) ?_ | with_reducible refine Changes.foldl_fst _ (fun v b hv => ?_) ?_ | with_reducible refine Changes.foldl_snd _ (fun v b hv => ?_) ?_ | dsimp only | split | refine Changes.of_fst_eq (by assumption) ?_ | with_reducible apply Changes.made | exact .left _ (by assumption) rfl rfl rfl rfl | exact .kept _ (by assumption) rfl rfl rfl rfl)

theorem State.free_changes {s₀ : State} {s : State} {w : Nat} (h : Changes s₀ s) : Changes s₀ (State.free s w).2 := by
  unfold State.free
  try dsimp only
  repeat' (first | with_reducible assumption | with_reducible apply Changes.ite | with_reducible refine Changes.elim _ ?_ (fun b => ?_) | with_reducible apply Changes.ite_fst | with_reducible apply Changes.ite_snd | with_reducible refine Changes.foldl _ (fun v b hv => ?_) ?_ | with_reducible refine Changes.foldl_fst _ (fun v b hv => ?_) ?_ | with_reducible refine Changes.foldl_snd _ (fun v b hv => ?_) ?_ | dsimp only | split | refine Changes.of_fst_eq (by assumption) ?_ | with_reducible apply Changes.made | exact .left _ (by assumption) rfl rfl rfl rfl | exact .kept _ (by assumption) rfl rfl rfl rfl)

theorem State.fits_changes {s₀ : State} {s : State} {w : Nat} {v : Int} (h : Changes s₀ s) : Changes s₀ (State.fits s w v).2 := by
  unfold State.fits
  try dsimp only
  repeat' (first | with_reducible assumption | with_reducible apply State.free_changes | with_reducible apply Changes.ite | with_reducible refine Changes.elim _ ?_ (fun b => ?_) | with_reducible apply Changes.ite_fst | with_reducible apply Changes.ite_snd | with_reducible refine Changes.foldl _ (fun v b hv => ?_) ?_ | with_reducible refine Changes.foldl_fst _ (fun v b hv => ?_) ?_ | with_reducible refine Changes.foldl_snd _ (fun v b hv => ?_) ?_ | dsimp only | split | refine Changes.of_fst_eq (by assumption) ?_)

theorem State.rebaseArr_changes {s₀ : State} {s : State} {c : Nat} {t : Nat} (h : Changes s₀ s) : Changes s₀ (State.rebaseArr s c t) := by
  unfold State.rebaseArr
  try dsimp only
  repeat' (first | with_reducible assumption | with_reducible apply Changes.ite | with_reducible refine Changes.elim _ ?_ (fun b => ?_) | with_reducible apply Changes.ite_fst | with_reducible apply Changes.ite_snd | with_reducible refine Changes.foldl _ (fun v b hv => ?_) ?_ | with_reducible refine Changes.foldl_fst _ (fun v b hv => ?_) ?_ | with_reducible refine Changes.foldl_snd _ (fun v b hv => ?_) ?_ | dsimp only | split | refine Changes.of_fst_eq (by assumption) ?_ | with_reducible apply Changes.made | exact .left _ (by assumption) rfl rfl rfl rfl | exact .kept _ (by assumption) rfl rfl rfl rfl)

theorem State.rebaseAll_changes {s₀ : State} {s : State} {t : Nat} (h : Changes s₀ s) : Changes s₀ (State.rebaseAll s t) := by
  unfold State.rebaseAll
  try dsimp only
  repeat' (first | with_reducible assumption | with_reducible apply State.rebaseArr_changes | with_reducible apply Changes.ite | with_reducible refine Changes.elim _ ?_ (fun b => ?_) | with_reducible apply Changes.ite_fst | with_reducible apply Changes.ite_snd | with_reducible refine Changes.foldl _ (fun v b hv => ?_) ?_ | with_reducible refine Changes.foldl_fst _ (fun v b hv => ?_) ?_ | with_reducible refine Changes.foldl_snd _ (fun v b hv => ?_) ?_ | dsimp only | split | refine Changes.of_fst_eq (by assumption) ?_)

theorem State.irq_changes {s₀ : State} {s : State} {f : Field} (h : Changes s₀ s) : Changes s₀ (State.irq s f) := by
  unfold State.irq
  try dsimp only
  repeat' (first | with_reducible assumption | with_reducible apply State.fset_changes | dsimp only)

theorem State.report_changes {s₀ : State} {s : State} {source : Nat} {cls : Nat} {ref : Option DescRef} {caravanId : Nat} {core : Option Nat} {injected : Bool} (h : Changes s₀ s) : Changes s₀ (State.report s source cls ref caravanId core injected) := by
  unfold State.report
  try dsimp only
  repeat' (first | with_reducible assumption | with_reducible apply Changes.ite | with_reducible refine Changes.elim _ ?_ (fun b => ?_) | with_reducible apply Changes.ite_fst | with_reducible apply Changes.ite_snd | with_reducible refine Changes.foldl _ (fun v b hv => ?_) ?_ | with_reducible refine Changes.foldl_fst _ (fun v b hv => ?_) ?_ | with_reducible refine Changes.foldl_snd _ (fun v b hv => ?_) ?_ | dsimp only | split | refine Changes.of_fst_eq (by assumption) ?_ | with_reducible apply Changes.made | exact .left _ (by assumption) rfl rfl rfl rfl | exact .kept _ (by assumption) rfl rfl rfl rfl)

theorem State.hubRead_changes {s₀ : State} {s : State} {a : Nat} {n : Nat} (h : Changes s₀ s) : Changes s₀ (State.hubRead s a n) := by
  unfold State.hubRead
  try dsimp only
  repeat' (first | with_reducible assumption | with_reducible apply State.injectCheck_changes | with_reducible apply State.linkRx_changes | dsimp only | split)

theorem State.busError_changes {s₀ : State} {s : State} {src : Nat} {addr : Nat} {status : Nat} {write : Bool} (h : Changes s₀ s) : Changes s₀ (State.busError s src addr status write) := by
  unfold State.busError
  try dsimp only
  repeat' (first | with_reducible assumption | with_reducible apply State.fadd_changes | with_reducible apply State.rset_changes | dsimp only | split)

theorem State.journal_changes {s₀ : State} {s : State} {src : Nat} {session : Nat} {addr : Nat} {width : Nat} {value : Nat} {status : Nat} (h : Changes s₀ s) : Changes s₀ (State.journal s src session addr width value status) := by
  unfold State.journal
  try dsimp only
  repeat' (first | with_reducible assumption | with_reducible apply State.rset_changes | with_reducible apply State.fset_changes | dsimp only)

theorem State.writeEnd_changes {s₀ : State} {r : State × Nat} {src : Nat} {session : Nat} {addr : Nat} {width : Nat} {value : Nat} (h : Changes s₀ r.1) : Changes s₀ (State.writeEnd r src session addr width value) := by
  unfold State.writeEnd
  try dsimp only
  repeat' (first | with_reducible assumption | with_reducible apply State.busError_changes | with_reducible apply State.journal_changes | with_reducible apply Changes.ite | with_reducible refine Changes.elim _ ?_ (fun b => ?_) | with_reducible apply Changes.ite_fst | with_reducible apply Changes.ite_snd | with_reducible refine Changes.foldl _ (fun v b hv => ?_) ?_ | with_reducible refine Changes.foldl_fst _ (fun v b hv => ?_) ?_ | with_reducible refine Changes.foldl_snd _ (fun v b hv => ?_) ?_ | dsimp only | split | refine Changes.of_fst_eq (by assumption) ?_ | with_reducible apply Changes.made | exact .left _ (by assumption) rfl rfl rfl rfl | exact .kept _ (by assumption) rfl rfl rfl rfl)

theorem State.regCommand_changes {s₀ : State} {s : State} {src : Nat} {addr : Nat} {width : Nat} {value : Nat} {effect : State → State × Nat} (h : Changes s₀ s) (he : ∀ u, Changes s₀ u → Changes s₀ (effect u).1) : Changes s₀ (State.regCommand s src addr width value effect) := by
  unfold State.regCommand
  try dsimp only
  repeat' (first | with_reducible assumption | with_reducible apply he | with_reducible apply State.writeEnd_changes | dsimp only | split)

theorem State.readCommand_changes {s₀ : State} {s : State} {src : Nat} {addr : Nat} {effect : State → State × Nat} (h : Changes s₀ s) (he : ∀ u, Changes s₀ u → Changes s₀ (effect u).1) : Changes s₀ (State.readCommand s src addr effect) := by
  unfold State.readCommand
  try dsimp only
  repeat' (first | with_reducible assumption | with_reducible apply he | with_reducible apply State.busError_changes | with_reducible apply Changes.ite | with_reducible refine Changes.elim _ ?_ (fun b => ?_) | with_reducible apply Changes.ite_fst | with_reducible apply Changes.ite_snd | with_reducible refine Changes.foldl _ (fun v b hv => ?_) ?_ | with_reducible refine Changes.foldl_fst _ (fun v b hv => ?_) ?_ | with_reducible refine Changes.foldl_snd _ (fun v b hv => ?_) ?_ | dsimp only | split | refine Changes.of_fst_eq (by assumption) ?_ | with_reducible apply Changes.made | exact .left _ (by assumption) rfl rfl rfl rfl | exact .kept _ (by assumption) rfl rfl rfl rfl)

theorem State.plainWrite_changes {s₀ : State} {s : State} {a : Nat} {v : Nat} (h : Changes s₀ s) : Changes s₀ (State.plainWrite s a v) := by
  unfold State.plainWrite
  split
  · exact h
  · exact .reg _ _ h rfl rfl rfl rfl

theorem regCmd_changes {s₀ : State} {exists_ : Bool} {s : State} {src : Nat} {addr : Nat} {width : Nat} {value : Nat} {effect : State → State × Nat} (h : Changes s₀ s) (he : ∀ u, Changes s₀ u → Changes s₀ (effect u).1) : OutChanges s₀ (regCmd exists_ s src addr width value effect) := by
  unfold regCmd
  try dsimp only
  repeat' (first | with_reducible assumption | with_reducible apply he | with_reducible apply OutChanges.unit | with_reducible apply OutChanges.due | with_reducible apply State.regCommand_changes | dsimp only)

theorem readCmd_changes {s₀ : State} {exists_ : Bool} {s : State} {src : Nat} {addr : Nat} {effect : State → State × Nat} (h : Changes s₀ s) (he : ∀ u, Changes s₀ u → Changes s₀ (effect u).1) : OutChanges s₀ (readCmd exists_ s src addr effect) := by
  unfold readCmd
  try dsimp only
  repeat' (first | with_reducible assumption | with_reducible apply he | with_reducible apply OutChanges.unit | with_reducible apply OutChanges.due | with_reducible apply State.readCommand_changes | dsimp only)

end Sys2Proof.Machine
end

