-- ==== Sys2Proof/Laws/ChangesDrover.lean ====
section
/-! SUPPORT. The state after each definition of Sys2Proof/Machine/Drover.lean is reached by the model's own kinds of update. -/

namespace Sys2Proof.Machine

theorem State.setFlights_changes {s₀ : State} {s : State} {l : List Flight} (h : Changes s₀ s) : Changes s₀ (State.setFlights s l) := by
  unfold State.setFlights
  try dsimp only
  repeat' (first | with_reducible assumption | with_reducible apply Changes.ite | with_reducible refine Changes.elim _ ?_ (fun b => ?_) | with_reducible apply Changes.ite_fst | with_reducible apply Changes.ite_snd | with_reducible refine Changes.foldl _ (fun v b hv => ?_) ?_ | with_reducible refine Changes.foldl_fst _ (fun v b hv => ?_) ?_ | with_reducible refine Changes.foldl_snd _ (fun v b hv => ?_) ?_ | dsimp only | split | refine Changes.of_fst_eq (by assumption) ?_ | with_reducible apply Changes.made | exact .left _ (by assumption) rfl rfl rfl rfl | exact .kept _ (by assumption) rfl rfl rfl rfl)

theorem State.setCaravans_changes {s₀ : State} {s : State} {l : List Caravan} (h : Changes s₀ s) : Changes s₀ (State.setCaravans s l) := by
  unfold State.setCaravans
  try dsimp only
  repeat' (first | with_reducible assumption | with_reducible apply Changes.ite | with_reducible refine Changes.elim _ ?_ (fun b => ?_) | with_reducible apply Changes.ite_fst | with_reducible apply Changes.ite_snd | with_reducible refine Changes.foldl _ (fun v b hv => ?_) ?_ | with_reducible refine Changes.foldl_fst _ (fun v b hv => ?_) ?_ | with_reducible refine Changes.foldl_snd _ (fun v b hv => ?_) ?_ | dsimp only | split | refine Changes.of_fst_eq (by assumption) ?_ | with_reducible apply Changes.made | exact .left _ (by assumption) rfl rfl rfl rfl | exact .kept _ (by assumption) rfl rfl rfl rfl)

theorem State.setWithheld_changes {s₀ : State} {s : State} {l : List Withheld} (h : Changes s₀ s) : Changes s₀ (State.setWithheld s l) := by
  unfold State.setWithheld
  try dsimp only
  repeat' (first | with_reducible assumption | with_reducible apply Changes.ite | with_reducible refine Changes.elim _ ?_ (fun b => ?_) | with_reducible apply Changes.ite_fst | with_reducible apply Changes.ite_snd | with_reducible refine Changes.foldl _ (fun v b hv => ?_) ?_ | with_reducible refine Changes.foldl_fst _ (fun v b hv => ?_) ?_ | with_reducible refine Changes.foldl_snd _ (fun v b hv => ?_) ?_ | dsimp only | split | refine Changes.of_fst_eq (by assumption) ?_ | with_reducible apply Changes.made | exact .left _ (by assumption) rfl rfl rfl rfl | exact .kept _ (by assumption) rfl rfl rfl rfl)

theorem State.modFlight_changes {s₀ : State} {s : State} {r : DescRef} {g : Flight → Flight} (h : Changes s₀ s) : Changes s₀ (State.modFlight s r g) := by
  unfold State.modFlight
  try dsimp only
  repeat' (first | with_reducible assumption | with_reducible apply State.setFlights_changes | dsimp only)

theorem State.modCaravan_changes {s₀ : State} {s : State} {q : Nat} {idx : Nat} {g : Caravan → Caravan} (h : Changes s₀ s) : Changes s₀ (State.modCaravan s q idx g) := by
  unfold State.modCaravan
  try dsimp only
  repeat' (first | with_reducible assumption | with_reducible apply State.setCaravans_changes | dsimp only)

theorem State.latchWaits_changes {s₀ : State} {s : State} (h : Changes s₀ s) : Changes s₀ (State.latchWaits s) := by
  unfold State.latchWaits
  try dsimp only
  repeat' (first | with_reducible assumption | with_reducible apply State.setFlights_changes | dsimp only)

theorem State.tallyPut_changes {s₀ : State} {s : State} {n : Nat} {v : Nat} (h : Changes s₀ s) : Changes s₀ (State.tallyPut s n v) := by
  unfold State.tallyPut
  try dsimp only
  repeat' (first | with_reducible assumption | with_reducible apply State.fset_changes | with_reducible apply State.latchWaits_changes | dsimp only)

theorem State.signal_changes {s₀ : State} {s : State} {n : Nat} {inc : Nat} (h : Changes s₀ s) : Changes s₀ (State.signal s n inc) := by
  unfold State.signal
  try dsimp only
  repeat' (first | with_reducible assumption | with_reducible apply State.fadd_changes | with_reducible apply State.tallyPut_changes | dsimp only)

theorem State.deliver_changes {s₀ : State} {s : State} {l : List (Nat × Nat)} (h : Changes s₀ s) : Changes s₀ (State.deliver s l) := by
  unfold State.deliver
  try dsimp only
  repeat' (first | with_reducible assumption | with_reducible apply State.signal_changes | with_reducible refine Changes.foldl _ (fun v b hv => ?_) ?_ | dsimp only)

theorem State.reportFor_changes {s₀ : State} {s : State} {r : DescRef} {source : Nat} {cls : Nat} {injected : Bool} (h : Changes s₀ s) : Changes s₀ (State.reportFor s r source cls injected) := by
  unfold State.reportFor
  try dsimp only
  repeat' (first | with_reducible assumption | with_reducible apply State.report_changes | with_reducible apply State.modFlight_changes | with_reducible apply Changes.ite | with_reducible refine Changes.elim _ ?_ (fun b => ?_) | with_reducible apply Changes.ite_fst | with_reducible apply Changes.ite_snd | with_reducible refine Changes.foldl _ (fun v b hv => ?_) ?_ | with_reducible refine Changes.foldl_fst _ (fun v b hv => ?_) ?_ | with_reducible refine Changes.foldl_snd _ (fun v b hv => ?_) ?_ | dsimp only | split | refine Changes.of_fst_eq (by assumption) ?_)

theorem State.endFlight_changes {s₀ : State} {s : State} {r : DescRef} {status : Nat} (h : Changes s₀ s) : Changes s₀ (State.endFlight s r status) := by
  unfold State.endFlight
  try dsimp only
  repeat' (first | with_reducible assumption | with_reducible apply State.modFlight_changes | dsimp only)

theorem State.endFault_changes {s₀ : State} {s : State} {r : DescRef} {status : Nat} {source : Nat} (h : Changes s₀ s) : Changes s₀ (State.endFault s r status source) := by
  unfold State.endFault
  try dsimp only
  repeat' (first | with_reducible assumption | with_reducible apply State.endFlight_changes | with_reducible apply State.reportFor_changes | dsimp only)

theorem State.endCaravan_changes {s₀ : State} {s : State} {q : Nat} {idx : Nat} {from_ : Nat} {status : Nat} {running : Bool} (h : Changes s₀ s) : Changes s₀ (State.endCaravan s q idx from_ status running) := by
  unfold State.endCaravan
  try dsimp only
  repeat' (first | with_reducible assumption | with_reducible apply State.modCaravan_changes | with_reducible apply State.setFlights_changes | with_reducible apply Changes.ite | with_reducible refine Changes.elim _ ?_ (fun b => ?_) | with_reducible apply Changes.ite_fst | with_reducible apply Changes.ite_snd | with_reducible refine Changes.foldl _ (fun v b hv => ?_) ?_ | with_reducible refine Changes.foldl_fst _ (fun v b hv => ?_) ?_ | with_reducible refine Changes.foldl_snd _ (fun v b hv => ?_) ?_ | dsimp only | split | refine Changes.of_fst_eq (by assumption) ?_)

theorem State.settle_changes {s₀ : State} {s : State} {f : Flight} (h : Changes s₀ s) : Changes s₀ (State.settle s f) := by
  unfold State.settle
  try dsimp only
  repeat' (first | with_reducible assumption | with_reducible apply State.deliver_changes | with_reducible apply State.setWithheld_changes | dsimp only | split)

theorem State.completeFlight_changes {s₀ : State} {s : State} {r : DescRef} (h : Changes s₀ s) : Changes s₀ (State.completeFlight s r) := by
  unfold State.completeFlight
  try dsimp only
  repeat' (first | with_reducible assumption | with_reducible apply State.settle_changes | with_reducible apply State.modFlight_changes | with_reducible apply State.modCaravan_changes | dsimp only | split)

theorem State.releaseOne_changes {s₀ : State} {s : State} {r : DescRef} (h : Changes s₀ s) : Changes s₀ (State.releaseOne s r) := by
  unfold State.releaseOne
  try dsimp only
  repeat' (first | with_reducible assumption | with_reducible apply State.setWithheld_changes | with_reducible apply State.modFlight_changes | with_reducible apply State.deliver_changes | with_reducible refine Changes.foldl _ (fun v b hv => ?_) ?_ | dsimp only)

theorem State.releaseSignals_changes {s₀ : State} {s : State} {r : DescRef} (h : Changes s₀ s) : Changes s₀ (State.releaseSignals s r) := by
  unfold State.releaseSignals
  try dsimp only
  repeat' (first | with_reducible assumption | with_reducible apply State.releaseOne_changes | dsimp only | split)

theorem State.haltQueue_changes {s₀ : State} {s : State} {q : Nat} {cause : Nat} (h : Changes s₀ s) : Changes s₀ (State.haltQueue s q cause) := by
  unfold State.haltQueue
  try dsimp only
  repeat' (first | with_reducible assumption | with_reducible apply State.fset_changes | dsimp only | split)

theorem State.updateDrained_changes {s₀ : State} {s : State} {q : Nat} (h : Changes s₀ s) : Changes s₀ (State.updateDrained s q) := by
  unfold State.updateDrained
  try dsimp only
  repeat' (first | with_reducible assumption | with_reducible apply State.fset_changes | dsimp only | split)

theorem State.pushTaken_changes {s₀ : State} {s : State} {q : Nat} {n : Nat} (h : Changes s₀ s) : Changes s₀ (State.pushTaken s q n) := by
  unfold State.pushTaken
  try dsimp only
  repeat' (first | with_reducible assumption | with_reducible apply State.fset_changes | with_reducible apply Changes.ite | with_reducible refine Changes.elim _ ?_ (fun b => ?_) | with_reducible apply Changes.ite_fst | with_reducible apply Changes.ite_snd | with_reducible refine Changes.foldl _ (fun v b hv => ?_) ?_ | with_reducible refine Changes.foldl_fst _ (fun v b hv => ?_) ?_ | with_reducible refine Changes.foldl_snd _ (fun v b hv => ?_) ?_ | dsimp only | split | refine Changes.of_fst_eq (by assumption) ?_ | with_reducible apply Changes.made | exact .left _ (by assumption) rfl rfl rfl rfl | exact .kept _ (by assumption) rfl rfl rfl rfl)

theorem State.pushRefusal_changes {s₀ : State} {s : State} {q : Nat} (h : Changes s₀ s) : Changes s₀ (State.pushRefusal s q) := by
  unfold State.pushRefusal
  try dsimp only
  repeat' (first | with_reducible assumption | with_reducible apply State.fadd_changes | with_reducible apply State.fset_changes | dsimp only)

theorem State.pushDesc_changes {s₀ : State} {s : State} {q : Nat} {desc : Nat} (h : Changes s₀ s) : Changes s₀ (State.pushDesc s q desc).1 := by
  unfold State.pushDesc
  try dsimp only
  repeat' (first | with_reducible assumption | with_reducible apply State.pushRefusal_changes | with_reducible apply State.hubWrite_changes | with_reducible apply State.pushTaken_changes | with_reducible apply State.fset_changes | dsimp only | split)

theorem State.wayPut_changes {s₀ : State} {s : State} {w : Nat} {handle : Nat} {status : Nat} (h : Changes s₀ s) : Changes s₀ (State.wayPut s w handle status).1 := by
  unfold State.wayPut
  try dsimp only
  repeat' (first | with_reducible assumption | with_reducible apply State.pushRefusal_changes | with_reducible apply State.hubWrite_changes | with_reducible apply State.pushTaken_changes | with_reducible apply State.fset_changes | dsimp only | split)

theorem State.wayTake_changes {s₀ : State} {s : State} {w : Nat} (h : Changes s₀ s) : Changes s₀ (State.wayTake s w).1 := by
  unfold State.wayTake
  try dsimp only
  repeat' (first | with_reducible assumption | with_reducible apply State.fset_changes | with_reducible apply State.hubRead_changes | with_reducible apply Changes.ite | with_reducible refine Changes.elim _ ?_ (fun b => ?_) | with_reducible apply Changes.ite_fst | with_reducible apply Changes.ite_snd | with_reducible refine Changes.foldl _ (fun v b hv => ?_) ?_ | with_reducible refine Changes.foldl_fst _ (fun v b hv => ?_) ?_ | with_reducible refine Changes.foldl_snd _ (fun v b hv => ?_) ?_ | dsimp only | split | refine Changes.of_fst_eq (by assumption) ?_)

theorem State.modPwrCore_changes {s₀ : State} {s : State} {c : Nat} {g : PwrCore → PwrCore} (h : Changes s₀ s) : Changes s₀ (State.modPwrCore s c g) := by
  unfold State.modPwrCore
  try dsimp only
  repeat' (first | with_reducible assumption | with_reducible apply Changes.ite | with_reducible refine Changes.elim _ ?_ (fun b => ?_) | with_reducible apply Changes.ite_fst | with_reducible apply Changes.ite_snd | with_reducible refine Changes.foldl _ (fun v b hv => ?_) ?_ | with_reducible refine Changes.foldl_fst _ (fun v b hv => ?_) ?_ | with_reducible refine Changes.foldl_snd _ (fun v b hv => ?_) ?_ | dsimp only | split | refine Changes.of_fst_eq (by assumption) ?_ | with_reducible apply Changes.made | exact .left _ (by assumption) rfl rfl rfl rfl | exact .kept _ (by assumption) rfl rfl rfl rfl)

theorem State.notePhase_changes {s₀ : State} {s : State} {c : Nat} (h : Changes s₀ s) : Changes s₀ (State.notePhase s c) := by
  unfold State.notePhase
  try dsimp only
  repeat' (first | with_reducible assumption | with_reducible apply State.modPwrCore_changes | with_reducible apply Changes.ite | with_reducible refine Changes.elim _ ?_ (fun b => ?_) | with_reducible apply Changes.ite_fst | with_reducible apply Changes.ite_snd | with_reducible refine Changes.foldl _ (fun v b hv => ?_) ?_ | with_reducible refine Changes.foldl_fst _ (fun v b hv => ?_) ?_ | with_reducible refine Changes.foldl_snd _ (fun v b hv => ?_) ?_ | dsimp only | split | refine Changes.of_fst_eq (by assumption) ?_)

theorem State.setPhase_changes {s₀ : State} {s : State} {c : Nat} {p : Nat} (h : Changes s₀ s) : Changes s₀ (State.setPhase s c p) := by
  unfold State.setPhase
  try dsimp only
  repeat' (first | with_reducible assumption | with_reducible apply State.fset_changes | with_reducible apply State.notePhase_changes | dsimp only)

theorem State.addBusy_changes {s₀ : State} {s : State} {c : Nat} {e : Nat} {n : Nat} (h : Changes s₀ s) : Changes s₀ (State.addBusy s c e n) := by
  unfold State.addBusy
  try dsimp only
  repeat' (first | with_reducible assumption | with_reducible apply State.modPwrCore_changes | dsimp only)

end Sys2Proof.Machine
end

