-- ==== Sys2Proof/Laws/ChangesRation.lean ====
section
/-! SUPPORT. The state after each definition of Sys2Proof/Machine/Ration.lean is reached by the model's own kinds of update. -/

namespace Sys2Proof.Machine

theorem State.markExhausted_changes {s₀ : State} {s : State} {c : Nat} (h : Changes s₀ s) : Changes s₀ (State.markExhausted s c) := by
  unfold State.markExhausted
  try dsimp only
  repeat' (first | with_reducible assumption | with_reducible apply State.fset_changes | dsimp only | split)

theorem State.borrow_changes {s₀ : State} {s : State} {c : Nat} {n : Nat} (h : Changes s₀ s) : Changes s₀ (State.borrow s c n).1 := by
  unfold State.borrow
  try dsimp only
  repeat' (first | with_reducible assumption | with_reducible apply State.fadd_changes | with_reducible apply State.markExhausted_changes | with_reducible refine Changes.foldl_fst _ (fun v b hv => ?_) ?_ | dsimp only | split)

theorem State.issueTx_changes {s₀ : State} {s : State} {c : Nat} {n : Nat} (h : Changes s₀ s) : Changes s₀ (State.issueTx s c n).1 := by
  unfold State.issueTx
  try dsimp only
  repeat' (first | with_reducible assumption | with_reducible apply State.markExhausted_changes | with_reducible apply State.fadd_changes | with_reducible apply State.borrow_changes | dsimp only)

theorem State.holdTx_changes {s₀ : State} {s : State} {c : Nat} {n : Nat} {op : optParam HeldOp HeldOp.none} (h : Changes s₀ s) : Changes s₀ (State.holdTx s c n op) := by
  unfold State.holdTx
  try dsimp only
  repeat' (first | with_reducible assumption | with_reducible apply State.fadd_changes | with_reducible apply Changes.ite | with_reducible refine Changes.elim _ ?_ (fun b => ?_) | with_reducible apply Changes.ite_fst | with_reducible apply Changes.ite_snd | with_reducible refine Changes.foldl _ (fun v b hv => ?_) ?_ | with_reducible refine Changes.foldl_fst _ (fun v b hv => ?_) ?_ | with_reducible refine Changes.foldl_snd _ (fun v b hv => ?_) ?_ | dsimp only | split | refine Changes.of_fst_eq (by assumption) ?_ | with_reducible apply Changes.made | exact .left _ (by assumption) rfl rfl rfl rfl | exact .kept _ (by assumption) rfl rfl rfl rfl)

theorem State.chargeTx_changes {s₀ : State} {s : State} {c : Nat} {n : Nat} {op : optParam HeldOp HeldOp.none} (h : Changes s₀ s) : Changes s₀ (State.chargeTx s c n op) := by
  unfold State.chargeTx
  try dsimp only
  repeat' (first | with_reducible assumption | with_reducible apply State.holdTx_changes | with_reducible apply State.issueTx_changes | with_reducible apply Changes.ite | with_reducible refine Changes.elim _ ?_ (fun b => ?_) | with_reducible apply Changes.ite_fst | with_reducible apply Changes.ite_snd | with_reducible refine Changes.foldl _ (fun v b hv => ?_) ?_ | with_reducible refine Changes.foldl_fst _ (fun v b hv => ?_) ?_ | with_reducible refine Changes.foldl_snd _ (fun v b hv => ?_) ?_ | dsimp only | split | refine Changes.of_fst_eq (by assumption) ?_)

theorem State.chargeFor_changes {s₀ : State} {s : State} {c : Nat} {n : Nat} {op : HeldOp} {act : State → State} (h : Changes s₀ s) (he : ∀ u, Changes s₀ u → Changes s₀ (act u)) : Changes s₀ (State.chargeFor s c n op act) := by
  unfold State.chargeFor
  try dsimp only
  repeat' (first | with_reducible assumption | with_reducible apply he | with_reducible apply State.chargeTx_changes | with_reducible apply Changes.ite | with_reducible refine Changes.elim _ ?_ (fun b => ?_) | with_reducible apply Changes.ite_fst | with_reducible apply Changes.ite_snd | with_reducible refine Changes.foldl _ (fun v b hv => ?_) ?_ | with_reducible refine Changes.foldl_fst _ (fun v b hv => ?_) ?_ | with_reducible refine Changes.foldl_snd _ (fun v b hv => ?_) ?_ | dsimp only | split | refine Changes.of_fst_eq (by assumption) ?_)

theorem State.chargedWrite_changes {s₀ : State} {s : State} {c : Nat} {a : Nat} {bs : List Byte} (h : Changes s₀ s) : Changes s₀ (State.chargedWrite s c a bs) := by
  unfold State.chargedWrite
  try dsimp only
  repeat' (first | with_reducible assumption | with_reducible apply State.chargeFor_changes | with_reducible apply State.hubWrite_changes | with_reducible apply Changes.ite | with_reducible refine Changes.elim _ ?_ (fun b => ?_) | with_reducible apply Changes.ite_fst | with_reducible apply Changes.ite_snd | with_reducible refine Changes.foldl _ (fun v b hv => ?_) ?_ | with_reducible refine Changes.foldl_fst _ (fun v b hv => ?_) ?_ | with_reducible refine Changes.foldl_snd _ (fun v b hv => ?_) ?_ | dsimp only | split | with_reducible refine fun _ _ hu => ?_ | with_reducible refine fun _ hu => ?_ | refine Changes.of_fst_eq (by assumption) ?_)

theorem State.withHeld_changes {s₀ : State} {s : State} {c : Nat} (h : Changes s₀ s) : Changes s₀ (State.withHeld s c) := by
  unfold State.withHeld
  try dsimp only
  repeat' (first | with_reducible assumption | with_reducible apply State.dramWrite_changes | with_reducible apply Changes.ite | with_reducible refine Changes.elim _ ?_ (fun b => ?_) | with_reducible apply Changes.ite_fst | with_reducible apply Changes.ite_snd | with_reducible refine Changes.foldl _ (fun v b hv => ?_) ?_ | with_reducible refine Changes.foldl_fst _ (fun v b hv => ?_) ?_ | with_reducible refine Changes.foldl_snd _ (fun v b hv => ?_) ?_ | dsimp only | split | refine Changes.of_fst_eq (by assumption) ?_)

theorem State.dropHeld_changes {s₀ : State} {s : State} {c : Nat} (h : Changes s₀ s) : Changes s₀ (State.dropHeld s c) := by
  unfold State.dropHeld
  try dsimp only
  repeat' (first | with_reducible assumption | with_reducible apply Changes.ite | with_reducible refine Changes.elim _ ?_ (fun b => ?_) | with_reducible apply Changes.ite_fst | with_reducible apply Changes.ite_snd | with_reducible refine Changes.foldl _ (fun v b hv => ?_) ?_ | with_reducible refine Changes.foldl_fst _ (fun v b hv => ?_) ?_ | with_reducible refine Changes.foldl_snd _ (fun v b hv => ?_) ?_ | dsimp only | split | refine Changes.of_fst_eq (by assumption) ?_ | with_reducible apply Changes.made | exact .left _ (by assumption) rfl rfl rfl rfl | exact .kept _ (by assumption) rfl rfl rfl rfl)

theorem State.dropWrites_changes {s₀ : State} {s : State} {c : Nat} {lo : Nat} {hi : Nat} (h : Changes s₀ s) : Changes s₀ (State.dropWrites s c lo hi) := by
  unfold State.dropWrites
  try dsimp only
  repeat' (first | with_reducible assumption | with_reducible apply Changes.ite | with_reducible refine Changes.elim _ ?_ (fun b => ?_) | with_reducible apply Changes.ite_fst | with_reducible apply Changes.ite_snd | with_reducible refine Changes.foldl _ (fun v b hv => ?_) ?_ | with_reducible refine Changes.foldl_fst _ (fun v b hv => ?_) ?_ | with_reducible refine Changes.foldl_snd _ (fun v b hv => ?_) ?_ | dsimp only | split | refine Changes.of_fst_eq (by assumption) ?_ | with_reducible apply Changes.made | exact .left _ (by assumption) rfl rfl rfl rfl | exact .kept _ (by assumption) rfl rfl rfl rfl)

theorem State.releaseHeld_changes {s₀ : State} {s : State} {c : Nat} (h : Changes s₀ s) : Changes s₀ (State.releaseHeld s c).1 := by
  unfold State.releaseHeld
  try dsimp only
  repeat' (first | with_reducible assumption | with_reducible apply State.issueTx_changes | with_reducible apply State.dropHeld_changes | with_reducible apply State.fset_changes | with_reducible apply State.fadd_changes | with_reducible apply Changes.ite | with_reducible refine Changes.elim _ ?_ (fun b => ?_) | with_reducible apply Changes.ite_fst | with_reducible apply Changes.ite_snd | with_reducible refine Changes.foldl _ (fun v b hv => ?_) ?_ | with_reducible refine Changes.foldl_fst _ (fun v b hv => ?_) ?_ | with_reducible refine Changes.foldl_snd _ (fun v b hv => ?_) ?_ | dsimp only | split | refine Changes.of_fst_eq (by assumption) ?_ | with_reducible apply Changes.made | exact .left _ (by assumption) rfl rfl rfl rfl | exact .kept _ (by assumption) rfl rfl rfl rfl)

theorem State.newPeriod_changes {s₀ : State} {s : State} {c : Nat} (h : Changes s₀ s) : Changes s₀ (State.newPeriod s c) := by
  unfold State.newPeriod
  try dsimp only
  repeat' (first | with_reducible assumption | with_reducible apply State.fset_changes | dsimp only)

theorem State.takeRations_changes {s₀ : State} {s : State} (h : Changes s₀ s) : Changes s₀ (State.takeRations s) := by
  unfold State.takeRations
  try dsimp only
  repeat' (first | with_reducible assumption | with_reducible apply Changes.ite | with_reducible refine Changes.elim _ ?_ (fun b => ?_) | with_reducible apply Changes.ite_fst | with_reducible apply Changes.ite_snd | with_reducible refine Changes.foldl _ (fun v b hv => ?_) ?_ | with_reducible refine Changes.foldl_fst _ (fun v b hv => ?_) ?_ | with_reducible refine Changes.foldl_snd _ (fun v b hv => ?_) ?_ | dsimp only | split | refine Changes.of_fst_eq (by assumption) ?_ | with_reducible apply Changes.made | exact .left _ (by assumption) rfl rfl rfl rfl | exact .kept _ (by assumption) rfl rfl rfl rfl)

theorem State.rationBoundary_changes {s₀ : State} {s : State} (h : Changes s₀ s) : Changes s₀ (State.rationBoundary s).1 := by
  unfold State.rationBoundary
  try dsimp only
  repeat' (first | with_reducible assumption | with_reducible apply State.newPeriod_changes | with_reducible apply State.takeRations_changes | with_reducible apply State.markExhausted_changes | with_reducible apply State.releaseHeld_changes | with_reducible apply State.fadd_changes | with_reducible apply Changes.ite | with_reducible refine Changes.elim _ ?_ (fun b => ?_) | with_reducible apply Changes.ite_fst | with_reducible apply Changes.ite_snd | with_reducible refine Changes.foldl _ (fun v b hv => ?_) ?_ | with_reducible refine Changes.foldl_fst _ (fun v b hv => ?_) ?_ | with_reducible refine Changes.foldl_snd _ (fun v b hv => ?_) ?_ | dsimp only | split | refine Changes.of_fst_eq (by assumption) ?_ | with_reducible apply Changes.made | exact .left _ (by assumption) rfl rfl rfl rfl | exact .kept _ (by assumption) rfl rfl rfl rfl)

end Sys2Proof.Machine
end

