-- ==== Sys2Proof/Laws/ChangesClock.lean ====
section
/-! SUPPORT. The state after each definition of Sys2Proof/Machine/Clock.lean is reached by the model's own kinds of update. -/

namespace Sys2Proof.Machine

theorem State.enterHoldover_changes {s₀ : State} {s : State} (h : Changes s₀ s) : Changes s₀ (State.enterHoldover s) := by
  unfold State.enterHoldover
  try dsimp only
  repeat' (first | with_reducible assumption | with_reducible apply State.fset_changes | with_reducible apply Changes.ite | with_reducible refine Changes.elim _ ?_ (fun b => ?_) | with_reducible apply Changes.ite_fst | with_reducible apply Changes.ite_snd | with_reducible refine Changes.foldl _ (fun v b hv => ?_) ?_ | with_reducible refine Changes.foldl_fst _ (fun v b hv => ?_) ?_ | with_reducible refine Changes.foldl_snd _ (fun v b hv => ?_) ?_ | dsimp only | split | refine Changes.of_fst_eq (by assumption) ?_ | with_reducible apply Changes.made | exact .left _ (by assumption) rfl rfl rfl rfl | exact .kept _ (by assumption) rfl rfl rfl rfl)

theorem State.timeLost_changes {s₀ : State} {s : State} (h : Changes s₀ s) : Changes s₀ (State.timeLost s) := by
  unfold State.timeLost
  try dsimp only
  repeat' (first | with_reducible assumption | with_reducible apply State.enterHoldover_changes | with_reducible apply State.fset_changes | dsimp only)

theorem State.stopClocks_changes {s₀ : State} {s : State} (h : Changes s₀ s) : Changes s₀ (State.stopClocks s) := by
  unfold State.stopClocks
  try dsimp only
  repeat' (first | with_reducible assumption | with_reducible apply State.rebaseAll_changes | with_reducible apply Changes.ite | with_reducible refine Changes.elim _ ?_ (fun b => ?_) | with_reducible apply Changes.ite_fst | with_reducible apply Changes.ite_snd | with_reducible refine Changes.foldl _ (fun v b hv => ?_) ?_ | with_reducible refine Changes.foldl_fst _ (fun v b hv => ?_) ?_ | with_reducible refine Changes.foldl_snd _ (fun v b hv => ?_) ?_ | dsimp only | split | refine Changes.of_fst_eq (by assumption) ?_ | with_reducible apply Changes.made | exact .left _ (by assumption) rfl rfl rfl rfl | exact .kept _ (by assumption) rfl rfl rfl rfl)

theorem State.startClocks_changes {s₀ : State} {s : State} (h : Changes s₀ s) : Changes s₀ (State.startClocks s) := by
  unfold State.startClocks
  try dsimp only
  repeat' (first | with_reducible assumption | with_reducible apply State.fset_changes | with_reducible apply State.rebaseAll_changes | with_reducible apply Changes.ite | with_reducible refine Changes.elim _ ?_ (fun b => ?_) | with_reducible apply Changes.ite_fst | with_reducible apply Changes.ite_snd | with_reducible refine Changes.foldl _ (fun v b hv => ?_) ?_ | with_reducible refine Changes.foldl_fst _ (fun v b hv => ?_) ?_ | with_reducible refine Changes.foldl_snd _ (fun v b hv => ?_) ?_ | dsimp only | split | refine Changes.of_fst_eq (by assumption) ?_ | with_reducible apply Changes.made | exact .left _ (by assumption) rfl rfl rfl rfl | exact .kept _ (by assumption) rfl rfl rfl rfl)

theorem execClocksStart_changes {s₀ : State} {s : State} (h : Changes s₀ s) : OutChanges s₀ (execClocksStart s) := by
  unfold execClocksStart
  try dsimp only
  repeat' (first | with_reducible assumption | with_reducible apply OutChanges.unit | with_reducible apply OutChanges.due | with_reducible apply OutChanges.next | with_reducible apply OutChanges.fault | with_reducible apply OutChanges.ite | with_reducible apply State.fset_changes | with_reducible apply State.startClocks_changes | with_reducible apply Changes.ite | with_reducible refine Changes.elim _ ?_ (fun b => ?_) | with_reducible apply Changes.ite_fst | with_reducible apply Changes.ite_snd | with_reducible refine Changes.foldl _ (fun v b hv => ?_) ?_ | with_reducible refine Changes.foldl_fst _ (fun v b hv => ?_) ?_ | with_reducible refine Changes.foldl_snd _ (fun v b hv => ?_) ?_ | dsimp only | split | refine Changes.of_fst_eq (by assumption) ?_ | with_reducible apply Changes.made | exact .left _ (by assumption) rfl rfl rfl rfl | exact .kept _ (by assumption) rfl rfl rfl rfl)

theorem execPllLockLoss_changes {s₀ : State} {s : State} (h : Changes s₀ s) : OutChanges s₀ (execPllLockLoss s) := by
  unfold execPllLockLoss
  try dsimp only
  repeat' (first | with_reducible assumption | with_reducible apply OutChanges.due | with_reducible apply State.fset_changes | with_reducible apply State.report_changes | with_reducible apply State.timeLost_changes | with_reducible apply State.stopClocks_changes | dsimp only)

theorem execReferenceLoss_changes {s₀ : State} {s : State} (h : Changes s₀ s) : OutChanges s₀ (execReferenceLoss s) := by
  unfold execReferenceLoss
  try dsimp only
  repeat' (first | with_reducible assumption | with_reducible apply OutChanges.unit | with_reducible apply OutChanges.due | with_reducible apply OutChanges.next | with_reducible apply OutChanges.fault | with_reducible apply OutChanges.ite | with_reducible apply State.fset_changes | with_reducible apply State.report_changes | with_reducible apply State.timeLost_changes | with_reducible apply State.stopClocks_changes | with_reducible apply Changes.ite | with_reducible refine Changes.elim _ ?_ (fun b => ?_) | with_reducible apply Changes.ite_fst | with_reducible apply Changes.ite_snd | with_reducible refine Changes.foldl _ (fun v b hv => ?_) ?_ | with_reducible refine Changes.foldl_fst _ (fun v b hv => ?_) ?_ | with_reducible refine Changes.foldl_snd _ (fun v b hv => ?_) ?_ | dsimp only | split | refine Changes.of_fst_eq (by assumption) ?_ | with_reducible apply Changes.made | exact .left _ (by assumption) rfl rfl rfl rfl | exact .kept _ (by assumption) rfl rfl rfl rfl)

theorem execClocksRestart_changes {s₀ : State} {s : State} (h : Changes s₀ s) : OutChanges s₀ (execClocksRestart s) := by
  unfold execClocksRestart
  try dsimp only
  repeat' (first | with_reducible assumption | with_reducible apply OutChanges.due | with_reducible apply State.startClocks_changes | dsimp only)

theorem State.applyStep_changes {s₀ : State} {s : State} {c : Nat} (h : Changes s₀ s) : Changes s₀ (State.applyStep s c) := by
  unfold State.applyStep
  try dsimp only
  repeat' (first | with_reducible assumption | with_reducible apply State.fadd_changes | with_reducible apply State.fset_changes | with_reducible apply State.rebaseArr_changes | with_reducible apply Changes.ite | with_reducible refine Changes.elim _ ?_ (fun b => ?_) | with_reducible apply Changes.ite_fst | with_reducible apply Changes.ite_snd | with_reducible refine Changes.foldl _ (fun v b hv => ?_) ?_ | with_reducible refine Changes.foldl_fst _ (fun v b hv => ?_) ?_ | with_reducible refine Changes.foldl_snd _ (fun v b hv => ?_) ?_ | dsimp only | split | refine Changes.of_fst_eq (by assumption) ?_ | with_reducible apply Changes.made | exact .left _ (by assumption) rfl rfl rfl rfl | exact .kept _ (by assumption) rfl rfl rfl rfl)

theorem State.requestStep_changes {s₀ : State} {s : State} {c : Nat} {st : Nat} (h : Changes s₀ s) : Changes s₀ (State.requestStep s c st) := by
  unfold State.requestStep
  try dsimp only
  repeat' (first | with_reducible assumption | with_reducible apply Changes.ite | with_reducible refine Changes.elim _ ?_ (fun b => ?_) | with_reducible apply Changes.ite_fst | with_reducible apply Changes.ite_snd | with_reducible refine Changes.foldl _ (fun v b hv => ?_) ?_ | with_reducible refine Changes.foldl_fst _ (fun v b hv => ?_) ?_ | with_reducible refine Changes.foldl_snd _ (fun v b hv => ?_) ?_ | dsimp only | split | refine Changes.of_fst_eq (by assumption) ?_ | with_reducible apply Changes.made | exact .left _ (by assumption) rfl rfl rfl rfl | exact .kept _ (by assumption) rfl rfl rfl rfl)

theorem execLinkReplay_changes {s₀ : State} {link : Nat} {bytes : Nat} {ok : Bool} {s : State} (h : Changes s₀ s) : OutChanges s₀ (execLinkReplay link bytes ok s) := by
  unfold execLinkReplay
  try dsimp only
  repeat' (first | with_reducible assumption | with_reducible apply OutChanges.unit | with_reducible apply OutChanges.due | with_reducible apply OutChanges.next | with_reducible apply OutChanges.fault | with_reducible apply OutChanges.ite | with_reducible apply State.fset_changes | with_reducible apply State.fadd_changes | with_reducible apply State.report_changes | with_reducible apply State.linkRx_changes | with_reducible apply Changes.ite | with_reducible refine Changes.elim _ ?_ (fun b => ?_) | with_reducible apply Changes.ite_fst | with_reducible apply Changes.ite_snd | with_reducible refine Changes.foldl _ (fun v b hv => ?_) ?_ | with_reducible refine Changes.foldl_fst _ (fun v b hv => ?_) ?_ | with_reducible refine Changes.foldl_snd _ (fun v b hv => ?_) ?_ | dsimp only | split | refine Changes.of_fst_eq (by assumption) ?_ | with_reducible apply Changes.made | exact .left _ (by assumption) rfl rfl rfl rfl | exact .kept _ (by assumption) rfl rfl rfl rfl)

end Sys2Proof.Machine
end

