-- ==== Sys2Proof/Laws/ChangesScratch.lean ====
section
/-! SUPPORT. The state after each definition of Sys2Proof/Machine/Scratch.lean is reached by the model's own kinds of update. -/

namespace Sys2Proof.Machine

theorem State.queueCorrection_changes {s₀ : State} {s : State} {c : Nat} {sp : Nat} {e : CorrEntry} (h : Changes s₀ s) : Changes s₀ (State.queueCorrection s c sp e) := by
  unfold State.queueCorrection
  try dsimp only
  repeat' (first | with_reducible assumption | with_reducible apply State.modCore_changes | dsimp only)

theorem State.eccFound_changes {s₀ : State} {s : State} {c : Nat} {sp : Nat} {a : Nat} {syn : Nat} {ref : Option DescRef} (h : Changes s₀ s) : Changes s₀ (State.eccFound s c sp a syn ref) := by
  unfold State.eccFound
  try dsimp only
  repeat' (first | with_reducible assumption | with_reducible apply State.fset_changes | with_reducible apply State.fadd_changes | with_reducible apply State.rset_changes | with_reducible apply State.queueCorrection_changes | with_reducible apply State.reportFor_changes | with_reducible apply State.report_changes | dsimp only | split)

theorem State.eccRead_changes {s₀ : State} {s : State} {c : Nat} {sp : Nat} {b : Nat} {n : Nat} {ref : Option DescRef} (h : Changes s₀ s) : Changes s₀ (State.eccRead s c sp b n ref) := by
  unfold State.eccRead
  try dsimp only
  repeat' (first | with_reducible assumption | with_reducible apply State.eccFound_changes | with_reducible refine Changes.foldl _ (fun v b hv => ?_) ?_ | dsimp only | split)

theorem State.bankWrite_changes {s₀ : State} {s : State} {c : Nat} {sp : Nat} {r : Nat} {ws : List (Option (Nat × Bool))} {st : StampOp} (h : Changes s₀ s) : Changes s₀ (State.bankWrite s c sp r ws st) := by
  unfold State.bankWrite
  try dsimp only
  repeat' (first | with_reducible assumption | with_reducible apply State.fset_changes | with_reducible apply State.setPoison_changes | with_reducible apply State.writeLE_changes | with_reducible apply State.modCore_changes | with_reducible apply Changes.ite | with_reducible refine Changes.elim _ ?_ (fun b => ?_) | with_reducible apply Changes.ite_fst | with_reducible apply Changes.ite_snd | with_reducible refine Changes.foldl _ (fun v b hv => ?_) ?_ | with_reducible refine Changes.foldl_fst _ (fun v b hv => ?_) ?_ | with_reducible refine Changes.foldl_snd _ (fun v b hv => ?_) ?_ | dsimp only | split | refine Changes.of_fst_eq (by assumption) ?_ | with_reducible apply Changes.made | exact .left _ (by assumption) rfl rfl rfl rfl | exact .kept _ (by assumption) rfl rfl rfl rfl)

theorem State.discardFault_changes {s₀ : State} {s : State} {c : Nat} {r : DescRef} (h : Changes s₀ s) : Changes s₀ (State.discardFault s c r) := by
  unfold State.discardFault
  try dsimp only
  repeat' (first | with_reducible assumption | with_reducible apply State.modFlight_changes | with_reducible apply State.reportFor_changes | with_reducible apply Changes.ite | with_reducible refine Changes.elim _ ?_ (fun b => ?_) | with_reducible apply Changes.ite_fst | with_reducible apply Changes.ite_snd | with_reducible refine Changes.foldl _ (fun v b hv => ?_) ?_ | with_reducible refine Changes.foldl_fst _ (fun v b hv => ?_) ?_ | with_reducible refine Changes.foldl_snd _ (fun v b hv => ?_) ?_ | dsimp only | split | refine Changes.of_fst_eq (by assumption) ?_)

theorem State.zeroDiscard_changes {s₀ : State} {s : State} {c : Nat} {ref : Option DescRef} (h : Changes s₀ s) : Changes s₀ (State.zeroDiscard s c ref) := by
  unfold State.zeroDiscard
  try dsimp only
  repeat' (first | with_reducible assumption | with_reducible apply State.fset_changes | with_reducible apply State.fadd_changes | with_reducible apply State.discardFault_changes | with_reducible apply State.report_changes | with_reducible apply Changes.ite | with_reducible refine Changes.elim _ ?_ (fun b => ?_) | with_reducible apply Changes.ite_fst | with_reducible apply Changes.ite_snd | with_reducible refine Changes.foldl _ (fun v b hv => ?_) ?_ | with_reducible refine Changes.foldl_fst _ (fun v b hv => ?_) ?_ | with_reducible refine Changes.foldl_snd _ (fun v b hv => ?_) ?_ | dsimp only | split | refine Changes.of_fst_eq (by assumption) ?_)

theorem State.rowWrite_changes {s₀ : State} {s : State} {c : Nat} {sp : Nat} {r : Nat} {ws : List (Option (Nat × Bool))} {st : StampOp} {task : Option Nat} {ref : Option DescRef} (h : Changes s₀ s) : Changes s₀ (State.rowWrite s c sp r ws st task ref) := by
  unfold State.rowWrite
  try dsimp only
  repeat' (first | with_reducible assumption | with_reducible apply State.zeroDiscard_changes | with_reducible apply State.bankWrite_changes | dsimp only | split)

theorem State.mayCollide_changes {s₀ : State} {s : State} {c : Nat} (h : Changes s₀ s) : Changes s₀ (State.mayCollide s c) := by
  unfold State.mayCollide
  try dsimp only
  repeat' (first | with_reducible assumption | with_reducible apply State.free_changes | with_reducible apply State.fset_changes | with_reducible apply State.fadd_changes | with_reducible apply Changes.ite | with_reducible refine Changes.elim _ ?_ (fun b => ?_) | with_reducible apply Changes.ite_fst | with_reducible apply Changes.ite_snd | with_reducible refine Changes.foldl _ (fun v b hv => ?_) ?_ | with_reducible refine Changes.foldl_fst _ (fun v b hv => ?_) ?_ | with_reducible refine Changes.foldl_snd _ (fun v b hv => ?_) ?_ | dsimp only | split | refine Changes.of_fst_eq (by assumption) ?_)

theorem State.spWriteWords_changes {s₀ : State} {s : State} {c : Nat} {sp : Nat} {b : Nat} {ws : List (Nat × Bool)} {st : StampOp} {task : Option Nat} {ref : Option DescRef} (h : Changes s₀ s) : Changes s₀ (State.spWriteWords s c sp b ws st task ref) := by
  unfold State.spWriteWords
  try dsimp only
  repeat' (first | with_reducible assumption | with_reducible apply State.rowWrite_changes | with_reducible refine Changes.foldl _ (fun v b hv => ?_) ?_ | dsimp only)

theorem State.phRemove_changes {s₀ : State} {s : State} {c : Nat} {row : Nat} (h : Changes s₀ s) : Changes s₀ (State.phRemove s c row) := by
  unfold State.phRemove
  try dsimp only
  repeat' (first | with_reducible assumption | with_reducible apply State.modCore_changes | dsimp only)

theorem State.phDiscard_changes {s₀ : State} {s : State} {c : Nat} {e : PhEntry} (h : Changes s₀ s) : Changes s₀ (State.phDiscard s c e) := by
  unfold State.phDiscard
  try dsimp only
  repeat' (first | with_reducible assumption | with_reducible apply State.zeroDiscard_changes | with_reducible apply State.discardFault_changes | with_reducible apply Changes.ite | with_reducible refine Changes.elim _ ?_ (fun b => ?_) | with_reducible apply Changes.ite_fst | with_reducible apply Changes.ite_snd | with_reducible refine Changes.foldl _ (fun v b hv => ?_) ?_ | with_reducible refine Changes.foldl_fst _ (fun v b hv => ?_) ?_ | with_reducible refine Changes.foldl_snd _ (fun v b hv => ?_) ?_ | dsimp only | split | refine Changes.of_fst_eq (by assumption) ?_)

theorem State.phRetries_changes {s₀ : State} {s : State} {c : Nat} (h : Changes s₀ s) : Changes s₀ (State.phRetries s c) := by
  unfold State.phRetries
  try dsimp only
  repeat' (first | with_reducible assumption | with_reducible apply State.free_changes | with_reducible apply State.fadd_changes | with_reducible apply Changes.ite | with_reducible refine Changes.elim _ ?_ (fun b => ?_) | with_reducible apply Changes.ite_fst | with_reducible apply Changes.ite_snd | with_reducible refine Changes.foldl _ (fun v b hv => ?_) ?_ | with_reducible refine Changes.foldl_fst _ (fun v b hv => ?_) ?_ | with_reducible refine Changes.foldl_snd _ (fun v b hv => ?_) ?_ | dsimp only | split | refine Changes.of_fst_eq (by assumption) ?_)

theorem State.phDrain_changes {s₀ : State} {s : State} {c : Nat} {e : PhEntry} (h : Changes s₀ s) : Changes s₀ (State.phDrain s c e) := by
  unfold State.phDrain
  try dsimp only
  repeat' (first | with_reducible assumption | with_reducible apply State.phRemove_changes | with_reducible apply State.phDiscard_changes | with_reducible apply State.phRetries_changes | with_reducible apply State.eccRead_changes | with_reducible apply State.mayCollide_changes | with_reducible apply State.bankWrite_changes | with_reducible apply State.fadd_changes | with_reducible apply Changes.ite | with_reducible refine Changes.elim _ ?_ (fun b => ?_) | with_reducible apply Changes.ite_fst | with_reducible apply Changes.ite_snd | with_reducible refine Changes.foldl _ (fun v b hv => ?_) ?_ | with_reducible refine Changes.foldl_fst _ (fun v b hv => ?_) ?_ | with_reducible refine Changes.foldl_snd _ (fun v b hv => ?_) ?_ | dsimp only | split | refine Changes.of_fst_eq (by assumption) ?_)

theorem State.phDrainAll_changes {s₀ : State} {s : State} {c : Nat} {p : PhEntry → Bool} (h : Changes s₀ s) : Changes s₀ (State.phDrainAll s c p) := by
  unfold State.phDrainAll
  try dsimp only
  repeat' (first | with_reducible assumption | with_reducible apply State.phDrain_changes | with_reducible refine Changes.foldl _ (fun v b hv => ?_) ?_ | dsimp only)

theorem State.phWriteRow_changes {s₀ : State} {s : State} {c : Nat} {row : Nat} {off : Nat} {bs : List Byte} {poison : Nat} {task : Option Nat} {ref : Option DescRef} (h : Changes s₀ s) : Changes s₀ (State.phWriteRow s c row off bs poison task ref) := by
  unfold State.phWriteRow
  try dsimp only
  repeat' (first | with_reducible assumption | with_reducible apply State.phDrain_changes | with_reducible apply State.modCore_changes | with_reducible apply Changes.ite | with_reducible refine Changes.elim _ ?_ (fun b => ?_) | with_reducible apply Changes.ite_fst | with_reducible apply Changes.ite_snd | with_reducible refine Changes.foldl _ (fun v b hv => ?_) ?_ | with_reducible refine Changes.foldl_fst _ (fun v b hv => ?_) ?_ | with_reducible refine Changes.foldl_snd _ (fun v b hv => ?_) ?_ | dsimp only | split | with_reducible refine fun _ _ hu => ?_ | with_reducible refine fun _ hu => ?_ | refine Changes.of_fst_eq (by assumption) ?_)

theorem State.phView_changes {s₀ : State} {s : State} {c : Nat} (h : Changes s₀ s) : Changes s₀ (State.phView s c) := by
  unfold State.phView
  try dsimp only
  repeat' (first | with_reducible assumption | with_reducible apply State.phDrainAll_changes | dsimp only)

theorem execPackhorseDrain_changes {s₀ : State} {c : Nat} {row : Nat} {s : State} (h : Changes s₀ s) : OutChanges s₀ (execPackhorseDrain c row s) := by
  unfold execPackhorseDrain
  try dsimp only
  repeat' (first | with_reducible assumption | with_reducible apply OutChanges.unit | with_reducible apply OutChanges.due | with_reducible apply OutChanges.next | with_reducible apply OutChanges.fault | with_reducible apply OutChanges.ite | with_reducible apply State.phDrain_changes | with_reducible apply Changes.ite | with_reducible refine Changes.elim _ ?_ (fun b => ?_) | with_reducible apply Changes.ite_fst | with_reducible apply Changes.ite_snd | with_reducible refine Changes.foldl _ (fun v b hv => ?_) ?_ | with_reducible refine Changes.foldl_fst _ (fun v b hv => ?_) ?_ | with_reducible refine Changes.foldl_snd _ (fun v b hv => ?_) ?_ | dsimp only | split | refine Changes.of_fst_eq (by assumption) ?_)

theorem execCorrectionWriteBack_changes {s₀ : State} {c : Nat} {sp : Nat} {s : State} (h : Changes s₀ s) : OutChanges s₀ (execCorrectionWriteBack c sp s) := by
  unfold execCorrectionWriteBack
  try dsimp only
  repeat' (first | with_reducible assumption | with_reducible apply OutChanges.unit | with_reducible apply OutChanges.due | with_reducible apply OutChanges.next | with_reducible apply State.bankWrite_changes | dsimp only | split)

theorem State.scrubPassEnd_changes {s₀ : State} {s : State} {c : Nat} (h : Changes s₀ s) : Changes s₀ (State.scrubPassEnd s c) := by
  unfold State.scrubPassEnd
  try dsimp only
  repeat' (first | with_reducible assumption | with_reducible apply State.fset_changes | with_reducible apply State.fadd_changes | with_reducible apply State.modCore_changes | dsimp only | split)

theorem execScrubRead_changes {s₀ : State} {c : Nat} {sp : Nat} {bank : Nat} {s : State} (h : Changes s₀ s) : OutChanges s₀ (execScrubRead c sp bank s) := by
  unfold execScrubRead
  try dsimp only
  repeat' (first | with_reducible assumption | with_reducible apply OutChanges.unit | with_reducible apply OutChanges.due | with_reducible apply OutChanges.next | with_reducible apply OutChanges.fault | with_reducible apply OutChanges.ite | with_reducible apply State.eccRead_changes | with_reducible apply State.modCore_changes | with_reducible apply State.scrubPassEnd_changes | with_reducible apply Changes.ite | with_reducible refine Changes.elim _ ?_ (fun b => ?_) | with_reducible apply Changes.ite_fst | with_reducible apply Changes.ite_snd | with_reducible refine Changes.foldl _ (fun v b hv => ?_) ?_ | with_reducible refine Changes.foldl_fst _ (fun v b hv => ?_) ?_ | with_reducible refine Changes.foldl_snd _ (fun v b hv => ?_) ?_ | dsimp only | split | with_reducible refine fun _ _ hu => ?_ | with_reducible refine fun _ hu => ?_ | refine Changes.of_fst_eq (by assumption) ?_)

theorem eccInjectEffect_changes {s₀ : State} {c : Nat} {v : Nat} {s : State} (h : Changes s₀ s) : Changes s₀ (eccInjectEffect c v s).1 := by
  unfold eccInjectEffect
  try dsimp only
  repeat' (first | with_reducible assumption | with_reducible apply State.rset_changes | dsimp only)

theorem execEccInjectArm_changes {s₀ : State} {src : Nat} {c : Nat} {v : Nat} {s : State} (h : Changes s₀ s) : OutChanges s₀ (execEccInjectArm src c v s) := by
  unfold execEccInjectArm
  try dsimp only
  repeat' (first | with_reducible assumption | with_reducible apply regCmd_changes | with_reducible apply eccInjectEffect_changes | dsimp only)

theorem taskReleaseEffect_changes {s₀ : State} {c : Nat} {mask : Nat} {s : State} (h : Changes s₀ s) : Changes s₀ (taskReleaseEffect c mask s).1 := by
  unfold taskReleaseEffect
  try dsimp only
  repeat' (first | with_reducible assumption | with_reducible apply State.modCore_changes | dsimp only)

theorem execTaskRelease_changes {s₀ : State} {src : Nat} {c : Nat} {mask : Nat} {s : State} (h : Changes s₀ s) : OutChanges s₀ (execTaskRelease src c mask s) := by
  unfold execTaskRelease
  try dsimp only
  repeat' (first | with_reducible assumption | with_reducible apply regCmd_changes | with_reducible apply taskReleaseEffect_changes | dsimp only)

theorem State.killZero_changes {s₀ : State} {s : State} {c : Nat} {n : Nat} (h : Changes s₀ s) : Changes s₀ (State.killZero s c n) := by
  unfold State.killZero
  try dsimp only
  repeat' (first | with_reducible assumption | with_reducible apply State.modCore_changes | dsimp only)

theorem State.zeroBegin_changes {s₀ : State} {s : State} {c : Nat} {n : Nat} (h : Changes s₀ s) : Changes s₀ (State.zeroBegin s c n) := by
  unfold State.zeroBegin
  try dsimp only
  repeat' (first | with_reducible assumption | with_reducible apply State.fset_changes | with_reducible apply State.modCore_changes | with_reducible apply State.phDiscard_changes | with_reducible apply Changes.ite | with_reducible refine Changes.elim _ ?_ (fun b => ?_) | with_reducible apply Changes.ite_fst | with_reducible apply Changes.ite_snd | with_reducible refine Changes.foldl _ (fun v b hv => ?_) ?_ | with_reducible refine Changes.foldl_fst _ (fun v b hv => ?_) ?_ | with_reducible refine Changes.foldl_snd _ (fun v b hv => ?_) ?_ | dsimp only | split | with_reducible refine fun _ _ hu => ?_ | with_reducible refine fun _ hu => ?_ | refine Changes.of_fst_eq (by assumption) ?_)

theorem execZeroingBegin_changes {s₀ : State} {c : Nat} {n : Nat} {s : State} (h : Changes s₀ s) : OutChanges s₀ (execZeroingBegin c n s) := by
  unfold execZeroingBegin
  try dsimp only
  repeat' (first | with_reducible assumption | with_reducible apply OutChanges.unit | with_reducible apply OutChanges.due | with_reducible apply State.zeroBegin_changes | dsimp only)

theorem State.zeroRows_changes {s₀ : State} {s : State} {c : Nat} {sp : Nat} {lo : Nat} {hi : Nat} (h : Changes s₀ s) : Changes s₀ (State.zeroRows s c sp lo hi) := by
  unfold State.zeroRows
  dsimp only
  split
  · exact h
  · exact .left _ h rfl rfl rfl rfl

theorem execZeroingComplete_changes {s₀ : State} {c : Nat} {n : Nat} {s : State} (h : Changes s₀ s) : OutChanges s₀ (execZeroingComplete c n s) := by
  unfold execZeroingComplete
  try dsimp only
  repeat' (first | with_reducible assumption | with_reducible apply OutChanges.unit | with_reducible apply OutChanges.due | with_reducible apply OutChanges.next | with_reducible apply State.zeroRows_changes | with_reducible apply State.fset_changes | with_reducible apply State.modCore_changes | with_reducible refine Changes.foldl _ (fun v b hv => ?_) ?_ | dsimp only | split)

theorem State.windowRead_changes {s₀ : State} {s : State} {c : Nat} {o : Nat} {n : Nat} (h : Changes s₀ s) : Changes s₀ (State.windowRead s c o n).1 := by
  unfold State.windowRead
  try dsimp only
  repeat' (first | with_reducible assumption | with_reducible apply State.eccRead_changes | dsimp only | split)

theorem State.windowWrite_changes {s₀ : State} {s : State} {c : Nat} {o : Nat} {n : Nat} {v : Nat} (h : Changes s₀ s) : Changes s₀ (State.windowWrite s c o n v).1 := by
  unfold State.windowWrite
  try dsimp only
  repeat' (first | with_reducible assumption | with_reducible apply State.phWriteRow_changes | with_reducible apply State.phDrainAll_changes | dsimp only | split)

theorem State.windowPut_changes {s₀ : State} {s : State} {c : Nat} {o : Nat} {w : Nat} {v : Nat} (h : Changes s₀ s) : Changes s₀ (State.windowPut s c o w v).1 := by
  unfold State.windowPut
  try dsimp only
  repeat' (first | with_reducible assumption | with_reducible apply State.windowWrite_changes | with_reducible apply Changes.ite | with_reducible refine Changes.elim _ ?_ (fun b => ?_) | with_reducible apply Changes.ite_fst | with_reducible apply Changes.ite_snd | with_reducible refine Changes.foldl _ (fun v b hv => ?_) ?_ | with_reducible refine Changes.foldl_fst _ (fun v b hv => ?_) ?_ | with_reducible refine Changes.foldl_snd _ (fun v b hv => ?_) ?_ | dsimp only | split | refine Changes.of_fst_eq (by assumption) ?_)

theorem State.windowAccess_changes {s₀ : State} {s : State} {a : Access} (h : Changes s₀ s) : Changes s₀ (State.windowAccess s a).1 := by
  unfold State.windowAccess
  try dsimp only
  repeat' (first | with_reducible assumption | with_reducible apply State.windowPut_changes | with_reducible apply State.linkTx_changes | with_reducible apply State.windowRead_changes | with_reducible apply State.linkRx_changes | with_reducible apply Changes.ite | with_reducible refine Changes.elim _ ?_ (fun b => ?_) | with_reducible apply Changes.ite_fst | with_reducible apply Changes.ite_snd | with_reducible refine Changes.foldl _ (fun v b hv => ?_) ?_ | with_reducible refine Changes.foldl_fst _ (fun v b hv => ?_) ?_ | with_reducible refine Changes.foldl_snd _ (fun v b hv => ?_) ?_ | dsimp only | split | refine Changes.of_fst_eq (by assumption) ?_)

theorem State.memAccess_changes {s₀ : State} {s : State} {a : Access} (h : Changes s₀ s) : Changes s₀ (State.memAccess s a).1 := by
  unfold State.memAccess
  try dsimp only
  repeat' (first | with_reducible assumption | with_reducible apply State.hubWrite_changes | with_reducible apply State.hubRead_changes | with_reducible apply State.writeLE_changes | with_reducible apply State.injectCheck_changes | with_reducible apply Changes.ite | with_reducible refine Changes.elim _ ?_ (fun b => ?_) | with_reducible apply Changes.ite_fst | with_reducible apply Changes.ite_snd | with_reducible refine Changes.foldl _ (fun v b hv => ?_) ?_ | with_reducible refine Changes.foldl_fst _ (fun v b hv => ?_) ?_ | with_reducible refine Changes.foldl_snd _ (fun v b hv => ?_) ?_ | dsimp only | split | refine Changes.of_fst_eq (by assumption) ?_)

theorem State.memorySide_changes {s₀ : State} {s : State} {src : Nat} {a : Access} (h : Changes s₀ s) : Changes s₀ (State.memorySide s src a).1 := by
  unfold State.memorySide
  try dsimp only
  repeat' (first | with_reducible assumption | with_reducible apply State.windowAccess_changes | with_reducible apply State.memAccess_changes | with_reducible apply State.busError_changes | with_reducible apply Changes.ite | with_reducible refine Changes.elim _ ?_ (fun b => ?_) | with_reducible apply Changes.ite_fst | with_reducible apply Changes.ite_snd | with_reducible refine Changes.foldl _ (fun v b hv => ?_) ?_ | with_reducible refine Changes.foldl_fst _ (fun v b hv => ?_) ?_ | with_reducible refine Changes.foldl_snd _ (fun v b hv => ?_) ?_ | dsimp only | split | refine Changes.of_fst_eq (by assumption) ?_ | with_reducible apply Changes.made | exact .left _ (by assumption) rfl rfl rfl rfl | exact .kept _ (by assumption) rfl rfl rfl rfl)

theorem State.memoryCommand_changes {s₀ : State} {s : State} {src : Nat} {a : Access} (h : Changes s₀ s) : Changes s₀ (State.memoryCommand s src a) := by
  unfold State.memoryCommand
  try dsimp only
  repeat' (first | with_reducible assumption | with_reducible apply State.chargeFor_changes | with_reducible apply State.memorySide_changes | with_reducible apply Changes.ite | with_reducible refine Changes.elim _ ?_ (fun b => ?_) | with_reducible apply Changes.ite_fst | with_reducible apply Changes.ite_snd | with_reducible refine Changes.foldl _ (fun v b hv => ?_) ?_ | with_reducible refine Changes.foldl_fst _ (fun v b hv => ?_) ?_ | with_reducible refine Changes.foldl_snd _ (fun v b hv => ?_) ?_ | dsimp only | split | with_reducible refine fun _ _ hu => ?_ | with_reducible refine fun _ hu => ?_ | refine Changes.of_fst_eq (by assumption) ?_)

theorem execScratchpadWindowAccess_changes {s₀ : State} {src : Nat} {a : Access} {s : State} (h : Changes s₀ s) : OutChanges s₀ (execScratchpadWindowAccess src a s) := by
  unfold execScratchpadWindowAccess
  try dsimp only
  repeat' (first | with_reducible assumption | with_reducible apply OutChanges.unit | with_reducible apply OutChanges.due | with_reducible apply OutChanges.next | with_reducible apply OutChanges.fault | with_reducible apply OutChanges.ite | with_reducible apply State.memoryCommand_changes | with_reducible apply Changes.ite | with_reducible refine Changes.elim _ ?_ (fun b => ?_) | with_reducible apply Changes.ite_fst | with_reducible apply Changes.ite_snd | with_reducible refine Changes.foldl _ (fun v b hv => ?_) ?_ | with_reducible refine Changes.foldl_fst _ (fun v b hv => ?_) ?_ | with_reducible refine Changes.foldl_snd _ (fun v b hv => ?_) ?_ | dsimp only | split | refine Changes.of_fst_eq (by assumption) ?_)

end Sys2Proof.Machine
end

