-- ==== Sys2Proof/Laws/ChangesWeightCache.lean ====
section
/-! SUPPORT. The state after each definition of Sys2Proof/Machine/WeightCache.lean is reached by the model's own kinds of update. -/

namespace Sys2Proof.Machine

theorem State.fillDone_changes {s₀ : State} {s : State} {x : Nat} (h : Changes s₀ s) : Changes s₀ (State.fillDone s x) := by
  unfold State.fillDone
  try dsimp only
  repeat' (first | with_reducible assumption | with_reducible apply Changes.ite | with_reducible refine Changes.elim _ ?_ (fun b => ?_) | with_reducible apply Changes.ite_fst | with_reducible apply Changes.ite_snd | with_reducible refine Changes.foldl _ (fun v b hv => ?_) ?_ | with_reducible refine Changes.foldl_fst _ (fun v b hv => ?_) ?_ | with_reducible refine Changes.foldl_snd _ (fun v b hv => ?_) ?_ | dsimp only | split | refine Changes.of_fst_eq (by assumption) ?_ | with_reducible apply Changes.made | exact .left _ (by assumption) rfl rfl rfl rfl | exact .kept _ (by assumption) rfl rfl rfl rfl)

theorem State.wcLookup_changes {s₀ : State} {s : State} {c : Nat} {k : Nat} {line : Nat} (h : Changes s₀ s) : Changes s₀ (State.wcLookup s c k line).1 := by
  unfold State.wcLookup
  try dsimp only
  repeat' (first | with_reducible assumption | with_reducible apply State.fadd_changes | with_reducible apply State.free_changes | with_reducible apply State.fillDone_changes | with_reducible apply State.injectCheck_changes | with_reducible apply State.fset_changes | with_reducible apply State.modCore_changes | with_reducible apply Changes.ite | with_reducible refine Changes.elim _ ?_ (fun b => ?_) | with_reducible apply Changes.ite_fst | with_reducible apply Changes.ite_snd | with_reducible refine Changes.foldl _ (fun v b hv => ?_) ?_ | with_reducible refine Changes.foldl_fst _ (fun v b hv => ?_) ?_ | with_reducible refine Changes.foldl_snd _ (fun v b hv => ?_) ?_ | dsimp only | split | with_reducible refine fun _ _ hu => ?_ | with_reducible refine fun _ hu => ?_ | refine Changes.of_fst_eq (by assumption) ?_ | with_reducible apply Changes.made | exact .left _ (by assumption) rfl rfl rfl rfl | exact .kept _ (by assumption) rfl rfl rfl rfl)

theorem State.wcRead_changes {s₀ : State} {s : State} {c : Nat} {a : Nat} {n : Nat} (h : Changes s₀ s) : Changes s₀ (State.wcRead s c a n).1 := by
  unfold State.wcRead
  try dsimp only
  repeat' (first | with_reducible assumption | with_reducible apply State.wcLookup_changes | with_reducible apply Changes.ite | with_reducible refine Changes.elim _ ?_ (fun b => ?_) | with_reducible apply Changes.ite_fst | with_reducible apply Changes.ite_snd | with_reducible refine Changes.foldl _ (fun v b hv => ?_) ?_ | with_reducible refine Changes.foldl_fst _ (fun v b hv => ?_) ?_ | with_reducible refine Changes.foldl_snd _ (fun v b hv => ?_) ?_ | dsimp only | split | refine Changes.of_fst_eq (by assumption) ?_)

theorem wcCtrlEffect_changes {s₀ : State} {k : Nat} {v : Nat} {s : State} (h : Changes s₀ s) : Changes s₀ (wcCtrlEffect k v s).1 := by
  unfold wcCtrlEffect
  try dsimp only
  repeat' (first | with_reducible assumption | with_reducible apply State.fset_changes | dsimp only | split)

theorem execWcInvalidate_changes {s₀ : State} {src : Nat} {k : Nat} {v : Nat} {s : State} (h : Changes s₀ s) : OutChanges s₀ (execWcInvalidate src k v s) := by
  unfold execWcInvalidate
  try dsimp only
  repeat' (first | with_reducible assumption | with_reducible apply regCmd_changes | with_reducible apply wcCtrlEffect_changes | dsimp only)

theorem State.wcClear_changes {s₀ : State} {s : State} {k : Nat} (h : Changes s₀ s) : Changes s₀ (State.wcClear s k) := by
  unfold State.wcClear
  try dsimp only
  repeat' (first | with_reducible assumption | with_reducible apply State.fadd_changes | with_reducible apply Changes.ite | with_reducible refine Changes.elim _ ?_ (fun b => ?_) | with_reducible apply Changes.ite_fst | with_reducible apply Changes.ite_snd | with_reducible refine Changes.foldl _ (fun v b hv => ?_) ?_ | with_reducible refine Changes.foldl_fst _ (fun v b hv => ?_) ?_ | with_reducible refine Changes.foldl_snd _ (fun v b hv => ?_) ?_ | dsimp only | split | refine Changes.of_fst_eq (by assumption) ?_ | with_reducible apply Changes.made | exact .left _ (by assumption) rfl rfl rfl rfl | exact .kept _ (by assumption) rfl rfl rfl rfl)

theorem execWcInvalidateDone_changes {s₀ : State} {k : Nat} {s : State} (h : Changes s₀ s) : OutChanges s₀ (execWcInvalidateDone k s) := by
  unfold execWcInvalidateDone
  try dsimp only
  repeat' (first | with_reducible assumption | with_reducible apply OutChanges.unit | with_reducible apply OutChanges.due | with_reducible apply State.fset_changes | with_reducible apply State.wcClear_changes | dsimp only)

end Sys2Proof.Machine
end

