-- ==== Sys2Proof/Laws/ChangesMover.lean ====
section
/-! SUPPORT. The state after each definition of Sys2Proof/Machine/Mover.lean is reached by the model's own kinds of update. -/

namespace Sys2Proof.Machine

/-- The run of a pair that a match has named. -/
theorem Changes.of_run_eq {s : State} {r : MovRun} {α : Type} {p : MovRun × α} {x : α} (e : p = (r, x)) (h : Changes s p.1.s) :
    Changes s r.s := by
  subst e
  exact h

theorem movRead_changes {s₀ : State} {r : MovRun} {c : Nat} {t : TaskLatch} {sp : Nat} {a : Nat} {n : Nat} (h : Changes s₀ r.s) : Changes s₀ (movRead r c t sp a n).1 := by
  unfold movRead
  try dsimp only
  repeat' (first | with_reducible assumption | with_reducible apply State.free_changes | with_reducible refine Changes.foldl_fst _ (fun v b hv => ?_) ?_ | dsimp only | split)

theorem State.phBefore_changes {s₀ : State} {s : State} {c : Nat} {row : Nat} {ref : Option DescRef} (h : Changes s₀ s) : Changes s₀ (State.phBefore s c row ref) := by
  unfold State.phBefore
  try dsimp only
  repeat' (first | with_reducible assumption | with_reducible apply State.phDrain_changes | with_reducible apply Changes.ite | with_reducible refine Changes.elim _ ?_ (fun b => ?_) | with_reducible apply Changes.ite_fst | with_reducible apply Changes.ite_snd | with_reducible refine Changes.foldl _ (fun v b hv => ?_) ?_ | with_reducible refine Changes.foldl_fst _ (fun v b hv => ?_) ?_ | with_reducible refine Changes.foldl_snd _ (fun v b hv => ?_) ?_ | dsimp only | split | refine Changes.of_fst_eq (by assumption) ?_ | refine Changes.of_run_eq (by assumption) ?_)

theorem State.narrowWrite_changes {s₀ : State} {s : State} {c : Nat} {sp : Nat} {b : Nat} {bs : List (Byte × Bool)} {task : Option Nat} {ref : Option DescRef} (h : Changes s₀ s) : Changes s₀ (State.narrowWrite s c sp b bs task ref) := by
  unfold State.narrowWrite
  try dsimp only
  repeat' (first | with_reducible assumption | with_reducible apply State.rowWrite_changes | with_reducible apply State.phBefore_changes | with_reducible apply State.phWriteRow_changes | with_reducible apply Changes.ite | with_reducible refine Changes.elim _ ?_ (fun b => ?_) | with_reducible apply Changes.ite_fst | with_reducible apply Changes.ite_snd | with_reducible refine Changes.foldl _ (fun v b hv => ?_) ?_ | with_reducible refine Changes.foldl_fst _ (fun v b hv => ?_) ?_ | with_reducible refine Changes.foldl_snd _ (fun v b hv => ?_) ?_ | dsimp only | split | refine Changes.of_fst_eq (by assumption) ?_ | refine Changes.of_run_eq (by assumption) ?_)

theorem State.dramWritePoison_changes {s₀ : State} {s : State} {a : Nat} {bs : List (Byte × Bool)} (h : Changes s₀ s) : Changes s₀ (State.dramWritePoison s a bs) := by
  unfold State.dramWritePoison
  try dsimp only
  repeat' (first | with_reducible assumption | with_reducible apply State.dramWriteMarked_changes | dsimp only)

theorem State.crossLink_changes {s₀ : State} {s : State} {c : Nat} {a : Nat} {n : Nat} {write : Bool} (h : Changes s₀ s) : Changes s₀ (State.crossLink s c a n write) := by
  unfold State.crossLink
  try dsimp only
  repeat' (first | with_reducible assumption | with_reducible apply State.linkTx_changes | with_reducible apply State.linkRx_changes | dsimp only | split)

theorem movChecks_changes {s₀ : State} {c : Nat} {ref : DescRef} {weight : Bool} {ssp : Nat} {a : Nat} {n : Nat} {s : State} (h : Changes s₀ s) : Changes s₀ (movChecks c ref weight ssp a n s).1 := by
  unfold movChecks
  try dsimp only
  repeat' (first | with_reducible assumption | with_reducible apply State.eccRead_changes | with_reducible apply State.wcRead_changes | with_reducible apply State.crossLink_changes | with_reducible apply State.injectCheck_changes | with_reducible apply Changes.ite | with_reducible refine Changes.elim _ ?_ (fun b => ?_) | with_reducible apply Changes.ite_fst | with_reducible apply Changes.ite_snd | with_reducible refine Changes.foldl _ (fun v b hv => ?_) ?_ | with_reducible refine Changes.foldl_fst _ (fun v b hv => ?_) ?_ | with_reducible refine Changes.foldl_snd _ (fun v b hv => ?_) ?_ | dsimp only | split | refine Changes.of_fst_eq (by assumption) ?_ | refine Changes.of_run_eq (by assumption) ?_)

theorem State.movCollide_changes {s₀ : State} {s : State} {c : Nat} {sp : Nat} {o : Nat} {n : Nat} {task : Option Nat} (h : Changes s₀ s) : Changes s₀ (State.movCollide s c sp o n task) := by
  unfold State.movCollide
  try dsimp only
  repeat' (first | with_reducible assumption | with_reducible apply State.mayCollide_changes | with_reducible apply Changes.ite | with_reducible refine Changes.elim _ ?_ (fun b => ?_) | with_reducible apply Changes.ite_fst | with_reducible apply Changes.ite_snd | with_reducible refine Changes.foldl _ (fun v b hv => ?_) ?_ | with_reducible refine Changes.foldl_fst _ (fun v b hv => ?_) ?_ | with_reducible refine Changes.foldl_snd _ (fun v b hv => ?_) ?_ | dsimp only | split | refine Changes.of_fst_eq (by assumption) ?_ | refine Changes.of_run_eq (by assumption) ?_)

theorem movRun_changes {s₀ : State} {c : Nat} {t : TaskLatch} {ref : DescRef} {weight : Bool} {ssp : Nat} {a : Nat} {dsp : Nat} {b : Nat} {n : Nat} {r : MovRun} (h : Changes s₀ r.s) : Changes s₀ (movRun c t ref weight ssp a dsp b n r).s := by
  unfold movRun
  try dsimp only
  repeat' (first | with_reducible assumption | with_reducible apply movChecks_changes | with_reducible apply MovRun.s_changes | with_reducible apply movRead_changes | with_reducible apply State.crossLink_changes | with_reducible apply State.dramWritePoison_changes | with_reducible apply State.movCollide_changes | with_reducible apply State.narrowWrite_changes | with_reducible apply State.fadd_changes | with_reducible apply State.fset_changes | with_reducible apply Changes.ite | with_reducible refine Changes.elim _ ?_ (fun b => ?_) | with_reducible apply Changes.ite_fst | with_reducible apply Changes.ite_snd | with_reducible refine Changes.foldl _ (fun v b hv => ?_) ?_ | with_reducible refine Changes.foldl_fst _ (fun v b hv => ?_) ?_ | with_reducible refine Changes.foldl_snd _ (fun v b hv => ?_) ?_ | dsimp only | split | refine Changes.of_fst_eq (by assumption) ?_ | refine Changes.of_run_eq (by assumption) ?_)

theorem movRuns_changes {s₀ : State} {c : Nat} {t : TaskLatch} {ref : DescRef} {k : Nat} {b : Block} {ss : Nat × Nat} {ds : Nat × Nat} {y7 : List Nat} {y8 : MovRun} (h : Changes s₀ y8.s) : Changes s₀ (movRuns c t ref k b ss ds y7 y8).1.s := by
  fun_induction movRuns c t ref k b ss ds y7 y8
  all_goals try dsimp only
  all_goals repeat' (first | with_reducible assumption | with_reducible apply State.chargeTx_changes | with_reducible apply movRun_changes | with_reducible apply Changes.ite | dsimp only | rename_i ih; with_reducible apply ih)

theorem movBlocks_changes {s₀ : State} {c : Nat} {t : TaskLatch} {ref : DescRef} {e : Option WayEntry} {y4 : Nat} {y5 : Nat} {y6 : List Block} {y7 : MovRun} (h : Changes s₀ y7.s) : Changes s₀ (movBlocks c t ref e y4 y5 y6 y7).1.s := by
  fun_induction movBlocks c t ref e y4 y5 y6 y7
  all_goals try dsimp only
  all_goals repeat' (first | with_reducible assumption | with_reducible apply movRuns_changes | dsimp only | refine Changes.of_run_eq (by assumption) ?_ | rename_i ih; with_reducible apply ih)

theorem State.putBack_changes {s₀ : State} {s : State} {c : Nat} {f : Flight} {status : Nat} (h : Changes s₀ s) : Changes s₀ (State.putBack s c f status) := by
  unfold State.putBack
  try dsimp only
  repeat' (first | with_reducible assumption | with_reducible apply State.wayPut_changes | with_reducible apply State.modFlight_changes | with_reducible apply State.fset_changes | with_reducible apply State.fadd_changes | dsimp only | split)

theorem State.movStop_changes {s₀ : State} {s : State} {c : Nat} {ref : DescRef} {st : Stop} {malformed_ : Bool} (h : Changes s₀ s) : Changes s₀ (State.movStop s c ref st malformed_) := by
  unfold State.movStop
  try dsimp only
  repeat' (first | with_reducible assumption | with_reducible apply State.fset_changes | with_reducible apply State.endFault_changes | with_reducible apply State.putBack_changes | with_reducible apply Changes.ite | with_reducible refine Changes.elim _ ?_ (fun b => ?_) | with_reducible apply Changes.ite_fst | with_reducible apply Changes.ite_snd | with_reducible refine Changes.foldl _ (fun v b hv => ?_) ?_ | with_reducible refine Changes.foldl_fst _ (fun v b hv => ?_) ?_ | with_reducible refine Changes.foldl_snd _ (fun v b hv => ?_) ?_ | dsimp only | split | refine Changes.of_fst_eq (by assumption) ?_ | refine Changes.of_run_eq (by assumption) ?_)

theorem State.outstandingMax_changes {s₀ : State} {s : State} {c : Nat} {n : Nat} (h : Changes s₀ s) : Changes s₀ (State.outstandingMax s c n) := by
  unfold State.outstandingMax
  try dsimp only
  repeat' (first | with_reducible assumption | with_reducible apply State.free_changes | with_reducible apply State.fset_changes | dsimp only | split)

theorem State.setMover_changes {s₀ : State} {s : State} {c : Nat} {w : Option MovWork} (h : Changes s₀ s) : Changes s₀ (State.setMover s c w) := by
  unfold State.setMover
  try dsimp only
  repeat' (first | with_reducible assumption | with_reducible apply State.modCore_changes | with_reducible apply Changes.ite | with_reducible refine Changes.elim _ ?_ (fun b => ?_) | with_reducible apply Changes.ite_fst | with_reducible apply Changes.ite_snd | with_reducible refine Changes.foldl _ (fun v b hv => ?_) ?_ | with_reducible refine Changes.foldl_fst _ (fun v b hv => ?_) ?_ | with_reducible refine Changes.foldl_snd _ (fun v b hv => ?_) ?_ | dsimp only | split | with_reducible refine fun _ _ hu => ?_ | with_reducible refine fun _ hu => ?_ | refine Changes.of_fst_eq (by assumption) ?_ | refine Changes.of_run_eq (by assumption) ?_)

theorem movDone_changes {s₀ : State} {ref : DescRef} {poison : Bool} {s : State} (h : Changes s₀ s) : Changes s₀ (movDone ref poison s) := by
  unfold movDone
  try dsimp only
  repeat' (first | with_reducible assumption | with_reducible apply State.endFlight_changes | with_reducible apply State.modFlight_changes | with_reducible apply Changes.ite | with_reducible refine Changes.elim _ ?_ (fun b => ?_) | with_reducible apply Changes.ite_fst | with_reducible apply Changes.ite_snd | with_reducible refine Changes.foldl _ (fun v b hv => ?_) ?_ | with_reducible refine Changes.foldl_fst _ (fun v b hv => ?_) ?_ | with_reducible refine Changes.foldl_snd _ (fun v b hv => ?_) ?_ | dsimp only | split | refine Changes.of_fst_eq (by assumption) ?_ | refine Changes.of_run_eq (by assumption) ?_)

theorem movTransfer_changes {s₀ : State} {c : Nat} {f : Flight} {w : MovWork} {s : State} (h : Changes s₀ s) : Changes s₀ (movTransfer c f w s) := by
  unfold movTransfer
  try dsimp only
  repeat' (first | with_reducible assumption | with_reducible apply State.setMover_changes | with_reducible apply State.movStop_changes | with_reducible apply movBlocks_changes | with_reducible apply State.outstandingMax_changes | with_reducible apply MovRun.s_changes | with_reducible apply movDone_changes | with_reducible apply State.modCore_changes | with_reducible apply Changes.ite | with_reducible refine Changes.elim _ ?_ (fun b => ?_) | with_reducible apply Changes.ite_fst | with_reducible apply Changes.ite_snd | with_reducible refine Changes.foldl _ (fun v b hv => ?_) ?_ | with_reducible refine Changes.foldl_fst _ (fun v b hv => ?_) ?_ | with_reducible refine Changes.foldl_snd _ (fun v b hv => ?_) ?_ | dsimp only | split | with_reducible refine fun _ _ hu => ?_ | with_reducible refine fun _ hu => ?_ | refine Changes.of_fst_eq (by assumption) ?_ | refine Changes.of_run_eq (by assumption) ?_)

theorem movGo_changes {s₀ : State} {c : Nat} {f : Flight} {w : MovWork} {s : State} (h : Changes s₀ s) : Changes s₀ (movGo c f w s) := by
  unfold movGo
  try dsimp only
  repeat' (first | with_reducible assumption | with_reducible apply movTransfer_changes | with_reducible apply State.wayTake_changes | with_reducible apply State.modFlight_changes | with_reducible apply Changes.ite | with_reducible refine Changes.elim _ ?_ (fun b => ?_) | with_reducible apply Changes.ite_fst | with_reducible apply Changes.ite_snd | with_reducible refine Changes.foldl _ (fun v b hv => ?_) ?_ | with_reducible refine Changes.foldl_fst _ (fun v b hv => ?_) ?_ | with_reducible refine Changes.foldl_snd _ (fun v b hv => ?_) ?_ | dsimp only | split | refine Changes.of_fst_eq (by assumption) ?_ | refine Changes.of_run_eq (by assumption) ?_)

theorem movStart_changes {s₀ : State} {c : Nat} {f : Flight} {s : State} (h : Changes s₀ s) : Changes s₀ (movStart c f s) := by
  unfold movStart
  try dsimp only
  repeat' (first | with_reducible assumption | with_reducible apply State.setPhase_changes | with_reducible apply State.chargeTx_changes | with_reducible apply State.crossLink_changes | with_reducible apply State.eccRead_changes | with_reducible apply State.movStop_changes | with_reducible apply movGo_changes | with_reducible apply State.setMover_changes | with_reducible apply State.modFlight_changes | with_reducible apply Changes.ite | with_reducible refine Changes.elim _ ?_ (fun b => ?_) | with_reducible apply Changes.ite_fst | with_reducible apply Changes.ite_snd | with_reducible refine Changes.foldl _ (fun v b hv => ?_) ?_ | with_reducible refine Changes.foldl_fst _ (fun v b hv => ?_) ?_ | with_reducible refine Changes.foldl_snd _ (fun v b hv => ?_) ?_ | dsimp only | split | refine Changes.of_fst_eq (by assumption) ?_ | refine Changes.of_run_eq (by assumption) ?_)

theorem execMovStream_changes {s₀ : State} {c : Nat} {s : State} (h : Changes s₀ s) : OutChanges s₀ (execMovStream c s) := by
  unfold execMovStream
  try dsimp only
  repeat' (first | with_reducible assumption | with_reducible apply OutChanges.unit | with_reducible apply OutChanges.due | with_reducible apply OutChanges.next | with_reducible apply movGo_changes | with_reducible apply movStart_changes | dsimp only | split)

theorem execMovWayInTake_changes {s₀ : State} {c : Nat} {s : State} (h : Changes s₀ s) : OutChanges s₀ (execMovWayInTake c s) := by
  unfold execMovWayInTake
  try dsimp only
  repeat' (first | with_reducible assumption | with_reducible apply OutChanges.unit | with_reducible apply OutChanges.due | with_reducible apply OutChanges.next | with_reducible apply movGo_changes | dsimp only | split)

theorem State.movPut_changes {s₀ : State} {s : State} {c : Nat} {f : Flight} (h : Changes s₀ s) : Changes s₀ (State.movPut s c f) := by
  unfold State.movPut
  try dsimp only
  repeat' (first | with_reducible assumption | with_reducible apply State.setMover_changes | with_reducible apply State.endFlight_changes | with_reducible apply State.wayPut_changes | with_reducible apply State.modFlight_changes | with_reducible apply Changes.ite | with_reducible refine Changes.elim _ ?_ (fun b => ?_) | with_reducible apply Changes.ite_fst | with_reducible apply Changes.ite_snd | with_reducible refine Changes.foldl _ (fun v b hv => ?_) ?_ | with_reducible refine Changes.foldl_fst _ (fun v b hv => ?_) ?_ | with_reducible refine Changes.foldl_snd _ (fun v b hv => ?_) ?_ | dsimp only | split | refine Changes.of_fst_eq (by assumption) ?_ | refine Changes.of_run_eq (by assumption) ?_)

theorem execMovWayOutPut_changes {s₀ : State} {c : Nat} {s : State} (h : Changes s₀ s) : OutChanges s₀ (execMovWayOutPut c s) := by
  unfold execMovWayOutPut
  try dsimp only
  repeat' (first | with_reducible assumption | with_reducible apply OutChanges.unit | with_reducible apply OutChanges.due | with_reducible apply OutChanges.next | with_reducible apply OutChanges.fault | with_reducible apply OutChanges.ite | with_reducible apply State.movPut_changes | with_reducible apply Changes.ite | with_reducible refine Changes.elim _ ?_ (fun b => ?_) | with_reducible apply Changes.ite_fst | with_reducible apply Changes.ite_snd | with_reducible refine Changes.foldl _ (fun v b hv => ?_) ?_ | with_reducible refine Changes.foldl_fst _ (fun v b hv => ?_) ?_ | with_reducible refine Changes.foldl_snd _ (fun v b hv => ?_) ?_ | dsimp only | split | refine Changes.of_fst_eq (by assumption) ?_ | refine Changes.of_run_eq (by assumption) ?_)

theorem State.returnEntry_changes {s₀ : State} {s : State} {f : Flight} (h : Changes s₀ s) : Changes s₀ (State.returnEntry s f) := by
  unfold State.returnEntry
  try dsimp only
  repeat' (first | with_reducible assumption | with_reducible apply State.putBack_changes | with_reducible apply Changes.ite | with_reducible refine Changes.elim _ ?_ (fun b => ?_) | with_reducible apply Changes.ite_fst | with_reducible apply Changes.ite_snd | with_reducible refine Changes.foldl _ (fun v b hv => ?_) ?_ | with_reducible refine Changes.foldl_fst _ (fun v b hv => ?_) ?_ | with_reducible refine Changes.foldl_snd _ (fun v b hv => ?_) ?_ | dsimp only | split | refine Changes.of_fst_eq (by assumption) ?_ | refine Changes.of_run_eq (by assumption) ?_)

theorem MovRun.s_changes {s₀ : State} {self : MovRun} (h : Changes s₀ self.s) : Changes s₀ (MovRun.s self) := by
  unfold MovRun.s
  try dsimp only
  repeat' (first | with_reducible assumption | dsimp only)

end Sys2Proof.Machine
end

