-- ==== Sys2Proof/Laws/ChangesServing.lean ====
section
/-! SUPPORT. The state after each definition of Sys2Proof/Machine/Serving.lean is reached by the model's own kinds of update. -/

namespace Sys2Proof.Machine

theorem State.setPartEnds_changes {s₀ : State} {s : State} {m : Nat} {l : List PartEnd} (h : Changes s₀ s) : Changes s₀ (State.setPartEnds s m l) := by
  unfold State.setPartEnds
  try dsimp only
  repeat' (first | with_reducible assumption | with_reducible apply Changes.ite | with_reducible refine Changes.elim _ ?_ (fun b => ?_) | with_reducible apply Changes.ite_fst | with_reducible apply Changes.ite_snd | with_reducible refine Changes.foldl _ (fun v b hv => ?_) ?_ | with_reducible refine Changes.foldl_fst _ (fun v b hv => ?_) ?_ | with_reducible refine Changes.foldl_snd _ (fun v b hv => ?_) ?_ | dsimp only | split | refine Changes.of_fst_eq (by assumption) ?_ | with_reducible apply Changes.made | exact .left _ (by assumption) rfl rfl rfl rfl | exact .kept _ (by assumption) rfl rfl rfl rfl)

theorem State.beginPart_changes {s₀ : State} {s : State} {m : Nat} {p : Nat} (h : Changes s₀ s) : Changes s₀ (State.beginPart s m p) := by
  unfold State.beginPart
  try dsimp only
  repeat' (first | with_reducible assumption | with_reducible apply State.fset_changes | dsimp only)

theorem State.mbxRead_changes {s₀ : State} {s : State} {m : Nat} {w : Nat} (h : Changes s₀ s) : Changes s₀ (State.mbxRead s m w).1 := by
  unfold State.mbxRead
  try dsimp only
  repeat' (first | with_reducible assumption | with_reducible apply State.fset_changes | dsimp only | split)

theorem mbxClaimEffect_changes {s₀ : State} {k : Nat} {m : Nat} {w : Nat} {s : State} (h : Changes s₀ s) : Changes s₀ (mbxClaimEffect k m w s).1 := by
  unfold mbxClaimEffect
  try dsimp only
  repeat' (first | with_reducible assumption | with_reducible apply State.mbxRead_changes | with_reducible apply State.rset_changes | dsimp only)

theorem execMailboxClaim_changes {s₀ : State} {src : Nat} {k : Nat} {m : Nat} {w : Nat} {s : State} (h : Changes s₀ s) : OutChanges s₀ (execMailboxClaim src k m w s) := by
  unfold execMailboxClaim
  try dsimp only
  repeat' (first | with_reducible assumption | with_reducible apply regCmd_changes | with_reducible apply mbxClaimEffect_changes | dsimp only)

theorem State.eccLive_changes {s₀ : State} {s : State} {c : Nat} {e : Nat} {base : List Nat} (h : Changes s₀ s) : Changes s₀ (State.eccLive s c e base) := by
  unfold State.eccLive
  try dsimp only
  repeat' (first | with_reducible assumption | with_reducible apply State.eccRead_changes | with_reducible apply Changes.ite | with_reducible refine Changes.elim _ ?_ (fun b => ?_) | with_reducible apply Changes.ite_fst | with_reducible apply Changes.ite_snd | with_reducible refine Changes.foldl _ (fun v b hv => ?_) ?_ | with_reducible refine Changes.foldl_fst _ (fun v b hv => ?_) ?_ | with_reducible refine Changes.foldl_snd _ (fun v b hv => ?_) ?_ | dsimp only | split | refine Changes.of_fst_eq (by assumption) ?_)

theorem State.saveLive_changes {s₀ : State} {s : State} {c : Nat} {e : Nat} {base : List Nat} (h : Changes s₀ s) : Changes s₀ (State.saveLive s c e base) := by
  unfold State.saveLive
  try dsimp only
  repeat' (first | with_reducible assumption | with_reducible apply State.dramWrite_changes | with_reducible apply State.eccLive_changes | with_reducible apply State.dramWritePoison_changes | with_reducible apply State.fadd_changes | with_reducible apply State.crossLink_changes | with_reducible apply Changes.ite | with_reducible refine Changes.elim _ ?_ (fun b => ?_) | with_reducible apply Changes.ite_fst | with_reducible apply Changes.ite_snd | with_reducible refine Changes.foldl _ (fun v b hv => ?_) ?_ | with_reducible refine Changes.foldl_fst _ (fun v b hv => ?_) ?_ | with_reducible refine Changes.foldl_snd _ (fun v b hv => ?_) ?_ | dsimp only | split | refine Changes.of_fst_eq (by assumption) ?_)

theorem State.restoreRegion_changes {s₀ : State} {s : State} {c : Nat} {sp : Nat} {o : Nat} {bs : List (Byte × Bool)} (h : Changes s₀ s) : Changes s₀ (State.restoreRegion s c sp o bs) := by
  unfold State.restoreRegion
  try dsimp only
  repeat' (first | with_reducible assumption | with_reducible apply State.spWriteWords_changes | dsimp only)

theorem State.restoreLive_changes {s₀ : State} {s : State} {c : Nat} {e : Nat} {base : List Nat} (h : Changes s₀ s) : Changes s₀ (State.restoreLive s c e base) := by
  unfold State.restoreLive
  try dsimp only
  repeat' (first | with_reducible assumption | with_reducible apply State.restoreRegion_changes | with_reducible apply State.modCore_changes | with_reducible apply State.fadd_changes | with_reducible apply State.crossLink_changes | with_reducible refine Changes.foldl_fst _ (fun v b hv => ?_) ?_ | dsimp only)

theorem State.setResident_changes {s₀ : State} {s : State} {c : Nat} {r : Option Resident} (h : Changes s₀ s) : Changes s₀ (State.setResident s c r) := by
  unfold State.setResident
  try dsimp only
  repeat' (first | with_reducible assumption | with_reducible apply State.modCore_changes | dsimp only)

theorem State.saveDirty_changes {s₀ : State} {s : State} {c : Nat} (h : Changes s₀ s) : Changes s₀ (State.saveDirty s c).1 := by
  unfold State.saveDirty
  try dsimp only
  repeat' (first | with_reducible assumption | with_reducible apply State.setResident_changes | with_reducible apply State.saveLive_changes | dsimp only | split)

theorem State.rebaseLive_changes {s₀ : State} {s : State} {c : Nat} {base : List Nat} (h : Changes s₀ s) : Changes s₀ (State.rebaseLive s c base) := by
  unfold State.rebaseLive
  try dsimp only
  repeat' (first | with_reducible assumption | with_reducible apply State.modCore_changes | with_reducible apply Changes.ite | with_reducible refine Changes.elim _ ?_ (fun b => ?_) | with_reducible apply Changes.ite_fst | with_reducible apply Changes.ite_snd | with_reducible refine Changes.foldl _ (fun v b hv => ?_) ?_ | with_reducible refine Changes.foldl_fst _ (fun v b hv => ?_) ?_ | with_reducible refine Changes.foldl_snd _ (fun v b hv => ?_) ?_ | dsimp only | split | with_reducible refine fun _ _ hu => ?_ | with_reducible refine fun _ hu => ?_ | refine Changes.of_fst_eq (by assumption) ?_)

theorem State.switchTime_changes {s₀ : State} {s : State} {own : Nat} {cross : Nat} (h : Changes s₀ s) : Changes s₀ (State.switchTime s own cross).1 := by
  unfold State.switchTime
  try dsimp only
  repeat' (first | with_reducible assumption | with_reducible apply State.free_changes | dsimp only | split)

theorem State.switchCore_changes {s₀ : State} {s : State} {c : Nat} {e : Nat} {t : TaskLatch} (h : Changes s₀ s) : Changes s₀ (State.switchCore s c e t) := by
  unfold State.switchCore
  try dsimp only
  repeat' (first | with_reducible assumption | with_reducible apply State.saveDirty_changes | with_reducible apply State.rebaseLive_changes | with_reducible apply State.setResident_changes | with_reducible apply State.restoreLive_changes | with_reducible apply State.switchTime_changes | with_reducible apply State.fset_changes | with_reducible apply Changes.ite | with_reducible refine Changes.elim _ ?_ (fun b => ?_) | with_reducible apply Changes.ite_fst | with_reducible apply Changes.ite_snd | with_reducible refine Changes.foldl _ (fun v b hv => ?_) ?_ | with_reducible refine Changes.foldl_fst _ (fun v b hv => ?_) ?_ | with_reducible refine Changes.foldl_snd _ (fun v b hv => ?_) ?_ | dsimp only | split | refine Changes.of_fst_eq (by assumption) ?_)

theorem State.failBegin_changes {s₀ : State} {s : State} {k : Caravan} {inRequest : Bool} (h : Changes s₀ s) : Changes s₀ (State.failBegin s k inRequest) := by
  unfold State.failBegin
  try dsimp only
  repeat' (first | with_reducible assumption | with_reducible apply State.modCaravan_changes | with_reducible apply State.beginPart_changes | with_reducible apply State.completeFlight_changes | with_reducible apply State.endFault_changes | dsimp only | split)

theorem execCaravanBegin_changes {s₀ : State} {q : Nat} {s : State} (h : Changes s₀ s) : OutChanges s₀ (execCaravanBegin q s) := by
  unfold execCaravanBegin
  try dsimp only
  repeat' (first | with_reducible assumption | with_reducible apply OutChanges.unit | with_reducible apply OutChanges.due | with_reducible apply OutChanges.next | with_reducible apply OutChanges.fault | with_reducible apply OutChanges.ite | with_reducible apply State.modCaravan_changes | with_reducible apply State.latchWaits_changes | with_reducible apply State.hubRead_changes | with_reducible apply State.failBegin_changes | with_reducible apply Changes.ite | with_reducible refine Changes.elim _ ?_ (fun b => ?_) | with_reducible apply Changes.ite_fst | with_reducible apply Changes.ite_snd | with_reducible refine Changes.foldl _ (fun v b hv => ?_) ?_ | with_reducible refine Changes.foldl_fst _ (fun v b hv => ?_) ?_ | with_reducible refine Changes.foldl_snd _ (fun v b hv => ?_) ?_ | dsimp only | split | refine Changes.of_fst_eq (by assumption) ?_)

theorem State.digestTraffic_changes {s₀ : State} {s : State} {k : Caravan} {c : Nat} (h : Changes s₀ s) : Changes s₀ (State.digestTraffic s k c) := by
  unfold State.digestTraffic
  try dsimp only
  repeat' (first | with_reducible assumption | with_reducible apply State.chargeTx_changes | with_reducible apply State.crossLink_changes | with_reducible apply State.outstandingMax_changes | with_reducible apply Changes.ite | with_reducible refine Changes.elim _ ?_ (fun b => ?_) | with_reducible apply Changes.ite_fst | with_reducible apply Changes.ite_snd | with_reducible refine Changes.foldl _ (fun v b hv => ?_) ?_ | with_reducible refine Changes.foldl_fst _ (fun v b hv => ?_) ?_ | with_reducible refine Changes.foldl_snd _ (fun v b hv => ?_) ?_ | dsimp only | split | refine Changes.of_fst_eq (by assumption) ?_)

theorem State.placeOn_changes {s₀ : State} {s : State} {k : Caravan} {c : Nat} (h : Changes s₀ s) : Changes s₀ (State.placeOn s k c) := by
  unfold State.placeOn
  try dsimp only
  repeat' (first | with_reducible assumption | with_reducible apply State.failBegin_changes | with_reducible apply State.switchCore_changes | with_reducible apply State.fset_changes | with_reducible apply State.modCore_changes | with_reducible apply State.tallyPut_changes | with_reducible apply State.digestTraffic_changes | with_reducible apply State.eccLive_changes | with_reducible apply State.fadd_changes | with_reducible apply State.beginPart_changes | with_reducible apply State.setPhase_changes | with_reducible apply State.modCaravan_changes | with_reducible apply State.completeFlight_changes | with_reducible apply State.endFlight_changes | with_reducible apply Changes.ite | with_reducible refine Changes.elim _ ?_ (fun b => ?_) | with_reducible apply Changes.ite_fst | with_reducible apply Changes.ite_snd | with_reducible refine Changes.foldl _ (fun v b hv => ?_) ?_ | with_reducible refine Changes.foldl_fst _ (fun v b hv => ?_) ?_ | with_reducible refine Changes.foldl_snd _ (fun v b hv => ?_) ?_ | dsimp only | split | with_reducible refine fun _ _ hu => ?_ | with_reducible refine fun _ hu => ?_ | refine Changes.of_fst_eq (by assumption) ?_)

theorem execCaravanPlace_changes {s₀ : State} {s : State} (h : Changes s₀ s) : OutChanges s₀ (execCaravanPlace s) := by
  unfold execCaravanPlace
  try dsimp only
  repeat' (first | with_reducible assumption | with_reducible apply OutChanges.due | with_reducible apply OutChanges.next | with_reducible apply State.placeOn_changes | dsimp only | split)

theorem State.resultCopy_changes {s₀ : State} {s : State} {k : Caravan} {d : Nat} (h : Changes s₀ s) : Changes s₀ (State.resultCopy s k d).1 := by
  unfold State.resultCopy
  try dsimp only
  repeat' (first | with_reducible assumption | with_reducible apply State.dramWriteMarked_changes | with_reducible apply State.hubRead_changes | with_reducible apply State.linkTx_changes | dsimp only | split)

theorem execCaravanEnd_changes {s₀ : State} {c : Nat} {s : State} (h : Changes s₀ s) : OutChanges s₀ (execCaravanEnd c s) := by
  unfold execCaravanEnd
  try dsimp only
  repeat' (first | with_reducible assumption | with_reducible apply OutChanges.unit | with_reducible apply OutChanges.due | with_reducible apply OutChanges.next | with_reducible apply OutChanges.fault | with_reducible apply OutChanges.ite | with_reducible apply State.resultCopy_changes | with_reducible apply State.latchWaits_changes | with_reducible apply State.endFlight_changes | with_reducible apply State.endFault_changes | with_reducible apply State.completeFlight_changes | with_reducible apply State.modCaravan_changes | with_reducible apply Changes.ite | with_reducible refine Changes.elim _ ?_ (fun b => ?_) | with_reducible apply Changes.ite_fst | with_reducible apply Changes.ite_snd | with_reducible refine Changes.foldl _ (fun v b hv => ?_) ?_ | with_reducible refine Changes.foldl_fst _ (fun v b hv => ?_) ?_ | with_reducible refine Changes.foldl_snd _ (fun v b hv => ?_) ?_ | dsimp only | split | refine Changes.of_fst_eq (by assumption) ?_)

theorem State.flip_changes {s₀ : State} {s : State} {m : Nat} {l : List PartEnd} {valid : Bool} (h : Changes s₀ s) : Changes s₀ (State.flip s m l valid) := by
  unfold State.flip
  try dsimp only
  repeat' (first | with_reducible assumption | with_reducible apply State.hubWrite_changes | with_reducible apply State.fset_changes | with_reducible apply State.setPartEnds_changes | dsimp only)

theorem State.stateCopy_changes {s₀ : State} {s : State} {k : Caravan} {h1 : Nat} (h : Changes s₀ s) : Changes s₀ (State.stateCopy s k h1) := by
  unfold State.stateCopy
  try dsimp only
  repeat' (first | with_reducible assumption | with_reducible apply State.linkTx_changes | with_reducible apply State.dramWriteMarked_changes | with_reducible apply State.hubRead_changes | with_reducible apply State.report_changes | dsimp only | split)

theorem State.commitPart_changes {s₀ : State} {s : State} {k : Caravan} {c : Nat} (h : Changes s₀ s) : Changes s₀ (State.commitPart s k c).1 := by
  unfold State.commitPart
  try dsimp only
  repeat' (first | with_reducible assumption | with_reducible apply State.stateCopy_changes | with_reducible apply State.setResident_changes | with_reducible apply State.saveLive_changes | dsimp only | split)

theorem State.publish_changes {s₀ : State} {s : State} {rec_ : List Byte} (h : Changes s₀ s) : Changes s₀ (State.publish s rec_) := by
  unfold State.publish
  try dsimp only
  repeat' (first | with_reducible assumption | with_reducible apply State.hubWrite_changes | with_reducible apply State.fset_changes | dsimp only | split)

theorem State.releaseRequest_changes {s₀ : State} {s : State} {l : List PartEnd} (h : Changes s₀ s) : Changes s₀ (State.releaseRequest s l) := by
  unfold State.releaseRequest
  try dsimp only
  repeat' (first | with_reducible assumption | with_reducible apply State.setCaravans_changes | dsimp only)

theorem State.commit_changes {s₀ : State} {s : State} {m : Nat} {l : List PartEnd} (h : Changes s₀ s) : Changes s₀ (State.commit s m l) := by
  unfold State.commit
  try dsimp only
  repeat' (first | with_reducible assumption | with_reducible apply State.flip_changes | with_reducible apply State.hubWrite_changes | with_reducible apply State.commitPart_changes | with_reducible apply State.releaseRequest_changes | with_reducible apply State.publish_changes | with_reducible refine Changes.foldl _ (fun v b hv => ?_) ?_ | with_reducible refine Changes.foldl_fst _ (fun v b hv => ?_) ?_ | dsimp only)

theorem State.rollback_changes {s₀ : State} {s : State} {model : Nat} (h : Changes s₀ s) : Changes s₀ (State.rollback s model) := by
  unfold State.rollback
  try dsimp only
  repeat' (first | with_reducible assumption | with_reducible apply State.setResident_changes | with_reducible apply State.fadd_changes | with_reducible refine Changes.foldl _ (fun v b hv => ?_) ?_ | dsimp only | split)

theorem State.failRequest_changes {s₀ : State} {s : State} {m : Nat} {l : List PartEnd} (h : Changes s₀ s) : Changes s₀ (State.failRequest s m l) := by
  unfold State.failRequest
  try dsimp only
  repeat' (first | with_reducible assumption | with_reducible apply State.fadd_changes | with_reducible apply State.flip_changes | with_reducible apply State.rollback_changes | with_reducible apply State.releaseRequest_changes | with_reducible refine Changes.elim _ ?_ (fun b => ?_) | with_reducible refine Changes.foldl _ (fun v b hv => ?_) ?_ | dsimp only)

theorem State.resolve_changes {s₀ : State} {s : State} {m : Nat} (h : Changes s₀ s) : Changes s₀ (State.resolve s m) := by
  unfold State.resolve
  try dsimp only
  repeat' (first | with_reducible assumption | with_reducible apply State.commit_changes | with_reducible apply State.failRequest_changes | dsimp only | split)

theorem State.endPart_changes {s₀ : State} {s : State} {k : Caravan} (h : Changes s₀ s) : Changes s₀ (State.endPart s k) := by
  unfold State.endPart
  try dsimp only
  repeat' (first | with_reducible assumption | with_reducible apply State.resolve_changes | with_reducible apply State.setPartEnds_changes | dsimp only)

theorem State.postRecord_changes {s₀ : State} {s : State} {ring : Nat} {f : Flight} (h : Changes s₀ s) : Changes s₀ (State.postRecord s ring f) := by
  unfold State.postRecord
  try dsimp only
  repeat' (first | with_reducible assumption | with_reducible apply State.hubWrite_changes | with_reducible apply State.fset_changes | with_reducible apply State.irq_changes | with_reducible apply Changes.ite | with_reducible refine Changes.elim _ ?_ (fun b => ?_) | with_reducible apply Changes.ite_fst | with_reducible apply Changes.ite_snd | with_reducible refine Changes.foldl _ (fun v b hv => ?_) ?_ | with_reducible refine Changes.foldl_fst _ (fun v b hv => ?_) ?_ | with_reducible refine Changes.foldl_snd _ (fun v b hv => ?_) ?_ | dsimp only | split | refine Changes.of_fst_eq (by assumption) ?_)

theorem State.retire_changes {s₀ : State} {s : State} {f : Flight} (h : Changes s₀ s) : Changes s₀ (State.retire s f) := by
  unfold State.retire
  try dsimp only
  repeat' (first | with_reducible assumption | with_reducible apply State.setFlights_changes | with_reducible apply State.fadd_changes | with_reducible apply State.fset_changes | with_reducible apply State.haltQueue_changes | dsimp only | split)

theorem State.slotDone_changes {s₀ : State} {s : State} {f : Flight} (h : Changes s₀ s) : Changes s₀ (State.slotDone s f) := by
  unfold State.slotDone
  try dsimp only
  repeat' (first | with_reducible assumption | with_reducible apply State.endPart_changes | with_reducible apply State.modCaravan_changes | with_reducible apply State.setCaravans_changes | with_reducible apply Changes.ite | with_reducible refine Changes.elim _ ?_ (fun b => ?_) | with_reducible apply Changes.ite_fst | with_reducible apply Changes.ite_snd | with_reducible refine Changes.foldl _ (fun v b hv => ?_) ?_ | with_reducible refine Changes.foldl_fst _ (fun v b hv => ?_) ?_ | with_reducible refine Changes.foldl_snd _ (fun v b hv => ?_) ?_ | dsimp only | split | refine Changes.of_fst_eq (by assumption) ?_)

theorem execCompletionRecordPost_changes {s₀ : State} {q : Nat} {s : State} (h : Changes s₀ s) : OutChanges s₀ (execCompletionRecordPost q s) := by
  unfold execCompletionRecordPost
  try dsimp only
  repeat' (first | with_reducible assumption | with_reducible apply OutChanges.unit | with_reducible apply OutChanges.due | with_reducible apply OutChanges.next | with_reducible apply State.updateDrained_changes | with_reducible apply State.slotDone_changes | with_reducible apply State.retire_changes | with_reducible apply State.postRecord_changes | with_reducible apply State.fset_changes | dsimp only | split)

theorem State.dropGroup_changes {s₀ : State} {s : State} {c : Nat} (h : Changes s₀ s) : Changes s₀ (State.dropGroup s c) := by
  unfold State.dropGroup
  try dsimp only
  repeat' (first | with_reducible assumption | with_reducible apply State.fadd_changes | with_reducible apply State.reportFor_changes | with_reducible apply State.fset_changes | with_reducible apply State.modCore_changes | with_reducible apply Changes.ite | with_reducible refine Changes.elim _ ?_ (fun b => ?_) | with_reducible apply Changes.ite_fst | with_reducible apply Changes.ite_snd | with_reducible refine Changes.foldl _ (fun v b hv => ?_) ?_ | with_reducible refine Changes.foldl_fst _ (fun v b hv => ?_) ?_ | with_reducible refine Changes.foldl_snd _ (fun v b hv => ?_) ?_ | dsimp only | split | with_reducible refine fun _ _ hu => ?_ | with_reducible refine fun _ hu => ?_ | refine Changes.of_fst_eq (by assumption) ?_)

theorem State.stopCore_changes {s₀ : State} {s : State} {c : Nat} {task : Nat} {status : Nat} (h : Changes s₀ s) : Changes s₀ (State.stopCore s c task status) := by
  unfold State.stopCore
  try dsimp only
  repeat' (first | with_reducible assumption | with_reducible apply State.putBack_changes | with_reducible apply State.setMover_changes | with_reducible apply State.dropHeld_changes | with_reducible apply State.fset_changes | with_reducible apply State.modCore_changes | with_reducible apply State.dropGroup_changes | with_reducible apply State.killZero_changes | with_reducible apply Changes.ite | with_reducible refine Changes.elim _ ?_ (fun b => ?_) | with_reducible apply Changes.ite_fst | with_reducible apply Changes.ite_snd | with_reducible refine Changes.foldl _ (fun v b hv => ?_) ?_ | with_reducible refine Changes.foldl_fst _ (fun v b hv => ?_) ?_ | with_reducible refine Changes.foldl_snd _ (fun v b hv => ?_) ?_ | dsimp only | split | with_reducible refine fun _ _ hu => ?_ | with_reducible refine fun _ hu => ?_ | refine Changes.of_fst_eq (by assumption) ?_)

theorem State.failPart_changes {s₀ : State} {s : State} {k : Caravan} {status : Nat} (h : Changes s₀ s) : Changes s₀ (State.failPart s k status) := by
  unfold State.failPart
  try dsimp only
  repeat' (first | with_reducible assumption | with_reducible apply State.modCaravan_changes | with_reducible apply State.setPartEnds_changes | with_reducible apply Changes.ite | with_reducible refine Changes.elim _ ?_ (fun b => ?_) | with_reducible apply Changes.ite_fst | with_reducible apply Changes.ite_snd | with_reducible refine Changes.foldl _ (fun v b hv => ?_) ?_ | with_reducible refine Changes.foldl_fst _ (fun v b hv => ?_) ?_ | with_reducible refine Changes.foldl_snd _ (fun v b hv => ?_) ?_ | dsimp only | split | refine Changes.of_fst_eq (by assumption) ?_)

theorem State.endWhole_changes {s₀ : State} {s : State} {k : Caravan} {status : Nat} (h : Changes s₀ s) : Changes s₀ (State.endWhole s k status) := by
  unfold State.endWhole
  try dsimp only
  repeat' (first | with_reducible assumption | with_reducible apply State.modCaravan_changes | with_reducible apply State.beginPart_changes | with_reducible apply State.endFlight_changes | with_reducible apply State.failPart_changes | with_reducible apply State.endCaravan_changes | with_reducible apply State.stopCore_changes | with_reducible apply Changes.ite | with_reducible refine Changes.elim _ ?_ (fun b => ?_) | with_reducible apply Changes.ite_fst | with_reducible apply Changes.ite_snd | with_reducible refine Changes.foldl _ (fun v b hv => ?_) ?_ | with_reducible refine Changes.foldl_fst _ (fun v b hv => ?_) ?_ | with_reducible refine Changes.foldl_snd _ (fun v b hv => ?_) ?_ | dsimp only | split | refine Changes.of_fst_eq (by assumption) ?_)

theorem State.killOne_changes {s₀ : State} {s : State} {k : Caravan} (h : Changes s₀ s) : Changes s₀ (State.killOne s k) := by
  unfold State.killOne
  try dsimp only
  repeat' (first | with_reducible assumption | with_reducible apply State.fadd_changes | with_reducible apply State.endWhole_changes | with_reducible apply State.modCaravan_changes | dsimp only)

theorem killEffect_changes {s₀ : State} {id : Nat} {s : State} (h : Changes s₀ s) : Changes s₀ (killEffect id s).1 := by
  unfold killEffect
  try dsimp only
  repeat' (first | with_reducible assumption | with_reducible apply State.rset_changes | with_reducible apply State.fset_changes | with_reducible apply State.killOne_changes | with_reducible refine Changes.foldl _ (fun v b hv => ?_) ?_ | dsimp only)

theorem execKill_changes {s₀ : State} {src : Nat} {id : Nat} {s : State} (h : Changes s₀ s) : OutChanges s₀ (execKill src id s) := by
  unfold execKill
  try dsimp only
  repeat' (first | with_reducible assumption | with_reducible apply regCmd_changes | with_reducible apply killEffect_changes | dsimp only)

theorem execRunLimitExpiry_changes {s₀ : State} {c : Nat} {s : State} (h : Changes s₀ s) : OutChanges s₀ (execRunLimitExpiry c s) := by
  unfold execRunLimitExpiry
  try dsimp only
  repeat' (first | with_reducible assumption | with_reducible apply OutChanges.unit | with_reducible apply OutChanges.due | with_reducible apply OutChanges.next | with_reducible apply State.killOne_changes | dsimp only | split)

theorem State.cancel_changes {s₀ : State} {s : State} {m : Nat} (h : Changes s₀ s) : Changes s₀ (State.cancel s m) := by
  unfold State.cancel
  try dsimp only
  repeat' (first | with_reducible assumption | with_reducible apply State.killOne_changes | with_reducible apply State.setPartEnds_changes | with_reducible apply State.resolve_changes | with_reducible apply Changes.ite | with_reducible refine Changes.elim _ ?_ (fun b => ?_) | with_reducible apply Changes.ite_fst | with_reducible apply Changes.ite_snd | with_reducible refine Changes.foldl _ (fun v b hv => ?_) ?_ | with_reducible refine Changes.foldl_fst _ (fun v b hv => ?_) ?_ | with_reducible refine Changes.foldl_snd _ (fun v b hv => ?_) ?_ | dsimp only | split | refine Changes.of_fst_eq (by assumption) ?_)

theorem mbxCfgEffect_changes {s₀ : State} {m : Nat} {v : Nat} {s : State} (h : Changes s₀ s) : Changes s₀ (mbxCfgEffect m v s).1 := by
  unfold mbxCfgEffect
  try dsimp only
  repeat' (first | with_reducible assumption | with_reducible apply State.rset_changes | with_reducible apply State.cancel_changes | dsimp only | split)

theorem execMailboxCancel_changes {s₀ : State} {src : Nat} {m : Nat} {s : State} (h : Changes s₀ s) : OutChanges s₀ (execMailboxCancel src m s) := by
  unfold execMailboxCancel
  try dsimp only
  repeat' (first | with_reducible assumption | with_reducible apply regCmd_changes | with_reducible apply mbxCfgEffect_changes | dsimp only)

end Sys2Proof.Machine
end

