-- ==== Sys2Proof/Laws/ChangesTime.lean ====
section
/-! SUPPORT. The state after each definition of Sys2Proof/Machine/Time.lean is reached by the model's own kinds of update. -/

namespace Sys2Proof.Machine

theorem State.tick_changes {s₀ : State} {s : State} (h : Changes s₀ s) : Changes s₀ (State.tick s) := by
  unfold State.tick
  try dsimp only
  repeat' (first | with_reducible assumption | with_reducible apply Changes.ite | with_reducible refine Changes.elim _ ?_ (fun b => ?_) | with_reducible apply Changes.ite_fst | with_reducible apply Changes.ite_snd | with_reducible refine Changes.foldl _ (fun v b hv => ?_) ?_ | with_reducible refine Changes.foldl_fst _ (fun v b hv => ?_) ?_ | with_reducible refine Changes.foldl_snd _ (fun v b hv => ?_) ?_ | dsimp only | split | refine Changes.of_fst_eq (by assumption) ?_ | with_reducible apply Changes.made | exact .left _ (by assumption) rfl rfl rfl rfl | exact .kept _ (by assumption) rfl rfl rfl rfl)

theorem State.kick_changes {s₀ : State} {s : State} (h : Changes s₀ s) : Changes s₀ (State.kick s) := by
  unfold State.kick
  try dsimp only
  repeat' (first | with_reducible assumption | with_reducible apply Changes.ite | with_reducible refine Changes.elim _ ?_ (fun b => ?_) | with_reducible apply Changes.ite_fst | with_reducible apply Changes.ite_snd | with_reducible refine Changes.foldl _ (fun v b hv => ?_) ?_ | with_reducible refine Changes.foldl_fst _ (fun v b hv => ?_) ?_ | with_reducible refine Changes.foldl_snd _ (fun v b hv => ?_) ?_ | dsimp only | split | refine Changes.of_fst_eq (by assumption) ?_ | with_reducible apply Changes.made | exact .left _ (by assumption) rfl rfl rfl rfl | exact .kept _ (by assumption) rfl rfl rfl rfl)

theorem timeSetSEffect_changes {s₀ : State} {v : Nat} {s : State} (h : Changes s₀ s) : Changes s₀ (timeSetSEffect v s).1 := by
  unfold timeSetSEffect
  try dsimp only
  repeat' (first | with_reducible assumption | with_reducible apply State.fset_changes | dsimp only | split)

theorem timeSetEffect_changes {s₀ : State} {ns : Nat} {s : State} (h : Changes s₀ s) : Changes s₀ (timeSetEffect ns s).1 := by
  unfold timeSetEffect
  try dsimp only
  repeat' (first | with_reducible assumption | with_reducible apply Changes.ite | with_reducible refine Changes.elim _ ?_ (fun b => ?_) | with_reducible apply Changes.ite_fst | with_reducible apply Changes.ite_snd | with_reducible refine Changes.foldl _ (fun v b hv => ?_) ?_ | with_reducible refine Changes.foldl_fst _ (fun v b hv => ?_) ?_ | with_reducible refine Changes.foldl_snd _ (fun v b hv => ?_) ?_ | dsimp only | split | refine Changes.of_fst_eq (by assumption) ?_ | with_reducible apply Changes.made | exact .left _ (by assumption) rfl rfl rfl rfl | exact .kept _ (by assumption) rfl rfl rfl rfl)

theorem timeStepEffect_changes {s₀ : State} {v : Nat} {s : State} (h : Changes s₀ s) : Changes s₀ (timeStepEffect v s).1 := by
  unfold timeStepEffect
  try dsimp only
  repeat' (first | with_reducible assumption | with_reducible apply State.kick_changes | with_reducible apply Changes.ite | with_reducible refine Changes.elim _ ?_ (fun b => ?_) | with_reducible apply Changes.ite_fst | with_reducible apply Changes.ite_snd | with_reducible refine Changes.foldl _ (fun v b hv => ?_) ?_ | with_reducible refine Changes.foldl_fst _ (fun v b hv => ?_) ?_ | with_reducible refine Changes.foldl_snd _ (fun v b hv => ?_) ?_ | dsimp only | split | refine Changes.of_fst_eq (by assumption) ?_ | with_reducible apply Changes.made | exact .left _ (by assumption) rfl rfl rfl rfl | exact .kept _ (by assumption) rfl rfl rfl rfl)

theorem timeRateEffect_changes {s₀ : State} {v : Nat} {s : State} (h : Changes s₀ s) : Changes s₀ (timeRateEffect v s).1 := by
  unfold timeRateEffect
  try dsimp only
  repeat' (first | with_reducible assumption | with_reducible apply State.fset_changes | with_reducible apply State.kick_changes | dsimp only | split)

theorem timeKickEffect_changes {s₀ : State} {v : Nat} {s : State} (h : Changes s₀ s) : Changes s₀ (timeKickEffect v s).1 := by
  unfold timeKickEffect
  try dsimp only
  repeat' (first | with_reducible assumption | with_reducible apply State.kick_changes | dsimp only | split)

theorem execTimeSet_changes {s₀ : State} {src : Nat} {ns : Nat} {s : State} (h : Changes s₀ s) : OutChanges s₀ (execTimeSet src ns s) := by
  unfold execTimeSet
  try dsimp only
  repeat' (first | with_reducible assumption | with_reducible apply regCmd_changes | with_reducible apply timeSetEffect_changes | dsimp only)

theorem execTimeStep_changes {s₀ : State} {src : Nat} {v : Nat} {s : State} (h : Changes s₀ s) : OutChanges s₀ (execTimeStep src v s) := by
  unfold execTimeStep
  try dsimp only
  repeat' (first | with_reducible assumption | with_reducible apply regCmd_changes | with_reducible apply timeStepEffect_changes | dsimp only)

theorem execTimeRateWrite_changes {s₀ : State} {src : Nat} {v : Nat} {s : State} (h : Changes s₀ s) : OutChanges s₀ (execTimeRateWrite src v s) := by
  unfold execTimeRateWrite
  try dsimp only
  repeat' (first | with_reducible assumption | with_reducible apply regCmd_changes | with_reducible apply timeRateEffect_changes | dsimp only)

theorem execTimeKick_changes {s₀ : State} {src : Nat} {s : State} (h : Changes s₀ s) : OutChanges s₀ (execTimeKick src s) := by
  unfold execTimeKick
  try dsimp only
  repeat' (first | with_reducible assumption | with_reducible apply regCmd_changes | with_reducible apply timeKickEffect_changes | dsimp only)

theorem State.timLock_changes {s₀ : State} {s : State} (h : Changes s₀ s) : Changes s₀ (State.timLock s) := by
  unfold State.timLock
  try dsimp only
  repeat' (first | with_reducible assumption | with_reducible apply State.kick_changes | with_reducible apply State.fset_changes | dsimp only | split)

theorem State.timHold_changes {s₀ : State} {s : State} (h : Changes s₀ s) : Changes s₀ (State.timHold s) := by
  unfold State.timHold
  try dsimp only
  repeat' (first | with_reducible assumption | with_reducible apply State.enterHoldover_changes | dsimp only | split)

theorem State.timRelease_changes {s₀ : State} {s : State} (h : Changes s₀ s) : Changes s₀ (State.timRelease s) := by
  unfold State.timRelease
  try dsimp only
  repeat' (first | with_reducible assumption | with_reducible apply State.fset_changes | dsimp only | split)

theorem timCtrlEffect_changes {s₀ : State} {v : Nat} {s : State} (h : Changes s₀ s) : Changes s₀ (timCtrlEffect v s).1 := by
  unfold timCtrlEffect
  try dsimp only
  repeat' (first | with_reducible assumption | with_reducible apply State.fset_changes | with_reducible apply State.timLock_changes | with_reducible apply State.timHold_changes | with_reducible apply State.timRelease_changes | dsimp only | split)

theorem execTimLock_changes {s₀ : State} {src : Nat} {s : State} (h : Changes s₀ s) : OutChanges s₀ (execTimLock src s) := by
  unfold execTimLock
  try dsimp only
  repeat' (first | with_reducible assumption | with_reducible apply regCmd_changes | with_reducible apply timCtrlEffect_changes | dsimp only)

theorem execTimHold_changes {s₀ : State} {src : Nat} {s : State} (h : Changes s₀ s) : OutChanges s₀ (execTimHold src s) := by
  unfold execTimHold
  try dsimp only
  repeat' (first | with_reducible assumption | with_reducible apply regCmd_changes | with_reducible apply timCtrlEffect_changes | dsimp only)

theorem execTimRelease_changes {s₀ : State} {src : Nat} {s : State} (h : Changes s₀ s) : OutChanges s₀ (execTimRelease src s) := by
  unfold execTimRelease
  try dsimp only
  repeat' (first | with_reducible assumption | with_reducible apply regCmd_changes | with_reducible apply timCtrlEffect_changes | dsimp only)

theorem execSyncTimeout_changes {s₀ : State} {s : State} (h : Changes s₀ s) : OutChanges s₀ (execSyncTimeout s) := by
  unfold execSyncTimeout
  try dsimp only
  repeat' (first | with_reducible assumption | with_reducible apply OutChanges.due | with_reducible apply State.enterHoldover_changes | dsimp only)

theorem timeNowRead_changes {s₀ : State} {src : Nat} {s : State} (h : Changes s₀ s) : Changes s₀ (timeNowRead src s).1 := by
  unfold timeNowRead
  try dsimp only
  repeat' (first | with_reducible assumption | with_reducible apply Changes.ite | with_reducible refine Changes.elim _ ?_ (fun b => ?_) | with_reducible apply Changes.ite_fst | with_reducible apply Changes.ite_snd | with_reducible refine Changes.foldl _ (fun v b hv => ?_) ?_ | with_reducible refine Changes.foldl_fst _ (fun v b hv => ?_) ?_ | with_reducible refine Changes.foldl_snd _ (fun v b hv => ?_) ?_ | dsimp only | split | refine Changes.of_fst_eq (by assumption) ?_ | with_reducible apply Changes.made | exact .left _ (by assumption) rfl rfl rfl rfl | exact .kept _ (by assumption) rfl rfl rfl rfl)

theorem execTimeNowRead_changes {s₀ : State} {src : Nat} {s : State} (h : Changes s₀ s) : OutChanges s₀ (execTimeNowRead src s) := by
  unfold execTimeNowRead
  try dsimp only
  repeat' (first | with_reducible assumption | with_reducible apply readCmd_changes | with_reducible apply timeNowRead_changes | dsimp only)

theorem State.modTrig_changes {s₀ : State} {s : State} {n : Nat} {g : Trig → Trig} (h : Changes s₀ s) : Changes s₀ (State.modTrig s n g) := by
  unfold State.modTrig
  try dsimp only
  repeat' (first | with_reducible assumption | with_reducible apply Changes.ite | with_reducible refine Changes.elim _ ?_ (fun b => ?_) | with_reducible apply Changes.ite_fst | with_reducible apply Changes.ite_snd | with_reducible refine Changes.foldl _ (fun v b hv => ?_) ?_ | with_reducible refine Changes.foldl_fst _ (fun v b hv => ?_) ?_ | with_reducible refine Changes.foldl_snd _ (fun v b hv => ?_) ?_ | dsimp only | split | refine Changes.of_fst_eq (by assumption) ?_ | with_reducible apply Changes.made | exact .left _ (by assumption) rfl rfl rfl rfl | exact .kept _ (by assumption) rfl rfl rfl rfl)

theorem State.settleTrig_changes {s₀ : State} {s : State} {n : Nat} (h : Changes s₀ s) : Changes s₀ (State.settleTrig s n) := by
  unfold State.settleTrig
  try dsimp only
  repeat' (first | with_reducible assumption | with_reducible apply State.modTrig_changes | dsimp only)

theorem trigCfgEffect_changes {s₀ : State} {n : Nat} {v : Nat} {s : State} (h : Changes s₀ s) : Changes s₀ (trigCfgEffect n v s).1 := by
  unfold trigCfgEffect
  try dsimp only
  repeat' (first | with_reducible assumption | with_reducible apply State.plainWrite_changes | with_reducible apply State.settleTrig_changes | with_reducible apply State.modTrig_changes | dsimp only | split)

theorem scheduleEffect_changes {s₀ : State} {armed : Bool} {a : Nat} {v : Nat} {s : State} (h : Changes s₀ s) : Changes s₀ (scheduleEffect armed a v s).1 := by
  unfold scheduleEffect
  try dsimp only
  repeat' (first | with_reducible assumption | with_reducible apply State.plainWrite_changes | dsimp only | split)

theorem execTriggerArm_changes {s₀ : State} {src : Nat} {n : Nat} {v : Nat} {s : State} (h : Changes s₀ s) : OutChanges s₀ (execTriggerArm src n v s) := by
  unfold execTriggerArm
  try dsimp only
  repeat' (first | with_reducible assumption | with_reducible apply regCmd_changes | with_reducible apply trigCfgEffect_changes | dsimp only)

theorem execTriggerDisarm_changes {s₀ : State} {src : Nat} {n : Nat} {v : Nat} {s : State} (h : Changes s₀ s) : OutChanges s₀ (execTriggerDisarm src n v s) := by
  unfold execTriggerDisarm
  try dsimp only
  repeat' (first | with_reducible assumption | with_reducible apply regCmd_changes | with_reducible apply trigCfgEffect_changes | dsimp only)

theorem State.lateSeen_changes {s₀ : State} {s : State} {late : Bool} (h : Changes s₀ s) : Changes s₀ (State.lateSeen s late) := by
  unfold State.lateSeen
  try dsimp only
  repeat' (first | with_reducible assumption | with_reducible apply State.fset_changes | dsimp only | split)

theorem execTriggerFire_changes {s₀ : State} {n : Nat} {s : State} (h : Changes s₀ s) : OutChanges s₀ (execTriggerFire n s) := by
  unfold execTriggerFire
  try dsimp only
  repeat' (first | with_reducible assumption | with_reducible apply OutChanges.unit | with_reducible apply OutChanges.due | with_reducible apply State.modTrig_changes | with_reducible apply State.fset_changes | with_reducible apply State.fadd_changes | with_reducible apply State.lateSeen_changes | dsimp only | split)

theorem execTriggerPulseEnd_changes {s₀ : State} {n : Nat} {s : State} (h : Changes s₀ s) : OutChanges s₀ (execTriggerPulseEnd n s) := by
  unfold execTriggerPulseEnd
  try dsimp only
  repeat' (first | with_reducible assumption | with_reducible apply OutChanges.unit | with_reducible apply OutChanges.due | with_reducible apply State.settleTrig_changes | with_reducible apply State.modTrig_changes | dsimp only)

theorem State.foldTime_changes {s₀ : State} {s : State} (h : Changes s₀ s) : Changes s₀ (State.foldTime s) := by
  unfold State.foldTime
  try dsimp only
  repeat' (first | with_reducible assumption | with_reducible apply State.modTrig_changes | with_reducible apply State.fset_changes | with_reducible apply Changes.ite | with_reducible refine Changes.elim _ ?_ (fun b => ?_) | with_reducible apply Changes.ite_fst | with_reducible apply Changes.ite_snd | with_reducible refine Changes.foldl _ (fun v b hv => ?_) ?_ | with_reducible refine Changes.foldl_fst _ (fun v b hv => ?_) ?_ | with_reducible refine Changes.foldl_snd _ (fun v b hv => ?_) ?_ | dsimp only | split | refine Changes.of_fst_eq (by assumption) ?_ | with_reducible apply Changes.made | exact .left _ (by assumption) rfl rfl rfl rfl | exact .kept _ (by assumption) rfl rfl rfl rfl)

theorem timerCfgEffect_changes {s₀ : State} {k : Nat} {v : Nat} {s : State} (h : Changes s₀ s) : Changes s₀ (timerCfgEffect k v s).1 := by
  unfold timerCfgEffect
  try dsimp only
  repeat' (first | with_reducible assumption | with_reducible apply State.plainWrite_changes | with_reducible apply Changes.ite | with_reducible refine Changes.elim _ ?_ (fun b => ?_) | with_reducible apply Changes.ite_fst | with_reducible apply Changes.ite_snd | with_reducible refine Changes.foldl _ (fun v b hv => ?_) ?_ | with_reducible refine Changes.foldl_fst _ (fun v b hv => ?_) ?_ | with_reducible refine Changes.foldl_snd _ (fun v b hv => ?_) ?_ | dsimp only | split | refine Changes.of_fst_eq (by assumption) ?_ | with_reducible apply Changes.made | exact .left _ (by assumption) rfl rfl rfl rfl | exact .kept _ (by assumption) rfl rfl rfl rfl)

theorem execControlTimerArm_changes {s₀ : State} {src : Nat} {k : Nat} {v : Nat} {s : State} (h : Changes s₀ s) : OutChanges s₀ (execControlTimerArm src k v s) := by
  unfold execControlTimerArm
  try dsimp only
  repeat' (first | with_reducible assumption | with_reducible apply regCmd_changes | with_reducible apply timerCfgEffect_changes | dsimp only)

theorem State.timerActs_changes {s₀ : State} {s : State} {k : Nat} (h : Changes s₀ s) : Changes s₀ (State.timerActs s k) := by
  unfold State.timerActs
  try dsimp only
  repeat' (first | with_reducible assumption | with_reducible apply State.pushDesc_changes | with_reducible apply State.fset_changes | with_reducible apply State.fadd_changes | with_reducible apply State.signal_changes | dsimp only | split)

theorem State.timerPush_changes {s₀ : State} {s : State} {k : Nat} (h : Changes s₀ s) : Changes s₀ (State.timerPush s k) := by
  unfold State.timerPush
  try dsimp only
  repeat' (first | with_reducible assumption | with_reducible apply State.chargeFor_changes | with_reducible apply State.timerActs_changes | with_reducible apply Changes.ite | with_reducible refine Changes.elim _ ?_ (fun b => ?_) | with_reducible apply Changes.ite_fst | with_reducible apply Changes.ite_snd | with_reducible refine Changes.foldl _ (fun v b hv => ?_) ?_ | with_reducible refine Changes.foldl_fst _ (fun v b hv => ?_) ?_ | with_reducible refine Changes.foldl_snd _ (fun v b hv => ?_) ?_ | dsimp only | split | with_reducible refine fun _ _ hu => ?_ | with_reducible refine fun _ hu => ?_ | refine Changes.of_fst_eq (by assumption) ?_)

theorem execControlTimerFire_changes {s₀ : State} {k : Nat} {s : State} (h : Changes s₀ s) : OutChanges s₀ (execControlTimerFire k s) := by
  unfold execControlTimerFire
  try dsimp only
  repeat' (first | with_reducible assumption | with_reducible apply OutChanges.unit | with_reducible apply OutChanges.due | with_reducible apply OutChanges.next | with_reducible apply OutChanges.fault | with_reducible apply OutChanges.ite | with_reducible apply State.fadd_changes | with_reducible apply State.lateSeen_changes | with_reducible apply State.timerPush_changes | with_reducible apply State.fset_changes | with_reducible apply Changes.ite | with_reducible refine Changes.elim _ ?_ (fun b => ?_) | with_reducible apply Changes.ite_fst | with_reducible apply Changes.ite_snd | with_reducible refine Changes.foldl _ (fun v b hv => ?_) ?_ | with_reducible refine Changes.foldl_fst _ (fun v b hv => ?_) ?_ | with_reducible refine Changes.foldl_snd _ (fun v b hv => ?_) ?_ | dsimp only | split | refine Changes.of_fst_eq (by assumption) ?_ | with_reducible apply Changes.made | exact .left _ (by assumption) rfl rfl rfl rfl | exact .kept _ (by assumption) rfl rfl rfl rfl)

theorem State.setCap_changes {s₀ : State} {s : State} {n : Nat} {l : List CapStamp} (h : Changes s₀ s) : Changes s₀ (State.setCap s n l) := by
  unfold State.setCap
  try dsimp only
  repeat' (first | with_reducible assumption | with_reducible apply State.fset_changes | with_reducible apply Changes.ite | with_reducible refine Changes.elim _ ?_ (fun b => ?_) | with_reducible apply Changes.ite_fst | with_reducible apply Changes.ite_snd | with_reducible refine Changes.foldl _ (fun v b hv => ?_) ?_ | with_reducible refine Changes.foldl_fst _ (fun v b hv => ?_) ?_ | with_reducible refine Changes.foldl_snd _ (fun v b hv => ?_) ?_ | dsimp only | split | refine Changes.of_fst_eq (by assumption) ?_ | with_reducible apply Changes.made | exact .left _ (by assumption) rfl rfl rfl rfl | exact .kept _ (by assumption) rfl rfl rfl rfl)

theorem execCaptureEdge_changes {s₀ : State} {n : Nat} {rising : Bool} {s : State} (h : Changes s₀ s) : OutChanges s₀ (execCaptureEdge n rising s) := by
  unfold execCaptureEdge
  try dsimp only
  repeat' (first | with_reducible assumption | with_reducible apply OutChanges.unit | with_reducible apply OutChanges.due | with_reducible apply State.fset_changes | with_reducible apply State.fadd_changes | with_reducible apply State.setCap_changes | with_reducible apply State.signal_changes | dsimp only | split)

theorem capPopRead_changes {s₀ : State} {n : Nat} {s : State} (h : Changes s₀ s) : Changes s₀ (capPopRead n s).1 := by
  unfold capPopRead
  try dsimp only
  repeat' (first | with_reducible assumption | with_reducible apply State.fset_changes | with_reducible apply State.setCap_changes | dsimp only | split)

theorem execCapturePop_changes {s₀ : State} {src : Nat} {n : Nat} {s : State} (h : Changes s₀ s) : OutChanges s₀ (execCapturePop src n s) := by
  unfold execCapturePop
  try dsimp only
  repeat' (first | with_reducible assumption | with_reducible apply readCmd_changes | with_reducible apply capPopRead_changes | dsimp only)

end Sys2Proof.Machine
end

