-- ==== Sys2Proof/Laws/ChangesEth.lean ====
section
/-! SUPPORT. The state after each definition of Sys2Proof/Machine/Eth.lean is reached by the model's own kinds of update. -/

namespace Sys2Proof.Machine

theorem State.modEth_changes {s₀ : State} {s : State} {p : Nat} {g : EthPort → EthPort} (h : Changes s₀ s) : Changes s₀ (State.modEth s p g) := by
  unfold State.modEth
  try dsimp only
  repeat' (first | with_reducible assumption | with_reducible apply Changes.ite | with_reducible refine Changes.elim _ ?_ (fun b => ?_) | with_reducible apply Changes.ite_fst | with_reducible apply Changes.ite_snd | with_reducible refine Changes.foldl _ (fun v b hv => ?_) ?_ | with_reducible refine Changes.foldl_fst _ (fun v b hv => ?_) ?_ | with_reducible refine Changes.foldl_snd _ (fun v b hv => ?_) ?_ | dsimp only | split | refine Changes.of_fst_eq (by assumption) ?_ | with_reducible apply Changes.made | exact .left _ (by assumption) rfl rfl rfl rfl | exact .kept _ (by assumption) rfl rfl rfl rfl)

theorem State.modHmp_changes {s₀ : State} {s : State} {g : Hmp → Hmp} (h : Changes s₀ s) : Changes s₀ (State.modHmp s g) := by
  unfold State.modHmp
  try dsimp only
  repeat' (first | with_reducible assumption | with_reducible apply Changes.ite | with_reducible refine Changes.elim _ ?_ (fun b => ?_) | with_reducible apply Changes.ite_fst | with_reducible apply Changes.ite_snd | with_reducible refine Changes.foldl _ (fun v b hv => ?_) ?_ | with_reducible refine Changes.foldl_fst _ (fun v b hv => ?_) ?_ | with_reducible refine Changes.foldl_snd _ (fun v b hv => ?_) ?_ | dsimp only | split | refine Changes.of_fst_eq (by assumption) ?_ | with_reducible apply Changes.made | exact .left _ (by assumption) rfl rfl rfl rfl | exact .kept _ (by assumption) rfl rfl rfl rfl)

theorem State.rxDrop_changes {s₀ : State} {s : State} {p : Nat} (h : Changes s₀ s) : Changes s₀ (State.rxDrop s p) := by
  unfold State.rxDrop
  try dsimp only
  repeat' (first | with_reducible assumption | with_reducible apply State.fadd_changes | dsimp only | split)

theorem State.rxError_changes {s₀ : State} {s : State} {p : Nat} (h : Changes s₀ s) : Changes s₀ (State.rxError s p) := by
  unfold State.rxError
  try dsimp only
  repeat' (first | with_reducible assumption | with_reducible apply State.fadd_changes | dsimp only | split)

theorem State.txSent_changes {s₀ : State} {s : State} {p : Nat} {f : TxFrame} (h : Changes s₀ s) : Changes s₀ (State.txSent s p f) := by
  unfold State.txSent
  try dsimp only
  repeat' (first | with_reducible assumption | with_reducible apply State.fadd_changes | with_reducible apply State.modEth_changes | with_reducible apply Changes.ite | with_reducible refine Changes.elim _ ?_ (fun b => ?_) | with_reducible apply Changes.ite_fst | with_reducible apply Changes.ite_snd | with_reducible refine Changes.foldl _ (fun v b hv => ?_) ?_ | with_reducible refine Changes.foldl_fst _ (fun v b hv => ?_) ?_ | with_reducible refine Changes.foldl_snd _ (fun v b hv => ?_) ?_ | dsimp only | split | refine Changes.of_fst_eq (by assumption) ?_)

theorem State.txSecured_changes {s₀ : State} {s : State} {p : Nat} {f : TxFrame} (h : Changes s₀ s) : Changes s₀ (State.txSecured s p f) := by
  unfold State.txSecured
  try dsimp only
  repeat' (first | with_reducible assumption | with_reducible apply State.fset_changes | with_reducible apply State.irq_changes | with_reducible apply State.txSent_changes | with_reducible apply Changes.ite | with_reducible refine Changes.elim _ ?_ (fun b => ?_) | with_reducible apply Changes.ite_fst | with_reducible apply Changes.ite_snd | with_reducible refine Changes.foldl _ (fun v b hv => ?_) ?_ | with_reducible refine Changes.foldl_fst _ (fun v b hv => ?_) ?_ | with_reducible refine Changes.foldl_snd _ (fun v b hv => ?_) ?_ | dsimp only | split | refine Changes.of_fst_eq (by assumption) ?_)

theorem State.txExhausted_changes {s₀ : State} {s : State} {p : Nat} (h : Changes s₀ s) : Changes s₀ (State.txExhausted s p) := by
  unfold State.txExhausted
  try dsimp only
  repeat' (first | with_reducible assumption | with_reducible apply State.irq_changes | with_reducible apply State.fset_changes | with_reducible apply State.fadd_changes | dsimp only)

theorem State.macsecOpen_changes {s₀ : State} {s : State} {p : Nat} {f : EthFrame} {t : SecTag} (h : Changes s₀ s) : Changes s₀ (State.macsecOpen s p f t).1 := by
  unfold State.macsecOpen
  try dsimp only
  repeat' (first | with_reducible assumption | with_reducible apply State.fset_changes | with_reducible apply State.modEth_changes | with_reducible apply Changes.ite | with_reducible refine Changes.elim _ ?_ (fun b => ?_) | with_reducible apply Changes.ite_fst | with_reducible apply Changes.ite_snd | with_reducible refine Changes.foldl _ (fun v b hv => ?_) ?_ | with_reducible refine Changes.foldl_fst _ (fun v b hv => ?_) ?_ | with_reducible refine Changes.foldl_snd _ (fun v b hv => ?_) ?_ | dsimp only | split | refine Changes.of_fst_eq (by assumption) ?_)

theorem State.qciMeter_changes {s₀ : State} {s : State} {p : Nat} {i : Nat} {n : Nat} (h : Changes s₀ s) : Changes s₀ (State.qciMeter s p i n).1 := by
  unfold State.qciMeter
  try dsimp only
  repeat' (first | with_reducible assumption | with_reducible apply State.modEth_changes | dsimp only | split)

theorem State.cbRecover_changes {s₀ : State} {s : State} {mac : Nat} {vid : Nat} {q : Nat} (h : Changes s₀ s) : Changes s₀ (State.cbRecover s mac vid q).1 := by
  unfold State.cbRecover
  try dsimp only
  repeat' (first | with_reducible assumption | with_reducible apply State.modHmp_changes | dsimp only | split)

theorem execCbRecoveryReset_changes {s₀ : State} {p : Nat} {i : Nat} {s : State} (h : Changes s₀ s) : OutChanges s₀ (execCbRecoveryReset p i s) := by
  unfold execCbRecoveryReset
  try dsimp only
  repeat' (first | with_reducible assumption | with_reducible apply OutChanges.unit | with_reducible apply OutChanges.due | with_reducible apply OutChanges.next | with_reducible apply State.modHmp_changes | dsimp only | split)

theorem State.enqueueTx_changes {s₀ : State} {s : State} {p : Nat} {f : TxFrame} (h : Changes s₀ s) : Changes s₀ (State.enqueueTx s p f) := by
  unfold State.enqueueTx
  try dsimp only
  repeat' (first | with_reducible assumption | with_reducible apply State.modEth_changes | with_reducible apply Changes.ite | with_reducible refine Changes.elim _ ?_ (fun b => ?_) | with_reducible apply Changes.ite_fst | with_reducible apply Changes.ite_snd | with_reducible refine Changes.foldl _ (fun v b hv => ?_) ?_ | with_reducible refine Changes.foldl_fst _ (fun v b hv => ?_) ?_ | with_reducible refine Changes.foldl_snd _ (fun v b hv => ?_) ?_ | dsimp only | split | refine Changes.of_fst_eq (by assumption) ?_)

theorem State.pduHead_changes {s₀ : State} {s : State} {u : Option (Bool × Nat × Nat)} {d : List Byte} (h : Changes s₀ s) : Changes s₀ (State.pduHead s u d).1 := by
  unfold State.pduHead
  try dsimp only
  repeat' (first | with_reducible assumption | with_reducible apply State.free_changes | with_reducible apply Changes.ite | with_reducible refine Changes.elim _ ?_ (fun b => ?_) | with_reducible apply Changes.ite_fst | with_reducible apply Changes.ite_snd | with_reducible refine Changes.foldl _ (fun v b hv => ?_) ?_ | with_reducible refine Changes.foldl_fst _ (fun v b hv => ?_) ?_ | with_reducible refine Changes.foldl_snd _ (fun v b hv => ?_) ?_ | dsimp only | split | refine Changes.of_fst_eq (by assumption) ?_)

theorem State.nextRtag_changes {s₀ : State} {s : State} (h : Changes s₀ s) : Changes s₀ (State.nextRtag s).1 := by
  unfold State.nextRtag
  try dsimp only
  repeat' (first | with_reducible assumption | with_reducible apply State.modHmp_changes | dsimp only | split)

theorem State.sendPdu_changes {s₀ : State} {s : State} {whom : Partner} {secured : Bool} {type : Nat} {pdu : List Byte} (h : Changes s₀ s) : Changes s₀ (State.sendPdu s whom secured type pdu) := by
  unfold State.sendPdu
  try dsimp only
  repeat' (first | with_reducible assumption | with_reducible apply State.pduHead_changes | with_reducible apply State.nextRtag_changes | with_reducible apply State.enqueueTx_changes | with_reducible apply Changes.ite | with_reducible refine Changes.elim _ ?_ (fun b => ?_) | with_reducible apply Changes.ite_fst | with_reducible apply Changes.ite_snd | with_reducible refine Changes.foldl _ (fun v b hv => ?_) ?_ | with_reducible refine Changes.foldl_fst _ (fun v b hv => ?_) ?_ | with_reducible refine Changes.foldl_snd _ (fun v b hv => ?_) ?_ | dsimp only | split | refine Changes.of_fst_eq (by assumption) ?_)

theorem State.modSession_changes {s₀ : State} {s : State} {k : Nat} {g : HmpSession → HmpSession} (h : Changes s₀ s) : Changes s₀ (State.modSession s k g) := by
  unfold State.modSession
  try dsimp only
  repeat' (first | with_reducible assumption | with_reducible apply State.modHmp_changes | dsimp only)

theorem State.closeSession_changes {s₀ : State} {s : State} {k : Nat} (h : Changes s₀ s) : Changes s₀ (State.closeSession s k) := by
  unfold State.closeSession
  try dsimp only
  repeat' (first | with_reducible assumption | with_reducible apply State.fset_changes | with_reducible apply State.modHmp_changes | with_reducible apply State.modSession_changes | dsimp only | split)

theorem State.expireSession_changes {s₀ : State} {s : State} {k : Nat} (h : Changes s₀ s) : Changes s₀ (State.expireSession s k) := by
  unfold State.expireSession
  try dsimp only
  repeat' (first | with_reducible assumption | with_reducible apply State.fadd_changes | with_reducible apply State.closeSession_changes | dsimp only | split)

theorem execSessionTimeout_changes {s₀ : State} {k : Nat} {s : State} (h : Changes s₀ s) : OutChanges s₀ (execSessionTimeout k s) := by
  unfold execSessionTimeout
  try dsimp only
  repeat' (first | with_reducible assumption | with_reducible apply OutChanges.unit | with_reducible apply OutChanges.due | with_reducible apply State.expireSession_changes | dsimp only)

theorem sessionCtrlEffect_changes {s₀ : State} {k : Nat} {v : Nat} {s : State} (h : Changes s₀ s) : Changes s₀ (sessionCtrlEffect k v s).1 := by
  unfold sessionCtrlEffect
  try dsimp only
  repeat' (first | with_reducible assumption | with_reducible apply State.closeSession_changes | dsimp only | split)

theorem execHmpSessionCloseWrite_changes {s₀ : State} {src : Nat} {k : Nat} {s : State} (h : Changes s₀ s) : OutChanges s₀ (execHmpSessionCloseWrite src k s) := by
  unfold execHmpSessionCloseWrite
  try dsimp only
  repeat' (first | with_reducible assumption | with_reducible apply regCmd_changes | with_reducible apply sessionCtrlEffect_changes | dsimp only)

theorem State.keepReplay_changes {s₀ : State} {s : State} {k : Nat} {r : HmpReq} {pdu : List Byte} (h : Changes s₀ s) : Changes s₀ (State.keepReplay s k r pdu) := by
  unfold State.keepReplay
  try dsimp only
  repeat' (first | with_reducible assumption | with_reducible apply State.modSession_changes | with_reducible apply Changes.ite | with_reducible refine Changes.elim _ ?_ (fun b => ?_) | with_reducible apply Changes.ite_fst | with_reducible apply Changes.ite_snd | with_reducible refine Changes.foldl _ (fun v b hv => ?_) ?_ | with_reducible refine Changes.foldl_fst _ (fun v b hv => ?_) ?_ | with_reducible refine Changes.foldl_snd _ (fun v b hv => ?_) ?_ | dsimp only | split | refine Changes.of_fst_eq (by assumption) ?_)

theorem State.countResponse_changes {s₀ : State} {s : State} {r : HmpReq} (h : Changes s₀ s) : Changes s₀ (State.countResponse s r) := by
  unfold State.countResponse
  try dsimp only
  repeat' (first | with_reducible assumption | with_reducible apply State.fadd_changes | with_reducible apply Changes.ite | with_reducible refine Changes.elim _ ?_ (fun b => ?_) | with_reducible apply Changes.ite_fst | with_reducible apply Changes.ite_snd | with_reducible refine Changes.foldl _ (fun v b hv => ?_) ?_ | with_reducible refine Changes.foldl_fst _ (fun v b hv => ?_) ?_ | with_reducible refine Changes.foldl_snd _ (fun v b hv => ?_) ?_ | dsimp only | split | refine Changes.of_fst_eq (by assumption) ?_)

theorem State.respondAs_changes {s₀ : State} {s : State} {r : HmpReq} {session : Nat} {status : Nat} {payload : List Byte} (h : Changes s₀ s) : Changes s₀ (State.respondAs s r session status payload) := by
  unfold State.respondAs
  try dsimp only
  repeat' (first | with_reducible assumption | with_reducible apply State.keepReplay_changes | with_reducible apply State.sendPdu_changes | with_reducible apply State.countResponse_changes | with_reducible apply Changes.ite | with_reducible refine Changes.elim _ ?_ (fun b => ?_) | with_reducible apply Changes.ite_fst | with_reducible apply Changes.ite_snd | with_reducible refine Changes.foldl _ (fun v b hv => ?_) ?_ | with_reducible refine Changes.foldl_fst _ (fun v b hv => ?_) ?_ | with_reducible refine Changes.foldl_snd _ (fun v b hv => ?_) ?_ | dsimp only | split | refine Changes.of_fst_eq (by assumption) ?_)

theorem State.respond_changes {s₀ : State} {s : State} {r : HmpReq} {status : Nat} {payload : List Byte} (h : Changes s₀ s) : Changes s₀ (State.respond s r status payload) := by
  unfold State.respond
  try dsimp only
  repeat' (first | with_reducible assumption | with_reducible apply State.respondAs_changes | dsimp only)

theorem State.queueReq_changes {s₀ : State} {s : State} {r : HmpReq} (h : Changes s₀ s) : Changes s₀ (State.queueReq s r) := by
  unfold State.queueReq
  try dsimp only
  repeat' (first | with_reducible assumption | with_reducible apply State.modHmp_changes | dsimp only)

theorem State.sequence_changes {s₀ : State} {s : State} {k : Nat} {r : HmpReq} (h : Changes s₀ s) : Changes s₀ (State.sequence s k r) := by
  unfold State.sequence
  try dsimp only
  repeat' (first | with_reducible assumption | with_reducible apply State.fset_changes | with_reducible apply State.fadd_changes | with_reducible apply State.modSession_changes | with_reducible apply State.queueReq_changes | with_reducible apply State.sendPdu_changes | with_reducible apply Changes.ite | with_reducible refine Changes.elim _ ?_ (fun b => ?_) | with_reducible apply Changes.ite_fst | with_reducible apply Changes.ite_snd | with_reducible refine Changes.foldl _ (fun v b hv => ?_) ?_ | with_reducible refine Changes.foldl_fst _ (fun v b hv => ?_) ?_ | with_reducible refine Changes.foldl_snd _ (fun v b hv => ?_) ?_ | dsimp only | split | refine Changes.of_fst_eq (by assumption) ?_)

theorem State.hmpReceive_changes {s₀ : State} {s : State} {frm : Partner} {secured : Bool} {b : List Byte} (h : Changes s₀ s) : Changes s₀ (State.hmpReceive s frm secured b) := by
  unfold State.hmpReceive
  try dsimp only
  repeat' (first | with_reducible assumption | with_reducible apply State.fset_changes | with_reducible apply State.fadd_changes | with_reducible apply State.queueReq_changes | with_reducible apply State.expireSession_changes | with_reducible apply State.sequence_changes | with_reducible apply Changes.ite | with_reducible refine Changes.elim _ ?_ (fun b => ?_) | with_reducible apply Changes.ite_fst | with_reducible apply Changes.ite_snd | with_reducible refine Changes.foldl _ (fun v b hv => ?_) ?_ | with_reducible refine Changes.foldl_fst _ (fun v b hv => ?_) ?_ | with_reducible refine Changes.foldl_snd _ (fun v b hv => ?_) ?_ | dsimp only | split | refine Changes.of_fst_eq (by assumption) ?_)

theorem State.toHmp_changes {s₀ : State} {s : State} {p : Nat} {f : EthFrame} {secured : Bool} {udp : Option (Bool × Nat × Nat)} {b : List Byte} (h : Changes s₀ s) : Changes s₀ (State.toHmp s p f secured udp b) := by
  unfold State.toHmp
  try dsimp only
  repeat' (first | with_reducible assumption | with_reducible apply State.rxDrop_changes | with_reducible apply State.cbRecover_changes | with_reducible apply State.fadd_changes | with_reducible apply State.hmpReceive_changes | dsimp only | split)

theorem State.ptpReceive_changes {s₀ : State} {s : State} {p : Nat} {f : EthFrame} (h : Changes s₀ s) : Changes s₀ (State.ptpReceive s p f) := by
  unfold State.ptpReceive
  try dsimp only
  repeat' (first | with_reducible assumption | with_reducible apply State.fadd_changes | with_reducible apply State.writeBytes_changes | with_reducible apply State.irq_changes | with_reducible apply Changes.ite | with_reducible refine Changes.elim _ ?_ (fun b => ?_) | with_reducible apply Changes.ite_fst | with_reducible apply Changes.ite_snd | with_reducible refine Changes.foldl _ (fun v b hv => ?_) ?_ | with_reducible refine Changes.foldl_fst _ (fun v b hv => ?_) ?_ | with_reducible refine Changes.foldl_snd _ (fun v b hv => ?_) ?_ | dsimp only | split | refine Changes.of_fst_eq (by assumption) ?_ | with_reducible apply Changes.made | exact .left _ (by assumption) rfl rfl rfl rfl | exact .kept _ (by assumption) rfl rfl rfl rfl)

theorem State.sortFrame_changes {s₀ : State} {s : State} {p : Nat} {f : EthFrame} {secured : Bool} (h : Changes s₀ s) : Changes s₀ (State.sortFrame s p f secured) := by
  unfold State.sortFrame
  try dsimp only
  repeat' (first | with_reducible assumption | with_reducible apply State.modHmp_changes | with_reducible apply State.toHmp_changes | with_reducible apply State.rxDrop_changes | with_reducible apply State.ptpReceive_changes | with_reducible apply Changes.ite | with_reducible refine Changes.elim _ ?_ (fun b => ?_) | with_reducible apply Changes.ite_fst | with_reducible apply Changes.ite_snd | with_reducible refine Changes.foldl _ (fun v b hv => ?_) ?_ | with_reducible refine Changes.foldl_fst _ (fun v b hv => ?_) ?_ | with_reducible refine Changes.foldl_snd _ (fun v b hv => ?_) ?_ | dsimp only | split | refine Changes.of_fst_eq (by assumption) ?_)

theorem State.acceptFrame_changes {s₀ : State} {s : State} {p : Nat} {f : EthFrame} (h : Changes s₀ s) : Changes s₀ (State.acceptFrame s p f) := by
  unfold State.acceptFrame
  try dsimp only
  repeat' (first | with_reducible assumption | with_reducible apply State.macsecOpen_changes | with_reducible apply State.fadd_changes | with_reducible apply State.rxDrop_changes | with_reducible apply State.sortFrame_changes | with_reducible apply State.qciMeter_changes | with_reducible apply Changes.ite | with_reducible refine Changes.elim _ ?_ (fun b => ?_) | with_reducible apply Changes.ite_fst | with_reducible apply Changes.ite_snd | with_reducible refine Changes.foldl _ (fun v b hv => ?_) ?_ | with_reducible refine Changes.foldl_fst _ (fun v b hv => ?_) ?_ | with_reducible refine Changes.foldl_snd _ (fun v b hv => ?_) ?_ | dsimp only | split | refine Changes.of_fst_eq (by assumption) ?_)

theorem State.receiveFrame_changes {s₀ : State} {s : State} {p : Nat} {f : EthFrame} (h : Changes s₀ s) : Changes s₀ (State.receiveFrame s p f) := by
  unfold State.receiveFrame
  try dsimp only
  repeat' (first | with_reducible assumption | with_reducible apply State.rxError_changes | with_reducible apply State.fadd_changes | with_reducible apply State.injectCheck_changes | with_reducible apply State.acceptFrame_changes | dsimp only | split)

theorem execEthFrameReceive_changes {s₀ : State} {p : Nat} {f : EthFrame} {s : State} (h : Changes s₀ s) : OutChanges s₀ (execEthFrameReceive p f s) := by
  unfold execEthFrameReceive
  try dsimp only
  repeat' (first | with_reducible assumption | with_reducible apply OutChanges.unit | with_reducible apply OutChanges.due | with_reducible apply State.receiveFrame_changes | dsimp only)

theorem execEthLinkLoss_changes {s₀ : State} {p : Nat} {s : State} (h : Changes s₀ s) : OutChanges s₀ (execEthLinkLoss p s) := by
  unfold execEthLinkLoss
  try dsimp only
  repeat' (first | with_reducible assumption | with_reducible apply OutChanges.unit | with_reducible apply OutChanges.due | with_reducible apply State.fset_changes | with_reducible apply State.modEth_changes | dsimp only)

theorem State.verifyPreempt_changes {s₀ : State} {s : State} {p : Nat} (h : Changes s₀ s) : Changes s₀ (State.verifyPreempt s p) := by
  unfold State.verifyPreempt
  try dsimp only
  repeat' (first | with_reducible assumption | with_reducible apply State.free_changes | with_reducible apply State.fset_changes | with_reducible apply Changes.ite | with_reducible refine Changes.elim _ ?_ (fun b => ?_) | with_reducible apply Changes.ite_fst | with_reducible apply Changes.ite_snd | with_reducible refine Changes.foldl _ (fun v b hv => ?_) ?_ | with_reducible refine Changes.foldl_fst _ (fun v b hv => ?_) ?_ | with_reducible refine Changes.foldl_snd _ (fun v b hv => ?_) ?_ | dsimp only | split | refine Changes.of_fst_eq (by assumption) ?_)

theorem execEthLinkUp_changes {s₀ : State} {p : Nat} {s : State} (h : Changes s₀ s) : OutChanges s₀ (execEthLinkUp p s) := by
  unfold execEthLinkUp
  try dsimp only
  repeat' (first | with_reducible assumption | with_reducible apply OutChanges.unit | with_reducible apply OutChanges.due | with_reducible apply OutChanges.next | with_reducible apply OutChanges.fault | with_reducible apply OutChanges.ite | with_reducible apply State.verifyPreempt_changes | with_reducible apply State.fset_changes | with_reducible apply Changes.ite | with_reducible refine Changes.elim _ ?_ (fun b => ?_) | with_reducible apply Changes.ite_fst | with_reducible apply Changes.ite_snd | with_reducible refine Changes.foldl _ (fun v b hv => ?_) ?_ | with_reducible refine Changes.foldl_fst _ (fun v b hv => ?_) ?_ | with_reducible refine Changes.foldl_snd _ (fun v b hv => ?_) ?_ | dsimp only | split | refine Changes.of_fst_eq (by assumption) ?_)

theorem State.transmit_changes {s₀ : State} {s : State} {p : Nat} {i : Nat} (h : Changes s₀ s) : Changes s₀ (State.transmit s p i) := by
  unfold State.transmit
  try dsimp only
  repeat' (first | with_reducible assumption | with_reducible apply State.modEth_changes | with_reducible apply State.txSent_changes | with_reducible apply State.txSecured_changes | with_reducible apply State.txExhausted_changes | dsimp only | split)

theorem execEthFrameTransmit_changes {s₀ : State} {p : Nat} {s : State} (h : Changes s₀ s) : OutChanges s₀ (execEthFrameTransmit p s) := by
  unfold execEthFrameTransmit
  try dsimp only
  repeat' (first | with_reducible assumption | with_reducible apply OutChanges.unit | with_reducible apply OutChanges.due | with_reducible apply OutChanges.next | with_reducible apply OutChanges.fault | with_reducible apply OutChanges.ite | with_reducible apply State.transmit_changes | with_reducible apply Changes.ite | with_reducible refine Changes.elim _ ?_ (fun b => ?_) | with_reducible apply Changes.ite_fst | with_reducible apply Changes.ite_snd | with_reducible refine Changes.foldl _ (fun v b hv => ?_) ?_ | with_reducible refine Changes.foldl_fst _ (fun v b hv => ?_) ?_ | with_reducible refine Changes.foldl_snd _ (fun v b hv => ?_) ?_ | dsimp only | split | refine Changes.of_fst_eq (by assumption) ?_)

theorem qbvLenEffect_changes {s₀ : State} {p : Nat} {v : Nat} {s : State} (h : Changes s₀ s) : Changes s₀ (qbvLenEffect p v s).1 := by
  unfold qbvLenEffect
  try dsimp only
  repeat' (first | with_reducible assumption | with_reducible apply State.plainWrite_changes | with_reducible apply State.fset_changes | with_reducible apply State.modEth_changes | dsimp only | split)

theorem execQbvCommit_changes {s₀ : State} {src : Nat} {p : Nat} {v : Nat} {s : State} (h : Changes s₀ s) : OutChanges s₀ (execQbvCommit src p v s) := by
  unfold execQbvCommit
  try dsimp only
  repeat' (first | with_reducible assumption | with_reducible apply regCmd_changes | with_reducible apply qbvLenEffect_changes | dsimp only)

theorem execQbvCycleBoundary_changes {s₀ : State} {p : Nat} {s : State} (h : Changes s₀ s) : OutChanges s₀ (execQbvCycleBoundary p s) := by
  unfold execQbvCycleBoundary
  try dsimp only
  repeat' (first | with_reducible assumption | with_reducible apply OutChanges.unit | with_reducible apply OutChanges.due | with_reducible apply OutChanges.next | with_reducible apply State.modEth_changes | with_reducible apply State.fset_changes | dsimp only | split)

theorem State.sendLastWord_changes {s₀ : State} {s : State} {w : LastWord} {copy : Nat} (h : Changes s₀ s) : Changes s₀ (State.sendLastWord s w copy) := by
  unfold State.sendLastWord
  try dsimp only
  repeat' (first | with_reducible assumption | with_reducible apply State.nextRtag_changes | with_reducible apply State.modHmp_changes | with_reducible apply State.fset_changes | with_reducible apply State.txSecured_changes | with_reducible apply State.txSent_changes | with_reducible apply Changes.ite | with_reducible refine Changes.elim _ ?_ (fun b => ?_) | with_reducible apply Changes.ite_fst | with_reducible apply Changes.ite_snd | with_reducible refine Changes.foldl _ (fun v b hv => ?_) ?_ | with_reducible refine Changes.foldl_fst _ (fun v b hv => ?_) ?_ | with_reducible refine Changes.foldl_snd _ (fun v b hv => ?_) ?_ | dsimp only | split | refine Changes.of_fst_eq (by assumption) ?_)

theorem State.cutFrame_changes {s₀ : State} {s : State} {p : Nat} (h : Changes s₀ s) : Changes s₀ (State.cutFrame s p) := by
  unfold State.cutFrame
  try dsimp only
  repeat' (first | with_reducible assumption | with_reducible apply State.modEth_changes | with_reducible apply State.fadd_changes | with_reducible apply State.fset_changes | with_reducible apply Changes.ite | with_reducible refine Changes.elim _ ?_ (fun b => ?_) | with_reducible apply Changes.ite_fst | with_reducible apply Changes.ite_snd | with_reducible refine Changes.foldl _ (fun v b hv => ?_) ?_ | with_reducible refine Changes.foldl_fst _ (fun v b hv => ?_) ?_ | with_reducible refine Changes.foldl_snd _ (fun v b hv => ?_) ?_ | dsimp only | split | refine Changes.of_fst_eq (by assumption) ?_)

theorem State.foldEth_changes {s₀ : State} {s : State} {source : Nat} (h : Changes s₀ s) : Changes s₀ (State.foldEth s source) := by
  unfold State.foldEth
  try dsimp only
  repeat' (first | with_reducible assumption | with_reducible apply State.modEth_changes | with_reducible apply State.cutFrame_changes | with_reducible apply State.sendLastWord_changes | with_reducible apply Changes.ite | with_reducible refine Changes.elim _ ?_ (fun b => ?_) | with_reducible apply Changes.ite_fst | with_reducible apply Changes.ite_snd | with_reducible refine Changes.foldl _ (fun v b hv => ?_) ?_ | with_reducible refine Changes.foldl_fst _ (fun v b hv => ?_) ?_ | with_reducible refine Changes.foldl_snd _ (fun v b hv => ?_) ?_ | dsimp only | split | refine Changes.of_fst_eq (by assumption) ?_)

theorem execLastWordCopy_changes {s₀ : State} {copy : Nat} {s : State} (h : Changes s₀ s) : OutChanges s₀ (execLastWordCopy copy s) := by
  unfold execLastWordCopy
  try dsimp only
  repeat' (first | with_reducible assumption | with_reducible apply OutChanges.due | with_reducible apply OutChanges.next | with_reducible apply State.sendLastWord_changes | dsimp only | split)

theorem State.fwFree_changes {s₀ : State} {s : State} {i : Nat} (h : Changes s₀ s) : Changes s₀ (State.fwFree s i) := by
  unfold State.fwFree
  try dsimp only
  repeat' (first | with_reducible assumption | with_reducible apply State.modHmp_changes | dsimp only)

theorem State.fwAnswer_changes {s₀ : State} {s : State} {i : Nat} (h : Changes s₀ s) : Changes s₀ (State.fwAnswer s i) := by
  unfold State.fwAnswer
  try dsimp only
  repeat' (first | with_reducible assumption | with_reducible apply State.fwFree_changes | with_reducible apply State.countResponse_changes | with_reducible apply State.keepReplay_changes | with_reducible apply State.hubRead_changes | with_reducible apply State.sendPdu_changes | with_reducible apply Changes.ite | with_reducible refine Changes.elim _ ?_ (fun b => ?_) | with_reducible apply Changes.ite_fst | with_reducible apply Changes.ite_snd | with_reducible refine Changes.foldl _ (fun v b hv => ?_) ?_ | with_reducible refine Changes.foldl_fst _ (fun v b hv => ?_) ?_ | with_reducible refine Changes.foldl_snd _ (fun v b hv => ?_) ?_ | dsimp only | split | refine Changes.of_fst_eq (by assumption) ?_)

theorem fwDoneEffect_changes {s₀ : State} {v : Nat} {s : State} (h : Changes s₀ s) : Changes s₀ (fwDoneEffect v s).1 := by
  unfold fwDoneEffect
  try dsimp only
  repeat' (first | with_reducible assumption | with_reducible apply State.modHmp_changes | with_reducible apply State.chargeFor_changes | with_reducible apply State.fwAnswer_changes | with_reducible apply Changes.ite | with_reducible refine Changes.elim _ ?_ (fun b => ?_) | with_reducible apply Changes.ite_fst | with_reducible apply Changes.ite_snd | with_reducible refine Changes.foldl _ (fun v b hv => ?_) ?_ | with_reducible refine Changes.foldl_fst _ (fun v b hv => ?_) ?_ | with_reducible refine Changes.foldl_snd _ (fun v b hv => ?_) ?_ | dsimp only | split | with_reducible refine fun _ _ hu => ?_ | with_reducible refine fun _ hu => ?_ | refine Changes.of_fst_eq (by assumption) ?_)

theorem execFwDone_changes {s₀ : State} {src : Nat} {i : Nat} {s : State} (h : Changes s₀ s) : OutChanges s₀ (execFwDone src i s) := by
  unfold execFwDone
  try dsimp only
  repeat' (first | with_reducible assumption | with_reducible apply regCmd_changes | with_reducible apply fwDoneEffect_changes | dsimp only)

theorem execFwResponseTimeout_changes {s₀ : State} {i : Nat} {s : State} (h : Changes s₀ s) : OutChanges s₀ (execFwResponseTimeout i s) := by
  unfold execFwResponseTimeout
  try dsimp only
  repeat' (first | with_reducible assumption | with_reducible apply OutChanges.unit | with_reducible apply OutChanges.due | with_reducible apply OutChanges.next | with_reducible apply OutChanges.fault | with_reducible apply OutChanges.ite | with_reducible apply State.fset_changes | with_reducible apply State.fwFree_changes | with_reducible apply State.respond_changes | with_reducible apply Changes.ite | with_reducible refine Changes.elim _ ?_ (fun b => ?_) | with_reducible apply Changes.ite_fst | with_reducible apply Changes.ite_snd | with_reducible refine Changes.foldl _ (fun v b hv => ?_) ?_ | with_reducible refine Changes.foldl_fst _ (fun v b hv => ?_) ?_ | with_reducible refine Changes.foldl_snd _ (fun v b hv => ?_) ?_ | dsimp only | split | refine Changes.of_fst_eq (by assumption) ?_)

theorem ethCtrlEffect_changes {s₀ : State} {p : Nat} {v : Nat} {s : State} (h : Changes s₀ s) : Changes s₀ (ethCtrlEffect p v s).1 := by
  unfold ethCtrlEffect
  try dsimp only
  repeat' (first | with_reducible assumption | with_reducible apply State.verifyPreempt_changes | with_reducible apply State.plainWrite_changes | with_reducible apply Changes.ite | with_reducible refine Changes.elim _ ?_ (fun b => ?_) | with_reducible apply Changes.ite_fst | with_reducible apply Changes.ite_snd | with_reducible refine Changes.foldl _ (fun v b hv => ?_) ?_ | with_reducible refine Changes.foldl_fst _ (fun v b hv => ?_) ?_ | with_reducible refine Changes.foldl_snd _ (fun v b hv => ?_) ?_ | dsimp only | split | refine Changes.of_fst_eq (by assumption) ?_)

theorem mgtCtrlEffect_changes {s₀ : State} {v : Nat} {s : State} (h : Changes s₀ s) : Changes s₀ (mgtCtrlEffect v s).1 := by
  unfold mgtCtrlEffect
  try dsimp only
  repeat' (first | with_reducible assumption | with_reducible apply State.plainWrite_changes | with_reducible apply State.modEth_changes | with_reducible apply Changes.ite | with_reducible refine Changes.elim _ ?_ (fun b => ?_) | with_reducible apply Changes.ite_fst | with_reducible apply Changes.ite_snd | with_reducible refine Changes.foldl _ (fun v b hv => ?_) ?_ | with_reducible refine Changes.foldl_fst _ (fun v b hv => ?_) ?_ | with_reducible refine Changes.foldl_snd _ (fun v b hv => ?_) ?_ | dsimp only | split | refine Changes.of_fst_eq (by assumption) ?_)

theorem rxPnEffect_changes {s₀ : State} {p : Nat} {c : Nat} {a : Nat} {addr : Nat} {v : Nat} {s : State} (h : Changes s₀ s) : Changes s₀ (rxPnEffect p c a addr v s).1 := by
  unfold rxPnEffect
  try dsimp only
  repeat' (first | with_reducible assumption | with_reducible apply State.modEth_changes | with_reducible apply State.plainWrite_changes | with_reducible apply Changes.ite | with_reducible refine Changes.elim _ ?_ (fun b => ?_) | with_reducible apply Changes.ite_fst | with_reducible apply Changes.ite_snd | with_reducible refine Changes.foldl _ (fun v b hv => ?_) ?_ | with_reducible refine Changes.foldl_fst _ (fun v b hv => ?_) ?_ | with_reducible refine Changes.foldl_snd _ (fun v b hv => ?_) ?_ | dsimp only | split | refine Changes.of_fst_eq (by assumption) ?_)

theorem macsecKeyEffect_changes {s₀ : State} {addr : Nat} {v : Nat} {s : State} (h : Changes s₀ s) : Changes s₀ (macsecKeyEffect addr v s).1 := by
  unfold macsecKeyEffect
  try dsimp only
  repeat' (first | with_reducible assumption | with_reducible apply State.plainWrite_changes | dsimp only | split)

theorem execMacsecKeyWrite_changes {s₀ : State} {src : Nat} {addr : Nat} {v : Nat} {s : State} (h : Changes s₀ s) : OutChanges s₀ (execMacsecKeyWrite src addr v s) := by
  unfold execMacsecKeyWrite
  try dsimp only
  repeat' (first | with_reducible assumption | with_reducible apply regCmd_changes | with_reducible apply macsecKeyEffect_changes | dsimp only)

theorem mdioEffect_changes {s₀ : State} {v : Nat} {s : State} (h : Changes s₀ s) : Changes s₀ (mdioEffect v s).1 := by
  unfold mdioEffect
  try dsimp only
  repeat' (first | with_reducible assumption | with_reducible apply State.plainWrite_changes | with_reducible apply State.fset_changes | dsimp only | split)

theorem execMdioAccess_changes {s₀ : State} {src : Nat} {v : Nat} {s : State} (h : Changes s₀ s) : OutChanges s₀ (execMdioAccess src v s) := by
  unfold execMdioAccess
  try dsimp only
  repeat' (first | with_reducible assumption | with_reducible apply regCmd_changes | with_reducible apply mdioEffect_changes | dsimp only)

theorem execMdioDone_changes {s₀ : State} {data : Nat} {s : State} (h : Changes s₀ s) : OutChanges s₀ (execMdioDone data s) := by
  unfold execMdioDone
  try dsimp only
  repeat' (first | with_reducible assumption | with_reducible apply OutChanges.due | with_reducible apply State.fset_changes | dsimp only | split)

theorem ptpTxGoEffect_changes {s₀ : State} {v : Nat} {s : State} (h : Changes s₀ s) : Changes s₀ (ptpTxGoEffect v s).1 := by
  unfold ptpTxGoEffect
  try dsimp only
  repeat' (first | with_reducible assumption | with_reducible apply Changes.ite | with_reducible refine Changes.elim _ ?_ (fun b => ?_) | with_reducible apply Changes.ite_fst | with_reducible apply Changes.ite_snd | with_reducible refine Changes.foldl _ (fun v b hv => ?_) ?_ | with_reducible refine Changes.foldl_fst _ (fun v b hv => ?_) ?_ | with_reducible refine Changes.foldl_snd _ (fun v b hv => ?_) ?_ | dsimp only | split | refine Changes.of_fst_eq (by assumption) ?_ | with_reducible apply Changes.made | exact .left _ (by assumption) rfl rfl rfl rfl | exact .kept _ (by assumption) rfl rfl rfl rfl)

theorem execPtpTxGo_changes {s₀ : State} {src : Nat} {i : Nat} {s : State} (h : Changes s₀ s) : OutChanges s₀ (execPtpTxGo src i s) := by
  unfold execPtpTxGo
  try dsimp only
  repeat' (first | with_reducible assumption | with_reducible apply regCmd_changes | with_reducible apply ptpTxGoEffect_changes | dsimp only)

theorem State.ptpSend_changes {s₀ : State} {s : State} {i : Nat} {p : Nat} (h : Changes s₀ s) : Changes s₀ (State.ptpSend s i p) := by
  unfold State.ptpSend
  try dsimp only
  repeat' (first | with_reducible assumption | with_reducible apply State.writeBytes_changes | with_reducible apply State.txSent_changes | with_reducible apply Changes.ite | with_reducible refine Changes.elim _ ?_ (fun b => ?_) | with_reducible apply Changes.ite_fst | with_reducible apply Changes.ite_snd | with_reducible refine Changes.foldl _ (fun v b hv => ?_) ?_ | with_reducible refine Changes.foldl_fst _ (fun v b hv => ?_) ?_ | with_reducible refine Changes.foldl_snd _ (fun v b hv => ?_) ?_ | dsimp only | split | refine Changes.of_fst_eq (by assumption) ?_ | with_reducible apply Changes.made | exact .left _ (by assumption) rfl rfl rfl rfl | exact .kept _ (by assumption) rfl rfl rfl rfl)

theorem execPtpTxDone_changes {s₀ : State} {i : Nat} {s : State} (h : Changes s₀ s) : OutChanges s₀ (execPtpTxDone i s) := by
  unfold execPtpTxDone
  try dsimp only
  repeat' (first | with_reducible assumption | with_reducible apply OutChanges.unit | with_reducible apply OutChanges.due | with_reducible apply OutChanges.next | with_reducible apply OutChanges.fault | with_reducible apply OutChanges.ite | with_reducible apply State.ptpSend_changes | with_reducible apply Changes.ite | with_reducible refine Changes.elim _ ?_ (fun b => ?_) | with_reducible apply Changes.ite_fst | with_reducible apply Changes.ite_snd | with_reducible refine Changes.foldl _ (fun v b hv => ?_) ?_ | with_reducible refine Changes.foldl_fst _ (fun v b hv => ?_) ?_ | with_reducible refine Changes.foldl_snd _ (fun v b hv => ?_) ?_ | dsimp only | split | refine Changes.of_fst_eq (by assumption) ?_)

end Sys2Proof.Machine
end

