-- ==== Sys2Proof/Laws/ChangesFetch.lean ====
section
/-! SUPPORT. The state after each definition of Sys2Proof/Machine/Fetch.lean is reached by the model's own kinds of update. -/

namespace Sys2Proof.Machine

theorem State.addFlight_changes {s₀ : State} {s : State} {f : Flight} (h : Changes s₀ s) : Changes s₀ (State.addFlight s f) := by
  unfold State.addFlight
  try dsimp only
  repeat' (first | with_reducible assumption | with_reducible apply State.setFlights_changes | dsimp only)

theorem State.malformedFlight_changes {s₀ : State} {s : State} {r : DescRef} (h : Changes s₀ s) : Changes s₀ (State.malformedFlight s r) := by
  unfold State.malformedFlight
  try dsimp only
  repeat' (first | with_reducible assumption | with_reducible apply State.endFault_changes | with_reducible apply State.fset_changes | with_reducible apply State.fadd_changes | dsimp only)

theorem State.tagBreak_changes {s₀ : State} {s : State} {r : DescRef} {d : Nat} (h : Changes s₀ s) : Changes s₀ (State.tagBreak s r d) := by
  unfold State.tagBreak
  try dsimp only
  repeat' (first | with_reducible assumption | with_reducible apply State.fset_changes | with_reducible apply State.haltQueue_changes | with_reducible apply State.modFlight_changes | with_reducible apply Changes.ite | with_reducible refine Changes.elim _ ?_ (fun b => ?_) | with_reducible apply Changes.ite_fst | with_reducible apply Changes.ite_snd | with_reducible refine Changes.foldl _ (fun v b hv => ?_) ?_ | with_reducible refine Changes.foldl_fst _ (fun v b hv => ?_) ?_ | with_reducible refine Changes.foldl_snd _ (fun v b hv => ?_) ?_ | dsimp only | split | refine Changes.of_fst_eq (by assumption) ?_)

theorem State.fetchRing_changes {s₀ : State} {s : State} {q : Nat} (h : Changes s₀ s) : Changes s₀ (State.fetchRing s q) := by
  unfold State.fetchRing
  try dsimp only
  repeat' (first | with_reducible assumption | with_reducible apply State.fset_changes | with_reducible apply State.fadd_changes | with_reducible apply State.hubRead_changes | with_reducible apply State.setCaravans_changes | with_reducible apply State.addFlight_changes | with_reducible apply State.tagBreak_changes | with_reducible apply State.malformedFlight_changes | with_reducible apply Changes.ite | with_reducible refine Changes.elim _ ?_ (fun b => ?_) | with_reducible apply Changes.ite_fst | with_reducible apply Changes.ite_snd | with_reducible refine Changes.foldl _ (fun v b hv => ?_) ?_ | with_reducible refine Changes.foldl_fst _ (fun v b hv => ?_) ?_ | with_reducible refine Changes.foldl_snd _ (fun v b hv => ?_) ?_ | dsimp only | split | refine Changes.of_fst_eq (by assumption) ?_)

theorem State.secondAdapt_changes {s₀ : State} {s : State} {k : Caravan} {pos : Nat} {c : Nat} (h : Changes s₀ s) : Changes s₀ (State.secondAdapt s k pos c) := by
  unfold State.secondAdapt
  try dsimp only
  repeat' (first | with_reducible assumption | with_reducible apply State.endCaravan_changes | with_reducible apply State.endFault_changes | dsimp only)

theorem State.fetchChain_changes {s₀ : State} {s : State} {k : Caravan} (h : Changes s₀ s) : Changes s₀ (State.fetchChain s k) := by
  unfold State.fetchChain
  try dsimp only
  repeat' (first | with_reducible assumption | with_reducible apply State.fadd_changes | with_reducible apply State.hubRead_changes | with_reducible apply State.modCaravan_changes | with_reducible apply State.addFlight_changes | with_reducible apply State.endFlight_changes | with_reducible apply State.malformedFlight_changes | with_reducible apply State.endCaravan_changes | with_reducible apply State.secondAdapt_changes | with_reducible apply State.tagBreak_changes | with_reducible apply Changes.ite | with_reducible refine Changes.elim _ ?_ (fun b => ?_) | with_reducible apply Changes.ite_fst | with_reducible apply Changes.ite_snd | with_reducible refine Changes.foldl _ (fun v b hv => ?_) ?_ | with_reducible refine Changes.foldl_fst _ (fun v b hv => ?_) ?_ | with_reducible refine Changes.foldl_snd _ (fun v b hv => ?_) ?_ | dsimp only | split | refine Changes.of_fst_eq (by assumption) ?_)

theorem execDescriptorFetch_changes {s₀ : State} {q : Nat} {s : State} (h : Changes s₀ s) : OutChanges s₀ (execDescriptorFetch q s) := by
  unfold execDescriptorFetch
  try dsimp only
  repeat' (first | with_reducible assumption | with_reducible apply OutChanges.unit | with_reducible apply OutChanges.due | with_reducible apply OutChanges.next | with_reducible apply State.fetchRing_changes | with_reducible apply State.fetchChain_changes | dsimp only | split)

theorem State.markFence_changes {s₀ : State} {s : State} {q : Nat} {c : Nat} (h : Changes s₀ s) : Changes s₀ (State.markFence s q c) := by
  unfold State.markFence
  try dsimp only
  repeat' (first | with_reducible assumption | with_reducible apply Changes.ite | with_reducible refine Changes.elim _ ?_ (fun b => ?_) | with_reducible apply Changes.ite_fst | with_reducible apply Changes.ite_snd | with_reducible refine Changes.foldl _ (fun v b hv => ?_) ?_ | with_reducible refine Changes.foldl_fst _ (fun v b hv => ?_) ?_ | with_reducible refine Changes.foldl_snd _ (fun v b hv => ?_) ?_ | dsimp only | split | refine Changes.of_fst_eq (by assumption) ?_ | with_reducible apply Changes.made | exact .left _ (by assumption) rfl rfl rfl rfl | exact .kept _ (by assumption) rfl rfl rfl rfl)

theorem execDescriptorForward_changes {s₀ : State} {c : Nat} {s : State} (h : Changes s₀ s) : OutChanges s₀ (execDescriptorForward c s) := by
  unfold execDescriptorForward
  try dsimp only
  repeat' (first | with_reducible assumption | with_reducible apply OutChanges.unit | with_reducible apply OutChanges.due | with_reducible apply OutChanges.next | with_reducible apply OutChanges.fault | with_reducible apply OutChanges.ite | with_reducible apply State.modFlight_changes | with_reducible apply State.linkTx_changes | with_reducible apply State.markFence_changes | with_reducible apply Changes.ite | with_reducible refine Changes.elim _ ?_ (fun b => ?_) | with_reducible apply Changes.ite_fst | with_reducible apply Changes.ite_snd | with_reducible refine Changes.foldl _ (fun v b hv => ?_) ?_ | with_reducible refine Changes.foldl_fst _ (fun v b hv => ?_) ?_ | with_reducible refine Changes.foldl_snd _ (fun v b hv => ?_) ?_ | dsimp only | split | refine Changes.of_fst_eq (by assumption) ?_)

theorem execNop_changes {s₀ : State} {r : DescRef} {s : State} (h : Changes s₀ s) : OutChanges s₀ (execNop r s) := by
  unfold execNop
  try dsimp only
  repeat' (first | with_reducible assumption | with_reducible apply OutChanges.unit | with_reducible apply OutChanges.due | with_reducible apply OutChanges.next | with_reducible apply OutChanges.fault | with_reducible apply OutChanges.ite | with_reducible apply State.completeFlight_changes | with_reducible apply State.endFlight_changes | with_reducible apply State.latchWaits_changes | with_reducible apply Changes.ite | with_reducible refine Changes.elim _ ?_ (fun b => ?_) | with_reducible apply Changes.ite_fst | with_reducible apply Changes.ite_snd | with_reducible refine Changes.foldl _ (fun v b hv => ?_) ?_ | with_reducible refine Changes.foldl_fst _ (fun v b hv => ?_) ?_ | with_reducible refine Changes.foldl_snd _ (fun v b hv => ?_) ?_ | dsimp only | split | refine Changes.of_fst_eq (by assumption) ?_)

theorem State.fenceDrain_changes {s₀ : State} {s : State} {q : Nat} (h : Changes s₀ s) : Changes s₀ (State.fenceDrain s q) := by
  unfold State.fenceDrain
  try dsimp only
  repeat' (first | with_reducible assumption | with_reducible apply State.phDrainAll_changes | with_reducible apply Changes.ite | with_reducible refine Changes.elim _ ?_ (fun b => ?_) | with_reducible apply Changes.ite_fst | with_reducible apply Changes.ite_snd | with_reducible refine Changes.foldl _ (fun v b hv => ?_) ?_ | with_reducible refine Changes.foldl_fst _ (fun v b hv => ?_) ?_ | with_reducible refine Changes.foldl_snd _ (fun v b hv => ?_) ?_ | dsimp only | split | refine Changes.of_fst_eq (by assumption) ?_ | with_reducible apply Changes.made | exact .left _ (by assumption) rfl rfl rfl rfl | exact .kept _ (by assumption) rfl rfl rfl rfl)

theorem execFence_changes {s₀ : State} {q : Nat} {s : State} (h : Changes s₀ s) : OutChanges s₀ (execFence q s) := by
  unfold execFence
  try dsimp only
  repeat' (first | with_reducible assumption | with_reducible apply OutChanges.unit | with_reducible apply OutChanges.due | with_reducible apply OutChanges.next | with_reducible apply State.fenceDrain_changes | with_reducible apply State.latchWaits_changes | with_reducible apply State.haltQueue_changes | with_reducible apply State.completeFlight_changes | with_reducible apply State.endFlight_changes | dsimp only | split)

theorem execDescriptorComplete_changes {s₀ : State} {r : DescRef} {s : State} (h : Changes s₀ s) : OutChanges s₀ (execDescriptorComplete r s) := by
  unfold execDescriptorComplete
  try dsimp only
  repeat' (first | with_reducible assumption | with_reducible apply OutChanges.unit | with_reducible apply OutChanges.due | with_reducible apply OutChanges.next | with_reducible apply OutChanges.fault | with_reducible apply OutChanges.ite | with_reducible apply State.completeFlight_changes | with_reducible apply State.returnEntry_changes | with_reducible apply Changes.ite | with_reducible refine Changes.elim _ ?_ (fun b => ?_) | with_reducible apply Changes.ite_fst | with_reducible apply Changes.ite_snd | with_reducible refine Changes.foldl _ (fun v b hv => ?_) ?_ | with_reducible refine Changes.foldl_fst _ (fun v b hv => ?_) ?_ | with_reducible refine Changes.foldl_snd _ (fun v b hv => ?_) ?_ | dsimp only | split | refine Changes.of_fst_eq (by assumption) ?_)

end Sys2Proof.Machine
end

