-- ==== Sys2Proof/Laws/ChangesEngine.lean ====
section
/-! SUPPORT. The state after each definition of Sys2Proof/Machine/Engine.lean is reached by the model's own kinds of update. -/

namespace Sys2Proof.Machine

theorem State.modGroup_changes {s₀ : State} {s : State} {c : Nat} {g : Group → Group} (h : Changes s₀ s) : Changes s₀ (State.modGroup s c g) := by
  unfold State.modGroup
  try dsimp only
  repeat' (first | with_reducible assumption | with_reducible apply State.modCore_changes | dsimp only)

theorem State.modMember_changes {s₀ : State} {s : State} {c : Nat} {r : DescRef} {g : Member → Member} (h : Changes s₀ s) : Changes s₀ (State.modMember s c r g) := by
  unfold State.modMember
  try dsimp only
  repeat' (first | with_reducible assumption | with_reducible apply State.modGroup_changes | dsimp only)

theorem State.skew_changes {s₀ : State} {s : State} {c : Nat} {r : DescRef} {d : Nat} {cycle : Nat} (h : Changes s₀ s) : Changes s₀ (State.skew s c r d cycle) := by
  unfold State.skew
  try dsimp only
  repeat' (first | with_reducible assumption | with_reducible apply State.modFlight_changes | with_reducible apply State.modGroup_changes | with_reducible apply State.rset_changes | with_reducible apply Changes.ite | with_reducible refine Changes.elim _ ?_ (fun b => ?_) | with_reducible apply Changes.ite_fst | with_reducible apply Changes.ite_snd | with_reducible refine Changes.foldl _ (fun v b hv => ?_) ?_ | with_reducible refine Changes.foldl_fst _ (fun v b hv => ?_) ?_ | with_reducible refine Changes.foldl_snd _ (fun v b hv => ?_) ?_ | dsimp only | split | refine Changes.of_fst_eq (by assumption) ?_)

theorem State.checkReads_changes {s₀ : State} {s : State} {j : Job} {k : Nat} {sp : Nat} {reads : List (Nat × Nat × Nat × Nat)} (h : Changes s₀ s) : Changes s₀ (State.checkReads s j k sp reads).1 := by
  unfold State.checkReads
  try dsimp only
  repeat' (first | with_reducible assumption | with_reducible apply State.skew_changes | with_reducible apply Changes.ite | with_reducible refine Changes.elim _ ?_ (fun b => ?_) | with_reducible apply Changes.ite_fst | with_reducible apply Changes.ite_snd | with_reducible refine Changes.foldl _ (fun v b hv => ?_) ?_ | with_reducible refine Changes.foldl_fst _ (fun v b hv => ?_) ?_ | with_reducible refine Changes.foldl_snd _ (fun v b hv => ?_) ?_ | dsimp only | split | refine Changes.of_fst_eq (by assumption) ?_)

theorem State.memberWrite_changes {s₀ : State} {s : State} {j : Job} {rank : Nat} {sp : Nat} {r : Nat} {ws : List (Option (Nat × Bool))} {t : Nat} (h : Changes s₀ s) : Changes s₀ (State.memberWrite s j rank sp r ws t) := by
  unfold State.memberWrite
  try dsimp only
  repeat' (first | with_reducible assumption | with_reducible apply State.modGroup_changes | with_reducible apply State.rowWrite_changes | with_reducible apply Changes.ite | with_reducible refine Changes.elim _ ?_ (fun b => ?_) | with_reducible apply Changes.ite_fst | with_reducible apply Changes.ite_snd | with_reducible refine Changes.foldl _ (fun v b hv => ?_) ?_ | with_reducible refine Changes.foldl_fst _ (fun v b hv => ?_) ?_ | with_reducible refine Changes.foldl_snd _ (fun v b hv => ?_) ?_ | dsimp only | split | refine Changes.of_fst_eq (by assumption) ?_)

theorem State.jWrite_changes {s₀ : State} {s : State} {j : Job} {sp : Nat} {b : Nat} {ws : List (Nat × Bool)} {tc : Nat → Nat} {rank : optParam Nat j.rank} (h : Changes s₀ s) : Changes s₀ (State.jWrite s j sp b ws tc rank) := by
  unfold State.jWrite
  try dsimp only
  repeat' (first | with_reducible assumption | with_reducible apply State.spWriteWords_changes | with_reducible apply State.memberWrite_changes | with_reducible apply Changes.ite | with_reducible refine Changes.elim _ ?_ (fun b => ?_) | with_reducible apply Changes.ite_fst | with_reducible apply Changes.ite_snd | with_reducible refine Changes.foldl _ (fun v b hv => ?_) ?_ | with_reducible refine Changes.foldl_fst _ (fun v b hv => ?_) ?_ | with_reducible refine Changes.foldl_snd _ (fun v b hv => ?_) ?_ | dsimp only | split | refine Changes.of_fst_eq (by assumption) ?_)

theorem State.issueWord_changes {s₀ : State} {s : State} {j : Job} {l : Nat} {n : Nat} {t : Nat} {poison : Bool} {payload : List Int} (h : Changes s₀ s) : Changes s₀ (State.issueWord s j l n t poison payload) := by
  unfold State.issueWord
  try dsimp only
  repeat' (first | with_reducible assumption | with_reducible apply State.modGroup_changes | with_reducible apply Changes.ite | with_reducible refine Changes.elim _ ?_ (fun b => ?_) | with_reducible apply Changes.ite_fst | with_reducible apply Changes.ite_snd | with_reducible refine Changes.foldl _ (fun v b hv => ?_) ?_ | with_reducible refine Changes.foldl_fst _ (fun v b hv => ?_) ?_ | with_reducible refine Changes.foldl_snd _ (fun v b hv => ?_) ?_ | dsimp only | split | refine Changes.of_fst_eq (by assumption) ?_)

theorem State.linkFail_changes {s₀ : State} {s : State} {j : Job} {cyc : Nat} (h : Changes s₀ s) : Changes s₀ (State.linkFail s j cyc).1 := by
  unfold State.linkFail
  try dsimp only
  repeat' (first | with_reducible assumption | with_reducible apply State.skew_changes | dsimp only)

theorem State.countSkew_changes {s₀ : State} {s : State} {c : Nat} {r : DescRef} (h : Changes s₀ s) : Changes s₀ (State.countSkew s c r) := by
  unfold State.countSkew
  try dsimp only
  repeat' (first | with_reducible assumption | with_reducible apply State.fset_changes | with_reducible apply State.fadd_changes | with_reducible apply Changes.ite | with_reducible refine Changes.elim _ ?_ (fun b => ?_) | with_reducible apply Changes.ite_fst | with_reducible apply Changes.ite_snd | with_reducible refine Changes.foldl _ (fun v b hv => ?_) ?_ | with_reducible refine Changes.foldl_fst _ (fun v b hv => ?_) ?_ | with_reducible refine Changes.foldl_snd _ (fun v b hv => ?_) ?_ | dsimp only | split | refine Changes.of_fst_eq (by assumption) ?_)

theorem State.memberEnd_changes {s₀ : State} {s : State} {j : Job} {dur : Nat} (h : Changes s₀ s) : Changes s₀ (State.memberEnd s j dur) := by
  unfold State.memberEnd
  try dsimp only
  repeat' (first | with_reducible assumption | with_reducible apply State.fset_changes | with_reducible apply State.fadd_changes | with_reducible apply State.modMember_changes | with_reducible apply State.skew_changes | with_reducible apply Changes.ite | with_reducible refine Changes.elim _ ?_ (fun b => ?_) | with_reducible apply Changes.ite_fst | with_reducible apply Changes.ite_snd | with_reducible refine Changes.foldl _ (fun v b hv => ?_) ?_ | with_reducible refine Changes.foldl_fst _ (fun v b hv => ?_) ?_ | with_reducible refine Changes.foldl_snd _ (fun v b hv => ?_) ?_ | dsimp only | split | refine Changes.of_fst_eq (by assumption) ?_)

theorem State.endJob_changes {s₀ : State} {s : State} {j : Job} {dur : Nat} {status : Nat} (h : Changes s₀ s) : Changes s₀ (State.endJob s j dur status) := by
  unfold State.endJob
  try dsimp only
  repeat' (first | with_reducible assumption | with_reducible apply State.endFlight_changes | with_reducible apply State.addBusy_changes | with_reducible apply State.memberEnd_changes | with_reducible apply State.countSkew_changes | with_reducible apply Changes.ite | with_reducible refine Changes.elim _ ?_ (fun b => ?_) | with_reducible apply Changes.ite_fst | with_reducible apply Changes.ite_snd | with_reducible refine Changes.foldl _ (fun v b hv => ?_) ?_ | with_reducible refine Changes.foldl_fst _ (fun v b hv => ?_) ?_ | with_reducible refine Changes.foldl_snd _ (fun v b hv => ?_) ?_ | dsimp only | split | refine Changes.of_fst_eq (by assumption) ?_)

theorem State.stopJob_changes {s₀ : State} {s : State} {j : Job} {status : Nat} {source : Nat} (h : Changes s₀ s) : Changes s₀ (State.stopJob s j status source) := by
  unfold State.stopJob
  try dsimp only
  repeat' (first | with_reducible assumption | with_reducible apply State.modGroup_changes | with_reducible apply State.endFault_changes | with_reducible apply State.countSkew_changes | with_reducible apply State.modMember_changes | with_reducible apply Changes.ite | with_reducible refine Changes.elim _ ?_ (fun b => ?_) | with_reducible apply Changes.ite_fst | with_reducible apply Changes.ite_snd | with_reducible refine Changes.foldl _ (fun v b hv => ?_) ?_ | with_reducible refine Changes.foldl_fst _ (fun v b hv => ?_) ?_ | with_reducible refine Changes.foldl_snd _ (fun v b hv => ?_) ?_ | dsimp only | split | refine Changes.of_fst_eq (by assumption) ?_)

theorem State.boundStop_changes {s₀ : State} {s : State} {j : Job} (h : Changes s₀ s) : Changes s₀ (State.boundStop s j) := by
  unfold State.boundStop
  try dsimp only
  repeat' (first | with_reducible assumption | with_reducible apply State.stopJob_changes | dsimp only)

theorem State.fieldStop_changes {s₀ : State} {s : State} {j : Job} (h : Changes s₀ s) : Changes s₀ (State.fieldStop s j) := by
  unfold State.fieldStop
  try dsimp only
  repeat' (first | with_reducible assumption | with_reducible apply State.stopJob_changes | dsimp only)

theorem State.handleStop_changes {s₀ : State} {s : State} {j : Job} (h : Changes s₀ s) : Changes s₀ (State.handleStop s j) := by
  unfold State.handleStop
  try dsimp only
  repeat' (first | with_reducible assumption | with_reducible apply State.stopJob_changes | dsimp only)

theorem State.injectJob_changes {s₀ : State} {s : State} {j : Job} {source : Nat} {twoBits : Nat} (h : Changes s₀ s) : Changes s₀ (State.injectJob s j source twoBits).1 := by
  unfold State.injectJob
  try dsimp only
  repeat' (first | with_reducible assumption | with_reducible apply State.injectCheck_changes | with_reducible apply State.modFlight_changes | dsimp only | split)

theorem engineCmd_changes {s₀ : State} {c : Nat} {e : Nat} {sel : Nat → Bool} {ready : State → Job → Bool} {s : State} {body : State → Job → State} (h : Changes s₀ s) (he : ∀ u j, Changes s₀ u → Changes s₀ (body u j)) : OutChanges s₀ (engineCmd c e sel ready s body) := by
  unfold engineCmd
  try dsimp only
  repeat' (first | with_reducible assumption | with_reducible apply he | with_reducible apply OutChanges.unit | with_reducible apply OutChanges.due | with_reducible apply OutChanges.next | with_reducible apply State.setPhase_changes | dsimp only | split)

end Sys2Proof.Machine
end

