-- ==== Sys2Proof/Laws/ChangesArray.lean ====
section
/-! SUPPORT. The state after each definition of Sys2Proof/Machine/Array.lean is reached by the model's own kinds of update. -/

namespace Sys2Proof.Machine

theorem State.runProb_changes {s₀ : State} {s : State} {j : Job} {q : Prob} {feed : Option Feed} {mk : Marks} (h : Changes s₀ s) : Changes s₀ (State.runProb s j q feed mk).1 := by
  unfold State.runProb
  try dsimp only
  repeat' (first | with_reducible assumption | with_reducible apply State.jWrite_changes | with_reducible apply Changes.ite | with_reducible refine Changes.elim _ ?_ (fun b => ?_) | with_reducible apply Changes.ite_fst | with_reducible apply Changes.ite_snd | with_reducible refine Changes.foldl _ (fun v b hv => ?_) ?_ | with_reducible refine Changes.foldl_fst _ (fun v b hv => ?_) ?_ | with_reducible refine Changes.foldl_snd _ (fun v b hv => ?_) ?_ | dsimp only | split | refine Changes.of_fst_eq (by assumption) ?_)

theorem State.eccProb_changes {s₀ : State} {s : State} {j : Job} {q : Prob} (h : Changes s₀ s) : Changes s₀ (State.eccProb s j q) := by
  unfold State.eccProb
  try dsimp only
  repeat' (first | with_reducible assumption | with_reducible apply State.eccRead_changes | with_reducible apply Changes.ite | with_reducible refine Changes.elim _ ?_ (fun b => ?_) | with_reducible apply Changes.ite_fst | with_reducible apply Changes.ite_snd | with_reducible refine Changes.foldl _ (fun v b hv => ?_) ?_ | with_reducible refine Changes.foldl_fst _ (fun v b hv => ?_) ?_ | with_reducible refine Changes.foldl_snd _ (fun v b hv => ?_) ?_ | dsimp only | split | refine Changes.of_fst_eq (by assumption) ?_)

theorem State.readProb_changes {s₀ : State} {s : State} {j : Job} {q : Prob} {packed : Bool} (h : Changes s₀ s) : Changes s₀ (State.readProb s j q packed).1 := by
  unfold State.readProb
  try dsimp only
  repeat' (first | with_reducible assumption | with_reducible apply State.eccProb_changes | with_reducible apply State.checkReads_changes | with_reducible apply Changes.ite | with_reducible refine Changes.elim _ ?_ (fun b => ?_) | with_reducible apply Changes.ite_fst | with_reducible apply Changes.ite_snd | with_reducible refine Changes.foldl _ (fun v b hv => ?_) ?_ | with_reducible refine Changes.foldl_fst _ (fun v b hv => ?_) ?_ | with_reducible refine Changes.foldl_snd _ (fun v b hv => ?_) ?_ | dsimp only | split | refine Changes.of_fst_eq (by assumption) ?_)

theorem State.captureAll_changes {s₀ : State} {s : State} {j : Job} {q : Prob} (h : Changes s₀ s) : Changes s₀ (State.captureAll s j q).1 := by
  unfold State.captureAll
  try dsimp only
  repeat' (first | with_reducible assumption | with_reducible apply State.linkFail_changes | with_reducible apply Changes.ite | with_reducible refine Changes.elim _ ?_ (fun b => ?_) | with_reducible apply Changes.ite_fst | with_reducible apply Changes.ite_snd | with_reducible refine Changes.foldl _ (fun v b hv => ?_) ?_ | with_reducible refine Changes.foldl_fst _ (fun v b hv => ?_) ?_ | with_reducible refine Changes.foldl_snd _ (fun v b hv => ?_) ?_ | dsimp only | split | refine Changes.of_fst_eq (by assumption) ?_)

theorem State.loadCycles_changes {s₀ : State} {s : State} {j : Job} (h : Changes s₀ s) : Changes s₀ (State.loadCycles s j).2 := by
  unfold State.loadCycles
  try dsimp only
  repeat' (first | with_reducible assumption | with_reducible apply State.free_changes | with_reducible apply Changes.ite | with_reducible refine Changes.elim _ ?_ (fun b => ?_) | with_reducible apply Changes.ite_fst | with_reducible apply Changes.ite_snd | with_reducible refine Changes.foldl _ (fun v b hv => ?_) ?_ | with_reducible refine Changes.foldl_fst _ (fun v b hv => ?_) ?_ | with_reducible refine Changes.foldl_snd _ (fun v b hv => ?_) ?_ | dsimp only | split | refine Changes.of_fst_eq (by assumption) ?_)

theorem State.runArray_changes {s₀ : State} {s : State} {j : Job} (h : Changes s₀ s) : Changes s₀ (State.runArray s j) := by
  unfold State.runArray
  try dsimp only
  repeat' (first | with_reducible assumption | with_reducible apply State.checkReads_changes | with_reducible apply State.eccRead_changes | with_reducible apply State.readProb_changes | with_reducible apply State.captureAll_changes | with_reducible apply State.injectJob_changes | with_reducible apply State.fset_changes | with_reducible apply State.runProb_changes | with_reducible apply State.reportFor_changes | with_reducible apply State.loadCycles_changes | with_reducible apply State.fadd_changes | with_reducible apply State.modCore_changes | with_reducible apply State.endJob_changes | with_reducible apply Changes.ite | with_reducible refine Changes.elim _ ?_ (fun b => ?_) | with_reducible apply Changes.ite_fst | with_reducible apply Changes.ite_snd | with_reducible refine Changes.foldl _ (fun v b hv => ?_) ?_ | with_reducible refine Changes.foldl_fst _ (fun v b hv => ?_) ?_ | with_reducible refine Changes.foldl_snd _ (fun v b hv => ?_) ?_ | dsimp only | split | with_reducible refine fun _ _ hu => ?_ | with_reducible refine fun _ hu => ?_ | refine Changes.of_fst_eq (by assumption) ?_)

theorem State.arrayJob_changes {s₀ : State} {s : State} {j : Job} (h : Changes s₀ s) : Changes s₀ (State.arrayJob s j) := by
  unfold State.arrayJob
  try dsimp only
  repeat' (first | with_reducible assumption | with_reducible apply State.stopJob_changes | with_reducible apply State.fadd_changes | with_reducible apply State.endJob_changes | with_reducible apply State.runArray_changes | dsimp only | split)

theorem arrayCmd_changes {s₀ : State} {c : Nat} {a : Nat} {op : Nat} {s : State} (h : Changes s₀ s) : OutChanges s₀ (arrayCmd c a op s) := by
  unfold arrayCmd
  try dsimp only
  repeat' (first | with_reducible assumption | with_reducible apply OutChanges.unit | with_reducible apply engineCmd_changes | with_reducible apply State.arrayJob_changes | dsimp only)

theorem execMxaStream_changes {s₀ : State} {c : Nat} {a : Nat} {s : State} (h : Changes s₀ s) : OutChanges s₀ (execMxaStream c a s) := by
  unfold execMxaStream
  try dsimp only
  repeat' (first | with_reducible assumption | with_reducible apply arrayCmd_changes | dsimp only)

theorem execMxaPacked_changes {s₀ : State} {c : Nat} {a : Nat} {s : State} (h : Changes s₀ s) : OutChanges s₀ (execMxaPacked c a s) := by
  unfold execMxaPacked
  try dsimp only
  repeat' (first | with_reducible assumption | with_reducible apply arrayCmd_changes | dsimp only)

theorem execMxaThrough_changes {s₀ : State} {c : Nat} {a : Nat} {s : State} (h : Changes s₀ s) : OutChanges s₀ (execMxaThrough c a s) := by
  unfold execMxaThrough
  try dsimp only
  repeat' (first | with_reducible assumption | with_reducible apply arrayCmd_changes | dsimp only)

end Sys2Proof.Machine
end

