-- ==== Sys2Proof/Laws/ChangesMvp.lean ====
section
/-! SUPPORT. The state after each definition of Sys2Proof/Machine/Mvp.lean is reached by the model's own kinds of update. -/

namespace Sys2Proof.Machine

theorem State.mvWrite_changes {s₀ : State} {s : State} {j : Job} {rows : List MvpRow} (h : Changes s₀ s) : Changes s₀ (State.mvWrite s j rows) := by
  unfold State.mvWrite
  try dsimp only
  repeat' (first | with_reducible assumption | with_reducible apply State.jWrite_changes | with_reducible apply Changes.ite | with_reducible refine Changes.elim _ ?_ (fun b => ?_) | with_reducible apply Changes.ite_fst | with_reducible apply Changes.ite_snd | with_reducible refine Changes.foldl _ (fun v b hv => ?_) ?_ | with_reducible refine Changes.foldl_fst _ (fun v b hv => ?_) ?_ | with_reducible refine Changes.foldl_snd _ (fun v b hv => ?_) ?_ | dsimp only | split | refine Changes.of_fst_eq (by assumption) ?_)

theorem State.mvpJob_changes {s₀ : State} {s : State} {j : Job} (h : Changes s₀ s) : Changes s₀ (State.mvpJob s j) := by
  unfold State.mvpJob
  try dsimp only
  repeat' (first | with_reducible assumption | with_reducible apply State.fieldStop_changes | with_reducible apply State.handleStop_changes | with_reducible apply State.boundStop_changes | with_reducible apply State.eccRead_changes | with_reducible apply State.checkReads_changes | with_reducible apply State.mvWrite_changes | with_reducible apply State.fadd_changes | with_reducible apply State.fset_changes | with_reducible apply State.endJob_changes | with_reducible apply Changes.ite | with_reducible refine Changes.elim _ ?_ (fun b => ?_) | with_reducible apply Changes.ite_fst | with_reducible apply Changes.ite_snd | with_reducible refine Changes.foldl _ (fun v b hv => ?_) ?_ | with_reducible refine Changes.foldl_fst _ (fun v b hv => ?_) ?_ | with_reducible refine Changes.foldl_snd _ (fun v b hv => ?_) ?_ | dsimp only | split | refine Changes.of_fst_eq (by assumption) ?_)

theorem execMvpMatvec_changes {s₀ : State} {c : Nat} {s : State} (h : Changes s₀ s) : OutChanges s₀ (execMvpMatvec c s) := by
  unfold execMvpMatvec
  try dsimp only
  repeat' (first | with_reducible assumption | with_reducible apply engineCmd_changes | with_reducible apply State.mvpJob_changes | dsimp only)

theorem mvpSatRowsRead_changes {s₀ : State} {c : Nat} {s : State} (h : Changes s₀ s) : Changes s₀ (mvpSatRowsRead c s).1 := by
  unfold mvpSatRowsRead
  try dsimp only
  repeat' (first | with_reducible assumption | with_reducible apply State.fset_changes | dsimp only)

theorem execMvpSatRowsRead_changes {s₀ : State} {src : Nat} {c : Nat} {s : State} (h : Changes s₀ s) : OutChanges s₀ (execMvpSatRowsRead src c s) := by
  unfold execMvpSatRowsRead
  try dsimp only
  repeat' (first | with_reducible assumption | with_reducible apply readCmd_changes | with_reducible apply mvpSatRowsRead_changes | dsimp only)

end Sys2Proof.Machine
end

