-- ==== Sys2Proof/Laws/ChangesWindow.lean ====
section
/-! SUPPORT. The state after each definition of Sys2Proof/Machine/Window.lean is reached by the model's own kinds of update. -/

namespace Sys2Proof.Machine

theorem State.countWord_changes {s₀ : State} {s : State} {c : Nat} {w : Nat} (h : Changes s₀ s) : Changes s₀ (State.countWord s c w) := by
  unfold State.countWord
  try dsimp only
  repeat' (first | with_reducible assumption | with_reducible apply State.fadd_changes | dsimp only | split)

theorem State.issueFeed_changes {s₀ : State} {s : State} {j : Job} {f : Feed} {poison : Bool} (h : Changes s₀ s) : Changes s₀ (State.issueFeed s j f poison) := by
  unfold State.issueFeed
  try dsimp only
  repeat' (first | with_reducible assumption | with_reducible apply State.issueWord_changes | with_reducible apply State.countWord_changes | with_reducible refine Changes.foldl _ (fun v b hv => ?_) ?_ | dsimp only | split)

theorem State.feedJob_changes {s₀ : State} {s : State} {j : Job} (h : Changes s₀ s) : Changes s₀ (State.feedJob s j) := by
  unfold State.feedJob
  try dsimp only
  repeat' (first | with_reducible assumption | with_reducible apply State.stopJob_changes | with_reducible apply State.boundStop_changes | with_reducible apply State.checkReads_changes | with_reducible apply State.eccRead_changes | with_reducible apply State.endJob_changes | with_reducible apply State.issueFeed_changes | with_reducible apply Changes.ite | with_reducible refine Changes.elim _ ?_ (fun b => ?_) | with_reducible apply Changes.ite_fst | with_reducible apply Changes.ite_snd | with_reducible refine Changes.foldl _ (fun v b hv => ?_) ?_ | with_reducible refine Changes.foldl_fst _ (fun v b hv => ?_) ?_ | with_reducible refine Changes.foldl_snd _ (fun v b hv => ?_) ?_ | dsimp only | split | refine Changes.of_fst_eq (by assumption) ?_)

theorem execWinFeed_changes {s₀ : State} {c : Nat} {s : State} (h : Changes s₀ s) : OutChanges s₀ (execWinFeed c s) := by
  unfold execWinFeed
  try dsimp only
  repeat' (first | with_reducible assumption | with_reducible apply engineCmd_changes | with_reducible apply State.feedJob_changes | dsimp only)

theorem State.regroupJob_changes {s₀ : State} {s : State} {j : Job} (h : Changes s₀ s) : Changes s₀ (State.regroupJob s j) := by
  unfold State.regroupJob
  try dsimp only
  repeat' (first | with_reducible assumption | with_reducible apply State.fieldStop_changes | with_reducible apply State.handleStop_changes | with_reducible apply State.boundStop_changes | with_reducible apply State.eccRead_changes | with_reducible apply State.checkReads_changes | with_reducible apply State.jWrite_changes | with_reducible apply State.fadd_changes | with_reducible apply State.fset_changes | with_reducible apply State.reportFor_changes | with_reducible apply State.endJob_changes | with_reducible apply Changes.ite | with_reducible refine Changes.elim _ ?_ (fun b => ?_) | with_reducible apply Changes.ite_fst | with_reducible apply Changes.ite_snd | with_reducible refine Changes.foldl _ (fun v b hv => ?_) ?_ | with_reducible refine Changes.foldl_fst _ (fun v b hv => ?_) ?_ | with_reducible refine Changes.foldl_snd _ (fun v b hv => ?_) ?_ | dsimp only | split | refine Changes.of_fst_eq (by assumption) ?_)

theorem execWinRegroup_changes {s₀ : State} {c : Nat} {s : State} (h : Changes s₀ s) : OutChanges s₀ (execWinRegroup c s) := by
  unfold execWinRegroup
  try dsimp only
  repeat' (first | with_reducible assumption | with_reducible apply engineCmd_changes | with_reducible apply State.regroupJob_changes | dsimp only)

end Sys2Proof.Machine
end

