-- ==== Sys2Proof/Laws/ChangesVec.lean ====
section
/-! SUPPORT. The state after each definition of Sys2Proof/Machine/Vec.lean is reached by the model's own kinds of update. -/

namespace Sys2Proof.Machine

theorem State.takeWords_changes {s₀ : State} {s : State} {j : Job} {l : Nat} {off : Nat} {n : Nat} (h : Changes s₀ s) : Changes s₀ (State.takeWords s j l off n).1 := by
  unfold State.takeWords
  try dsimp only
  repeat' (first | with_reducible assumption | with_reducible apply State.linkFail_changes | with_reducible apply Changes.ite | with_reducible refine Changes.elim _ ?_ (fun b => ?_) | with_reducible apply Changes.ite_fst | with_reducible apply Changes.ite_snd | with_reducible refine Changes.foldl _ (fun v b hv => ?_) ?_ | with_reducible refine Changes.foldl_fst _ (fun v b hv => ?_) ?_ | with_reducible refine Changes.foldl_snd _ (fun v b hv => ?_) ?_ | dsimp only | split | refine Changes.of_fst_eq (by assumption) ?_)

theorem State.putWords_changes {s₀ : State} {s : State} {j : Job} {l : Nat} {off : Nat} {vs : List (Nat × Bool)} (h : Changes s₀ s) : Changes s₀ (State.putWords s j l off vs) := by
  unfold State.putWords
  try dsimp only
  repeat' (first | with_reducible assumption | with_reducible apply State.issueWord_changes | with_reducible refine Changes.foldl _ (fun v b hv => ?_) ?_ | dsimp only | split)

theorem State.vecWrite_changes {s₀ : State} {s : State} {j : Job} {v : VecD} {out : List VOut} (h : Changes s₀ s) : Changes s₀ (State.vecWrite s j v out) := by
  unfold State.vecWrite
  try dsimp only
  repeat' (first | with_reducible assumption | with_reducible apply State.putWords_changes | with_reducible apply State.jWrite_changes | with_reducible apply Changes.ite | with_reducible refine Changes.elim _ ?_ (fun b => ?_) | with_reducible apply Changes.ite_fst | with_reducible apply Changes.ite_snd | with_reducible refine Changes.foldl _ (fun v b hv => ?_) ?_ | with_reducible refine Changes.foldl_fst _ (fun v b hv => ?_) ?_ | with_reducible refine Changes.foldl_snd _ (fun v b hv => ?_) ?_ | dsimp only | split | refine Changes.of_fst_eq (by assumption) ?_)

theorem State.vecCount_changes {s₀ : State} {s : State} {c : Nat} {e : Nat} {l : List VOut} (h : Changes s₀ s) : Changes s₀ (State.vecCount s c e l) := by
  unfold State.vecCount
  try dsimp only
  repeat' (first | with_reducible assumption | with_reducible apply State.fadd_changes | with_reducible apply State.fset_changes | dsimp only | split)

theorem State.vecJob_changes {s₀ : State} {s : State} {j : Job} (h : Changes s₀ s) : Changes s₀ (State.vecJob s j) := by
  unfold State.vecJob
  try dsimp only
  repeat' (first | with_reducible assumption | with_reducible apply State.fieldStop_changes | with_reducible apply State.handleStop_changes | with_reducible apply State.boundStop_changes | with_reducible apply State.eccRead_changes | with_reducible apply State.checkReads_changes | with_reducible apply State.takeWords_changes | with_reducible apply State.vecCount_changes | with_reducible apply State.vecWrite_changes | with_reducible apply State.fset_changes | with_reducible apply State.reportFor_changes | with_reducible apply State.endJob_changes | with_reducible apply Changes.ite | with_reducible refine Changes.elim _ ?_ (fun b => ?_) | with_reducible apply Changes.ite_fst | with_reducible apply Changes.ite_snd | with_reducible refine Changes.foldl _ (fun v b hv => ?_) ?_ | with_reducible refine Changes.foldl_fst _ (fun v b hv => ?_) ?_ | with_reducible refine Changes.foldl_snd _ (fun v b hv => ?_) ?_ | dsimp only | split | refine Changes.of_fst_eq (by assumption) ?_)

theorem State.setCurve_changes {s₀ : State} {s : State} {c : Nat} {n : Nat} {t : Option CurveStore} (h : Changes s₀ s) : Changes s₀ (State.setCurve s c n t) := by
  unfold State.setCurve
  try dsimp only
  repeat' (first | with_reducible assumption | with_reducible apply State.modCore_changes | with_reducible apply State.fset_changes | dsimp only)

theorem State.curveReject_changes {s₀ : State} {s : State} {j : Job} {n : Nat} (h : Changes s₀ s) : Changes s₀ (State.curveReject s j n) := by
  unfold State.curveReject
  try dsimp only
  repeat' (first | with_reducible assumption | with_reducible apply State.fieldStop_changes | with_reducible apply State.fset_changes | with_reducible apply State.setCurve_changes | dsimp only)

theorem State.curveLoadJob_changes {s₀ : State} {s : State} {j : Job} (h : Changes s₀ s) : Changes s₀ (State.curveLoadJob s j) := by
  unfold State.curveLoadJob
  try dsimp only
  repeat' (first | with_reducible assumption | with_reducible apply State.fieldStop_changes | with_reducible apply State.handleStop_changes | with_reducible apply State.boundStop_changes | with_reducible apply State.curveReject_changes | with_reducible apply State.checkReads_changes | with_reducible apply State.eccRead_changes | with_reducible apply State.setCurve_changes | with_reducible apply State.endJob_changes | with_reducible apply Changes.ite | with_reducible refine Changes.elim _ ?_ (fun b => ?_) | with_reducible apply Changes.ite_fst | with_reducible apply Changes.ite_snd | with_reducible refine Changes.foldl _ (fun v b hv => ?_) ?_ | with_reducible refine Changes.foldl_fst _ (fun v b hv => ?_) ?_ | with_reducible refine Changes.foldl_snd _ (fun v b hv => ?_) ?_ | dsimp only | split | refine Changes.of_fst_eq (by assumption) ?_)

theorem vecCmd_changes {s₀ : State} {c : Nat} {f : Nat} {s : State} {body : State → Job → State} (h : Changes s₀ s) (he : ∀ u j, Changes s₀ u → Changes s₀ (body u j)) : OutChanges s₀ (vecCmd c f s body) := by
  unfold vecCmd
  try dsimp only
  repeat' (first | with_reducible assumption | with_reducible apply he | with_reducible apply engineCmd_changes | dsimp only)

theorem execAdd_changes {s₀ : State} {c : Nat} {s : State} (h : Changes s₀ s) : OutChanges s₀ (execAdd c s) := by
  unfold execAdd
  try dsimp only
  repeat' (first | with_reducible assumption | with_reducible apply engineCmd_changes | with_reducible apply State.vecJob_changes | dsimp only)

theorem execSub_changes {s₀ : State} {c : Nat} {s : State} (h : Changes s₀ s) : OutChanges s₀ (execSub c s) := by
  unfold execSub
  try dsimp only
  repeat' (first | with_reducible assumption | with_reducible apply vecCmd_changes | with_reducible apply State.vecJob_changes | dsimp only)

theorem execMul_changes {s₀ : State} {c : Nat} {s : State} (h : Changes s₀ s) : OutChanges s₀ (execMul c s) := by
  unfold execMul
  try dsimp only
  repeat' (first | with_reducible assumption | with_reducible apply vecCmd_changes | with_reducible apply State.vecJob_changes | dsimp only)

theorem execFma_changes {s₀ : State} {c : Nat} {s : State} (h : Changes s₀ s) : OutChanges s₀ (execFma c s) := by
  unfold execFma
  try dsimp only
  repeat' (first | with_reducible assumption | with_reducible apply vecCmd_changes | with_reducible apply State.vecJob_changes | dsimp only)

theorem execMin_changes {s₀ : State} {c : Nat} {s : State} (h : Changes s₀ s) : OutChanges s₀ (execMin c s) := by
  unfold execMin
  try dsimp only
  repeat' (first | with_reducible assumption | with_reducible apply vecCmd_changes | with_reducible apply State.vecJob_changes | dsimp only)

theorem execMax_changes {s₀ : State} {c : Nat} {s : State} (h : Changes s₀ s) : OutChanges s₀ (execMax c s) := by
  unfold execMax
  try dsimp only
  repeat' (first | with_reducible assumption | with_reducible apply vecCmd_changes | with_reducible apply State.vecJob_changes | dsimp only)

theorem execAbs_changes {s₀ : State} {c : Nat} {s : State} (h : Changes s₀ s) : OutChanges s₀ (execAbs c s) := by
  unfold execAbs
  try dsimp only
  repeat' (first | with_reducible assumption | with_reducible apply vecCmd_changes | with_reducible apply State.vecJob_changes | dsimp only)

theorem execNeg_changes {s₀ : State} {c : Nat} {s : State} (h : Changes s₀ s) : OutChanges s₀ (execNeg c s) := by
  unfold execNeg
  try dsimp only
  repeat' (first | with_reducible assumption | with_reducible apply vecCmd_changes | with_reducible apply State.vecJob_changes | dsimp only)

theorem execClamp_changes {s₀ : State} {c : Nat} {s : State} (h : Changes s₀ s) : OutChanges s₀ (execClamp c s) := by
  unfold execClamp
  try dsimp only
  repeat' (first | with_reducible assumption | with_reducible apply vecCmd_changes | with_reducible apply State.vecJob_changes | dsimp only)

theorem execSelect_changes {s₀ : State} {c : Nat} {s : State} (h : Changes s₀ s) : OutChanges s₀ (execSelect c s) := by
  unfold execSelect
  try dsimp only
  repeat' (first | with_reducible assumption | with_reducible apply vecCmd_changes | with_reducible apply State.vecJob_changes | dsimp only)

theorem execCurve_changes {s₀ : State} {c : Nat} {s : State} (h : Changes s₀ s) : OutChanges s₀ (execCurve c s) := by
  unfold execCurve
  try dsimp only
  repeat' (first | with_reducible assumption | with_reducible apply vecCmd_changes | with_reducible apply State.vecJob_changes | dsimp only)

theorem execConvert_changes {s₀ : State} {c : Nat} {s : State} (h : Changes s₀ s) : OutChanges s₀ (execConvert c s) := by
  unfold execConvert
  try dsimp only
  repeat' (first | with_reducible assumption | with_reducible apply vecCmd_changes | with_reducible apply State.vecJob_changes | dsimp only)

theorem execSlotAdd_changes {s₀ : State} {c : Nat} {s : State} (h : Changes s₀ s) : OutChanges s₀ (execSlotAdd c s) := by
  unfold execSlotAdd
  try dsimp only
  repeat' (first | with_reducible assumption | with_reducible apply vecCmd_changes | with_reducible apply State.vecJob_changes | dsimp only)

theorem execSlotToFp32_changes {s₀ : State} {c : Nat} {s : State} (h : Changes s₀ s) : OutChanges s₀ (execSlotToFp32 c s) := by
  unfold execSlotToFp32
  try dsimp only
  repeat' (first | with_reducible assumption | with_reducible apply vecCmd_changes | with_reducible apply State.vecJob_changes | dsimp only)

theorem execReduceSum_changes {s₀ : State} {c : Nat} {s : State} (h : Changes s₀ s) : OutChanges s₀ (execReduceSum c s) := by
  unfold execReduceSum
  try dsimp only
  repeat' (first | with_reducible assumption | with_reducible apply vecCmd_changes | with_reducible apply State.vecJob_changes | dsimp only)

theorem execReduceMax_changes {s₀ : State} {c : Nat} {s : State} (h : Changes s₀ s) : OutChanges s₀ (execReduceMax c s) := by
  unfold execReduceMax
  try dsimp only
  repeat' (first | with_reducible assumption | with_reducible apply vecCmd_changes | with_reducible apply State.vecJob_changes | dsimp only)

theorem execCurveLoad_changes {s₀ : State} {c : Nat} {s : State} (h : Changes s₀ s) : OutChanges s₀ (execCurveLoad c s) := by
  unfold execCurveLoad
  try dsimp only
  repeat' (first | with_reducible assumption | with_reducible apply vecCmd_changes | with_reducible apply State.curveLoadJob_changes | dsimp only)

end Sys2Proof.Machine
end

