-- ==== Sys2Proof/Laws/ChangesQnt.lean ====
section
/-! SUPPORT. The state after each definition of Sys2Proof/Machine/Qnt.lean is reached by the model's own kinds of update. -/

namespace Sys2Proof.Machine

theorem State.qntWrite_changes {s₀ : State} {s : State} {j : Job} {q : QntD} {x : Int} {xp : Bool} {out : List (Nat × Bool)} (h : Changes s₀ s) : Changes s₀ (State.qntWrite s j q x xp out) := by
  unfold State.qntWrite
  try dsimp only
  repeat' (first | with_reducible assumption | with_reducible apply State.putWords_changes | with_reducible apply State.jWrite_changes | with_reducible apply Changes.ite | with_reducible refine Changes.elim _ ?_ (fun b => ?_) | with_reducible apply Changes.ite_fst | with_reducible apply Changes.ite_snd | with_reducible refine Changes.foldl _ (fun v b hv => ?_) ?_ | with_reducible refine Changes.foldl_fst _ (fun v b hv => ?_) ?_ | with_reducible refine Changes.foldl_snd _ (fun v b hv => ?_) ?_ | dsimp only | split | refine Changes.of_fst_eq (by assumption) ?_)

theorem State.qntStats_changes {s₀ : State} {s : State} {j : Job} {q : QntD} {out : List QOut} (h : Changes s₀ s) : Changes s₀ (State.qntStats s j q out) := by
  unfold State.qntStats
  try dsimp only
  repeat' (first | with_reducible assumption | with_reducible apply State.fadd_changes | with_reducible apply State.fset_changes | with_reducible apply State.jWrite_changes | with_reducible apply Changes.ite | with_reducible refine Changes.elim _ ?_ (fun b => ?_) | with_reducible apply Changes.ite_fst | with_reducible apply Changes.ite_snd | with_reducible refine Changes.foldl _ (fun v b hv => ?_) ?_ | with_reducible refine Changes.foldl_fst _ (fun v b hv => ?_) ?_ | with_reducible refine Changes.foldl_snd _ (fun v b hv => ?_) ?_ | dsimp only | split | refine Changes.of_fst_eq (by assumption) ?_)

theorem State.qntRun_changes {s₀ : State} {s : State} {j : Job} {q : QntD} {x : Int} {xp : Bool} (h : Changes s₀ s) : Changes s₀ (State.qntRun s j q x xp) := by
  unfold State.qntRun
  try dsimp only
  repeat' (first | with_reducible assumption | with_reducible apply State.takeWords_changes | with_reducible apply State.eccRead_changes | with_reducible apply State.checkReads_changes | with_reducible apply State.qntStats_changes | with_reducible apply State.qntWrite_changes | with_reducible apply State.fset_changes | with_reducible apply State.endJob_changes | with_reducible apply Changes.ite | with_reducible refine Changes.elim _ ?_ (fun b => ?_) | with_reducible apply Changes.ite_fst | with_reducible apply Changes.ite_snd | with_reducible refine Changes.foldl _ (fun v b hv => ?_) ?_ | with_reducible refine Changes.foldl_fst _ (fun v b hv => ?_) ?_ | with_reducible refine Changes.foldl_snd _ (fun v b hv => ?_) ?_ | dsimp only | split | refine Changes.of_fst_eq (by assumption) ?_)

theorem State.qntJob_changes {s₀ : State} {s : State} {j : Job} (h : Changes s₀ s) : Changes s₀ (State.qntJob s j) := by
  unfold State.qntJob
  try dsimp only
  repeat' (first | with_reducible assumption | with_reducible apply State.fieldStop_changes | with_reducible apply State.fset_changes | with_reducible apply State.handleStop_changes | with_reducible apply State.boundStop_changes | with_reducible apply State.eccRead_changes | with_reducible apply State.checkReads_changes | with_reducible apply State.qntRun_changes | with_reducible apply Changes.ite | with_reducible refine Changes.elim _ ?_ (fun b => ?_) | with_reducible apply Changes.ite_fst | with_reducible apply Changes.ite_snd | with_reducible refine Changes.foldl _ (fun v b hv => ?_) ?_ | with_reducible refine Changes.foldl_fst _ (fun v b hv => ?_) ?_ | with_reducible refine Changes.foldl_snd _ (fun v b hv => ?_) ?_ | dsimp only | split | refine Changes.of_fst_eq (by assumption) ?_)

theorem execQntConvert_changes {s₀ : State} {c : Nat} {s : State} (h : Changes s₀ s) : OutChanges s₀ (execQntConvert c s) := by
  unfold execQntConvert
  try dsimp only
  repeat' (first | with_reducible assumption | with_reducible apply engineCmd_changes | with_reducible apply State.qntJob_changes | dsimp only)

theorem State.adaptRun_changes {s₀ : State} {s : State} {j : Job} {hdr : Nat} {ents : List Nat} {recs : List Nat} {poison : Bool} (h : Changes s₀ s) : Changes s₀ (State.adaptRun s j hdr ents recs poison) := by
  unfold State.adaptRun
  try dsimp only
  repeat' (first | with_reducible assumption | with_reducible apply State.jWrite_changes | with_reducible apply State.fadd_changes | with_reducible apply State.fset_changes | with_reducible apply State.endJob_changes | with_reducible apply Changes.ite | with_reducible refine Changes.elim _ ?_ (fun b => ?_) | with_reducible apply Changes.ite_fst | with_reducible apply Changes.ite_snd | with_reducible refine Changes.foldl _ (fun v b hv => ?_) ?_ | with_reducible refine Changes.foldl_fst _ (fun v b hv => ?_) ?_ | with_reducible refine Changes.foldl_snd _ (fun v b hv => ?_) ?_ | dsimp only | split | refine Changes.of_fst_eq (by assumption) ?_)

theorem State.adaptJob_changes {s₀ : State} {s : State} {j : Job} (h : Changes s₀ s) : Changes s₀ (State.adaptJob s j) := by
  unfold State.adaptJob
  try dsimp only
  repeat' (first | with_reducible assumption | with_reducible apply State.fieldStop_changes | with_reducible apply State.handleStop_changes | with_reducible apply State.boundStop_changes | with_reducible apply State.eccRead_changes | with_reducible apply State.checkReads_changes | with_reducible apply State.adaptRun_changes | with_reducible apply Changes.ite | with_reducible refine Changes.elim _ ?_ (fun b => ?_) | with_reducible apply Changes.ite_fst | with_reducible apply Changes.ite_snd | with_reducible refine Changes.foldl _ (fun v b hv => ?_) ?_ | with_reducible refine Changes.foldl_fst _ (fun v b hv => ?_) ?_ | with_reducible refine Changes.foldl_snd _ (fun v b hv => ?_) ?_ | dsimp only | split | refine Changes.of_fst_eq (by assumption) ?_)

theorem execQntAdapt_changes {s₀ : State} {c : Nat} {s : State} (h : Changes s₀ s) : OutChanges s₀ (execQntAdapt c s) := by
  unfold execQntAdapt
  try dsimp only
  repeat' (first | with_reducible assumption | with_reducible apply engineCmd_changes | with_reducible apply State.adaptJob_changes | dsimp only)

end Sys2Proof.Machine
end

