-- ==== Sys2Proof/Laws/ChangesLockstep.lean ====
section
/-! SUPPORT. The state after each definition of Sys2Proof/Machine/Lockstep.lean is reached by the model's own kinds of update. -/

namespace Sys2Proof.Machine

theorem State.rejectGroup_changes {s₀ : State} {s : State} {c : Nat} {o : Flight} {l : List Flight} {why : Option (Nat × Nat)} (h : Changes s₀ s) : Changes s₀ (State.rejectGroup s c o l why) := by
  unfold State.rejectGroup
  try dsimp only
  repeat' (first | with_reducible assumption | with_reducible apply State.fset_changes | with_reducible apply State.rset_changes | with_reducible apply State.endFault_changes | with_reducible apply State.endFlight_changes | with_reducible refine Changes.foldl _ (fun v b hv => ?_) ?_ | dsimp only | split)

theorem State.openGroup_changes {s₀ : State} {s : State} {c : Nat} {o : Flight} (h : Changes s₀ s) : Changes s₀ (State.openGroup s c o) := by
  unfold State.openGroup
  try dsimp only
  repeat' (first | with_reducible assumption | with_reducible apply State.rejectGroup_changes | with_reducible apply State.modCore_changes | with_reducible apply Changes.ite | with_reducible refine Changes.elim _ ?_ (fun b => ?_) | with_reducible apply Changes.ite_fst | with_reducible apply Changes.ite_snd | with_reducible refine Changes.foldl _ (fun v b hv => ?_) ?_ | with_reducible refine Changes.foldl_fst _ (fun v b hv => ?_) ?_ | with_reducible refine Changes.foldl_snd _ (fun v b hv => ?_) ?_ | dsimp only | split | with_reducible refine fun _ _ hu => ?_ | with_reducible refine fun _ hu => ?_ | refine Changes.of_fst_eq (by assumption) ?_)

theorem execGroupOpen_changes {s₀ : State} {c : Nat} {s : State} (h : Changes s₀ s) : OutChanges s₀ (execGroupOpen c s) := by
  unfold execGroupOpen
  try dsimp only
  repeat' (first | with_reducible assumption | with_reducible apply OutChanges.unit | with_reducible apply OutChanges.due | with_reducible apply OutChanges.next | with_reducible apply State.openGroup_changes | dsimp only | split)

theorem State.clearStamps_changes {s₀ : State} {s : State} {c : Nat} (h : Changes s₀ s) : Changes s₀ (State.clearStamps s c) := by
  unfold State.clearStamps
  try dsimp only
  repeat' (first | with_reducible assumption | with_reducible apply Changes.ite | with_reducible refine Changes.elim _ ?_ (fun b => ?_) | with_reducible apply Changes.ite_fst | with_reducible apply Changes.ite_snd | with_reducible refine Changes.foldl _ (fun v b hv => ?_) ?_ | with_reducible refine Changes.foldl_fst _ (fun v b hv => ?_) ?_ | with_reducible refine Changes.foldl_snd _ (fun v b hv => ?_) ?_ | dsimp only | split | refine Changes.of_fst_eq (by assumption) ?_ | with_reducible apply Changes.made | exact .left _ (by assumption) rfl rfl rfl rfl | exact .kept _ (by assumption) rfl rfl rfl rfl)

theorem State.startGroup_changes {s₀ : State} {s : State} {c : Nat} {o : Flight} (h : Changes s₀ s) : Changes s₀ (State.startGroup s c o) := by
  unfold State.startGroup
  try dsimp only
  repeat' (first | with_reducible assumption | with_reducible apply State.modFlight_changes | with_reducible apply State.fset_changes | with_reducible apply State.clearStamps_changes | with_reducible apply State.latchWaits_changes | with_reducible apply State.modGroup_changes | with_reducible apply Changes.ite | with_reducible refine Changes.elim _ ?_ (fun b => ?_) | with_reducible apply Changes.ite_fst | with_reducible apply Changes.ite_snd | with_reducible refine Changes.foldl _ (fun v b hv => ?_) ?_ | with_reducible refine Changes.foldl_fst _ (fun v b hv => ?_) ?_ | with_reducible refine Changes.foldl_snd _ (fun v b hv => ?_) ?_ | dsimp only | split | refine Changes.of_fst_eq (by assumption) ?_)

theorem execGroupStart_changes {s₀ : State} {c : Nat} {s : State} (h : Changes s₀ s) : OutChanges s₀ (execGroupStart c s) := by
  unfold execGroupStart
  try dsimp only
  repeat' (first | with_reducible assumption | with_reducible apply OutChanges.unit | with_reducible apply OutChanges.due | with_reducible apply OutChanges.next | with_reducible apply State.startGroup_changes | dsimp only | split)

theorem State.launchMember_changes {s₀ : State} {s : State} {c : Nat} {g : Group} {m : Member} (h : Changes s₀ s) : Changes s₀ (State.launchMember s c g m) := by
  unfold State.launchMember
  try dsimp only
  repeat' (first | with_reducible assumption | with_reducible apply State.modGroup_changes | with_reducible apply State.modMember_changes | with_reducible apply State.countSkew_changes | with_reducible apply State.endFlight_changes | with_reducible apply State.skew_changes | with_reducible apply State.modFlight_changes | with_reducible apply Changes.ite | with_reducible refine Changes.elim _ ?_ (fun b => ?_) | with_reducible apply Changes.ite_fst | with_reducible apply Changes.ite_snd | with_reducible refine Changes.foldl _ (fun v b hv => ?_) ?_ | with_reducible refine Changes.foldl_fst _ (fun v b hv => ?_) ?_ | with_reducible refine Changes.foldl_snd _ (fun v b hv => ?_) ?_ | dsimp only | split | refine Changes.of_fst_eq (by assumption) ?_)

theorem memberBody_changes {s₀ : State} {d : Nat} {s : State} {j : Job} (h : Changes s₀ s) : Changes s₀ (memberBody d s j) := by
  unfold memberBody
  try dsimp only
  repeat' (first | with_reducible assumption | with_reducible apply State.arrayJob_changes | with_reducible apply State.mvpJob_changes | with_reducible apply State.feedJob_changes | with_reducible apply State.regroupJob_changes | with_reducible apply State.curveLoadJob_changes | with_reducible apply State.vecJob_changes | with_reducible apply State.qntJob_changes | with_reducible apply State.adaptJob_changes | with_reducible apply Changes.ite | with_reducible refine Changes.elim _ ?_ (fun b => ?_) | with_reducible apply Changes.ite_fst | with_reducible apply Changes.ite_snd | with_reducible refine Changes.foldl _ (fun v b hv => ?_) ?_ | with_reducible refine Changes.foldl_fst _ (fun v b hv => ?_) ?_ | with_reducible refine Changes.foldl_snd _ (fun v b hv => ?_) ?_ | dsimp only | split | refine Changes.of_fst_eq (by assumption) ?_)

theorem State.runMember_changes {s₀ : State} {s : State} {c : Nat} {r : DescRef} (h : Changes s₀ s) : Changes s₀ (State.runMember s c r) := by
  unfold State.runMember
  try dsimp only
  repeat' (first | with_reducible assumption | with_reducible apply memberBody_changes | with_reducible apply Changes.ite | with_reducible refine Changes.elim _ ?_ (fun b => ?_) | with_reducible apply Changes.ite_fst | with_reducible apply Changes.ite_snd | with_reducible refine Changes.foldl _ (fun v b hv => ?_) ?_ | with_reducible refine Changes.foldl_fst _ (fun v b hv => ?_) ?_ | with_reducible refine Changes.foldl_snd _ (fun v b hv => ?_) ?_ | dsimp only | split | refine Changes.of_fst_eq (by assumption) ?_)

theorem State.runRest_changes {s₀ : State} {s : State} {c : Nat} {y2 : Nat} (h : Changes s₀ s) : Changes s₀ (State.runRest s c y2) := by
  fun_induction State.runRest s c y2
  all_goals try dsimp only
  all_goals repeat' (first | with_reducible assumption | with_reducible apply State.runMember_changes | with_reducible apply State.launchMember_changes | with_reducible apply Changes.ite | with_reducible refine Changes.elim _ ?_ (fun b => ?_) | with_reducible apply Changes.ite_fst | with_reducible apply Changes.ite_snd | with_reducible refine Changes.foldl _ (fun v b hv => ?_) ?_ | with_reducible refine Changes.foldl_fst _ (fun v b hv => ?_) ?_ | with_reducible refine Changes.foldl_snd _ (fun v b hv => ?_) ?_ | dsimp only | split | refine Changes.of_fst_eq (by assumption) ?_ | rename_i ih; with_reducible apply ih | rename_i ih _; with_reducible apply ih | rename_i ih _ _; with_reducible apply ih | rename_i ih _ _ _; with_reducible apply ih)

theorem State.foresee_changes {s₀ : State} {s : State} {c : Nat} {r : DescRef} (h : Changes s₀ s) : Changes s₀ (State.foresee s c r) := by
  unfold State.foresee
  try dsimp only
  repeat' (first | with_reducible assumption | with_reducible apply State.modGroup_changes | with_reducible apply Changes.ite | with_reducible refine Changes.elim _ ?_ (fun b => ?_) | with_reducible apply Changes.ite_fst | with_reducible apply Changes.ite_snd | with_reducible refine Changes.foldl _ (fun v b hv => ?_) ?_ | with_reducible refine Changes.foldl_fst _ (fun v b hv => ?_) ?_ | with_reducible refine Changes.foldl_snd _ (fun v b hv => ?_) ?_ | dsimp only | split | refine Changes.of_fst_eq (by assumption) ?_)

theorem State.startMember_changes {s₀ : State} {s : State} {c : Nat} {g : Group} {m : Member} (h : Changes s₀ s) : Changes s₀ (State.startMember s c g m) := by
  unfold State.startMember
  try dsimp only
  repeat' (first | with_reducible assumption | with_reducible apply State.foresee_changes | with_reducible apply State.launchMember_changes | with_reducible apply Changes.ite | with_reducible refine Changes.elim _ ?_ (fun b => ?_) | with_reducible apply Changes.ite_fst | with_reducible apply Changes.ite_snd | with_reducible refine Changes.foldl _ (fun v b hv => ?_) ?_ | with_reducible refine Changes.foldl_fst _ (fun v b hv => ?_) ?_ | with_reducible refine Changes.foldl_snd _ (fun v b hv => ?_) ?_ | dsimp only | split | refine Changes.of_fst_eq (by assumption) ?_)

theorem execMemberStart_changes {s₀ : State} {c : Nat} {s : State} (h : Changes s₀ s) : OutChanges s₀ (execMemberStart c s) := by
  unfold execMemberStart
  try dsimp only
  repeat' (first | with_reducible assumption | with_reducible apply OutChanges.unit | with_reducible apply OutChanges.due | with_reducible apply OutChanges.next | with_reducible apply State.startMember_changes | dsimp only | split)

theorem State.endGroup_changes {s₀ : State} {s : State} {c : Nat} {g : Group} (h : Changes s₀ s) : Changes s₀ (State.endGroup s c g) := by
  unfold State.endGroup
  try dsimp only
  repeat' (first | with_reducible assumption | with_reducible apply State.dropGroup_changes | with_reducible apply State.endFlight_changes | with_reducible apply State.completeFlight_changes | with_reducible apply Changes.ite | with_reducible refine Changes.elim _ ?_ (fun b => ?_) | with_reducible apply Changes.ite_fst | with_reducible apply Changes.ite_snd | with_reducible refine Changes.foldl _ (fun v b hv => ?_) ?_ | with_reducible refine Changes.foldl_fst _ (fun v b hv => ?_) ?_ | with_reducible refine Changes.foldl_snd _ (fun v b hv => ?_) ?_ | dsimp only | split | refine Changes.of_fst_eq (by assumption) ?_)

theorem execGroupEnd_changes {s₀ : State} {c : Nat} {s : State} (h : Changes s₀ s) : OutChanges s₀ (execGroupEnd c s) := by
  unfold execGroupEnd
  try dsimp only
  repeat' (first | with_reducible assumption | with_reducible apply OutChanges.unit | with_reducible apply OutChanges.due | with_reducible apply OutChanges.next | with_reducible apply State.endGroup_changes | dsimp only | split)

end Sys2Proof.Machine
end

