-- ==== Sys2Proof/Laws/ChangesPower.lean ====
section
/-! SUPPORT. The state after each definition of Sys2Proof/Machine/Power.lean is reached by the model's own kinds of update. -/

namespace Sys2Proof.Machine

theorem State.modPwr_changes {s₀ : State} {s : State} {g : Pwr → Pwr} (h : Changes s₀ s) : Changes s₀ (State.modPwr s g) := by
  unfold State.modPwr
  try dsimp only
  repeat' (first | with_reducible assumption | with_reducible apply Changes.ite | with_reducible refine Changes.elim _ ?_ (fun b => ?_) | with_reducible apply Changes.ite_fst | with_reducible apply Changes.ite_snd | with_reducible refine Changes.foldl _ (fun v b hv => ?_) ?_ | with_reducible refine Changes.foldl_fst _ (fun v b hv => ?_) ?_ | with_reducible refine Changes.foldl_snd _ (fun v b hv => ?_) ?_ | dsimp only | split | refine Changes.of_fst_eq (by assumption) ?_ | with_reducible apply Changes.made | exact .left _ (by assumption) rfl rfl rfl rfl | exact .kept _ (by assumption) rfl rfl rfl rfl)

theorem execPowerSample_changes {s₀ : State} {rails : List RailSample} {s : State} (h : Changes s₀ s) : OutChanges s₀ (execPowerSample rails s) := by
  unfold execPowerSample
  try dsimp only
  repeat' (first | with_reducible assumption | with_reducible apply OutChanges.unit | with_reducible apply OutChanges.due | with_reducible apply OutChanges.next | with_reducible apply OutChanges.fault | with_reducible apply OutChanges.ite | with_reducible apply State.modPwr_changes | with_reducible apply Changes.ite | with_reducible refine Changes.elim _ ?_ (fun b => ?_) | with_reducible apply Changes.ite_fst | with_reducible apply Changes.ite_snd | with_reducible refine Changes.foldl _ (fun v b hv => ?_) ?_ | with_reducible refine Changes.foldl_fst _ (fun v b hv => ?_) ?_ | with_reducible refine Changes.foldl_snd _ (fun v b hv => ?_) ?_ | dsimp only | split | refine Changes.of_fst_eq (by assumption) ?_ | with_reducible apply Changes.made | exact .left _ (by assumption) rfl rfl rfl rfl | exact .kept _ (by assumption) rfl rfl rfl rfl)

theorem State.busyHalf_changes {s₀ : State} {s : State} {c : Nat} (h : Changes s₀ s) : Changes s₀ (State.busyHalf s c).1 := by
  unfold State.busyHalf
  try dsimp only
  repeat' (first | with_reducible assumption | with_reducible apply State.free_changes | with_reducible apply Changes.ite | with_reducible refine Changes.elim _ ?_ (fun b => ?_) | with_reducible apply Changes.ite_fst | with_reducible apply Changes.ite_snd | with_reducible refine Changes.foldl _ (fun v b hv => ?_) ?_ | with_reducible refine Changes.foldl_fst _ (fun v b hv => ?_) ?_ | with_reducible refine Changes.foldl_snd _ (fun v b hv => ?_) ?_ | dsimp only | split | refine Changes.of_fst_eq (by assumption) ?_)

theorem State.learn_changes {s₀ : State} {s : State} {c : Nat} {est : Nat} (h : Changes s₀ s) : Changes s₀ (State.learn s c est) := by
  unfold State.learn
  try dsimp only
  repeat' (first | with_reducible assumption | with_reducible apply State.busyHalf_changes | with_reducible apply State.fits_changes | with_reducible apply State.fadd_changes | with_reducible apply State.fset_changes | with_reducible apply Changes.ite | with_reducible refine Changes.elim _ ?_ (fun b => ?_) | with_reducible apply Changes.ite_fst | with_reducible apply Changes.ite_snd | with_reducible refine Changes.foldl _ (fun v b hv => ?_) ?_ | with_reducible refine Changes.foldl_fst _ (fun v b hv => ?_) ?_ | with_reducible refine Changes.foldl_snd _ (fun v b hv => ?_) ?_ | dsimp only | split | refine Changes.of_fst_eq (by assumption) ?_)

theorem State.recordInterval_changes {s₀ : State} {s : State} {est : List Nat} {mw : Nat} {uncore : Nat} (h : Changes s₀ s) : Changes s₀ (State.recordInterval s est mw uncore) := by
  unfold State.recordInterval
  try dsimp only
  repeat' (first | with_reducible assumption | with_reducible apply State.fits_changes | with_reducible apply State.fset_changes | with_reducible apply State.modPwr_changes | with_reducible apply State.fadd_changes | with_reducible apply Changes.ite | with_reducible refine Changes.elim _ ?_ (fun b => ?_) | with_reducible apply Changes.ite_fst | with_reducible apply Changes.ite_snd | with_reducible refine Changes.foldl _ (fun v b hv => ?_) ?_ | with_reducible refine Changes.foldl_fst _ (fun v b hv => ?_) ?_ | with_reducible refine Changes.foldl_snd _ (fun v b hv => ?_) ?_ | dsimp only | split | refine Changes.of_fst_eq (by assumption) ?_)

theorem State.checkLimits_changes {s₀ : State} {s : State} {mw : Nat} {steps : List Nat} (h : Changes s₀ s) : Changes s₀ (State.checkLimits s mw steps) := by
  unfold State.checkLimits
  try dsimp only
  repeat' (first | with_reducible assumption | with_reducible apply State.fflag_changes | with_reducible apply State.fset_changes | with_reducible apply State.modPwr_changes | with_reducible apply State.report_changes | with_reducible apply Changes.ite | with_reducible refine Changes.elim _ ?_ (fun b => ?_) | with_reducible apply Changes.ite_fst | with_reducible apply Changes.ite_snd | with_reducible refine Changes.foldl _ (fun v b hv => ?_) ?_ | with_reducible refine Changes.foldl_fst _ (fun v b hv => ?_) ?_ | with_reducible refine Changes.foldl_snd _ (fun v b hv => ?_) ?_ | dsimp only | split | refine Changes.of_fst_eq (by assumption) ?_)

theorem State.endInterval_changes {s₀ : State} {s : State} {est : List Nat} (h : Changes s₀ s) : Changes s₀ (State.endInterval s est) := by
  unfold State.endInterval
  try dsimp only
  repeat' (first | with_reducible assumption | with_reducible apply State.fits_changes | with_reducible apply State.recordInterval_changes | with_reducible apply State.notePhase_changes | with_reducible apply State.learn_changes | with_reducible apply State.requestStep_changes | with_reducible apply State.fset_changes | with_reducible apply State.checkLimits_changes | with_reducible apply State.modPwr_changes | with_reducible apply Changes.ite | with_reducible refine Changes.elim _ ?_ (fun b => ?_) | with_reducible apply Changes.ite_fst | with_reducible apply Changes.ite_snd | with_reducible refine Changes.foldl _ (fun v b hv => ?_) ?_ | with_reducible refine Changes.foldl_fst _ (fun v b hv => ?_) ?_ | with_reducible refine Changes.foldl_snd _ (fun v b hv => ?_) ?_ | dsimp only | split | refine Changes.of_fst_eq (by assumption) ?_)

theorem execControlIntervalEnd_changes {s₀ : State} {est : List Nat} {s : State} (h : Changes s₀ s) : OutChanges s₀ (execControlIntervalEnd est s) := by
  unfold execControlIntervalEnd
  try dsimp only
  repeat' (first | with_reducible assumption | with_reducible apply OutChanges.unit | with_reducible apply OutChanges.due | with_reducible apply OutChanges.next | with_reducible apply OutChanges.fault | with_reducible apply OutChanges.ite | with_reducible apply State.endInterval_changes | with_reducible apply Changes.ite | with_reducible refine Changes.elim _ ?_ (fun b => ?_) | with_reducible apply Changes.ite_fst | with_reducible apply Changes.ite_snd | with_reducible refine Changes.foldl _ (fun v b hv => ?_) ?_ | with_reducible refine Changes.foldl_fst _ (fun v b hv => ?_) ?_ | with_reducible refine Changes.foldl_snd _ (fun v b hv => ?_) ?_ | dsimp only | split | refine Changes.of_fst_eq (by assumption) ?_)

theorem State.setLevel_changes {s₀ : State} {s : State} {c : Nat} {a : Nat} {l : Nat} (h : Changes s₀ s) : Changes s₀ (State.setLevel s c a l) := by
  unfold State.setLevel
  try dsimp only
  repeat' (first | with_reducible assumption | with_reducible apply State.fset_changes | with_reducible apply State.modCore_changes | with_reducible apply Changes.ite | with_reducible refine Changes.elim _ ?_ (fun b => ?_) | with_reducible apply Changes.ite_fst | with_reducible apply Changes.ite_snd | with_reducible refine Changes.foldl _ (fun v b hv => ?_) ?_ | with_reducible refine Changes.foldl_fst _ (fun v b hv => ?_) ?_ | with_reducible refine Changes.foldl_snd _ (fun v b hv => ?_) ?_ | dsimp only | split | with_reducible refine fun _ _ hu => ?_ | with_reducible refine fun _ hu => ?_ | refine Changes.of_fst_eq (by assumption) ?_)

theorem State.levelStep_changes {s₀ : State} {s : State} {c : Nat} {a : Nat} (h : Changes s₀ s) : Changes s₀ (State.levelStep s c a) := by
  unfold State.levelStep
  try dsimp only
  repeat' (first | with_reducible assumption | with_reducible apply State.free_changes | with_reducible apply State.fadd_changes | with_reducible apply State.setLevel_changes | dsimp only | split)

theorem execActivityLevelChange_changes {s₀ : State} {n : Nat} {s : State} (h : Changes s₀ s) : OutChanges s₀ (execActivityLevelChange n s) := by
  unfold execActivityLevelChange
  try dsimp only
  repeat' (first | with_reducible assumption | with_reducible apply OutChanges.unit | with_reducible apply OutChanges.due | with_reducible apply OutChanges.next | with_reducible apply OutChanges.fault | with_reducible apply OutChanges.ite | with_reducible apply State.levelStep_changes | with_reducible apply Changes.ite | with_reducible refine Changes.elim _ ?_ (fun b => ?_) | with_reducible apply Changes.ite_fst | with_reducible apply Changes.ite_snd | with_reducible refine Changes.foldl _ (fun v b hv => ?_) ?_ | with_reducible refine Changes.foldl_fst _ (fun v b hv => ?_) ?_ | with_reducible refine Changes.foldl_snd _ (fun v b hv => ?_) ?_ | dsimp only | split | refine Changes.of_fst_eq (by assumption) ?_)

theorem State.readSensor_changes {s₀ : State} {s : State} {i : Nat} {r : Option Int} (h : Changes s₀ s) : Changes s₀ (State.readSensor s i r) := by
  unfold State.readSensor
  try dsimp only
  repeat' (first | with_reducible assumption | with_reducible apply State.fset_changes | with_reducible apply State.report_changes | with_reducible refine Changes.elim _ ?_ (fun b => ?_) | dsimp only | split)

theorem State.warn_changes {s₀ : State} {s : State} {t : Int} (h : Changes s₀ s) : Changes s₀ (State.warn s t) := by
  unfold State.warn
  try dsimp only
  repeat' (first | with_reducible assumption | with_reducible apply State.irq_changes | with_reducible apply State.fset_changes | with_reducible apply Changes.ite | with_reducible refine Changes.elim _ ?_ (fun b => ?_) | with_reducible apply Changes.ite_fst | with_reducible apply Changes.ite_snd | with_reducible refine Changes.foldl _ (fun v b hv => ?_) ?_ | with_reducible refine Changes.foldl_fst _ (fun v b hv => ?_) ?_ | with_reducible refine Changes.foldl_snd _ (fun v b hv => ?_) ?_ | dsimp only | split | refine Changes.of_fst_eq (by assumption) ?_ | with_reducible apply Changes.made | exact .left _ (by assumption) rfl rfl rfl rfl | exact .kept _ (by assumption) rfl rfl rfl rfl)

theorem State.applyTemp_changes {s₀ : State} {s : State} {t : Int} {sensor : Nat} (h : Changes s₀ s) : Changes s₀ (State.applyTemp s t sensor) := by
  unfold State.applyTemp
  try dsimp only
  repeat' (first | with_reducible assumption | with_reducible apply State.fset_changes | with_reducible apply State.modPwr_changes | with_reducible apply State.warn_changes | with_reducible apply State.report_changes | dsimp only | split)

theorem execThermalSample_changes {s₀ : State} {readings : List (Option Int)} {s : State} (h : Changes s₀ s) : OutChanges s₀ (execThermalSample readings s) := by
  unfold execThermalSample
  try dsimp only
  repeat' (first | with_reducible assumption | with_reducible apply OutChanges.due | with_reducible apply State.readSensor_changes | with_reducible apply State.modPwr_changes | with_reducible apply State.applyTemp_changes | with_reducible refine Changes.foldl _ (fun v b hv => ?_) ?_ | dsimp only | split)

theorem pwrCtrlEffect_changes {s₀ : State} {v : Nat} {s : State} (h : Changes s₀ s) : Changes s₀ (pwrCtrlEffect v s).1 := by
  unfold pwrCtrlEffect
  try dsimp only
  repeat' (first | with_reducible assumption | with_reducible apply State.plainWrite_changes | dsimp only | split)

theorem execPowerModeWrite_changes {s₀ : State} {src : Nat} {v : Nat} {s : State} (h : Changes s₀ s) : OutChanges s₀ (execPowerModeWrite src v s) := by
  unfold execPowerModeWrite
  try dsimp only
  repeat' (first | with_reducible assumption | with_reducible apply regCmd_changes | with_reducible apply pwrCtrlEffect_changes | dsimp only)

theorem pwrCapEffect_changes {s₀ : State} {v : Nat} {s : State} (h : Changes s₀ s) : Changes s₀ (pwrCapEffect v s).1 := by
  unfold pwrCapEffect
  try dsimp only
  repeat' (first | with_reducible assumption | with_reducible apply State.fset_changes | dsimp only | split)

theorem execPowerCapWrite_changes {s₀ : State} {src : Nat} {v : Nat} {s : State} (h : Changes s₀ s) : OutChanges s₀ (execPowerCapWrite src v s) := by
  unfold execPowerCapWrite
  try dsimp only
  repeat' (first | with_reducible assumption | with_reducible apply regCmd_changes | with_reducible apply pwrCapEffect_changes | dsimp only)

theorem phaseEffect_changes {s₀ : State} {p : Nat} {v : Nat} {s : State} (h : Changes s₀ s) : Changes s₀ (phaseEffect p v s).1 := by
  unfold phaseEffect
  try dsimp only
  repeat' (first | with_reducible assumption | with_reducible apply State.modPwr_changes | with_reducible apply State.plainWrite_changes | dsimp only)

theorem execPhaseWrite_changes {s₀ : State} {src : Nat} {p : Nat} {v : Nat} {s : State} (h : Changes s₀ s) : OutChanges s₀ (execPhaseWrite src p v s) := by
  unfold execPhaseWrite
  try dsimp only
  repeat' (first | with_reducible assumption | with_reducible apply regCmd_changes | with_reducible apply phaseEffect_changes | dsimp only)

theorem thermCtrlEffect_changes {s₀ : State} {v : Nat} {s : State} (h : Changes s₀ s) : Changes s₀ (thermCtrlEffect v s).1 := by
  unfold thermCtrlEffect
  try dsimp only
  repeat' (first | with_reducible assumption | with_reducible apply State.plainWrite_changes | dsimp only)

theorem tempPeakRead_changes {s₀ : State} {s : State} (h : Changes s₀ s) : Changes s₀ (tempPeakRead s).1 := by
  unfold tempPeakRead
  try dsimp only
  repeat' (first | with_reducible assumption | with_reducible apply State.fset_changes | dsimp only)

theorem execTempPeakRead_changes {s₀ : State} {src : Nat} {s : State} (h : Changes s₀ s) : OutChanges s₀ (execTempPeakRead src s) := by
  unfold execTempPeakRead
  try dsimp only
  repeat' (first | with_reducible assumption | with_reducible apply readCmd_changes | with_reducible apply tempPeakRead_changes | dsimp only)

end Sys2Proof.Machine
end

