-- ==== Sys2Proof/Laws/ChangesAdmission.lean ====
section
/-! SUPPORT. The state after each definition of Sys2Proof/Machine/Admission.lean is reached by the model's own kinds of update. -/

namespace Sys2Proof.Machine

theorem State.modAdm_changes {s₀ : State} {s : State} {g : Adm → Adm} (h : Changes s₀ s) : Changes s₀ (State.modAdm s g) := by
  unfold State.modAdm
  try dsimp only
  repeat' (first | with_reducible assumption | with_reducible apply Changes.ite | with_reducible refine Changes.elim _ ?_ (fun b => ?_) | with_reducible apply Changes.ite_fst | with_reducible apply Changes.ite_snd | with_reducible refine Changes.foldl _ (fun v b hv => ?_) ?_ | with_reducible refine Changes.foldl_fst _ (fun v b hv => ?_) ?_ | with_reducible refine Changes.foldl_snd _ (fun v b hv => ?_) ?_ | dsimp only | split | with_reducible refine fun _ _ _ _ hu => ?_ | with_reducible refine fun _ _ hu => ?_ | with_reducible refine fun _ hu => ?_ | refine Changes.of_fst_eq (by assumption) ?_ | with_reducible apply Changes.made | exact .left _ (by assumption) rfl rfl rfl rfl | exact .kept _ (by assumption) rfl rfl rfl rfl)

theorem State.admCounts_changes {s₀ : State} {s : State} (h : Changes s₀ s) : Changes s₀ (State.admCounts s) := by
  unfold State.admCounts
  try dsimp only
  repeat' (first | with_reducible assumption | with_reducible apply State.fset_changes | dsimp only)

theorem State.setCtx_changes {s₀ : State} {s : State} {k : Nat} {c : Option AdmCtx} (h : Changes s₀ s) : Changes s₀ (State.setCtx s k c) := by
  unfold State.setCtx
  try dsimp only
  repeat' (first | with_reducible assumption | with_reducible apply State.admCounts_changes | with_reducible apply State.modAdm_changes | dsimp only)

theorem State.closeCtx_changes {s₀ : State} {s : State} {k : Nat} {remember : Bool} (h : Changes s₀ s) : Changes s₀ (State.closeCtx s k remember) := by
  unfold State.closeCtx
  try dsimp only
  repeat' (first | with_reducible assumption | with_reducible apply State.modAdm_changes | with_reducible apply State.setCtx_changes | dsimp only | split)

theorem State.foldAdm_changes {s₀ : State} {s : State} (h : Changes s₀ s) : Changes s₀ (State.foldAdm s) := by
  unfold State.foldAdm
  try dsimp only
  repeat' (first | with_reducible assumption | with_reducible apply State.closeCtx_changes | with_reducible refine Changes.foldl _ (fun v b hv => ?_) ?_ | dsimp only)

theorem State.admEnd_changes {s₀ : State} {s : State} {reason : Nat} (h : Changes s₀ s) : Changes s₀ (State.admEnd s reason) := by
  unfold State.admEnd
  try dsimp only
  repeat' (first | with_reducible assumption | with_reducible apply State.fset_changes | with_reducible apply State.irq_changes | with_reducible apply Changes.ite | with_reducible refine Changes.elim _ ?_ (fun b => ?_) | with_reducible apply Changes.ite_fst | with_reducible apply Changes.ite_snd | with_reducible refine Changes.foldl _ (fun v b hv => ?_) ?_ | with_reducible refine Changes.foldl_fst _ (fun v b hv => ?_) ?_ | with_reducible refine Changes.foldl_snd _ (fun v b hv => ?_) ?_ | dsimp only | split | with_reducible refine fun _ _ _ _ hu => ?_ | with_reducible refine fun _ _ hu => ?_ | with_reducible refine fun _ hu => ?_ | refine Changes.of_fst_eq (by assumption) ?_)

theorem State.admRespond_changes {s₀ : State} {s : State} {a : Nat} {x : AdmAnswer} (h : Changes s₀ s) : Changes s₀ (State.admRespond s a x) := by
  unfold State.admRespond
  try dsimp only
  repeat' (first | with_reducible assumption | with_reducible apply State.admCounts_changes | with_reducible apply State.modAdm_changes | with_reducible apply State.chargeFor_changes | with_reducible apply State.admEnd_changes | with_reducible apply State.hubWrite_changes | with_reducible apply Changes.ite | with_reducible refine Changes.elim _ ?_ (fun b => ?_) | with_reducible apply Changes.ite_fst | with_reducible apply Changes.ite_snd | with_reducible refine Changes.foldl _ (fun v b hv => ?_) ?_ | with_reducible refine Changes.foldl_fst _ (fun v b hv => ?_) ?_ | with_reducible refine Changes.foldl_snd _ (fun v b hv => ?_) ?_ | dsimp only | split | with_reducible refine fun _ _ _ _ hu => ?_ | with_reducible refine fun _ _ hu => ?_ | with_reducible refine fun _ hu => ?_ | refine Changes.of_fst_eq (by assumption) ?_)

theorem State.admRefuse_changes {s₀ : State} {s : State} {a : Nat} {reason : Nat} (h : Changes s₀ s) : Changes s₀ (State.admRefuse s a reason) := by
  unfold State.admRefuse
  try dsimp only
  repeat' (first | with_reducible assumption | with_reducible apply State.free_changes | with_reducible apply State.admRespond_changes | dsimp only)

theorem State.admAnswer_changes {s₀ : State} {s : State} {a : Nat} {reason : Nat} {c : AdmCtx} (h : Changes s₀ s) : Changes s₀ (State.admAnswer s a reason c) := by
  unfold State.admAnswer
  try dsimp only
  repeat' (first | with_reducible assumption | with_reducible apply State.admRespond_changes | dsimp only)

theorem State.admClose_changes {s₀ : State} {s : State} {a : Nat} {k : Nat} {reason : Nat} {c : AdmCtx} (h : Changes s₀ s) : Changes s₀ (State.admClose s a k reason c) := by
  unfold State.admClose
  try dsimp only
  repeat' (first | with_reducible assumption | with_reducible apply State.admAnswer_changes | with_reducible apply State.closeCtx_changes | dsimp only)

theorem State.admBad_changes {s₀ : State} {s : State} {a : Nat} (h : Changes s₀ s) : Changes s₀ (State.admBad s a) := by
  unfold State.admBad
  try dsimp only
  repeat' (first | with_reducible assumption | with_reducible apply State.admClose_changes | with_reducible apply State.admRefuse_changes | with_reducible apply Changes.ite | with_reducible refine Changes.elim _ ?_ (fun b => ?_) | with_reducible apply Changes.ite_fst | with_reducible apply Changes.ite_snd | with_reducible refine Changes.foldl _ (fun v b hv => ?_) ?_ | with_reducible refine Changes.foldl_fst _ (fun v b hv => ?_) ?_ | with_reducible refine Changes.foldl_snd _ (fun v b hv => ?_) ?_ | dsimp only | split | with_reducible refine fun _ _ _ _ hu => ?_ | with_reducible refine fun _ _ hu => ?_ | with_reducible refine fun _ hu => ?_ | refine Changes.of_fst_eq (by assumption) ?_)

theorem admCmd_changes {s₀ : State} {op : Nat} {s : State} {body : Nat → State → State} (h : Changes s₀ s) (he : ∀ r u, Changes s₀ u → Changes s₀ (body r u)) : OutChanges s₀ (admCmd op s body) := by
  unfold admCmd
  try dsimp only
  repeat' (first | with_reducible assumption | with_reducible apply he | with_reducible apply OutChanges.unit | with_reducible apply OutChanges.due | with_reducible apply OutChanges.next | with_reducible apply OutChanges.fault | with_reducible apply OutChanges.ite | with_reducible apply State.hubRead_changes | with_reducible apply State.admBad_changes | with_reducible apply Changes.ite | with_reducible refine Changes.elim _ ?_ (fun b => ?_) | with_reducible apply Changes.ite_fst | with_reducible apply Changes.ite_snd | with_reducible refine Changes.foldl _ (fun v b hv => ?_) ?_ | with_reducible refine Changes.foldl_fst _ (fun v b hv => ?_) ?_ | with_reducible refine Changes.foldl_snd _ (fun v b hv => ?_) ?_ | dsimp only | split | with_reducible refine fun _ _ _ _ hu => ?_ | with_reducible refine fun _ _ hu => ?_ | with_reducible refine fun _ hu => ?_ | refine Changes.of_fst_eq (by assumption) ?_)

theorem admCtxCmd_changes {s₀ : State} {op : Nat} {s : State} {body : Nat → Nat → AdmCtx → State → State} (h : Changes s₀ s) (he : ∀ k n x u, Changes s₀ u → Changes s₀ (body k n x u)) : OutChanges s₀ (admCtxCmd op s body) := by
  unfold admCtxCmd
  try dsimp only
  repeat' (first | with_reducible assumption | with_reducible apply he | with_reducible apply admCmd_changes | with_reducible apply State.admRefuse_changes | with_reducible apply State.setCtx_changes | dsimp only | split | with_reducible refine fun _ _ hu => ?_)

theorem execBegin_changes {s₀ : State} {s : State} (h : Changes s₀ s) : OutChanges s₀ (execBegin s) := by
  unfold execBegin
  try dsimp only
  repeat' (first | with_reducible assumption | with_reducible apply admCmd_changes | with_reducible apply State.admRefuse_changes | with_reducible apply State.free_changes | with_reducible apply State.admAnswer_changes | with_reducible apply State.setCtx_changes | dsimp only | split | with_reducible refine fun _ _ hu => ?_)

theorem execManifest_changes {s₀ : State} {s : State} (h : Changes s₀ s) : OutChanges s₀ (execManifest s) := by
  unfold execManifest
  try dsimp only
  repeat' (first | with_reducible assumption | with_reducible apply OutChanges.unit | with_reducible apply OutChanges.due | with_reducible apply OutChanges.next | with_reducible apply OutChanges.fault | with_reducible apply OutChanges.ite | with_reducible apply admCtxCmd_changes | with_reducible apply State.admAnswer_changes | with_reducible apply State.admClose_changes | with_reducible apply State.chargedWrite_changes | with_reducible apply State.setCtx_changes | with_reducible apply Changes.ite | with_reducible refine Changes.elim _ ?_ (fun b => ?_) | with_reducible apply Changes.ite_fst | with_reducible apply Changes.ite_snd | with_reducible refine Changes.foldl _ (fun v b hv => ?_) ?_ | with_reducible refine Changes.foldl_fst _ (fun v b hv => ?_) ?_ | with_reducible refine Changes.foldl_snd _ (fun v b hv => ?_) ?_ | dsimp only | split | with_reducible refine fun _ _ _ _ hu => ?_ | with_reducible refine fun _ _ hu => ?_ | with_reducible refine fun _ hu => ?_ | refine Changes.of_fst_eq (by assumption) ?_)

theorem State.admBlock_changes {s₀ : State} {s : State} {m : List Byte} {c : AdmCtx} {b : Nat} {block : List Byte} (h : Changes s₀ s) : Changes s₀ (State.admBlock s m c b block).1 := by
  unfold State.admBlock
  try dsimp only
  repeat' (first | with_reducible assumption | with_reducible apply State.chargedWrite_changes | with_reducible apply Changes.ite | with_reducible refine Changes.elim _ ?_ (fun b => ?_) | with_reducible apply Changes.ite_fst | with_reducible apply Changes.ite_snd | with_reducible refine Changes.foldl _ (fun v b hv => ?_) ?_ | with_reducible refine Changes.foldl_fst _ (fun v b hv => ?_) ?_ | with_reducible refine Changes.foldl_snd _ (fun v b hv => ?_) ?_ | dsimp only | split | with_reducible refine fun _ _ _ _ hu => ?_ | with_reducible refine fun _ _ hu => ?_ | with_reducible refine fun _ hu => ?_ | refine Changes.of_fst_eq (by assumption) ?_)

theorem State.admTake_changes {s₀ : State} {m : List Byte} {y1 : Nat} {y2 : State} {y3 : AdmCtx} {y4 : List Byte} (h : Changes s₀ y2) : Changes s₀ (State.admTake m y1 y2 y3 y4).1 := by
  fun_induction State.admTake m y1 y2 y3 y4
  all_goals try dsimp only
  all_goals repeat' (first | with_reducible assumption | with_reducible apply State.admBlock_changes | dsimp only | rename_i ih; with_reducible apply ih)

theorem execData_changes {s₀ : State} {s : State} (h : Changes s₀ s) : OutChanges s₀ (execData s) := by
  unfold execData
  try dsimp only
  repeat' (first | with_reducible assumption | with_reducible apply admCtxCmd_changes | with_reducible apply State.admClose_changes | with_reducible apply State.admAnswer_changes | with_reducible apply State.admTake_changes | with_reducible apply State.setCtx_changes | dsimp only | split | with_reducible refine fun _ _ hu => ?_ | with_reducible refine fun _ hu => ?_)

theorem State.admPhases_changes {s₀ : State} {s : State} {c : AdmCtx} (h : Changes s₀ s) : Changes s₀ (State.admPhases s c) := by
  unfold State.admPhases
  try dsimp only
  repeat' (first | with_reducible assumption | with_reducible apply State.writeEnd_changes | with_reducible apply phaseEffect_changes | with_reducible apply Changes.ite | with_reducible refine Changes.elim _ ?_ (fun b => ?_) | with_reducible apply Changes.ite_fst | with_reducible apply Changes.ite_snd | with_reducible refine Changes.foldl _ (fun v b hv => ?_) ?_ | with_reducible refine Changes.foldl_fst _ (fun v b hv => ?_) ?_ | with_reducible refine Changes.foldl_snd _ (fun v b hv => ?_) ?_ | dsimp only | split | with_reducible refine fun _ _ _ _ hu => ?_ | with_reducible refine fun _ _ hu => ?_ | with_reducible refine fun _ hu => ?_ | refine Changes.of_fst_eq (by assumption) ?_ | with_reducible apply Changes.made | exact .left _ (by assumption) rfl rfl rfl rfl | exact .kept _ (by assumption) rfl rfl rfl rfl)

theorem State.admFinish_changes {s₀ : State} {s : State} {m : List Byte} {c : AdmCtx} (h : Changes s₀ s) : Changes s₀ (State.admFinish s m c) := by
  unfold State.admFinish
  try dsimp only
  repeat' (first | with_reducible assumption | with_reducible apply State.admPhases_changes | with_reducible apply State.chargedWrite_changes | with_reducible apply State.modAdm_changes | with_reducible apply Changes.ite | with_reducible refine Changes.elim _ ?_ (fun b => ?_) | with_reducible apply Changes.ite_fst | with_reducible apply Changes.ite_snd | with_reducible refine Changes.foldl _ (fun v b hv => ?_) ?_ | with_reducible refine Changes.foldl_fst _ (fun v b hv => ?_) ?_ | with_reducible refine Changes.foldl_snd _ (fun v b hv => ?_) ?_ | dsimp only | split | with_reducible refine fun _ _ _ _ hu => ?_ | with_reducible refine fun _ _ hu => ?_ | with_reducible refine fun _ hu => ?_ | refine Changes.of_fst_eq (by assumption) ?_)

theorem execFinish_changes {s₀ : State} {s : State} (h : Changes s₀ s) : OutChanges s₀ (execFinish s) := by
  unfold execFinish
  try dsimp only
  repeat' (first | with_reducible assumption | with_reducible apply admCtxCmd_changes | with_reducible apply State.admClose_changes | with_reducible apply State.admAnswer_changes | with_reducible apply State.closeCtx_changes | with_reducible apply State.admFinish_changes | dsimp only | split | with_reducible refine fun _ _ hu => ?_ | with_reducible refine fun _ hu => ?_)

theorem execAbort_changes {s₀ : State} {s : State} (h : Changes s₀ s) : OutChanges s₀ (execAbort s) := by
  unfold execAbort
  try dsimp only
  repeat' (first | with_reducible assumption | with_reducible apply admCtxCmd_changes | with_reducible apply State.admAnswer_changes | with_reducible apply State.closeCtx_changes | dsimp only | with_reducible refine fun _ _ hu => ?_ | with_reducible refine fun _ hu => ?_)

theorem execRemove_changes {s₀ : State} {s : State} (h : Changes s₀ s) : OutChanges s₀ (execRemove s) := by
  unfold execRemove
  try dsimp only
  repeat' (first | with_reducible assumption | with_reducible apply OutChanges.unit | with_reducible apply OutChanges.due | with_reducible apply OutChanges.next | with_reducible apply OutChanges.fault | with_reducible apply OutChanges.ite | with_reducible apply admCmd_changes | with_reducible apply State.admRefuse_changes | with_reducible apply State.chargedWrite_changes | with_reducible apply State.setResident_changes | with_reducible apply State.modAdm_changes | with_reducible apply Changes.ite | with_reducible refine Changes.elim _ ?_ (fun b => ?_) | with_reducible apply Changes.ite_fst | with_reducible apply Changes.ite_snd | with_reducible refine Changes.foldl _ (fun v b hv => ?_) ?_ | with_reducible refine Changes.foldl_fst _ (fun v b hv => ?_) ?_ | with_reducible refine Changes.foldl_snd _ (fun v b hv => ?_) ?_ | dsimp only | split | with_reducible refine fun _ _ _ _ hu => ?_ | with_reducible refine fun _ _ hu => ?_ | with_reducible refine fun _ hu => ?_ | refine Changes.of_fst_eq (by assumption) ?_)

theorem execAdmitTimeout_changes {s₀ : State} {k : Nat} {s : State} (h : Changes s₀ s) : OutChanges s₀ (execAdmitTimeout k s) := by
  unfold execAdmitTimeout
  try dsimp only
  repeat' (first | with_reducible assumption | with_reducible apply OutChanges.unit | with_reducible apply OutChanges.due | with_reducible apply OutChanges.next | with_reducible apply State.closeCtx_changes | dsimp only | split)

theorem admitReqEffect_changes {s₀ : State} {v : Nat} {s : State} (h : Changes s₀ s) : Changes s₀ (admitReqEffect v s).1 := by
  unfold admitReqEffect
  try dsimp only
  repeat' (first | with_reducible assumption | with_reducible apply State.modAdm_changes | with_reducible apply State.fset_changes | dsimp only | split)

end Sys2Proof.Machine
end

