-- ==== Sys2Proof/Laws/ChangesIsp.lean ====
section
/-! SUPPORT. The state after each definition of Sys2Proof/Machine/Isp.lean is reached by the model's own kinds of update. -/

namespace Sys2Proof.Machine

theorem State.modPort_changes {s₀ : State} {s : State} {n : Nat} {f : IspPort → IspPort} (h : Changes s₀ s) : Changes s₀ (State.modPort s n f) := by
  unfold State.modPort
  try dsimp only
  repeat' (first | with_reducible assumption | with_reducible apply Changes.ite | with_reducible refine Changes.elim _ ?_ (fun b => ?_) | with_reducible apply Changes.ite_fst | with_reducible apply Changes.ite_snd | with_reducible refine Changes.foldl _ (fun v b hv => ?_) ?_ | with_reducible refine Changes.foldl_fst _ (fun v b hv => ?_) ?_ | with_reducible refine Changes.foldl_snd _ (fun v b hv => ?_) ?_ | dsimp only | split | refine Changes.of_fst_eq (by assumption) ?_ | with_reducible apply Changes.made | exact .left _ (by assumption) rfl rfl rfl rfl | exact .kept _ (by assumption) rfl rfl rfl rfl)

theorem State.modStream_changes {s₀ : State} {s : State} {n : Nat} {v : Nat} {f : IspStream → IspStream} (h : Changes s₀ s) : Changes s₀ (State.modStream s n v f) := by
  unfold State.modStream
  try dsimp only
  repeat' (first | with_reducible assumption | with_reducible apply State.modPort_changes | dsimp only)

theorem State.csiDrop_changes {s₀ : State} {s : State} {n : Nat} (h : Changes s₀ s) : Changes s₀ (State.csiDrop s n) := by
  unfold State.csiDrop
  try dsimp only
  repeat' (first | with_reducible assumption | with_reducible apply State.fset_changes | with_reducible apply State.fadd_changes | dsimp only)

theorem State.bufWrite_changes {s₀ : State} {s : State} {cls : Nat} {h1 : Nat} {off : Nat} {bs : List Byte} (h : Changes s₀ s) : Changes s₀ (State.bufWrite s cls h1 off bs) := by
  unfold State.bufWrite
  try dsimp only
  repeat' (first | with_reducible assumption | with_reducible apply State.chargedWrite_changes | with_reducible apply Changes.ite | with_reducible refine Changes.elim _ ?_ (fun b => ?_) | with_reducible apply Changes.ite_fst | with_reducible apply Changes.ite_snd | with_reducible refine Changes.foldl _ (fun v b hv => ?_) ?_ | with_reducible refine Changes.foldl_fst _ (fun v b hv => ?_) ?_ | with_reducible refine Changes.foldl_snd _ (fun v b hv => ?_) ?_ | dsimp only | split | refine Changes.of_fst_eq (by assumption) ?_)

theorem State.noteFill_changes {s₀ : State} {s : State} {n : Nat} (h : Changes s₀ s) : Changes s₀ (State.noteFill s n) := by
  unfold State.noteFill
  try dsimp only
  repeat' (first | with_reducible assumption | with_reducible apply State.fset_changes | dsimp only | split)

theorem State.ispWrite_changes {s₀ : State} {s : State} {n : Nat} {h1 : Nat} {off : Nat} {bs : List Byte} {paid : Nat} (h : Changes s₀ s) : Changes s₀ (State.ispWrite s n h1 off bs paid) := by
  unfold State.ispWrite
  try dsimp only
  repeat' (first | with_reducible assumption | with_reducible apply State.noteFill_changes | with_reducible apply State.chargeFor_changes | with_reducible apply State.hubWrite_changes | with_reducible apply Changes.ite | with_reducible refine Changes.elim _ ?_ (fun b => ?_) | with_reducible apply Changes.ite_fst | with_reducible apply Changes.ite_snd | with_reducible refine Changes.foldl _ (fun v b hv => ?_) ?_ | with_reducible refine Changes.foldl_fst _ (fun v b hv => ?_) ?_ | with_reducible refine Changes.foldl_snd _ (fun v b hv => ?_) ?_ | dsimp only | split | with_reducible refine fun _ _ hu => ?_ | with_reducible refine fun _ hu => ?_ | refine Changes.of_fst_eq (by assumption) ?_)

theorem State.takeBuf_changes {s₀ : State} {s : State} {n : Nat} {v : Nat} {tap : Bool} (h : Changes s₀ s) : Changes s₀ (State.takeBuf s n v tap).1 := by
  unfold State.takeBuf
  try dsimp only
  repeat' (first | with_reducible assumption | with_reducible apply State.wayTake_changes | dsimp only)

theorem State.noBuffer_changes {s₀ : State} {s : State} {n : Nat} {v : Nat} {tap : Bool} (h : Changes s₀ s) : Changes s₀ (State.noBuffer s n v tap) := by
  unfold State.noBuffer
  try dsimp only
  repeat' (first | with_reducible assumption | with_reducible apply State.fset_changes | with_reducible apply State.fadd_changes | with_reducible apply State.modStream_changes | with_reducible apply Changes.ite | with_reducible refine Changes.elim _ ?_ (fun b => ?_) | with_reducible apply Changes.ite_fst | with_reducible apply Changes.ite_snd | with_reducible refine Changes.foldl _ (fun v b hv => ?_) ?_ | with_reducible refine Changes.foldl_fst _ (fun v b hv => ?_) ?_ | with_reducible refine Changes.foldl_snd _ (fun v b hv => ?_) ?_ | dsimp only | split | refine Changes.of_fst_eq (by assumption) ?_)

theorem State.beginFrame_changes {s₀ : State} {s : State} {n : Nat} {v : Nat} {f : IspFrame} (h : Changes s₀ s) : Changes s₀ (State.beginFrame s n v f).1 := by
  unfold State.beginFrame
  try dsimp only
  repeat' (first | with_reducible assumption | with_reducible apply State.takeBuf_changes | with_reducible apply State.noBuffer_changes | dsimp only | split)

theorem State.closeBuf_changes {s₀ : State} {s : State} {n : Nat} {v : Nat} {h1 : Nat} {image : List Byte} {pieces : List (Nat × Nat)} {paid : Nat} {ok : Bool} {header : List Byte} {tap : Bool} (h : Changes s₀ s) : Changes s₀ (State.closeBuf s n v h1 image pieces paid ok header tap) := by
  unfold State.closeBuf
  try dsimp only
  repeat' (first | with_reducible assumption | with_reducible apply State.ispWrite_changes | with_reducible apply State.modStream_changes | with_reducible apply Changes.ite | with_reducible refine Changes.elim _ ?_ (fun b => ?_) | with_reducible apply Changes.ite_fst | with_reducible apply Changes.ite_snd | with_reducible refine Changes.foldl _ (fun v b hv => ?_) ?_ | with_reducible refine Changes.foldl_fst _ (fun v b hv => ?_) ?_ | with_reducible refine Changes.foldl_snd _ (fun v b hv => ?_) ?_ | dsimp only | split | refine Changes.of_fst_eq (by assumption) ?_)

theorem State.frameLines_changes {s₀ : State} {s : State} {c : IspCfg} {l : List (List Byte)} (h : Changes s₀ s) : Changes s₀ (State.frameLines s c l).1 := by
  unfold State.frameLines
  try dsimp only
  repeat' (first | with_reducible assumption | with_reducible apply State.free_changes | with_reducible apply Changes.ite | with_reducible refine Changes.elim _ ?_ (fun b => ?_) | with_reducible apply Changes.ite_fst | with_reducible apply Changes.ite_snd | with_reducible refine Changes.foldl _ (fun v b hv => ?_) ?_ | with_reducible refine Changes.foldl_fst _ (fun v b hv => ?_) ?_ | with_reducible refine Changes.foldl_snd _ (fun v b hv => ?_) ?_ | dsimp only | split | refine Changes.of_fst_eq (by assumption) ?_)

theorem State.endFrame_changes {s₀ : State} {s : State} {n : Nat} {v : Nat} {reason : Nat} {fe : Nat × Nat} (h : Changes s₀ s) : Changes s₀ (State.endFrame s n v reason fe) := by
  unfold State.endFrame
  try dsimp only
  repeat' (first | with_reducible assumption | with_reducible apply State.beginFrame_changes | with_reducible apply State.modStream_changes | with_reducible apply State.fset_changes | with_reducible apply State.frameLines_changes | with_reducible apply State.free_changes | with_reducible apply State.closeBuf_changes | with_reducible apply State.fadd_changes | with_reducible apply Changes.ite | with_reducible refine Changes.elim _ ?_ (fun b => ?_) | with_reducible apply Changes.ite_fst | with_reducible apply Changes.ite_snd | with_reducible refine Changes.foldl _ (fun v b hv => ?_) ?_ | with_reducible refine Changes.foldl_fst _ (fun v b hv => ?_) ?_ | with_reducible refine Changes.foldl_snd _ (fun v b hv => ?_) ?_ | dsimp only | split | refine Changes.of_fst_eq (by assumption) ?_)

theorem State.putEntry_changes {s₀ : State} {s : State} {n : Nat} {v : Nat} {tap : Bool} (h : Changes s₀ s) : Changes s₀ (State.putEntry s n v tap) := by
  unfold State.putEntry
  try dsimp only
  repeat' (first | with_reducible assumption | with_reducible apply State.wayPut_changes | with_reducible apply State.modStream_changes | with_reducible apply State.signal_changes | dsimp only | split)

theorem State.deliverFrame_changes {s₀ : State} {s : State} {n : Nat} {v : Nat} {tap : Bool} {i : OutItem} {h1 : List Byte} (h : Changes s₀ s) : Changes s₀ (State.deliverFrame s n v tap i h1) := by
  unfold State.deliverFrame
  try dsimp only
  repeat' (first | with_reducible assumption | with_reducible apply State.ispWrite_changes | with_reducible apply State.modStream_changes | with_reducible apply State.fadd_changes | with_reducible apply State.putEntry_changes | with_reducible apply Changes.ite | with_reducible refine Changes.elim _ ?_ (fun b => ?_) | with_reducible apply Changes.ite_fst | with_reducible apply Changes.ite_snd | with_reducible refine Changes.foldl _ (fun v b hv => ?_) ?_ | with_reducible refine Changes.foldl_fst _ (fun v b hv => ?_) ?_ | with_reducible refine Changes.foldl_snd _ (fun v b hv => ?_) ?_ | dsimp only | split | refine Changes.of_fst_eq (by assumption) ?_)

theorem execIspFrameDeliver_changes {s₀ : State} {n : Nat} {v : Nat} {s : State} (h : Changes s₀ s) : OutChanges s₀ (execIspFrameDeliver n v s) := by
  unfold execIspFrameDeliver
  try dsimp only
  repeat' (first | with_reducible assumption | with_reducible apply OutChanges.unit | with_reducible apply OutChanges.due | with_reducible apply OutChanges.next | with_reducible apply State.deliverFrame_changes | dsimp only | split)

theorem execIspEntryPut_changes {s₀ : State} {n : Nat} {v : Nat} {s : State} (h : Changes s₀ s) : OutChanges s₀ (execIspEntryPut n v s) := by
  unfold execIspEntryPut
  try dsimp only
  repeat' (first | with_reducible assumption | with_reducible apply OutChanges.unit | with_reducible apply OutChanges.due | with_reducible apply State.putEntry_changes | dsimp only | split)

theorem State.applyGroup_changes {s₀ : State} {s : State} {n : Nat} {v : Nat} {f : Nat} {g : Nat} (h : Changes s₀ s) : Changes s₀ (State.applyGroup s n v f g).1 := by
  unfold State.applyGroup
  try dsimp only
  repeat' (first | with_reducible assumption | with_reducible apply State.modStream_changes | with_reducible apply State.fadd_changes | dsimp only | split)

theorem State.applyParams_changes {s₀ : State} {s : State} {n : Nat} {v : Nat} {f : Nat} (h : Changes s₀ s) : Changes s₀ (State.applyParams s n v f).1 := by
  unfold State.applyParams
  try dsimp only
  repeat' (first | with_reducible assumption | with_reducible apply State.applyGroup_changes | with_reducible refine Changes.foldl_fst _ (fun v b hv => ?_) ?_ | dsimp only)

theorem State.startFrame_changes {s₀ : State} {s : State} {n : Nat} {v : Nat} {no : Nat} (h : Changes s₀ s) : Changes s₀ (State.startFrame s n v no) := by
  unfold State.startFrame
  try dsimp only
  repeat' (first | with_reducible assumption | with_reducible apply State.endFrame_changes | with_reducible apply State.fset_changes | with_reducible apply State.applyParams_changes | with_reducible apply State.fadd_changes | with_reducible apply State.modStream_changes | with_reducible apply Changes.ite | with_reducible refine Changes.elim _ ?_ (fun b => ?_) | with_reducible apply Changes.ite_fst | with_reducible apply Changes.ite_snd | with_reducible refine Changes.foldl _ (fun v b hv => ?_) ?_ | with_reducible refine Changes.foldl_fst _ (fun v b hv => ?_) ?_ | with_reducible refine Changes.foldl_snd _ (fun v b hv => ?_) ?_ | dsimp only | split | refine Changes.of_fst_eq (by assumption) ?_)

theorem State.headerEcc_changes {s₀ : State} {s : State} {n : Nat} {corrected : Bool} (h : Changes s₀ s) : Changes s₀ (State.headerEcc s n corrected) := by
  unfold State.headerEcc
  try dsimp only
  repeat' (first | with_reducible assumption | with_reducible apply State.fset_changes | with_reducible apply State.fadd_changes | with_reducible apply Changes.ite | with_reducible refine Changes.elim _ ?_ (fun b => ?_) | with_reducible apply Changes.ite_fst | with_reducible apply Changes.ite_snd | with_reducible refine Changes.foldl _ (fun v b hv => ?_) ?_ | with_reducible refine Changes.foldl_fst _ (fun v b hv => ?_) ?_ | with_reducible refine Changes.foldl_snd _ (fun v b hv => ?_) ?_ | dsimp only | split | refine Changes.of_fst_eq (by assumption) ?_)

theorem execCsiFrameStart_changes {s₀ : State} {n : Nat} {vc : Nat} {no : CsiFrameNo} {s : State} (h : Changes s₀ s) : OutChanges s₀ (execCsiFrameStart n vc no s) := by
  unfold execCsiFrameStart
  try dsimp only
  repeat' (first | with_reducible assumption | with_reducible apply OutChanges.unit | with_reducible apply OutChanges.due | with_reducible apply OutChanges.next | with_reducible apply OutChanges.fault | with_reducible apply OutChanges.ite | with_reducible apply State.headerEcc_changes | with_reducible apply State.csiDrop_changes | with_reducible apply State.startFrame_changes | with_reducible apply Changes.ite | with_reducible refine Changes.elim _ ?_ (fun b => ?_) | with_reducible apply Changes.ite_fst | with_reducible apply Changes.ite_snd | with_reducible refine Changes.foldl _ (fun v b hv => ?_) ?_ | with_reducible refine Changes.foldl_fst _ (fun v b hv => ?_) ?_ | with_reducible refine Changes.foldl_snd _ (fun v b hv => ?_) ?_ | dsimp only | split | refine Changes.of_fst_eq (by assumption) ?_)

theorem State.lineTx_changes {s₀ : State} {s : State} {n : Nat} {size : Nat} {k : Nat} {h1 : Nat} {buf : Option Nat} (h : Changes s₀ s) : Changes s₀ (State.lineTx s n size k h1 buf) := by
  unfold State.lineTx
  try dsimp only
  repeat' (first | with_reducible assumption | with_reducible apply State.noteFill_changes | with_reducible apply State.chargeTx_changes | with_reducible apply Changes.ite | with_reducible refine Changes.elim _ ?_ (fun b => ?_) | with_reducible apply Changes.ite_fst | with_reducible apply Changes.ite_snd | with_reducible refine Changes.foldl _ (fun v b hv => ?_) ?_ | with_reducible refine Changes.foldl_fst _ (fun v b hv => ?_) ?_ | with_reducible refine Changes.foldl_snd _ (fun v b hv => ?_) ?_ | dsimp only | split | refine Changes.of_fst_eq (by assumption) ?_)

theorem State.takeLine_changes {s₀ : State} {s : State} {n : Nat} {v : Nat} {f : IspFrame} {payload : List Byte} (h : Changes s₀ s) : Changes s₀ (State.takeLine s n v f payload) := by
  unfold State.takeLine
  try dsimp only
  repeat' (first | with_reducible assumption | with_reducible apply State.beginFrame_changes | with_reducible apply State.modStream_changes | with_reducible apply State.lineTx_changes | with_reducible apply State.fadd_changes | with_reducible apply Changes.ite | with_reducible refine Changes.elim _ ?_ (fun b => ?_) | with_reducible apply Changes.ite_fst | with_reducible apply Changes.ite_snd | with_reducible refine Changes.foldl _ (fun v b hv => ?_) ?_ | with_reducible refine Changes.foldl_fst _ (fun v b hv => ?_) ?_ | with_reducible refine Changes.foldl_snd _ (fun v b hv => ?_) ?_ | dsimp only | split | refine Changes.of_fst_eq (by assumption) ?_)

theorem State.lineOf_changes {s₀ : State} {s : State} {n : Nat} {v : Nat} {f : IspFrame} {payload : List Byte} (h : Changes s₀ s) : Changes s₀ (State.lineOf s n v f payload) := by
  unfold State.lineOf
  try dsimp only
  repeat' (first | with_reducible assumption | with_reducible apply State.endFrame_changes | with_reducible apply State.fset_changes | with_reducible apply State.modPort_changes | with_reducible apply State.injectCheck_changes | with_reducible apply State.takeLine_changes | with_reducible apply Changes.ite | with_reducible refine Changes.elim _ ?_ (fun b => ?_) | with_reducible apply Changes.ite_fst | with_reducible apply Changes.ite_snd | with_reducible refine Changes.foldl _ (fun v b hv => ?_) ?_ | with_reducible refine Changes.foldl_fst _ (fun v b hv => ?_) ?_ | with_reducible refine Changes.foldl_snd _ (fun v b hv => ?_) ?_ | dsimp only | split | refine Changes.of_fst_eq (by assumption) ?_)

theorem State.longPacket_changes {s₀ : State} {s : State} {n : Nat} {p : CsiPacket} (h : Changes s₀ s) : Changes s₀ (State.longPacket s n p) := by
  unfold State.longPacket
  try dsimp only
  repeat' (first | with_reducible assumption | with_reducible apply State.endFrame_changes | with_reducible apply State.fset_changes | with_reducible apply State.fadd_changes | with_reducible apply State.headerEcc_changes | with_reducible apply State.csiDrop_changes | with_reducible apply State.lineOf_changes | with_reducible apply Changes.ite | with_reducible refine Changes.elim _ ?_ (fun b => ?_) | with_reducible apply Changes.ite_fst | with_reducible apply Changes.ite_snd | with_reducible refine Changes.foldl _ (fun v b hv => ?_) ?_ | with_reducible refine Changes.foldl_fst _ (fun v b hv => ?_) ?_ | with_reducible refine Changes.foldl_snd _ (fun v b hv => ?_) ?_ | dsimp only | split | refine Changes.of_fst_eq (by assumption) ?_)

theorem execCsiLongPacket_changes {s₀ : State} {n : Nat} {p : CsiPacket} {s : State} (h : Changes s₀ s) : OutChanges s₀ (execCsiLongPacket n p s) := by
  unfold execCsiLongPacket
  try dsimp only
  repeat' (first | with_reducible assumption | with_reducible apply OutChanges.unit | with_reducible apply OutChanges.due | with_reducible apply State.longPacket_changes | dsimp only)

theorem execCsiFrameEnd_changes {s₀ : State} {n : Nat} {vc : Nat} {no : CsiFrameNo} {s : State} (h : Changes s₀ s) : OutChanges s₀ (execCsiFrameEnd n vc no s) := by
  unfold execCsiFrameEnd
  try dsimp only
  repeat' (first | with_reducible assumption | with_reducible apply OutChanges.unit | with_reducible apply OutChanges.due | with_reducible apply OutChanges.next | with_reducible apply OutChanges.fault | with_reducible apply OutChanges.ite | with_reducible apply State.headerEcc_changes | with_reducible apply State.csiDrop_changes | with_reducible apply State.modStream_changes | with_reducible apply State.endFrame_changes | with_reducible apply Changes.ite | with_reducible refine Changes.elim _ ?_ (fun b => ?_) | with_reducible apply Changes.ite_fst | with_reducible apply Changes.ite_snd | with_reducible refine Changes.foldl _ (fun v b hv => ?_) ?_ | with_reducible refine Changes.foldl_fst _ (fun v b hv => ?_) ?_ | with_reducible refine Changes.foldl_snd _ (fun v b hv => ?_) ?_ | dsimp only | split | refine Changes.of_fst_eq (by assumption) ?_)

theorem execFrameTimeout_changes {s₀ : State} {n : Nat} {v : Nat} {s : State} (h : Changes s₀ s) : OutChanges s₀ (execFrameTimeout n v s) := by
  unfold execFrameTimeout
  try dsimp only
  repeat' (first | with_reducible assumption | with_reducible apply OutChanges.unit | with_reducible apply OutChanges.due | with_reducible apply OutChanges.next | with_reducible apply State.endFrame_changes | dsimp only | split)

theorem execByteClkMeasure_changes {s₀ : State} {n : Nat} {khz : Nat} {s : State} (h : Changes s₀ s) : OutChanges s₀ (execByteClkMeasure n khz s) := by
  unfold execByteClkMeasure
  try dsimp only
  repeat' (first | with_reducible assumption | with_reducible apply OutChanges.unit | with_reducible apply OutChanges.due | with_reducible apply State.fset_changes | dsimp only)

theorem execCsiSkewCalibration_changes {s₀ : State} {n : Nat} {initial : Bool} {s : State} (h : Changes s₀ s) : OutChanges s₀ (execCsiSkewCalibration n initial s) := by
  unfold execCsiSkewCalibration
  try dsimp only
  repeat' (first | with_reducible assumption | with_reducible apply OutChanges.unit | with_reducible apply OutChanges.due | with_reducible apply State.fset_changes | dsimp only)

theorem execCsiClockLaneModeChange_changes {s₀ : State} {n : Nat} {hs : Bool} {s : State} (h : Changes s₀ s) : OutChanges s₀ (execCsiClockLaneModeChange n hs s) := by
  unfold execCsiClockLaneModeChange
  try dsimp only
  repeat' (first | with_reducible assumption | with_reducible apply OutChanges.unit | with_reducible apply OutChanges.due | with_reducible apply State.fflag_changes | dsimp only)

theorem State.ispEnable_changes {s₀ : State} {s : State} {n : Nat} {v : Nat} (h : Changes s₀ s) : Changes s₀ (State.ispEnable s n v) := by
  unfold State.ispEnable
  try dsimp only
  repeat' (first | with_reducible assumption | with_reducible apply State.fset_changes | dsimp only | split)

theorem State.ispDisable_changes {s₀ : State} {s : State} {n : Nat} {v : Nat} (h : Changes s₀ s) : Changes s₀ (State.ispDisable s n v) := by
  unfold State.ispDisable
  try dsimp only
  repeat' (first | with_reducible assumption | with_reducible apply State.modStream_changes | with_reducible apply State.fset_changes | with_reducible apply State.endFrame_changes | with_reducible apply Changes.ite | with_reducible refine Changes.elim _ ?_ (fun b => ?_) | with_reducible apply Changes.ite_fst | with_reducible apply Changes.ite_snd | with_reducible refine Changes.foldl _ (fun v b hv => ?_) ?_ | with_reducible refine Changes.foldl_fst _ (fun v b hv => ?_) ?_ | with_reducible refine Changes.foldl_snd _ (fun v b hv => ?_) ?_ | dsimp only | split | refine Changes.of_fst_eq (by assumption) ?_)

theorem ispCtrlEffect_changes {s₀ : State} {n : Nat} {v : Nat} {value : Nat} {s : State} (h : Changes s₀ s) : Changes s₀ (ispCtrlEffect n v value s).1 := by
  unfold ispCtrlEffect
  try dsimp only
  repeat' (first | with_reducible assumption | with_reducible apply State.rset_changes | with_reducible apply State.ispEnable_changes | with_reducible apply State.ispDisable_changes | dsimp only | split)

theorem execIspStreamEnable_changes {s₀ : State} {src : Nat} {n : Nat} {v : Nat} {value : Nat} {s : State} (h : Changes s₀ s) : OutChanges s₀ (execIspStreamEnable src n v value s) := by
  unfold execIspStreamEnable
  try dsimp only
  repeat' (first | with_reducible assumption | with_reducible apply regCmd_changes | with_reducible apply ispCtrlEffect_changes | dsimp only)

theorem execIspStreamDisable_changes {s₀ : State} {src : Nat} {n : Nat} {v : Nat} {value : Nat} {s : State} (h : Changes s₀ s) : OutChanges s₀ (execIspStreamDisable src n v value s) := by
  unfold execIspStreamDisable
  try dsimp only
  repeat' (first | with_reducible assumption | with_reducible apply regCmd_changes | with_reducible apply ispCtrlEffect_changes | dsimp only)

theorem ispCfgEffect_changes {s₀ : State} {n : Nat} {v : Nat} {addr : Nat} {value : Nat} {s : State} (h : Changes s₀ s) : Changes s₀ (ispCfgEffect n v addr value s).1 := by
  unfold ispCfgEffect
  try dsimp only
  repeat' (first | with_reducible assumption | with_reducible apply State.plainWrite_changes | dsimp only | split)

theorem csiCtrlEffect_changes {s₀ : State} {n : Nat} {value : Nat} {s : State} (h : Changes s₀ s) : Changes s₀ (csiCtrlEffect n value s).1 := by
  unfold csiCtrlEffect
  try dsimp only
  repeat' (first | with_reducible assumption | with_reducible apply State.plainWrite_changes | dsimp only | split)

theorem csiMapEffect_changes {s₀ : State} {n : Nat} {value : Nat} {s : State} (h : Changes s₀ s) : Changes s₀ (csiMapEffect n value s).1 := by
  unfold csiMapEffect
  try dsimp only
  repeat' (first | with_reducible assumption | with_reducible apply State.plainWrite_changes | dsimp only | split)

theorem State.paramResult_changes {s₀ : State} {s : State} {n : Nat} {busy : Nat} {status : Nat} {reason : Nat} (h : Changes s₀ s) : Changes s₀ (State.paramResult s n busy status reason) := by
  unfold State.paramResult
  try dsimp only
  repeat' (first | with_reducible assumption | with_reducible apply State.rset_changes | dsimp only)

theorem paramPushEffect_changes {s₀ : State} {n : Nat} {value : Nat} {s : State} (h : Changes s₀ s) : Changes s₀ (paramPushEffect n value s).1 := by
  unfold paramPushEffect
  try dsimp only
  repeat' (first | with_reducible assumption | with_reducible apply State.paramResult_changes | with_reducible apply State.modPort_changes | with_reducible apply State.fset_changes | dsimp only | split)

theorem execIspParamPush_changes {s₀ : State} {src : Nat} {n : Nat} {handle : Nat} {v : Nat} {s : State} (h : Changes s₀ s) : OutChanges s₀ (execIspParamPush src n handle v s) := by
  unfold execIspParamPush
  try dsimp only
  repeat' (first | with_reducible assumption | with_reducible apply regCmd_changes | with_reducible apply paramPushEffect_changes | dsimp only)

theorem State.bufRead_changes {s₀ : State} {s : State} {cls : Nat} {h1 : Nat} {off : Nat} {len : Nat} (h : Changes s₀ s) : Changes s₀ (State.bufRead s cls h1 off len).1 := by
  unfold State.bufRead
  try dsimp only
  repeat' (first | with_reducible assumption | with_reducible apply State.chargeTx_changes | with_reducible apply State.hubRead_changes | dsimp only | split)

theorem State.paramDone_changes {s₀ : State} {s : State} {n : Nat} {h1 : Nat} {v : Nat} {tag : Nat} (h : Changes s₀ s) : Changes s₀ (State.paramDone s n h1 v tag) := by
  unfold State.paramDone
  try dsimp only
  repeat' (first | with_reducible assumption | with_reducible apply State.modPort_changes | with_reducible apply State.bufRead_changes | with_reducible apply State.paramResult_changes | with_reducible apply State.fset_changes | with_reducible apply State.modStream_changes | dsimp only | split)

theorem execIspParamCheckDone_changes {s₀ : State} {n : Nat} {s : State} (h : Changes s₀ s) : OutChanges s₀ (execIspParamCheckDone n s) := by
  unfold execIspParamCheckDone
  try dsimp only
  repeat' (first | with_reducible assumption | with_reducible apply OutChanges.unit | with_reducible apply OutChanges.due | with_reducible apply OutChanges.next | with_reducible apply State.paramDone_changes | dsimp only | split)

theorem wbFillRead_changes {s₀ : State} {n : Nat} {s : State} (h : Changes s₀ s) : Changes s₀ (wbFillRead n s).1 := by
  unfold wbFillRead
  try dsimp only
  repeat' (first | with_reducible assumption | with_reducible apply State.fset_changes | dsimp only)

theorem execWbFillMaxRead_changes {s₀ : State} {src : Nat} {n : Nat} {s : State} (h : Changes s₀ s) : OutChanges s₀ (execWbFillMaxRead src n s) := by
  unfold execWbFillMaxRead
  try dsimp only
  repeat' (first | with_reducible assumption | with_reducible apply readCmd_changes | with_reducible apply wbFillRead_changes | dsimp only)

theorem State.storeError_changes {s₀ : State} {s : State} {n : Nat} {cls : Nat} (h : Changes s₀ s) : Changes s₀ (State.storeError s n cls) := by
  unfold State.storeError
  try dsimp only
  repeat' (first | with_reducible assumption | with_reducible apply State.fset_changes | with_reducible apply State.free_changes | with_reducible apply State.endFrame_changes | with_reducible apply Changes.ite | with_reducible refine Changes.elim _ ?_ (fun b => ?_) | with_reducible apply Changes.ite_fst | with_reducible apply Changes.ite_snd | with_reducible refine Changes.foldl _ (fun v b hv => ?_) ?_ | with_reducible refine Changes.foldl_fst _ (fun v b hv => ?_) ?_ | with_reducible refine Changes.foldl_snd _ (fun v b hv => ?_) ?_ | dsimp only | split | refine Changes.of_fst_eq (by assumption) ?_)

theorem State.foldIsp_changes {s₀ : State} {s : State} (h : Changes s₀ s) : Changes s₀ (State.foldIsp s) := by
  unfold State.foldIsp
  try dsimp only
  repeat' (first | with_reducible assumption | with_reducible apply State.endFrame_changes | with_reducible refine Changes.foldl _ (fun v b hv => ?_) ?_ | dsimp only)

end Sys2Proof.Machine
end

