-- ==== Sys2Proof/Laws/ChangesSpx.lean ====
section
/-! SUPPORT. The state after each definition of Sys2Proof/Machine/Spx.lean is reached by the model's own kinds of update. -/

namespace Sys2Proof.Machine

theorem State.modTdm_changes {s₀ : State} {s : State} {p : Nat} {f : TdmPort → TdmPort} (h : Changes s₀ s) : Changes s₀ (State.modTdm s p f) := by
  unfold State.modTdm
  try dsimp only
  repeat' (first | with_reducible assumption | with_reducible apply Changes.ite | with_reducible refine Changes.elim _ ?_ (fun b => ?_) | with_reducible apply Changes.ite_fst | with_reducible apply Changes.ite_snd | with_reducible refine Changes.foldl _ (fun v b hv => ?_) ?_ | with_reducible refine Changes.foldl_fst _ (fun v b hv => ?_) ?_ | with_reducible refine Changes.foldl_snd _ (fun v b hv => ?_) ?_ | dsimp only | split | refine Changes.of_fst_eq (by assumption) ?_ | with_reducible apply Changes.made | exact .left _ (by assumption) rfl rfl rfl rfl | exact .kept _ (by assumption) rfl rfl rfl rfl)

theorem State.modSpx_changes {s₀ : State} {s : State} {f : Nat} {g : SpxStream → SpxStream} (h : Changes s₀ s) : Changes s₀ (State.modSpx s f g) := by
  unfold State.modSpx
  try dsimp only
  repeat' (first | with_reducible assumption | with_reducible apply Changes.ite | with_reducible refine Changes.elim _ ?_ (fun b => ?_) | with_reducible apply Changes.ite_fst | with_reducible apply Changes.ite_snd | with_reducible refine Changes.foldl _ (fun v b hv => ?_) ?_ | with_reducible refine Changes.foldl_fst _ (fun v b hv => ?_) ?_ | with_reducible refine Changes.foldl_snd _ (fun v b hv => ?_) ?_ | dsimp only | split | refine Changes.of_fst_eq (by assumption) ?_ | with_reducible apply Changes.made | exact .left _ (by assumption) rfl rfl rfl rfl | exact .kept _ (by assumption) rfl rfl rfl rfl)

theorem State.addSamples_changes {s₀ : State} {s : State} {p : Nat} {lost : Nat} {samples : List Nat} (h : Changes s₀ s) : Changes s₀ (State.addSamples s p lost samples) := by
  unfold State.addSamples
  try dsimp only
  repeat' (first | with_reducible assumption | with_reducible apply Changes.ite | with_reducible refine Changes.elim _ ?_ (fun b => ?_) | with_reducible apply Changes.ite_fst | with_reducible apply Changes.ite_snd | with_reducible refine Changes.foldl _ (fun v b hv => ?_) ?_ | with_reducible refine Changes.foldl_fst _ (fun v b hv => ?_) ?_ | with_reducible refine Changes.foldl_snd _ (fun v b hv => ?_) ?_ | dsimp only | split | refine Changes.of_fst_eq (by assumption) ?_ | with_reducible apply Changes.made | exact .left _ (by assumption) rfl rfl rfl rfl | exact .kept _ (by assumption) rfl rfl rfl rfl)

theorem State.goodSync_changes {s₀ : State} {s : State} {p : Nat} {samples : List Nat} (h : Changes s₀ s) : Changes s₀ (State.goodSync s p samples) := by
  unfold State.goodSync
  try dsimp only
  repeat' (first | with_reducible assumption | with_reducible apply State.addSamples_changes | with_reducible apply State.fset_changes | with_reducible apply State.modTdm_changes | with_reducible apply Changes.ite | with_reducible refine Changes.elim _ ?_ (fun b => ?_) | with_reducible apply Changes.ite_fst | with_reducible apply Changes.ite_snd | with_reducible refine Changes.foldl _ (fun v b hv => ?_) ?_ | with_reducible refine Changes.foldl_fst _ (fun v b hv => ?_) ?_ | with_reducible refine Changes.foldl_snd _ (fun v b hv => ?_) ?_ | dsimp only | split | refine Changes.of_fst_eq (by assumption) ?_)

theorem State.badSync_changes {s₀ : State} {s : State} {p : Nat} (h : Changes s₀ s) : Changes s₀ (State.badSync s p) := by
  unfold State.badSync
  try dsimp only
  repeat' (first | with_reducible assumption | with_reducible apply State.fset_changes | with_reducible apply State.fadd_changes | with_reducible apply State.modTdm_changes | with_reducible apply State.addSamples_changes | dsimp only)

theorem State.tdmTake_changes {s₀ : State} {s : State} {p : Nat} {n : Nat} {onRise : Nat} {onFall : Nat} (h : Changes s₀ s) : Changes s₀ (State.tdmTake s p n onRise onFall).1 := by
  unfold State.tdmTake
  try dsimp only
  repeat' (first | with_reducible assumption | with_reducible apply State.free_changes | with_reducible apply Changes.ite | with_reducible refine Changes.elim _ ?_ (fun b => ?_) | with_reducible apply Changes.ite_fst | with_reducible apply Changes.ite_snd | with_reducible refine Changes.foldl _ (fun v b hv => ?_) ?_ | with_reducible refine Changes.foldl_fst _ (fun v b hv => ?_) ?_ | with_reducible refine Changes.foldl_snd _ (fun v b hv => ?_) ?_ | dsimp only | split | refine Changes.of_fst_eq (by assumption) ?_)

theorem execTdmFrameSync_changes {s₀ : State} {p : Nat} {bitsSeen : Nat} {l : TdmLines} {s : State} (h : Changes s₀ s) : OutChanges s₀ (execTdmFrameSync p bitsSeen l s) := by
  unfold execTdmFrameSync
  try dsimp only
  repeat' (first | with_reducible assumption | with_reducible apply OutChanges.unit | with_reducible apply OutChanges.due | with_reducible apply OutChanges.next | with_reducible apply OutChanges.fault | with_reducible apply OutChanges.ite | with_reducible apply State.tdmTake_changes | with_reducible apply State.goodSync_changes | with_reducible apply State.badSync_changes | with_reducible apply State.modTdm_changes | with_reducible apply Changes.ite | with_reducible refine Changes.elim _ ?_ (fun b => ?_) | with_reducible apply Changes.ite_fst | with_reducible apply Changes.ite_snd | with_reducible refine Changes.foldl _ (fun v b hv => ?_) ?_ | with_reducible refine Changes.foldl_fst _ (fun v b hv => ?_) ?_ | with_reducible refine Changes.foldl_snd _ (fun v b hv => ?_) ?_ | dsimp only | split | refine Changes.of_fst_eq (by assumption) ?_)

theorem execTdmRateMeasure_changes {s₀ : State} {p : Nat} {hz : Nat} {s : State} (h : Changes s₀ s) : OutChanges s₀ (execTdmRateMeasure p hz s) := by
  unfold execTdmRateMeasure
  try dsimp only
  repeat' (first | with_reducible assumption | with_reducible apply OutChanges.unit | with_reducible apply OutChanges.due | with_reducible apply OutChanges.next | with_reducible apply OutChanges.fault | with_reducible apply OutChanges.ite | with_reducible apply State.fflag_changes | with_reducible apply State.fset_changes | with_reducible apply State.modTdm_changes | with_reducible apply Changes.ite | with_reducible refine Changes.elim _ ?_ (fun b => ?_) | with_reducible apply Changes.ite_fst | with_reducible apply Changes.ite_snd | with_reducible refine Changes.foldl _ (fun v b hv => ?_) ?_ | with_reducible refine Changes.foldl_fst _ (fun v b hv => ?_) ?_ | with_reducible refine Changes.foldl_snd _ (fun v b hv => ?_) ?_ | dsimp only | split | refine Changes.of_fst_eq (by assumption) ?_)

theorem tdmCfgEffect_changes {s₀ : State} {p : Nat} {value : Nat} {s : State} (h : Changes s₀ s) : Changes s₀ (tdmCfgEffect p value s).1 := by
  unfold tdmCfgEffect
  try dsimp only
  repeat' (first | with_reducible assumption | with_reducible apply State.plainWrite_changes | with_reducible apply State.fset_changes | with_reducible apply State.modTdm_changes | with_reducible apply Changes.ite | with_reducible refine Changes.elim _ ?_ (fun b => ?_) | with_reducible apply Changes.ite_fst | with_reducible apply Changes.ite_snd | with_reducible refine Changes.foldl _ (fun v b hv => ?_) ?_ | with_reducible refine Changes.foldl_fst _ (fun v b hv => ?_) ?_ | with_reducible refine Changes.foldl_snd _ (fun v b hv => ?_) ?_ | dsimp only | split | refine Changes.of_fst_eq (by assumption) ?_)

theorem State.spxPut_changes {s₀ : State} {s : State} {f : Nat} (h : Changes s₀ s) : Changes s₀ (State.spxPut s f) := by
  unfold State.spxPut
  try dsimp only
  repeat' (first | with_reducible assumption | with_reducible apply State.wayPut_changes | with_reducible apply State.modSpx_changes | with_reducible apply State.fadd_changes | with_reducible apply Changes.ite | with_reducible refine Changes.elim _ ?_ (fun b => ?_) | with_reducible apply Changes.ite_fst | with_reducible apply Changes.ite_snd | with_reducible refine Changes.foldl _ (fun v b hv => ?_) ?_ | with_reducible refine Changes.foldl_fst _ (fun v b hv => ?_) ?_ | with_reducible refine Changes.foldl_snd _ (fun v b hv => ?_) ?_ | dsimp only | split | refine Changes.of_fst_eq (by assumption) ?_)

theorem State.spxClose_changes {s₀ : State} {s : State} {f : Nat} {b : SpxBuf} (h : Changes s₀ s) : Changes s₀ (State.spxClose s f b) := by
  unfold State.spxClose
  try dsimp only
  repeat' (first | with_reducible assumption | with_reducible apply State.free_changes | with_reducible apply State.bufWrite_changes | with_reducible apply State.fset_changes | with_reducible apply State.modSpx_changes | dsimp only | split)

theorem State.spxBuffer_changes {s₀ : State} {s : State} {f : Nat} {k : Nat} {t0 : SpxSample} (h : Changes s₀ s) : Changes s₀ (State.spxBuffer s f k t0).1 := by
  unfold State.spxBuffer
  try dsimp only
  repeat' (first | with_reducible assumption | with_reducible apply State.wayTake_changes | with_reducible apply Changes.ite | with_reducible refine Changes.elim _ ?_ (fun b => ?_) | with_reducible apply Changes.ite_fst | with_reducible apply Changes.ite_snd | with_reducible refine Changes.foldl _ (fun v b hv => ?_) ?_ | with_reducible refine Changes.foldl_fst _ (fun v b hv => ?_) ?_ | with_reducible refine Changes.foldl_snd _ (fun v b hv => ?_) ?_ | dsimp only | split | refine Changes.of_fst_eq (by assumption) ?_)

theorem State.spxFrame_changes {s₀ : State} {s : State} {f : Nat} (h : Changes s₀ s) : Changes s₀ (State.spxFrame s f) := by
  unfold State.spxFrame
  try dsimp only
  repeat' (first | with_reducible assumption | with_reducible apply State.spxBuffer_changes | with_reducible apply State.injectCheck_changes | with_reducible apply State.modSpx_changes | with_reducible apply State.spxClose_changes | with_reducible apply Changes.ite | with_reducible refine Changes.elim _ ?_ (fun b => ?_) | with_reducible apply Changes.ite_fst | with_reducible apply Changes.ite_snd | with_reducible refine Changes.foldl _ (fun v b hv => ?_) ?_ | with_reducible refine Changes.foldl_fst _ (fun v b hv => ?_) ?_ | with_reducible refine Changes.foldl_snd _ (fun v b hv => ?_) ?_ | dsimp only | split | refine Changes.of_fst_eq (by assumption) ?_)

theorem execFeatureFrameCompute_changes {s₀ : State} {f : Nat} {s : State} (h : Changes s₀ s) : OutChanges s₀ (execFeatureFrameCompute f s) := by
  unfold execFeatureFrameCompute
  try dsimp only
  repeat' (first | with_reducible assumption | with_reducible apply OutChanges.unit | with_reducible apply OutChanges.due | with_reducible apply State.spxFrame_changes | dsimp only)

theorem State.spxAbandon_changes {s₀ : State} {s : State} {f : Nat} {b : SpxBuf} (h : Changes s₀ s) : Changes s₀ (State.spxAbandon s f b) := by
  unfold State.spxAbandon
  try dsimp only
  repeat' (first | with_reducible assumption | with_reducible apply State.free_changes | with_reducible apply State.dropWrites_changes | with_reducible apply State.dramWrite_changes | with_reducible apply State.bufWrite_changes | with_reducible apply State.fset_changes | with_reducible apply Changes.ite | with_reducible refine Changes.elim _ ?_ (fun b => ?_) | with_reducible apply Changes.ite_fst | with_reducible apply Changes.ite_snd | with_reducible refine Changes.foldl _ (fun v b hv => ?_) ?_ | with_reducible refine Changes.foldl_fst _ (fun v b hv => ?_) ?_ | with_reducible refine Changes.foldl_snd _ (fun v b hv => ?_) ?_ | dsimp only | split | refine Changes.of_fst_eq (by assumption) ?_)

theorem State.spxExpireWaiting_changes {s₀ : State} {s : State} {f : Nat} {i : Nat} {b : SpxBuf} (h : Changes s₀ s) : Changes s₀ (State.spxExpireWaiting s f i b) := by
  unfold State.spxExpireWaiting
  try dsimp only
  repeat' (first | with_reducible assumption | with_reducible apply State.modSpx_changes | with_reducible apply State.spxAbandon_changes | with_reducible apply State.spxPut_changes | with_reducible apply Changes.ite | with_reducible refine Changes.elim _ ?_ (fun b => ?_) | with_reducible apply Changes.ite_fst | with_reducible apply Changes.ite_snd | with_reducible refine Changes.foldl _ (fun v b hv => ?_) ?_ | with_reducible refine Changes.foldl_fst _ (fun v b hv => ?_) ?_ | with_reducible refine Changes.foldl_snd _ (fun v b hv => ?_) ?_ | dsimp only | split | refine Changes.of_fst_eq (by assumption) ?_)

theorem State.spxExpireOpen_changes {s₀ : State} {s : State} {f : Nat} {b : SpxBuf} (h : Changes s₀ s) : Changes s₀ (State.spxExpireOpen s f b) := by
  unfold State.spxExpireOpen
  try dsimp only
  repeat' (first | with_reducible assumption | with_reducible apply State.modSpx_changes | with_reducible apply State.spxAbandon_changes | with_reducible apply State.spxPut_changes | with_reducible apply Changes.ite | with_reducible refine Changes.elim _ ?_ (fun b => ?_) | with_reducible apply Changes.ite_fst | with_reducible apply Changes.ite_snd | with_reducible refine Changes.foldl _ (fun v b hv => ?_) ?_ | with_reducible refine Changes.foldl_fst _ (fun v b hv => ?_) ?_ | with_reducible refine Changes.foldl_snd _ (fun v b hv => ?_) ?_ | dsimp only | split | refine Changes.of_fst_eq (by assumption) ?_)

theorem execSpxBufferPut_changes {s₀ : State} {f : Nat} {s : State} (h : Changes s₀ s) : OutChanges s₀ (execSpxBufferPut f s) := by
  unfold execSpxBufferPut
  try dsimp only
  repeat' (first | with_reducible assumption | with_reducible apply OutChanges.unit | with_reducible apply OutChanges.due | with_reducible apply OutChanges.next | with_reducible apply OutChanges.fault | with_reducible apply OutChanges.ite | with_reducible apply State.spxExpireWaiting_changes | with_reducible apply State.spxPut_changes | with_reducible apply Changes.ite | with_reducible refine Changes.elim _ ?_ (fun b => ?_) | with_reducible apply Changes.ite_fst | with_reducible apply Changes.ite_snd | with_reducible refine Changes.foldl _ (fun v b hv => ?_) ?_ | with_reducible refine Changes.foldl_fst _ (fun v b hv => ?_) ?_ | with_reducible refine Changes.foldl_snd _ (fun v b hv => ?_) ?_ | dsimp only | split | refine Changes.of_fst_eq (by assumption) ?_)

theorem execSpxBudgetExpiry_changes {s₀ : State} {f : Nat} {s : State} (h : Changes s₀ s) : OutChanges s₀ (execSpxBudgetExpiry f s) := by
  unfold execSpxBudgetExpiry
  try dsimp only
  repeat' (first | with_reducible assumption | with_reducible apply OutChanges.unit | with_reducible apply OutChanges.due | with_reducible apply OutChanges.next | with_reducible apply OutChanges.fault | with_reducible apply OutChanges.ite | with_reducible apply State.spxBuffer_changes | with_reducible apply State.spxExpireWaiting_changes | with_reducible apply State.spxExpireOpen_changes | with_reducible apply Changes.ite | with_reducible refine Changes.elim _ ?_ (fun b => ?_) | with_reducible apply Changes.ite_fst | with_reducible apply Changes.ite_snd | with_reducible refine Changes.foldl _ (fun v b hv => ?_) ?_ | with_reducible refine Changes.foldl_fst _ (fun v b hv => ?_) ?_ | with_reducible refine Changes.foldl_snd _ (fun v b hv => ?_) ?_ | dsimp only | split | refine Changes.of_fst_eq (by assumption) ?_)

theorem State.spxTables_changes {s₀ : State} {s : State} {f : Nat} (h : Changes s₀ s) : Changes s₀ (State.spxTables s f).1 := by
  unfold State.spxTables
  try dsimp only
  repeat' (first | with_reducible assumption | with_reducible apply State.bufRead_changes | dsimp only | split)

theorem State.spxReject_changes {s₀ : State} {s : State} {f : Nat} {r : Nat} (h : Changes s₀ s) : Changes s₀ (State.spxReject s f r) := by
  unfold State.spxReject
  try dsimp only
  repeat' (first | with_reducible assumption | with_reducible apply State.fset_changes | dsimp only)

theorem State.spxEnable_changes {s₀ : State} {s : State} {f : Nat} (h : Changes s₀ s) : Changes s₀ (State.spxEnable s f) := by
  unfold State.spxEnable
  try dsimp only
  repeat' (first | with_reducible assumption | with_reducible apply State.spxReject_changes | with_reducible apply State.spxTables_changes | with_reducible apply State.fset_changes | with_reducible apply State.modSpx_changes | dsimp only | split)

theorem State.spxCut_changes {s₀ : State} {s : State} {f : Nat} (h : Changes s₀ s) : Changes s₀ (State.spxCut s f) := by
  unfold State.spxCut
  try dsimp only
  repeat' (first | with_reducible assumption | with_reducible apply State.spxClose_changes | dsimp only | split)

theorem spxCfgEffect_changes {s₀ : State} {f : Nat} {value : Nat} {s : State} (h : Changes s₀ s) : Changes s₀ (spxCfgEffect f value s).1 := by
  unfold spxCfgEffect
  try dsimp only
  repeat' (first | with_reducible assumption | with_reducible apply State.plainWrite_changes | with_reducible apply State.spxEnable_changes | with_reducible apply State.fset_changes | with_reducible apply State.spxCut_changes | dsimp only | split)

theorem spxRegEffect_changes {s₀ : State} {f : Nat} {addr : Nat} {value : Nat} {s : State} (h : Changes s₀ s) : Changes s₀ (spxRegEffect f addr value s).1 := by
  unfold spxRegEffect
  try dsimp only
  repeat' (first | with_reducible assumption | with_reducible apply State.plainWrite_changes | dsimp only | split)

theorem execSpxStreamEnable_changes {s₀ : State} {src : Nat} {f : Nat} {value : Nat} {s : State} (h : Changes s₀ s) : OutChanges s₀ (execSpxStreamEnable src f value s) := by
  unfold execSpxStreamEnable
  try dsimp only
  repeat' (first | with_reducible assumption | with_reducible apply regCmd_changes | with_reducible apply spxCfgEffect_changes | dsimp only)

theorem execSpxStreamDisable_changes {s₀ : State} {src : Nat} {f : Nat} {value : Nat} {s : State} (h : Changes s₀ s) : OutChanges s₀ (execSpxStreamDisable src f value s) := by
  unfold execSpxStreamDisable
  try dsimp only
  repeat' (first | with_reducible assumption | with_reducible apply regCmd_changes | with_reducible apply spxCfgEffect_changes | dsimp only)

theorem State.spxError_changes {s₀ : State} {s : State} (h : Changes s₀ s) : Changes s₀ (State.spxError s) := by
  unfold State.spxError
  try dsimp only
  repeat' (first | with_reducible assumption | with_reducible apply State.free_changes | with_reducible apply State.modSpx_changes | with_reducible apply Changes.ite | with_reducible refine Changes.elim _ ?_ (fun b => ?_) | with_reducible apply Changes.ite_fst | with_reducible apply Changes.ite_snd | with_reducible refine Changes.foldl _ (fun v b hv => ?_) ?_ | with_reducible refine Changes.foldl_fst _ (fun v b hv => ?_) ?_ | with_reducible refine Changes.foldl_snd _ (fun v b hv => ?_) ?_ | dsimp only | split | refine Changes.of_fst_eq (by assumption) ?_)

theorem State.foldSpx_changes {s₀ : State} {s : State} (h : Changes s₀ s) : Changes s₀ (State.foldSpx s) := by
  unfold State.foldSpx
  try dsimp only
  repeat' (first | with_reducible assumption | with_reducible apply State.spxCut_changes | with_reducible refine Changes.foldl _ (fun v b hv => ?_) ?_ | dsimp only)

end Sys2Proof.Machine
end

