-- ==== Sys2Proof/Laws/ChangesVcd.lean ====
section
/-! SUPPORT. The state after each definition of Sys2Proof/Machine/Vcd.lean is reached by the model's own kinds of update. -/

namespace Sys2Proof.Machine

theorem State.modVcd_changes {s₀ : State} {s : State} {n : Nat} {g : VcdSession → VcdSession} (h : Changes s₀ s) : Changes s₀ (State.modVcd s n g) := by
  unfold State.modVcd
  try dsimp only
  repeat' (first | with_reducible assumption | with_reducible apply Changes.ite | with_reducible refine Changes.elim _ ?_ (fun b => ?_) | with_reducible apply Changes.ite_fst | with_reducible apply Changes.ite_snd | with_reducible refine Changes.foldl _ (fun v b hv => ?_) ?_ | with_reducible refine Changes.foldl_fst _ (fun v b hv => ?_) ?_ | with_reducible refine Changes.foldl_snd _ (fun v b hv => ?_) ?_ | dsimp only | split | refine Changes.of_fst_eq (by assumption) ?_ | with_reducible apply Changes.made | exact .left _ (by assumption) rfl rfl rfl rfl | exact .kept _ (by assumption) rfl rfl rfl rfl)

theorem State.vcdDrain_changes {s₀ : State} {s : State} {n : Nat} {y2 : Nat} (h : Changes s₀ s) : Changes s₀ (State.vcdDrain s n y2) := by
  fun_induction State.vcdDrain s n y2
  all_goals try dsimp only
  all_goals repeat' (first | with_reducible assumption | with_reducible apply State.wayPut_changes | with_reducible apply State.modVcd_changes | with_reducible apply State.fadd_changes | with_reducible apply Changes.ite | dsimp only | rename_i ih; with_reducible apply ih)

theorem State.vcdPut_changes {s₀ : State} {s : State} {n : Nat} (h : Changes s₀ s) : Changes s₀ (State.vcdPut s n) := by
  unfold State.vcdPut
  try dsimp only
  repeat' (first | with_reducible assumption | with_reducible apply State.vcdDrain_changes | with_reducible apply State.modVcd_changes | with_reducible apply State.fset_changes | dsimp only | split)

theorem State.vcdQueue_changes {s₀ : State} {s : State} {n : Nat} {p : VcdPic} (h : Changes s₀ s) : Changes s₀ (State.vcdQueue s n p) := by
  unfold State.vcdQueue
  try dsimp only
  repeat' (first | with_reducible assumption | with_reducible apply State.modVcd_changes | dsimp only)

theorem State.vcdRelease_changes {s₀ : State} {s : State} {n : Nat} {flush : Bool} (h : Changes s₀ s) : Changes s₀ (State.vcdRelease s n flush) := by
  unfold State.vcdRelease
  try dsimp only
  repeat' (first | with_reducible assumption | with_reducible apply State.modVcd_changes | with_reducible apply State.vcdQueue_changes | with_reducible refine Changes.foldl _ (fun v b hv => ?_) ?_ | dsimp only | split)

theorem State.vcdFinish_changes {s₀ : State} {s : State} {n : Nat} {p : VcdPic} {placed : Bool} {flush : Bool} (h : Changes s₀ s) : Changes s₀ (State.vcdFinish s n p placed flush) := by
  unfold State.vcdFinish
  try dsimp only
  repeat' (first | with_reducible assumption | with_reducible apply State.bufWrite_changes | with_reducible apply State.fset_changes | with_reducible apply State.modVcd_changes | with_reducible apply State.vcdRelease_changes | with_reducible apply State.vcdQueue_changes | with_reducible apply State.vcdPut_changes | with_reducible apply Changes.ite | with_reducible refine Changes.elim _ ?_ (fun b => ?_) | with_reducible apply Changes.ite_fst | with_reducible apply Changes.ite_snd | with_reducible refine Changes.foldl _ (fun v b hv => ?_) ?_ | with_reducible refine Changes.foldl_fst _ (fun v b hv => ?_) ?_ | with_reducible refine Changes.foldl_snd _ (fun v b hv => ?_) ?_ | dsimp only | split | refine Changes.of_fst_eq (by assumption) ?_)

theorem State.vcdBuffer_changes {s₀ : State} {s : State} {n : Nat} (h : Changes s₀ s) : Changes s₀ (State.vcdBuffer s n).1 := by
  unfold State.vcdBuffer
  try dsimp only
  repeat' (first | with_reducible assumption | with_reducible apply State.wayTake_changes | dsimp only)

theorem State.vcdScramble_changes {s₀ : State} {s : State} {n : Nat} {p : VcdPic} (h : Changes s₀ s) : Changes s₀ (State.vcdScramble s n p) := by
  unfold State.vcdScramble
  try dsimp only
  repeat' (first | with_reducible assumption | with_reducible apply State.free_changes | with_reducible apply State.bufWrite_changes | dsimp only | split)

theorem State.vcdCheck_changes {s₀ : State} {s : State} (h : Changes s₀ s) : Changes s₀ (State.vcdCheck s).1 := by
  unfold State.vcdCheck
  try dsimp only
  repeat' (first | with_reducible assumption | with_reducible apply State.injectCheck_changes | with_reducible apply State.fset_changes | dsimp only | split)

theorem State.vcdRun_changes {s₀ : State} {s : State} {n : Nat} {p : VcdPic} {data : List Byte} (h : Changes s₀ s) : Changes s₀ (State.vcdRun s n p data) := by
  unfold State.vcdRun
  try dsimp only
  repeat' (first | with_reducible assumption | with_reducible apply State.vcdCheck_changes | with_reducible apply State.bufWrite_changes | with_reducible apply State.vcdScramble_changes | with_reducible apply State.modVcd_changes | with_reducible refine Changes.elim _ ?_ (fun b => ?_) | dsimp only | split)

theorem State.vcdRejected_changes {s₀ : State} {s : State} {n : Nat} (h : Changes s₀ s) : Changes s₀ (State.vcdRejected s n) := by
  unfold State.vcdRejected
  try dsimp only
  repeat' (first | with_reducible assumption | with_reducible apply State.fset_changes | with_reducible apply State.fadd_changes | dsimp only)

theorem State.vcdDecode_changes {s₀ : State} {s : State} {n : Nat} {hdr : List Byte} {au : List Byte} (h : Changes s₀ s) : Changes s₀ (State.vcdDecode s n hdr au) := by
  unfold State.vcdDecode
  try dsimp only
  repeat' (first | with_reducible assumption | with_reducible apply State.modVcd_changes | with_reducible apply State.fset_changes | with_reducible apply State.vcdRejected_changes | with_reducible apply State.vcdBuffer_changes | with_reducible apply State.vcdRun_changes | with_reducible apply State.vcdFinish_changes | with_reducible apply Changes.ite | dsimp only | split)

theorem State.vcdEncode_changes {s₀ : State} {s : State} {n : Nat} {status : Nat} {hdr : List Byte} {im : List Byte} (h : Changes s₀ s) : Changes s₀ (State.vcdEncode s n status hdr im) := by
  unfold State.vcdEncode
  try dsimp only
  repeat' (first | with_reducible assumption | with_reducible apply State.modVcd_changes | with_reducible apply State.vcdBuffer_changes | with_reducible apply State.vcdFinish_changes | with_reducible apply State.vcdRun_changes | with_reducible apply Changes.ite | with_reducible refine Changes.elim _ ?_ (fun b => ?_) | with_reducible apply Changes.ite_fst | with_reducible apply Changes.ite_snd | with_reducible refine Changes.foldl _ (fun v b hv => ?_) ?_ | with_reducible refine Changes.foldl_fst _ (fun v b hv => ?_) ?_ | with_reducible refine Changes.foldl_snd _ (fun v b hv => ?_) ?_ | dsimp only | split | refine Changes.of_fst_eq (by assumption) ?_)

theorem State.vcdStart_changes {s₀ : State} {s : State} {n : Nat} (h : Changes s₀ s) : Changes s₀ (State.vcdStart s n) := by
  unfold State.vcdStart
  try dsimp only
  repeat' (first | with_reducible assumption | with_reducible apply State.wayTake_changes | with_reducible apply State.bufRead_changes | with_reducible apply State.wayPut_changes | with_reducible apply State.vcdDecode_changes | with_reducible apply State.vcdEncode_changes | with_reducible apply Changes.ite | with_reducible refine Changes.elim _ ?_ (fun b => ?_) | with_reducible apply Changes.ite_fst | with_reducible apply Changes.ite_snd | with_reducible refine Changes.foldl _ (fun v b hv => ?_) ?_ | with_reducible refine Changes.foldl_fst _ (fun v b hv => ?_) ?_ | with_reducible refine Changes.foldl_snd _ (fun v b hv => ?_) ?_ | dsimp only | split | refine Changes.of_fst_eq (by assumption) ?_ | with_reducible apply Changes.made | exact .left _ (by assumption) rfl rfl rfl rfl | exact .kept _ (by assumption) rfl rfl rfl rfl)

theorem execVcdPictureStart_changes {s₀ : State} {n : Nat} {s : State} (h : Changes s₀ s) : OutChanges s₀ (execVcdPictureStart n s) := by
  unfold execVcdPictureStart
  try dsimp only
  repeat' (first | with_reducible assumption | with_reducible apply OutChanges.unit | with_reducible apply OutChanges.due | with_reducible apply State.vcdStart_changes | dsimp only)

theorem State.vcdTime_changes {s₀ : State} {s : State} {n : Nat} {p : VcdPic} (h : Changes s₀ s) : Changes s₀ (State.vcdTime s n p) := by
  unfold State.vcdTime
  try dsimp only
  repeat' (first | with_reducible assumption | with_reducible apply State.modVcd_changes | with_reducible apply State.fset_changes | dsimp only)

theorem State.vcdVoid_changes {s₀ : State} {s : State} {n : Nat} {reason : Nat} {p : VcdPic} {flush : Bool} (h : Changes s₀ s) : Changes s₀ (State.vcdVoid s n reason p flush) := by
  unfold State.vcdVoid
  try dsimp only
  repeat' (first | with_reducible assumption | with_reducible apply State.dropWrites_changes | with_reducible apply State.modVcd_changes | with_reducible apply State.vcdFinish_changes | with_reducible apply State.vcdTime_changes | with_reducible apply State.vcdScramble_changes | with_reducible apply Changes.ite | with_reducible refine Changes.elim _ ?_ (fun b => ?_) | with_reducible apply Changes.ite_fst | with_reducible apply Changes.ite_snd | with_reducible refine Changes.foldl _ (fun v b hv => ?_) ?_ | with_reducible refine Changes.foldl_fst _ (fun v b hv => ?_) ?_ | with_reducible refine Changes.foldl_snd _ (fun v b hv => ?_) ?_ | dsimp only | split | refine Changes.of_fst_eq (by assumption) ?_)

theorem State.vcdExpire_changes {s₀ : State} {s : State} {n : Nat} {p : VcdPic} (h : Changes s₀ s) : Changes s₀ (State.vcdExpire s n p) := by
  unfold State.vcdExpire
  try dsimp only
  repeat' (first | with_reducible assumption | with_reducible apply State.vcdVoid_changes | with_reducible apply State.fset_changes | with_reducible apply Changes.ite | with_reducible refine Changes.elim _ ?_ (fun b => ?_) | with_reducible apply Changes.ite_fst | with_reducible apply Changes.ite_snd | with_reducible refine Changes.foldl _ (fun v b hv => ?_) ?_ | with_reducible refine Changes.foldl_fst _ (fun v b hv => ?_) ?_ | with_reducible refine Changes.foldl_snd _ (fun v b hv => ?_) ?_ | dsimp only | split | refine Changes.of_fst_eq (by assumption) ?_)

theorem execVcdPictureDone_changes {s₀ : State} {n : Nat} {s : State} (h : Changes s₀ s) : OutChanges s₀ (execVcdPictureDone n s) := by
  unfold execVcdPictureDone
  try dsimp only
  repeat' (first | with_reducible assumption | with_reducible apply OutChanges.unit | with_reducible apply OutChanges.due | with_reducible apply OutChanges.next | with_reducible apply OutChanges.fault | with_reducible apply OutChanges.ite | with_reducible apply State.vcdPut_changes | with_reducible apply State.fadd_changes | with_reducible apply State.vcdExpire_changes | with_reducible apply State.vcdFinish_changes | with_reducible apply State.vcdTime_changes | with_reducible apply Changes.ite | with_reducible refine Changes.elim _ ?_ (fun b => ?_) | with_reducible apply Changes.ite_fst | with_reducible apply Changes.ite_snd | with_reducible refine Changes.foldl _ (fun v b hv => ?_) ?_ | with_reducible refine Changes.foldl_fst _ (fun v b hv => ?_) ?_ | with_reducible refine Changes.foldl_snd _ (fun v b hv => ?_) ?_ | dsimp only | split | refine Changes.of_fst_eq (by assumption) ?_)

theorem execVcdPictureBudgetExpiry_changes {s₀ : State} {n : Nat} {s : State} (h : Changes s₀ s) : OutChanges s₀ (execVcdPictureBudgetExpiry n s) := by
  unfold execVcdPictureBudgetExpiry
  try dsimp only
  repeat' (first | with_reducible assumption | with_reducible apply OutChanges.unit | with_reducible apply OutChanges.due | with_reducible apply OutChanges.next | with_reducible apply OutChanges.fault | with_reducible apply OutChanges.ite | with_reducible apply State.vcdExpire_changes | with_reducible apply Changes.ite | with_reducible refine Changes.elim _ ?_ (fun b => ?_) | with_reducible apply Changes.ite_fst | with_reducible apply Changes.ite_snd | with_reducible refine Changes.foldl _ (fun v b hv => ?_) ?_ | with_reducible refine Changes.foldl_fst _ (fun v b hv => ?_) ?_ | with_reducible refine Changes.foldl_snd _ (fun v b hv => ?_) ?_ | dsimp only | split | refine Changes.of_fst_eq (by assumption) ?_)

theorem State.vcdError_changes {s₀ : State} {s : State} {cls : Nat} (h : Changes s₀ s) : Changes s₀ (State.vcdError s cls) := by
  unfold State.vcdError
  try dsimp only
  repeat' (first | with_reducible assumption | with_reducible apply State.fset_changes | with_reducible apply State.free_changes | with_reducible apply State.vcdVoid_changes | with_reducible apply Changes.ite | with_reducible refine Changes.elim _ ?_ (fun b => ?_) | with_reducible apply Changes.ite_fst | with_reducible apply Changes.ite_snd | with_reducible refine Changes.foldl _ (fun v b hv => ?_) ?_ | with_reducible refine Changes.foldl_fst _ (fun v b hv => ?_) ?_ | with_reducible refine Changes.foldl_snd _ (fun v b hv => ?_) ?_ | dsimp only | split | refine Changes.of_fst_eq (by assumption) ?_)

theorem State.vcdOpenSession_changes {s₀ : State} {s : State} {n : Nat} (h : Changes s₀ s) : Changes s₀ (State.vcdOpenSession s n) := by
  unfold State.vcdOpenSession
  try dsimp only
  repeat' (first | with_reducible assumption | with_reducible apply State.bufRead_changes | with_reducible apply State.fset_changes | with_reducible apply State.modVcd_changes | dsimp only | split)

theorem State.vcdFlush_changes {s₀ : State} {s : State} {n : Nat} (h : Changes s₀ s) : Changes s₀ (State.vcdFlush s n) := by
  unfold State.vcdFlush
  try dsimp only
  repeat' (first | with_reducible assumption | with_reducible apply State.vcdVoid_changes | with_reducible apply State.vcdPut_changes | with_reducible apply State.vcdRelease_changes | dsimp only | split)

theorem State.vcdClose_changes {s₀ : State} {s : State} {n : Nat} (h : Changes s₀ s) : Changes s₀ (State.vcdClose s n) := by
  unfold State.vcdClose
  try dsimp only
  repeat' (first | with_reducible assumption | with_reducible apply State.vcdFlush_changes | with_reducible apply State.modVcd_changes | dsimp only)

theorem vcdCtrlEffect_changes {s₀ : State} {n : Nat} {value : Nat} {s : State} (h : Changes s₀ s) : Changes s₀ (vcdCtrlEffect n value s).1 := by
  unfold vcdCtrlEffect
  try dsimp only
  repeat' (first | with_reducible assumption | with_reducible apply State.plainWrite_changes | with_reducible apply State.vcdOpenSession_changes | with_reducible apply State.vcdClose_changes | with_reducible apply Changes.ite | with_reducible refine Changes.elim _ ?_ (fun b => ?_) | with_reducible apply Changes.ite_fst | with_reducible apply Changes.ite_snd | with_reducible refine Changes.foldl _ (fun v b hv => ?_) ?_ | with_reducible refine Changes.foldl_fst _ (fun v b hv => ?_) ?_ | with_reducible refine Changes.foldl_snd _ (fun v b hv => ?_) ?_ | dsimp only | split | refine Changes.of_fst_eq (by assumption) ?_)

theorem vcdRegEffect_changes {s₀ : State} {n : Nat} {addr : Nat} {value : Nat} {s : State} (h : Changes s₀ s) : Changes s₀ (vcdRegEffect n addr value s).1 := by
  unfold vcdRegEffect
  try dsimp only
  repeat' (first | with_reducible assumption | with_reducible apply State.plainWrite_changes | with_reducible apply Changes.ite | with_reducible refine Changes.elim _ ?_ (fun b => ?_) | with_reducible apply Changes.ite_fst | with_reducible apply Changes.ite_snd | with_reducible refine Changes.foldl _ (fun v b hv => ?_) ?_ | with_reducible refine Changes.foldl_fst _ (fun v b hv => ?_) ?_ | with_reducible refine Changes.foldl_snd _ (fun v b hv => ?_) ?_ | dsimp only | split | refine Changes.of_fst_eq (by assumption) ?_)

theorem execVcdSessionOpen_changes {s₀ : State} {src : Nat} {n : Nat} {value : Nat} {s : State} (h : Changes s₀ s) : OutChanges s₀ (execVcdSessionOpen src n value s) := by
  unfold execVcdSessionOpen
  try dsimp only
  repeat' (first | with_reducible assumption | with_reducible apply regCmd_changes | with_reducible apply vcdCtrlEffect_changes | dsimp only)

theorem execVcdSessionClose_changes {s₀ : State} {src : Nat} {n : Nat} {value : Nat} {s : State} (h : Changes s₀ s) : OutChanges s₀ (execVcdSessionClose src n value s) := by
  unfold execVcdSessionClose
  try dsimp only
  repeat' (first | with_reducible assumption | with_reducible apply regCmd_changes | with_reducible apply vcdCtrlEffect_changes | dsimp only)

theorem State.foldVcd_changes {s₀ : State} {s : State} (h : Changes s₀ s) : Changes s₀ (State.foldVcd s) := by
  unfold State.foldVcd
  try dsimp only
  repeat' (first | with_reducible assumption | with_reducible apply State.vcdFlush_changes | with_reducible refine Changes.foldl _ (fun v b hv => ?_) ?_ | dsimp only | split)

end Sys2Proof.Machine
end

