-- ==== Sys2Proof/Laws/ChangesFaultUnit.lean ====
section
/-! SUPPORT. The state after each definition of Sys2Proof/Machine/FaultUnit.lean is reached by the model's own kinds of update. -/

namespace Sys2Proof.Machine

theorem State.modFcu_changes {s₀ : State} {s : State} {g : Fcu → Fcu} (h : Changes s₀ s) : Changes s₀ (State.modFcu s g) := by
  unfold State.modFcu
  try dsimp only
  repeat' (first | with_reducible assumption | with_reducible apply Changes.ite | with_reducible refine Changes.elim _ ?_ (fun b => ?_) | with_reducible apply Changes.ite_fst | with_reducible apply Changes.ite_snd | with_reducible refine Changes.foldl _ (fun v b hv => ?_) ?_ | with_reducible refine Changes.foldl_fst _ (fun v b hv => ?_) ?_ | with_reducible refine Changes.foldl_snd _ (fun v b hv => ?_) ?_ | dsimp only | split | refine Changes.of_fst_eq (by assumption) ?_ | with_reducible apply Changes.made | exact .left _ (by assumption) rfl rfl rfl rfl | exact .kept _ (by assumption) rfl rfl rfl rfl)

theorem State.modScope_changes {s₀ : State} {s : State} {core : Option Nat} {g : FaultScope → FaultScope} (h : Changes s₀ s) : Changes s₀ (State.modScope s core g) := by
  unfold State.modScope
  try dsimp only
  repeat' (first | with_reducible assumption | with_reducible apply State.modFcu_changes | dsimp only | split)

theorem State.setScopeState_changes {s₀ : State} {s : State} {core : Option Nat} {v : Nat} (h : Changes s₀ s) : Changes s₀ (State.setScopeState s core v) := by
  unfold State.setScopeState
  try dsimp only
  repeat' (first | with_reducible assumption | with_reducible apply State.fset_changes | dsimp only | split)

theorem State.restartQuiet_changes {s₀ : State} {s : State} {core : Option Nat} (h : Changes s₀ s) : Changes s₀ (State.restartQuiet s core) := by
  unfold State.restartQuiet
  try dsimp only
  repeat' (first | with_reducible assumption | with_reducible apply State.modScope_changes | dsimp only)

theorem State.enterQuiet_changes {s₀ : State} {s : State} {core : Option Nat} (h : Changes s₀ s) : Changes s₀ (State.enterQuiet s core) := by
  unfold State.enterQuiet
  try dsimp only
  repeat' (first | with_reducible assumption | with_reducible apply State.restartQuiet_changes | with_reducible apply State.modScope_changes | with_reducible apply State.setScopeState_changes | dsimp only)

theorem State.latchScope_changes {s₀ : State} {s : State} {core : Option Nat} (h : Changes s₀ s) : Changes s₀ (State.latchScope s core) := by
  unfold State.latchScope
  try dsimp only
  repeat' (first | with_reducible assumption | with_reducible apply State.fset_changes | with_reducible apply State.modScope_changes | with_reducible apply State.setScopeState_changes | with_reducible apply Changes.ite | with_reducible refine Changes.elim _ ?_ (fun b => ?_) | with_reducible apply Changes.ite_fst | with_reducible apply Changes.ite_snd | with_reducible refine Changes.foldl _ (fun v b hv => ?_) ?_ | with_reducible refine Changes.foldl_fst _ (fun v b hv => ?_) ?_ | with_reducible refine Changes.foldl_snd _ (fun v b hv => ?_) ?_ | dsimp only | split | refine Changes.of_fst_eq (by assumption) ?_ | with_reducible apply Changes.made | exact .left _ (by assumption) rfl rfl rfl rfl | exact .kept _ (by assumption) rfl rfl rfl rfl)

theorem State.logFault_changes {s₀ : State} {s : State} {t : Taken} (h : Changes s₀ s) : Changes s₀ (State.logFault s t) := by
  unfold State.logFault
  try dsimp only
  repeat' (first | with_reducible assumption | with_reducible apply State.rset_changes | with_reducible apply State.fset_changes | with_reducible refine Changes.foldl _ (fun v b hv => ?_) ?_ | dsimp only)

theorem State.countFault_changes {s₀ : State} {s : State} {t : Taken} (h : Changes s₀ s) : Changes s₀ (State.countFault s t) := by
  unfold State.countFault
  try dsimp only
  repeat' (first | with_reducible assumption | with_reducible apply State.fset_changes | with_reducible apply State.fadd_changes | dsimp only | split)

theorem State.startFold_changes {s₀ : State} {s : State} {t : Taken} {escalated : Bool} {i : Nat} (h : Changes s₀ s) : Changes s₀ (State.startFold s t escalated i) := by
  unfold State.startFold
  try dsimp only
  repeat' (first | with_reducible assumption | with_reducible apply State.fadd_changes | with_reducible apply State.fset_changes | with_reducible apply State.modScope_changes | with_reducible apply State.enterQuiet_changes | with_reducible apply State.setScopeState_changes | with_reducible apply State.dropHeld_changes | with_reducible apply State.requestStep_changes | with_reducible apply State.foldAdm_changes | with_reducible apply State.foldEth_changes | with_reducible apply State.foldVcd_changes | with_reducible apply State.foldSpx_changes | with_reducible apply State.foldIsp_changes | with_reducible apply State.foldTime_changes | with_reducible apply Changes.ite | with_reducible refine Changes.elim _ ?_ (fun b => ?_) | with_reducible apply Changes.ite_fst | with_reducible apply Changes.ite_snd | with_reducible refine Changes.foldl _ (fun v b hv => ?_) ?_ | with_reducible refine Changes.foldl_fst _ (fun v b hv => ?_) ?_ | with_reducible refine Changes.foldl_snd _ (fun v b hv => ?_) ?_ | dsimp only | split | refine Changes.of_fst_eq (by assumption) ?_ | with_reducible apply Changes.made | exact .left _ (by assumption) rfl rfl rfl rfl | exact .kept _ (by assumption) rfl rfl rfl rfl)

theorem State.abandon_changes {s₀ : State} {s : State} {core : Option Nat} (h : Changes s₀ s) : Changes s₀ (State.abandon s core) := by
  unfold State.abandon
  try dsimp only
  repeat' (first | with_reducible assumption | with_reducible apply State.enterQuiet_changes | dsimp only | split)

theorem State.flush_changes {s₀ : State} {s : State} {core : Option Nat} (h : Changes s₀ s) : Changes s₀ (State.flush s core) := by
  unfold State.flush
  try dsimp only
  repeat' (first | with_reducible assumption | with_reducible apply State.endWhole_changes | with_reducible refine Changes.foldl _ (fun v b hv => ?_) ?_ | dsimp only)

theorem State.enterCoreFault_changes {s₀ : State} {s : State} {c : Nat} {source : Nat} (h : Changes s₀ s) : Changes s₀ (State.enterCoreFault s c source) := by
  unfold State.enterCoreFault
  try dsimp only
  repeat' (first | with_reducible assumption | with_reducible apply State.flush_changes | with_reducible apply State.modScope_changes | with_reducible apply State.enterQuiet_changes | dsimp only)

theorem State.resetReaction_changes {s₀ : State} {s : State} {r : DescRef} (h : Changes s₀ s) : Changes s₀ (State.resetReaction s r) := by
  unfold State.resetReaction
  try dsimp only
  repeat' (first | with_reducible assumption | with_reducible apply State.modCaravan_changes | with_reducible apply State.endCaravan_changes | with_reducible apply Changes.ite | with_reducible refine Changes.elim _ ?_ (fun b => ?_) | with_reducible apply Changes.ite_fst | with_reducible apply Changes.ite_snd | with_reducible refine Changes.foldl _ (fun v b hv => ?_) ?_ | with_reducible refine Changes.foldl_fst _ (fun v b hv => ?_) ?_ | with_reducible refine Changes.foldl_snd _ (fun v b hv => ?_) ?_ | dsimp only | split | refine Changes.of_fst_eq (by assumption) ?_)

theorem State.react_changes {s₀ : State} {s : State} {t : Taken} {act : Nat} {escalated : Bool} {i : Nat} (h : Changes s₀ s) : Changes s₀ (State.react s t act escalated i) := by
  unfold State.react
  try dsimp only
  repeat' (first | with_reducible assumption | with_reducible apply State.releaseSignals_changes | with_reducible apply State.resetReaction_changes | with_reducible apply State.enterCoreFault_changes | with_reducible apply State.startFold_changes | with_reducible refine Changes.elim _ ?_ (fun b => ?_) | dsimp only | split)

theorem State.disturb_changes {s₀ : State} {s : State} {t : Taken} (h : Changes s₀ s) : Changes s₀ (State.disturb s t) := by
  unfold State.disturb
  try dsimp only
  repeat' (first | with_reducible assumption | with_reducible apply State.restartQuiet_changes | with_reducible apply State.abandon_changes | with_reducible refine Changes.foldl _ (fun v b hv => ?_) ?_ | dsimp only | split)

theorem State.takeFault_changes {s₀ : State} {s : State} {t : Taken} (h : Changes s₀ s) : Changes s₀ (State.takeFault s t) := by
  unfold State.takeFault
  try dsimp only
  repeat' (first | with_reducible assumption | with_reducible apply State.countFault_changes | with_reducible apply State.logFault_changes | with_reducible apply State.modFlight_changes | with_reducible apply State.irq_changes | with_reducible apply State.disturb_changes | with_reducible apply State.react_changes | with_reducible refine Changes.elim _ ?_ (fun b => ?_) | dsimp only | split)

theorem State.popReport_changes {s₀ : State} {s : State} {source : Nat} {cls : Nat} (h : Changes s₀ s) : ∀ r, State.popReport s source cls = some r → Changes s₀ r.2 := by
  unfold State.popReport
  split
  · intro r hr
    cases hr
  · intro r hr
    cases hr
    dsimp only
    unfold State.modFcu
    exact Changes.made h

theorem State.noteLevel_changes {s₀ : State} {s : State} {source : Nat} {cls : Nat} (h : Changes s₀ s) : Changes s₀ (State.noteLevel s source cls) := by
  unfold State.noteLevel
  try dsimp only
  repeat' (first | with_reducible assumption | with_reducible apply State.modFcu_changes | dsimp only)

theorem State.memoryError_changes {s₀ : State} {s : State} {source : Nat} {cls : Nat} (h : Changes s₀ s) : Changes s₀ (State.memoryError s source cls) := by
  unfold State.memoryError
  try dsimp only
  repeat' (first | with_reducible assumption | with_reducible apply State.storeError_changes | with_reducible apply State.spxError_changes | with_reducible apply State.vcdError_changes | with_reducible apply Changes.ite | with_reducible refine Changes.elim _ ?_ (fun b => ?_) | with_reducible apply Changes.ite_fst | with_reducible apply Changes.ite_snd | with_reducible refine Changes.foldl _ (fun v b hv => ?_) ?_ | with_reducible refine Changes.foldl_fst _ (fun v b hv => ?_) ?_ | with_reducible refine Changes.foldl_snd _ (fun v b hv => ?_) ?_ | dsimp only | split | refine Changes.of_fst_eq (by assumption) ?_)

theorem execFaultReport_changes {s₀ : State} {source : Nat} {cls : Nat} {s : State} (h : Changes s₀ s) : OutChanges s₀ (execFaultReport source cls s) := by
  have hq : Changes s₀ ((s.popReport source cls).getD (⟨source, cls, none, 0, none, false⟩, s.memoryError source cls)).2 := by
    cases e : s.popReport source cls with
    | none => exact State.memoryError_changes h
    | some r => exact State.popReport_changes h r e
  exact OutChanges.unit (OutChanges.due h (Changes.ite hq (State.noteLevel_changes (State.takeFault_changes hq))))

theorem execWireFault_changes {s₀ : State} {source : Nat} {pair : Nat} {level : Nat} {s : State} (h : Changes s₀ s) : OutChanges s₀ (execWireFault source pair level s) := by
  unfold execWireFault
  try dsimp only
  repeat' (first | with_reducible assumption | with_reducible apply OutChanges.unit | with_reducible apply OutChanges.due | with_reducible apply State.modFcu_changes | with_reducible apply State.takeFault_changes | with_reducible apply State.fset_changes | dsimp only | split)

theorem execLevelFaultRereport_changes {s₀ : State} {source : Nat} {cls : Nat} {s : State} (h : Changes s₀ s) : OutChanges s₀ (execLevelFaultRereport source cls s) := by
  unfold execLevelFaultRereport
  try dsimp only
  repeat' (first | with_reducible assumption | with_reducible apply OutChanges.unit | with_reducible apply OutChanges.due | with_reducible apply State.noteLevel_changes | with_reducible apply State.takeFault_changes | dsimp only | split)

theorem execQuietPeriodExpiry_changes {s₀ : State} {core : Option Nat} {s : State} (h : Changes s₀ s) : OutChanges s₀ (execQuietPeriodExpiry core s) := by
  unfold execQuietPeriodExpiry
  try dsimp only
  repeat' (first | with_reducible assumption | with_reducible apply OutChanges.unit | with_reducible apply OutChanges.due | with_reducible apply State.modScope_changes | with_reducible apply State.setScopeState_changes | with_reducible apply State.latchScope_changes | dsimp only | split)

theorem State.initCore_changes {s₀ : State} {s : State} {c : Nat} (h : Changes s₀ s) : Changes s₀ (State.initCore s c) := by
  unfold State.initCore
  try dsimp only
  repeat' (first | with_reducible assumption | with_reducible apply State.zeroRows_changes | with_reducible apply State.modCore_changes | with_reducible apply State.fset_changes | with_reducible apply State.setLevel_changes | with_reducible apply State.fadd_changes | with_reducible refine Changes.foldl _ (fun v b hv => ?_) ?_ | dsimp only | split)

theorem State.initPart_changes {s₀ : State} {s : State} (h : Changes s₀ s) : Changes s₀ (State.initPart s) := by
  unfold State.initPart
  try dsimp only
  repeat' (first | with_reducible assumption | with_reducible apply State.initCore_changes | with_reducible apply State.fset_changes | with_reducible apply State.wcClear_changes | with_reducible refine Changes.foldl _ (fun v b hv => ?_) ?_ | dsimp only)

theorem State.clearWires_changes {s₀ : State} {s : State} (h : Changes s₀ s) : Changes s₀ (State.clearWires s) := by
  unfold State.clearWires
  try dsimp only
  repeat' (first | with_reducible assumption | with_reducible apply State.fset_changes | with_reducible refine Changes.foldl _ (fun v b hv => ?_) ?_ | dsimp only | split)

theorem State.trainLinks_changes {s₀ : State} {s : State} (h : Changes s₀ s) : Changes s₀ (State.trainLinks s) := by
  unfold State.trainLinks
  try dsimp only
  repeat' (first | with_reducible assumption | with_reducible apply State.fset_changes | with_reducible apply Changes.ite | with_reducible refine Changes.elim _ ?_ (fun b => ?_) | with_reducible apply Changes.ite_fst | with_reducible apply Changes.ite_snd | with_reducible refine Changes.foldl _ (fun v b hv => ?_) ?_ | with_reducible refine Changes.foldl_fst _ (fun v b hv => ?_) ?_ | with_reducible refine Changes.foldl_snd _ (fun v b hv => ?_) ?_ | dsimp only | split | refine Changes.of_fst_eq (by assumption) ?_ | with_reducible apply Changes.made | exact .left _ (by assumption) rfl rfl rfl rfl | exact .kept _ (by assumption) rfl rfl rfl rfl)

theorem State.trainSpares_changes {s₀ : State} {s : State} (h : Changes s₀ s) : Changes s₀ (State.trainSpares s) := by
  unfold State.trainSpares
  try dsimp only
  repeat' (first | with_reducible assumption | with_reducible apply State.fset_changes | with_reducible apply State.free_changes | with_reducible apply State.trainLinks_changes | with_reducible apply Changes.ite | with_reducible refine Changes.elim _ ?_ (fun b => ?_) | with_reducible apply Changes.ite_fst | with_reducible apply Changes.ite_snd | with_reducible refine Changes.foldl _ (fun v b hv => ?_) ?_ | with_reducible refine Changes.foldl_fst _ (fun v b hv => ?_) ?_ | with_reducible refine Changes.foldl_snd _ (fun v b hv => ?_) ?_ | dsimp only | split | refine Changes.of_fst_eq (by assumption) ?_)

theorem State.endRecovery_changes {s₀ : State} {s : State} (h : Changes s₀ s) : Changes s₀ (State.endRecovery s) := by
  unfold State.endRecovery
  try dsimp only
  repeat' (first | with_reducible assumption | with_reducible apply State.setScopeState_changes | with_reducible apply State.flush_changes | with_reducible apply State.fset_changes | with_reducible apply State.modScope_changes | with_reducible apply State.fadd_changes | with_reducible apply Changes.ite | with_reducible refine Changes.elim _ ?_ (fun b => ?_) | with_reducible apply Changes.ite_fst | with_reducible apply Changes.ite_snd | with_reducible refine Changes.foldl _ (fun v b hv => ?_) ?_ | with_reducible refine Changes.foldl_fst _ (fun v b hv => ?_) ?_ | with_reducible refine Changes.foldl_snd _ (fun v b hv => ?_) ?_ | dsimp only | split | refine Changes.of_fst_eq (by assumption) ?_ | with_reducible apply Changes.made | exact .left _ (by assumption) rfl rfl rfl rfl | exact .kept _ (by assumption) rfl rfl rfl rfl)

theorem State.selfTest_changes {s₀ : State} {s : State} {failed : List Nat} (h : Changes s₀ s) : Changes s₀ (State.selfTest s failed) := by
  unfold State.selfTest
  try dsimp only
  repeat' (first | with_reducible assumption | with_reducible apply State.fset_changes | with_reducible apply State.latchScope_changes | with_reducible apply State.modScope_changes | with_reducible refine Changes.foldl _ (fun v b hv => ?_) ?_ | dsimp only | split)

theorem State.partPhase_changes {s₀ : State} {s : State} {failed : List Nat} (h : Changes s₀ s) : Changes s₀ (State.partPhase s failed) := by
  unfold State.partPhase
  try dsimp only
  repeat' (first | with_reducible assumption | with_reducible apply State.modScope_changes | with_reducible apply State.clearWires_changes | with_reducible apply State.trainSpares_changes | with_reducible apply State.selfTest_changes | with_reducible apply State.initPart_changes | with_reducible apply State.endRecovery_changes | with_reducible apply Changes.ite | with_reducible refine Changes.elim _ ?_ (fun b => ?_) | with_reducible apply Changes.ite_fst | with_reducible apply Changes.ite_snd | with_reducible refine Changes.foldl _ (fun v b hv => ?_) ?_ | with_reducible refine Changes.foldl_fst _ (fun v b hv => ?_) ?_ | with_reducible refine Changes.foldl_snd _ (fun v b hv => ?_) ?_ | dsimp only | split | refine Changes.of_fst_eq (by assumption) ?_)

theorem State.corePhase_changes {s₀ : State} {s : State} {c : Nat} {failed : List Nat} (h : Changes s₀ s) : Changes s₀ (State.corePhase s c failed) := by
  unfold State.corePhase
  try dsimp only
  repeat' (first | with_reducible assumption | with_reducible apply State.modScope_changes | with_reducible apply State.latchScope_changes | with_reducible apply State.fset_changes | with_reducible apply State.setScopeState_changes | with_reducible apply State.initCore_changes | dsimp only | split)

theorem execRecoveryPhaseComplete_changes {s₀ : State} {core : Option Nat} {failed : List Nat} {s : State} (h : Changes s₀ s) : OutChanges s₀ (execRecoveryPhaseComplete core failed s) := by
  unfold execRecoveryPhaseComplete
  try dsimp only
  repeat' (first | with_reducible assumption | with_reducible apply OutChanges.unit | with_reducible apply OutChanges.due | with_reducible apply State.partPhase_changes | with_reducible apply State.corePhase_changes | dsimp only | split)

theorem State.clearLatch_changes {s₀ : State} {s : State} {core : Option Nat} (h : Changes s₀ s) : Changes s₀ (State.clearLatch s core) := by
  unfold State.clearLatch
  try dsimp only
  repeat' (first | with_reducible assumption | with_reducible apply State.enterQuiet_changes | with_reducible apply State.modScope_changes | dsimp only | split)

theorem fcuCtrlEffect_changes {s₀ : State} {v : Nat} {s : State} (h : Changes s₀ s) : Changes s₀ (fcuCtrlEffect v s).1 := by
  unfold fcuCtrlEffect
  try dsimp only
  repeat' (first | with_reducible assumption | with_reducible apply State.plainWrite_changes | with_reducible apply State.clearLatch_changes | dsimp only | split)

theorem execFcuClearLatch_changes {s₀ : State} {src : Nat} {v : Nat} {s : State} (h : Changes s₀ s) : OutChanges s₀ (execFcuClearLatch src v s) := by
  unfold execFcuClearLatch
  try dsimp only
  repeat' (first | with_reducible assumption | with_reducible apply regCmd_changes | with_reducible apply fcuCtrlEffect_changes | dsimp only)

theorem fcuCoreClearEffect_changes {s₀ : State} {v : Nat} {s : State} (h : Changes s₀ s) : Changes s₀ (fcuCoreClearEffect v s).1 := by
  unfold fcuCoreClearEffect
  try dsimp only
  repeat' (first | with_reducible assumption | with_reducible apply State.clearLatch_changes | with_reducible refine Changes.foldl _ (fun v b hv => ?_) ?_ | dsimp only)

theorem execFcuCoreClear_changes {s₀ : State} {src : Nat} {cores : Nat} {s : State} (h : Changes s₀ s) : OutChanges s₀ (execFcuCoreClear src cores s) := by
  unfold execFcuCoreClear
  try dsimp only
  repeat' (first | with_reducible assumption | with_reducible apply regCmd_changes | with_reducible apply fcuCoreClearEffect_changes | dsimp only)

theorem fcuSrcEffect_changes {s₀ : State} {id : Nat} {v : Nat} {s : State} (h : Changes s₀ s) : Changes s₀ (fcuSrcEffect id v s).1 := by
  unfold fcuSrcEffect
  try dsimp only
  repeat' (first | with_reducible assumption | with_reducible apply State.report_changes | dsimp only | split)

theorem execFaultForce_changes {s₀ : State} {src : Nat} {source : Nat} {cls : Nat} {s : State} (h : Changes s₀ s) : OutChanges s₀ (execFaultForce src source cls s) := by
  unfold execFaultForce
  try dsimp only
  repeat' (first | with_reducible assumption | with_reducible apply regCmd_changes | with_reducible apply fcuSrcEffect_changes | dsimp only)

theorem fcuInjectEffect_changes {s₀ : State} {v : Nat} {s : State} (h : Changes s₀ s) : Changes s₀ (fcuInjectEffect v s).1 := by
  unfold fcuInjectEffect
  try dsimp only
  repeat' (first | with_reducible assumption | with_reducible apply State.plainWrite_changes | dsimp only | split)

theorem execFaultInjectArm_changes {s₀ : State} {src : Nat} {v : Nat} {s : State} (h : Changes s₀ s) : OutChanges s₀ (execFaultInjectArm src v s) := by
  unfold execFaultInjectArm
  try dsimp only
  repeat' (first | with_reducible assumption | with_reducible apply regCmd_changes | with_reducible apply fcuInjectEffect_changes | dsimp only)

theorem wireTestEffect_changes {s₀ : State} {v : Nat} {s : State} (h : Changes s₀ s) : Changes s₀ (wireTestEffect v s).1 := by
  unfold wireTestEffect
  try dsimp only
  repeat' (first | with_reducible assumption | with_reducible apply State.modFcu_changes | dsimp only | split)

theorem execWireTest_changes {s₀ : State} {src : Nat} {v : Nat} {s : State} (h : Changes s₀ s) : OutChanges s₀ (execWireTest src v s) := by
  unfold execWireTest
  try dsimp only
  repeat' (first | with_reducible assumption | with_reducible apply regCmd_changes | with_reducible apply wireTestEffect_changes | dsimp only)

end Sys2Proof.Machine
end

