-- ==== Sys2Proof/Laws/ChangesNvm.lean ====
section
/-! SUPPORT. The state after each definition of Sys2Proof/Machine/Nvm.lean is reached by the model's own kinds of update. -/

namespace Sys2Proof.Machine

theorem State.modNvm_changes {s₀ : State} {s : State} {g : Nvm → Nvm} (h : Changes s₀ s) : Changes s₀ (State.modNvm s g) := by
  unfold State.modNvm
  try dsimp only
  repeat' (first | with_reducible assumption | with_reducible apply Changes.ite | with_reducible refine Changes.elim _ ?_ (fun b => ?_) | with_reducible apply Changes.ite_fst | with_reducible apply Changes.ite_snd | with_reducible refine Changes.foldl _ (fun v b hv => ?_) ?_ | with_reducible refine Changes.foldl_fst _ (fun v b hv => ?_) ?_ | with_reducible refine Changes.foldl_snd _ (fun v b hv => ?_) ?_ | dsimp only | split | refine Changes.of_fst_eq (by assumption) ?_ | with_reducible apply Changes.made | exact .left _ (by assumption) rfl rfl rfl rfl | exact .kept _ (by assumption) rfl rfl rfl rfl)

theorem State.nvmBegin_changes {s₀ : State} {s : State} {ok : Bool} {j : NvmJob} (h : Changes s₀ s) : Changes s₀ (State.nvmBegin s ok j).1 := by
  unfold State.nvmBegin
  try dsimp only
  repeat' (first | with_reducible assumption | with_reducible apply State.modNvm_changes | dsimp only | split)

theorem rollbackEffect_changes {s₀ : State} {v : Nat} {s : State} (h : Changes s₀ s) : Changes s₀ (rollbackEffect v s).1 := by
  unfold rollbackEffect
  try dsimp only
  repeat' (first | with_reducible assumption | with_reducible apply State.nvmBegin_changes | dsimp only)

theorem execRollbackAdvance_changes {s₀ : State} {src : Nat} {v : Nat} {s : State} (h : Changes s₀ s) : OutChanges s₀ (execRollbackAdvance src v s) := by
  unfold execRollbackAdvance
  try dsimp only
  repeat' (first | with_reducible assumption | with_reducible apply regCmd_changes | with_reducible apply rollbackEffect_changes | dsimp only)

theorem keyProgramEffect_changes {s₀ : State} {v : Nat} {s : State} (h : Changes s₀ s) : Changes s₀ (keyProgramEffect v s).1 := by
  unfold keyProgramEffect
  try dsimp only
  repeat' (first | with_reducible assumption | with_reducible apply State.nvmBegin_changes | dsimp only | split)

theorem execKeyProgram_changes {s₀ : State} {src : Nat} {slot : Nat} {s : State} (h : Changes s₀ s) : OutChanges s₀ (execKeyProgram src slot s) := by
  unfold execKeyProgram
  try dsimp only
  repeat' (first | with_reducible assumption | with_reducible apply regCmd_changes | with_reducible apply keyProgramEffect_changes | dsimp only)

theorem revokeEffect_changes {s₀ : State} {v : Nat} {s : State} (h : Changes s₀ s) : Changes s₀ (revokeEffect v s).1 := by
  unfold revokeEffect
  try dsimp only
  repeat' (first | with_reducible assumption | with_reducible apply State.nvmBegin_changes | dsimp only)

theorem execRevoke_changes {s₀ : State} {src : Nat} {slots : Nat} {s : State} (h : Changes s₀ s) : OutChanges s₀ (execRevoke src slots s) := by
  unfold execRevoke
  try dsimp only
  repeat' (first | with_reducible assumption | with_reducible apply regCmd_changes | with_reducible apply revokeEffect_changes | dsimp only)

theorem nvmLockEffect_changes {s₀ : State} {v : Nat} {s : State} (h : Changes s₀ s) : Changes s₀ (nvmLockEffect v s).1 := by
  unfold nvmLockEffect
  try dsimp only
  repeat' (first | with_reducible assumption | with_reducible apply State.nvmBegin_changes | dsimp only | split)

theorem execNvmLock_changes {s₀ : State} {src : Nat} {s : State} (h : Changes s₀ s) : OutChanges s₀ (execNvmLock src s) := by
  unfold execNvmLock
  try dsimp only
  repeat' (first | with_reducible assumption | with_reducible apply regCmd_changes | with_reducible apply nvmLockEffect_changes | dsimp only)

theorem nvmPlainEffect_changes {s₀ : State} {a : Nat} {v : Nat} {s : State} (h : Changes s₀ s) : Changes s₀ (nvmPlainEffect a v s).1 := by
  unfold nvmPlainEffect
  try dsimp only
  repeat' (first | with_reducible assumption | with_reducible apply State.plainWrite_changes | dsimp only | split)

theorem execNvmProgramDone_changes {s₀ : State} {ok : Bool} {s : State} (h : Changes s₀ s) : OutChanges s₀ (execNvmProgramDone ok s) := by
  unfold execNvmProgramDone
  try dsimp only
  repeat' (first | with_reducible assumption | with_reducible apply OutChanges.unit | with_reducible apply OutChanges.due | with_reducible apply OutChanges.next | with_reducible apply OutChanges.fault | with_reducible apply OutChanges.ite | with_reducible apply State.modNvm_changes | with_reducible apply State.fset_changes | with_reducible apply State.free_changes | with_reducible apply Changes.ite | with_reducible refine Changes.elim _ ?_ (fun b => ?_) | with_reducible apply Changes.ite_fst | with_reducible apply Changes.ite_snd | with_reducible refine Changes.foldl _ (fun v b hv => ?_) ?_ | with_reducible refine Changes.foldl_fst _ (fun v b hv => ?_) ?_ | with_reducible refine Changes.foldl_snd _ (fun v b hv => ?_) ?_ | dsimp only | split | refine Changes.of_fst_eq (by assumption) ?_)

theorem coreReleaseEffect_changes {s₀ : State} {v : Nat} {s : State} (h : Changes s₀ s) : Changes s₀ (coreReleaseEffect v s).1 := by
  unfold coreReleaseEffect
  try dsimp only
  repeat' (first | with_reducible assumption | with_reducible apply State.fset_changes | with_reducible apply Changes.ite | with_reducible refine Changes.elim _ ?_ (fun b => ?_) | with_reducible apply Changes.ite_fst | with_reducible apply Changes.ite_snd | with_reducible refine Changes.foldl _ (fun v b hv => ?_) ?_ | with_reducible refine Changes.foldl_fst _ (fun v b hv => ?_) ?_ | with_reducible refine Changes.foldl_snd _ (fun v b hv => ?_) ?_ | dsimp only | split | refine Changes.of_fst_eq (by assumption) ?_)

theorem execControlCoreRelease_changes {s₀ : State} {src : Nat} {cores : Nat} {s : State} (h : Changes s₀ s) : OutChanges s₀ (execControlCoreRelease src cores s) := by
  unfold execControlCoreRelease
  try dsimp only
  repeat' (first | with_reducible assumption | with_reducible apply regCmd_changes | with_reducible apply coreReleaseEffect_changes | dsimp only)

theorem bootCtrlEffect_changes {s₀ : State} {v : Nat} {s : State} (h : Changes s₀ s) : Changes s₀ (bootCtrlEffect v s).1 := by
  unfold bootCtrlEffect
  try dsimp only
  repeat' (first | with_reducible assumption | with_reducible apply State.fset_changes | with_reducible apply Changes.ite | with_reducible refine Changes.elim _ ?_ (fun b => ?_) | with_reducible apply Changes.ite_fst | with_reducible apply Changes.ite_snd | with_reducible refine Changes.foldl _ (fun v b hv => ?_) ?_ | with_reducible refine Changes.foldl_fst _ (fun v b hv => ?_) ?_ | with_reducible refine Changes.foldl_snd _ (fun v b hv => ?_) ?_ | dsimp only | split | refine Changes.of_fst_eq (by assumption) ?_ | with_reducible apply Changes.made | exact .left _ (by assumption) rfl rfl rfl rfl | exact .kept _ (by assumption) rfl rfl rfl rfl)

theorem execBootRestart_changes {s₀ : State} {src : Nat} {s : State} (h : Changes s₀ s) : OutChanges s₀ (execBootRestart src s) := by
  unfold execBootRestart
  try dsimp only
  repeat' (first | with_reducible assumption | with_reducible apply regCmd_changes | with_reducible apply bootCtrlEffect_changes | dsimp only)

theorem attestEffect_changes {s₀ : State} {v : Nat} {s : State} (h : Changes s₀ s) : Changes s₀ (attestEffect v s).1 := by
  unfold attestEffect
  try dsimp only
  repeat' (first | with_reducible assumption | with_reducible apply State.plainWrite_changes | with_reducible apply State.fset_changes | dsimp only | split)

theorem execAttestGo_changes {s₀ : State} {src : Nat} {v : Nat} {s : State} (h : Changes s₀ s) : OutChanges s₀ (execAttestGo src v s) := by
  unfold execAttestGo
  try dsimp only
  repeat' (first | with_reducible assumption | with_reducible apply regCmd_changes | with_reducible apply attestEffect_changes | dsimp only)

end Sys2Proof.Machine
end

