-- ==== Sys2Proof/Laws/ChangesBus.lean ====
section
/-! SUPPORT. The state after each definition of Sys2Proof/Machine/Bus.lean is reached by the model's own kinds of update. -/

namespace Sys2Proof.Machine

theorem scrubCtrlEffect_changes {s₀ : State} {a : Nat} {v : Nat} {s : State} (h : Changes s₀ s) : Changes s₀ (scrubCtrlEffect a v s).1 := by
  unfold scrubCtrlEffect
  try dsimp only
  repeat' (first | with_reducible assumption | with_reducible apply State.plainWrite_changes | with_reducible apply Changes.ite | with_reducible refine Changes.elim _ ?_ (fun b => ?_) | with_reducible apply Changes.ite_fst | with_reducible apply Changes.ite_snd | with_reducible refine Changes.foldl _ (fun v b hv => ?_) ?_ | with_reducible refine Changes.foldl_fst _ (fun v b hv => ?_) ?_ | with_reducible refine Changes.foldl_snd _ (fun v b hv => ?_) ?_ | dsimp only | split | refine Changes.of_fst_eq (by assumption) ?_)

theorem commitBaseEffect_changes {s₀ : State} {a : Nat} {v : Nat} {s : State} (h : Changes s₀ s) : Changes s₀ (commitBaseEffect a v s).1 := by
  unfold commitBaseEffect
  try dsimp only
  repeat' (first | with_reducible assumption | with_reducible apply State.plainWrite_changes | with_reducible apply Changes.ite | with_reducible refine Changes.elim _ ?_ (fun b => ?_) | with_reducible apply Changes.ite_fst | with_reducible apply Changes.ite_snd | with_reducible refine Changes.foldl _ (fun v b hv => ?_) ?_ | with_reducible refine Changes.foldl_fst _ (fun v b hv => ?_) ?_ | with_reducible refine Changes.foldl_snd _ (fun v b hv => ?_) ?_ | dsimp only | split | refine Changes.of_fst_eq (by assumption) ?_)

/-- What a table gives for a register is one of its rows. -/
theorem lookupFn_of_all {α : Type} {P : α → Prop} {b : Nat} {f : α} {l : List (Nat × α)} (h : ∀ p ∈ l, P p.2) (e : lookupFn b l = some f) :
    P f := by
  induction l with
  | nil => cases e
  | cons p l ih =>
    obtain ⟨k, g⟩ := p
    unfold lookupFn at e
    split at e
    · cases e
      exact h _ (List.mem_cons_self ..)
    · exact ih (fun p hp => h p (List.mem_cons_of_mem _ hp)) e

theorem writesHubA_changes {s₀ : State} : ∀ p ∈ writesHubA, ∀ r a v s, Changes s₀ s → Changes s₀ (p.2 r a v s).1 := by
  unfold writesHubA
  repeat' (first | exact List.forall_mem_nil _ | refine List.forall_mem_cons.2 ⟨fun r a v s h => ?_, ?_⟩)
  all_goals dsimp only
  all_goals first | with_reducible exact coreReleaseEffect_changes h | with_reducible exact crcCommitEffect_changes h | with_reducible exact fcuCoreClearEffect_changes h | with_reducible exact fcuCtrlEffect_changes h | with_reducible exact fcuInjectEffect_changes h | with_reducible exact fcuSrcEffect_changes h | with_reducible exact irqSetEffect_changes h | with_reducible exact phaseEffect_changes h | with_reducible exact ptpTxGoEffect_changes h | with_reducible exact pwrCapEffect_changes h | with_reducible exact pwrCtrlEffect_changes h | with_reducible exact thermCtrlEffect_changes h | with_reducible exact timCtrlEffect_changes h | with_reducible exact timeKickEffect_changes h | with_reducible exact timeRateEffect_changes h | with_reducible exact timeSetEffect_changes h | with_reducible exact timeSetSEffect_changes h | with_reducible exact timeStepEffect_changes h | with_reducible exact trigCfgEffect_changes h | with_reducible exact wcCtrlEffect_changes h | with_reducible exact wireTestEffect_changes h

theorem writesHubB_changes {s₀ : State} : ∀ p ∈ writesHubB, ∀ r a v s, Changes s₀ s → Changes s₀ (p.2 r a v s).1 := by
  unfold writesHubB
  repeat' (first | exact List.forall_mem_nil _ | refine List.forall_mem_cons.2 ⟨fun r a v s h => ?_, ?_⟩)
  all_goals dsimp only
  all_goals first | with_reducible exact admitReqEffect_changes h | with_reducible exact attestEffect_changes h | with_reducible exact bootCtrlEffect_changes h | with_reducible exact keyProgramEffect_changes h | with_reducible exact nvmLockEffect_changes h | with_reducible exact nvmPlainEffect_changes h | with_reducible exact revokeEffect_changes h | with_reducible exact rollbackEffect_changes h | with_reducible exact scheduleEffect_changes h | with_reducible exact timerCfgEffect_changes h

theorem writesPorts_changes {s₀ : State} : ∀ p ∈ writesPorts, ∀ r a v s, Changes s₀ s → Changes s₀ (p.2 r a v s).1 := by
  unfold writesPorts
  repeat' (first | exact List.forall_mem_nil _ | refine List.forall_mem_cons.2 ⟨fun r a v s h => ?_, ?_⟩)
  all_goals dsimp only
  all_goals first | with_reducible exact ethCtrlEffect_changes h | with_reducible exact fwDoneEffect_changes h | with_reducible exact macsecKeyEffect_changes h | with_reducible exact mdioEffect_changes h | with_reducible exact mgtCtrlEffect_changes h | with_reducible exact qbvLenEffect_changes h | with_reducible exact rxPnEffect_changes h | with_reducible exact sessionCtrlEffect_changes h

theorem writesInputs_changes {s₀ : State} : ∀ p ∈ writesInputs, ∀ r a v s, Changes s₀ s → Changes s₀ (p.2 r a v s).1 := by
  unfold writesInputs
  repeat' (first | exact List.forall_mem_nil _ | refine List.forall_mem_cons.2 ⟨fun r a v s h => ?_, ?_⟩)
  all_goals dsimp only
  all_goals first | with_reducible exact csiCtrlEffect_changes h | with_reducible exact csiMapEffect_changes h | with_reducible exact ispCfgEffect_changes h | with_reducible exact ispCtrlEffect_changes h | with_reducible exact paramPushEffect_changes h | with_reducible exact spxCfgEffect_changes h | with_reducible exact spxRegEffect_changes h | with_reducible exact tdmCfgEffect_changes h | with_reducible exact vcdCtrlEffect_changes h | with_reducible exact vcdRegEffect_changes h

theorem writesCore_changes {s₀ : State} : ∀ p ∈ writesCore, ∀ r a v s, Changes s₀ s → Changes s₀ (p.2 r a v s).1 := by
  unfold writesCore
  repeat' (first | exact List.forall_mem_nil _ | refine List.forall_mem_cons.2 ⟨fun r a v s h => ?_, ?_⟩)
  all_goals dsimp only
  all_goals first | with_reducible exact commitBaseEffect_changes h | with_reducible exact eccInjectEffect_changes h | with_reducible exact headWriteEffect_changes h | with_reducible exact killEffect_changes h | with_reducible exact mbxCfgEffect_changes h | with_reducible exact mbxClaimEffect_changes h | with_reducible exact queueBaseEffect_changes h | with_reducible exact queueCfgEffect_changes h | with_reducible exact queueCtrlEffect_changes h | with_reducible exact scrubCtrlEffect_changes h | with_reducible exact stagePushEffect_changes h | with_reducible exact tailWriteEffect_changes h | with_reducible exact taskReleaseEffect_changes h | with_reducible exact tlyAddEffect_changes h | with_reducible exact tlySetEffect_changes h | with_reducible exact progressWriteEffect_changes h | with_reducible exact wayPutEffect_changes h

theorem State.regEffect_changes {s₀ : State} {s : State} {r : RegAt} {a : Nat} {v : Nat} (h : Changes s₀ s) : Changes s₀ (State.regEffect s r a v).1 := by
  unfold State.regEffect
  split
  · rename_i e
    refine lookupFn_of_all (P := fun f => ∀ r a v s, Changes s₀ s → Changes s₀ (f r a v s).1) ?_ e _ _ _ _ h
    unfold writeTable
    simp only [List.forall_mem_append]
    exact ⟨⟨⟨⟨writesHubA_changes, writesHubB_changes⟩, writesPorts_changes⟩, writesInputs_changes⟩, writesCore_changes⟩
  · exact State.plainWrite_changes h

theorem State.regWriteAt_changes {s₀ : State} {s : State} {a : Nat} {width : Nat} {v : Nat} (h : Changes s₀ s) : Changes s₀ (State.regWriteAt s a width v).1 := by
  unfold State.regWriteAt
  try dsimp only
  repeat' (first | with_reducible assumption | with_reducible apply State.regEffect_changes | with_reducible apply Changes.ite | with_reducible refine Changes.elim _ ?_ (fun b => ?_) | with_reducible apply Changes.ite_fst | with_reducible apply Changes.ite_snd | with_reducible refine Changes.foldl _ (fun v b hv => ?_) ?_ | with_reducible refine Changes.foldl_fst _ (fun v b hv => ?_) ?_ | with_reducible refine Changes.foldl_snd _ (fun v b hv => ?_) ?_ | dsimp only | split | refine Changes.of_fst_eq (by assumption) ?_)

theorem follows_changes {s₀ : State} {g : RegAt → State → List (Field × Nat)} {y1 : RegAt} {y2 : Nat} {y3 : State} (h : Changes s₀ y3) : Changes s₀ (follows g y1 y2 y3).1 := by
  unfold follows
  try dsimp only
  repeat' (first | with_reducible assumption | with_reducible apply he | with_reducible apply Changes.ite | with_reducible refine Changes.elim _ ?_ (fun b => ?_) | with_reducible apply Changes.ite_fst | with_reducible apply Changes.ite_snd | with_reducible refine Changes.foldl _ (fun v b hv => ?_) ?_ | with_reducible refine Changes.foldl_fst _ (fun v b hv => ?_) ?_ | with_reducible refine Changes.foldl_snd _ (fun v b hv => ?_) ?_ | dsimp only | split | refine Changes.of_fst_eq (by assumption) ?_)

theorem effectRead_changes {s₀ : State} {g : RegAt → State → State × Nat} {y1 : RegAt} {y2 : Nat} {y3 : State} (he : ∀ r u, Changes s₀ u → Changes s₀ (g r u).1) (h : Changes s₀ y3) : Changes s₀ (effectRead g y1 y2 y3).1 := by
  unfold effectRead
  try dsimp only
  repeat' (first | with_reducible assumption | with_reducible apply he | with_reducible apply Changes.ite | with_reducible refine Changes.elim _ ?_ (fun b => ?_) | with_reducible apply Changes.ite_fst | with_reducible apply Changes.ite_snd | with_reducible refine Changes.foldl _ (fun v b hv => ?_) ?_ | with_reducible refine Changes.foldl_fst _ (fun v b hv => ?_) ?_ | with_reducible refine Changes.foldl_snd _ (fun v b hv => ?_) ?_ | dsimp only | split | refine Changes.of_fst_eq (by assumption) ?_)

theorem outstandingMaxRead_changes {s₀ : State} {c : Nat} {s : State} (h : Changes s₀ s) : Changes s₀ (outstandingMaxRead c s).1 := by
  unfold outstandingMaxRead
  try dsimp only
  repeat' (first | with_reducible assumption | with_reducible apply State.fset_changes | with_reducible apply Changes.ite | with_reducible refine Changes.elim _ ?_ (fun b => ?_) | with_reducible apply Changes.ite_fst | with_reducible apply Changes.ite_snd | with_reducible refine Changes.foldl _ (fun v b hv => ?_) ?_ | with_reducible refine Changes.foldl_fst _ (fun v b hv => ?_) ?_ | with_reducible refine Changes.foldl_snd _ (fun v b hv => ?_) ?_ | dsimp only | split | refine Changes.of_fst_eq (by assumption) ?_)

theorem maxHoldRead_changes {s₀ : State} {c : Nat} {s : State} (h : Changes s₀ s) : Changes s₀ (maxHoldRead c s).1 := by
  unfold maxHoldRead
  try dsimp only
  repeat' (first | with_reducible assumption | with_reducible apply State.fset_changes | with_reducible apply Changes.ite | with_reducible refine Changes.elim _ ?_ (fun b => ?_) | with_reducible apply Changes.ite_fst | with_reducible apply Changes.ite_snd | with_reducible refine Changes.foldl _ (fun v b hv => ?_) ?_ | with_reducible refine Changes.foldl_fst _ (fun v b hv => ?_) ?_ | with_reducible refine Changes.foldl_snd _ (fun v b hv => ?_) ?_ | dsimp only | split | refine Changes.of_fst_eq (by assumption) ?_)

theorem execMovOutstandingMaxRead_changes {s₀ : State} {src : Nat} {c : Nat} {s : State} (h : Changes s₀ s) : OutChanges s₀ (execMovOutstandingMaxRead src c s) := by
  unfold execMovOutstandingMaxRead
  try dsimp only
  repeat' (first | with_reducible assumption | with_reducible apply OutChanges.unit | with_reducible apply OutChanges.due | with_reducible apply OutChanges.next | with_reducible apply OutChanges.fault | with_reducible apply OutChanges.ite | with_reducible apply readCmd_changes | with_reducible apply outstandingMaxRead_changes | with_reducible apply Changes.ite | with_reducible refine Changes.elim _ ?_ (fun b => ?_) | with_reducible apply Changes.ite_fst | with_reducible apply Changes.ite_snd | with_reducible refine Changes.foldl _ (fun v b hv => ?_) ?_ | with_reducible refine Changes.foldl_fst _ (fun v b hv => ?_) ?_ | with_reducible refine Changes.foldl_snd _ (fun v b hv => ?_) ?_ | dsimp only | split | with_reducible refine fun _ _ hu => ?_ | with_reducible refine fun _ hu => ?_ | refine Changes.of_fst_eq (by assumption) ?_)

theorem execRationMaxHoldRead_changes {s₀ : State} {src : Nat} {c : Nat} {s : State} (h : Changes s₀ s) : OutChanges s₀ (execRationMaxHoldRead src c s) := by
  unfold execRationMaxHoldRead
  try dsimp only
  repeat' (first | with_reducible assumption | with_reducible apply OutChanges.unit | with_reducible apply OutChanges.due | with_reducible apply OutChanges.next | with_reducible apply OutChanges.fault | with_reducible apply OutChanges.ite | with_reducible apply readCmd_changes | with_reducible apply maxHoldRead_changes | with_reducible apply Changes.ite | with_reducible refine Changes.elim _ ?_ (fun b => ?_) | with_reducible apply Changes.ite_fst | with_reducible apply Changes.ite_snd | with_reducible refine Changes.foldl _ (fun v b hv => ?_) ?_ | with_reducible refine Changes.foldl_fst _ (fun v b hv => ?_) ?_ | with_reducible refine Changes.foldl_snd _ (fun v b hv => ?_) ?_ | dsimp only | split | with_reducible refine fun _ _ hu => ?_ | with_reducible refine fun _ hu => ?_ | refine Changes.of_fst_eq (by assumption) ?_)

theorem mxaStatusRead_changes {s₀ : State} {r : RegAt} {s : State} (h : Changes s₀ s) : Changes s₀ (mxaStatusRead r s).1 := by
  unfold mxaStatusRead
  try dsimp only
  repeat' (first | with_reducible assumption | with_reducible apply State.free_changes | with_reducible apply Changes.ite | with_reducible refine Changes.elim _ ?_ (fun b => ?_) | with_reducible apply Changes.ite_fst | with_reducible apply Changes.ite_snd | with_reducible refine Changes.foldl _ (fun v b hv => ?_) ?_ | with_reducible refine Changes.foldl_fst _ (fun v b hv => ?_) ?_ | with_reducible refine Changes.foldl_snd _ (fun v b hv => ?_) ?_ | dsimp only | split | refine Changes.of_fst_eq (by assumption) ?_)

theorem readsHub_changes {s₀ : State} : ∀ p ∈ readsHub, ∀ r src s, Changes s₀ s → Changes s₀ (p.2 r src s).1 := by
  unfold readsHub
  repeat' (first | exact List.forall_mem_nil _ | refine List.forall_mem_cons.2 ⟨fun r src s h => ?_, ?_⟩)
  all_goals try dsimp only [follows, effectRead]
  all_goals first | with_reducible exact capPopRead_changes h | with_reducible exact maxHoldRead_changes h | with_reducible exact tempPeakRead_changes h | with_reducible exact timeNowRead_changes h | with_reducible exact h

theorem readsBlocks_changes {s₀ : State} : ∀ p ∈ readsBlocks, ∀ r src s, Changes s₀ s → Changes s₀ (p.2 r src s).1 := by
  unfold readsBlocks
  repeat' (first | exact List.forall_mem_nil _ | refine List.forall_mem_cons.2 ⟨fun r src s h => ?_, ?_⟩)
  all_goals try dsimp only [follows, effectRead]
  all_goals first | with_reducible exact wayTakeRead_changes h | with_reducible exact wbFillRead_changes h | with_reducible exact h

theorem readsCore_changes {s₀ : State} : ∀ p ∈ readsCore, ∀ r src s, Changes s₀ s → Changes s₀ (p.2 r src s).1 := by
  unfold readsCore
  repeat' (first | exact List.forall_mem_nil _ | refine List.forall_mem_cons.2 ⟨fun r src s h => ?_, ?_⟩)
  all_goals try dsimp only [follows, effectRead]
  all_goals first | with_reducible exact mvpSatRowsRead_changes h | with_reducible exact mxaStatusRead_changes h | with_reducible exact outstandingMaxRead_changes h | with_reducible exact h

theorem State.regValue_changes {s₀ : State} {s : State} {r : RegAt} {src : Nat} (h : Changes s₀ s) : Changes s₀ (State.regValue s r src).1 := by
  unfold State.regValue
  split
  · rename_i e
    refine lookupFn_of_all (P := fun f => ∀ r src s, Changes s₀ s → Changes s₀ (f r src s).1) ?_ e _ _ _ h
    unfold readTable
    simp only [List.forall_mem_append]
    exact ⟨⟨readsHub_changes, readsBlocks_changes⟩, readsCore_changes⟩
  · exact h

theorem State.regReadAt_changes {s₀ : State} {s : State} {src : Nat} {a : Nat} {width : Nat} (h : Changes s₀ s) : Changes s₀ (State.regReadAt s src a width).1 := by
  unfold State.regReadAt
  try dsimp only
  repeat' (first | with_reducible assumption | with_reducible apply State.regValue_changes | with_reducible apply Changes.ite | with_reducible refine Changes.elim _ ?_ (fun b => ?_) | with_reducible apply Changes.ite_fst | with_reducible apply Changes.ite_snd | with_reducible refine Changes.foldl _ (fun v b hv => ?_) ?_ | with_reducible refine Changes.foldl_fst _ (fun v b hv => ?_) ?_ | with_reducible refine Changes.foldl_snd _ (fun v b hv => ?_) ?_ | dsimp only | split | refine Changes.of_fst_eq (by assumption) ?_)

theorem State.access_changes {s₀ : State} {s : State} {src : Nat} {session : Nat} {a : Access} (h : Changes s₀ s) : Changes s₀ (State.access s src session a).1 := by
  unfold State.access
  try dsimp only
  repeat' (first | with_reducible assumption | with_reducible apply State.regWriteAt_changes | with_reducible apply State.writeEnd_changes | with_reducible apply State.regReadAt_changes | with_reducible apply State.busError_changes | with_reducible apply State.memorySide_changes | with_reducible apply Changes.ite | with_reducible refine Changes.elim _ ?_ (fun b => ?_) | with_reducible apply Changes.ite_fst | with_reducible apply Changes.ite_snd | with_reducible refine Changes.foldl _ (fun v b hv => ?_) ?_ | with_reducible refine Changes.foldl_fst _ (fun v b hv => ?_) ?_ | with_reducible refine Changes.foldl_snd _ (fun v b hv => ?_) ?_ | dsimp only | split | refine Changes.of_fst_eq (by assumption) ?_ | with_reducible apply Changes.made | exact .left _ (by assumption) rfl rfl rfl rfl | exact .kept _ (by assumption) rfl rfl rfl rfl)

theorem execRegisterWrite_changes {s₀ : State} {src : Nat} {addr : Nat} {width : Nat} {value : Nat} {s : State} (h : Changes s₀ s) : OutChanges s₀ (execRegisterWrite src addr width value s) := by
  unfold execRegisterWrite
  try dsimp only
  repeat' (first | with_reducible assumption | with_reducible apply OutChanges.unit | with_reducible apply OutChanges.due | with_reducible apply OutChanges.next | with_reducible apply OutChanges.fault | with_reducible apply OutChanges.ite | with_reducible apply State.access_changes | with_reducible apply State.memoryCommand_changes | with_reducible apply Changes.ite | with_reducible refine Changes.elim _ ?_ (fun b => ?_) | with_reducible apply Changes.ite_fst | with_reducible apply Changes.ite_snd | with_reducible refine Changes.foldl _ (fun v b hv => ?_) ?_ | with_reducible refine Changes.foldl_fst _ (fun v b hv => ?_) ?_ | with_reducible refine Changes.foldl_snd _ (fun v b hv => ?_) ?_ | dsimp only | split | refine Changes.of_fst_eq (by assumption) ?_)

end Sys2Proof.Machine
end

