-- ==== Sys2Proof/Laws/ChangesBoot.lean ====
section
/-! SUPPORT. The state after each definition of Sys2Proof/Machine/Boot.lean is reached by the model's own kinds of update. -/

namespace Sys2Proof.Machine

theorem State.internalReset_changes {s₀ : State} {s : State} (h : Changes s₀ s) : Changes s₀ (State.internalReset s) := by
  unfold State.internalReset
  have hr := State.rebaseAll_changes (t := s.refTick) h
  exact State.fset_changes (State.fset_changes (.kept (fun e => keptByRetry e.1) hr rfl rfl rfl rfl))

theorem State.modBoot_changes {s₀ : State} {s : State} {f : Boot → Boot} (h : Changes s₀ s) : Changes s₀ (State.modBoot s f) := by
  unfold State.modBoot
  try dsimp only
  repeat' (first | with_reducible assumption | with_reducible apply Changes.ite | with_reducible refine Changes.elim _ ?_ (fun b => ?_) | with_reducible apply Changes.ite_fst | with_reducible apply Changes.ite_snd | with_reducible refine Changes.foldl _ (fun v b hv => ?_) ?_ | with_reducible refine Changes.foldl_fst _ (fun v b hv => ?_) ?_ | with_reducible refine Changes.foldl_snd _ (fun v b hv => ?_) ?_ | dsimp only | split | refine Changes.of_fst_eq (by assumption) ?_ | with_reducible apply Changes.made | exact .left _ (by assumption) rfl rfl rfl rfl | exact .kept _ (by assumption) rfl rfl rfl rfl)

theorem State.bootFail_changes {s₀ : State} {s : State} {reason : Nat} {detail : Option Nat} (h : Changes s₀ s) : Changes s₀ (State.bootFail s reason detail) := by
  unfold State.bootFail
  try dsimp only
  repeat' (first | with_reducible assumption | with_reducible apply State.free_changes | with_reducible apply State.fadd_changes | with_reducible apply State.fset_changes | with_reducible apply State.modBoot_changes | with_reducible apply State.internalReset_changes | with_reducible apply Changes.ite | with_reducible refine Changes.elim _ ?_ (fun b => ?_) | with_reducible apply Changes.ite_fst | with_reducible apply Changes.ite_snd | with_reducible refine Changes.foldl _ (fun v b hv => ?_) ?_ | with_reducible refine Changes.foldl_fst _ (fun v b hv => ?_) ?_ | with_reducible refine Changes.foldl_snd _ (fun v b hv => ?_) ?_ | dsimp only | split | refine Changes.of_fst_eq (by assumption) ?_ | with_reducible apply Changes.made | exact .left _ (by assumption) rfl rfl rfl rfl | exact .kept _ (by assumption) rfl rfl rfl rfl)

theorem State.bootManifest_changes {s₀ : State} {s : State} {h1 : List Byte} (h : Changes s₀ s) : Changes s₀ (State.bootManifest s h1) := by
  unfold State.bootManifest
  try dsimp only
  repeat' (first | with_reducible assumption | with_reducible apply State.bootFail_changes | with_reducible apply State.writeBytes_changes | with_reducible apply State.fset_changes | with_reducible apply State.modBoot_changes | with_reducible apply Changes.ite | with_reducible refine Changes.elim _ ?_ (fun b => ?_) | with_reducible apply Changes.ite_fst | with_reducible apply Changes.ite_snd | with_reducible refine Changes.foldl _ (fun v b hv => ?_) ?_ | with_reducible refine Changes.foldl_fst _ (fun v b hv => ?_) ?_ | with_reducible refine Changes.foldl_snd _ (fun v b hv => ?_) ?_ | dsimp only | split | refine Changes.of_fst_eq (by assumption) ?_ | with_reducible apply Changes.made | exact .left _ (by assumption) rfl rfl rfl rfl | exact .kept _ (by assumption) rfl rfl rfl rfl)

theorem State.bootAttempt_changes {s₀ : State} {s : State} (h : Changes s₀ s) : Changes s₀ (State.bootAttempt s) := by
  unfold State.bootAttempt
  try dsimp only
  repeat' (first | with_reducible assumption | with_reducible apply State.modNvm_changes | with_reducible apply State.fset_changes | with_reducible apply State.bootManifest_changes | with_reducible apply State.bootFail_changes | with_reducible apply Changes.ite | with_reducible refine Changes.elim _ ?_ (fun b => ?_) | with_reducible apply Changes.ite_fst | with_reducible apply Changes.ite_snd | with_reducible refine Changes.foldl _ (fun v b hv => ?_) ?_ | with_reducible refine Changes.foldl_fst _ (fun v b hv => ?_) ?_ | with_reducible refine Changes.foldl_snd _ (fun v b hv => ?_) ?_ | dsimp only | split | refine Changes.of_fst_eq (by assumption) ?_)

theorem execBootAttempt_changes {s₀ : State} {s : State} (h : Changes s₀ s) : OutChanges s₀ (execBootAttempt s) := by
  unfold execBootAttempt
  try dsimp only
  repeat' (first | with_reducible assumption | with_reducible apply OutChanges.unit | with_reducible apply OutChanges.due | with_reducible apply OutChanges.next | with_reducible apply OutChanges.fault | with_reducible apply OutChanges.ite | with_reducible apply State.bootAttempt_changes | with_reducible apply Changes.ite | with_reducible refine Changes.elim _ ?_ (fun b => ?_) | with_reducible apply Changes.ite_fst | with_reducible apply Changes.ite_snd | with_reducible refine Changes.foldl _ (fun v b hv => ?_) ?_ | with_reducible refine Changes.foldl_fst _ (fun v b hv => ?_) ?_ | with_reducible refine Changes.foldl_snd _ (fun v b hv => ?_) ?_ | dsimp only | split | refine Changes.of_fst_eq (by assumption) ?_)

theorem State.bootPiece_changes {s₀ : State} {s : State} {g : Segment} {b : Nat} {block : List Byte} (h : Changes s₀ s) : Changes s₀ (State.bootPiece s g b block) := by
  unfold State.bootPiece
  try dsimp only
  repeat' (first | with_reducible assumption | with_reducible apply State.modBoot_changes | with_reducible apply State.hubWrite_changes | with_reducible apply State.writeBytes_changes | with_reducible apply Changes.ite | with_reducible refine Changes.elim _ ?_ (fun b => ?_) | with_reducible apply Changes.ite_fst | with_reducible apply Changes.ite_snd | with_reducible refine Changes.foldl _ (fun v b hv => ?_) ?_ | with_reducible refine Changes.foldl_fst _ (fun v b hv => ?_) ?_ | with_reducible refine Changes.foldl_snd _ (fun v b hv => ?_) ?_ | dsimp only | split | refine Changes.of_fst_eq (by assumption) ?_)

theorem State.bootBlock_changes {s₀ : State} {s : State} {block : List Byte} (h : Changes s₀ s) : Changes s₀ (State.bootBlock s block) := by
  unfold State.bootBlock
  try dsimp only
  repeat' (first | with_reducible assumption | with_reducible apply State.bootFail_changes | with_reducible apply State.bootPiece_changes | with_reducible apply State.modBoot_changes | with_reducible apply Changes.ite | with_reducible refine Changes.elim _ ?_ (fun b => ?_) | with_reducible apply Changes.ite_fst | with_reducible apply Changes.ite_snd | with_reducible refine Changes.foldl _ (fun v b hv => ?_) ?_ | with_reducible refine Changes.foldl_fst _ (fun v b hv => ?_) ?_ | with_reducible refine Changes.foldl_snd _ (fun v b hv => ?_) ?_ | dsimp only | split | refine Changes.of_fst_eq (by assumption) ?_ | with_reducible apply Changes.made | exact .left _ (by assumption) rfl rfl rfl rfl | exact .kept _ (by assumption) rfl rfl rfl rfl)

theorem execBootBlockLoad_changes {s₀ : State} {s : State} (h : Changes s₀ s) : OutChanges s₀ (execBootBlockLoad s) := by
  unfold execBootBlockLoad
  try dsimp only
  repeat' (first | with_reducible assumption | with_reducible apply OutChanges.unit | with_reducible apply OutChanges.due | with_reducible apply OutChanges.next | with_reducible apply OutChanges.fault | with_reducible apply OutChanges.ite | with_reducible apply State.bootBlock_changes | with_reducible apply Changes.ite | with_reducible refine Changes.elim _ ?_ (fun b => ?_) | with_reducible apply Changes.ite_fst | with_reducible apply Changes.ite_snd | with_reducible refine Changes.foldl _ (fun v b hv => ?_) ?_ | with_reducible refine Changes.foldl_fst _ (fun v b hv => ?_) ?_ | with_reducible refine Changes.foldl_snd _ (fun v b hv => ?_) ?_ | dsimp only | split | refine Changes.of_fst_eq (by assumption) ?_)

theorem State.clearDram_changes {s₀ : State} {s : State} (h : Changes s₀ s) : Changes s₀ (State.clearDram s) := by
  unfold State.clearDram
  try dsimp only
  repeat' (first | with_reducible assumption | with_reducible apply Changes.ite | with_reducible refine Changes.elim _ ?_ (fun b => ?_) | with_reducible apply Changes.ite_fst | with_reducible apply Changes.ite_snd | with_reducible refine Changes.foldl _ (fun v b hv => ?_) ?_ | with_reducible refine Changes.foldl_fst _ (fun v b hv => ?_) ?_ | with_reducible refine Changes.foldl_snd _ (fun v b hv => ?_) ?_ | dsimp only | split | refine Changes.of_fst_eq (by assumption) ?_ | with_reducible apply Changes.made | exact .left _ (by assumption) rfl rfl rfl rfl | exact .kept _ (by assumption) rfl rfl rfl rfl)

theorem execBootHardwareInitComplete_changes {s₀ : State} {failedCores : List Nat} {hubFailed : Bool} {s : State} (h : Changes s₀ s) : OutChanges s₀ (execBootHardwareInitComplete failedCores hubFailed s) := by
  unfold execBootHardwareInitComplete
  try dsimp only
  repeat' (first | with_reducible assumption | with_reducible apply OutChanges.unit | with_reducible apply OutChanges.due | with_reducible apply OutChanges.next | with_reducible apply OutChanges.fault | with_reducible apply OutChanges.ite | with_reducible apply State.initPart_changes | with_reducible apply State.clearDram_changes | with_reducible apply State.trainSpares_changes | with_reducible apply State.fset_changes | with_reducible apply State.latchScope_changes | with_reducible apply State.bootFail_changes | with_reducible apply State.modBoot_changes | with_reducible apply Changes.ite | with_reducible refine Changes.elim _ ?_ (fun b => ?_) | with_reducible apply Changes.ite_fst | with_reducible apply Changes.ite_snd | with_reducible refine Changes.foldl _ (fun v b hv => ?_) ?_ | with_reducible refine Changes.foldl_fst _ (fun v b hv => ?_) ?_ | with_reducible refine Changes.foldl_snd _ (fun v b hv => ?_) ?_ | dsimp only | split | refine Changes.of_fst_eq (by assumption) ?_)

theorem State.applyConfig_changes {s₀ : State} {s : State} {d : List Byte} {i : Nat} {y3 : Nat} (h : Changes s₀ s) : Changes s₀ (State.applyConfig s d i y3).1 := by
  fun_induction State.applyConfig s d i y3
  all_goals try dsimp only
  all_goals repeat' (first | with_reducible assumption | with_reducible apply State.access_changes | with_reducible apply Changes.ite | with_reducible refine Changes.elim _ ?_ (fun b => ?_) | with_reducible apply Changes.ite_fst | with_reducible apply Changes.ite_snd | with_reducible refine Changes.foldl _ (fun v b hv => ?_) ?_ | with_reducible refine Changes.foldl_fst _ (fun v b hv => ?_) ?_ | with_reducible refine Changes.foldl_snd _ (fun v b hv => ?_) ?_ | dsimp only | split | refine Changes.of_fst_eq (by assumption) ?_ | rename_i ih; with_reducible apply ih | rename_i ih _; with_reducible apply ih | rename_i ih _ _; with_reducible apply ih | rename_i ih _ _ _; with_reducible apply ih)

theorem State.bootStart_changes {s₀ : State} {s : State} (h : Changes s₀ s) : Changes s₀ (State.bootStart s) := by
  unfold State.bootStart
  try dsimp only
  repeat' (first | with_reducible assumption | with_reducible apply State.rset_changes | with_reducible apply State.fset_changes | with_reducible apply Changes.ite | with_reducible refine Changes.elim _ ?_ (fun b => ?_) | with_reducible apply Changes.ite_fst | with_reducible apply Changes.ite_snd | with_reducible refine Changes.foldl _ (fun v b hv => ?_) ?_ | with_reducible refine Changes.foldl_fst _ (fun v b hv => ?_) ?_ | with_reducible refine Changes.foldl_snd _ (fun v b hv => ?_) ?_ | dsimp only | split | refine Changes.of_fst_eq (by assumption) ?_ | with_reducible apply Changes.made | exact .left _ (by assumption) rfl rfl rfl rfl | exact .kept _ (by assumption) rfl rfl rfl rfl)

theorem execBootComplete_changes {s₀ : State} {s : State} (h : Changes s₀ s) : OutChanges s₀ (execBootComplete s) := by
  unfold execBootComplete
  try dsimp only
  repeat' (first | with_reducible assumption | with_reducible apply OutChanges.unit | with_reducible apply OutChanges.due | with_reducible apply OutChanges.next | with_reducible apply OutChanges.fault | with_reducible apply OutChanges.ite | with_reducible apply State.applyConfig_changes | with_reducible apply State.bootFail_changes | with_reducible apply State.bootStart_changes | with_reducible apply Changes.ite | with_reducible refine Changes.elim _ ?_ (fun b => ?_) | with_reducible apply Changes.ite_fst | with_reducible apply Changes.ite_snd | with_reducible refine Changes.foldl _ (fun v b hv => ?_) ?_ | with_reducible refine Changes.foldl_fst _ (fun v b hv => ?_) ?_ | with_reducible refine Changes.foldl_snd _ (fun v b hv => ?_) ?_ | dsimp only | split | refine Changes.of_fst_eq (by assumption) ?_)

theorem execBootRetry_changes {s₀ : State} {s : State} (h : Changes s₀ s) : OutChanges s₀ (execBootRetry s) := by
  unfold execBootRetry
  try dsimp only
  repeat' (first | with_reducible assumption | with_reducible apply OutChanges.unit | with_reducible apply OutChanges.due | with_reducible apply OutChanges.next | with_reducible apply OutChanges.fault | with_reducible apply OutChanges.ite | with_reducible apply State.modBoot_changes | with_reducible apply State.fset_changes | with_reducible apply Changes.ite | with_reducible refine Changes.elim _ ?_ (fun b => ?_) | with_reducible apply Changes.ite_fst | with_reducible apply Changes.ite_snd | with_reducible refine Changes.foldl _ (fun v b hv => ?_) ?_ | with_reducible refine Changes.foldl_fst _ (fun v b hv => ?_) ?_ | with_reducible refine Changes.foldl_snd _ (fun v b hv => ?_) ?_ | dsimp only | split | refine Changes.of_fst_eq (by assumption) ?_)

theorem State.putReport_changes {s₀ : State} {s : State} {b : List Byte} (h : Changes s₀ s) : Changes s₀ (State.putReport s b) := by
  unfold State.putReport
  try dsimp only
  repeat' (first | with_reducible assumption | with_reducible apply State.rset_changes | with_reducible apply Changes.ite | with_reducible refine Changes.elim _ ?_ (fun b => ?_) | with_reducible apply Changes.ite_fst | with_reducible apply Changes.ite_snd | with_reducible refine Changes.foldl _ (fun v b hv => ?_) ?_ | with_reducible refine Changes.foldl_fst _ (fun v b hv => ?_) ?_ | with_reducible refine Changes.foldl_snd _ (fun v b hv => ?_) ?_ | dsimp only | split | refine Changes.of_fst_eq (by assumption) ?_)

theorem execAttestDone_changes {s₀ : State} {s : State} (h : Changes s₀ s) : OutChanges s₀ (execAttestDone s) := by
  unfold execAttestDone
  try dsimp only
  repeat' (first | with_reducible assumption | with_reducible apply OutChanges.unit | with_reducible apply OutChanges.due | with_reducible apply OutChanges.next | with_reducible apply OutChanges.fault | with_reducible apply OutChanges.ite | with_reducible apply State.fset_changes | with_reducible apply State.putReport_changes | with_reducible apply Changes.ite | with_reducible refine Changes.elim _ ?_ (fun b => ?_) | with_reducible apply Changes.ite_fst | with_reducible apply Changes.ite_snd | with_reducible refine Changes.foldl _ (fun v b hv => ?_) ?_ | with_reducible refine Changes.foldl_fst _ (fun v b hv => ?_) ?_ | with_reducible refine Changes.foldl_snd _ (fun v b hv => ?_) ?_ | dsimp only | split | refine Changes.of_fst_eq (by assumption) ?_)

end Sys2Proof.Machine
end

