-- ==== Sys2Proof/Laws/ChangesHmp.lean ====
section
/-! SUPPORT. The state after each definition of Sys2Proof/Machine/Hmp.lean is reached by the model's own kinds of update. -/

namespace Sys2Proof.Machine

theorem State.markCharged_changes {s₀ : State} {s : State} {r : HmpReq} (h : Changes s₀ s) : Changes s₀ (State.markCharged s r) := by
  unfold State.markCharged
  try dsimp only
  repeat' (first | with_reducible assumption | with_reducible apply State.modHmp_changes | with_reducible apply Changes.ite | with_reducible refine Changes.elim _ ?_ (fun b => ?_) | with_reducible apply Changes.ite_fst | with_reducible apply Changes.ite_snd | with_reducible refine Changes.foldl _ (fun v b hv => ?_) ?_ | with_reducible refine Changes.foldl_fst _ (fun v b hv => ?_) ?_ | with_reducible refine Changes.foldl_snd _ (fun v b hv => ?_) ?_ | dsimp only | split | refine Changes.of_fst_eq (by assumption) ?_)

theorem State.dropReq_changes {s₀ : State} {s : State} {r : HmpReq} (h : Changes s₀ s) : Changes s₀ (State.dropReq s r) := by
  unfold State.dropReq
  try dsimp only
  repeat' (first | with_reducible assumption | with_reducible apply State.modHmp_changes | with_reducible apply Changes.ite | with_reducible refine Changes.elim _ ?_ (fun b => ?_) | with_reducible apply Changes.ite_fst | with_reducible apply Changes.ite_snd | with_reducible refine Changes.foldl _ (fun v b hv => ?_) ?_ | with_reducible refine Changes.foldl_fst _ (fun v b hv => ?_) ?_ | with_reducible refine Changes.foldl_snd _ (fun v b hv => ?_) ?_ | dsimp only | split | refine Changes.of_fst_eq (by assumption) ?_)

theorem hmpCmd_changes {s₀ : State} {want : Nat → Bool} {s : State} {cost : HmpReq → State → Nat} {body : HmpReq → State → State} (h : Changes s₀ s) (he : ∀ r u, Changes s₀ u → Changes s₀ (body r u)) : OutChanges s₀ (hmpCmd want s cost body) := by
  unfold hmpCmd
  try dsimp only
  repeat' (first | with_reducible assumption | with_reducible apply he | with_reducible apply OutChanges.unit | with_reducible apply OutChanges.due | with_reducible apply OutChanges.next | with_reducible apply OutChanges.fault | with_reducible apply OutChanges.ite | with_reducible apply State.chargeTx_changes | with_reducible apply State.respond_changes | with_reducible apply State.dropReq_changes | with_reducible apply State.markCharged_changes | with_reducible apply Changes.ite | with_reducible refine Changes.elim _ ?_ (fun b => ?_) | with_reducible apply Changes.ite_fst | with_reducible apply Changes.ite_snd | with_reducible refine Changes.foldl _ (fun v b hv => ?_) ?_ | with_reducible refine Changes.foldl_fst _ (fun v b hv => ?_) ?_ | with_reducible refine Changes.foldl_snd _ (fun v b hv => ?_) ?_ | dsimp only | split | refine Changes.of_fst_eq (by assumption) ?_)

theorem State.openSlot_changes {s₀ : State} {s : State} {r : HmpReq} {k : Nat} {timeout : Nat} (h : Changes s₀ s) : Changes s₀ (State.openSlot s r k timeout) := by
  unfold State.openSlot
  try dsimp only
  repeat' (first | with_reducible assumption | with_reducible apply State.modSession_changes | with_reducible apply State.rset_changes | with_reducible apply State.fadd_changes | with_reducible apply State.fset_changes | with_reducible apply Changes.ite | with_reducible refine Changes.elim _ ?_ (fun b => ?_) | with_reducible apply Changes.ite_fst | with_reducible apply Changes.ite_snd | with_reducible refine Changes.foldl _ (fun v b hv => ?_) ?_ | with_reducible refine Changes.foldl_fst _ (fun v b hv => ?_) ?_ | with_reducible refine Changes.foldl_snd _ (fun v b hv => ?_) ?_ | dsimp only | split | refine Changes.of_fst_eq (by assumption) ?_)

theorem State.sessionOpen_changes {s₀ : State} {r : HmpReq} {s : State} (h : Changes s₀ s) : Changes s₀ (State.sessionOpen r s) := by
  unfold State.sessionOpen
  try dsimp only
  repeat' (first | with_reducible assumption | with_reducible apply State.expireSession_changes | with_reducible apply State.respondAs_changes | with_reducible apply State.free_changes | with_reducible apply State.openSlot_changes | with_reducible apply Changes.ite | with_reducible refine Changes.elim _ ?_ (fun b => ?_) | with_reducible apply Changes.ite_fst | with_reducible apply Changes.ite_snd | with_reducible refine Changes.foldl _ (fun v b hv => ?_) ?_ | with_reducible refine Changes.foldl_fst _ (fun v b hv => ?_) ?_ | with_reducible refine Changes.foldl_snd _ (fun v b hv => ?_) ?_ | dsimp only | split | refine Changes.of_fst_eq (by assumption) ?_)

theorem execSessionOpen_changes {s₀ : State} {s : State} (h : Changes s₀ s) : OutChanges s₀ (execSessionOpen s) := by
  unfold execSessionOpen
  try dsimp only
  repeat' (first | with_reducible assumption | with_reducible apply OutChanges.unit | with_reducible apply OutChanges.due | with_reducible apply OutChanges.next | with_reducible apply OutChanges.fault | with_reducible apply OutChanges.ite | with_reducible apply hmpCmd_changes | with_reducible apply State.sessionOpen_changes | with_reducible apply Changes.ite | with_reducible refine Changes.elim _ ?_ (fun b => ?_) | with_reducible apply Changes.ite_fst | with_reducible apply Changes.ite_snd | with_reducible refine Changes.foldl _ (fun v b hv => ?_) ?_ | with_reducible refine Changes.foldl_fst _ (fun v b hv => ?_) ?_ | with_reducible refine Changes.foldl_snd _ (fun v b hv => ?_) ?_ | dsimp only | split | with_reducible refine fun _ _ hu => ?_ | with_reducible refine fun _ hu => ?_ | refine Changes.of_fst_eq (by assumption) ?_)

theorem State.sessionClose_changes {s₀ : State} {r : HmpReq} {s : State} (h : Changes s₀ s) : Changes s₀ (State.sessionClose r s) := by
  unfold State.sessionClose
  try dsimp only
  repeat' (first | with_reducible assumption | with_reducible apply State.closeSession_changes | with_reducible apply State.respond_changes | with_reducible apply Changes.ite | with_reducible refine Changes.elim _ ?_ (fun b => ?_) | with_reducible apply Changes.ite_fst | with_reducible apply Changes.ite_snd | with_reducible refine Changes.foldl _ (fun v b hv => ?_) ?_ | with_reducible refine Changes.foldl_fst _ (fun v b hv => ?_) ?_ | with_reducible refine Changes.foldl_snd _ (fun v b hv => ?_) ?_ | dsimp only | split | refine Changes.of_fst_eq (by assumption) ?_)

theorem execSessionClose_changes {s₀ : State} {s : State} (h : Changes s₀ s) : OutChanges s₀ (execSessionClose s) := by
  unfold execSessionClose
  try dsimp only
  repeat' (first | with_reducible assumption | with_reducible apply OutChanges.unit | with_reducible apply OutChanges.due | with_reducible apply OutChanges.next | with_reducible apply OutChanges.fault | with_reducible apply OutChanges.ite | with_reducible apply hmpCmd_changes | with_reducible apply State.sessionClose_changes | with_reducible apply Changes.ite | with_reducible refine Changes.elim _ ?_ (fun b => ?_) | with_reducible apply Changes.ite_fst | with_reducible apply Changes.ite_snd | with_reducible refine Changes.foldl _ (fun v b hv => ?_) ?_ | with_reducible refine Changes.foldl_fst _ (fun v b hv => ?_) ?_ | with_reducible refine Changes.foldl_snd _ (fun v b hv => ?_) ?_ | dsimp only | split | with_reducible refine fun _ _ hu => ?_ | with_reducible refine fun _ hu => ?_ | refine Changes.of_fst_eq (by assumption) ?_)

theorem State.keepalive_changes {s₀ : State} {r : HmpReq} {s : State} (h : Changes s₀ s) : Changes s₀ (State.keepalive r s) := by
  unfold State.keepalive
  try dsimp only
  repeat' (first | with_reducible assumption | with_reducible apply State.respond_changes | with_reducible apply Changes.ite | with_reducible refine Changes.elim _ ?_ (fun b => ?_) | with_reducible apply Changes.ite_fst | with_reducible apply Changes.ite_snd | with_reducible refine Changes.foldl _ (fun v b hv => ?_) ?_ | with_reducible refine Changes.foldl_fst _ (fun v b hv => ?_) ?_ | with_reducible refine Changes.foldl_snd _ (fun v b hv => ?_) ?_ | dsimp only | split | refine Changes.of_fst_eq (by assumption) ?_)

theorem execKeepalive_changes {s₀ : State} {s : State} (h : Changes s₀ s) : OutChanges s₀ (execKeepalive s) := by
  unfold execKeepalive
  try dsimp only
  repeat' (first | with_reducible assumption | with_reducible apply OutChanges.unit | with_reducible apply OutChanges.due | with_reducible apply OutChanges.next | with_reducible apply OutChanges.fault | with_reducible apply OutChanges.ite | with_reducible apply hmpCmd_changes | with_reducible apply State.keepalive_changes | with_reducible apply Changes.ite | with_reducible refine Changes.elim _ ?_ (fun b => ?_) | with_reducible apply Changes.ite_fst | with_reducible apply Changes.ite_snd | with_reducible refine Changes.foldl _ (fun v b hv => ?_) ?_ | with_reducible refine Changes.foldl_fst _ (fun v b hv => ?_) ?_ | with_reducible refine Changes.foldl_snd _ (fun v b hv => ?_) ?_ | dsimp only | split | with_reducible refine fun _ _ hu => ?_ | with_reducible refine fun _ hu => ?_ | refine Changes.of_fst_eq (by assumption) ?_)

theorem State.accesses_changes {s₀ : State} {s : State} {src : Nat} {session : Nat} {y3 : List Access} (h : Changes s₀ s) : Changes s₀ (State.accesses s src session y3).1 := by
  fun_induction State.accesses s src session y3
  all_goals try dsimp only
  all_goals repeat' (first | with_reducible assumption | with_reducible apply State.access_changes | with_reducible apply Changes.ite | with_reducible refine Changes.elim _ ?_ (fun b => ?_) | with_reducible apply Changes.ite_fst | with_reducible apply Changes.ite_snd | with_reducible refine Changes.foldl _ (fun v b hv => ?_) ?_ | with_reducible refine Changes.foldl_fst _ (fun v b hv => ?_) ?_ | with_reducible refine Changes.foldl_snd _ (fun v b hv => ?_) ?_ | dsimp only | split | refine Changes.of_fst_eq (by assumption) ?_ | rename_i ih; with_reducible apply ih | rename_i ih _; with_reducible apply ih | rename_i ih _ _; with_reducible apply ih | rename_i ih _ _ _; with_reducible apply ih)

theorem State.regMessage_changes {s₀ : State} {write : Bool} {r : HmpReq} {s : State} (h : Changes s₀ s) : Changes s₀ (State.regMessage write r s) := by
  unfold State.regMessage
  try dsimp only
  repeat' (first | with_reducible assumption | with_reducible apply State.accesses_changes | with_reducible apply State.respond_changes | with_reducible apply Changes.ite | with_reducible refine Changes.elim _ ?_ (fun b => ?_) | with_reducible apply Changes.ite_fst | with_reducible apply Changes.ite_snd | with_reducible refine Changes.foldl _ (fun v b hv => ?_) ?_ | with_reducible refine Changes.foldl_fst _ (fun v b hv => ?_) ?_ | with_reducible refine Changes.foldl_snd _ (fun v b hv => ?_) ?_ | dsimp only | split | refine Changes.of_fst_eq (by assumption) ?_)

theorem execRegRead_changes {s₀ : State} {s : State} (h : Changes s₀ s) : OutChanges s₀ (execRegRead s) := by
  unfold execRegRead
  try dsimp only
  repeat' (first | with_reducible assumption | with_reducible apply OutChanges.unit | with_reducible apply OutChanges.due | with_reducible apply OutChanges.next | with_reducible apply OutChanges.fault | with_reducible apply OutChanges.ite | with_reducible apply hmpCmd_changes | with_reducible apply State.regMessage_changes | with_reducible apply Changes.ite | with_reducible refine Changes.elim _ ?_ (fun b => ?_) | with_reducible apply Changes.ite_fst | with_reducible apply Changes.ite_snd | with_reducible refine Changes.foldl _ (fun v b hv => ?_) ?_ | with_reducible refine Changes.foldl_fst _ (fun v b hv => ?_) ?_ | with_reducible refine Changes.foldl_snd _ (fun v b hv => ?_) ?_ | dsimp only | split | with_reducible refine fun _ _ hu => ?_ | with_reducible refine fun _ hu => ?_ | refine Changes.of_fst_eq (by assumption) ?_)

theorem execRegWrite_changes {s₀ : State} {s : State} (h : Changes s₀ s) : OutChanges s₀ (execRegWrite s) := by
  unfold execRegWrite
  try dsimp only
  repeat' (first | with_reducible assumption | with_reducible apply OutChanges.unit | with_reducible apply OutChanges.due | with_reducible apply OutChanges.next | with_reducible apply OutChanges.fault | with_reducible apply OutChanges.ite | with_reducible apply hmpCmd_changes | with_reducible apply State.regMessage_changes | with_reducible apply Changes.ite | with_reducible refine Changes.elim _ ?_ (fun b => ?_) | with_reducible apply Changes.ite_fst | with_reducible apply Changes.ite_snd | with_reducible refine Changes.foldl _ (fun v b hv => ?_) ?_ | with_reducible refine Changes.foldl_fst _ (fun v b hv => ?_) ?_ | with_reducible refine Changes.foldl_snd _ (fun v b hv => ?_) ?_ | dsimp only | split | with_reducible refine fun _ _ hu => ?_ | with_reducible refine fun _ hu => ?_ | refine Changes.of_fst_eq (by assumption) ?_)

theorem State.pushAll_changes {s₀ : State} {s : State} {q : Nat} {y2 : List Nat} (h : Changes s₀ s) : Changes s₀ (State.pushAll s q y2).1 := by
  fun_induction State.pushAll s q y2
  all_goals try dsimp only
  all_goals repeat' (first | with_reducible assumption | with_reducible apply State.pushDesc_changes | with_reducible apply Changes.ite | with_reducible refine Changes.elim _ ?_ (fun b => ?_) | with_reducible apply Changes.ite_fst | with_reducible apply Changes.ite_snd | with_reducible refine Changes.foldl _ (fun v b hv => ?_) ?_ | with_reducible refine Changes.foldl_fst _ (fun v b hv => ?_) ?_ | with_reducible refine Changes.foldl_snd _ (fun v b hv => ?_) ?_ | dsimp only | split | refine Changes.of_fst_eq (by assumption) ?_ | rename_i ih; with_reducible apply ih | rename_i ih _; with_reducible apply ih | rename_i ih _ _; with_reducible apply ih | rename_i ih _ _ _; with_reducible apply ih)

theorem State.queuePush_changes {s₀ : State} {r : HmpReq} {s : State} (h : Changes s₀ s) : Changes s₀ (State.queuePush r s) := by
  unfold State.queuePush
  try dsimp only
  repeat' (first | with_reducible assumption | with_reducible apply State.pushAll_changes | with_reducible apply State.respond_changes | with_reducible apply Changes.ite | with_reducible refine Changes.elim _ ?_ (fun b => ?_) | with_reducible apply Changes.ite_fst | with_reducible apply Changes.ite_snd | with_reducible refine Changes.foldl _ (fun v b hv => ?_) ?_ | with_reducible refine Changes.foldl_fst _ (fun v b hv => ?_) ?_ | with_reducible refine Changes.foldl_snd _ (fun v b hv => ?_) ?_ | dsimp only | split | refine Changes.of_fst_eq (by assumption) ?_)

theorem execQueuePush_changes {s₀ : State} {s : State} (h : Changes s₀ s) : OutChanges s₀ (execQueuePush s) := by
  unfold execQueuePush
  try dsimp only
  repeat' (first | with_reducible assumption | with_reducible apply OutChanges.unit | with_reducible apply OutChanges.due | with_reducible apply OutChanges.next | with_reducible apply OutChanges.fault | with_reducible apply OutChanges.ite | with_reducible apply hmpCmd_changes | with_reducible apply State.queuePush_changes | with_reducible apply Changes.ite | with_reducible refine Changes.elim _ ?_ (fun b => ?_) | with_reducible apply Changes.ite_fst | with_reducible apply Changes.ite_snd | with_reducible refine Changes.foldl _ (fun v b hv => ?_) ?_ | with_reducible refine Changes.foldl_fst _ (fun v b hv => ?_) ?_ | with_reducible refine Changes.foldl_snd _ (fun v b hv => ?_) ?_ | dsimp only | split | with_reducible refine fun _ _ hu => ?_ | with_reducible refine fun _ hu => ?_ | refine Changes.of_fst_eq (by assumption) ?_)

theorem State.hmpReads_changes {s₀ : State} {s : State} {y1 : List (Nat × Nat)} (h : Changes s₀ s) : Changes s₀ (State.hmpReads s y1).1 := by
  fun_induction State.hmpReads s y1
  all_goals try dsimp only
  all_goals repeat' (first | with_reducible assumption | with_reducible apply State.hubRead_changes | with_reducible apply Changes.ite | with_reducible refine Changes.elim _ ?_ (fun b => ?_) | with_reducible apply Changes.ite_fst | with_reducible apply Changes.ite_snd | with_reducible refine Changes.foldl _ (fun v b hv => ?_) ?_ | with_reducible refine Changes.foldl_fst _ (fun v b hv => ?_) ?_ | with_reducible refine Changes.foldl_snd _ (fun v b hv => ?_) ?_ | dsimp only | split | refine Changes.of_fst_eq (by assumption) ?_ | rename_i ih; with_reducible apply ih | rename_i ih _; with_reducible apply ih | rename_i ih _ _; with_reducible apply ih | rename_i ih _ _ _; with_reducible apply ih)

theorem State.mailboxGet_changes {s₀ : State} {r : HmpReq} {s : State} (h : Changes s₀ s) : Changes s₀ (State.mailboxGet r s) := by
  unfold State.mailboxGet
  try dsimp only
  repeat' (first | with_reducible assumption | with_reducible apply State.mbxRead_changes | with_reducible apply State.free_changes | with_reducible apply State.hmpReads_changes | with_reducible apply State.respond_changes | with_reducible apply Changes.ite | with_reducible refine Changes.elim _ ?_ (fun b => ?_) | with_reducible apply Changes.ite_fst | with_reducible apply Changes.ite_snd | with_reducible refine Changes.foldl _ (fun v b hv => ?_) ?_ | with_reducible refine Changes.foldl_fst _ (fun v b hv => ?_) ?_ | with_reducible refine Changes.foldl_snd _ (fun v b hv => ?_) ?_ | dsimp only | split | refine Changes.of_fst_eq (by assumption) ?_)

theorem execMailboxGet_changes {s₀ : State} {s : State} (h : Changes s₀ s) : OutChanges s₀ (execMailboxGet s) := by
  unfold execMailboxGet
  try dsimp only
  repeat' (first | with_reducible assumption | with_reducible apply OutChanges.unit | with_reducible apply OutChanges.due | with_reducible apply OutChanges.next | with_reducible apply OutChanges.fault | with_reducible apply OutChanges.ite | with_reducible apply hmpCmd_changes | with_reducible apply State.mailboxGet_changes | with_reducible apply Changes.ite | with_reducible refine Changes.elim _ ?_ (fun b => ?_) | with_reducible apply Changes.ite_fst | with_reducible apply Changes.ite_snd | with_reducible refine Changes.foldl _ (fun v b hv => ?_) ?_ | with_reducible refine Changes.foldl_fst _ (fun v b hv => ?_) ?_ | with_reducible refine Changes.foldl_snd _ (fun v b hv => ?_) ?_ | dsimp only | split | with_reducible refine fun _ _ hu => ?_ | with_reducible refine fun _ hu => ?_ | refine Changes.of_fst_eq (by assumption) ?_)

theorem State.commitGet_changes {s₀ : State} {r : HmpReq} {s : State} (h : Changes s₀ s) : Changes s₀ (State.commitGet r s) := by
  unfold State.commitGet
  try dsimp only
  repeat' (first | with_reducible assumption | with_reducible apply State.hmpReads_changes | with_reducible apply State.respond_changes | with_reducible apply Changes.ite | with_reducible refine Changes.elim _ ?_ (fun b => ?_) | with_reducible apply Changes.ite_fst | with_reducible apply Changes.ite_snd | with_reducible refine Changes.foldl _ (fun v b hv => ?_) ?_ | with_reducible refine Changes.foldl_fst _ (fun v b hv => ?_) ?_ | with_reducible refine Changes.foldl_snd _ (fun v b hv => ?_) ?_ | dsimp only | split | refine Changes.of_fst_eq (by assumption) ?_)

theorem execCommitGet_changes {s₀ : State} {s : State} (h : Changes s₀ s) : OutChanges s₀ (execCommitGet s) := by
  unfold execCommitGet
  try dsimp only
  repeat' (first | with_reducible assumption | with_reducible apply OutChanges.unit | with_reducible apply OutChanges.due | with_reducible apply OutChanges.next | with_reducible apply OutChanges.fault | with_reducible apply OutChanges.ite | with_reducible apply hmpCmd_changes | with_reducible apply State.commitGet_changes | with_reducible apply Changes.ite | with_reducible refine Changes.elim _ ?_ (fun b => ?_) | with_reducible apply Changes.ite_fst | with_reducible apply Changes.ite_snd | with_reducible refine Changes.foldl _ (fun v b hv => ?_) ?_ | with_reducible refine Changes.foldl_fst _ (fun v b hv => ?_) ?_ | with_reducible refine Changes.foldl_snd _ (fun v b hv => ?_) ?_ | dsimp only | split | with_reducible refine fun _ _ hu => ?_ | with_reducible refine fun _ hu => ?_ | refine Changes.of_fst_eq (by assumption) ?_)

theorem State.journalGet_changes {s₀ : State} {r : HmpReq} {s : State} (h : Changes s₀ s) : Changes s₀ (State.journalGet r s) := by
  unfold State.journalGet
  try dsimp only
  repeat' (first | with_reducible assumption | with_reducible apply State.respond_changes | with_reducible apply Changes.ite | with_reducible refine Changes.elim _ ?_ (fun b => ?_) | with_reducible apply Changes.ite_fst | with_reducible apply Changes.ite_snd | with_reducible refine Changes.foldl _ (fun v b hv => ?_) ?_ | with_reducible refine Changes.foldl_fst _ (fun v b hv => ?_) ?_ | with_reducible refine Changes.foldl_snd _ (fun v b hv => ?_) ?_ | dsimp only | split | refine Changes.of_fst_eq (by assumption) ?_)

theorem execJournalGet_changes {s₀ : State} {s : State} (h : Changes s₀ s) : OutChanges s₀ (execJournalGet s) := by
  unfold execJournalGet
  try dsimp only
  repeat' (first | with_reducible assumption | with_reducible apply OutChanges.unit | with_reducible apply OutChanges.due | with_reducible apply OutChanges.next | with_reducible apply OutChanges.fault | with_reducible apply OutChanges.ite | with_reducible apply hmpCmd_changes | with_reducible apply State.journalGet_changes | with_reducible apply Changes.ite | with_reducible refine Changes.elim _ ?_ (fun b => ?_) | with_reducible apply Changes.ite_fst | with_reducible apply Changes.ite_snd | with_reducible refine Changes.foldl _ (fun v b hv => ?_) ?_ | with_reducible refine Changes.foldl_fst _ (fun v b hv => ?_) ?_ | with_reducible refine Changes.foldl_snd _ (fun v b hv => ?_) ?_ | dsimp only | split | with_reducible refine fun _ _ hu => ?_ | with_reducible refine fun _ hu => ?_ | refine Changes.of_fst_eq (by assumption) ?_)

theorem State.toFirmware_changes {s₀ : State} {r : HmpReq} {s : State} (h : Changes s₀ s) : Changes s₀ (State.toFirmware r s) := by
  unfold State.toFirmware
  try dsimp only
  repeat' (first | with_reducible assumption | with_reducible apply State.fset_changes | with_reducible apply State.hubWrite_changes | with_reducible apply State.irq_changes | with_reducible apply State.modHmp_changes | with_reducible apply Changes.ite | with_reducible refine Changes.elim _ ?_ (fun b => ?_) | with_reducible apply Changes.ite_fst | with_reducible apply Changes.ite_snd | with_reducible refine Changes.foldl _ (fun v b hv => ?_) ?_ | with_reducible refine Changes.foldl_fst _ (fun v b hv => ?_) ?_ | with_reducible refine Changes.foldl_snd _ (fun v b hv => ?_) ?_ | dsimp only | split | refine Changes.of_fst_eq (by assumption) ?_)

theorem execModelAdmit_changes {s₀ : State} {s : State} (h : Changes s₀ s) : OutChanges s₀ (execModelAdmit s) := by
  unfold execModelAdmit
  try dsimp only
  repeat' (first | with_reducible assumption | with_reducible apply OutChanges.unit | with_reducible apply OutChanges.due | with_reducible apply OutChanges.next | with_reducible apply OutChanges.fault | with_reducible apply OutChanges.ite | with_reducible apply hmpCmd_changes | with_reducible apply State.toFirmware_changes | with_reducible apply Changes.ite | with_reducible refine Changes.elim _ ?_ (fun b => ?_) | with_reducible apply Changes.ite_fst | with_reducible apply Changes.ite_snd | with_reducible refine Changes.foldl _ (fun v b hv => ?_) ?_ | with_reducible refine Changes.foldl_fst _ (fun v b hv => ?_) ?_ | with_reducible refine Changes.foldl_snd _ (fun v b hv => ?_) ?_ | dsimp only | split | with_reducible refine fun _ _ hu => ?_ | with_reducible refine fun _ hu => ?_ | refine Changes.of_fst_eq (by assumption) ?_)

theorem execFirmware_changes {s₀ : State} {s : State} (h : Changes s₀ s) : OutChanges s₀ (execFirmware s) := by
  unfold execFirmware
  try dsimp only
  repeat' (first | with_reducible assumption | with_reducible apply OutChanges.unit | with_reducible apply OutChanges.due | with_reducible apply OutChanges.next | with_reducible apply OutChanges.fault | with_reducible apply OutChanges.ite | with_reducible apply hmpCmd_changes | with_reducible apply State.toFirmware_changes | with_reducible apply Changes.ite | with_reducible refine Changes.elim _ ?_ (fun b => ?_) | with_reducible apply Changes.ite_fst | with_reducible apply Changes.ite_snd | with_reducible refine Changes.foldl _ (fun v b hv => ?_) ?_ | with_reducible refine Changes.foldl_fst _ (fun v b hv => ?_) ?_ | with_reducible refine Changes.foldl_snd _ (fun v b hv => ?_) ?_ | dsimp only | split | with_reducible refine fun _ _ hu => ?_ | with_reducible refine fun _ hu => ?_ | refine Changes.of_fst_eq (by assumption) ?_)

theorem State.letGo_changes {s₀ : State} {s : State} {op : HeldOp} (h : Changes s₀ s) : Changes s₀ (State.letGo s op) := by
  unfold State.letGo
  try dsimp only
  repeat' (first | with_reducible assumption | with_reducible apply State.memorySide_changes | with_reducible apply State.hubWrite_changes | with_reducible apply State.timerActs_changes | with_reducible apply State.fwAnswer_changes | with_reducible apply State.admEnd_changes | with_reducible apply Changes.ite | with_reducible refine Changes.elim _ ?_ (fun b => ?_) | with_reducible apply Changes.ite_fst | with_reducible apply Changes.ite_snd | with_reducible refine Changes.foldl _ (fun v b hv => ?_) ?_ | with_reducible refine Changes.foldl_fst _ (fun v b hv => ?_) ?_ | with_reducible refine Changes.foldl_snd _ (fun v b hv => ?_) ?_ | dsimp only | split | refine Changes.of_fst_eq (by assumption) ?_)

theorem execRationPeriodBoundary_changes {s₀ : State} {s : State} (h : Changes s₀ s) : OutChanges s₀ (execRationPeriodBoundary s) := by
  unfold execRationPeriodBoundary
  try dsimp only
  repeat' (first | with_reducible assumption | with_reducible apply OutChanges.unit | with_reducible apply OutChanges.due | with_reducible apply OutChanges.next | with_reducible apply OutChanges.fault | with_reducible apply OutChanges.ite | with_reducible apply State.rationBoundary_changes | with_reducible apply State.letGo_changes | with_reducible apply State.applyStep_changes | with_reducible apply Changes.ite | with_reducible refine Changes.elim _ ?_ (fun b => ?_) | with_reducible apply Changes.ite_fst | with_reducible apply Changes.ite_snd | with_reducible refine Changes.foldl _ (fun v b hv => ?_) ?_ | with_reducible refine Changes.foldl_fst _ (fun v b hv => ?_) ?_ | with_reducible refine Changes.foldl_snd _ (fun v b hv => ?_) ?_ | dsimp only | split | refine Changes.of_fst_eq (by assumption) ?_ | with_reducible apply Changes.made | exact .left _ (by assumption) rfl rfl rfl rfl | exact .kept _ (by assumption) rfl rfl rfl rfl)

end Sys2Proof.Machine
end

