-- ==== Sys2Proof/Laws/Exec.lean ====
section
/-! SUPPORT. What any command can do, over all commands: exec changes the state by the model's own kinds of update, so it leaves the queue and
keeps the canonical forms. -/

namespace Sys2Proof.Machine

/-- Every command's next state is reached by the model's own kinds of update. -/
theorem exec_changes {s₀ s : State} (h : Changes s₀ s) (i : Instr) : OutChanges s₀ (exec i s) := by
  cases i with
  | resetAssert => exact execResetAssert_changes h
  | resetRelease _ => exact execResetRelease_changes h
  | clocksStart => exact execClocksStart_changes h
  | pllLockLoss => exact execPllLockLoss_changes h
  | referenceLoss => exact execReferenceLoss_changes h
  | clocksRestart => exact execClocksRestart_changes h
  | rationPeriodBoundary => exact execRationPeriodBoundary_changes h
  | linkReplay _ _ _ => exact execLinkReplay_changes h
  | descriptorFetch _ => exact execDescriptorFetch_changes h
  | descriptorForward _ => exact execDescriptorForward_changes h
  | nop _ => exact execNop_changes h
  | caravanBegin _ => exact execCaravanBegin_changes h
  | caravanPlace => exact execCaravanPlace_changes h
  | caravanEnd _ => exact execCaravanEnd_changes h
  | fence _ => exact execFence_changes h
  | groupOpen _ => exact execGroupOpen_changes h
  | groupStart _ => exact execGroupStart_changes h
  | memberStart _ => exact execMemberStart_changes h
  | groupEnd _ => exact execGroupEnd_changes h
  | mxaStream _ _ => exact execMxaStream_changes h
  | mxaPacked _ _ => exact execMxaPacked_changes h
  | mxaThrough _ _ => exact execMxaThrough_changes h
  | mvpMatvec _ => exact execMvpMatvec_changes h
  | winFeed _ => exact execWinFeed_changes h
  | winRegroup _ => exact execWinRegroup_changes h
  | add _ => exact execAdd_changes h
  | sub _ => exact execSub_changes h
  | mul _ => exact execMul_changes h
  | fma _ => exact execFma_changes h
  | min _ => exact execMin_changes h
  | max _ => exact execMax_changes h
  | abs _ => exact execAbs_changes h
  | neg _ => exact execNeg_changes h
  | clamp _ => exact execClamp_changes h
  | select _ => exact execSelect_changes h
  | curve _ => exact execCurve_changes h
  | convert _ => exact execConvert_changes h
  | slotAdd _ => exact execSlotAdd_changes h
  | slotToFp32 _ => exact execSlotToFp32_changes h
  | reduceSum _ => exact execReduceSum_changes h
  | reduceMax _ => exact execReduceMax_changes h
  | curveLoad _ => exact execCurveLoad_changes h
  | qntConvert _ => exact execQntConvert_changes h
  | qntAdapt _ => exact execQntAdapt_changes h
  | windowPooling _ => exact execWindowPooling_changes h
  | boxPooling _ => exact execBoxPooling_changes h
  | cropAndResize _ => exact execCropAndResize_changes h
  | movStream _ => exact execMovStream_changes h
  | movWayInTake _ => exact execMovWayInTake_changes h
  | movWayOutPut _ => exact execMovWayOutPut_changes h
  | descriptorComplete _ => exact execDescriptorComplete_changes h
  | completionRecordPost _ => exact execCompletionRecordPost_changes h
  | stagePush _ _ _ => exact execStagePush_changes h
  | tailWrite _ _ _ => exact execTailWrite_changes h
  | headWrite _ _ _ => exact execHeadWrite_changes h
  | stop _ _ => exact execStop_changes h
  | resume _ _ => exact execResume_changes h
  | resetIndex _ _ => exact execResetIndex_changes h
  | queueCfgWrite _ _ _ _ => exact execQueueCfgWrite_changes h
  | tlyAdd _ _ _ => exact execTlyAdd_changes h
  | tlySet _ _ _ => exact execTlySet_changes h
  | wayPut _ _ _ _ => exact execWayPut_changes h
  | wayTake _ _ => exact execWayTake_changes h
  | kill _ _ => exact execKill_changes h
  | runLimitExpiry _ => exact execRunLimitExpiry_changes h
  | mailboxCancel _ _ => exact execMailboxCancel_changes h
  | mailboxClaim _ _ _ _ => exact execMailboxClaim_changes h
  | taskRelease _ _ _ => exact execTaskRelease_changes h
  | zeroingBegin _ _ => exact execZeroingBegin_changes h
  | zeroingComplete _ _ => exact execZeroingComplete_changes h
  | packhorseDrain _ _ => exact execPackhorseDrain_changes h
  | correctionWriteBack _ _ => exact execCorrectionWriteBack_changes h
  | scrubRead _ _ _ => exact execScrubRead_changes h
  | eccInjectArm _ _ _ => exact execEccInjectArm_changes h
  | scratchpadWindowAccess _ _ => exact execScratchpadWindowAccess_changes h
  | wcInvalidate _ _ _ => exact execWcInvalidate_changes h
  | wcInvalidateDone _ => exact execWcInvalidateDone_changes h
  | csiFrameStart _ _ _ => exact execCsiFrameStart_changes h
  | csiLongPacket _ _ => exact execCsiLongPacket_changes h
  | csiFrameEnd _ _ _ => exact execCsiFrameEnd_changes h
  | frameTimeout _ _ => exact execFrameTimeout_changes h
  | byteClkMeasure _ _ => exact execByteClkMeasure_changes h
  | ispStreamEnable _ _ _ _ => exact execIspStreamEnable_changes h
  | ispStreamDisable _ _ _ _ => exact execIspStreamDisable_changes h
  | ispParamPush _ _ _ _ => exact execIspParamPush_changes h
  | ispParamCheckDone _ => exact execIspParamCheckDone_changes h
  | ispFrameDeliver _ _ => exact execIspFrameDeliver_changes h
  | ispEntryPut _ _ => exact execIspEntryPut_changes h
  | tdmFrameSync _ _ _ => exact execTdmFrameSync_changes h
  | tdmRateMeasure _ _ => exact execTdmRateMeasure_changes h
  | spxStreamEnable _ _ _ => exact execSpxStreamEnable_changes h
  | spxStreamDisable _ _ _ => exact execSpxStreamDisable_changes h
  | featureFrameCompute _ => exact execFeatureFrameCompute_changes h
  | spxBufferPut _ => exact execSpxBufferPut_changes h
  | spxBudgetExpiry _ => exact execSpxBudgetExpiry_changes h
  | vcdSessionOpen _ _ _ => exact execVcdSessionOpen_changes h
  | vcdSessionClose _ _ _ => exact execVcdSessionClose_changes h
  | vcdPictureStart _ => exact execVcdPictureStart_changes h
  | vcdPictureDone _ => exact execVcdPictureDone_changes h
  | vcdPictureBudgetExpiry _ => exact execVcdPictureBudgetExpiry_changes h
  | ethFrameReceive _ _ => exact execEthFrameReceive_changes h
  | ethLinkLoss _ => exact execEthLinkLoss_changes h
  | sessionOpen => exact execSessionOpen_changes h
  | sessionClose => exact execSessionClose_changes h
  | keepalive => exact execKeepalive_changes h
  | regRead => exact execRegRead_changes h
  | regWrite => exact execRegWrite_changes h
  | queuePush => exact execQueuePush_changes h
  | mailboxGet => exact execMailboxGet_changes h
  | commitGet => exact execCommitGet_changes h
  | journalGet => exact execJournalGet_changes h
  | modelAdmit => exact execModelAdmit_changes h
  | firmware => exact execFirmware_changes h
  | sessionTimeout _ => exact execSessionTimeout_changes h
  | hmpSessionCloseWrite _ _ => exact execHmpSessionCloseWrite_changes h
  | fwDone _ _ => exact execFwDone_changes h
  | fwResponseTimeout _ => exact execFwResponseTimeout_changes h
  | lastWordCopy _ => exact execLastWordCopy_changes h
  | macsecKeyWrite _ _ _ => exact execMacsecKeyWrite_changes h
  | ethFrameTransmit _ => exact execEthFrameTransmit_changes h
  | qbvCommit _ _ _ => exact execQbvCommit_changes h
  | qbvCycleBoundary _ => exact execQbvCycleBoundary_changes h
  | cbRecoveryReset _ _ => exact execCbRecoveryReset_changes h
  | mdioAccess _ _ => exact execMdioAccess_changes h
  | mdioDone _ => exact execMdioDone_changes h
  | ptpTxGo _ _ => exact execPtpTxGo_changes h
  | ptpTxDone _ => exact execPtpTxDone_changes h
  | timeSet _ _ => exact execTimeSet_changes h
  | timeStep _ _ => exact execTimeStep_changes h
  | timeRateWrite _ _ => exact execTimeRateWrite_changes h
  | timeKick _ => exact execTimeKick_changes h
  | timLock _ => exact execTimLock_changes h
  | timHold _ => exact execTimHold_changes h
  | timRelease _ => exact execTimRelease_changes h
  | syncTimeout => exact execSyncTimeout_changes h
  | timeNowRead _ => exact execTimeNowRead_changes h
  | triggerArm _ _ _ => exact execTriggerArm_changes h
  | triggerDisarm _ _ _ => exact execTriggerDisarm_changes h
  | triggerFire _ => exact execTriggerFire_changes h
  | triggerPulseEnd _ => exact execTriggerPulseEnd_changes h
  | controlTimerArm _ _ _ => exact execControlTimerArm_changes h
  | controlTimerFire _ => exact execControlTimerFire_changes h
  | captureEdge _ _ => exact execCaptureEdge_changes h
  | capturePop _ _ => exact execCapturePop_changes h
  | powerSample _ => exact execPowerSample_changes h
  | controlIntervalEnd _ => exact execControlIntervalEnd_changes h
  | activityLevelChange _ => exact execActivityLevelChange_changes h
  | thermalSample _ => exact execThermalSample_changes h
  | powerModeWrite _ _ => exact execPowerModeWrite_changes h
  | powerCapWrite _ _ => exact execPowerCapWrite_changes h
  | phaseWrite _ _ _ => exact execPhaseWrite_changes h
  | faultReport _ _ => exact execFaultReport_changes h
  | wireFault _ _ _ => exact execWireFault_changes h
  | levelFaultRereport _ _ => exact execLevelFaultRereport_changes h
  | quietPeriodExpiry _ => exact execQuietPeriodExpiry_changes h
  | recoveryPhaseComplete _ _ => exact execRecoveryPhaseComplete_changes h
  | fcuClearLatch _ _ => exact execFcuClearLatch_changes h
  | fcuCoreClear _ _ => exact execFcuCoreClear_changes h
  | faultForce _ _ _ => exact execFaultForce_changes h
  | faultInjectArm _ _ => exact execFaultInjectArm_changes h
  | wireTest _ _ => exact execWireTest_changes h
  | bootAttempt => exact execBootAttempt_changes h
  | bootBlockLoad => exact execBootBlockLoad_changes h
  | bootComplete => exact execBootComplete_changes h
  | bootRetry => exact execBootRetry_changes h
  | bootRestart _ => exact execBootRestart_changes h
  | controlCoreRelease _ _ => exact execControlCoreRelease_changes h
  | rollbackAdvance _ _ => exact execRollbackAdvance_changes h
  | keyProgram _ _ => exact execKeyProgram_changes h
  | revoke _ _ => exact execRevoke_changes h
  | nvmLock _ => exact execNvmLock_changes h
  | nvmProgramDone _ => exact execNvmProgramDone_changes h
  | begin_ => exact execBegin_changes h
  | manifest => exact execManifest_changes h
  | data => exact execData_changes h
  | finish => exact execFinish_changes h
  | abort => exact execAbort_changes h
  | remove => exact execRemove_changes h
  | admitTimeout _ => exact execAdmitTimeout_changes h
  | attestGo _ _ => exact execAttestGo_changes h
  | attestDone => exact execAttestDone_changes h
  | registerWrite _ _ _ _ => exact execRegisterWrite_changes h
  | crcCommit _ => exact execCrcCommit_changes h
  | crcPassEnd => exact execCrcPassEnd_changes h
  | irqSet _ => exact execIrqSet_changes h
  | mvpSatRowsRead _ _ => exact execMvpSatRowsRead_changes h
  | movOutstandingMaxRead _ _ => exact execMovOutstandingMaxRead_changes h
  | rationMaxHoldRead _ _ => exact execRationMaxHoldRead_changes h
  | wbFillMaxRead _ _ => exact execWbFillMaxRead_changes h
  | tempPeakRead _ => exact execTempPeakRead_changes h
  | busAccess _ => exact execBusAccess_changes h
  | idcode => exact execIdcode_changes h
  | extest => exact execExtest_changes h
  | samplePreload => exact execSamplePreload_changes h
  | bypass => exact execBypass_changes h
  | debugPortReset => exact execDebugPortReset_changes h
  | cmbWrite _ _ _ => exact execCmbWrite_changes h
  | cmbRead _ _ => exact execCmbRead_changes h
  | railCheck _ => exact execRailCheck_changes h
  | ethLinkUp _ => exact execEthLinkUp_changes h
  | csiSkewCalibration _ _ => exact execCsiSkewCalibration_changes h
  | csiClockLaneModeChange _ _ => exact execCsiClockLaneModeChange_changes h
  | bootHardwareInitComplete _ _ => exact execBootHardwareInitComplete_changes h

end Sys2Proof.Machine
end

