-- ==== Sys2Proof/Laws/State.lean ====
section
/-! SUPPORT. What each named update of the state leaves: one lemma per field and update, so that no later proof unfolds a record update. -/

set_option Elab.async false

namespace Sys2Proof.Machine

/-! ### `rset` changes `regs` alone -/

@[simp] theorem State.pending_rset (s : State) (r : Reg) (w : Word) (i j k l : Nat) : (s.rset r w i j k l).pending = s.pending := rfl
@[simp] theorem State.mem_rset (s : State) (r : Reg) (w : Word) (i j k l : Nat) : (s.rset r w i j k l).mem = s.mem := rfl
@[simp] theorem State.poison_rset (s : State) (r : Reg) (w : Word) (i j k l : Nat) : (s.rset r w i j k l).poison = s.poison := rfl
@[simp] theorem State.checkFlips_rset (s : State) (r : Reg) (w : Word) (i j k l : Nat) : (s.rset r w i j k l).checkFlips = s.checkFlips := rfl
@[simp] theorem State.stamps_rset (s : State) (r : Reg) (w : Word) (i j k l : Nat) : (s.rset r w i j k l).stamps = s.stamps := rfl
@[simp] theorem State.nor_rset (s : State) (r : Reg) (w : Word) (i j k l : Nat) : (s.rset r w i j k l).nor = s.nor := rfl
@[simp] theorem State.fuses_rset (s : State) (r : Reg) (w : Word) (i j k l : Nat) : (s.rset r w i j k l).fuses = s.fuses := rfl
@[simp] theorem State.nvm_rset (s : State) (r : Reg) (w : Word) (i j k l : Nat) : (s.rset r w i j k l).nvm = s.nvm := rfl
@[simp] theorem State.clk_rset (s : State) (r : Reg) (w : Word) (i j k l : Nat) : (s.rset r w i j k l).clk = s.clk := rfl
@[simp] theorem State.refTick_rset (s : State) (r : Reg) (w : Word) (i j k l : Nat) : (s.rset r w i j k l).refTick = s.refTick := rfl
@[simp] theorem State.ration_rset (s : State) (r : Reg) (w : Word) (i j k l : Nat) : (s.rset r w i j k l).ration = s.ration := rfl
@[simp] theorem State.wc_rset (s : State) (r : Reg) (w : Word) (i j k l : Nat) : (s.rset r w i j k l).wc = s.wc := rfl
@[simp] theorem State.drover_rset (s : State) (r : Reg) (w : Word) (i j k l : Nat) : (s.rset r w i j k l).drover = s.drover := rfl
@[simp] theorem State.cores_rset (s : State) (r : Reg) (w : Word) (i j k l : Nat) : (s.rset r w i j k l).cores = s.cores := rfl
@[simp] theorem State.fcu_rset (s : State) (r : Reg) (w : Word) (i j k l : Nat) : (s.rset r w i j k l).fcu = s.fcu := rfl
@[simp] theorem State.tim_rset (s : State) (r : Reg) (w : Word) (i j k l : Nat) : (s.rset r w i j k l).tim = s.tim := rfl
@[simp] theorem State.crc_rset (s : State) (r : Reg) (w : Word) (i j k l : Nat) : (s.rset r w i j k l).crc = s.crc := rfl
@[simp] theorem State.pins_rset (s : State) (r : Reg) (w : Word) (i j k l : Nat) : (s.rset r w i j k l).pins = s.pins := rfl
@[simp] theorem State.dbg_rset (s : State) (r : Reg) (w : Word) (i j k l : Nat) : (s.rset r w i j k l).dbg = s.dbg := rfl
@[simp] theorem State.cmb_rset (s : State) (r : Reg) (w : Word) (i j k l : Nat) : (s.rset r w i j k l).cmb = s.cmb := rfl
@[simp] theorem State.isp_rset (s : State) (r : Reg) (w : Word) (i j k l : Nat) : (s.rset r w i j k l).isp = s.isp := rfl
@[simp] theorem State.spx_rset (s : State) (r : Reg) (w : Word) (i j k l : Nat) : (s.rset r w i j k l).spx = s.spx := rfl
@[simp] theorem State.tdm_rset (s : State) (r : Reg) (w : Word) (i j k l : Nat) : (s.rset r w i j k l).tdm = s.tdm := rfl
@[simp] theorem State.vcd_rset (s : State) (r : Reg) (w : Word) (i j k l : Nat) : (s.rset r w i j k l).vcd = s.vcd := rfl
@[simp] theorem State.vcdLast_rset (s : State) (r : Reg) (w : Word) (i j k l : Nat) : (s.rset r w i j k l).vcdLast = s.vcdLast := rfl
@[simp] theorem State.eth_rset (s : State) (r : Reg) (w : Word) (i j k l : Nat) : (s.rset r w i j k l).eth = s.eth := rfl
@[simp] theorem State.hmp_rset (s : State) (r : Reg) (w : Word) (i j k l : Nat) : (s.rset r w i j k l).hmp = s.hmp := rfl
@[simp] theorem State.pwr_rset (s : State) (r : Reg) (w : Word) (i j k l : Nat) : (s.rset r w i j k l).pwr = s.pwr := rfl
@[simp] theorem State.boot_rset (s : State) (r : Reg) (w : Word) (i j k l : Nat) : (s.rset r w i j k l).boot = s.boot := rfl
@[simp] theorem State.adm_rset (s : State) (r : Reg) (w : Word) (i j k l : Nat) : (s.rset r w i j k l).adm = s.adm := rfl
@[simp] theorem State.lastAccess_rset (s : State) (r : Reg) (w : Word) (i j k l : Nat) : (s.rset r w i j k l).lastAccess = s.lastAccess := rfl
@[simp] theorem State.freeIndex_rset (s : State) (r : Reg) (w : Word) (i j k l : Nat) : (s.rset r w i j k l).freeIndex = s.freeIndex := rfl

/-! ### `fset` changes `regs` alone -/

@[simp] theorem State.pending_fset (s : State) (f : Field) (v : Nat) (i j k l : Nat) : (s.fset f v i j k l).pending = s.pending := rfl
@[simp] theorem State.mem_fset (s : State) (f : Field) (v : Nat) (i j k l : Nat) : (s.fset f v i j k l).mem = s.mem := rfl
@[simp] theorem State.poison_fset (s : State) (f : Field) (v : Nat) (i j k l : Nat) : (s.fset f v i j k l).poison = s.poison := rfl
@[simp] theorem State.checkFlips_fset (s : State) (f : Field) (v : Nat) (i j k l : Nat) : (s.fset f v i j k l).checkFlips = s.checkFlips := rfl
@[simp] theorem State.stamps_fset (s : State) (f : Field) (v : Nat) (i j k l : Nat) : (s.fset f v i j k l).stamps = s.stamps := rfl
@[simp] theorem State.nor_fset (s : State) (f : Field) (v : Nat) (i j k l : Nat) : (s.fset f v i j k l).nor = s.nor := rfl
@[simp] theorem State.fuses_fset (s : State) (f : Field) (v : Nat) (i j k l : Nat) : (s.fset f v i j k l).fuses = s.fuses := rfl
@[simp] theorem State.nvm_fset (s : State) (f : Field) (v : Nat) (i j k l : Nat) : (s.fset f v i j k l).nvm = s.nvm := rfl
@[simp] theorem State.clk_fset (s : State) (f : Field) (v : Nat) (i j k l : Nat) : (s.fset f v i j k l).clk = s.clk := rfl
@[simp] theorem State.refTick_fset (s : State) (f : Field) (v : Nat) (i j k l : Nat) : (s.fset f v i j k l).refTick = s.refTick := rfl
@[simp] theorem State.ration_fset (s : State) (f : Field) (v : Nat) (i j k l : Nat) : (s.fset f v i j k l).ration = s.ration := rfl
@[simp] theorem State.wc_fset (s : State) (f : Field) (v : Nat) (i j k l : Nat) : (s.fset f v i j k l).wc = s.wc := rfl
@[simp] theorem State.drover_fset (s : State) (f : Field) (v : Nat) (i j k l : Nat) : (s.fset f v i j k l).drover = s.drover := rfl
@[simp] theorem State.cores_fset (s : State) (f : Field) (v : Nat) (i j k l : Nat) : (s.fset f v i j k l).cores = s.cores := rfl
@[simp] theorem State.fcu_fset (s : State) (f : Field) (v : Nat) (i j k l : Nat) : (s.fset f v i j k l).fcu = s.fcu := rfl
@[simp] theorem State.tim_fset (s : State) (f : Field) (v : Nat) (i j k l : Nat) : (s.fset f v i j k l).tim = s.tim := rfl
@[simp] theorem State.crc_fset (s : State) (f : Field) (v : Nat) (i j k l : Nat) : (s.fset f v i j k l).crc = s.crc := rfl
@[simp] theorem State.pins_fset (s : State) (f : Field) (v : Nat) (i j k l : Nat) : (s.fset f v i j k l).pins = s.pins := rfl
@[simp] theorem State.dbg_fset (s : State) (f : Field) (v : Nat) (i j k l : Nat) : (s.fset f v i j k l).dbg = s.dbg := rfl
@[simp] theorem State.cmb_fset (s : State) (f : Field) (v : Nat) (i j k l : Nat) : (s.fset f v i j k l).cmb = s.cmb := rfl
@[simp] theorem State.isp_fset (s : State) (f : Field) (v : Nat) (i j k l : Nat) : (s.fset f v i j k l).isp = s.isp := rfl
@[simp] theorem State.spx_fset (s : State) (f : Field) (v : Nat) (i j k l : Nat) : (s.fset f v i j k l).spx = s.spx := rfl
@[simp] theorem State.tdm_fset (s : State) (f : Field) (v : Nat) (i j k l : Nat) : (s.fset f v i j k l).tdm = s.tdm := rfl
@[simp] theorem State.vcd_fset (s : State) (f : Field) (v : Nat) (i j k l : Nat) : (s.fset f v i j k l).vcd = s.vcd := rfl
@[simp] theorem State.vcdLast_fset (s : State) (f : Field) (v : Nat) (i j k l : Nat) : (s.fset f v i j k l).vcdLast = s.vcdLast := rfl
@[simp] theorem State.eth_fset (s : State) (f : Field) (v : Nat) (i j k l : Nat) : (s.fset f v i j k l).eth = s.eth := rfl
@[simp] theorem State.hmp_fset (s : State) (f : Field) (v : Nat) (i j k l : Nat) : (s.fset f v i j k l).hmp = s.hmp := rfl
@[simp] theorem State.pwr_fset (s : State) (f : Field) (v : Nat) (i j k l : Nat) : (s.fset f v i j k l).pwr = s.pwr := rfl
@[simp] theorem State.boot_fset (s : State) (f : Field) (v : Nat) (i j k l : Nat) : (s.fset f v i j k l).boot = s.boot := rfl
@[simp] theorem State.adm_fset (s : State) (f : Field) (v : Nat) (i j k l : Nat) : (s.fset f v i j k l).adm = s.adm := rfl
@[simp] theorem State.lastAccess_fset (s : State) (f : Field) (v : Nat) (i j k l : Nat) : (s.fset f v i j k l).lastAccess = s.lastAccess := rfl
@[simp] theorem State.freeIndex_fset (s : State) (f : Field) (v : Nat) (i j k l : Nat) : (s.fset f v i j k l).freeIndex = s.freeIndex := rfl

/-! ### `fflag` changes `regs` alone -/

@[simp] theorem State.pending_fflag (s : State) (f : Field) (v : Bool) (i j k l : Nat) : (s.fflag f v i j k l).pending = s.pending := rfl
@[simp] theorem State.mem_fflag (s : State) (f : Field) (v : Bool) (i j k l : Nat) : (s.fflag f v i j k l).mem = s.mem := rfl
@[simp] theorem State.poison_fflag (s : State) (f : Field) (v : Bool) (i j k l : Nat) : (s.fflag f v i j k l).poison = s.poison := rfl
@[simp] theorem State.checkFlips_fflag (s : State) (f : Field) (v : Bool) (i j k l : Nat) : (s.fflag f v i j k l).checkFlips = s.checkFlips := rfl
@[simp] theorem State.stamps_fflag (s : State) (f : Field) (v : Bool) (i j k l : Nat) : (s.fflag f v i j k l).stamps = s.stamps := rfl
@[simp] theorem State.nor_fflag (s : State) (f : Field) (v : Bool) (i j k l : Nat) : (s.fflag f v i j k l).nor = s.nor := rfl
@[simp] theorem State.fuses_fflag (s : State) (f : Field) (v : Bool) (i j k l : Nat) : (s.fflag f v i j k l).fuses = s.fuses := rfl
@[simp] theorem State.nvm_fflag (s : State) (f : Field) (v : Bool) (i j k l : Nat) : (s.fflag f v i j k l).nvm = s.nvm := rfl
@[simp] theorem State.clk_fflag (s : State) (f : Field) (v : Bool) (i j k l : Nat) : (s.fflag f v i j k l).clk = s.clk := rfl
@[simp] theorem State.refTick_fflag (s : State) (f : Field) (v : Bool) (i j k l : Nat) : (s.fflag f v i j k l).refTick = s.refTick := rfl
@[simp] theorem State.ration_fflag (s : State) (f : Field) (v : Bool) (i j k l : Nat) : (s.fflag f v i j k l).ration = s.ration := rfl
@[simp] theorem State.wc_fflag (s : State) (f : Field) (v : Bool) (i j k l : Nat) : (s.fflag f v i j k l).wc = s.wc := rfl
@[simp] theorem State.drover_fflag (s : State) (f : Field) (v : Bool) (i j k l : Nat) : (s.fflag f v i j k l).drover = s.drover := rfl
@[simp] theorem State.cores_fflag (s : State) (f : Field) (v : Bool) (i j k l : Nat) : (s.fflag f v i j k l).cores = s.cores := rfl
@[simp] theorem State.fcu_fflag (s : State) (f : Field) (v : Bool) (i j k l : Nat) : (s.fflag f v i j k l).fcu = s.fcu := rfl
@[simp] theorem State.tim_fflag (s : State) (f : Field) (v : Bool) (i j k l : Nat) : (s.fflag f v i j k l).tim = s.tim := rfl
@[simp] theorem State.crc_fflag (s : State) (f : Field) (v : Bool) (i j k l : Nat) : (s.fflag f v i j k l).crc = s.crc := rfl
@[simp] theorem State.pins_fflag (s : State) (f : Field) (v : Bool) (i j k l : Nat) : (s.fflag f v i j k l).pins = s.pins := rfl
@[simp] theorem State.dbg_fflag (s : State) (f : Field) (v : Bool) (i j k l : Nat) : (s.fflag f v i j k l).dbg = s.dbg := rfl
@[simp] theorem State.cmb_fflag (s : State) (f : Field) (v : Bool) (i j k l : Nat) : (s.fflag f v i j k l).cmb = s.cmb := rfl
@[simp] theorem State.isp_fflag (s : State) (f : Field) (v : Bool) (i j k l : Nat) : (s.fflag f v i j k l).isp = s.isp := rfl
@[simp] theorem State.spx_fflag (s : State) (f : Field) (v : Bool) (i j k l : Nat) : (s.fflag f v i j k l).spx = s.spx := rfl
@[simp] theorem State.tdm_fflag (s : State) (f : Field) (v : Bool) (i j k l : Nat) : (s.fflag f v i j k l).tdm = s.tdm := rfl
@[simp] theorem State.vcd_fflag (s : State) (f : Field) (v : Bool) (i j k l : Nat) : (s.fflag f v i j k l).vcd = s.vcd := rfl
@[simp] theorem State.vcdLast_fflag (s : State) (f : Field) (v : Bool) (i j k l : Nat) : (s.fflag f v i j k l).vcdLast = s.vcdLast := rfl
@[simp] theorem State.eth_fflag (s : State) (f : Field) (v : Bool) (i j k l : Nat) : (s.fflag f v i j k l).eth = s.eth := rfl
@[simp] theorem State.hmp_fflag (s : State) (f : Field) (v : Bool) (i j k l : Nat) : (s.fflag f v i j k l).hmp = s.hmp := rfl
@[simp] theorem State.pwr_fflag (s : State) (f : Field) (v : Bool) (i j k l : Nat) : (s.fflag f v i j k l).pwr = s.pwr := rfl
@[simp] theorem State.boot_fflag (s : State) (f : Field) (v : Bool) (i j k l : Nat) : (s.fflag f v i j k l).boot = s.boot := rfl
@[simp] theorem State.adm_fflag (s : State) (f : Field) (v : Bool) (i j k l : Nat) : (s.fflag f v i j k l).adm = s.adm := rfl
@[simp] theorem State.lastAccess_fflag (s : State) (f : Field) (v : Bool) (i j k l : Nat) : (s.fflag f v i j k l).lastAccess = s.lastAccess := rfl
@[simp] theorem State.freeIndex_fflag (s : State) (f : Field) (v : Bool) (i j k l : Nat) : (s.fflag f v i j k l).freeIndex = s.freeIndex := rfl

/-! ### `fadd` changes `regs` alone -/

@[simp] theorem State.pending_fadd (s : State) (f : Field) (v : Nat) (i j k l : Nat) : (s.fadd f v i j k l).pending = s.pending := rfl
@[simp] theorem State.mem_fadd (s : State) (f : Field) (v : Nat) (i j k l : Nat) : (s.fadd f v i j k l).mem = s.mem := rfl
@[simp] theorem State.poison_fadd (s : State) (f : Field) (v : Nat) (i j k l : Nat) : (s.fadd f v i j k l).poison = s.poison := rfl
@[simp] theorem State.checkFlips_fadd (s : State) (f : Field) (v : Nat) (i j k l : Nat) : (s.fadd f v i j k l).checkFlips = s.checkFlips := rfl
@[simp] theorem State.stamps_fadd (s : State) (f : Field) (v : Nat) (i j k l : Nat) : (s.fadd f v i j k l).stamps = s.stamps := rfl
@[simp] theorem State.nor_fadd (s : State) (f : Field) (v : Nat) (i j k l : Nat) : (s.fadd f v i j k l).nor = s.nor := rfl
@[simp] theorem State.fuses_fadd (s : State) (f : Field) (v : Nat) (i j k l : Nat) : (s.fadd f v i j k l).fuses = s.fuses := rfl
@[simp] theorem State.nvm_fadd (s : State) (f : Field) (v : Nat) (i j k l : Nat) : (s.fadd f v i j k l).nvm = s.nvm := rfl
@[simp] theorem State.clk_fadd (s : State) (f : Field) (v : Nat) (i j k l : Nat) : (s.fadd f v i j k l).clk = s.clk := rfl
@[simp] theorem State.refTick_fadd (s : State) (f : Field) (v : Nat) (i j k l : Nat) : (s.fadd f v i j k l).refTick = s.refTick := rfl
@[simp] theorem State.ration_fadd (s : State) (f : Field) (v : Nat) (i j k l : Nat) : (s.fadd f v i j k l).ration = s.ration := rfl
@[simp] theorem State.wc_fadd (s : State) (f : Field) (v : Nat) (i j k l : Nat) : (s.fadd f v i j k l).wc = s.wc := rfl
@[simp] theorem State.drover_fadd (s : State) (f : Field) (v : Nat) (i j k l : Nat) : (s.fadd f v i j k l).drover = s.drover := rfl
@[simp] theorem State.cores_fadd (s : State) (f : Field) (v : Nat) (i j k l : Nat) : (s.fadd f v i j k l).cores = s.cores := rfl
@[simp] theorem State.fcu_fadd (s : State) (f : Field) (v : Nat) (i j k l : Nat) : (s.fadd f v i j k l).fcu = s.fcu := rfl
@[simp] theorem State.tim_fadd (s : State) (f : Field) (v : Nat) (i j k l : Nat) : (s.fadd f v i j k l).tim = s.tim := rfl
@[simp] theorem State.crc_fadd (s : State) (f : Field) (v : Nat) (i j k l : Nat) : (s.fadd f v i j k l).crc = s.crc := rfl
@[simp] theorem State.pins_fadd (s : State) (f : Field) (v : Nat) (i j k l : Nat) : (s.fadd f v i j k l).pins = s.pins := rfl
@[simp] theorem State.dbg_fadd (s : State) (f : Field) (v : Nat) (i j k l : Nat) : (s.fadd f v i j k l).dbg = s.dbg := rfl
@[simp] theorem State.cmb_fadd (s : State) (f : Field) (v : Nat) (i j k l : Nat) : (s.fadd f v i j k l).cmb = s.cmb := rfl
@[simp] theorem State.isp_fadd (s : State) (f : Field) (v : Nat) (i j k l : Nat) : (s.fadd f v i j k l).isp = s.isp := rfl
@[simp] theorem State.spx_fadd (s : State) (f : Field) (v : Nat) (i j k l : Nat) : (s.fadd f v i j k l).spx = s.spx := rfl
@[simp] theorem State.tdm_fadd (s : State) (f : Field) (v : Nat) (i j k l : Nat) : (s.fadd f v i j k l).tdm = s.tdm := rfl
@[simp] theorem State.vcd_fadd (s : State) (f : Field) (v : Nat) (i j k l : Nat) : (s.fadd f v i j k l).vcd = s.vcd := rfl
@[simp] theorem State.vcdLast_fadd (s : State) (f : Field) (v : Nat) (i j k l : Nat) : (s.fadd f v i j k l).vcdLast = s.vcdLast := rfl
@[simp] theorem State.eth_fadd (s : State) (f : Field) (v : Nat) (i j k l : Nat) : (s.fadd f v i j k l).eth = s.eth := rfl
@[simp] theorem State.hmp_fadd (s : State) (f : Field) (v : Nat) (i j k l : Nat) : (s.fadd f v i j k l).hmp = s.hmp := rfl
@[simp] theorem State.pwr_fadd (s : State) (f : Field) (v : Nat) (i j k l : Nat) : (s.fadd f v i j k l).pwr = s.pwr := rfl
@[simp] theorem State.boot_fadd (s : State) (f : Field) (v : Nat) (i j k l : Nat) : (s.fadd f v i j k l).boot = s.boot := rfl
@[simp] theorem State.adm_fadd (s : State) (f : Field) (v : Nat) (i j k l : Nat) : (s.fadd f v i j k l).adm = s.adm := rfl
@[simp] theorem State.lastAccess_fadd (s : State) (f : Field) (v : Nat) (i j k l : Nat) : (s.fadd f v i j k l).lastAccess = s.lastAccess := rfl
@[simp] theorem State.freeIndex_fadd (s : State) (f : Field) (v : Nat) (i j k l : Nat) : (s.fadd f v i j k l).freeIndex = s.freeIndex := rfl

/-! ### `irq` changes `regs` alone -/

@[simp] theorem State.pending_irq (s : State) (f : Field) : (s.irq f).pending = s.pending := rfl
@[simp] theorem State.mem_irq (s : State) (f : Field) : (s.irq f).mem = s.mem := rfl
@[simp] theorem State.poison_irq (s : State) (f : Field) : (s.irq f).poison = s.poison := rfl
@[simp] theorem State.checkFlips_irq (s : State) (f : Field) : (s.irq f).checkFlips = s.checkFlips := rfl
@[simp] theorem State.stamps_irq (s : State) (f : Field) : (s.irq f).stamps = s.stamps := rfl
@[simp] theorem State.nor_irq (s : State) (f : Field) : (s.irq f).nor = s.nor := rfl
@[simp] theorem State.fuses_irq (s : State) (f : Field) : (s.irq f).fuses = s.fuses := rfl
@[simp] theorem State.nvm_irq (s : State) (f : Field) : (s.irq f).nvm = s.nvm := rfl
@[simp] theorem State.clk_irq (s : State) (f : Field) : (s.irq f).clk = s.clk := rfl
@[simp] theorem State.refTick_irq (s : State) (f : Field) : (s.irq f).refTick = s.refTick := rfl
@[simp] theorem State.ration_irq (s : State) (f : Field) : (s.irq f).ration = s.ration := rfl
@[simp] theorem State.wc_irq (s : State) (f : Field) : (s.irq f).wc = s.wc := rfl
@[simp] theorem State.drover_irq (s : State) (f : Field) : (s.irq f).drover = s.drover := rfl
@[simp] theorem State.cores_irq (s : State) (f : Field) : (s.irq f).cores = s.cores := rfl
@[simp] theorem State.fcu_irq (s : State) (f : Field) : (s.irq f).fcu = s.fcu := rfl
@[simp] theorem State.tim_irq (s : State) (f : Field) : (s.irq f).tim = s.tim := rfl
@[simp] theorem State.crc_irq (s : State) (f : Field) : (s.irq f).crc = s.crc := rfl
@[simp] theorem State.pins_irq (s : State) (f : Field) : (s.irq f).pins = s.pins := rfl
@[simp] theorem State.dbg_irq (s : State) (f : Field) : (s.irq f).dbg = s.dbg := rfl
@[simp] theorem State.cmb_irq (s : State) (f : Field) : (s.irq f).cmb = s.cmb := rfl
@[simp] theorem State.isp_irq (s : State) (f : Field) : (s.irq f).isp = s.isp := rfl
@[simp] theorem State.spx_irq (s : State) (f : Field) : (s.irq f).spx = s.spx := rfl
@[simp] theorem State.tdm_irq (s : State) (f : Field) : (s.irq f).tdm = s.tdm := rfl
@[simp] theorem State.vcd_irq (s : State) (f : Field) : (s.irq f).vcd = s.vcd := rfl
@[simp] theorem State.vcdLast_irq (s : State) (f : Field) : (s.irq f).vcdLast = s.vcdLast := rfl
@[simp] theorem State.eth_irq (s : State) (f : Field) : (s.irq f).eth = s.eth := rfl
@[simp] theorem State.hmp_irq (s : State) (f : Field) : (s.irq f).hmp = s.hmp := rfl
@[simp] theorem State.pwr_irq (s : State) (f : Field) : (s.irq f).pwr = s.pwr := rfl
@[simp] theorem State.boot_irq (s : State) (f : Field) : (s.irq f).boot = s.boot := rfl
@[simp] theorem State.adm_irq (s : State) (f : Field) : (s.irq f).adm = s.adm := rfl
@[simp] theorem State.lastAccess_irq (s : State) (f : Field) : (s.irq f).lastAccess = s.lastAccess := rfl
@[simp] theorem State.freeIndex_irq (s : State) (f : Field) : (s.irq f).freeIndex = s.freeIndex := rfl

/-! ### `journal` changes `regs` alone -/

@[simp] theorem State.pending_journal (s : State) (src n a w v st : Nat) : (s.journal src n a w v st).pending = s.pending := rfl
@[simp] theorem State.mem_journal (s : State) (src n a w v st : Nat) : (s.journal src n a w v st).mem = s.mem := rfl
@[simp] theorem State.poison_journal (s : State) (src n a w v st : Nat) : (s.journal src n a w v st).poison = s.poison := rfl
@[simp] theorem State.checkFlips_journal (s : State) (src n a w v st : Nat) : (s.journal src n a w v st).checkFlips = s.checkFlips := rfl
@[simp] theorem State.stamps_journal (s : State) (src n a w v st : Nat) : (s.journal src n a w v st).stamps = s.stamps := rfl
@[simp] theorem State.nor_journal (s : State) (src n a w v st : Nat) : (s.journal src n a w v st).nor = s.nor := rfl
@[simp] theorem State.fuses_journal (s : State) (src n a w v st : Nat) : (s.journal src n a w v st).fuses = s.fuses := rfl
@[simp] theorem State.nvm_journal (s : State) (src n a w v st : Nat) : (s.journal src n a w v st).nvm = s.nvm := rfl
@[simp] theorem State.clk_journal (s : State) (src n a w v st : Nat) : (s.journal src n a w v st).clk = s.clk := rfl
@[simp] theorem State.refTick_journal (s : State) (src n a w v st : Nat) : (s.journal src n a w v st).refTick = s.refTick := rfl
@[simp] theorem State.ration_journal (s : State) (src n a w v st : Nat) : (s.journal src n a w v st).ration = s.ration := rfl
@[simp] theorem State.wc_journal (s : State) (src n a w v st : Nat) : (s.journal src n a w v st).wc = s.wc := rfl
@[simp] theorem State.drover_journal (s : State) (src n a w v st : Nat) : (s.journal src n a w v st).drover = s.drover := rfl
@[simp] theorem State.cores_journal (s : State) (src n a w v st : Nat) : (s.journal src n a w v st).cores = s.cores := rfl
@[simp] theorem State.fcu_journal (s : State) (src n a w v st : Nat) : (s.journal src n a w v st).fcu = s.fcu := rfl
@[simp] theorem State.tim_journal (s : State) (src n a w v st : Nat) : (s.journal src n a w v st).tim = s.tim := rfl
@[simp] theorem State.crc_journal (s : State) (src n a w v st : Nat) : (s.journal src n a w v st).crc = s.crc := rfl
@[simp] theorem State.pins_journal (s : State) (src n a w v st : Nat) : (s.journal src n a w v st).pins = s.pins := rfl
@[simp] theorem State.dbg_journal (s : State) (src n a w v st : Nat) : (s.journal src n a w v st).dbg = s.dbg := rfl
@[simp] theorem State.cmb_journal (s : State) (src n a w v st : Nat) : (s.journal src n a w v st).cmb = s.cmb := rfl
@[simp] theorem State.isp_journal (s : State) (src n a w v st : Nat) : (s.journal src n a w v st).isp = s.isp := rfl
@[simp] theorem State.spx_journal (s : State) (src n a w v st : Nat) : (s.journal src n a w v st).spx = s.spx := rfl
@[simp] theorem State.tdm_journal (s : State) (src n a w v st : Nat) : (s.journal src n a w v st).tdm = s.tdm := rfl
@[simp] theorem State.vcd_journal (s : State) (src n a w v st : Nat) : (s.journal src n a w v st).vcd = s.vcd := rfl
@[simp] theorem State.vcdLast_journal (s : State) (src n a w v st : Nat) : (s.journal src n a w v st).vcdLast = s.vcdLast := rfl
@[simp] theorem State.eth_journal (s : State) (src n a w v st : Nat) : (s.journal src n a w v st).eth = s.eth := rfl
@[simp] theorem State.hmp_journal (s : State) (src n a w v st : Nat) : (s.journal src n a w v st).hmp = s.hmp := rfl
@[simp] theorem State.pwr_journal (s : State) (src n a w v st : Nat) : (s.journal src n a w v st).pwr = s.pwr := rfl
@[simp] theorem State.boot_journal (s : State) (src n a w v st : Nat) : (s.journal src n a w v st).boot = s.boot := rfl
@[simp] theorem State.adm_journal (s : State) (src n a w v st : Nat) : (s.journal src n a w v st).adm = s.adm := rfl
@[simp] theorem State.lastAccess_journal (s : State) (src n a w v st : Nat) : (s.journal src n a w v st).lastAccess = s.lastAccess := rfl
@[simp] theorem State.freeIndex_journal (s : State) (src n a w v st : Nat) : (s.journal src n a w v st).freeIndex = s.freeIndex := rfl

/-! ### `writeByte` changes `mem` alone -/

@[simp] theorem State.pending_writeByte (s : State) (a : Nat) (b : Byte) : (s.writeByte a b).pending = s.pending := rfl
@[simp] theorem State.regs_writeByte (s : State) (a : Nat) (b : Byte) : (s.writeByte a b).regs = s.regs := rfl
@[simp] theorem State.poison_writeByte (s : State) (a : Nat) (b : Byte) : (s.writeByte a b).poison = s.poison := rfl
@[simp] theorem State.checkFlips_writeByte (s : State) (a : Nat) (b : Byte) : (s.writeByte a b).checkFlips = s.checkFlips := rfl
@[simp] theorem State.stamps_writeByte (s : State) (a : Nat) (b : Byte) : (s.writeByte a b).stamps = s.stamps := rfl
@[simp] theorem State.nor_writeByte (s : State) (a : Nat) (b : Byte) : (s.writeByte a b).nor = s.nor := rfl
@[simp] theorem State.fuses_writeByte (s : State) (a : Nat) (b : Byte) : (s.writeByte a b).fuses = s.fuses := rfl
@[simp] theorem State.nvm_writeByte (s : State) (a : Nat) (b : Byte) : (s.writeByte a b).nvm = s.nvm := rfl
@[simp] theorem State.clk_writeByte (s : State) (a : Nat) (b : Byte) : (s.writeByte a b).clk = s.clk := rfl
@[simp] theorem State.refTick_writeByte (s : State) (a : Nat) (b : Byte) : (s.writeByte a b).refTick = s.refTick := rfl
@[simp] theorem State.ration_writeByte (s : State) (a : Nat) (b : Byte) : (s.writeByte a b).ration = s.ration := rfl
@[simp] theorem State.wc_writeByte (s : State) (a : Nat) (b : Byte) : (s.writeByte a b).wc = s.wc := rfl
@[simp] theorem State.drover_writeByte (s : State) (a : Nat) (b : Byte) : (s.writeByte a b).drover = s.drover := rfl
@[simp] theorem State.cores_writeByte (s : State) (a : Nat) (b : Byte) : (s.writeByte a b).cores = s.cores := rfl
@[simp] theorem State.fcu_writeByte (s : State) (a : Nat) (b : Byte) : (s.writeByte a b).fcu = s.fcu := rfl
@[simp] theorem State.tim_writeByte (s : State) (a : Nat) (b : Byte) : (s.writeByte a b).tim = s.tim := rfl
@[simp] theorem State.crc_writeByte (s : State) (a : Nat) (b : Byte) : (s.writeByte a b).crc = s.crc := rfl
@[simp] theorem State.pins_writeByte (s : State) (a : Nat) (b : Byte) : (s.writeByte a b).pins = s.pins := rfl
@[simp] theorem State.dbg_writeByte (s : State) (a : Nat) (b : Byte) : (s.writeByte a b).dbg = s.dbg := rfl
@[simp] theorem State.cmb_writeByte (s : State) (a : Nat) (b : Byte) : (s.writeByte a b).cmb = s.cmb := rfl
@[simp] theorem State.isp_writeByte (s : State) (a : Nat) (b : Byte) : (s.writeByte a b).isp = s.isp := rfl
@[simp] theorem State.spx_writeByte (s : State) (a : Nat) (b : Byte) : (s.writeByte a b).spx = s.spx := rfl
@[simp] theorem State.tdm_writeByte (s : State) (a : Nat) (b : Byte) : (s.writeByte a b).tdm = s.tdm := rfl
@[simp] theorem State.vcd_writeByte (s : State) (a : Nat) (b : Byte) : (s.writeByte a b).vcd = s.vcd := rfl
@[simp] theorem State.vcdLast_writeByte (s : State) (a : Nat) (b : Byte) : (s.writeByte a b).vcdLast = s.vcdLast := rfl
@[simp] theorem State.eth_writeByte (s : State) (a : Nat) (b : Byte) : (s.writeByte a b).eth = s.eth := rfl
@[simp] theorem State.hmp_writeByte (s : State) (a : Nat) (b : Byte) : (s.writeByte a b).hmp = s.hmp := rfl
@[simp] theorem State.pwr_writeByte (s : State) (a : Nat) (b : Byte) : (s.writeByte a b).pwr = s.pwr := rfl
@[simp] theorem State.boot_writeByte (s : State) (a : Nat) (b : Byte) : (s.writeByte a b).boot = s.boot := rfl
@[simp] theorem State.adm_writeByte (s : State) (a : Nat) (b : Byte) : (s.writeByte a b).adm = s.adm := rfl
@[simp] theorem State.lastAccess_writeByte (s : State) (a : Nat) (b : Byte) : (s.writeByte a b).lastAccess = s.lastAccess := rfl
@[simp] theorem State.freeIndex_writeByte (s : State) (a : Nat) (b : Byte) : (s.writeByte a b).freeIndex = s.freeIndex := rfl

/-! ### `writeBytes` changes `mem` alone -/

@[simp] theorem State.pending_writeBytes (s : State) (a : Nat) (bs : List Byte) : (s.writeBytes a bs).pending = s.pending := rfl
@[simp] theorem State.regs_writeBytes (s : State) (a : Nat) (bs : List Byte) : (s.writeBytes a bs).regs = s.regs := rfl
@[simp] theorem State.poison_writeBytes (s : State) (a : Nat) (bs : List Byte) : (s.writeBytes a bs).poison = s.poison := rfl
@[simp] theorem State.checkFlips_writeBytes (s : State) (a : Nat) (bs : List Byte) : (s.writeBytes a bs).checkFlips = s.checkFlips := rfl
@[simp] theorem State.stamps_writeBytes (s : State) (a : Nat) (bs : List Byte) : (s.writeBytes a bs).stamps = s.stamps := rfl
@[simp] theorem State.nor_writeBytes (s : State) (a : Nat) (bs : List Byte) : (s.writeBytes a bs).nor = s.nor := rfl
@[simp] theorem State.fuses_writeBytes (s : State) (a : Nat) (bs : List Byte) : (s.writeBytes a bs).fuses = s.fuses := rfl
@[simp] theorem State.nvm_writeBytes (s : State) (a : Nat) (bs : List Byte) : (s.writeBytes a bs).nvm = s.nvm := rfl
@[simp] theorem State.clk_writeBytes (s : State) (a : Nat) (bs : List Byte) : (s.writeBytes a bs).clk = s.clk := rfl
@[simp] theorem State.refTick_writeBytes (s : State) (a : Nat) (bs : List Byte) : (s.writeBytes a bs).refTick = s.refTick := rfl
@[simp] theorem State.ration_writeBytes (s : State) (a : Nat) (bs : List Byte) : (s.writeBytes a bs).ration = s.ration := rfl
@[simp] theorem State.wc_writeBytes (s : State) (a : Nat) (bs : List Byte) : (s.writeBytes a bs).wc = s.wc := rfl
@[simp] theorem State.drover_writeBytes (s : State) (a : Nat) (bs : List Byte) : (s.writeBytes a bs).drover = s.drover := rfl
@[simp] theorem State.cores_writeBytes (s : State) (a : Nat) (bs : List Byte) : (s.writeBytes a bs).cores = s.cores := rfl
@[simp] theorem State.fcu_writeBytes (s : State) (a : Nat) (bs : List Byte) : (s.writeBytes a bs).fcu = s.fcu := rfl
@[simp] theorem State.tim_writeBytes (s : State) (a : Nat) (bs : List Byte) : (s.writeBytes a bs).tim = s.tim := rfl
@[simp] theorem State.crc_writeBytes (s : State) (a : Nat) (bs : List Byte) : (s.writeBytes a bs).crc = s.crc := rfl
@[simp] theorem State.pins_writeBytes (s : State) (a : Nat) (bs : List Byte) : (s.writeBytes a bs).pins = s.pins := rfl
@[simp] theorem State.dbg_writeBytes (s : State) (a : Nat) (bs : List Byte) : (s.writeBytes a bs).dbg = s.dbg := rfl
@[simp] theorem State.cmb_writeBytes (s : State) (a : Nat) (bs : List Byte) : (s.writeBytes a bs).cmb = s.cmb := rfl
@[simp] theorem State.isp_writeBytes (s : State) (a : Nat) (bs : List Byte) : (s.writeBytes a bs).isp = s.isp := rfl
@[simp] theorem State.spx_writeBytes (s : State) (a : Nat) (bs : List Byte) : (s.writeBytes a bs).spx = s.spx := rfl
@[simp] theorem State.tdm_writeBytes (s : State) (a : Nat) (bs : List Byte) : (s.writeBytes a bs).tdm = s.tdm := rfl
@[simp] theorem State.vcd_writeBytes (s : State) (a : Nat) (bs : List Byte) : (s.writeBytes a bs).vcd = s.vcd := rfl
@[simp] theorem State.vcdLast_writeBytes (s : State) (a : Nat) (bs : List Byte) : (s.writeBytes a bs).vcdLast = s.vcdLast := rfl
@[simp] theorem State.eth_writeBytes (s : State) (a : Nat) (bs : List Byte) : (s.writeBytes a bs).eth = s.eth := rfl
@[simp] theorem State.hmp_writeBytes (s : State) (a : Nat) (bs : List Byte) : (s.writeBytes a bs).hmp = s.hmp := rfl
@[simp] theorem State.pwr_writeBytes (s : State) (a : Nat) (bs : List Byte) : (s.writeBytes a bs).pwr = s.pwr := rfl
@[simp] theorem State.boot_writeBytes (s : State) (a : Nat) (bs : List Byte) : (s.writeBytes a bs).boot = s.boot := rfl
@[simp] theorem State.adm_writeBytes (s : State) (a : Nat) (bs : List Byte) : (s.writeBytes a bs).adm = s.adm := rfl
@[simp] theorem State.lastAccess_writeBytes (s : State) (a : Nat) (bs : List Byte) : (s.writeBytes a bs).lastAccess = s.lastAccess := rfl
@[simp] theorem State.freeIndex_writeBytes (s : State) (a : Nat) (bs : List Byte) : (s.writeBytes a bs).freeIndex = s.freeIndex := rfl

/-! ### `writeLE` changes `mem` alone -/

@[simp] theorem State.pending_writeLE (s : State) (a n v : Nat) : (s.writeLE a n v).pending = s.pending := rfl
@[simp] theorem State.regs_writeLE (s : State) (a n v : Nat) : (s.writeLE a n v).regs = s.regs := rfl
@[simp] theorem State.poison_writeLE (s : State) (a n v : Nat) : (s.writeLE a n v).poison = s.poison := rfl
@[simp] theorem State.checkFlips_writeLE (s : State) (a n v : Nat) : (s.writeLE a n v).checkFlips = s.checkFlips := rfl
@[simp] theorem State.stamps_writeLE (s : State) (a n v : Nat) : (s.writeLE a n v).stamps = s.stamps := rfl
@[simp] theorem State.nor_writeLE (s : State) (a n v : Nat) : (s.writeLE a n v).nor = s.nor := rfl
@[simp] theorem State.fuses_writeLE (s : State) (a n v : Nat) : (s.writeLE a n v).fuses = s.fuses := rfl
@[simp] theorem State.nvm_writeLE (s : State) (a n v : Nat) : (s.writeLE a n v).nvm = s.nvm := rfl
@[simp] theorem State.clk_writeLE (s : State) (a n v : Nat) : (s.writeLE a n v).clk = s.clk := rfl
@[simp] theorem State.refTick_writeLE (s : State) (a n v : Nat) : (s.writeLE a n v).refTick = s.refTick := rfl
@[simp] theorem State.ration_writeLE (s : State) (a n v : Nat) : (s.writeLE a n v).ration = s.ration := rfl
@[simp] theorem State.wc_writeLE (s : State) (a n v : Nat) : (s.writeLE a n v).wc = s.wc := rfl
@[simp] theorem State.drover_writeLE (s : State) (a n v : Nat) : (s.writeLE a n v).drover = s.drover := rfl
@[simp] theorem State.cores_writeLE (s : State) (a n v : Nat) : (s.writeLE a n v).cores = s.cores := rfl
@[simp] theorem State.fcu_writeLE (s : State) (a n v : Nat) : (s.writeLE a n v).fcu = s.fcu := rfl
@[simp] theorem State.tim_writeLE (s : State) (a n v : Nat) : (s.writeLE a n v).tim = s.tim := rfl
@[simp] theorem State.crc_writeLE (s : State) (a n v : Nat) : (s.writeLE a n v).crc = s.crc := rfl
@[simp] theorem State.pins_writeLE (s : State) (a n v : Nat) : (s.writeLE a n v).pins = s.pins := rfl
@[simp] theorem State.dbg_writeLE (s : State) (a n v : Nat) : (s.writeLE a n v).dbg = s.dbg := rfl
@[simp] theorem State.cmb_writeLE (s : State) (a n v : Nat) : (s.writeLE a n v).cmb = s.cmb := rfl
@[simp] theorem State.isp_writeLE (s : State) (a n v : Nat) : (s.writeLE a n v).isp = s.isp := rfl
@[simp] theorem State.spx_writeLE (s : State) (a n v : Nat) : (s.writeLE a n v).spx = s.spx := rfl
@[simp] theorem State.tdm_writeLE (s : State) (a n v : Nat) : (s.writeLE a n v).tdm = s.tdm := rfl
@[simp] theorem State.vcd_writeLE (s : State) (a n v : Nat) : (s.writeLE a n v).vcd = s.vcd := rfl
@[simp] theorem State.vcdLast_writeLE (s : State) (a n v : Nat) : (s.writeLE a n v).vcdLast = s.vcdLast := rfl
@[simp] theorem State.eth_writeLE (s : State) (a n v : Nat) : (s.writeLE a n v).eth = s.eth := rfl
@[simp] theorem State.hmp_writeLE (s : State) (a n v : Nat) : (s.writeLE a n v).hmp = s.hmp := rfl
@[simp] theorem State.pwr_writeLE (s : State) (a n v : Nat) : (s.writeLE a n v).pwr = s.pwr := rfl
@[simp] theorem State.boot_writeLE (s : State) (a n v : Nat) : (s.writeLE a n v).boot = s.boot := rfl
@[simp] theorem State.adm_writeLE (s : State) (a n v : Nat) : (s.writeLE a n v).adm = s.adm := rfl
@[simp] theorem State.lastAccess_writeLE (s : State) (a n v : Nat) : (s.writeLE a n v).lastAccess = s.lastAccess := rfl
@[simp] theorem State.freeIndex_writeLE (s : State) (a n v : Nat) : (s.writeLE a n v).freeIndex = s.freeIndex := rfl

/-! ### `setPoison` changes `poison` alone -/

@[simp] theorem State.pending_setPoison (s : State) (a : Nat) (b : Bool) : (s.setPoison a b).pending = s.pending := rfl
@[simp] theorem State.regs_setPoison (s : State) (a : Nat) (b : Bool) : (s.setPoison a b).regs = s.regs := rfl
@[simp] theorem State.mem_setPoison (s : State) (a : Nat) (b : Bool) : (s.setPoison a b).mem = s.mem := rfl
@[simp] theorem State.checkFlips_setPoison (s : State) (a : Nat) (b : Bool) : (s.setPoison a b).checkFlips = s.checkFlips := rfl
@[simp] theorem State.stamps_setPoison (s : State) (a : Nat) (b : Bool) : (s.setPoison a b).stamps = s.stamps := rfl
@[simp] theorem State.nor_setPoison (s : State) (a : Nat) (b : Bool) : (s.setPoison a b).nor = s.nor := rfl
@[simp] theorem State.fuses_setPoison (s : State) (a : Nat) (b : Bool) : (s.setPoison a b).fuses = s.fuses := rfl
@[simp] theorem State.nvm_setPoison (s : State) (a : Nat) (b : Bool) : (s.setPoison a b).nvm = s.nvm := rfl
@[simp] theorem State.clk_setPoison (s : State) (a : Nat) (b : Bool) : (s.setPoison a b).clk = s.clk := rfl
@[simp] theorem State.refTick_setPoison (s : State) (a : Nat) (b : Bool) : (s.setPoison a b).refTick = s.refTick := rfl
@[simp] theorem State.ration_setPoison (s : State) (a : Nat) (b : Bool) : (s.setPoison a b).ration = s.ration := rfl
@[simp] theorem State.wc_setPoison (s : State) (a : Nat) (b : Bool) : (s.setPoison a b).wc = s.wc := rfl
@[simp] theorem State.drover_setPoison (s : State) (a : Nat) (b : Bool) : (s.setPoison a b).drover = s.drover := rfl
@[simp] theorem State.cores_setPoison (s : State) (a : Nat) (b : Bool) : (s.setPoison a b).cores = s.cores := rfl
@[simp] theorem State.fcu_setPoison (s : State) (a : Nat) (b : Bool) : (s.setPoison a b).fcu = s.fcu := rfl
@[simp] theorem State.tim_setPoison (s : State) (a : Nat) (b : Bool) : (s.setPoison a b).tim = s.tim := rfl
@[simp] theorem State.crc_setPoison (s : State) (a : Nat) (b : Bool) : (s.setPoison a b).crc = s.crc := rfl
@[simp] theorem State.pins_setPoison (s : State) (a : Nat) (b : Bool) : (s.setPoison a b).pins = s.pins := rfl
@[simp] theorem State.dbg_setPoison (s : State) (a : Nat) (b : Bool) : (s.setPoison a b).dbg = s.dbg := rfl
@[simp] theorem State.cmb_setPoison (s : State) (a : Nat) (b : Bool) : (s.setPoison a b).cmb = s.cmb := rfl
@[simp] theorem State.isp_setPoison (s : State) (a : Nat) (b : Bool) : (s.setPoison a b).isp = s.isp := rfl
@[simp] theorem State.spx_setPoison (s : State) (a : Nat) (b : Bool) : (s.setPoison a b).spx = s.spx := rfl
@[simp] theorem State.tdm_setPoison (s : State) (a : Nat) (b : Bool) : (s.setPoison a b).tdm = s.tdm := rfl
@[simp] theorem State.vcd_setPoison (s : State) (a : Nat) (b : Bool) : (s.setPoison a b).vcd = s.vcd := rfl
@[simp] theorem State.vcdLast_setPoison (s : State) (a : Nat) (b : Bool) : (s.setPoison a b).vcdLast = s.vcdLast := rfl
@[simp] theorem State.eth_setPoison (s : State) (a : Nat) (b : Bool) : (s.setPoison a b).eth = s.eth := rfl
@[simp] theorem State.hmp_setPoison (s : State) (a : Nat) (b : Bool) : (s.setPoison a b).hmp = s.hmp := rfl
@[simp] theorem State.pwr_setPoison (s : State) (a : Nat) (b : Bool) : (s.setPoison a b).pwr = s.pwr := rfl
@[simp] theorem State.boot_setPoison (s : State) (a : Nat) (b : Bool) : (s.setPoison a b).boot = s.boot := rfl
@[simp] theorem State.adm_setPoison (s : State) (a : Nat) (b : Bool) : (s.setPoison a b).adm = s.adm := rfl
@[simp] theorem State.lastAccess_setPoison (s : State) (a : Nat) (b : Bool) : (s.setPoison a b).lastAccess = s.lastAccess := rfl
@[simp] theorem State.freeIndex_setPoison (s : State) (a : Nat) (b : Bool) : (s.setPoison a b).freeIndex = s.freeIndex := rfl

/-! ### `modCore` changes `cores` alone -/

@[simp] theorem State.pending_modCore (s : State) (c : Nat) (g : CoreState → CoreState) : (s.modCore c g).pending = s.pending := rfl
@[simp] theorem State.regs_modCore (s : State) (c : Nat) (g : CoreState → CoreState) : (s.modCore c g).regs = s.regs := rfl
@[simp] theorem State.mem_modCore (s : State) (c : Nat) (g : CoreState → CoreState) : (s.modCore c g).mem = s.mem := rfl
@[simp] theorem State.poison_modCore (s : State) (c : Nat) (g : CoreState → CoreState) : (s.modCore c g).poison = s.poison := rfl
@[simp] theorem State.checkFlips_modCore (s : State) (c : Nat) (g : CoreState → CoreState) : (s.modCore c g).checkFlips = s.checkFlips := rfl
@[simp] theorem State.stamps_modCore (s : State) (c : Nat) (g : CoreState → CoreState) : (s.modCore c g).stamps = s.stamps := rfl
@[simp] theorem State.nor_modCore (s : State) (c : Nat) (g : CoreState → CoreState) : (s.modCore c g).nor = s.nor := rfl
@[simp] theorem State.fuses_modCore (s : State) (c : Nat) (g : CoreState → CoreState) : (s.modCore c g).fuses = s.fuses := rfl
@[simp] theorem State.nvm_modCore (s : State) (c : Nat) (g : CoreState → CoreState) : (s.modCore c g).nvm = s.nvm := rfl
@[simp] theorem State.clk_modCore (s : State) (c : Nat) (g : CoreState → CoreState) : (s.modCore c g).clk = s.clk := rfl
@[simp] theorem State.refTick_modCore (s : State) (c : Nat) (g : CoreState → CoreState) : (s.modCore c g).refTick = s.refTick := rfl
@[simp] theorem State.ration_modCore (s : State) (c : Nat) (g : CoreState → CoreState) : (s.modCore c g).ration = s.ration := rfl
@[simp] theorem State.wc_modCore (s : State) (c : Nat) (g : CoreState → CoreState) : (s.modCore c g).wc = s.wc := rfl
@[simp] theorem State.drover_modCore (s : State) (c : Nat) (g : CoreState → CoreState) : (s.modCore c g).drover = s.drover := rfl
@[simp] theorem State.fcu_modCore (s : State) (c : Nat) (g : CoreState → CoreState) : (s.modCore c g).fcu = s.fcu := rfl
@[simp] theorem State.tim_modCore (s : State) (c : Nat) (g : CoreState → CoreState) : (s.modCore c g).tim = s.tim := rfl
@[simp] theorem State.crc_modCore (s : State) (c : Nat) (g : CoreState → CoreState) : (s.modCore c g).crc = s.crc := rfl
@[simp] theorem State.pins_modCore (s : State) (c : Nat) (g : CoreState → CoreState) : (s.modCore c g).pins = s.pins := rfl
@[simp] theorem State.dbg_modCore (s : State) (c : Nat) (g : CoreState → CoreState) : (s.modCore c g).dbg = s.dbg := rfl
@[simp] theorem State.cmb_modCore (s : State) (c : Nat) (g : CoreState → CoreState) : (s.modCore c g).cmb = s.cmb := rfl
@[simp] theorem State.isp_modCore (s : State) (c : Nat) (g : CoreState → CoreState) : (s.modCore c g).isp = s.isp := rfl
@[simp] theorem State.spx_modCore (s : State) (c : Nat) (g : CoreState → CoreState) : (s.modCore c g).spx = s.spx := rfl
@[simp] theorem State.tdm_modCore (s : State) (c : Nat) (g : CoreState → CoreState) : (s.modCore c g).tdm = s.tdm := rfl
@[simp] theorem State.vcd_modCore (s : State) (c : Nat) (g : CoreState → CoreState) : (s.modCore c g).vcd = s.vcd := rfl
@[simp] theorem State.vcdLast_modCore (s : State) (c : Nat) (g : CoreState → CoreState) : (s.modCore c g).vcdLast = s.vcdLast := rfl
@[simp] theorem State.eth_modCore (s : State) (c : Nat) (g : CoreState → CoreState) : (s.modCore c g).eth = s.eth := rfl
@[simp] theorem State.hmp_modCore (s : State) (c : Nat) (g : CoreState → CoreState) : (s.modCore c g).hmp = s.hmp := rfl
@[simp] theorem State.pwr_modCore (s : State) (c : Nat) (g : CoreState → CoreState) : (s.modCore c g).pwr = s.pwr := rfl
@[simp] theorem State.boot_modCore (s : State) (c : Nat) (g : CoreState → CoreState) : (s.modCore c g).boot = s.boot := rfl
@[simp] theorem State.adm_modCore (s : State) (c : Nat) (g : CoreState → CoreState) : (s.modCore c g).adm = s.adm := rfl
@[simp] theorem State.lastAccess_modCore (s : State) (c : Nat) (g : CoreState → CoreState) : (s.modCore c g).lastAccess = s.lastAccess := rfl
@[simp] theorem State.freeIndex_modCore (s : State) (c : Nat) (g : CoreState → CoreState) : (s.modCore c g).freeIndex = s.freeIndex := rfl

/-! ### `report` changes `fcu` alone -/

@[simp] theorem State.pending_report (s : State) (src cls : Nat) (r : Option DescRef) (id : Nat) (c : Option Nat) (inj : Bool) : (s.report src cls r id c inj).pending = s.pending := rfl
@[simp] theorem State.regs_report (s : State) (src cls : Nat) (r : Option DescRef) (id : Nat) (c : Option Nat) (inj : Bool) : (s.report src cls r id c inj).regs = s.regs := rfl
@[simp] theorem State.mem_report (s : State) (src cls : Nat) (r : Option DescRef) (id : Nat) (c : Option Nat) (inj : Bool) : (s.report src cls r id c inj).mem = s.mem := rfl
@[simp] theorem State.poison_report (s : State) (src cls : Nat) (r : Option DescRef) (id : Nat) (c : Option Nat) (inj : Bool) : (s.report src cls r id c inj).poison = s.poison := rfl
@[simp] theorem State.checkFlips_report (s : State) (src cls : Nat) (r : Option DescRef) (id : Nat) (c : Option Nat) (inj : Bool) : (s.report src cls r id c inj).checkFlips = s.checkFlips := rfl
@[simp] theorem State.stamps_report (s : State) (src cls : Nat) (r : Option DescRef) (id : Nat) (c : Option Nat) (inj : Bool) : (s.report src cls r id c inj).stamps = s.stamps := rfl
@[simp] theorem State.nor_report (s : State) (src cls : Nat) (r : Option DescRef) (id : Nat) (c : Option Nat) (inj : Bool) : (s.report src cls r id c inj).nor = s.nor := rfl
@[simp] theorem State.fuses_report (s : State) (src cls : Nat) (r : Option DescRef) (id : Nat) (c : Option Nat) (inj : Bool) : (s.report src cls r id c inj).fuses = s.fuses := rfl
@[simp] theorem State.nvm_report (s : State) (src cls : Nat) (r : Option DescRef) (id : Nat) (c : Option Nat) (inj : Bool) : (s.report src cls r id c inj).nvm = s.nvm := rfl
@[simp] theorem State.clk_report (s : State) (src cls : Nat) (r : Option DescRef) (id : Nat) (c : Option Nat) (inj : Bool) : (s.report src cls r id c inj).clk = s.clk := rfl
@[simp] theorem State.refTick_report (s : State) (src cls : Nat) (r : Option DescRef) (id : Nat) (c : Option Nat) (inj : Bool) : (s.report src cls r id c inj).refTick = s.refTick := rfl
@[simp] theorem State.ration_report (s : State) (src cls : Nat) (r : Option DescRef) (id : Nat) (c : Option Nat) (inj : Bool) : (s.report src cls r id c inj).ration = s.ration := rfl
@[simp] theorem State.wc_report (s : State) (src cls : Nat) (r : Option DescRef) (id : Nat) (c : Option Nat) (inj : Bool) : (s.report src cls r id c inj).wc = s.wc := rfl
@[simp] theorem State.drover_report (s : State) (src cls : Nat) (r : Option DescRef) (id : Nat) (c : Option Nat) (inj : Bool) : (s.report src cls r id c inj).drover = s.drover := rfl
@[simp] theorem State.cores_report (s : State) (src cls : Nat) (r : Option DescRef) (id : Nat) (c : Option Nat) (inj : Bool) : (s.report src cls r id c inj).cores = s.cores := rfl
@[simp] theorem State.tim_report (s : State) (src cls : Nat) (r : Option DescRef) (id : Nat) (c : Option Nat) (inj : Bool) : (s.report src cls r id c inj).tim = s.tim := rfl
@[simp] theorem State.crc_report (s : State) (src cls : Nat) (r : Option DescRef) (id : Nat) (c : Option Nat) (inj : Bool) : (s.report src cls r id c inj).crc = s.crc := rfl
@[simp] theorem State.pins_report (s : State) (src cls : Nat) (r : Option DescRef) (id : Nat) (c : Option Nat) (inj : Bool) : (s.report src cls r id c inj).pins = s.pins := rfl
@[simp] theorem State.dbg_report (s : State) (src cls : Nat) (r : Option DescRef) (id : Nat) (c : Option Nat) (inj : Bool) : (s.report src cls r id c inj).dbg = s.dbg := rfl
@[simp] theorem State.cmb_report (s : State) (src cls : Nat) (r : Option DescRef) (id : Nat) (c : Option Nat) (inj : Bool) : (s.report src cls r id c inj).cmb = s.cmb := rfl
@[simp] theorem State.isp_report (s : State) (src cls : Nat) (r : Option DescRef) (id : Nat) (c : Option Nat) (inj : Bool) : (s.report src cls r id c inj).isp = s.isp := rfl
@[simp] theorem State.spx_report (s : State) (src cls : Nat) (r : Option DescRef) (id : Nat) (c : Option Nat) (inj : Bool) : (s.report src cls r id c inj).spx = s.spx := rfl
@[simp] theorem State.tdm_report (s : State) (src cls : Nat) (r : Option DescRef) (id : Nat) (c : Option Nat) (inj : Bool) : (s.report src cls r id c inj).tdm = s.tdm := rfl
@[simp] theorem State.vcd_report (s : State) (src cls : Nat) (r : Option DescRef) (id : Nat) (c : Option Nat) (inj : Bool) : (s.report src cls r id c inj).vcd = s.vcd := rfl
@[simp] theorem State.vcdLast_report (s : State) (src cls : Nat) (r : Option DescRef) (id : Nat) (c : Option Nat) (inj : Bool) : (s.report src cls r id c inj).vcdLast = s.vcdLast := rfl
@[simp] theorem State.eth_report (s : State) (src cls : Nat) (r : Option DescRef) (id : Nat) (c : Option Nat) (inj : Bool) : (s.report src cls r id c inj).eth = s.eth := rfl
@[simp] theorem State.hmp_report (s : State) (src cls : Nat) (r : Option DescRef) (id : Nat) (c : Option Nat) (inj : Bool) : (s.report src cls r id c inj).hmp = s.hmp := rfl
@[simp] theorem State.pwr_report (s : State) (src cls : Nat) (r : Option DescRef) (id : Nat) (c : Option Nat) (inj : Bool) : (s.report src cls r id c inj).pwr = s.pwr := rfl
@[simp] theorem State.boot_report (s : State) (src cls : Nat) (r : Option DescRef) (id : Nat) (c : Option Nat) (inj : Bool) : (s.report src cls r id c inj).boot = s.boot := rfl
@[simp] theorem State.adm_report (s : State) (src cls : Nat) (r : Option DescRef) (id : Nat) (c : Option Nat) (inj : Bool) : (s.report src cls r id c inj).adm = s.adm := rfl
@[simp] theorem State.lastAccess_report (s : State) (src cls : Nat) (r : Option DescRef) (id : Nat) (c : Option Nat) (inj : Bool) : (s.report src cls r id c inj).lastAccess = s.lastAccess := rfl
@[simp] theorem State.freeIndex_report (s : State) (src cls : Nat) (r : Option DescRef) (id : Nat) (c : Option Nat) (inj : Bool) : (s.report src cls r id c inj).freeIndex = s.freeIndex := rfl

/-! ### `setFlights` changes `drover` alone -/

@[simp] theorem State.pending_setFlights (s : State) (x : List Flight) : (s.setFlights x).pending = s.pending := rfl
@[simp] theorem State.regs_setFlights (s : State) (x : List Flight) : (s.setFlights x).regs = s.regs := rfl
@[simp] theorem State.mem_setFlights (s : State) (x : List Flight) : (s.setFlights x).mem = s.mem := rfl
@[simp] theorem State.poison_setFlights (s : State) (x : List Flight) : (s.setFlights x).poison = s.poison := rfl
@[simp] theorem State.checkFlips_setFlights (s : State) (x : List Flight) : (s.setFlights x).checkFlips = s.checkFlips := rfl
@[simp] theorem State.stamps_setFlights (s : State) (x : List Flight) : (s.setFlights x).stamps = s.stamps := rfl
@[simp] theorem State.nor_setFlights (s : State) (x : List Flight) : (s.setFlights x).nor = s.nor := rfl
@[simp] theorem State.fuses_setFlights (s : State) (x : List Flight) : (s.setFlights x).fuses = s.fuses := rfl
@[simp] theorem State.nvm_setFlights (s : State) (x : List Flight) : (s.setFlights x).nvm = s.nvm := rfl
@[simp] theorem State.clk_setFlights (s : State) (x : List Flight) : (s.setFlights x).clk = s.clk := rfl
@[simp] theorem State.refTick_setFlights (s : State) (x : List Flight) : (s.setFlights x).refTick = s.refTick := rfl
@[simp] theorem State.ration_setFlights (s : State) (x : List Flight) : (s.setFlights x).ration = s.ration := rfl
@[simp] theorem State.wc_setFlights (s : State) (x : List Flight) : (s.setFlights x).wc = s.wc := rfl
@[simp] theorem State.cores_setFlights (s : State) (x : List Flight) : (s.setFlights x).cores = s.cores := rfl
@[simp] theorem State.fcu_setFlights (s : State) (x : List Flight) : (s.setFlights x).fcu = s.fcu := rfl
@[simp] theorem State.tim_setFlights (s : State) (x : List Flight) : (s.setFlights x).tim = s.tim := rfl
@[simp] theorem State.crc_setFlights (s : State) (x : List Flight) : (s.setFlights x).crc = s.crc := rfl
@[simp] theorem State.pins_setFlights (s : State) (x : List Flight) : (s.setFlights x).pins = s.pins := rfl
@[simp] theorem State.dbg_setFlights (s : State) (x : List Flight) : (s.setFlights x).dbg = s.dbg := rfl
@[simp] theorem State.cmb_setFlights (s : State) (x : List Flight) : (s.setFlights x).cmb = s.cmb := rfl
@[simp] theorem State.isp_setFlights (s : State) (x : List Flight) : (s.setFlights x).isp = s.isp := rfl
@[simp] theorem State.spx_setFlights (s : State) (x : List Flight) : (s.setFlights x).spx = s.spx := rfl
@[simp] theorem State.tdm_setFlights (s : State) (x : List Flight) : (s.setFlights x).tdm = s.tdm := rfl
@[simp] theorem State.vcd_setFlights (s : State) (x : List Flight) : (s.setFlights x).vcd = s.vcd := rfl
@[simp] theorem State.vcdLast_setFlights (s : State) (x : List Flight) : (s.setFlights x).vcdLast = s.vcdLast := rfl
@[simp] theorem State.eth_setFlights (s : State) (x : List Flight) : (s.setFlights x).eth = s.eth := rfl
@[simp] theorem State.hmp_setFlights (s : State) (x : List Flight) : (s.setFlights x).hmp = s.hmp := rfl
@[simp] theorem State.pwr_setFlights (s : State) (x : List Flight) : (s.setFlights x).pwr = s.pwr := rfl
@[simp] theorem State.boot_setFlights (s : State) (x : List Flight) : (s.setFlights x).boot = s.boot := rfl
@[simp] theorem State.adm_setFlights (s : State) (x : List Flight) : (s.setFlights x).adm = s.adm := rfl
@[simp] theorem State.lastAccess_setFlights (s : State) (x : List Flight) : (s.setFlights x).lastAccess = s.lastAccess := rfl
@[simp] theorem State.freeIndex_setFlights (s : State) (x : List Flight) : (s.setFlights x).freeIndex = s.freeIndex := rfl

/-! ### `setCaravans` changes `drover` alone -/

@[simp] theorem State.pending_setCaravans (s : State) (x : List Caravan) : (s.setCaravans x).pending = s.pending := rfl
@[simp] theorem State.regs_setCaravans (s : State) (x : List Caravan) : (s.setCaravans x).regs = s.regs := rfl
@[simp] theorem State.mem_setCaravans (s : State) (x : List Caravan) : (s.setCaravans x).mem = s.mem := rfl
@[simp] theorem State.poison_setCaravans (s : State) (x : List Caravan) : (s.setCaravans x).poison = s.poison := rfl
@[simp] theorem State.checkFlips_setCaravans (s : State) (x : List Caravan) : (s.setCaravans x).checkFlips = s.checkFlips := rfl
@[simp] theorem State.stamps_setCaravans (s : State) (x : List Caravan) : (s.setCaravans x).stamps = s.stamps := rfl
@[simp] theorem State.nor_setCaravans (s : State) (x : List Caravan) : (s.setCaravans x).nor = s.nor := rfl
@[simp] theorem State.fuses_setCaravans (s : State) (x : List Caravan) : (s.setCaravans x).fuses = s.fuses := rfl
@[simp] theorem State.nvm_setCaravans (s : State) (x : List Caravan) : (s.setCaravans x).nvm = s.nvm := rfl
@[simp] theorem State.clk_setCaravans (s : State) (x : List Caravan) : (s.setCaravans x).clk = s.clk := rfl
@[simp] theorem State.refTick_setCaravans (s : State) (x : List Caravan) : (s.setCaravans x).refTick = s.refTick := rfl
@[simp] theorem State.ration_setCaravans (s : State) (x : List Caravan) : (s.setCaravans x).ration = s.ration := rfl
@[simp] theorem State.wc_setCaravans (s : State) (x : List Caravan) : (s.setCaravans x).wc = s.wc := rfl
@[simp] theorem State.cores_setCaravans (s : State) (x : List Caravan) : (s.setCaravans x).cores = s.cores := rfl
@[simp] theorem State.fcu_setCaravans (s : State) (x : List Caravan) : (s.setCaravans x).fcu = s.fcu := rfl
@[simp] theorem State.tim_setCaravans (s : State) (x : List Caravan) : (s.setCaravans x).tim = s.tim := rfl
@[simp] theorem State.crc_setCaravans (s : State) (x : List Caravan) : (s.setCaravans x).crc = s.crc := rfl
@[simp] theorem State.pins_setCaravans (s : State) (x : List Caravan) : (s.setCaravans x).pins = s.pins := rfl
@[simp] theorem State.dbg_setCaravans (s : State) (x : List Caravan) : (s.setCaravans x).dbg = s.dbg := rfl
@[simp] theorem State.cmb_setCaravans (s : State) (x : List Caravan) : (s.setCaravans x).cmb = s.cmb := rfl
@[simp] theorem State.isp_setCaravans (s : State) (x : List Caravan) : (s.setCaravans x).isp = s.isp := rfl
@[simp] theorem State.spx_setCaravans (s : State) (x : List Caravan) : (s.setCaravans x).spx = s.spx := rfl
@[simp] theorem State.tdm_setCaravans (s : State) (x : List Caravan) : (s.setCaravans x).tdm = s.tdm := rfl
@[simp] theorem State.vcd_setCaravans (s : State) (x : List Caravan) : (s.setCaravans x).vcd = s.vcd := rfl
@[simp] theorem State.vcdLast_setCaravans (s : State) (x : List Caravan) : (s.setCaravans x).vcdLast = s.vcdLast := rfl
@[simp] theorem State.eth_setCaravans (s : State) (x : List Caravan) : (s.setCaravans x).eth = s.eth := rfl
@[simp] theorem State.hmp_setCaravans (s : State) (x : List Caravan) : (s.setCaravans x).hmp = s.hmp := rfl
@[simp] theorem State.pwr_setCaravans (s : State) (x : List Caravan) : (s.setCaravans x).pwr = s.pwr := rfl
@[simp] theorem State.boot_setCaravans (s : State) (x : List Caravan) : (s.setCaravans x).boot = s.boot := rfl
@[simp] theorem State.adm_setCaravans (s : State) (x : List Caravan) : (s.setCaravans x).adm = s.adm := rfl
@[simp] theorem State.lastAccess_setCaravans (s : State) (x : List Caravan) : (s.setCaravans x).lastAccess = s.lastAccess := rfl
@[simp] theorem State.freeIndex_setCaravans (s : State) (x : List Caravan) : (s.setCaravans x).freeIndex = s.freeIndex := rfl

/-! ### `modFlight` changes `drover` alone -/

@[simp] theorem State.pending_modFlight (s : State) (r : DescRef) (g : Flight → Flight) : (s.modFlight r g).pending = s.pending := rfl
@[simp] theorem State.regs_modFlight (s : State) (r : DescRef) (g : Flight → Flight) : (s.modFlight r g).regs = s.regs := rfl
@[simp] theorem State.mem_modFlight (s : State) (r : DescRef) (g : Flight → Flight) : (s.modFlight r g).mem = s.mem := rfl
@[simp] theorem State.poison_modFlight (s : State) (r : DescRef) (g : Flight → Flight) : (s.modFlight r g).poison = s.poison := rfl
@[simp] theorem State.checkFlips_modFlight (s : State) (r : DescRef) (g : Flight → Flight) : (s.modFlight r g).checkFlips = s.checkFlips := rfl
@[simp] theorem State.stamps_modFlight (s : State) (r : DescRef) (g : Flight → Flight) : (s.modFlight r g).stamps = s.stamps := rfl
@[simp] theorem State.nor_modFlight (s : State) (r : DescRef) (g : Flight → Flight) : (s.modFlight r g).nor = s.nor := rfl
@[simp] theorem State.fuses_modFlight (s : State) (r : DescRef) (g : Flight → Flight) : (s.modFlight r g).fuses = s.fuses := rfl
@[simp] theorem State.nvm_modFlight (s : State) (r : DescRef) (g : Flight → Flight) : (s.modFlight r g).nvm = s.nvm := rfl
@[simp] theorem State.clk_modFlight (s : State) (r : DescRef) (g : Flight → Flight) : (s.modFlight r g).clk = s.clk := rfl
@[simp] theorem State.refTick_modFlight (s : State) (r : DescRef) (g : Flight → Flight) : (s.modFlight r g).refTick = s.refTick := rfl
@[simp] theorem State.ration_modFlight (s : State) (r : DescRef) (g : Flight → Flight) : (s.modFlight r g).ration = s.ration := rfl
@[simp] theorem State.wc_modFlight (s : State) (r : DescRef) (g : Flight → Flight) : (s.modFlight r g).wc = s.wc := rfl
@[simp] theorem State.cores_modFlight (s : State) (r : DescRef) (g : Flight → Flight) : (s.modFlight r g).cores = s.cores := rfl
@[simp] theorem State.fcu_modFlight (s : State) (r : DescRef) (g : Flight → Flight) : (s.modFlight r g).fcu = s.fcu := rfl
@[simp] theorem State.tim_modFlight (s : State) (r : DescRef) (g : Flight → Flight) : (s.modFlight r g).tim = s.tim := rfl
@[simp] theorem State.crc_modFlight (s : State) (r : DescRef) (g : Flight → Flight) : (s.modFlight r g).crc = s.crc := rfl
@[simp] theorem State.pins_modFlight (s : State) (r : DescRef) (g : Flight → Flight) : (s.modFlight r g).pins = s.pins := rfl
@[simp] theorem State.dbg_modFlight (s : State) (r : DescRef) (g : Flight → Flight) : (s.modFlight r g).dbg = s.dbg := rfl
@[simp] theorem State.cmb_modFlight (s : State) (r : DescRef) (g : Flight → Flight) : (s.modFlight r g).cmb = s.cmb := rfl
@[simp] theorem State.isp_modFlight (s : State) (r : DescRef) (g : Flight → Flight) : (s.modFlight r g).isp = s.isp := rfl
@[simp] theorem State.spx_modFlight (s : State) (r : DescRef) (g : Flight → Flight) : (s.modFlight r g).spx = s.spx := rfl
@[simp] theorem State.tdm_modFlight (s : State) (r : DescRef) (g : Flight → Flight) : (s.modFlight r g).tdm = s.tdm := rfl
@[simp] theorem State.vcd_modFlight (s : State) (r : DescRef) (g : Flight → Flight) : (s.modFlight r g).vcd = s.vcd := rfl
@[simp] theorem State.vcdLast_modFlight (s : State) (r : DescRef) (g : Flight → Flight) : (s.modFlight r g).vcdLast = s.vcdLast := rfl
@[simp] theorem State.eth_modFlight (s : State) (r : DescRef) (g : Flight → Flight) : (s.modFlight r g).eth = s.eth := rfl
@[simp] theorem State.hmp_modFlight (s : State) (r : DescRef) (g : Flight → Flight) : (s.modFlight r g).hmp = s.hmp := rfl
@[simp] theorem State.pwr_modFlight (s : State) (r : DescRef) (g : Flight → Flight) : (s.modFlight r g).pwr = s.pwr := rfl
@[simp] theorem State.boot_modFlight (s : State) (r : DescRef) (g : Flight → Flight) : (s.modFlight r g).boot = s.boot := rfl
@[simp] theorem State.adm_modFlight (s : State) (r : DescRef) (g : Flight → Flight) : (s.modFlight r g).adm = s.adm := rfl
@[simp] theorem State.lastAccess_modFlight (s : State) (r : DescRef) (g : Flight → Flight) : (s.modFlight r g).lastAccess = s.lastAccess := rfl
@[simp] theorem State.freeIndex_modFlight (s : State) (r : DescRef) (g : Flight → Flight) : (s.modFlight r g).freeIndex = s.freeIndex := rfl

@[simp] theorem State.free_regs (s : State) (w : Nat) : (s.free w).2.regs = s.regs := rfl
@[simp] theorem State.free_mem (s : State) (w : Nat) : (s.free w).2.mem = s.mem := rfl

end Sys2Proof.Machine
end

