-- ==== Sys2Proof/Laws/Fields.lean ====
section
/-! SUPPORT. Laws of register fields: what a field reads after a field of the same or of another register has been set, and what the common
end of a register write leaves. -/

namespace Sys2Proof.Machine

theorem bits_testBit (x lo len i : Nat) : (bits x lo len).testBit i = (decide (i < len) && x.testBit (lo + i)) := by
  unfold bits
  rw [Nat.testBit_mod_two_pow, Nat.testBit_shiftRight]

theorem mask_testBit (lo len v i : Nat) : ((v % 2 ^ len) * 2 ^ lo).testBit i = (decide (lo ≤ i) && decide (i - lo < len) && v.testBit (i - lo)) := by
  rw [Nat.testBit_mul_two_pow, Nat.testBit_mod_two_pow, Bool.and_assoc]

theorem putField_testBit (w : Word) (lo len v i : Nat) : (putField w lo len v).toNat.testBit i =
    (decide (i < 64) && (if lo ≤ i ∧ i < lo + len then v.testBit (i - lo) else w.toNat.testBit i)) := by
  unfold putField
  have h1 : (2 ^ len - 1) = (2 ^ len - 1) % 2 ^ len := (Nat.mod_eq_of_lt (Nat.sub_lt (Nat.two_pow_pos len) (by omega))).symm
  rw [h1]
  simp only [BitVec.toNat_or, BitVec.toNat_and, BitVec.toNat_not, BitVec.toNat_ofNat, Nat.testBit_or, Nat.testBit_and,
    Nat.testBit_mod_two_pow, mask_testBit]
  rw [Nat.sub_sub, Nat.add_comm 1, Nat.testBit_two_pow_sub_succ (Nat.mod_lt _ (Nat.two_pow_pos 64))]
  simp only [Nat.testBit_mod_two_pow, mask_testBit, Nat.testBit_two_pow_sub_one]
  by_cases h64 : i < 64
  · by_cases hl : lo ≤ i
    · by_cases hr : i < lo + len
      · have : i - lo < len := by omega
        simp [h64, hl, hr, this]
      · have : ¬ i - lo < len := by omega
        simp [h64, hl, hr, this]
    · simp [h64, hl]
  · have : w.toNat.testBit i = false := Nat.testBit_lt_two_pow (Nat.lt_of_lt_of_le w.isLt (Nat.pow_le_pow_right (by omega) (by omega)))
    simp [h64]

theorem bits_putField_self (w : Word) {lo len : Nat} (v : Nat) (h : lo + len ≤ 64) : bits (putField w lo len v).toNat lo len = v % 2 ^ len := by
  refine Nat.eq_of_testBit_eq (fun i => ?_)
  rw [bits_testBit, putField_testBit, Nat.testBit_mod_two_pow]
  by_cases hi : i < len
  · have h1 : lo + i < 64 := by omega
    simp [hi, h1]
  · simp [hi]

theorem bits_putField_ne (w : Word) {lo len lo' len' : Nat} (v : Nat) (h : lo' + len' ≤ lo ∨ lo + len ≤ lo') :
    bits (putField w lo len v).toNat lo' len' = bits w.toNat lo' len' := by
  refine Nat.eq_of_testBit_eq (fun i => ?_)
  rw [bits_testBit, bits_testBit, putField_testBit]
  by_cases hi : i < len'
  · have hn : ¬ (lo ≤ lo' + i ∧ lo' + i < lo + len) := by omega
    by_cases h64 : lo' + i < 64
    · simp only [hi, hn, h64, if_false, decide_true, Bool.true_and]
    · have hw : w.toNat.testBit (lo' + i) = false :=
        Nat.testBit_lt_two_pow (Nat.lt_of_lt_of_le w.isLt (Nat.pow_le_pow_right (by omega) (by omega)))
      simp only [h64, hw, decide_false, Bool.false_and]
  · simp only [hi, decide_false, Bool.false_and]

/-! ### Registers -/

theorem State.rword_rset_self (s : State) (r : Reg) (w : Word) (i j k l : Nat) : (s.rset r w i j k l).rword r i j k l = w := by
  simp only [State.rword, State.rset, AMap.get?_set_self, Option.getD_some]

theorem State.rword_rset_ne (s : State) {r r' : Reg} (w : Word) {i j k l i' j' k' l' : Nat}
    (h : r'.addr i' j' k' l' ≠ r.addr i j k l) : (s.rset r w i j k l).rword r' i' j' k' l' = s.rword r' i' j' k' l' := by
  simp only [State.rword, State.rset, AMap.get?_set_ne _ _ h]

/-- A field just set. -/
theorem State.fget_fset_self (s : State) {f : Field} (v i j k l : Nat) (h : f.lo + f.len ≤ 64) :
    (s.fset f v i j k l).fget f i j k l = v % 2 ^ f.len := by
  simp only [State.fget, State.fset, State.rword_rset_self, bits_putField_self _ v h]

/-- A field of another register copy. -/
theorem State.fget_fset_ne (s : State) {f g : Field} (v : Nat) {i j k l i' j' k' l' : Nat}
    (h : g.reg.addr i' j' k' l' ≠ f.reg.addr i j k l) : (s.fset f v i j k l).fget g i' j' k' l' = s.fget g i' j' k' l' := by
  simp only [State.fget, State.fset, State.rword_rset_ne _ _ h]

/-- Another field of the same register copy. -/
theorem State.fget_fset_other (s : State) {f g : Field} (v i j k l : Nat) (hr : g.reg = f.reg)
    (h : g.lo + g.len ≤ f.lo ∨ f.lo + f.len ≤ g.lo) : (s.fset f v i j k l).fget g i j k l = s.fget g i j k l := by
  simp only [State.fget, State.fset, hr, State.rword_rset_self, bits_putField_ne _ v h]

end Sys2Proof.Machine
end

