-- ==== Sys2Proof/Laws/Goes.lean ====
section
/-! SUPPORT. A well-formed command always answers a next state: only a command that names no unit of the part stops. -/

set_option Elab.async false

namespace Sys2Proof.Machine

/-- The outcome is a next state. -/
def Goes (o : Result) : Prop := ∃ t, o = .next t

theorem Goes.next {t : State} : Goes (.next t) := ⟨t, rfl⟩

theorem Goes.due {c : Bool} {s t : State} : Goes (due c s t) := ⟨_, rfl⟩

theorem Goes.unit {c : Bool} {r : Result} (hc : c = true) (h : Goes r) : Goes (unit c r) := by
  subst hc
  exact h

theorem Goes.regCmd {ok : Bool} {s : State} {src a w v : Nat} {e : State → State × Nat} (hc : (ok && isSource src) = true) :
    Goes (regCmd ok s src a w v e) := Goes.unit hc Goes.due

theorem Goes.readCmd {ok : Bool} {s : State} {src a : Nat} {e : State → State × Nat} (hc : (ok && isSource src) = true) :
    Goes (readCmd ok s src a e) := Goes.unit hc Goes.due

theorem Goes.engineCmd {c e : Nat} {sel : Nat → Bool} {ready : State → Job → Bool} {s : State} {body : State → Job → State}
    (hc : decide (c < 8) = true) : Goes (engineCmd c e sel ready s body) := by
  refine Goes.unit hc ?_
  split
  · exact Goes.next
  · exact Goes.due

theorem Goes.hmpCmd {want : Nat → Bool} {s : State} {cost : HmpReq → State → Nat} {body : HmpReq → State → State} :
    Goes (hmpCmd want s cost body) := by
  unfold Machine.hmpCmd
  split
  · exact Goes.next
  · exact Goes.due

theorem Goes.admCmd {op : Nat} {s : State} {body : Nat → State → State} : Goes (admCmd op s body) := by
  unfold Machine.admCmd
  split
  · exact Goes.next
  · exact Goes.due

theorem Goes.admCtxCmd {op : Nat} {s : State} {body : Nat → Nat → AdmCtx → State → State} : Goes (admCtxCmd op s body) := Goes.admCmd

theorem execResetAssert_goes {s : State} (hw : Instr.wf (.resetAssert) = true) : Goes (execResetAssert s) := by
  simp only [Instr.wf, Instr.source, Instr.unitOk, Option.elim_some, Option.elim_none] at hw
  unfold execResetAssert
  try dsimp only
  repeat' (first | exact Goes.next | with_reducible exact Goes.due | with_reducible exact Goes.hmpCmd | with_reducible exact Goes.admCtxCmd | with_reducible exact Goes.admCmd | with_reducible refine Goes.regCmd ?_ | with_reducible refine Goes.readCmd ?_ | with_reducible refine Goes.engineCmd ?_ | with_reducible refine Goes.unit ?_ ?_ | (simp_all; done) | (simp_all [queueCount, mailboxCount, inWindow]; done) | split)

theorem execResetRelease_goes {s : State} {straps : _} (hw : Instr.wf (.resetRelease straps) = true) : Goes (execResetRelease straps s) := by
  simp only [Instr.wf, Instr.source, Instr.unitOk, Option.elim_some, Option.elim_none] at hw
  unfold execResetRelease
  try dsimp only
  repeat' (first | exact Goes.next | with_reducible exact Goes.due | with_reducible exact Goes.hmpCmd | with_reducible exact Goes.admCtxCmd | with_reducible exact Goes.admCmd | with_reducible refine Goes.regCmd ?_ | with_reducible refine Goes.readCmd ?_ | with_reducible refine Goes.engineCmd ?_ | with_reducible refine Goes.unit ?_ ?_ | (simp_all; done) | (simp_all [queueCount, mailboxCount, inWindow]; done) | split)

theorem execClocksStart_goes {s : State} (hw : Instr.wf (.clocksStart) = true) : Goes (execClocksStart s) := by
  simp only [Instr.wf, Instr.source, Instr.unitOk, Option.elim_some, Option.elim_none] at hw
  unfold execClocksStart
  try dsimp only
  repeat' (first | exact Goes.next | with_reducible exact Goes.due | with_reducible exact Goes.hmpCmd | with_reducible exact Goes.admCtxCmd | with_reducible exact Goes.admCmd | with_reducible refine Goes.regCmd ?_ | with_reducible refine Goes.readCmd ?_ | with_reducible refine Goes.engineCmd ?_ | with_reducible refine Goes.unit ?_ ?_ | (simp_all; done) | (simp_all [queueCount, mailboxCount, inWindow]; done) | split)

theorem execPllLockLoss_goes {s : State} (hw : Instr.wf (.pllLockLoss) = true) : Goes (execPllLockLoss s) := by
  simp only [Instr.wf, Instr.source, Instr.unitOk, Option.elim_some, Option.elim_none] at hw
  unfold execPllLockLoss
  try dsimp only
  repeat' (first | exact Goes.next | with_reducible exact Goes.due | with_reducible exact Goes.hmpCmd | with_reducible exact Goes.admCtxCmd | with_reducible exact Goes.admCmd | with_reducible refine Goes.regCmd ?_ | with_reducible refine Goes.readCmd ?_ | with_reducible refine Goes.engineCmd ?_ | with_reducible refine Goes.unit ?_ ?_ | (simp_all; done) | (simp_all [queueCount, mailboxCount, inWindow]; done) | split)

theorem execReferenceLoss_goes {s : State} (hw : Instr.wf (.referenceLoss) = true) : Goes (execReferenceLoss s) := by
  simp only [Instr.wf, Instr.source, Instr.unitOk, Option.elim_some, Option.elim_none] at hw
  unfold execReferenceLoss
  try dsimp only
  repeat' (first | exact Goes.next | with_reducible exact Goes.due | with_reducible exact Goes.hmpCmd | with_reducible exact Goes.admCtxCmd | with_reducible exact Goes.admCmd | with_reducible refine Goes.regCmd ?_ | with_reducible refine Goes.readCmd ?_ | with_reducible refine Goes.engineCmd ?_ | with_reducible refine Goes.unit ?_ ?_ | (simp_all; done) | (simp_all [queueCount, mailboxCount, inWindow]; done) | split)

theorem execClocksRestart_goes {s : State} (hw : Instr.wf (.clocksRestart) = true) : Goes (execClocksRestart s) := by
  simp only [Instr.wf, Instr.source, Instr.unitOk, Option.elim_some, Option.elim_none] at hw
  unfold execClocksRestart
  try dsimp only
  repeat' (first | exact Goes.next | with_reducible exact Goes.due | with_reducible exact Goes.hmpCmd | with_reducible exact Goes.admCtxCmd | with_reducible exact Goes.admCmd | with_reducible refine Goes.regCmd ?_ | with_reducible refine Goes.readCmd ?_ | with_reducible refine Goes.engineCmd ?_ | with_reducible refine Goes.unit ?_ ?_ | (simp_all; done) | (simp_all [queueCount, mailboxCount, inWindow]; done) | split)

theorem execRationPeriodBoundary_goes {s : State} (hw : Instr.wf (.rationPeriodBoundary) = true) : Goes (execRationPeriodBoundary s) := by
  simp only [Instr.wf, Instr.source, Instr.unitOk, Option.elim_some, Option.elim_none] at hw
  unfold execRationPeriodBoundary
  try dsimp only
  repeat' (first | exact Goes.next | with_reducible exact Goes.due | with_reducible exact Goes.hmpCmd | with_reducible exact Goes.admCtxCmd | with_reducible exact Goes.admCmd | with_reducible refine Goes.regCmd ?_ | with_reducible refine Goes.readCmd ?_ | with_reducible refine Goes.engineCmd ?_ | with_reducible refine Goes.unit ?_ ?_ | (simp_all; done) | (simp_all [queueCount, mailboxCount, inWindow]; done) | split)

theorem execLinkReplay_goes {s : State} {link : _} {bytes : _} {success : _} (hw : Instr.wf (.linkReplay link bytes success) = true) : Goes (execLinkReplay link bytes success s) := by
  simp only [Instr.wf, Instr.source, Instr.unitOk, Option.elim_some, Option.elim_none] at hw
  unfold execLinkReplay
  try dsimp only
  repeat' (first | exact Goes.next | with_reducible exact Goes.due | with_reducible exact Goes.hmpCmd | with_reducible exact Goes.admCtxCmd | with_reducible exact Goes.admCmd | with_reducible refine Goes.regCmd ?_ | with_reducible refine Goes.readCmd ?_ | with_reducible refine Goes.engineCmd ?_ | with_reducible refine Goes.unit ?_ ?_ | (simp_all; done) | (simp_all [queueCount, mailboxCount, inWindow]; done) | split)

theorem execDescriptorFetch_goes {s : State} {queue : _} (hw : Instr.wf (.descriptorFetch queue) = true) : Goes (execDescriptorFetch queue s) := by
  simp only [Instr.wf, Instr.source, Instr.unitOk, Option.elim_some, Option.elim_none] at hw
  unfold execDescriptorFetch
  try dsimp only
  repeat' (first | exact Goes.next | with_reducible exact Goes.due | with_reducible exact Goes.hmpCmd | with_reducible exact Goes.admCtxCmd | with_reducible exact Goes.admCmd | with_reducible refine Goes.regCmd ?_ | with_reducible refine Goes.readCmd ?_ | with_reducible refine Goes.engineCmd ?_ | with_reducible refine Goes.unit ?_ ?_ | (simp_all; done) | (simp_all [queueCount, mailboxCount, inWindow]; done) | split)

theorem execDescriptorForward_goes {s : State} {core : _} (hw : Instr.wf (.descriptorForward core) = true) : Goes (execDescriptorForward core s) := by
  simp only [Instr.wf, Instr.source, Instr.unitOk, Option.elim_some, Option.elim_none] at hw
  unfold execDescriptorForward
  try dsimp only
  repeat' (first | exact Goes.next | with_reducible exact Goes.due | with_reducible exact Goes.hmpCmd | with_reducible exact Goes.admCtxCmd | with_reducible exact Goes.admCmd | with_reducible refine Goes.regCmd ?_ | with_reducible refine Goes.readCmd ?_ | with_reducible refine Goes.engineCmd ?_ | with_reducible refine Goes.unit ?_ ?_ | (simp_all; done) | (simp_all [queueCount, mailboxCount, inWindow]; done) | split)

theorem execNop_goes {s : State} {ref : _} (hw : Instr.wf (.nop ref) = true) : Goes (execNop ref s) := by
  simp only [Instr.wf, Instr.source, Instr.unitOk, Option.elim_some, Option.elim_none] at hw
  unfold execNop
  try dsimp only
  repeat' (first | exact Goes.next | with_reducible exact Goes.due | with_reducible exact Goes.hmpCmd | with_reducible exact Goes.admCtxCmd | with_reducible exact Goes.admCmd | with_reducible refine Goes.regCmd ?_ | with_reducible refine Goes.readCmd ?_ | with_reducible refine Goes.engineCmd ?_ | with_reducible refine Goes.unit ?_ ?_ | (simp_all; done) | (simp_all [queueCount, mailboxCount, inWindow]; done) | split)

theorem execCaravanBegin_goes {s : State} {queue : _} (hw : Instr.wf (.caravanBegin queue) = true) : Goes (execCaravanBegin queue s) := by
  simp only [Instr.wf, Instr.source, Instr.unitOk, Option.elim_some, Option.elim_none] at hw
  unfold execCaravanBegin
  try dsimp only
  repeat' (first | exact Goes.next | with_reducible exact Goes.due | with_reducible exact Goes.hmpCmd | with_reducible exact Goes.admCtxCmd | with_reducible exact Goes.admCmd | with_reducible refine Goes.regCmd ?_ | with_reducible refine Goes.readCmd ?_ | with_reducible refine Goes.engineCmd ?_ | with_reducible refine Goes.unit ?_ ?_ | (simp_all; done) | (simp_all [queueCount, mailboxCount, inWindow]; done) | split)

theorem execCaravanPlace_goes {s : State} (hw : Instr.wf (.caravanPlace) = true) : Goes (execCaravanPlace s) := by
  simp only [Instr.wf, Instr.source, Instr.unitOk, Option.elim_some, Option.elim_none] at hw
  unfold execCaravanPlace
  try dsimp only
  repeat' (first | exact Goes.next | with_reducible exact Goes.due | with_reducible exact Goes.hmpCmd | with_reducible exact Goes.admCtxCmd | with_reducible exact Goes.admCmd | with_reducible refine Goes.regCmd ?_ | with_reducible refine Goes.readCmd ?_ | with_reducible refine Goes.engineCmd ?_ | with_reducible refine Goes.unit ?_ ?_ | (simp_all; done) | (simp_all [queueCount, mailboxCount, inWindow]; done) | split)

theorem execCaravanEnd_goes {s : State} {core : _} (hw : Instr.wf (.caravanEnd core) = true) : Goes (execCaravanEnd core s) := by
  simp only [Instr.wf, Instr.source, Instr.unitOk, Option.elim_some, Option.elim_none] at hw
  unfold execCaravanEnd
  try dsimp only
  repeat' (first | exact Goes.next | with_reducible exact Goes.due | with_reducible exact Goes.hmpCmd | with_reducible exact Goes.admCtxCmd | with_reducible exact Goes.admCmd | with_reducible refine Goes.regCmd ?_ | with_reducible refine Goes.readCmd ?_ | with_reducible refine Goes.engineCmd ?_ | with_reducible refine Goes.unit ?_ ?_ | (simp_all; done) | (simp_all [queueCount, mailboxCount, inWindow]; done) | split)

theorem execFence_goes {s : State} {queue : _} (hw : Instr.wf (.fence queue) = true) : Goes (execFence queue s) := by
  simp only [Instr.wf, Instr.source, Instr.unitOk, Option.elim_some, Option.elim_none] at hw
  unfold execFence
  try dsimp only
  repeat' (first | exact Goes.next | with_reducible exact Goes.due | with_reducible exact Goes.hmpCmd | with_reducible exact Goes.admCtxCmd | with_reducible exact Goes.admCmd | with_reducible refine Goes.regCmd ?_ | with_reducible refine Goes.readCmd ?_ | with_reducible refine Goes.engineCmd ?_ | with_reducible refine Goes.unit ?_ ?_ | (simp_all; done) | (simp_all [queueCount, mailboxCount, inWindow]; done) | split)

theorem execGroupOpen_goes {s : State} {core : _} (hw : Instr.wf (.groupOpen core) = true) : Goes (execGroupOpen core s) := by
  simp only [Instr.wf, Instr.source, Instr.unitOk, Option.elim_some, Option.elim_none] at hw
  unfold execGroupOpen
  try dsimp only
  repeat' (first | exact Goes.next | with_reducible exact Goes.due | with_reducible exact Goes.hmpCmd | with_reducible exact Goes.admCtxCmd | with_reducible exact Goes.admCmd | with_reducible refine Goes.regCmd ?_ | with_reducible refine Goes.readCmd ?_ | with_reducible refine Goes.engineCmd ?_ | with_reducible refine Goes.unit ?_ ?_ | (simp_all; done) | (simp_all [queueCount, mailboxCount, inWindow]; done) | split)

theorem execGroupStart_goes {s : State} {core : _} (hw : Instr.wf (.groupStart core) = true) : Goes (execGroupStart core s) := by
  simp only [Instr.wf, Instr.source, Instr.unitOk, Option.elim_some, Option.elim_none] at hw
  unfold execGroupStart
  try dsimp only
  repeat' (first | exact Goes.next | with_reducible exact Goes.due | with_reducible exact Goes.hmpCmd | with_reducible exact Goes.admCtxCmd | with_reducible exact Goes.admCmd | with_reducible refine Goes.regCmd ?_ | with_reducible refine Goes.readCmd ?_ | with_reducible refine Goes.engineCmd ?_ | with_reducible refine Goes.unit ?_ ?_ | (simp_all; done) | (simp_all [queueCount, mailboxCount, inWindow]; done) | split)

theorem execMemberStart_goes {s : State} {core : _} (hw : Instr.wf (.memberStart core) = true) : Goes (execMemberStart core s) := by
  simp only [Instr.wf, Instr.source, Instr.unitOk, Option.elim_some, Option.elim_none] at hw
  unfold execMemberStart
  try dsimp only
  repeat' (first | exact Goes.next | with_reducible exact Goes.due | with_reducible exact Goes.hmpCmd | with_reducible exact Goes.admCtxCmd | with_reducible exact Goes.admCmd | with_reducible refine Goes.regCmd ?_ | with_reducible refine Goes.readCmd ?_ | with_reducible refine Goes.engineCmd ?_ | with_reducible refine Goes.unit ?_ ?_ | (simp_all; done) | (simp_all [queueCount, mailboxCount, inWindow]; done) | split)

theorem execGroupEnd_goes {s : State} {core : _} (hw : Instr.wf (.groupEnd core) = true) : Goes (execGroupEnd core s) := by
  simp only [Instr.wf, Instr.source, Instr.unitOk, Option.elim_some, Option.elim_none] at hw
  unfold execGroupEnd
  try dsimp only
  repeat' (first | exact Goes.next | with_reducible exact Goes.due | with_reducible exact Goes.hmpCmd | with_reducible exact Goes.admCtxCmd | with_reducible exact Goes.admCmd | with_reducible refine Goes.regCmd ?_ | with_reducible refine Goes.readCmd ?_ | with_reducible refine Goes.engineCmd ?_ | with_reducible refine Goes.unit ?_ ?_ | (simp_all; done) | (simp_all [queueCount, mailboxCount, inWindow]; done) | split)

theorem execMxaStream_goes {s : State} {core : _} {array : _} (hw : Instr.wf (.mxaStream core array) = true) : Goes (execMxaStream core array s) := by
  simp only [Instr.wf, Instr.source, Instr.unitOk, Option.elim_some, Option.elim_none] at hw
  unfold execMxaStream
  unfold arrayCmd
  try dsimp only
  repeat' (first | exact Goes.next | with_reducible exact Goes.due | with_reducible exact Goes.hmpCmd | with_reducible exact Goes.admCtxCmd | with_reducible exact Goes.admCmd | with_reducible refine Goes.regCmd ?_ | with_reducible refine Goes.readCmd ?_ | with_reducible refine Goes.engineCmd ?_ | with_reducible refine Goes.unit ?_ ?_ | (simp_all; done) | (simp_all [queueCount, mailboxCount, inWindow]; done) | split)

theorem execMxaPacked_goes {s : State} {core : _} {array : _} (hw : Instr.wf (.mxaPacked core array) = true) : Goes (execMxaPacked core array s) := by
  simp only [Instr.wf, Instr.source, Instr.unitOk, Option.elim_some, Option.elim_none] at hw
  unfold execMxaPacked
  unfold arrayCmd
  try dsimp only
  repeat' (first | exact Goes.next | with_reducible exact Goes.due | with_reducible exact Goes.hmpCmd | with_reducible exact Goes.admCtxCmd | with_reducible exact Goes.admCmd | with_reducible refine Goes.regCmd ?_ | with_reducible refine Goes.readCmd ?_ | with_reducible refine Goes.engineCmd ?_ | with_reducible refine Goes.unit ?_ ?_ | (simp_all; done) | (simp_all [queueCount, mailboxCount, inWindow]; done) | split)

theorem execMxaThrough_goes {s : State} {core : _} {array : _} (hw : Instr.wf (.mxaThrough core array) = true) : Goes (execMxaThrough core array s) := by
  simp only [Instr.wf, Instr.source, Instr.unitOk, Option.elim_some, Option.elim_none] at hw
  unfold execMxaThrough
  unfold arrayCmd
  try dsimp only
  repeat' (first | exact Goes.next | with_reducible exact Goes.due | with_reducible exact Goes.hmpCmd | with_reducible exact Goes.admCtxCmd | with_reducible exact Goes.admCmd | with_reducible refine Goes.regCmd ?_ | with_reducible refine Goes.readCmd ?_ | with_reducible refine Goes.engineCmd ?_ | with_reducible refine Goes.unit ?_ ?_ | (simp_all; done) | (simp_all [queueCount, mailboxCount, inWindow]; done) | split)

theorem execMvpMatvec_goes {s : State} {core : _} (hw : Instr.wf (.mvpMatvec core) = true) : Goes (execMvpMatvec core s) := by
  simp only [Instr.wf, Instr.source, Instr.unitOk, Option.elim_some, Option.elim_none] at hw
  unfold execMvpMatvec
  try dsimp only
  repeat' (first | exact Goes.next | with_reducible exact Goes.due | with_reducible exact Goes.hmpCmd | with_reducible exact Goes.admCtxCmd | with_reducible exact Goes.admCmd | with_reducible refine Goes.regCmd ?_ | with_reducible refine Goes.readCmd ?_ | with_reducible refine Goes.engineCmd ?_ | with_reducible refine Goes.unit ?_ ?_ | (simp_all; done) | (simp_all [queueCount, mailboxCount, inWindow]; done) | split)

theorem execWinFeed_goes {s : State} {core : _} (hw : Instr.wf (.winFeed core) = true) : Goes (execWinFeed core s) := by
  simp only [Instr.wf, Instr.source, Instr.unitOk, Option.elim_some, Option.elim_none] at hw
  unfold execWinFeed
  try dsimp only
  repeat' (first | exact Goes.next | with_reducible exact Goes.due | with_reducible exact Goes.hmpCmd | with_reducible exact Goes.admCtxCmd | with_reducible exact Goes.admCmd | with_reducible refine Goes.regCmd ?_ | with_reducible refine Goes.readCmd ?_ | with_reducible refine Goes.engineCmd ?_ | with_reducible refine Goes.unit ?_ ?_ | (simp_all; done) | (simp_all [queueCount, mailboxCount, inWindow]; done) | split)

theorem execWinRegroup_goes {s : State} {core : _} (hw : Instr.wf (.winRegroup core) = true) : Goes (execWinRegroup core s) := by
  simp only [Instr.wf, Instr.source, Instr.unitOk, Option.elim_some, Option.elim_none] at hw
  unfold execWinRegroup
  try dsimp only
  repeat' (first | exact Goes.next | with_reducible exact Goes.due | with_reducible exact Goes.hmpCmd | with_reducible exact Goes.admCtxCmd | with_reducible exact Goes.admCmd | with_reducible refine Goes.regCmd ?_ | with_reducible refine Goes.readCmd ?_ | with_reducible refine Goes.engineCmd ?_ | with_reducible refine Goes.unit ?_ ?_ | (simp_all; done) | (simp_all [queueCount, mailboxCount, inWindow]; done) | split)

theorem execAdd_goes {s : State} {core : _} (hw : Instr.wf (.add core) = true) : Goes (execAdd core s) := by
  simp only [Instr.wf, Instr.source, Instr.unitOk, Option.elim_some, Option.elim_none] at hw
  unfold execAdd
  try dsimp only
  repeat' (first | exact Goes.next | with_reducible exact Goes.due | with_reducible exact Goes.hmpCmd | with_reducible exact Goes.admCtxCmd | with_reducible exact Goes.admCmd | with_reducible refine Goes.regCmd ?_ | with_reducible refine Goes.readCmd ?_ | with_reducible refine Goes.engineCmd ?_ | with_reducible refine Goes.unit ?_ ?_ | (simp_all; done) | (simp_all [queueCount, mailboxCount, inWindow]; done) | split)

theorem execSub_goes {s : State} {core : _} (hw : Instr.wf (.sub core) = true) : Goes (execSub core s) := by
  simp only [Instr.wf, Instr.source, Instr.unitOk, Option.elim_some, Option.elim_none] at hw
  unfold execSub
  unfold vecCmd
  try dsimp only
  repeat' (first | exact Goes.next | with_reducible exact Goes.due | with_reducible exact Goes.hmpCmd | with_reducible exact Goes.admCtxCmd | with_reducible exact Goes.admCmd | with_reducible refine Goes.regCmd ?_ | with_reducible refine Goes.readCmd ?_ | with_reducible refine Goes.engineCmd ?_ | with_reducible refine Goes.unit ?_ ?_ | (simp_all; done) | (simp_all [queueCount, mailboxCount, inWindow]; done) | split)

theorem execMul_goes {s : State} {core : _} (hw : Instr.wf (.mul core) = true) : Goes (execMul core s) := by
  simp only [Instr.wf, Instr.source, Instr.unitOk, Option.elim_some, Option.elim_none] at hw
  unfold execMul
  unfold vecCmd
  try dsimp only
  repeat' (first | exact Goes.next | with_reducible exact Goes.due | with_reducible exact Goes.hmpCmd | with_reducible exact Goes.admCtxCmd | with_reducible exact Goes.admCmd | with_reducible refine Goes.regCmd ?_ | with_reducible refine Goes.readCmd ?_ | with_reducible refine Goes.engineCmd ?_ | with_reducible refine Goes.unit ?_ ?_ | (simp_all; done) | (simp_all [queueCount, mailboxCount, inWindow]; done) | split)

theorem execFma_goes {s : State} {core : _} (hw : Instr.wf (.fma core) = true) : Goes (execFma core s) := by
  simp only [Instr.wf, Instr.source, Instr.unitOk, Option.elim_some, Option.elim_none] at hw
  unfold execFma
  unfold vecCmd
  try dsimp only
  repeat' (first | exact Goes.next | with_reducible exact Goes.due | with_reducible exact Goes.hmpCmd | with_reducible exact Goes.admCtxCmd | with_reducible exact Goes.admCmd | with_reducible refine Goes.regCmd ?_ | with_reducible refine Goes.readCmd ?_ | with_reducible refine Goes.engineCmd ?_ | with_reducible refine Goes.unit ?_ ?_ | (simp_all; done) | (simp_all [queueCount, mailboxCount, inWindow]; done) | split)

theorem execMin_goes {s : State} {core : _} (hw : Instr.wf (.min core) = true) : Goes (execMin core s) := by
  simp only [Instr.wf, Instr.source, Instr.unitOk, Option.elim_some, Option.elim_none] at hw
  unfold execMin
  unfold vecCmd
  try dsimp only
  repeat' (first | exact Goes.next | with_reducible exact Goes.due | with_reducible exact Goes.hmpCmd | with_reducible exact Goes.admCtxCmd | with_reducible exact Goes.admCmd | with_reducible refine Goes.regCmd ?_ | with_reducible refine Goes.readCmd ?_ | with_reducible refine Goes.engineCmd ?_ | with_reducible refine Goes.unit ?_ ?_ | (simp_all; done) | (simp_all [queueCount, mailboxCount, inWindow]; done) | split)

theorem execMax_goes {s : State} {core : _} (hw : Instr.wf (.max core) = true) : Goes (execMax core s) := by
  simp only [Instr.wf, Instr.source, Instr.unitOk, Option.elim_some, Option.elim_none] at hw
  unfold execMax
  unfold vecCmd
  try dsimp only
  repeat' (first | exact Goes.next | with_reducible exact Goes.due | with_reducible exact Goes.hmpCmd | with_reducible exact Goes.admCtxCmd | with_reducible exact Goes.admCmd | with_reducible refine Goes.regCmd ?_ | with_reducible refine Goes.readCmd ?_ | with_reducible refine Goes.engineCmd ?_ | with_reducible refine Goes.unit ?_ ?_ | (simp_all; done) | (simp_all [queueCount, mailboxCount, inWindow]; done) | split)

theorem execAbs_goes {s : State} {core : _} (hw : Instr.wf (.abs core) = true) : Goes (execAbs core s) := by
  simp only [Instr.wf, Instr.source, Instr.unitOk, Option.elim_some, Option.elim_none] at hw
  unfold execAbs
  unfold vecCmd
  try dsimp only
  repeat' (first | exact Goes.next | with_reducible exact Goes.due | with_reducible exact Goes.hmpCmd | with_reducible exact Goes.admCtxCmd | with_reducible exact Goes.admCmd | with_reducible refine Goes.regCmd ?_ | with_reducible refine Goes.readCmd ?_ | with_reducible refine Goes.engineCmd ?_ | with_reducible refine Goes.unit ?_ ?_ | (simp_all; done) | (simp_all [queueCount, mailboxCount, inWindow]; done) | split)

theorem execNeg_goes {s : State} {core : _} (hw : Instr.wf (.neg core) = true) : Goes (execNeg core s) := by
  simp only [Instr.wf, Instr.source, Instr.unitOk, Option.elim_some, Option.elim_none] at hw
  unfold execNeg
  unfold vecCmd
  try dsimp only
  repeat' (first | exact Goes.next | with_reducible exact Goes.due | with_reducible exact Goes.hmpCmd | with_reducible exact Goes.admCtxCmd | with_reducible exact Goes.admCmd | with_reducible refine Goes.regCmd ?_ | with_reducible refine Goes.readCmd ?_ | with_reducible refine Goes.engineCmd ?_ | with_reducible refine Goes.unit ?_ ?_ | (simp_all; done) | (simp_all [queueCount, mailboxCount, inWindow]; done) | split)

theorem execClamp_goes {s : State} {core : _} (hw : Instr.wf (.clamp core) = true) : Goes (execClamp core s) := by
  simp only [Instr.wf, Instr.source, Instr.unitOk, Option.elim_some, Option.elim_none] at hw
  unfold execClamp
  unfold vecCmd
  try dsimp only
  repeat' (first | exact Goes.next | with_reducible exact Goes.due | with_reducible exact Goes.hmpCmd | with_reducible exact Goes.admCtxCmd | with_reducible exact Goes.admCmd | with_reducible refine Goes.regCmd ?_ | with_reducible refine Goes.readCmd ?_ | with_reducible refine Goes.engineCmd ?_ | with_reducible refine Goes.unit ?_ ?_ | (simp_all; done) | (simp_all [queueCount, mailboxCount, inWindow]; done) | split)

theorem execSelect_goes {s : State} {core : _} (hw : Instr.wf (.select core) = true) : Goes (execSelect core s) := by
  simp only [Instr.wf, Instr.source, Instr.unitOk, Option.elim_some, Option.elim_none] at hw
  unfold execSelect
  unfold vecCmd
  try dsimp only
  repeat' (first | exact Goes.next | with_reducible exact Goes.due | with_reducible exact Goes.hmpCmd | with_reducible exact Goes.admCtxCmd | with_reducible exact Goes.admCmd | with_reducible refine Goes.regCmd ?_ | with_reducible refine Goes.readCmd ?_ | with_reducible refine Goes.engineCmd ?_ | with_reducible refine Goes.unit ?_ ?_ | (simp_all; done) | (simp_all [queueCount, mailboxCount, inWindow]; done) | split)

theorem execCurve_goes {s : State} {core : _} (hw : Instr.wf (.curve core) = true) : Goes (execCurve core s) := by
  simp only [Instr.wf, Instr.source, Instr.unitOk, Option.elim_some, Option.elim_none] at hw
  unfold execCurve
  unfold vecCmd
  try dsimp only
  repeat' (first | exact Goes.next | with_reducible exact Goes.due | with_reducible exact Goes.hmpCmd | with_reducible exact Goes.admCtxCmd | with_reducible exact Goes.admCmd | with_reducible refine Goes.regCmd ?_ | with_reducible refine Goes.readCmd ?_ | with_reducible refine Goes.engineCmd ?_ | with_reducible refine Goes.unit ?_ ?_ | (simp_all; done) | (simp_all [queueCount, mailboxCount, inWindow]; done) | split)

theorem execConvert_goes {s : State} {core : _} (hw : Instr.wf (.convert core) = true) : Goes (execConvert core s) := by
  simp only [Instr.wf, Instr.source, Instr.unitOk, Option.elim_some, Option.elim_none] at hw
  unfold execConvert
  unfold vecCmd
  try dsimp only
  repeat' (first | exact Goes.next | with_reducible exact Goes.due | with_reducible exact Goes.hmpCmd | with_reducible exact Goes.admCtxCmd | with_reducible exact Goes.admCmd | with_reducible refine Goes.regCmd ?_ | with_reducible refine Goes.readCmd ?_ | with_reducible refine Goes.engineCmd ?_ | with_reducible refine Goes.unit ?_ ?_ | (simp_all; done) | (simp_all [queueCount, mailboxCount, inWindow]; done) | split)

theorem execSlotAdd_goes {s : State} {core : _} (hw : Instr.wf (.slotAdd core) = true) : Goes (execSlotAdd core s) := by
  simp only [Instr.wf, Instr.source, Instr.unitOk, Option.elim_some, Option.elim_none] at hw
  unfold execSlotAdd
  unfold vecCmd
  try dsimp only
  repeat' (first | exact Goes.next | with_reducible exact Goes.due | with_reducible exact Goes.hmpCmd | with_reducible exact Goes.admCtxCmd | with_reducible exact Goes.admCmd | with_reducible refine Goes.regCmd ?_ | with_reducible refine Goes.readCmd ?_ | with_reducible refine Goes.engineCmd ?_ | with_reducible refine Goes.unit ?_ ?_ | (simp_all; done) | (simp_all [queueCount, mailboxCount, inWindow]; done) | split)

theorem execSlotToFp32_goes {s : State} {core : _} (hw : Instr.wf (.slotToFp32 core) = true) : Goes (execSlotToFp32 core s) := by
  simp only [Instr.wf, Instr.source, Instr.unitOk, Option.elim_some, Option.elim_none] at hw
  unfold execSlotToFp32
  unfold vecCmd
  try dsimp only
  repeat' (first | exact Goes.next | with_reducible exact Goes.due | with_reducible exact Goes.hmpCmd | with_reducible exact Goes.admCtxCmd | with_reducible exact Goes.admCmd | with_reducible refine Goes.regCmd ?_ | with_reducible refine Goes.readCmd ?_ | with_reducible refine Goes.engineCmd ?_ | with_reducible refine Goes.unit ?_ ?_ | (simp_all; done) | (simp_all [queueCount, mailboxCount, inWindow]; done) | split)

theorem execReduceSum_goes {s : State} {core : _} (hw : Instr.wf (.reduceSum core) = true) : Goes (execReduceSum core s) := by
  simp only [Instr.wf, Instr.source, Instr.unitOk, Option.elim_some, Option.elim_none] at hw
  unfold execReduceSum
  unfold vecCmd
  try dsimp only
  repeat' (first | exact Goes.next | with_reducible exact Goes.due | with_reducible exact Goes.hmpCmd | with_reducible exact Goes.admCtxCmd | with_reducible exact Goes.admCmd | with_reducible refine Goes.regCmd ?_ | with_reducible refine Goes.readCmd ?_ | with_reducible refine Goes.engineCmd ?_ | with_reducible refine Goes.unit ?_ ?_ | (simp_all; done) | (simp_all [queueCount, mailboxCount, inWindow]; done) | split)

theorem execReduceMax_goes {s : State} {core : _} (hw : Instr.wf (.reduceMax core) = true) : Goes (execReduceMax core s) := by
  simp only [Instr.wf, Instr.source, Instr.unitOk, Option.elim_some, Option.elim_none] at hw
  unfold execReduceMax
  unfold vecCmd
  try dsimp only
  repeat' (first | exact Goes.next | with_reducible exact Goes.due | with_reducible exact Goes.hmpCmd | with_reducible exact Goes.admCtxCmd | with_reducible exact Goes.admCmd | with_reducible refine Goes.regCmd ?_ | with_reducible refine Goes.readCmd ?_ | with_reducible refine Goes.engineCmd ?_ | with_reducible refine Goes.unit ?_ ?_ | (simp_all; done) | (simp_all [queueCount, mailboxCount, inWindow]; done) | split)

theorem execCurveLoad_goes {s : State} {core : _} (hw : Instr.wf (.curveLoad core) = true) : Goes (execCurveLoad core s) := by
  simp only [Instr.wf, Instr.source, Instr.unitOk, Option.elim_some, Option.elim_none] at hw
  unfold execCurveLoad
  unfold vecCmd
  try dsimp only
  repeat' (first | exact Goes.next | with_reducible exact Goes.due | with_reducible exact Goes.hmpCmd | with_reducible exact Goes.admCtxCmd | with_reducible exact Goes.admCmd | with_reducible refine Goes.regCmd ?_ | with_reducible refine Goes.readCmd ?_ | with_reducible refine Goes.engineCmd ?_ | with_reducible refine Goes.unit ?_ ?_ | (simp_all; done) | (simp_all [queueCount, mailboxCount, inWindow]; done) | split)

theorem execQntConvert_goes {s : State} {core : _} (hw : Instr.wf (.qntConvert core) = true) : Goes (execQntConvert core s) := by
  simp only [Instr.wf, Instr.source, Instr.unitOk, Option.elim_some, Option.elim_none] at hw
  unfold execQntConvert
  try dsimp only
  repeat' (first | exact Goes.next | with_reducible exact Goes.due | with_reducible exact Goes.hmpCmd | with_reducible exact Goes.admCtxCmd | with_reducible exact Goes.admCmd | with_reducible refine Goes.regCmd ?_ | with_reducible refine Goes.readCmd ?_ | with_reducible refine Goes.engineCmd ?_ | with_reducible refine Goes.unit ?_ ?_ | (simp_all; done) | (simp_all [queueCount, mailboxCount, inWindow]; done) | split)

theorem execQntAdapt_goes {s : State} {core : _} (hw : Instr.wf (.qntAdapt core) = true) : Goes (execQntAdapt core s) := by
  simp only [Instr.wf, Instr.source, Instr.unitOk, Option.elim_some, Option.elim_none] at hw
  unfold execQntAdapt
  try dsimp only
  repeat' (first | exact Goes.next | with_reducible exact Goes.due | with_reducible exact Goes.hmpCmd | with_reducible exact Goes.admCtxCmd | with_reducible exact Goes.admCmd | with_reducible refine Goes.regCmd ?_ | with_reducible refine Goes.readCmd ?_ | with_reducible refine Goes.engineCmd ?_ | with_reducible refine Goes.unit ?_ ?_ | (simp_all; done) | (simp_all [queueCount, mailboxCount, inWindow]; done) | split)

theorem execWindowPooling_goes {s : State} {core : _} (hw : Instr.wf (.windowPooling core) = true) : Goes (execWindowPooling core s) := by
  simp only [Instr.wf, Instr.source, Instr.unitOk, Option.elim_some, Option.elim_none] at hw
  unfold execWindowPooling
  try dsimp only
  repeat' (first | exact Goes.next | with_reducible exact Goes.due | with_reducible exact Goes.hmpCmd | with_reducible exact Goes.admCtxCmd | with_reducible exact Goes.admCmd | with_reducible refine Goes.regCmd ?_ | with_reducible refine Goes.readCmd ?_ | with_reducible refine Goes.engineCmd ?_ | with_reducible refine Goes.unit ?_ ?_ | (simp_all; done) | (simp_all [queueCount, mailboxCount, inWindow]; done) | split)

theorem execBoxPooling_goes {s : State} {core : _} (hw : Instr.wf (.boxPooling core) = true) : Goes (execBoxPooling core s) := by
  simp only [Instr.wf, Instr.source, Instr.unitOk, Option.elim_some, Option.elim_none] at hw
  unfold execBoxPooling
  try dsimp only
  repeat' (first | exact Goes.next | with_reducible exact Goes.due | with_reducible exact Goes.hmpCmd | with_reducible exact Goes.admCtxCmd | with_reducible exact Goes.admCmd | with_reducible refine Goes.regCmd ?_ | with_reducible refine Goes.readCmd ?_ | with_reducible refine Goes.engineCmd ?_ | with_reducible refine Goes.unit ?_ ?_ | (simp_all; done) | (simp_all [queueCount, mailboxCount, inWindow]; done) | split)

theorem execCropAndResize_goes {s : State} {core : _} (hw : Instr.wf (.cropAndResize core) = true) : Goes (execCropAndResize core s) := by
  simp only [Instr.wf, Instr.source, Instr.unitOk, Option.elim_some, Option.elim_none] at hw
  unfold execCropAndResize
  try dsimp only
  repeat' (first | exact Goes.next | with_reducible exact Goes.due | with_reducible exact Goes.hmpCmd | with_reducible exact Goes.admCtxCmd | with_reducible exact Goes.admCmd | with_reducible refine Goes.regCmd ?_ | with_reducible refine Goes.readCmd ?_ | with_reducible refine Goes.engineCmd ?_ | with_reducible refine Goes.unit ?_ ?_ | (simp_all; done) | (simp_all [queueCount, mailboxCount, inWindow]; done) | split)

theorem execMovStream_goes {s : State} {core : _} (hw : Instr.wf (.movStream core) = true) : Goes (execMovStream core s) := by
  simp only [Instr.wf, Instr.source, Instr.unitOk, Option.elim_some, Option.elim_none] at hw
  unfold execMovStream
  try dsimp only
  repeat' (first | exact Goes.next | with_reducible exact Goes.due | with_reducible exact Goes.hmpCmd | with_reducible exact Goes.admCtxCmd | with_reducible exact Goes.admCmd | with_reducible refine Goes.regCmd ?_ | with_reducible refine Goes.readCmd ?_ | with_reducible refine Goes.engineCmd ?_ | with_reducible refine Goes.unit ?_ ?_ | (simp_all; done) | (simp_all [queueCount, mailboxCount, inWindow]; done) | split)

theorem execMovWayInTake_goes {s : State} {core : _} (hw : Instr.wf (.movWayInTake core) = true) : Goes (execMovWayInTake core s) := by
  simp only [Instr.wf, Instr.source, Instr.unitOk, Option.elim_some, Option.elim_none] at hw
  unfold execMovWayInTake
  try dsimp only
  repeat' (first | exact Goes.next | with_reducible exact Goes.due | with_reducible exact Goes.hmpCmd | with_reducible exact Goes.admCtxCmd | with_reducible exact Goes.admCmd | with_reducible refine Goes.regCmd ?_ | with_reducible refine Goes.readCmd ?_ | with_reducible refine Goes.engineCmd ?_ | with_reducible refine Goes.unit ?_ ?_ | (simp_all; done) | (simp_all [queueCount, mailboxCount, inWindow]; done) | split)

theorem execMovWayOutPut_goes {s : State} {core : _} (hw : Instr.wf (.movWayOutPut core) = true) : Goes (execMovWayOutPut core s) := by
  simp only [Instr.wf, Instr.source, Instr.unitOk, Option.elim_some, Option.elim_none] at hw
  unfold execMovWayOutPut
  try dsimp only
  repeat' (first | exact Goes.next | with_reducible exact Goes.due | with_reducible exact Goes.hmpCmd | with_reducible exact Goes.admCtxCmd | with_reducible exact Goes.admCmd | with_reducible refine Goes.regCmd ?_ | with_reducible refine Goes.readCmd ?_ | with_reducible refine Goes.engineCmd ?_ | with_reducible refine Goes.unit ?_ ?_ | (simp_all; done) | (simp_all [queueCount, mailboxCount, inWindow]; done) | split)

theorem execDescriptorComplete_goes {s : State} {ref : _} (hw : Instr.wf (.descriptorComplete ref) = true) : Goes (execDescriptorComplete ref s) := by
  simp only [Instr.wf, Instr.source, Instr.unitOk, Option.elim_some, Option.elim_none] at hw
  unfold execDescriptorComplete
  try dsimp only
  repeat' (first | exact Goes.next | with_reducible exact Goes.due | with_reducible exact Goes.hmpCmd | with_reducible exact Goes.admCtxCmd | with_reducible exact Goes.admCmd | with_reducible refine Goes.regCmd ?_ | with_reducible refine Goes.readCmd ?_ | with_reducible refine Goes.engineCmd ?_ | with_reducible refine Goes.unit ?_ ?_ | (simp_all; done) | (simp_all [queueCount, mailboxCount, inWindow]; done) | split)

theorem execCompletionRecordPost_goes {s : State} {queue : _} (hw : Instr.wf (.completionRecordPost queue) = true) : Goes (execCompletionRecordPost queue s) := by
  simp only [Instr.wf, Instr.source, Instr.unitOk, Option.elim_some, Option.elim_none] at hw
  unfold execCompletionRecordPost
  try dsimp only
  repeat' (first | exact Goes.next | with_reducible exact Goes.due | with_reducible exact Goes.hmpCmd | with_reducible exact Goes.admCtxCmd | with_reducible exact Goes.admCmd | with_reducible refine Goes.regCmd ?_ | with_reducible refine Goes.readCmd ?_ | with_reducible refine Goes.engineCmd ?_ | with_reducible refine Goes.unit ?_ ?_ | (simp_all; done) | (simp_all [queueCount, mailboxCount, inWindow]; done) | split)

theorem execStagePush_goes {s : State} {src : _} {stage : _} {queue : _} (hw : Instr.wf (.stagePush src stage queue) = true) : Goes (execStagePush src stage queue s) := by
  simp only [Instr.wf, Instr.source, Instr.unitOk, Option.elim_some, Option.elim_none] at hw
  unfold execStagePush
  try dsimp only
  repeat' (first | exact Goes.next | with_reducible exact Goes.due | with_reducible exact Goes.hmpCmd | with_reducible exact Goes.admCtxCmd | with_reducible exact Goes.admCmd | with_reducible refine Goes.regCmd ?_ | with_reducible refine Goes.readCmd ?_ | with_reducible refine Goes.engineCmd ?_ | with_reducible refine Goes.unit ?_ ?_ | (simp_all; done) | (simp_all [queueCount, mailboxCount, inWindow]; done) | split)

theorem execTailWrite_goes {s : State} {src : _} {queue : _} {value : _} (hw : Instr.wf (.tailWrite src queue value) = true) : Goes (execTailWrite src queue value s) := by
  simp only [Instr.wf, Instr.source, Instr.unitOk, Option.elim_some, Option.elim_none] at hw
  unfold execTailWrite
  try dsimp only
  repeat' (first | exact Goes.next | with_reducible exact Goes.due | with_reducible exact Goes.hmpCmd | with_reducible exact Goes.admCtxCmd | with_reducible exact Goes.admCmd | with_reducible refine Goes.regCmd ?_ | with_reducible refine Goes.readCmd ?_ | with_reducible refine Goes.engineCmd ?_ | with_reducible refine Goes.unit ?_ ?_ | (simp_all; done) | (simp_all [queueCount, mailboxCount, inWindow]; done) | split)

theorem execHeadWrite_goes {s : State} {src : _} {queue : _} {value : _} (hw : Instr.wf (.headWrite src queue value) = true) : Goes (execHeadWrite src queue value s) := by
  simp only [Instr.wf, Instr.source, Instr.unitOk, Option.elim_some, Option.elim_none] at hw
  unfold execHeadWrite
  try dsimp only
  repeat' (first | exact Goes.next | with_reducible exact Goes.due | with_reducible exact Goes.hmpCmd | with_reducible exact Goes.admCtxCmd | with_reducible exact Goes.admCmd | with_reducible refine Goes.regCmd ?_ | with_reducible refine Goes.readCmd ?_ | with_reducible refine Goes.engineCmd ?_ | with_reducible refine Goes.unit ?_ ?_ | (simp_all; done) | (simp_all [queueCount, mailboxCount, inWindow]; done) | split)

theorem execStop_goes {s : State} {src : _} {queue : _} (hw : Instr.wf (.stop src queue) = true) : Goes (execStop src queue s) := by
  simp only [Instr.wf, Instr.source, Instr.unitOk, Option.elim_some, Option.elim_none] at hw
  unfold execStop
  try dsimp only
  repeat' (first | exact Goes.next | with_reducible exact Goes.due | with_reducible exact Goes.hmpCmd | with_reducible exact Goes.admCtxCmd | with_reducible exact Goes.admCmd | with_reducible refine Goes.regCmd ?_ | with_reducible refine Goes.readCmd ?_ | with_reducible refine Goes.engineCmd ?_ | with_reducible refine Goes.unit ?_ ?_ | (simp_all; done) | (simp_all [queueCount, mailboxCount, inWindow]; done) | split)

theorem execResume_goes {s : State} {src : _} {queue : _} (hw : Instr.wf (.resume src queue) = true) : Goes (execResume src queue s) := by
  simp only [Instr.wf, Instr.source, Instr.unitOk, Option.elim_some, Option.elim_none] at hw
  unfold execResume
  try dsimp only
  repeat' (first | exact Goes.next | with_reducible exact Goes.due | with_reducible exact Goes.hmpCmd | with_reducible exact Goes.admCtxCmd | with_reducible exact Goes.admCmd | with_reducible refine Goes.regCmd ?_ | with_reducible refine Goes.readCmd ?_ | with_reducible refine Goes.engineCmd ?_ | with_reducible refine Goes.unit ?_ ?_ | (simp_all; done) | (simp_all [queueCount, mailboxCount, inWindow]; done) | split)

theorem execResetIndex_goes {s : State} {src : _} {queue : _} (hw : Instr.wf (.resetIndex src queue) = true) : Goes (execResetIndex src queue s) := by
  simp only [Instr.wf, Instr.source, Instr.unitOk, Option.elim_some, Option.elim_none] at hw
  unfold execResetIndex
  try dsimp only
  repeat' (first | exact Goes.next | with_reducible exact Goes.due | with_reducible exact Goes.hmpCmd | with_reducible exact Goes.admCtxCmd | with_reducible exact Goes.admCmd | with_reducible refine Goes.regCmd ?_ | with_reducible refine Goes.readCmd ?_ | with_reducible refine Goes.engineCmd ?_ | with_reducible refine Goes.unit ?_ ?_ | (simp_all; done) | (simp_all [queueCount, mailboxCount, inWindow]; done) | split)

theorem execQueueCfgWrite_goes {s : State} {src : _} {queue : _} {base : _} {value : _} (hw : Instr.wf (.queueCfgWrite src queue base value) = true) : Goes (execQueueCfgWrite src queue base value s) := by
  simp only [Instr.wf, Instr.source, Instr.unitOk, Option.elim_some, Option.elim_none] at hw
  unfold execQueueCfgWrite
  try dsimp only
  repeat' (first | exact Goes.next | with_reducible exact Goes.due | with_reducible exact Goes.hmpCmd | with_reducible exact Goes.admCtxCmd | with_reducible exact Goes.admCmd | with_reducible refine Goes.regCmd ?_ | with_reducible refine Goes.readCmd ?_ | with_reducible refine Goes.engineCmd ?_ | with_reducible refine Goes.unit ?_ ?_ | (simp_all; done) | (simp_all [queueCount, mailboxCount, inWindow]; done) | split)

theorem execTlyAdd_goes {s : State} {src : _} {tally : _} {inc : _} (hw : Instr.wf (.tlyAdd src tally inc) = true) : Goes (execTlyAdd src tally inc s) := by
  simp only [Instr.wf, Instr.source, Instr.unitOk, Option.elim_some, Option.elim_none] at hw
  unfold execTlyAdd
  try dsimp only
  repeat' (first | exact Goes.next | with_reducible exact Goes.due | with_reducible exact Goes.hmpCmd | with_reducible exact Goes.admCtxCmd | with_reducible exact Goes.admCmd | with_reducible refine Goes.regCmd ?_ | with_reducible refine Goes.readCmd ?_ | with_reducible refine Goes.engineCmd ?_ | with_reducible refine Goes.unit ?_ ?_ | (simp_all; done) | (simp_all [queueCount, mailboxCount, inWindow]; done) | split)

theorem execTlySet_goes {s : State} {src : _} {tally : _} {value : _} (hw : Instr.wf (.tlySet src tally value) = true) : Goes (execTlySet src tally value s) := by
  simp only [Instr.wf, Instr.source, Instr.unitOk, Option.elim_some, Option.elim_none] at hw
  unfold execTlySet
  try dsimp only
  repeat' (first | exact Goes.next | with_reducible exact Goes.due | with_reducible exact Goes.hmpCmd | with_reducible exact Goes.admCtxCmd | with_reducible exact Goes.admCmd | with_reducible refine Goes.regCmd ?_ | with_reducible refine Goes.readCmd ?_ | with_reducible refine Goes.engineCmd ?_ | with_reducible refine Goes.unit ?_ ?_ | (simp_all; done) | (simp_all [queueCount, mailboxCount, inWindow]; done) | split)

theorem execWayPut_goes {s : State} {src : _} {way : _} {handle : _} {status : _} (hw : Instr.wf (.wayPut src way handle status) = true) : Goes (execWayPut src way handle status s) := by
  simp only [Instr.wf, Instr.source, Instr.unitOk, Option.elim_some, Option.elim_none] at hw
  unfold execWayPut
  try dsimp only
  repeat' (first | exact Goes.next | with_reducible exact Goes.due | with_reducible exact Goes.hmpCmd | with_reducible exact Goes.admCtxCmd | with_reducible exact Goes.admCmd | with_reducible refine Goes.regCmd ?_ | with_reducible refine Goes.readCmd ?_ | with_reducible refine Goes.engineCmd ?_ | with_reducible refine Goes.unit ?_ ?_ | (simp_all; done) | (simp_all [queueCount, mailboxCount, inWindow]; done) | split)

theorem execWayTake_goes {s : State} {src : _} {way : _} (hw : Instr.wf (.wayTake src way) = true) : Goes (execWayTake src way s) := by
  simp only [Instr.wf, Instr.source, Instr.unitOk, Option.elim_some, Option.elim_none] at hw
  unfold execWayTake
  try dsimp only
  repeat' (first | exact Goes.next | with_reducible exact Goes.due | with_reducible exact Goes.hmpCmd | with_reducible exact Goes.admCtxCmd | with_reducible exact Goes.admCmd | with_reducible refine Goes.regCmd ?_ | with_reducible refine Goes.readCmd ?_ | with_reducible refine Goes.engineCmd ?_ | with_reducible refine Goes.unit ?_ ?_ | (simp_all; done) | (simp_all [queueCount, mailboxCount, inWindow]; done) | split)

theorem execKill_goes {s : State} {src : _} {caravanId : _} (hw : Instr.wf (.kill src caravanId) = true) : Goes (execKill src caravanId s) := by
  simp only [Instr.wf, Instr.source, Instr.unitOk, Option.elim_some, Option.elim_none] at hw
  unfold execKill
  try dsimp only
  repeat' (first | exact Goes.next | with_reducible exact Goes.due | with_reducible exact Goes.hmpCmd | with_reducible exact Goes.admCtxCmd | with_reducible exact Goes.admCmd | with_reducible refine Goes.regCmd ?_ | with_reducible refine Goes.readCmd ?_ | with_reducible refine Goes.engineCmd ?_ | with_reducible refine Goes.unit ?_ ?_ | (simp_all; done) | (simp_all [queueCount, mailboxCount, inWindow]; done) | split)

theorem execRunLimitExpiry_goes {s : State} {core : _} (hw : Instr.wf (.runLimitExpiry core) = true) : Goes (execRunLimitExpiry core s) := by
  simp only [Instr.wf, Instr.source, Instr.unitOk, Option.elim_some, Option.elim_none] at hw
  unfold execRunLimitExpiry
  try dsimp only
  repeat' (first | exact Goes.next | with_reducible exact Goes.due | with_reducible exact Goes.hmpCmd | with_reducible exact Goes.admCtxCmd | with_reducible exact Goes.admCmd | with_reducible refine Goes.regCmd ?_ | with_reducible refine Goes.readCmd ?_ | with_reducible refine Goes.engineCmd ?_ | with_reducible refine Goes.unit ?_ ?_ | (simp_all; done) | (simp_all [queueCount, mailboxCount, inWindow]; done) | split)

theorem execMailboxCancel_goes {s : State} {src : _} {mailbox : _} (hw : Instr.wf (.mailboxCancel src mailbox) = true) : Goes (execMailboxCancel src mailbox s) := by
  simp only [Instr.wf, Instr.source, Instr.unitOk, Option.elim_some, Option.elim_none] at hw
  unfold execMailboxCancel
  try dsimp only
  repeat' (first | exact Goes.next | with_reducible exact Goes.due | with_reducible exact Goes.hmpCmd | with_reducible exact Goes.admCtxCmd | with_reducible exact Goes.admCmd | with_reducible refine Goes.regCmd ?_ | with_reducible refine Goes.readCmd ?_ | with_reducible refine Goes.engineCmd ?_ | with_reducible refine Goes.unit ?_ ?_ | (simp_all; done) | (simp_all [queueCount, mailboxCount, inWindow]; done) | split)

theorem execMailboxClaim_goes {s : State} {src : _} {claim : _} {mailbox : _} {want : _} (hw : Instr.wf (.mailboxClaim src claim mailbox want) = true) : Goes (execMailboxClaim src claim mailbox want s) := by
  simp only [Instr.wf, Instr.source, Instr.unitOk, Option.elim_some, Option.elim_none] at hw
  unfold execMailboxClaim
  try dsimp only
  repeat' (first | exact Goes.next | with_reducible exact Goes.due | with_reducible exact Goes.hmpCmd | with_reducible exact Goes.admCtxCmd | with_reducible exact Goes.admCmd | with_reducible refine Goes.regCmd ?_ | with_reducible refine Goes.readCmd ?_ | with_reducible refine Goes.engineCmd ?_ | with_reducible refine Goes.unit ?_ ?_ | (simp_all; done) | (simp_all [queueCount, mailboxCount, inWindow]; done) | split)

theorem execTaskRelease_goes {s : State} {src : _} {core : _} {tasks : _} (hw : Instr.wf (.taskRelease src core tasks) = true) : Goes (execTaskRelease src core tasks s) := by
  simp only [Instr.wf, Instr.source, Instr.unitOk, Option.elim_some, Option.elim_none] at hw
  unfold execTaskRelease
  try dsimp only
  repeat' (first | exact Goes.next | with_reducible exact Goes.due | with_reducible exact Goes.hmpCmd | with_reducible exact Goes.admCtxCmd | with_reducible exact Goes.admCmd | with_reducible refine Goes.regCmd ?_ | with_reducible refine Goes.readCmd ?_ | with_reducible refine Goes.engineCmd ?_ | with_reducible refine Goes.unit ?_ ?_ | (simp_all; done) | (simp_all [queueCount, mailboxCount, inWindow]; done) | split)

theorem execZeroingBegin_goes {s : State} {core : _} {task : _} (hw : Instr.wf (.zeroingBegin core task) = true) : Goes (execZeroingBegin core task s) := by
  simp only [Instr.wf, Instr.source, Instr.unitOk, Option.elim_some, Option.elim_none] at hw
  unfold execZeroingBegin
  try dsimp only
  repeat' (first | exact Goes.next | with_reducible exact Goes.due | with_reducible exact Goes.hmpCmd | with_reducible exact Goes.admCtxCmd | with_reducible exact Goes.admCmd | with_reducible refine Goes.regCmd ?_ | with_reducible refine Goes.readCmd ?_ | with_reducible refine Goes.engineCmd ?_ | with_reducible refine Goes.unit ?_ ?_ | (simp_all; done) | (simp_all [queueCount, mailboxCount, inWindow]; done) | split)

theorem execZeroingComplete_goes {s : State} {core : _} {task : _} (hw : Instr.wf (.zeroingComplete core task) = true) : Goes (execZeroingComplete core task s) := by
  simp only [Instr.wf, Instr.source, Instr.unitOk, Option.elim_some, Option.elim_none] at hw
  unfold execZeroingComplete
  try dsimp only
  repeat' (first | exact Goes.next | with_reducible exact Goes.due | with_reducible exact Goes.hmpCmd | with_reducible exact Goes.admCtxCmd | with_reducible exact Goes.admCmd | with_reducible refine Goes.regCmd ?_ | with_reducible refine Goes.readCmd ?_ | with_reducible refine Goes.engineCmd ?_ | with_reducible refine Goes.unit ?_ ?_ | (simp_all; done) | (simp_all [queueCount, mailboxCount, inWindow]; done) | split)

theorem execPackhorseDrain_goes {s : State} {core : _} {row : _} (hw : Instr.wf (.packhorseDrain core row) = true) : Goes (execPackhorseDrain core row s) := by
  simp only [Instr.wf, Instr.source, Instr.unitOk, Option.elim_some, Option.elim_none] at hw
  unfold execPackhorseDrain
  try dsimp only
  repeat' (first | exact Goes.next | with_reducible exact Goes.due | with_reducible exact Goes.hmpCmd | with_reducible exact Goes.admCtxCmd | with_reducible exact Goes.admCmd | with_reducible refine Goes.regCmd ?_ | with_reducible refine Goes.readCmd ?_ | with_reducible refine Goes.engineCmd ?_ | with_reducible refine Goes.unit ?_ ?_ | (simp_all; done) | (simp_all [queueCount, mailboxCount, inWindow]; done) | split)

theorem execCorrectionWriteBack_goes {s : State} {core : _} {space : _} (hw : Instr.wf (.correctionWriteBack core space) = true) : Goes (execCorrectionWriteBack core space s) := by
  simp only [Instr.wf, Instr.source, Instr.unitOk, Option.elim_some, Option.elim_none] at hw
  unfold execCorrectionWriteBack
  try dsimp only
  repeat' (first | exact Goes.next | with_reducible exact Goes.due | with_reducible exact Goes.hmpCmd | with_reducible exact Goes.admCtxCmd | with_reducible exact Goes.admCmd | with_reducible refine Goes.regCmd ?_ | with_reducible refine Goes.readCmd ?_ | with_reducible refine Goes.engineCmd ?_ | with_reducible refine Goes.unit ?_ ?_ | (simp_all; done) | (simp_all [queueCount, mailboxCount, inWindow]; done) | split)

theorem execScrubRead_goes {s : State} {core : _} {space : _} {bank : _} (hw : Instr.wf (.scrubRead core space bank) = true) : Goes (execScrubRead core space bank s) := by
  simp only [Instr.wf, Instr.source, Instr.unitOk, Option.elim_some, Option.elim_none] at hw
  unfold execScrubRead
  try dsimp only
  repeat' (first | exact Goes.next | with_reducible exact Goes.due | with_reducible exact Goes.hmpCmd | with_reducible exact Goes.admCtxCmd | with_reducible exact Goes.admCmd | with_reducible refine Goes.regCmd ?_ | with_reducible refine Goes.readCmd ?_ | with_reducible refine Goes.engineCmd ?_ | with_reducible refine Goes.unit ?_ ?_ | (simp_all; done) | (simp_all [queueCount, mailboxCount, inWindow]; done) | split)

theorem execEccInjectArm_goes {s : State} {src : _} {core : _} {value : _} (hw : Instr.wf (.eccInjectArm src core value) = true) : Goes (execEccInjectArm src core value s) := by
  simp only [Instr.wf, Instr.source, Instr.unitOk, Option.elim_some, Option.elim_none] at hw
  unfold execEccInjectArm
  try dsimp only
  repeat' (first | exact Goes.next | with_reducible exact Goes.due | with_reducible exact Goes.hmpCmd | with_reducible exact Goes.admCtxCmd | with_reducible exact Goes.admCmd | with_reducible refine Goes.regCmd ?_ | with_reducible refine Goes.readCmd ?_ | with_reducible refine Goes.engineCmd ?_ | with_reducible refine Goes.unit ?_ ?_ | (simp_all; done) | (simp_all [queueCount, mailboxCount, inWindow]; done) | split)

theorem execScratchpadWindowAccess_goes {s : State} {src : _} {access : _} (hw : Instr.wf (.scratchpadWindowAccess src access) = true) : Goes (execScratchpadWindowAccess src access s) := by
  simp only [Instr.wf, Instr.source, Instr.unitOk, Option.elim_some, Option.elim_none] at hw
  unfold execScratchpadWindowAccess
  try dsimp only
  repeat' (first | exact Goes.next | with_reducible exact Goes.due | with_reducible exact Goes.hmpCmd | with_reducible exact Goes.admCtxCmd | with_reducible exact Goes.admCmd | with_reducible refine Goes.regCmd ?_ | with_reducible refine Goes.readCmd ?_ | with_reducible refine Goes.engineCmd ?_ | with_reducible refine Goes.unit ?_ ?_ | (simp_all; done) | (simp_all [queueCount, mailboxCount, inWindow]; done) | split)

theorem execWcInvalidate_goes {s : State} {src : _} {cache : _} {value : _} (hw : Instr.wf (.wcInvalidate src cache value) = true) : Goes (execWcInvalidate src cache value s) := by
  simp only [Instr.wf, Instr.source, Instr.unitOk, Option.elim_some, Option.elim_none] at hw
  unfold execWcInvalidate
  try dsimp only
  repeat' (first | exact Goes.next | with_reducible exact Goes.due | with_reducible exact Goes.hmpCmd | with_reducible exact Goes.admCtxCmd | with_reducible exact Goes.admCmd | with_reducible refine Goes.regCmd ?_ | with_reducible refine Goes.readCmd ?_ | with_reducible refine Goes.engineCmd ?_ | with_reducible refine Goes.unit ?_ ?_ | (simp_all; done) | (simp_all [queueCount, mailboxCount, inWindow]; done) | split)

theorem execWcInvalidateDone_goes {s : State} {cache : _} (hw : Instr.wf (.wcInvalidateDone cache) = true) : Goes (execWcInvalidateDone cache s) := by
  simp only [Instr.wf, Instr.source, Instr.unitOk, Option.elim_some, Option.elim_none] at hw
  unfold execWcInvalidateDone
  try dsimp only
  repeat' (first | exact Goes.next | with_reducible exact Goes.due | with_reducible exact Goes.hmpCmd | with_reducible exact Goes.admCtxCmd | with_reducible exact Goes.admCmd | with_reducible refine Goes.regCmd ?_ | with_reducible refine Goes.readCmd ?_ | with_reducible refine Goes.engineCmd ?_ | with_reducible refine Goes.unit ?_ ?_ | (simp_all; done) | (simp_all [queueCount, mailboxCount, inWindow]; done) | split)

theorem execCsiFrameStart_goes {s : State} {port : _} {vc : _} {frameNumber : _} (hw : Instr.wf (.csiFrameStart port vc frameNumber) = true) : Goes (execCsiFrameStart port vc frameNumber s) := by
  simp only [Instr.wf, Instr.source, Instr.unitOk, Option.elim_some, Option.elim_none] at hw
  unfold execCsiFrameStart
  try dsimp only
  repeat' (first | exact Goes.next | with_reducible exact Goes.due | with_reducible exact Goes.hmpCmd | with_reducible exact Goes.admCtxCmd | with_reducible exact Goes.admCmd | with_reducible refine Goes.regCmd ?_ | with_reducible refine Goes.readCmd ?_ | with_reducible refine Goes.engineCmd ?_ | with_reducible refine Goes.unit ?_ ?_ | (simp_all; done) | (simp_all [queueCount, mailboxCount, inWindow]; done) | split)

theorem execCsiLongPacket_goes {s : State} {port : _} {packet : _} (hw : Instr.wf (.csiLongPacket port packet) = true) : Goes (execCsiLongPacket port packet s) := by
  simp only [Instr.wf, Instr.source, Instr.unitOk, Option.elim_some, Option.elim_none] at hw
  unfold execCsiLongPacket
  try dsimp only
  repeat' (first | exact Goes.next | with_reducible exact Goes.due | with_reducible exact Goes.hmpCmd | with_reducible exact Goes.admCtxCmd | with_reducible exact Goes.admCmd | with_reducible refine Goes.regCmd ?_ | with_reducible refine Goes.readCmd ?_ | with_reducible refine Goes.engineCmd ?_ | with_reducible refine Goes.unit ?_ ?_ | (simp_all; done) | (simp_all [queueCount, mailboxCount, inWindow]; done) | split)

theorem execCsiFrameEnd_goes {s : State} {port : _} {vc : _} {frameNumber : _} (hw : Instr.wf (.csiFrameEnd port vc frameNumber) = true) : Goes (execCsiFrameEnd port vc frameNumber s) := by
  simp only [Instr.wf, Instr.source, Instr.unitOk, Option.elim_some, Option.elim_none] at hw
  unfold execCsiFrameEnd
  try dsimp only
  repeat' (first | exact Goes.next | with_reducible exact Goes.due | with_reducible exact Goes.hmpCmd | with_reducible exact Goes.admCtxCmd | with_reducible exact Goes.admCmd | with_reducible refine Goes.regCmd ?_ | with_reducible refine Goes.readCmd ?_ | with_reducible refine Goes.engineCmd ?_ | with_reducible refine Goes.unit ?_ ?_ | (simp_all; done) | (simp_all [queueCount, mailboxCount, inWindow]; done) | split)

theorem execFrameTimeout_goes {s : State} {port : _} {stream : _} (hw : Instr.wf (.frameTimeout port stream) = true) : Goes (execFrameTimeout port stream s) := by
  simp only [Instr.wf, Instr.source, Instr.unitOk, Option.elim_some, Option.elim_none] at hw
  unfold execFrameTimeout
  try dsimp only
  repeat' (first | exact Goes.next | with_reducible exact Goes.due | with_reducible exact Goes.hmpCmd | with_reducible exact Goes.admCtxCmd | with_reducible exact Goes.admCmd | with_reducible refine Goes.regCmd ?_ | with_reducible refine Goes.readCmd ?_ | with_reducible refine Goes.engineCmd ?_ | with_reducible refine Goes.unit ?_ ?_ | (simp_all; done) | (simp_all [queueCount, mailboxCount, inWindow]; done) | split)

theorem execByteClkMeasure_goes {s : State} {port : _} {khz : _} (hw : Instr.wf (.byteClkMeasure port khz) = true) : Goes (execByteClkMeasure port khz s) := by
  simp only [Instr.wf, Instr.source, Instr.unitOk, Option.elim_some, Option.elim_none] at hw
  unfold execByteClkMeasure
  try dsimp only
  repeat' (first | exact Goes.next | with_reducible exact Goes.due | with_reducible exact Goes.hmpCmd | with_reducible exact Goes.admCtxCmd | with_reducible exact Goes.admCmd | with_reducible refine Goes.regCmd ?_ | with_reducible refine Goes.readCmd ?_ | with_reducible refine Goes.engineCmd ?_ | with_reducible refine Goes.unit ?_ ?_ | (simp_all; done) | (simp_all [queueCount, mailboxCount, inWindow]; done) | split)

theorem execIspStreamEnable_goes {s : State} {src : _} {port : _} {stream : _} {value : _} (hw : Instr.wf (.ispStreamEnable src port stream value) = true) : Goes (execIspStreamEnable src port stream value s) := by
  simp only [Instr.wf, Instr.source, Instr.unitOk, Option.elim_some, Option.elim_none] at hw
  unfold execIspStreamEnable
  try dsimp only
  repeat' (first | exact Goes.next | with_reducible exact Goes.due | with_reducible exact Goes.hmpCmd | with_reducible exact Goes.admCtxCmd | with_reducible exact Goes.admCmd | with_reducible refine Goes.regCmd ?_ | with_reducible refine Goes.readCmd ?_ | with_reducible refine Goes.engineCmd ?_ | with_reducible refine Goes.unit ?_ ?_ | (simp_all; done) | (simp_all [queueCount, mailboxCount, inWindow]; done) | split)

theorem execIspStreamDisable_goes {s : State} {src : _} {port : _} {stream : _} {value : _} (hw : Instr.wf (.ispStreamDisable src port stream value) = true) : Goes (execIspStreamDisable src port stream value s) := by
  simp only [Instr.wf, Instr.source, Instr.unitOk, Option.elim_some, Option.elim_none] at hw
  unfold execIspStreamDisable
  try dsimp only
  repeat' (first | exact Goes.next | with_reducible exact Goes.due | with_reducible exact Goes.hmpCmd | with_reducible exact Goes.admCtxCmd | with_reducible exact Goes.admCmd | with_reducible refine Goes.regCmd ?_ | with_reducible refine Goes.readCmd ?_ | with_reducible refine Goes.engineCmd ?_ | with_reducible refine Goes.unit ?_ ?_ | (simp_all; done) | (simp_all [queueCount, mailboxCount, inWindow]; done) | split)

theorem execIspParamPush_goes {s : State} {src : _} {port : _} {handle : _} {stream : _} (hw : Instr.wf (.ispParamPush src port handle stream) = true) : Goes (execIspParamPush src port handle stream s) := by
  simp only [Instr.wf, Instr.source, Instr.unitOk, Option.elim_some, Option.elim_none] at hw
  unfold execIspParamPush
  try dsimp only
  repeat' (first | exact Goes.next | with_reducible exact Goes.due | with_reducible exact Goes.hmpCmd | with_reducible exact Goes.admCtxCmd | with_reducible exact Goes.admCmd | with_reducible refine Goes.regCmd ?_ | with_reducible refine Goes.readCmd ?_ | with_reducible refine Goes.engineCmd ?_ | with_reducible refine Goes.unit ?_ ?_ | (simp_all; done) | (simp_all [queueCount, mailboxCount, inWindow]; done) | split)

theorem execIspParamCheckDone_goes {s : State} {port : _} (hw : Instr.wf (.ispParamCheckDone port) = true) : Goes (execIspParamCheckDone port s) := by
  simp only [Instr.wf, Instr.source, Instr.unitOk, Option.elim_some, Option.elim_none] at hw
  unfold execIspParamCheckDone
  try dsimp only
  repeat' (first | exact Goes.next | with_reducible exact Goes.due | with_reducible exact Goes.hmpCmd | with_reducible exact Goes.admCtxCmd | with_reducible exact Goes.admCmd | with_reducible refine Goes.regCmd ?_ | with_reducible refine Goes.readCmd ?_ | with_reducible refine Goes.engineCmd ?_ | with_reducible refine Goes.unit ?_ ?_ | (simp_all; done) | (simp_all [queueCount, mailboxCount, inWindow]; done) | split)

theorem execIspFrameDeliver_goes {s : State} {port : _} {stream : _} (hw : Instr.wf (.ispFrameDeliver port stream) = true) : Goes (execIspFrameDeliver port stream s) := by
  simp only [Instr.wf, Instr.source, Instr.unitOk, Option.elim_some, Option.elim_none] at hw
  unfold execIspFrameDeliver
  try dsimp only
  repeat' (first | exact Goes.next | with_reducible exact Goes.due | with_reducible exact Goes.hmpCmd | with_reducible exact Goes.admCtxCmd | with_reducible exact Goes.admCmd | with_reducible refine Goes.regCmd ?_ | with_reducible refine Goes.readCmd ?_ | with_reducible refine Goes.engineCmd ?_ | with_reducible refine Goes.unit ?_ ?_ | (simp_all; done) | (simp_all [queueCount, mailboxCount, inWindow]; done) | split)

theorem execIspEntryPut_goes {s : State} {port : _} {stream : _} (hw : Instr.wf (.ispEntryPut port stream) = true) : Goes (execIspEntryPut port stream s) := by
  simp only [Instr.wf, Instr.source, Instr.unitOk, Option.elim_some, Option.elim_none] at hw
  unfold execIspEntryPut
  try dsimp only
  repeat' (first | exact Goes.next | with_reducible exact Goes.due | with_reducible exact Goes.hmpCmd | with_reducible exact Goes.admCtxCmd | with_reducible exact Goes.admCmd | with_reducible refine Goes.regCmd ?_ | with_reducible refine Goes.readCmd ?_ | with_reducible refine Goes.engineCmd ?_ | with_reducible refine Goes.unit ?_ ?_ | (simp_all; done) | (simp_all [queueCount, mailboxCount, inWindow]; done) | split)

theorem execTdmFrameSync_goes {s : State} {port : _} {bitsSeen : _} {samples : _} (hw : Instr.wf (.tdmFrameSync port bitsSeen samples) = true) : Goes (execTdmFrameSync port bitsSeen samples s) := by
  simp only [Instr.wf, Instr.source, Instr.unitOk, Option.elim_some, Option.elim_none] at hw
  unfold execTdmFrameSync
  try dsimp only
  repeat' (first | exact Goes.next | with_reducible exact Goes.due | with_reducible exact Goes.hmpCmd | with_reducible exact Goes.admCtxCmd | with_reducible exact Goes.admCmd | with_reducible refine Goes.regCmd ?_ | with_reducible refine Goes.readCmd ?_ | with_reducible refine Goes.engineCmd ?_ | with_reducible refine Goes.unit ?_ ?_ | (simp_all; done) | (simp_all [queueCount, mailboxCount, inWindow]; done) | split)

theorem execTdmRateMeasure_goes {s : State} {port : _} {hz : _} (hw : Instr.wf (.tdmRateMeasure port hz) = true) : Goes (execTdmRateMeasure port hz s) := by
  simp only [Instr.wf, Instr.source, Instr.unitOk, Option.elim_some, Option.elim_none] at hw
  unfold execTdmRateMeasure
  try dsimp only
  repeat' (first | exact Goes.next | with_reducible exact Goes.due | with_reducible exact Goes.hmpCmd | with_reducible exact Goes.admCtxCmd | with_reducible exact Goes.admCmd | with_reducible refine Goes.regCmd ?_ | with_reducible refine Goes.readCmd ?_ | with_reducible refine Goes.engineCmd ?_ | with_reducible refine Goes.unit ?_ ?_ | (simp_all; done) | (simp_all [queueCount, mailboxCount, inWindow]; done) | split)

theorem execSpxStreamEnable_goes {s : State} {src : _} {stream : _} {value : _} (hw : Instr.wf (.spxStreamEnable src stream value) = true) : Goes (execSpxStreamEnable src stream value s) := by
  simp only [Instr.wf, Instr.source, Instr.unitOk, Option.elim_some, Option.elim_none] at hw
  unfold execSpxStreamEnable
  try dsimp only
  repeat' (first | exact Goes.next | with_reducible exact Goes.due | with_reducible exact Goes.hmpCmd | with_reducible exact Goes.admCtxCmd | with_reducible exact Goes.admCmd | with_reducible refine Goes.regCmd ?_ | with_reducible refine Goes.readCmd ?_ | with_reducible refine Goes.engineCmd ?_ | with_reducible refine Goes.unit ?_ ?_ | (simp_all; done) | (simp_all [queueCount, mailboxCount, inWindow]; done) | split)

theorem execSpxStreamDisable_goes {s : State} {src : _} {stream : _} {value : _} (hw : Instr.wf (.spxStreamDisable src stream value) = true) : Goes (execSpxStreamDisable src stream value s) := by
  simp only [Instr.wf, Instr.source, Instr.unitOk, Option.elim_some, Option.elim_none] at hw
  unfold execSpxStreamDisable
  try dsimp only
  repeat' (first | exact Goes.next | with_reducible exact Goes.due | with_reducible exact Goes.hmpCmd | with_reducible exact Goes.admCtxCmd | with_reducible exact Goes.admCmd | with_reducible refine Goes.regCmd ?_ | with_reducible refine Goes.readCmd ?_ | with_reducible refine Goes.engineCmd ?_ | with_reducible refine Goes.unit ?_ ?_ | (simp_all; done) | (simp_all [queueCount, mailboxCount, inWindow]; done) | split)

theorem execFeatureFrameCompute_goes {s : State} {stream : _} (hw : Instr.wf (.featureFrameCompute stream) = true) : Goes (execFeatureFrameCompute stream s) := by
  simp only [Instr.wf, Instr.source, Instr.unitOk, Option.elim_some, Option.elim_none] at hw
  unfold execFeatureFrameCompute
  try dsimp only
  repeat' (first | exact Goes.next | with_reducible exact Goes.due | with_reducible exact Goes.hmpCmd | with_reducible exact Goes.admCtxCmd | with_reducible exact Goes.admCmd | with_reducible refine Goes.regCmd ?_ | with_reducible refine Goes.readCmd ?_ | with_reducible refine Goes.engineCmd ?_ | with_reducible refine Goes.unit ?_ ?_ | (simp_all; done) | (simp_all [queueCount, mailboxCount, inWindow]; done) | split)

theorem execSpxBufferPut_goes {s : State} {stream : _} (hw : Instr.wf (.spxBufferPut stream) = true) : Goes (execSpxBufferPut stream s) := by
  simp only [Instr.wf, Instr.source, Instr.unitOk, Option.elim_some, Option.elim_none] at hw
  unfold execSpxBufferPut
  try dsimp only
  repeat' (first | exact Goes.next | with_reducible exact Goes.due | with_reducible exact Goes.hmpCmd | with_reducible exact Goes.admCtxCmd | with_reducible exact Goes.admCmd | with_reducible refine Goes.regCmd ?_ | with_reducible refine Goes.readCmd ?_ | with_reducible refine Goes.engineCmd ?_ | with_reducible refine Goes.unit ?_ ?_ | (simp_all; done) | (simp_all [queueCount, mailboxCount, inWindow]; done) | split)

theorem execSpxBudgetExpiry_goes {s : State} {stream : _} (hw : Instr.wf (.spxBudgetExpiry stream) = true) : Goes (execSpxBudgetExpiry stream s) := by
  simp only [Instr.wf, Instr.source, Instr.unitOk, Option.elim_some, Option.elim_none] at hw
  unfold execSpxBudgetExpiry
  try dsimp only
  repeat' (first | exact Goes.next | with_reducible exact Goes.due | with_reducible exact Goes.hmpCmd | with_reducible exact Goes.admCtxCmd | with_reducible exact Goes.admCmd | with_reducible refine Goes.regCmd ?_ | with_reducible refine Goes.readCmd ?_ | with_reducible refine Goes.engineCmd ?_ | with_reducible refine Goes.unit ?_ ?_ | (simp_all; done) | (simp_all [queueCount, mailboxCount, inWindow]; done) | split)

theorem execVcdSessionOpen_goes {s : State} {src : _} {session : _} {value : _} (hw : Instr.wf (.vcdSessionOpen src session value) = true) : Goes (execVcdSessionOpen src session value s) := by
  simp only [Instr.wf, Instr.source, Instr.unitOk, Option.elim_some, Option.elim_none] at hw
  unfold execVcdSessionOpen
  try dsimp only
  repeat' (first | exact Goes.next | with_reducible exact Goes.due | with_reducible exact Goes.hmpCmd | with_reducible exact Goes.admCtxCmd | with_reducible exact Goes.admCmd | with_reducible refine Goes.regCmd ?_ | with_reducible refine Goes.readCmd ?_ | with_reducible refine Goes.engineCmd ?_ | with_reducible refine Goes.unit ?_ ?_ | (simp_all; done) | (simp_all [queueCount, mailboxCount, inWindow]; done) | split)

theorem execVcdSessionClose_goes {s : State} {src : _} {session : _} {value : _} (hw : Instr.wf (.vcdSessionClose src session value) = true) : Goes (execVcdSessionClose src session value s) := by
  simp only [Instr.wf, Instr.source, Instr.unitOk, Option.elim_some, Option.elim_none] at hw
  unfold execVcdSessionClose
  try dsimp only
  repeat' (first | exact Goes.next | with_reducible exact Goes.due | with_reducible exact Goes.hmpCmd | with_reducible exact Goes.admCtxCmd | with_reducible exact Goes.admCmd | with_reducible refine Goes.regCmd ?_ | with_reducible refine Goes.readCmd ?_ | with_reducible refine Goes.engineCmd ?_ | with_reducible refine Goes.unit ?_ ?_ | (simp_all; done) | (simp_all [queueCount, mailboxCount, inWindow]; done) | split)

theorem execVcdPictureStart_goes {s : State} {session : _} (hw : Instr.wf (.vcdPictureStart session) = true) : Goes (execVcdPictureStart session s) := by
  simp only [Instr.wf, Instr.source, Instr.unitOk, Option.elim_some, Option.elim_none] at hw
  unfold execVcdPictureStart
  try dsimp only
  repeat' (first | exact Goes.next | with_reducible exact Goes.due | with_reducible exact Goes.hmpCmd | with_reducible exact Goes.admCtxCmd | with_reducible exact Goes.admCmd | with_reducible refine Goes.regCmd ?_ | with_reducible refine Goes.readCmd ?_ | with_reducible refine Goes.engineCmd ?_ | with_reducible refine Goes.unit ?_ ?_ | (simp_all; done) | (simp_all [queueCount, mailboxCount, inWindow]; done) | split)

theorem execVcdPictureDone_goes {s : State} {session : _} (hw : Instr.wf (.vcdPictureDone session) = true) : Goes (execVcdPictureDone session s) := by
  simp only [Instr.wf, Instr.source, Instr.unitOk, Option.elim_some, Option.elim_none] at hw
  unfold execVcdPictureDone
  try dsimp only
  repeat' (first | exact Goes.next | with_reducible exact Goes.due | with_reducible exact Goes.hmpCmd | with_reducible exact Goes.admCtxCmd | with_reducible exact Goes.admCmd | with_reducible refine Goes.regCmd ?_ | with_reducible refine Goes.readCmd ?_ | with_reducible refine Goes.engineCmd ?_ | with_reducible refine Goes.unit ?_ ?_ | (simp_all; done) | (simp_all [queueCount, mailboxCount, inWindow]; done) | split)

theorem execVcdPictureBudgetExpiry_goes {s : State} {session : _} (hw : Instr.wf (.vcdPictureBudgetExpiry session) = true) : Goes (execVcdPictureBudgetExpiry session s) := by
  simp only [Instr.wf, Instr.source, Instr.unitOk, Option.elim_some, Option.elim_none] at hw
  unfold execVcdPictureBudgetExpiry
  try dsimp only
  repeat' (first | exact Goes.next | with_reducible exact Goes.due | with_reducible exact Goes.hmpCmd | with_reducible exact Goes.admCtxCmd | with_reducible exact Goes.admCmd | with_reducible refine Goes.regCmd ?_ | with_reducible refine Goes.readCmd ?_ | with_reducible refine Goes.engineCmd ?_ | with_reducible refine Goes.unit ?_ ?_ | (simp_all; done) | (simp_all [queueCount, mailboxCount, inWindow]; done) | split)

theorem execEthFrameReceive_goes {s : State} {port : _} {frame : _} (hw : Instr.wf (.ethFrameReceive port frame) = true) : Goes (execEthFrameReceive port frame s) := by
  simp only [Instr.wf, Instr.source, Instr.unitOk, Option.elim_some, Option.elim_none] at hw
  unfold execEthFrameReceive
  try dsimp only
  repeat' (first | exact Goes.next | with_reducible exact Goes.due | with_reducible exact Goes.hmpCmd | with_reducible exact Goes.admCtxCmd | with_reducible exact Goes.admCmd | with_reducible refine Goes.regCmd ?_ | with_reducible refine Goes.readCmd ?_ | with_reducible refine Goes.engineCmd ?_ | with_reducible refine Goes.unit ?_ ?_ | (simp_all; done) | (simp_all [queueCount, mailboxCount, inWindow]; done) | split)

theorem execEthLinkLoss_goes {s : State} {port : _} (hw : Instr.wf (.ethLinkLoss port) = true) : Goes (execEthLinkLoss port s) := by
  simp only [Instr.wf, Instr.source, Instr.unitOk, Option.elim_some, Option.elim_none] at hw
  unfold execEthLinkLoss
  try dsimp only
  repeat' (first | exact Goes.next | with_reducible exact Goes.due | with_reducible exact Goes.hmpCmd | with_reducible exact Goes.admCtxCmd | with_reducible exact Goes.admCmd | with_reducible refine Goes.regCmd ?_ | with_reducible refine Goes.readCmd ?_ | with_reducible refine Goes.engineCmd ?_ | with_reducible refine Goes.unit ?_ ?_ | (simp_all; done) | (simp_all [queueCount, mailboxCount, inWindow]; done) | split)

theorem execSessionOpen_goes {s : State} (hw : Instr.wf (.sessionOpen) = true) : Goes (execSessionOpen s) := by
  simp only [Instr.wf, Instr.source, Instr.unitOk, Option.elim_some, Option.elim_none] at hw
  unfold execSessionOpen
  try dsimp only
  repeat' (first | exact Goes.next | with_reducible exact Goes.due | with_reducible exact Goes.hmpCmd | with_reducible exact Goes.admCtxCmd | with_reducible exact Goes.admCmd | with_reducible refine Goes.regCmd ?_ | with_reducible refine Goes.readCmd ?_ | with_reducible refine Goes.engineCmd ?_ | with_reducible refine Goes.unit ?_ ?_ | (simp_all; done) | (simp_all [queueCount, mailboxCount, inWindow]; done) | split)

theorem execSessionClose_goes {s : State} (hw : Instr.wf (.sessionClose) = true) : Goes (execSessionClose s) := by
  simp only [Instr.wf, Instr.source, Instr.unitOk, Option.elim_some, Option.elim_none] at hw
  unfold execSessionClose
  try dsimp only
  repeat' (first | exact Goes.next | with_reducible exact Goes.due | with_reducible exact Goes.hmpCmd | with_reducible exact Goes.admCtxCmd | with_reducible exact Goes.admCmd | with_reducible refine Goes.regCmd ?_ | with_reducible refine Goes.readCmd ?_ | with_reducible refine Goes.engineCmd ?_ | with_reducible refine Goes.unit ?_ ?_ | (simp_all; done) | (simp_all [queueCount, mailboxCount, inWindow]; done) | split)

theorem execKeepalive_goes {s : State} (hw : Instr.wf (.keepalive) = true) : Goes (execKeepalive s) := by
  simp only [Instr.wf, Instr.source, Instr.unitOk, Option.elim_some, Option.elim_none] at hw
  unfold execKeepalive
  try dsimp only
  repeat' (first | exact Goes.next | with_reducible exact Goes.due | with_reducible exact Goes.hmpCmd | with_reducible exact Goes.admCtxCmd | with_reducible exact Goes.admCmd | with_reducible refine Goes.regCmd ?_ | with_reducible refine Goes.readCmd ?_ | with_reducible refine Goes.engineCmd ?_ | with_reducible refine Goes.unit ?_ ?_ | (simp_all; done) | (simp_all [queueCount, mailboxCount, inWindow]; done) | split)

theorem execRegRead_goes {s : State} (hw : Instr.wf (.regRead) = true) : Goes (execRegRead s) := by
  simp only [Instr.wf, Instr.source, Instr.unitOk, Option.elim_some, Option.elim_none] at hw
  unfold execRegRead
  try dsimp only
  repeat' (first | exact Goes.next | with_reducible exact Goes.due | with_reducible exact Goes.hmpCmd | with_reducible exact Goes.admCtxCmd | with_reducible exact Goes.admCmd | with_reducible refine Goes.regCmd ?_ | with_reducible refine Goes.readCmd ?_ | with_reducible refine Goes.engineCmd ?_ | with_reducible refine Goes.unit ?_ ?_ | (simp_all; done) | (simp_all [queueCount, mailboxCount, inWindow]; done) | split)

theorem execRegWrite_goes {s : State} (hw : Instr.wf (.regWrite) = true) : Goes (execRegWrite s) := by
  simp only [Instr.wf, Instr.source, Instr.unitOk, Option.elim_some, Option.elim_none] at hw
  unfold execRegWrite
  try dsimp only
  repeat' (first | exact Goes.next | with_reducible exact Goes.due | with_reducible exact Goes.hmpCmd | with_reducible exact Goes.admCtxCmd | with_reducible exact Goes.admCmd | with_reducible refine Goes.regCmd ?_ | with_reducible refine Goes.readCmd ?_ | with_reducible refine Goes.engineCmd ?_ | with_reducible refine Goes.unit ?_ ?_ | (simp_all; done) | (simp_all [queueCount, mailboxCount, inWindow]; done) | split)

theorem execQueuePush_goes {s : State} (hw : Instr.wf (.queuePush) = true) : Goes (execQueuePush s) := by
  simp only [Instr.wf, Instr.source, Instr.unitOk, Option.elim_some, Option.elim_none] at hw
  unfold execQueuePush
  try dsimp only
  repeat' (first | exact Goes.next | with_reducible exact Goes.due | with_reducible exact Goes.hmpCmd | with_reducible exact Goes.admCtxCmd | with_reducible exact Goes.admCmd | with_reducible refine Goes.regCmd ?_ | with_reducible refine Goes.readCmd ?_ | with_reducible refine Goes.engineCmd ?_ | with_reducible refine Goes.unit ?_ ?_ | (simp_all; done) | (simp_all [queueCount, mailboxCount, inWindow]; done) | split)

theorem execMailboxGet_goes {s : State} (hw : Instr.wf (.mailboxGet) = true) : Goes (execMailboxGet s) := by
  simp only [Instr.wf, Instr.source, Instr.unitOk, Option.elim_some, Option.elim_none] at hw
  unfold execMailboxGet
  try dsimp only
  repeat' (first | exact Goes.next | with_reducible exact Goes.due | with_reducible exact Goes.hmpCmd | with_reducible exact Goes.admCtxCmd | with_reducible exact Goes.admCmd | with_reducible refine Goes.regCmd ?_ | with_reducible refine Goes.readCmd ?_ | with_reducible refine Goes.engineCmd ?_ | with_reducible refine Goes.unit ?_ ?_ | (simp_all; done) | (simp_all [queueCount, mailboxCount, inWindow]; done) | split)

theorem execCommitGet_goes {s : State} (hw : Instr.wf (.commitGet) = true) : Goes (execCommitGet s) := by
  simp only [Instr.wf, Instr.source, Instr.unitOk, Option.elim_some, Option.elim_none] at hw
  unfold execCommitGet
  try dsimp only
  repeat' (first | exact Goes.next | with_reducible exact Goes.due | with_reducible exact Goes.hmpCmd | with_reducible exact Goes.admCtxCmd | with_reducible exact Goes.admCmd | with_reducible refine Goes.regCmd ?_ | with_reducible refine Goes.readCmd ?_ | with_reducible refine Goes.engineCmd ?_ | with_reducible refine Goes.unit ?_ ?_ | (simp_all; done) | (simp_all [queueCount, mailboxCount, inWindow]; done) | split)

theorem execJournalGet_goes {s : State} (hw : Instr.wf (.journalGet) = true) : Goes (execJournalGet s) := by
  simp only [Instr.wf, Instr.source, Instr.unitOk, Option.elim_some, Option.elim_none] at hw
  unfold execJournalGet
  try dsimp only
  repeat' (first | exact Goes.next | with_reducible exact Goes.due | with_reducible exact Goes.hmpCmd | with_reducible exact Goes.admCtxCmd | with_reducible exact Goes.admCmd | with_reducible refine Goes.regCmd ?_ | with_reducible refine Goes.readCmd ?_ | with_reducible refine Goes.engineCmd ?_ | with_reducible refine Goes.unit ?_ ?_ | (simp_all; done) | (simp_all [queueCount, mailboxCount, inWindow]; done) | split)

theorem execModelAdmit_goes {s : State} (hw : Instr.wf (.modelAdmit) = true) : Goes (execModelAdmit s) := by
  simp only [Instr.wf, Instr.source, Instr.unitOk, Option.elim_some, Option.elim_none] at hw
  unfold execModelAdmit
  try dsimp only
  repeat' (first | exact Goes.next | with_reducible exact Goes.due | with_reducible exact Goes.hmpCmd | with_reducible exact Goes.admCtxCmd | with_reducible exact Goes.admCmd | with_reducible refine Goes.regCmd ?_ | with_reducible refine Goes.readCmd ?_ | with_reducible refine Goes.engineCmd ?_ | with_reducible refine Goes.unit ?_ ?_ | (simp_all; done) | (simp_all [queueCount, mailboxCount, inWindow]; done) | split)

theorem execFirmware_goes {s : State} (hw : Instr.wf (.firmware) = true) : Goes (execFirmware s) := by
  simp only [Instr.wf, Instr.source, Instr.unitOk, Option.elim_some, Option.elim_none] at hw
  unfold execFirmware
  try dsimp only
  repeat' (first | exact Goes.next | with_reducible exact Goes.due | with_reducible exact Goes.hmpCmd | with_reducible exact Goes.admCtxCmd | with_reducible exact Goes.admCmd | with_reducible refine Goes.regCmd ?_ | with_reducible refine Goes.readCmd ?_ | with_reducible refine Goes.engineCmd ?_ | with_reducible refine Goes.unit ?_ ?_ | (simp_all; done) | (simp_all [queueCount, mailboxCount, inWindow]; done) | split)

theorem execSessionTimeout_goes {s : State} {session : _} (hw : Instr.wf (.sessionTimeout session) = true) : Goes (execSessionTimeout session s) := by
  simp only [Instr.wf, Instr.source, Instr.unitOk, Option.elim_some, Option.elim_none] at hw
  unfold execSessionTimeout
  try dsimp only
  repeat' (first | exact Goes.next | with_reducible exact Goes.due | with_reducible exact Goes.hmpCmd | with_reducible exact Goes.admCtxCmd | with_reducible exact Goes.admCmd | with_reducible refine Goes.regCmd ?_ | with_reducible refine Goes.readCmd ?_ | with_reducible refine Goes.engineCmd ?_ | with_reducible refine Goes.unit ?_ ?_ | (simp_all; done) | (simp_all [queueCount, mailboxCount, inWindow]; done) | split)

theorem execHmpSessionCloseWrite_goes {s : State} {src : _} {session : _} (hw : Instr.wf (.hmpSessionCloseWrite src session) = true) : Goes (execHmpSessionCloseWrite src session s) := by
  simp only [Instr.wf, Instr.source, Instr.unitOk, Option.elim_some, Option.elim_none] at hw
  unfold execHmpSessionCloseWrite
  try dsimp only
  repeat' (first | exact Goes.next | with_reducible exact Goes.due | with_reducible exact Goes.hmpCmd | with_reducible exact Goes.admCtxCmd | with_reducible exact Goes.admCmd | with_reducible refine Goes.regCmd ?_ | with_reducible refine Goes.readCmd ?_ | with_reducible refine Goes.engineCmd ?_ | with_reducible refine Goes.unit ?_ ?_ | (simp_all; done) | (simp_all [queueCount, mailboxCount, inWindow]; done) | split)

theorem execFwDone_goes {s : State} {src : _} {slot : _} (hw : Instr.wf (.fwDone src slot) = true) : Goes (execFwDone src slot s) := by
  simp only [Instr.wf, Instr.source, Instr.unitOk, Option.elim_some, Option.elim_none] at hw
  unfold execFwDone
  try dsimp only
  repeat' (first | exact Goes.next | with_reducible exact Goes.due | with_reducible exact Goes.hmpCmd | with_reducible exact Goes.admCtxCmd | with_reducible exact Goes.admCmd | with_reducible refine Goes.regCmd ?_ | with_reducible refine Goes.readCmd ?_ | with_reducible refine Goes.engineCmd ?_ | with_reducible refine Goes.unit ?_ ?_ | (simp_all; done) | (simp_all [queueCount, mailboxCount, inWindow]; done) | split)

theorem execFwResponseTimeout_goes {s : State} {slot : _} (hw : Instr.wf (.fwResponseTimeout slot) = true) : Goes (execFwResponseTimeout slot s) := by
  simp only [Instr.wf, Instr.source, Instr.unitOk, Option.elim_some, Option.elim_none] at hw
  unfold execFwResponseTimeout
  try dsimp only
  repeat' (first | exact Goes.next | with_reducible exact Goes.due | with_reducible exact Goes.hmpCmd | with_reducible exact Goes.admCtxCmd | with_reducible exact Goes.admCmd | with_reducible refine Goes.regCmd ?_ | with_reducible refine Goes.readCmd ?_ | with_reducible refine Goes.engineCmd ?_ | with_reducible refine Goes.unit ?_ ?_ | (simp_all; done) | (simp_all [queueCount, mailboxCount, inWindow]; done) | split)

theorem execLastWordCopy_goes {s : State} {copy : _} (hw : Instr.wf (.lastWordCopy copy) = true) : Goes (execLastWordCopy copy s) := by
  simp only [Instr.wf, Instr.source, Instr.unitOk, Option.elim_some, Option.elim_none] at hw
  unfold execLastWordCopy
  try dsimp only
  repeat' (first | exact Goes.next | with_reducible exact Goes.due | with_reducible exact Goes.hmpCmd | with_reducible exact Goes.admCtxCmd | with_reducible exact Goes.admCmd | with_reducible refine Goes.regCmd ?_ | with_reducible refine Goes.readCmd ?_ | with_reducible refine Goes.engineCmd ?_ | with_reducible refine Goes.unit ?_ ?_ | (simp_all; done) | (simp_all [queueCount, mailboxCount, inWindow]; done) | split)

theorem execMacsecKeyWrite_goes {s : State} {src : _} {addr : _} {value : _} (hw : Instr.wf (.macsecKeyWrite src addr value) = true) : Goes (execMacsecKeyWrite src addr value s) := by
  simp only [Instr.wf, Instr.source, Instr.unitOk, Option.elim_some, Option.elim_none] at hw
  unfold execMacsecKeyWrite
  try dsimp only
  repeat' (first | exact Goes.next | with_reducible exact Goes.due | with_reducible exact Goes.hmpCmd | with_reducible exact Goes.admCtxCmd | with_reducible exact Goes.admCmd | with_reducible refine Goes.regCmd ?_ | with_reducible refine Goes.readCmd ?_ | with_reducible refine Goes.engineCmd ?_ | with_reducible refine Goes.unit ?_ ?_ | (simp_all; done) | (simp_all [queueCount, mailboxCount, inWindow]; done) | split)

theorem execEthFrameTransmit_goes {s : State} {port : _} (hw : Instr.wf (.ethFrameTransmit port) = true) : Goes (execEthFrameTransmit port s) := by
  simp only [Instr.wf, Instr.source, Instr.unitOk, Option.elim_some, Option.elim_none] at hw
  unfold execEthFrameTransmit
  try dsimp only
  repeat' (first | exact Goes.next | with_reducible exact Goes.due | with_reducible exact Goes.hmpCmd | with_reducible exact Goes.admCtxCmd | with_reducible exact Goes.admCmd | with_reducible refine Goes.regCmd ?_ | with_reducible refine Goes.readCmd ?_ | with_reducible refine Goes.engineCmd ?_ | with_reducible refine Goes.unit ?_ ?_ | (simp_all; done) | (simp_all [queueCount, mailboxCount, inWindow]; done) | split)

theorem execQbvCommit_goes {s : State} {src : _} {port : _} {value : _} (hw : Instr.wf (.qbvCommit src port value) = true) : Goes (execQbvCommit src port value s) := by
  simp only [Instr.wf, Instr.source, Instr.unitOk, Option.elim_some, Option.elim_none] at hw
  unfold execQbvCommit
  try dsimp only
  repeat' (first | exact Goes.next | with_reducible exact Goes.due | with_reducible exact Goes.hmpCmd | with_reducible exact Goes.admCtxCmd | with_reducible exact Goes.admCmd | with_reducible refine Goes.regCmd ?_ | with_reducible refine Goes.readCmd ?_ | with_reducible refine Goes.engineCmd ?_ | with_reducible refine Goes.unit ?_ ?_ | (simp_all; done) | (simp_all [queueCount, mailboxCount, inWindow]; done) | split)

theorem execQbvCycleBoundary_goes {s : State} {port : _} (hw : Instr.wf (.qbvCycleBoundary port) = true) : Goes (execQbvCycleBoundary port s) := by
  simp only [Instr.wf, Instr.source, Instr.unitOk, Option.elim_some, Option.elim_none] at hw
  unfold execQbvCycleBoundary
  try dsimp only
  repeat' (first | exact Goes.next | with_reducible exact Goes.due | with_reducible exact Goes.hmpCmd | with_reducible exact Goes.admCtxCmd | with_reducible exact Goes.admCmd | with_reducible refine Goes.regCmd ?_ | with_reducible refine Goes.readCmd ?_ | with_reducible refine Goes.engineCmd ?_ | with_reducible refine Goes.unit ?_ ?_ | (simp_all; done) | (simp_all [queueCount, mailboxCount, inWindow]; done) | split)

theorem execCbRecoveryReset_goes {s : State} {port : _} {stream : _} (hw : Instr.wf (.cbRecoveryReset port stream) = true) : Goes (execCbRecoveryReset port stream s) := by
  simp only [Instr.wf, Instr.source, Instr.unitOk, Option.elim_some, Option.elim_none] at hw
  unfold execCbRecoveryReset
  try dsimp only
  repeat' (first | exact Goes.next | with_reducible exact Goes.due | with_reducible exact Goes.hmpCmd | with_reducible exact Goes.admCtxCmd | with_reducible exact Goes.admCmd | with_reducible refine Goes.regCmd ?_ | with_reducible refine Goes.readCmd ?_ | with_reducible refine Goes.engineCmd ?_ | with_reducible refine Goes.unit ?_ ?_ | (simp_all; done) | (simp_all [queueCount, mailboxCount, inWindow]; done) | split)

theorem execMdioAccess_goes {s : State} {src : _} {value : _} (hw : Instr.wf (.mdioAccess src value) = true) : Goes (execMdioAccess src value s) := by
  simp only [Instr.wf, Instr.source, Instr.unitOk, Option.elim_some, Option.elim_none] at hw
  unfold execMdioAccess
  try dsimp only
  repeat' (first | exact Goes.next | with_reducible exact Goes.due | with_reducible exact Goes.hmpCmd | with_reducible exact Goes.admCtxCmd | with_reducible exact Goes.admCmd | with_reducible refine Goes.regCmd ?_ | with_reducible refine Goes.readCmd ?_ | with_reducible refine Goes.engineCmd ?_ | with_reducible refine Goes.unit ?_ ?_ | (simp_all; done) | (simp_all [queueCount, mailboxCount, inWindow]; done) | split)

theorem execMdioDone_goes {s : State} {data : _} (hw : Instr.wf (.mdioDone data) = true) : Goes (execMdioDone data s) := by
  simp only [Instr.wf, Instr.source, Instr.unitOk, Option.elim_some, Option.elim_none] at hw
  unfold execMdioDone
  try dsimp only
  repeat' (first | exact Goes.next | with_reducible exact Goes.due | with_reducible exact Goes.hmpCmd | with_reducible exact Goes.admCtxCmd | with_reducible exact Goes.admCmd | with_reducible refine Goes.regCmd ?_ | with_reducible refine Goes.readCmd ?_ | with_reducible refine Goes.engineCmd ?_ | with_reducible refine Goes.unit ?_ ?_ | (simp_all; done) | (simp_all [queueCount, mailboxCount, inWindow]; done) | split)

theorem execPtpTxGo_goes {s : State} {src : _} {slot : _} (hw : Instr.wf (.ptpTxGo src slot) = true) : Goes (execPtpTxGo src slot s) := by
  simp only [Instr.wf, Instr.source, Instr.unitOk, Option.elim_some, Option.elim_none] at hw
  unfold execPtpTxGo
  try dsimp only
  repeat' (first | exact Goes.next | with_reducible exact Goes.due | with_reducible exact Goes.hmpCmd | with_reducible exact Goes.admCtxCmd | with_reducible exact Goes.admCmd | with_reducible refine Goes.regCmd ?_ | with_reducible refine Goes.readCmd ?_ | with_reducible refine Goes.engineCmd ?_ | with_reducible refine Goes.unit ?_ ?_ | (simp_all; done) | (simp_all [queueCount, mailboxCount, inWindow]; done) | split)

theorem execPtpTxDone_goes {s : State} {slot : _} (hw : Instr.wf (.ptpTxDone slot) = true) : Goes (execPtpTxDone slot s) := by
  simp only [Instr.wf, Instr.source, Instr.unitOk, Option.elim_some, Option.elim_none] at hw
  unfold execPtpTxDone
  try dsimp only
  repeat' (first | exact Goes.next | with_reducible exact Goes.due | with_reducible exact Goes.hmpCmd | with_reducible exact Goes.admCtxCmd | with_reducible exact Goes.admCmd | with_reducible refine Goes.regCmd ?_ | with_reducible refine Goes.readCmd ?_ | with_reducible refine Goes.engineCmd ?_ | with_reducible refine Goes.unit ?_ ?_ | (simp_all; done) | (simp_all [queueCount, mailboxCount, inWindow]; done) | split)

theorem execTimeSet_goes {s : State} {src : _} {ns : _} (hw : Instr.wf (.timeSet src ns) = true) : Goes (execTimeSet src ns s) := by
  simp only [Instr.wf, Instr.source, Instr.unitOk, Option.elim_some, Option.elim_none] at hw
  unfold execTimeSet
  try dsimp only
  repeat' (first | exact Goes.next | with_reducible exact Goes.due | with_reducible exact Goes.hmpCmd | with_reducible exact Goes.admCtxCmd | with_reducible exact Goes.admCmd | with_reducible refine Goes.regCmd ?_ | with_reducible refine Goes.readCmd ?_ | with_reducible refine Goes.engineCmd ?_ | with_reducible refine Goes.unit ?_ ?_ | (simp_all; done) | (simp_all [queueCount, mailboxCount, inWindow]; done) | split)

theorem execTimeStep_goes {s : State} {src : _} {step : _} (hw : Instr.wf (.timeStep src step) = true) : Goes (execTimeStep src step s) := by
  simp only [Instr.wf, Instr.source, Instr.unitOk, Option.elim_some, Option.elim_none] at hw
  unfold execTimeStep
  try dsimp only
  repeat' (first | exact Goes.next | with_reducible exact Goes.due | with_reducible exact Goes.hmpCmd | with_reducible exact Goes.admCtxCmd | with_reducible exact Goes.admCmd | with_reducible refine Goes.regCmd ?_ | with_reducible refine Goes.readCmd ?_ | with_reducible refine Goes.engineCmd ?_ | with_reducible refine Goes.unit ?_ ?_ | (simp_all; done) | (simp_all [queueCount, mailboxCount, inWindow]; done) | split)

theorem execTimeRateWrite_goes {s : State} {src : _} {increment : _} (hw : Instr.wf (.timeRateWrite src increment) = true) : Goes (execTimeRateWrite src increment s) := by
  simp only [Instr.wf, Instr.source, Instr.unitOk, Option.elim_some, Option.elim_none] at hw
  unfold execTimeRateWrite
  try dsimp only
  repeat' (first | exact Goes.next | with_reducible exact Goes.due | with_reducible exact Goes.hmpCmd | with_reducible exact Goes.admCtxCmd | with_reducible exact Goes.admCmd | with_reducible refine Goes.regCmd ?_ | with_reducible refine Goes.readCmd ?_ | with_reducible refine Goes.engineCmd ?_ | with_reducible refine Goes.unit ?_ ?_ | (simp_all; done) | (simp_all [queueCount, mailboxCount, inWindow]; done) | split)

theorem execTimeKick_goes {s : State} {src : _} (hw : Instr.wf (.timeKick src) = true) : Goes (execTimeKick src s) := by
  simp only [Instr.wf, Instr.source, Instr.unitOk, Option.elim_some, Option.elim_none] at hw
  unfold execTimeKick
  try dsimp only
  repeat' (first | exact Goes.next | with_reducible exact Goes.due | with_reducible exact Goes.hmpCmd | with_reducible exact Goes.admCtxCmd | with_reducible exact Goes.admCmd | with_reducible refine Goes.regCmd ?_ | with_reducible refine Goes.readCmd ?_ | with_reducible refine Goes.engineCmd ?_ | with_reducible refine Goes.unit ?_ ?_ | (simp_all; done) | (simp_all [queueCount, mailboxCount, inWindow]; done) | split)

theorem execTimLock_goes {s : State} {src : _} (hw : Instr.wf (.timLock src) = true) : Goes (execTimLock src s) := by
  simp only [Instr.wf, Instr.source, Instr.unitOk, Option.elim_some, Option.elim_none] at hw
  unfold execTimLock
  try dsimp only
  repeat' (first | exact Goes.next | with_reducible exact Goes.due | with_reducible exact Goes.hmpCmd | with_reducible exact Goes.admCtxCmd | with_reducible exact Goes.admCmd | with_reducible refine Goes.regCmd ?_ | with_reducible refine Goes.readCmd ?_ | with_reducible refine Goes.engineCmd ?_ | with_reducible refine Goes.unit ?_ ?_ | (simp_all; done) | (simp_all [queueCount, mailboxCount, inWindow]; done) | split)

theorem execTimHold_goes {s : State} {src : _} (hw : Instr.wf (.timHold src) = true) : Goes (execTimHold src s) := by
  simp only [Instr.wf, Instr.source, Instr.unitOk, Option.elim_some, Option.elim_none] at hw
  unfold execTimHold
  try dsimp only
  repeat' (first | exact Goes.next | with_reducible exact Goes.due | with_reducible exact Goes.hmpCmd | with_reducible exact Goes.admCtxCmd | with_reducible exact Goes.admCmd | with_reducible refine Goes.regCmd ?_ | with_reducible refine Goes.readCmd ?_ | with_reducible refine Goes.engineCmd ?_ | with_reducible refine Goes.unit ?_ ?_ | (simp_all; done) | (simp_all [queueCount, mailboxCount, inWindow]; done) | split)

theorem execTimRelease_goes {s : State} {src : _} (hw : Instr.wf (.timRelease src) = true) : Goes (execTimRelease src s) := by
  simp only [Instr.wf, Instr.source, Instr.unitOk, Option.elim_some, Option.elim_none] at hw
  unfold execTimRelease
  try dsimp only
  repeat' (first | exact Goes.next | with_reducible exact Goes.due | with_reducible exact Goes.hmpCmd | with_reducible exact Goes.admCtxCmd | with_reducible exact Goes.admCmd | with_reducible refine Goes.regCmd ?_ | with_reducible refine Goes.readCmd ?_ | with_reducible refine Goes.engineCmd ?_ | with_reducible refine Goes.unit ?_ ?_ | (simp_all; done) | (simp_all [queueCount, mailboxCount, inWindow]; done) | split)

theorem execSyncTimeout_goes {s : State} (hw : Instr.wf (.syncTimeout) = true) : Goes (execSyncTimeout s) := by
  simp only [Instr.wf, Instr.source, Instr.unitOk, Option.elim_some, Option.elim_none] at hw
  unfold execSyncTimeout
  try dsimp only
  repeat' (first | exact Goes.next | with_reducible exact Goes.due | with_reducible exact Goes.hmpCmd | with_reducible exact Goes.admCtxCmd | with_reducible exact Goes.admCmd | with_reducible refine Goes.regCmd ?_ | with_reducible refine Goes.readCmd ?_ | with_reducible refine Goes.engineCmd ?_ | with_reducible refine Goes.unit ?_ ?_ | (simp_all; done) | (simp_all [queueCount, mailboxCount, inWindow]; done) | split)

theorem execTimeNowRead_goes {s : State} {src : _} (hw : Instr.wf (.timeNowRead src) = true) : Goes (execTimeNowRead src s) := by
  simp only [Instr.wf, Instr.source, Instr.unitOk, Option.elim_some, Option.elim_none] at hw
  unfold execTimeNowRead
  try dsimp only
  repeat' (first | exact Goes.next | with_reducible exact Goes.due | with_reducible exact Goes.hmpCmd | with_reducible exact Goes.admCtxCmd | with_reducible exact Goes.admCmd | with_reducible refine Goes.regCmd ?_ | with_reducible refine Goes.readCmd ?_ | with_reducible refine Goes.engineCmd ?_ | with_reducible refine Goes.unit ?_ ?_ | (simp_all; done) | (simp_all [queueCount, mailboxCount, inWindow]; done) | split)

theorem execTriggerArm_goes {s : State} {src : _} {trigger : _} {value : _} (hw : Instr.wf (.triggerArm src trigger value) = true) : Goes (execTriggerArm src trigger value s) := by
  simp only [Instr.wf, Instr.source, Instr.unitOk, Option.elim_some, Option.elim_none] at hw
  unfold execTriggerArm
  try dsimp only
  repeat' (first | exact Goes.next | with_reducible exact Goes.due | with_reducible exact Goes.hmpCmd | with_reducible exact Goes.admCtxCmd | with_reducible exact Goes.admCmd | with_reducible refine Goes.regCmd ?_ | with_reducible refine Goes.readCmd ?_ | with_reducible refine Goes.engineCmd ?_ | with_reducible refine Goes.unit ?_ ?_ | (simp_all; done) | (simp_all [queueCount, mailboxCount, inWindow]; done) | split)

theorem execTriggerDisarm_goes {s : State} {src : _} {trigger : _} {value : _} (hw : Instr.wf (.triggerDisarm src trigger value) = true) : Goes (execTriggerDisarm src trigger value s) := by
  simp only [Instr.wf, Instr.source, Instr.unitOk, Option.elim_some, Option.elim_none] at hw
  unfold execTriggerDisarm
  try dsimp only
  repeat' (first | exact Goes.next | with_reducible exact Goes.due | with_reducible exact Goes.hmpCmd | with_reducible exact Goes.admCtxCmd | with_reducible exact Goes.admCmd | with_reducible refine Goes.regCmd ?_ | with_reducible refine Goes.readCmd ?_ | with_reducible refine Goes.engineCmd ?_ | with_reducible refine Goes.unit ?_ ?_ | (simp_all; done) | (simp_all [queueCount, mailboxCount, inWindow]; done) | split)

theorem execTriggerFire_goes {s : State} {trigger : _} (hw : Instr.wf (.triggerFire trigger) = true) : Goes (execTriggerFire trigger s) := by
  simp only [Instr.wf, Instr.source, Instr.unitOk, Option.elim_some, Option.elim_none] at hw
  unfold execTriggerFire
  try dsimp only
  repeat' (first | exact Goes.next | with_reducible exact Goes.due | with_reducible exact Goes.hmpCmd | with_reducible exact Goes.admCtxCmd | with_reducible exact Goes.admCmd | with_reducible refine Goes.regCmd ?_ | with_reducible refine Goes.readCmd ?_ | with_reducible refine Goes.engineCmd ?_ | with_reducible refine Goes.unit ?_ ?_ | (simp_all; done) | (simp_all [queueCount, mailboxCount, inWindow]; done) | split)

theorem execTriggerPulseEnd_goes {s : State} {trigger : _} (hw : Instr.wf (.triggerPulseEnd trigger) = true) : Goes (execTriggerPulseEnd trigger s) := by
  simp only [Instr.wf, Instr.source, Instr.unitOk, Option.elim_some, Option.elim_none] at hw
  unfold execTriggerPulseEnd
  try dsimp only
  repeat' (first | exact Goes.next | with_reducible exact Goes.due | with_reducible exact Goes.hmpCmd | with_reducible exact Goes.admCtxCmd | with_reducible exact Goes.admCmd | with_reducible refine Goes.regCmd ?_ | with_reducible refine Goes.readCmd ?_ | with_reducible refine Goes.engineCmd ?_ | with_reducible refine Goes.unit ?_ ?_ | (simp_all; done) | (simp_all [queueCount, mailboxCount, inWindow]; done) | split)

theorem execControlTimerArm_goes {s : State} {src : _} {timer : _} {value : _} (hw : Instr.wf (.controlTimerArm src timer value) = true) : Goes (execControlTimerArm src timer value s) := by
  simp only [Instr.wf, Instr.source, Instr.unitOk, Option.elim_some, Option.elim_none] at hw
  unfold execControlTimerArm
  try dsimp only
  repeat' (first | exact Goes.next | with_reducible exact Goes.due | with_reducible exact Goes.hmpCmd | with_reducible exact Goes.admCtxCmd | with_reducible exact Goes.admCmd | with_reducible refine Goes.regCmd ?_ | with_reducible refine Goes.readCmd ?_ | with_reducible refine Goes.engineCmd ?_ | with_reducible refine Goes.unit ?_ ?_ | (simp_all; done) | (simp_all [queueCount, mailboxCount, inWindow]; done) | split)

theorem execControlTimerFire_goes {s : State} {timer : _} (hw : Instr.wf (.controlTimerFire timer) = true) : Goes (execControlTimerFire timer s) := by
  simp only [Instr.wf, Instr.source, Instr.unitOk, Option.elim_some, Option.elim_none] at hw
  unfold execControlTimerFire
  try dsimp only
  repeat' (first | exact Goes.next | with_reducible exact Goes.due | with_reducible exact Goes.hmpCmd | with_reducible exact Goes.admCtxCmd | with_reducible exact Goes.admCmd | with_reducible refine Goes.regCmd ?_ | with_reducible refine Goes.readCmd ?_ | with_reducible refine Goes.engineCmd ?_ | with_reducible refine Goes.unit ?_ ?_ | (simp_all; done) | (simp_all [queueCount, mailboxCount, inWindow]; done) | split)

theorem execCaptureEdge_goes {s : State} {input : _} {rising : _} (hw : Instr.wf (.captureEdge input rising) = true) : Goes (execCaptureEdge input rising s) := by
  simp only [Instr.wf, Instr.source, Instr.unitOk, Option.elim_some, Option.elim_none] at hw
  unfold execCaptureEdge
  try dsimp only
  repeat' (first | exact Goes.next | with_reducible exact Goes.due | with_reducible exact Goes.hmpCmd | with_reducible exact Goes.admCtxCmd | with_reducible exact Goes.admCmd | with_reducible refine Goes.regCmd ?_ | with_reducible refine Goes.readCmd ?_ | with_reducible refine Goes.engineCmd ?_ | with_reducible refine Goes.unit ?_ ?_ | (simp_all; done) | (simp_all [queueCount, mailboxCount, inWindow]; done) | split)

theorem execCapturePop_goes {s : State} {src : _} {input : _} (hw : Instr.wf (.capturePop src input) = true) : Goes (execCapturePop src input s) := by
  simp only [Instr.wf, Instr.source, Instr.unitOk, Option.elim_some, Option.elim_none] at hw
  unfold execCapturePop
  try dsimp only
  repeat' (first | exact Goes.next | with_reducible exact Goes.due | with_reducible exact Goes.hmpCmd | with_reducible exact Goes.admCtxCmd | with_reducible exact Goes.admCmd | with_reducible refine Goes.regCmd ?_ | with_reducible refine Goes.readCmd ?_ | with_reducible refine Goes.engineCmd ?_ | with_reducible refine Goes.unit ?_ ?_ | (simp_all; done) | (simp_all [queueCount, mailboxCount, inWindow]; done) | split)

theorem execPowerSample_goes {s : State} {rails : _} (hw : Instr.wf (.powerSample rails) = true) : Goes (execPowerSample rails s) := by
  simp only [Instr.wf, Instr.source, Instr.unitOk, Option.elim_some, Option.elim_none] at hw
  unfold execPowerSample
  try dsimp only
  repeat' (first | exact Goes.next | with_reducible exact Goes.due | with_reducible exact Goes.hmpCmd | with_reducible exact Goes.admCtxCmd | with_reducible exact Goes.admCmd | with_reducible refine Goes.regCmd ?_ | with_reducible refine Goes.readCmd ?_ | with_reducible refine Goes.engineCmd ?_ | with_reducible refine Goes.unit ?_ ?_ | (simp_all; done) | (simp_all [queueCount, mailboxCount, inWindow]; done) | split)

theorem execControlIntervalEnd_goes {s : State} {estimates : _} (hw : Instr.wf (.controlIntervalEnd estimates) = true) : Goes (execControlIntervalEnd estimates s) := by
  simp only [Instr.wf, Instr.source, Instr.unitOk, Option.elim_some, Option.elim_none] at hw
  unfold execControlIntervalEnd
  try dsimp only
  repeat' (first | exact Goes.next | with_reducible exact Goes.due | with_reducible exact Goes.hmpCmd | with_reducible exact Goes.admCtxCmd | with_reducible exact Goes.admCmd | with_reducible refine Goes.regCmd ?_ | with_reducible refine Goes.readCmd ?_ | with_reducible refine Goes.engineCmd ?_ | with_reducible refine Goes.unit ?_ ?_ | (simp_all; done) | (simp_all [queueCount, mailboxCount, inWindow]; done) | split)

theorem execActivityLevelChange_goes {s : State} {array : _} (hw : Instr.wf (.activityLevelChange array) = true) : Goes (execActivityLevelChange array s) := by
  simp only [Instr.wf, Instr.source, Instr.unitOk, Option.elim_some, Option.elim_none] at hw
  unfold execActivityLevelChange
  try dsimp only
  repeat' (first | exact Goes.next | with_reducible exact Goes.due | with_reducible exact Goes.hmpCmd | with_reducible exact Goes.admCtxCmd | with_reducible exact Goes.admCmd | with_reducible refine Goes.regCmd ?_ | with_reducible refine Goes.readCmd ?_ | with_reducible refine Goes.engineCmd ?_ | with_reducible refine Goes.unit ?_ ?_ | (simp_all; done) | (simp_all [queueCount, mailboxCount, inWindow]; done) | split)

theorem execThermalSample_goes {s : State} {readings : _} (hw : Instr.wf (.thermalSample readings) = true) : Goes (execThermalSample readings s) := by
  simp only [Instr.wf, Instr.source, Instr.unitOk, Option.elim_some, Option.elim_none] at hw
  unfold execThermalSample
  try dsimp only
  repeat' (first | exact Goes.next | with_reducible exact Goes.due | with_reducible exact Goes.hmpCmd | with_reducible exact Goes.admCtxCmd | with_reducible exact Goes.admCmd | with_reducible refine Goes.regCmd ?_ | with_reducible refine Goes.readCmd ?_ | with_reducible refine Goes.engineCmd ?_ | with_reducible refine Goes.unit ?_ ?_ | (simp_all; done) | (simp_all [queueCount, mailboxCount, inWindow]; done) | split)

theorem execPowerModeWrite_goes {s : State} {src : _} {value : _} (hw : Instr.wf (.powerModeWrite src value) = true) : Goes (execPowerModeWrite src value s) := by
  simp only [Instr.wf, Instr.source, Instr.unitOk, Option.elim_some, Option.elim_none] at hw
  unfold execPowerModeWrite
  try dsimp only
  repeat' (first | exact Goes.next | with_reducible exact Goes.due | with_reducible exact Goes.hmpCmd | with_reducible exact Goes.admCtxCmd | with_reducible exact Goes.admCmd | with_reducible refine Goes.regCmd ?_ | with_reducible refine Goes.readCmd ?_ | with_reducible refine Goes.engineCmd ?_ | with_reducible refine Goes.unit ?_ ?_ | (simp_all; done) | (simp_all [queueCount, mailboxCount, inWindow]; done) | split)

theorem execPowerCapWrite_goes {s : State} {src : _} {value : _} (hw : Instr.wf (.powerCapWrite src value) = true) : Goes (execPowerCapWrite src value s) := by
  simp only [Instr.wf, Instr.source, Instr.unitOk, Option.elim_some, Option.elim_none] at hw
  unfold execPowerCapWrite
  try dsimp only
  repeat' (first | exact Goes.next | with_reducible exact Goes.due | with_reducible exact Goes.hmpCmd | with_reducible exact Goes.admCtxCmd | with_reducible exact Goes.admCmd | with_reducible refine Goes.regCmd ?_ | with_reducible refine Goes.readCmd ?_ | with_reducible refine Goes.engineCmd ?_ | with_reducible refine Goes.unit ?_ ?_ | (simp_all; done) | (simp_all [queueCount, mailboxCount, inWindow]; done) | split)

theorem execPhaseWrite_goes {s : State} {src : _} {phase : _} {value : _} (hw : Instr.wf (.phaseWrite src phase value) = true) : Goes (execPhaseWrite src phase value s) := by
  simp only [Instr.wf, Instr.source, Instr.unitOk, Option.elim_some, Option.elim_none] at hw
  unfold execPhaseWrite
  try dsimp only
  repeat' (first | exact Goes.next | with_reducible exact Goes.due | with_reducible exact Goes.hmpCmd | with_reducible exact Goes.admCtxCmd | with_reducible exact Goes.admCmd | with_reducible refine Goes.regCmd ?_ | with_reducible refine Goes.readCmd ?_ | with_reducible refine Goes.engineCmd ?_ | with_reducible refine Goes.unit ?_ ?_ | (simp_all; done) | (simp_all [queueCount, mailboxCount, inWindow]; done) | split)

theorem execFaultReport_goes {s : State} {source : _} {cls : _} (hw : Instr.wf (.faultReport source cls) = true) : Goes (execFaultReport source cls s) := by
  simp only [Instr.wf, Instr.source, Instr.unitOk, Option.elim_some, Option.elim_none] at hw
  unfold execFaultReport
  try dsimp only
  repeat' (first | exact Goes.next | with_reducible exact Goes.due | with_reducible exact Goes.hmpCmd | with_reducible exact Goes.admCtxCmd | with_reducible exact Goes.admCmd | with_reducible refine Goes.regCmd ?_ | with_reducible refine Goes.readCmd ?_ | with_reducible refine Goes.engineCmd ?_ | with_reducible refine Goes.unit ?_ ?_ | (simp_all; done) | (simp_all [queueCount, mailboxCount, inWindow]; done) | split)

theorem execWireFault_goes {s : State} {source : _} {pair : _} {level : _} (hw : Instr.wf (.wireFault source pair level) = true) : Goes (execWireFault source pair level s) := by
  simp only [Instr.wf, Instr.source, Instr.unitOk, Option.elim_some, Option.elim_none] at hw
  unfold execWireFault
  try dsimp only
  repeat' (first | exact Goes.next | with_reducible exact Goes.due | with_reducible exact Goes.hmpCmd | with_reducible exact Goes.admCtxCmd | with_reducible exact Goes.admCmd | with_reducible refine Goes.regCmd ?_ | with_reducible refine Goes.readCmd ?_ | with_reducible refine Goes.engineCmd ?_ | with_reducible refine Goes.unit ?_ ?_ | (simp_all; done) | (simp_all [queueCount, mailboxCount, inWindow]; done) | split)

theorem execLevelFaultRereport_goes {s : State} {source : _} {cls : _} (hw : Instr.wf (.levelFaultRereport source cls) = true) : Goes (execLevelFaultRereport source cls s) := by
  simp only [Instr.wf, Instr.source, Instr.unitOk, Option.elim_some, Option.elim_none] at hw
  unfold execLevelFaultRereport
  try dsimp only
  repeat' (first | exact Goes.next | with_reducible exact Goes.due | with_reducible exact Goes.hmpCmd | with_reducible exact Goes.admCtxCmd | with_reducible exact Goes.admCmd | with_reducible refine Goes.regCmd ?_ | with_reducible refine Goes.readCmd ?_ | with_reducible refine Goes.engineCmd ?_ | with_reducible refine Goes.unit ?_ ?_ | (simp_all; done) | (simp_all [queueCount, mailboxCount, inWindow]; done) | split)

theorem execQuietPeriodExpiry_goes {s : State} {core : _} (hw : Instr.wf (.quietPeriodExpiry core) = true) : Goes (execQuietPeriodExpiry core s) := by
  simp only [Instr.wf, Instr.source, Instr.unitOk, Option.elim_some, Option.elim_none] at hw
  unfold execQuietPeriodExpiry
  try dsimp only
  repeat' (first | exact Goes.next | with_reducible exact Goes.due | with_reducible exact Goes.hmpCmd | with_reducible exact Goes.admCtxCmd | with_reducible exact Goes.admCmd | with_reducible refine Goes.regCmd ?_ | with_reducible refine Goes.readCmd ?_ | with_reducible refine Goes.engineCmd ?_ | with_reducible refine Goes.unit ?_ ?_ | (simp_all; done) | (simp_all [queueCount, mailboxCount, inWindow]; done) | split)

theorem execRecoveryPhaseComplete_goes {s : State} {core : _} {failed : _} (hw : Instr.wf (.recoveryPhaseComplete core failed) = true) : Goes (execRecoveryPhaseComplete core failed s) := by
  simp only [Instr.wf, Instr.source, Instr.unitOk, Option.elim_some, Option.elim_none] at hw
  unfold execRecoveryPhaseComplete
  try dsimp only
  repeat' (first | exact Goes.next | with_reducible exact Goes.due | with_reducible exact Goes.hmpCmd | with_reducible exact Goes.admCtxCmd | with_reducible exact Goes.admCmd | with_reducible refine Goes.regCmd ?_ | with_reducible refine Goes.readCmd ?_ | with_reducible refine Goes.engineCmd ?_ | with_reducible refine Goes.unit ?_ ?_ | (simp_all; done) | (simp_all [queueCount, mailboxCount, inWindow]; done) | split)

theorem execFcuClearLatch_goes {s : State} {src : _} {value : _} (hw : Instr.wf (.fcuClearLatch src value) = true) : Goes (execFcuClearLatch src value s) := by
  simp only [Instr.wf, Instr.source, Instr.unitOk, Option.elim_some, Option.elim_none] at hw
  unfold execFcuClearLatch
  try dsimp only
  repeat' (first | exact Goes.next | with_reducible exact Goes.due | with_reducible exact Goes.hmpCmd | with_reducible exact Goes.admCtxCmd | with_reducible exact Goes.admCmd | with_reducible refine Goes.regCmd ?_ | with_reducible refine Goes.readCmd ?_ | with_reducible refine Goes.engineCmd ?_ | with_reducible refine Goes.unit ?_ ?_ | (simp_all; done) | (simp_all [queueCount, mailboxCount, inWindow]; done) | split)

theorem execFcuCoreClear_goes {s : State} {src : _} {cores : _} (hw : Instr.wf (.fcuCoreClear src cores) = true) : Goes (execFcuCoreClear src cores s) := by
  simp only [Instr.wf, Instr.source, Instr.unitOk, Option.elim_some, Option.elim_none] at hw
  unfold execFcuCoreClear
  try dsimp only
  repeat' (first | exact Goes.next | with_reducible exact Goes.due | with_reducible exact Goes.hmpCmd | with_reducible exact Goes.admCtxCmd | with_reducible exact Goes.admCmd | with_reducible refine Goes.regCmd ?_ | with_reducible refine Goes.readCmd ?_ | with_reducible refine Goes.engineCmd ?_ | with_reducible refine Goes.unit ?_ ?_ | (simp_all; done) | (simp_all [queueCount, mailboxCount, inWindow]; done) | split)

theorem execFaultForce_goes {s : State} {src : _} {source : _} {cls : _} (hw : Instr.wf (.faultForce src source cls) = true) : Goes (execFaultForce src source cls s) := by
  simp only [Instr.wf, Instr.source, Instr.unitOk, Option.elim_some, Option.elim_none] at hw
  unfold execFaultForce
  try dsimp only
  repeat' (first | exact Goes.next | with_reducible exact Goes.due | with_reducible exact Goes.hmpCmd | with_reducible exact Goes.admCtxCmd | with_reducible exact Goes.admCmd | with_reducible refine Goes.regCmd ?_ | with_reducible refine Goes.readCmd ?_ | with_reducible refine Goes.engineCmd ?_ | with_reducible refine Goes.unit ?_ ?_ | (simp_all; done) | (simp_all [queueCount, mailboxCount, inWindow]; done) | split)

theorem execFaultInjectArm_goes {s : State} {src : _} {value : _} (hw : Instr.wf (.faultInjectArm src value) = true) : Goes (execFaultInjectArm src value s) := by
  simp only [Instr.wf, Instr.source, Instr.unitOk, Option.elim_some, Option.elim_none] at hw
  unfold execFaultInjectArm
  try dsimp only
  repeat' (first | exact Goes.next | with_reducible exact Goes.due | with_reducible exact Goes.hmpCmd | with_reducible exact Goes.admCtxCmd | with_reducible exact Goes.admCmd | with_reducible refine Goes.regCmd ?_ | with_reducible refine Goes.readCmd ?_ | with_reducible refine Goes.engineCmd ?_ | with_reducible refine Goes.unit ?_ ?_ | (simp_all; done) | (simp_all [queueCount, mailboxCount, inWindow]; done) | split)

theorem execWireTest_goes {s : State} {src : _} {value : _} (hw : Instr.wf (.wireTest src value) = true) : Goes (execWireTest src value s) := by
  simp only [Instr.wf, Instr.source, Instr.unitOk, Option.elim_some, Option.elim_none] at hw
  unfold execWireTest
  try dsimp only
  repeat' (first | exact Goes.next | with_reducible exact Goes.due | with_reducible exact Goes.hmpCmd | with_reducible exact Goes.admCtxCmd | with_reducible exact Goes.admCmd | with_reducible refine Goes.regCmd ?_ | with_reducible refine Goes.readCmd ?_ | with_reducible refine Goes.engineCmd ?_ | with_reducible refine Goes.unit ?_ ?_ | (simp_all; done) | (simp_all [queueCount, mailboxCount, inWindow]; done) | split)

theorem execBootAttempt_goes {s : State} (hw : Instr.wf (.bootAttempt) = true) : Goes (execBootAttempt s) := by
  simp only [Instr.wf, Instr.source, Instr.unitOk, Option.elim_some, Option.elim_none] at hw
  unfold execBootAttempt
  try dsimp only
  repeat' (first | exact Goes.next | with_reducible exact Goes.due | with_reducible exact Goes.hmpCmd | with_reducible exact Goes.admCtxCmd | with_reducible exact Goes.admCmd | with_reducible refine Goes.regCmd ?_ | with_reducible refine Goes.readCmd ?_ | with_reducible refine Goes.engineCmd ?_ | with_reducible refine Goes.unit ?_ ?_ | (simp_all; done) | (simp_all [queueCount, mailboxCount, inWindow]; done) | split)

theorem execBootBlockLoad_goes {s : State} (hw : Instr.wf (.bootBlockLoad) = true) : Goes (execBootBlockLoad s) := by
  simp only [Instr.wf, Instr.source, Instr.unitOk, Option.elim_some, Option.elim_none] at hw
  unfold execBootBlockLoad
  try dsimp only
  repeat' (first | exact Goes.next | with_reducible exact Goes.due | with_reducible exact Goes.hmpCmd | with_reducible exact Goes.admCtxCmd | with_reducible exact Goes.admCmd | with_reducible refine Goes.regCmd ?_ | with_reducible refine Goes.readCmd ?_ | with_reducible refine Goes.engineCmd ?_ | with_reducible refine Goes.unit ?_ ?_ | (simp_all; done) | (simp_all [queueCount, mailboxCount, inWindow]; done) | split)

theorem execBootComplete_goes {s : State} (hw : Instr.wf (.bootComplete) = true) : Goes (execBootComplete s) := by
  simp only [Instr.wf, Instr.source, Instr.unitOk, Option.elim_some, Option.elim_none] at hw
  unfold execBootComplete
  try dsimp only
  repeat' (first | exact Goes.next | with_reducible exact Goes.due | with_reducible exact Goes.hmpCmd | with_reducible exact Goes.admCtxCmd | with_reducible exact Goes.admCmd | with_reducible refine Goes.regCmd ?_ | with_reducible refine Goes.readCmd ?_ | with_reducible refine Goes.engineCmd ?_ | with_reducible refine Goes.unit ?_ ?_ | (simp_all; done) | (simp_all [queueCount, mailboxCount, inWindow]; done) | split)

theorem execBootRetry_goes {s : State} (hw : Instr.wf (.bootRetry) = true) : Goes (execBootRetry s) := by
  simp only [Instr.wf, Instr.source, Instr.unitOk, Option.elim_some, Option.elim_none] at hw
  unfold execBootRetry
  try dsimp only
  repeat' (first | exact Goes.next | with_reducible exact Goes.due | with_reducible exact Goes.hmpCmd | with_reducible exact Goes.admCtxCmd | with_reducible exact Goes.admCmd | with_reducible refine Goes.regCmd ?_ | with_reducible refine Goes.readCmd ?_ | with_reducible refine Goes.engineCmd ?_ | with_reducible refine Goes.unit ?_ ?_ | (simp_all; done) | (simp_all [queueCount, mailboxCount, inWindow]; done) | split)

theorem execBootRestart_goes {s : State} {src : _} (hw : Instr.wf (.bootRestart src) = true) : Goes (execBootRestart src s) := by
  simp only [Instr.wf, Instr.source, Instr.unitOk, Option.elim_some, Option.elim_none] at hw
  unfold execBootRestart
  try dsimp only
  repeat' (first | exact Goes.next | with_reducible exact Goes.due | with_reducible exact Goes.hmpCmd | with_reducible exact Goes.admCtxCmd | with_reducible exact Goes.admCmd | with_reducible refine Goes.regCmd ?_ | with_reducible refine Goes.readCmd ?_ | with_reducible refine Goes.engineCmd ?_ | with_reducible refine Goes.unit ?_ ?_ | (simp_all; done) | (simp_all [queueCount, mailboxCount, inWindow]; done) | split)

theorem execControlCoreRelease_goes {s : State} {src : _} {cores : _} (hw : Instr.wf (.controlCoreRelease src cores) = true) : Goes (execControlCoreRelease src cores s) := by
  simp only [Instr.wf, Instr.source, Instr.unitOk, Option.elim_some, Option.elim_none] at hw
  unfold execControlCoreRelease
  try dsimp only
  repeat' (first | exact Goes.next | with_reducible exact Goes.due | with_reducible exact Goes.hmpCmd | with_reducible exact Goes.admCtxCmd | with_reducible exact Goes.admCmd | with_reducible refine Goes.regCmd ?_ | with_reducible refine Goes.readCmd ?_ | with_reducible refine Goes.engineCmd ?_ | with_reducible refine Goes.unit ?_ ?_ | (simp_all; done) | (simp_all [queueCount, mailboxCount, inWindow]; done) | split)

theorem execRollbackAdvance_goes {s : State} {src : _} {value : _} (hw : Instr.wf (.rollbackAdvance src value) = true) : Goes (execRollbackAdvance src value s) := by
  simp only [Instr.wf, Instr.source, Instr.unitOk, Option.elim_some, Option.elim_none] at hw
  unfold execRollbackAdvance
  try dsimp only
  repeat' (first | exact Goes.next | with_reducible exact Goes.due | with_reducible exact Goes.hmpCmd | with_reducible exact Goes.admCtxCmd | with_reducible exact Goes.admCmd | with_reducible refine Goes.regCmd ?_ | with_reducible refine Goes.readCmd ?_ | with_reducible refine Goes.engineCmd ?_ | with_reducible refine Goes.unit ?_ ?_ | (simp_all; done) | (simp_all [queueCount, mailboxCount, inWindow]; done) | split)

theorem execKeyProgram_goes {s : State} {src : _} {slot : _} (hw : Instr.wf (.keyProgram src slot) = true) : Goes (execKeyProgram src slot s) := by
  simp only [Instr.wf, Instr.source, Instr.unitOk, Option.elim_some, Option.elim_none] at hw
  unfold execKeyProgram
  try dsimp only
  repeat' (first | exact Goes.next | with_reducible exact Goes.due | with_reducible exact Goes.hmpCmd | with_reducible exact Goes.admCtxCmd | with_reducible exact Goes.admCmd | with_reducible refine Goes.regCmd ?_ | with_reducible refine Goes.readCmd ?_ | with_reducible refine Goes.engineCmd ?_ | with_reducible refine Goes.unit ?_ ?_ | (simp_all; done) | (simp_all [queueCount, mailboxCount, inWindow]; done) | split)

theorem execRevoke_goes {s : State} {src : _} {slots : _} (hw : Instr.wf (.revoke src slots) = true) : Goes (execRevoke src slots s) := by
  simp only [Instr.wf, Instr.source, Instr.unitOk, Option.elim_some, Option.elim_none] at hw
  unfold execRevoke
  try dsimp only
  repeat' (first | exact Goes.next | with_reducible exact Goes.due | with_reducible exact Goes.hmpCmd | with_reducible exact Goes.admCtxCmd | with_reducible exact Goes.admCmd | with_reducible refine Goes.regCmd ?_ | with_reducible refine Goes.readCmd ?_ | with_reducible refine Goes.engineCmd ?_ | with_reducible refine Goes.unit ?_ ?_ | (simp_all; done) | (simp_all [queueCount, mailboxCount, inWindow]; done) | split)

theorem execNvmLock_goes {s : State} {src : _} (hw : Instr.wf (.nvmLock src) = true) : Goes (execNvmLock src s) := by
  simp only [Instr.wf, Instr.source, Instr.unitOk, Option.elim_some, Option.elim_none] at hw
  unfold execNvmLock
  try dsimp only
  repeat' (first | exact Goes.next | with_reducible exact Goes.due | with_reducible exact Goes.hmpCmd | with_reducible exact Goes.admCtxCmd | with_reducible exact Goes.admCmd | with_reducible refine Goes.regCmd ?_ | with_reducible refine Goes.readCmd ?_ | with_reducible refine Goes.engineCmd ?_ | with_reducible refine Goes.unit ?_ ?_ | (simp_all; done) | (simp_all [queueCount, mailboxCount, inWindow]; done) | split)

theorem execNvmProgramDone_goes {s : State} {ok : _} (hw : Instr.wf (.nvmProgramDone ok) = true) : Goes (execNvmProgramDone ok s) := by
  simp only [Instr.wf, Instr.source, Instr.unitOk, Option.elim_some, Option.elim_none] at hw
  unfold execNvmProgramDone
  try dsimp only
  repeat' (first | exact Goes.next | with_reducible exact Goes.due | with_reducible exact Goes.hmpCmd | with_reducible exact Goes.admCtxCmd | with_reducible exact Goes.admCmd | with_reducible refine Goes.regCmd ?_ | with_reducible refine Goes.readCmd ?_ | with_reducible refine Goes.engineCmd ?_ | with_reducible refine Goes.unit ?_ ?_ | (simp_all; done) | (simp_all [queueCount, mailboxCount, inWindow]; done) | split)

theorem execBegin_goes {s : State} (hw : Instr.wf (.begin_) = true) : Goes (execBegin s) := by
  simp only [Instr.wf, Instr.source, Instr.unitOk, Option.elim_some, Option.elim_none] at hw
  unfold execBegin
  try dsimp only
  repeat' (first | exact Goes.next | with_reducible exact Goes.due | with_reducible exact Goes.hmpCmd | with_reducible exact Goes.admCtxCmd | with_reducible exact Goes.admCmd | with_reducible refine Goes.regCmd ?_ | with_reducible refine Goes.readCmd ?_ | with_reducible refine Goes.engineCmd ?_ | with_reducible refine Goes.unit ?_ ?_ | (simp_all; done) | (simp_all [queueCount, mailboxCount, inWindow]; done) | split)

theorem execManifest_goes {s : State} (hw : Instr.wf (.manifest) = true) : Goes (execManifest s) := by
  simp only [Instr.wf, Instr.source, Instr.unitOk, Option.elim_some, Option.elim_none] at hw
  unfold execManifest
  try dsimp only
  repeat' (first | exact Goes.next | with_reducible exact Goes.due | with_reducible exact Goes.hmpCmd | with_reducible exact Goes.admCtxCmd | with_reducible exact Goes.admCmd | with_reducible refine Goes.regCmd ?_ | with_reducible refine Goes.readCmd ?_ | with_reducible refine Goes.engineCmd ?_ | with_reducible refine Goes.unit ?_ ?_ | (simp_all; done) | (simp_all [queueCount, mailboxCount, inWindow]; done) | split)

theorem execData_goes {s : State} (hw : Instr.wf (.data) = true) : Goes (execData s) := by
  simp only [Instr.wf, Instr.source, Instr.unitOk, Option.elim_some, Option.elim_none] at hw
  unfold execData
  try dsimp only
  repeat' (first | exact Goes.next | with_reducible exact Goes.due | with_reducible exact Goes.hmpCmd | with_reducible exact Goes.admCtxCmd | with_reducible exact Goes.admCmd | with_reducible refine Goes.regCmd ?_ | with_reducible refine Goes.readCmd ?_ | with_reducible refine Goes.engineCmd ?_ | with_reducible refine Goes.unit ?_ ?_ | (simp_all; done) | (simp_all [queueCount, mailboxCount, inWindow]; done) | split)

theorem execFinish_goes {s : State} (hw : Instr.wf (.finish) = true) : Goes (execFinish s) := by
  simp only [Instr.wf, Instr.source, Instr.unitOk, Option.elim_some, Option.elim_none] at hw
  unfold execFinish
  try dsimp only
  repeat' (first | exact Goes.next | with_reducible exact Goes.due | with_reducible exact Goes.hmpCmd | with_reducible exact Goes.admCtxCmd | with_reducible exact Goes.admCmd | with_reducible refine Goes.regCmd ?_ | with_reducible refine Goes.readCmd ?_ | with_reducible refine Goes.engineCmd ?_ | with_reducible refine Goes.unit ?_ ?_ | (simp_all; done) | (simp_all [queueCount, mailboxCount, inWindow]; done) | split)

theorem execAbort_goes {s : State} (hw : Instr.wf (.abort) = true) : Goes (execAbort s) := by
  simp only [Instr.wf, Instr.source, Instr.unitOk, Option.elim_some, Option.elim_none] at hw
  unfold execAbort
  try dsimp only
  repeat' (first | exact Goes.next | with_reducible exact Goes.due | with_reducible exact Goes.hmpCmd | with_reducible exact Goes.admCtxCmd | with_reducible exact Goes.admCmd | with_reducible refine Goes.regCmd ?_ | with_reducible refine Goes.readCmd ?_ | with_reducible refine Goes.engineCmd ?_ | with_reducible refine Goes.unit ?_ ?_ | (simp_all; done) | (simp_all [queueCount, mailboxCount, inWindow]; done) | split)

theorem execRemove_goes {s : State} (hw : Instr.wf (.remove) = true) : Goes (execRemove s) := by
  simp only [Instr.wf, Instr.source, Instr.unitOk, Option.elim_some, Option.elim_none] at hw
  unfold execRemove
  try dsimp only
  repeat' (first | exact Goes.next | with_reducible exact Goes.due | with_reducible exact Goes.hmpCmd | with_reducible exact Goes.admCtxCmd | with_reducible exact Goes.admCmd | with_reducible refine Goes.regCmd ?_ | with_reducible refine Goes.readCmd ?_ | with_reducible refine Goes.engineCmd ?_ | with_reducible refine Goes.unit ?_ ?_ | (simp_all; done) | (simp_all [queueCount, mailboxCount, inWindow]; done) | split)

theorem execAdmitTimeout_goes {s : State} {context : _} (hw : Instr.wf (.admitTimeout context) = true) : Goes (execAdmitTimeout context s) := by
  simp only [Instr.wf, Instr.source, Instr.unitOk, Option.elim_some, Option.elim_none] at hw
  unfold execAdmitTimeout
  try dsimp only
  repeat' (first | exact Goes.next | with_reducible exact Goes.due | with_reducible exact Goes.hmpCmd | with_reducible exact Goes.admCtxCmd | with_reducible exact Goes.admCmd | with_reducible refine Goes.regCmd ?_ | with_reducible refine Goes.readCmd ?_ | with_reducible refine Goes.engineCmd ?_ | with_reducible refine Goes.unit ?_ ?_ | (simp_all; done) | (simp_all [queueCount, mailboxCount, inWindow]; done) | split)

theorem execAttestGo_goes {s : State} {src : _} {value : _} (hw : Instr.wf (.attestGo src value) = true) : Goes (execAttestGo src value s) := by
  simp only [Instr.wf, Instr.source, Instr.unitOk, Option.elim_some, Option.elim_none] at hw
  unfold execAttestGo
  try dsimp only
  repeat' (first | exact Goes.next | with_reducible exact Goes.due | with_reducible exact Goes.hmpCmd | with_reducible exact Goes.admCtxCmd | with_reducible exact Goes.admCmd | with_reducible refine Goes.regCmd ?_ | with_reducible refine Goes.readCmd ?_ | with_reducible refine Goes.engineCmd ?_ | with_reducible refine Goes.unit ?_ ?_ | (simp_all; done) | (simp_all [queueCount, mailboxCount, inWindow]; done) | split)

theorem execAttestDone_goes {s : State} (hw : Instr.wf (.attestDone) = true) : Goes (execAttestDone s) := by
  simp only [Instr.wf, Instr.source, Instr.unitOk, Option.elim_some, Option.elim_none] at hw
  unfold execAttestDone
  try dsimp only
  repeat' (first | exact Goes.next | with_reducible exact Goes.due | with_reducible exact Goes.hmpCmd | with_reducible exact Goes.admCtxCmd | with_reducible exact Goes.admCmd | with_reducible refine Goes.regCmd ?_ | with_reducible refine Goes.readCmd ?_ | with_reducible refine Goes.engineCmd ?_ | with_reducible refine Goes.unit ?_ ?_ | (simp_all; done) | (simp_all [queueCount, mailboxCount, inWindow]; done) | split)

theorem execRegisterWrite_goes {s : State} {src : _} {addr : _} {width : _} {value : _} (hw : Instr.wf (.registerWrite src addr width value) = true) : Goes (execRegisterWrite src addr width value s) := by
  simp only [Instr.wf, Instr.source, Instr.unitOk, Option.elim_some, Option.elim_none] at hw
  unfold execRegisterWrite
  try dsimp only
  repeat' (first | exact Goes.next | with_reducible exact Goes.due | with_reducible exact Goes.hmpCmd | with_reducible exact Goes.admCtxCmd | with_reducible exact Goes.admCmd | with_reducible refine Goes.regCmd ?_ | with_reducible refine Goes.readCmd ?_ | with_reducible refine Goes.engineCmd ?_ | with_reducible refine Goes.unit ?_ ?_ | (simp_all; done) | (simp_all [queueCount, mailboxCount, inWindow]; done) | split)

theorem execCrcCommit_goes {s : State} {src : _} (hw : Instr.wf (.crcCommit src) = true) : Goes (execCrcCommit src s) := by
  simp only [Instr.wf, Instr.source, Instr.unitOk, Option.elim_some, Option.elim_none] at hw
  unfold execCrcCommit
  try dsimp only
  repeat' (first | exact Goes.next | with_reducible exact Goes.due | with_reducible exact Goes.hmpCmd | with_reducible exact Goes.admCtxCmd | with_reducible exact Goes.admCmd | with_reducible refine Goes.regCmd ?_ | with_reducible refine Goes.readCmd ?_ | with_reducible refine Goes.engineCmd ?_ | with_reducible refine Goes.unit ?_ ?_ | (simp_all; done) | (simp_all [queueCount, mailboxCount, inWindow]; done) | split)

theorem execCrcPassEnd_goes {s : State} (hw : Instr.wf (.crcPassEnd) = true) : Goes (execCrcPassEnd s) := by
  simp only [Instr.wf, Instr.source, Instr.unitOk, Option.elim_some, Option.elim_none] at hw
  unfold execCrcPassEnd
  try dsimp only
  repeat' (first | exact Goes.next | with_reducible exact Goes.due | with_reducible exact Goes.hmpCmd | with_reducible exact Goes.admCtxCmd | with_reducible exact Goes.admCmd | with_reducible refine Goes.regCmd ?_ | with_reducible refine Goes.readCmd ?_ | with_reducible refine Goes.engineCmd ?_ | with_reducible refine Goes.unit ?_ ?_ | (simp_all; done) | (simp_all [queueCount, mailboxCount, inWindow]; done) | split)

theorem execIrqSet_goes {s : State} {src : _} (hw : Instr.wf (.irqSet src) = true) : Goes (execIrqSet src s) := by
  simp only [Instr.wf, Instr.source, Instr.unitOk, Option.elim_some, Option.elim_none] at hw
  unfold execIrqSet
  try dsimp only
  repeat' (first | exact Goes.next | with_reducible exact Goes.due | with_reducible exact Goes.hmpCmd | with_reducible exact Goes.admCtxCmd | with_reducible exact Goes.admCmd | with_reducible refine Goes.regCmd ?_ | with_reducible refine Goes.readCmd ?_ | with_reducible refine Goes.engineCmd ?_ | with_reducible refine Goes.unit ?_ ?_ | (simp_all; done) | (simp_all [queueCount, mailboxCount, inWindow]; done) | split)

theorem execMvpSatRowsRead_goes {s : State} {src : _} {core : _} (hw : Instr.wf (.mvpSatRowsRead src core) = true) : Goes (execMvpSatRowsRead src core s) := by
  simp only [Instr.wf, Instr.source, Instr.unitOk, Option.elim_some, Option.elim_none] at hw
  unfold execMvpSatRowsRead
  try dsimp only
  repeat' (first | exact Goes.next | with_reducible exact Goes.due | with_reducible exact Goes.hmpCmd | with_reducible exact Goes.admCtxCmd | with_reducible exact Goes.admCmd | with_reducible refine Goes.regCmd ?_ | with_reducible refine Goes.readCmd ?_ | with_reducible refine Goes.engineCmd ?_ | with_reducible refine Goes.unit ?_ ?_ | (simp_all; done) | (simp_all [queueCount, mailboxCount, inWindow]; done) | split)

theorem execMovOutstandingMaxRead_goes {s : State} {src : _} {core : _} (hw : Instr.wf (.movOutstandingMaxRead src core) = true) : Goes (execMovOutstandingMaxRead src core s) := by
  simp only [Instr.wf, Instr.source, Instr.unitOk, Option.elim_some, Option.elim_none] at hw
  unfold execMovOutstandingMaxRead
  try dsimp only
  repeat' (first | exact Goes.next | with_reducible exact Goes.due | with_reducible exact Goes.hmpCmd | with_reducible exact Goes.admCtxCmd | with_reducible exact Goes.admCmd | with_reducible refine Goes.regCmd ?_ | with_reducible refine Goes.readCmd ?_ | with_reducible refine Goes.engineCmd ?_ | with_reducible refine Goes.unit ?_ ?_ | (simp_all; done) | (simp_all [queueCount, mailboxCount, inWindow]; done) | split)

theorem execRationMaxHoldRead_goes {s : State} {src : _} {cls : _} (hw : Instr.wf (.rationMaxHoldRead src cls) = true) : Goes (execRationMaxHoldRead src cls s) := by
  simp only [Instr.wf, Instr.source, Instr.unitOk, Option.elim_some, Option.elim_none] at hw
  unfold execRationMaxHoldRead
  try dsimp only
  repeat' (first | exact Goes.next | with_reducible exact Goes.due | with_reducible exact Goes.hmpCmd | with_reducible exact Goes.admCtxCmd | with_reducible exact Goes.admCmd | with_reducible refine Goes.regCmd ?_ | with_reducible refine Goes.readCmd ?_ | with_reducible refine Goes.engineCmd ?_ | with_reducible refine Goes.unit ?_ ?_ | (simp_all; done) | (simp_all [queueCount, mailboxCount, inWindow]; done) | split)

theorem execWbFillMaxRead_goes {s : State} {src : _} {port : _} (hw : Instr.wf (.wbFillMaxRead src port) = true) : Goes (execWbFillMaxRead src port s) := by
  simp only [Instr.wf, Instr.source, Instr.unitOk, Option.elim_some, Option.elim_none] at hw
  unfold execWbFillMaxRead
  try dsimp only
  repeat' (first | exact Goes.next | with_reducible exact Goes.due | with_reducible exact Goes.hmpCmd | with_reducible exact Goes.admCtxCmd | with_reducible exact Goes.admCmd | with_reducible refine Goes.regCmd ?_ | with_reducible refine Goes.readCmd ?_ | with_reducible refine Goes.engineCmd ?_ | with_reducible refine Goes.unit ?_ ?_ | (simp_all; done) | (simp_all [queueCount, mailboxCount, inWindow]; done) | split)

theorem execTempPeakRead_goes {s : State} {src : _} (hw : Instr.wf (.tempPeakRead src) = true) : Goes (execTempPeakRead src s) := by
  simp only [Instr.wf, Instr.source, Instr.unitOk, Option.elim_some, Option.elim_none] at hw
  unfold execTempPeakRead
  try dsimp only
  repeat' (first | exact Goes.next | with_reducible exact Goes.due | with_reducible exact Goes.hmpCmd | with_reducible exact Goes.admCtxCmd | with_reducible exact Goes.admCmd | with_reducible refine Goes.regCmd ?_ | with_reducible refine Goes.readCmd ?_ | with_reducible refine Goes.engineCmd ?_ | with_reducible refine Goes.unit ?_ ?_ | (simp_all; done) | (simp_all [queueCount, mailboxCount, inWindow]; done) | split)

theorem execBusAccess_goes {s : State} {shift : _} (hw : Instr.wf (.busAccess shift) = true) : Goes (execBusAccess shift s) := by
  simp only [Instr.wf, Instr.source, Instr.unitOk, Option.elim_some, Option.elim_none] at hw
  unfold execBusAccess
  try dsimp only
  repeat' (first | exact Goes.next | with_reducible exact Goes.due | with_reducible exact Goes.hmpCmd | with_reducible exact Goes.admCtxCmd | with_reducible exact Goes.admCmd | with_reducible refine Goes.regCmd ?_ | with_reducible refine Goes.readCmd ?_ | with_reducible refine Goes.engineCmd ?_ | with_reducible refine Goes.unit ?_ ?_ | (simp_all; done) | (simp_all [queueCount, mailboxCount, inWindow]; done) | split)

theorem execIdcode_goes {s : State} (hw : Instr.wf (.idcode) = true) : Goes (execIdcode s) := by
  simp only [Instr.wf, Instr.source, Instr.unitOk, Option.elim_some, Option.elim_none] at hw
  unfold execIdcode
  try dsimp only
  repeat' (first | exact Goes.next | with_reducible exact Goes.due | with_reducible exact Goes.hmpCmd | with_reducible exact Goes.admCtxCmd | with_reducible exact Goes.admCmd | with_reducible refine Goes.regCmd ?_ | with_reducible refine Goes.readCmd ?_ | with_reducible refine Goes.engineCmd ?_ | with_reducible refine Goes.unit ?_ ?_ | (simp_all; done) | (simp_all [queueCount, mailboxCount, inWindow]; done) | split)

theorem execExtest_goes {s : State} (hw : Instr.wf (.extest) = true) : Goes (execExtest s) := by
  simp only [Instr.wf, Instr.source, Instr.unitOk, Option.elim_some, Option.elim_none] at hw
  unfold execExtest
  try dsimp only
  repeat' (first | exact Goes.next | with_reducible exact Goes.due | with_reducible exact Goes.hmpCmd | with_reducible exact Goes.admCtxCmd | with_reducible exact Goes.admCmd | with_reducible refine Goes.regCmd ?_ | with_reducible refine Goes.readCmd ?_ | with_reducible refine Goes.engineCmd ?_ | with_reducible refine Goes.unit ?_ ?_ | (simp_all; done) | (simp_all [queueCount, mailboxCount, inWindow]; done) | split)

theorem execSamplePreload_goes {s : State} (hw : Instr.wf (.samplePreload) = true) : Goes (execSamplePreload s) := by
  simp only [Instr.wf, Instr.source, Instr.unitOk, Option.elim_some, Option.elim_none] at hw
  unfold execSamplePreload
  try dsimp only
  repeat' (first | exact Goes.next | with_reducible exact Goes.due | with_reducible exact Goes.hmpCmd | with_reducible exact Goes.admCtxCmd | with_reducible exact Goes.admCmd | with_reducible refine Goes.regCmd ?_ | with_reducible refine Goes.readCmd ?_ | with_reducible refine Goes.engineCmd ?_ | with_reducible refine Goes.unit ?_ ?_ | (simp_all; done) | (simp_all [queueCount, mailboxCount, inWindow]; done) | split)

theorem execBypass_goes {s : State} (hw : Instr.wf (.bypass) = true) : Goes (execBypass s) := by
  simp only [Instr.wf, Instr.source, Instr.unitOk, Option.elim_some, Option.elim_none] at hw
  unfold execBypass
  try dsimp only
  repeat' (first | exact Goes.next | with_reducible exact Goes.due | with_reducible exact Goes.hmpCmd | with_reducible exact Goes.admCtxCmd | with_reducible exact Goes.admCmd | with_reducible refine Goes.regCmd ?_ | with_reducible refine Goes.readCmd ?_ | with_reducible refine Goes.engineCmd ?_ | with_reducible refine Goes.unit ?_ ?_ | (simp_all; done) | (simp_all [queueCount, mailboxCount, inWindow]; done) | split)

theorem execDebugPortReset_goes {s : State} (hw : Instr.wf (.debugPortReset) = true) : Goes (execDebugPortReset s) := by
  simp only [Instr.wf, Instr.source, Instr.unitOk, Option.elim_some, Option.elim_none] at hw
  unfold execDebugPortReset
  try dsimp only
  repeat' (first | exact Goes.next | with_reducible exact Goes.due | with_reducible exact Goes.hmpCmd | with_reducible exact Goes.admCtxCmd | with_reducible exact Goes.admCmd | with_reducible refine Goes.regCmd ?_ | with_reducible refine Goes.readCmd ?_ | with_reducible refine Goes.engineCmd ?_ | with_reducible refine Goes.unit ?_ ?_ | (simp_all; done) | (simp_all [queueCount, mailboxCount, inWindow]; done) | split)

theorem execCmbWrite_goes {s : State} {addr : _} {reg : _} {data : _} (hw : Instr.wf (.cmbWrite addr reg data) = true) : Goes (execCmbWrite addr reg data s) := by
  simp only [Instr.wf, Instr.source, Instr.unitOk, Option.elim_some, Option.elim_none] at hw
  unfold execCmbWrite
  try dsimp only
  repeat' (first | exact Goes.next | with_reducible exact Goes.due | with_reducible exact Goes.hmpCmd | with_reducible exact Goes.admCtxCmd | with_reducible exact Goes.admCmd | with_reducible refine Goes.regCmd ?_ | with_reducible refine Goes.readCmd ?_ | with_reducible refine Goes.engineCmd ?_ | with_reducible refine Goes.unit ?_ ?_ | (simp_all; done) | (simp_all [queueCount, mailboxCount, inWindow]; done) | split)

theorem execCmbRead_goes {s : State} {addr : _} {reg : _} (hw : Instr.wf (.cmbRead addr reg) = true) : Goes (execCmbRead addr reg s) := by
  simp only [Instr.wf, Instr.source, Instr.unitOk, Option.elim_some, Option.elim_none] at hw
  unfold execCmbRead
  try dsimp only
  repeat' (first | exact Goes.next | with_reducible exact Goes.due | with_reducible exact Goes.hmpCmd | with_reducible exact Goes.admCtxCmd | with_reducible exact Goes.admCmd | with_reducible refine Goes.regCmd ?_ | with_reducible refine Goes.readCmd ?_ | with_reducible refine Goes.engineCmd ?_ | with_reducible refine Goes.unit ?_ ?_ | (simp_all; done) | (simp_all [queueCount, mailboxCount, inWindow]; done) | split)

theorem execRailCheck_goes {s : State} {millivolts : _} (hw : Instr.wf (.railCheck millivolts) = true) : Goes (execRailCheck millivolts s) := by
  simp only [Instr.wf, Instr.source, Instr.unitOk, Option.elim_some, Option.elim_none] at hw
  unfold execRailCheck
  try dsimp only
  repeat' (first | exact Goes.next | with_reducible exact Goes.due | with_reducible exact Goes.hmpCmd | with_reducible exact Goes.admCtxCmd | with_reducible exact Goes.admCmd | with_reducible refine Goes.regCmd ?_ | with_reducible refine Goes.readCmd ?_ | with_reducible refine Goes.engineCmd ?_ | with_reducible refine Goes.unit ?_ ?_ | (simp_all; done) | (simp_all [queueCount, mailboxCount, inWindow]; done) | split)

theorem execEthLinkUp_goes {s : State} {port : _} (hw : Instr.wf (.ethLinkUp port) = true) : Goes (execEthLinkUp port s) := by
  simp only [Instr.wf, Instr.source, Instr.unitOk, Option.elim_some, Option.elim_none] at hw
  unfold execEthLinkUp
  try dsimp only
  repeat' (first | exact Goes.next | with_reducible exact Goes.due | with_reducible exact Goes.hmpCmd | with_reducible exact Goes.admCtxCmd | with_reducible exact Goes.admCmd | with_reducible refine Goes.regCmd ?_ | with_reducible refine Goes.readCmd ?_ | with_reducible refine Goes.engineCmd ?_ | with_reducible refine Goes.unit ?_ ?_ | (simp_all; done) | (simp_all [queueCount, mailboxCount, inWindow]; done) | split)

theorem execCsiSkewCalibration_goes {s : State} {port : _} {initial : _} (hw : Instr.wf (.csiSkewCalibration port initial) = true) : Goes (execCsiSkewCalibration port initial s) := by
  simp only [Instr.wf, Instr.source, Instr.unitOk, Option.elim_some, Option.elim_none] at hw
  unfold execCsiSkewCalibration
  try dsimp only
  repeat' (first | exact Goes.next | with_reducible exact Goes.due | with_reducible exact Goes.hmpCmd | with_reducible exact Goes.admCtxCmd | with_reducible exact Goes.admCmd | with_reducible refine Goes.regCmd ?_ | with_reducible refine Goes.readCmd ?_ | with_reducible refine Goes.engineCmd ?_ | with_reducible refine Goes.unit ?_ ?_ | (simp_all; done) | (simp_all [queueCount, mailboxCount, inWindow]; done) | split)

theorem execCsiClockLaneModeChange_goes {s : State} {port : _} {highSpeed : _} (hw : Instr.wf (.csiClockLaneModeChange port highSpeed) = true) : Goes (execCsiClockLaneModeChange port highSpeed s) := by
  simp only [Instr.wf, Instr.source, Instr.unitOk, Option.elim_some, Option.elim_none] at hw
  unfold execCsiClockLaneModeChange
  try dsimp only
  repeat' (first | exact Goes.next | with_reducible exact Goes.due | with_reducible exact Goes.hmpCmd | with_reducible exact Goes.admCtxCmd | with_reducible exact Goes.admCmd | with_reducible refine Goes.regCmd ?_ | with_reducible refine Goes.readCmd ?_ | with_reducible refine Goes.engineCmd ?_ | with_reducible refine Goes.unit ?_ ?_ | (simp_all; done) | (simp_all [queueCount, mailboxCount, inWindow]; done) | split)

theorem execBootHardwareInitComplete_goes {s : State} {failedCores : _} {hubFailed : _} (hw : Instr.wf (.bootHardwareInitComplete failedCores hubFailed) = true) : Goes (execBootHardwareInitComplete failedCores hubFailed s) := by
  simp only [Instr.wf, Instr.source, Instr.unitOk, Option.elim_some, Option.elim_none] at hw
  unfold execBootHardwareInitComplete
  try dsimp only
  repeat' (first | exact Goes.next | with_reducible exact Goes.due | with_reducible exact Goes.hmpCmd | with_reducible exact Goes.admCtxCmd | with_reducible exact Goes.admCmd | with_reducible refine Goes.regCmd ?_ | with_reducible refine Goes.readCmd ?_ | with_reducible refine Goes.engineCmd ?_ | with_reducible refine Goes.unit ?_ ?_ | (simp_all; done) | (simp_all [queueCount, mailboxCount, inWindow]; done) | split)

/-- A well-formed command answers a next state. -/
theorem exec_goes {s : State} (i : Instr) (hw : i.wf = true) : Goes (exec i s) := by
  cases i with
  | resetAssert => exact execResetAssert_goes hw
  | resetRelease _ => exact execResetRelease_goes hw
  | clocksStart => exact execClocksStart_goes hw
  | pllLockLoss => exact execPllLockLoss_goes hw
  | referenceLoss => exact execReferenceLoss_goes hw
  | clocksRestart => exact execClocksRestart_goes hw
  | rationPeriodBoundary => exact execRationPeriodBoundary_goes hw
  | linkReplay _ _ _ => exact execLinkReplay_goes hw
  | descriptorFetch _ => exact execDescriptorFetch_goes hw
  | descriptorForward _ => exact execDescriptorForward_goes hw
  | nop _ => exact execNop_goes hw
  | caravanBegin _ => exact execCaravanBegin_goes hw
  | caravanPlace => exact execCaravanPlace_goes hw
  | caravanEnd _ => exact execCaravanEnd_goes hw
  | fence _ => exact execFence_goes hw
  | groupOpen _ => exact execGroupOpen_goes hw
  | groupStart _ => exact execGroupStart_goes hw
  | memberStart _ => exact execMemberStart_goes hw
  | groupEnd _ => exact execGroupEnd_goes hw
  | mxaStream _ _ => exact execMxaStream_goes hw
  | mxaPacked _ _ => exact execMxaPacked_goes hw
  | mxaThrough _ _ => exact execMxaThrough_goes hw
  | mvpMatvec _ => exact execMvpMatvec_goes hw
  | winFeed _ => exact execWinFeed_goes hw
  | winRegroup _ => exact execWinRegroup_goes hw
  | add _ => exact execAdd_goes hw
  | sub _ => exact execSub_goes hw
  | mul _ => exact execMul_goes hw
  | fma _ => exact execFma_goes hw
  | min _ => exact execMin_goes hw
  | max _ => exact execMax_goes hw
  | abs _ => exact execAbs_goes hw
  | neg _ => exact execNeg_goes hw
  | clamp _ => exact execClamp_goes hw
  | select _ => exact execSelect_goes hw
  | curve _ => exact execCurve_goes hw
  | convert _ => exact execConvert_goes hw
  | slotAdd _ => exact execSlotAdd_goes hw
  | slotToFp32 _ => exact execSlotToFp32_goes hw
  | reduceSum _ => exact execReduceSum_goes hw
  | reduceMax _ => exact execReduceMax_goes hw
  | curveLoad _ => exact execCurveLoad_goes hw
  | qntConvert _ => exact execQntConvert_goes hw
  | qntAdapt _ => exact execQntAdapt_goes hw
  | windowPooling _ => exact execWindowPooling_goes hw
  | boxPooling _ => exact execBoxPooling_goes hw
  | cropAndResize _ => exact execCropAndResize_goes hw
  | movStream _ => exact execMovStream_goes hw
  | movWayInTake _ => exact execMovWayInTake_goes hw
  | movWayOutPut _ => exact execMovWayOutPut_goes hw
  | descriptorComplete _ => exact execDescriptorComplete_goes hw
  | completionRecordPost _ => exact execCompletionRecordPost_goes hw
  | stagePush _ _ _ => exact execStagePush_goes hw
  | tailWrite _ _ _ => exact execTailWrite_goes hw
  | headWrite _ _ _ => exact execHeadWrite_goes hw
  | stop _ _ => exact execStop_goes hw
  | resume _ _ => exact execResume_goes hw
  | resetIndex _ _ => exact execResetIndex_goes hw
  | queueCfgWrite _ _ _ _ => exact execQueueCfgWrite_goes hw
  | tlyAdd _ _ _ => exact execTlyAdd_goes hw
  | tlySet _ _ _ => exact execTlySet_goes hw
  | wayPut _ _ _ _ => exact execWayPut_goes hw
  | wayTake _ _ => exact execWayTake_goes hw
  | kill _ _ => exact execKill_goes hw
  | runLimitExpiry _ => exact execRunLimitExpiry_goes hw
  | mailboxCancel _ _ => exact execMailboxCancel_goes hw
  | mailboxClaim _ _ _ _ => exact execMailboxClaim_goes hw
  | taskRelease _ _ _ => exact execTaskRelease_goes hw
  | zeroingBegin _ _ => exact execZeroingBegin_goes hw
  | zeroingComplete _ _ => exact execZeroingComplete_goes hw
  | packhorseDrain _ _ => exact execPackhorseDrain_goes hw
  | correctionWriteBack _ _ => exact execCorrectionWriteBack_goes hw
  | scrubRead _ _ _ => exact execScrubRead_goes hw
  | eccInjectArm _ _ _ => exact execEccInjectArm_goes hw
  | scratchpadWindowAccess _ _ => exact execScratchpadWindowAccess_goes hw
  | wcInvalidate _ _ _ => exact execWcInvalidate_goes hw
  | wcInvalidateDone _ => exact execWcInvalidateDone_goes hw
  | csiFrameStart _ _ _ => exact execCsiFrameStart_goes hw
  | csiLongPacket _ _ => exact execCsiLongPacket_goes hw
  | csiFrameEnd _ _ _ => exact execCsiFrameEnd_goes hw
  | frameTimeout _ _ => exact execFrameTimeout_goes hw
  | byteClkMeasure _ _ => exact execByteClkMeasure_goes hw
  | ispStreamEnable _ _ _ _ => exact execIspStreamEnable_goes hw
  | ispStreamDisable _ _ _ _ => exact execIspStreamDisable_goes hw
  | ispParamPush _ _ _ _ => exact execIspParamPush_goes hw
  | ispParamCheckDone _ => exact execIspParamCheckDone_goes hw
  | ispFrameDeliver _ _ => exact execIspFrameDeliver_goes hw
  | ispEntryPut _ _ => exact execIspEntryPut_goes hw
  | tdmFrameSync _ _ _ => exact execTdmFrameSync_goes hw
  | tdmRateMeasure _ _ => exact execTdmRateMeasure_goes hw
  | spxStreamEnable _ _ _ => exact execSpxStreamEnable_goes hw
  | spxStreamDisable _ _ _ => exact execSpxStreamDisable_goes hw
  | featureFrameCompute _ => exact execFeatureFrameCompute_goes hw
  | spxBufferPut _ => exact execSpxBufferPut_goes hw
  | spxBudgetExpiry _ => exact execSpxBudgetExpiry_goes hw
  | vcdSessionOpen _ _ _ => exact execVcdSessionOpen_goes hw
  | vcdSessionClose _ _ _ => exact execVcdSessionClose_goes hw
  | vcdPictureStart _ => exact execVcdPictureStart_goes hw
  | vcdPictureDone _ => exact execVcdPictureDone_goes hw
  | vcdPictureBudgetExpiry _ => exact execVcdPictureBudgetExpiry_goes hw
  | ethFrameReceive _ _ => exact execEthFrameReceive_goes hw
  | ethLinkLoss _ => exact execEthLinkLoss_goes hw
  | sessionOpen => exact execSessionOpen_goes hw
  | sessionClose => exact execSessionClose_goes hw
  | keepalive => exact execKeepalive_goes hw
  | regRead => exact execRegRead_goes hw
  | regWrite => exact execRegWrite_goes hw
  | queuePush => exact execQueuePush_goes hw
  | mailboxGet => exact execMailboxGet_goes hw
  | commitGet => exact execCommitGet_goes hw
  | journalGet => exact execJournalGet_goes hw
  | modelAdmit => exact execModelAdmit_goes hw
  | firmware => exact execFirmware_goes hw
  | sessionTimeout _ => exact execSessionTimeout_goes hw
  | hmpSessionCloseWrite _ _ => exact execHmpSessionCloseWrite_goes hw
  | fwDone _ _ => exact execFwDone_goes hw
  | fwResponseTimeout _ => exact execFwResponseTimeout_goes hw
  | lastWordCopy _ => exact execLastWordCopy_goes hw
  | macsecKeyWrite _ _ _ => exact execMacsecKeyWrite_goes hw
  | ethFrameTransmit _ => exact execEthFrameTransmit_goes hw
  | qbvCommit _ _ _ => exact execQbvCommit_goes hw
  | qbvCycleBoundary _ => exact execQbvCycleBoundary_goes hw
  | cbRecoveryReset _ _ => exact execCbRecoveryReset_goes hw
  | mdioAccess _ _ => exact execMdioAccess_goes hw
  | mdioDone _ => exact execMdioDone_goes hw
  | ptpTxGo _ _ => exact execPtpTxGo_goes hw
  | ptpTxDone _ => exact execPtpTxDone_goes hw
  | timeSet _ _ => exact execTimeSet_goes hw
  | timeStep _ _ => exact execTimeStep_goes hw
  | timeRateWrite _ _ => exact execTimeRateWrite_goes hw
  | timeKick _ => exact execTimeKick_goes hw
  | timLock _ => exact execTimLock_goes hw
  | timHold _ => exact execTimHold_goes hw
  | timRelease _ => exact execTimRelease_goes hw
  | syncTimeout => exact execSyncTimeout_goes hw
  | timeNowRead _ => exact execTimeNowRead_goes hw
  | triggerArm _ _ _ => exact execTriggerArm_goes hw
  | triggerDisarm _ _ _ => exact execTriggerDisarm_goes hw
  | triggerFire _ => exact execTriggerFire_goes hw
  | triggerPulseEnd _ => exact execTriggerPulseEnd_goes hw
  | controlTimerArm _ _ _ => exact execControlTimerArm_goes hw
  | controlTimerFire _ => exact execControlTimerFire_goes hw
  | captureEdge _ _ => exact execCaptureEdge_goes hw
  | capturePop _ _ => exact execCapturePop_goes hw
  | powerSample _ => exact execPowerSample_goes hw
  | controlIntervalEnd _ => exact execControlIntervalEnd_goes hw
  | activityLevelChange _ => exact execActivityLevelChange_goes hw
  | thermalSample _ => exact execThermalSample_goes hw
  | powerModeWrite _ _ => exact execPowerModeWrite_goes hw
  | powerCapWrite _ _ => exact execPowerCapWrite_goes hw
  | phaseWrite _ _ _ => exact execPhaseWrite_goes hw
  | faultReport _ _ => exact execFaultReport_goes hw
  | wireFault _ _ _ => exact execWireFault_goes hw
  | levelFaultRereport _ _ => exact execLevelFaultRereport_goes hw
  | quietPeriodExpiry _ => exact execQuietPeriodExpiry_goes hw
  | recoveryPhaseComplete _ _ => exact execRecoveryPhaseComplete_goes hw
  | fcuClearLatch _ _ => exact execFcuClearLatch_goes hw
  | fcuCoreClear _ _ => exact execFcuCoreClear_goes hw
  | faultForce _ _ _ => exact execFaultForce_goes hw
  | faultInjectArm _ _ => exact execFaultInjectArm_goes hw
  | wireTest _ _ => exact execWireTest_goes hw
  | bootAttempt => exact execBootAttempt_goes hw
  | bootBlockLoad => exact execBootBlockLoad_goes hw
  | bootComplete => exact execBootComplete_goes hw
  | bootRetry => exact execBootRetry_goes hw
  | bootRestart _ => exact execBootRestart_goes hw
  | controlCoreRelease _ _ => exact execControlCoreRelease_goes hw
  | rollbackAdvance _ _ => exact execRollbackAdvance_goes hw
  | keyProgram _ _ => exact execKeyProgram_goes hw
  | revoke _ _ => exact execRevoke_goes hw
  | nvmLock _ => exact execNvmLock_goes hw
  | nvmProgramDone _ => exact execNvmProgramDone_goes hw
  | begin_ => exact execBegin_goes hw
  | manifest => exact execManifest_goes hw
  | data => exact execData_goes hw
  | finish => exact execFinish_goes hw
  | abort => exact execAbort_goes hw
  | remove => exact execRemove_goes hw
  | admitTimeout _ => exact execAdmitTimeout_goes hw
  | attestGo _ _ => exact execAttestGo_goes hw
  | attestDone => exact execAttestDone_goes hw
  | registerWrite _ _ _ _ => exact execRegisterWrite_goes hw
  | crcCommit _ => exact execCrcCommit_goes hw
  | crcPassEnd => exact execCrcPassEnd_goes hw
  | irqSet _ => exact execIrqSet_goes hw
  | mvpSatRowsRead _ _ => exact execMvpSatRowsRead_goes hw
  | movOutstandingMaxRead _ _ => exact execMovOutstandingMaxRead_goes hw
  | rationMaxHoldRead _ _ => exact execRationMaxHoldRead_goes hw
  | wbFillMaxRead _ _ => exact execWbFillMaxRead_goes hw
  | tempPeakRead _ => exact execTempPeakRead_goes hw
  | busAccess _ => exact execBusAccess_goes hw
  | idcode => exact execIdcode_goes hw
  | extest => exact execExtest_goes hw
  | samplePreload => exact execSamplePreload_goes hw
  | bypass => exact execBypass_goes hw
  | debugPortReset => exact execDebugPortReset_goes hw
  | cmbWrite _ _ _ => exact execCmbWrite_goes hw
  | cmbRead _ _ => exact execCmbRead_goes hw
  | railCheck _ => exact execRailCheck_goes hw
  | ethLinkUp _ => exact execEthLinkUp_goes hw
  | csiSkewCalibration _ _ => exact execCsiSkewCalibration_goes hw
  | csiClockLaneModeChange _ _ => exact execCsiClockLaneModeChange_goes hw
  | bootHardwareInitComplete _ _ => exact execBootHardwareInitComplete_goes hw

end Sys2Proof.Machine
end

