-- ==== Sys2Proof/Laws/Reg.lean ====
section
/-! SUPPORT. The common end of a register write and of a read with a side effect (R478, R480, R483): the registers it may write, and all that
it leaves. -/

set_option Elab.async false

namespace Sys2Proof.Machine

/-- Setting a field writes its register copy alone. -/
theorem State.get?_fset (s : State) (f : Field) (v i j k l : Nat) {a : Nat} (h : a ≠ f.reg.addr i j k l) :
    AMap.get? (s.fset f v i j k l).regs a = AMap.get? s.regs a := AMap.get?_set_ne _ _ h

theorem State.get?_rset (s : State) (r : Reg) (w : Word) (i j k l : Nat) {a : Nat} (h : a ≠ r.addr i j k l) :
    AMap.get? (s.rset r w i j k l).regs a = AMap.get? s.regs a := AMap.get?_set_ne _ _ h

/-- Two states with the same word at a copy's address read the same field. -/
theorem State.fget_congr {s t : State} {f : Field} {i j k l : Nat}
    (h : AMap.get? t.regs (f.reg.addr i j k l) = AMap.get? s.regs (f.reg.addr i j k l)) : t.fget f i j k l = s.fget f i j k l := by
  simp only [State.fget, State.rword, h]

theorem State.rword_congr {s t : State} {r : Reg} {i j k l : Nat}
    (h : AMap.get? t.regs (r.addr i j k l) = AMap.get? s.regs (r.addr i j k l)) : t.rword r i j k l = s.rword r i j k l := by
  simp only [State.rword, h]

theorem State.busError_get? (s : State) (src addr st : Nat) (w : Bool) {a : Nat} (h : ¬ busLogReg a) :
    AMap.get? (s.busError src addr st w).regs a = AMap.get? s.regs a := by
  have h1 : a ≠ SYS_BUS_ERRORS.addr 0 0 0 0 := fun e => h (.inl e)
  have h2 : a ≠ SYS_BUS_ERR_LAST.addr 0 0 0 0 := fun e => h (.inr (.inl e))
  unfold State.busError
  split
  · dsimp only
    split
    · exact State.get?_fset _ _ _ _ _ _ _ h1
    · rw [State.get?_rset _ _ _ _ _ _ _ h2]
      exact State.get?_fset _ _ _ _ _ _ _ h1
  · rfl

theorem State.journal_get? (s : State) (src n addr w v st : Nat) {a : Nat} (h : ¬ busLogReg a) :
    AMap.get? (s.journal src n addr w v st).regs a = AMap.get? s.regs a := by
  have h1 : a ≠ CFG_JOURNAL_NEXT_INDEX.reg.addr 0 0 0 0 := fun e => h (.inr (.inr (.inl e)))
  have h2 : ∀ j, j < 4 → a ≠ CFG_JOURNAL_e_Ww.addr (s.fget CFG_JOURNAL_NEXT_INDEX % 4096) j 0 0 := fun j hj e =>
    h (.inr (.inr (.inr ⟨_, j, Nat.mod_lt _ (by decide), hj, e⟩)))
  unfold State.journal
  dsimp only
  rw [State.get?_fset _ _ _ _ _ _ _ h1, State.get?_rset _ _ _ _ _ _ _ (h2 3 (by decide)), State.get?_rset _ _ _ _ _ _ _ (h2 2 (by decide)),
    State.get?_rset _ _ _ _ _ _ _ (h2 1 (by decide)), State.get?_rset _ _ _ _ _ _ _ (h2 0 (by decide))]

/-- The common end of a register write leaves every register but the capture's and the journal's. -/
theorem State.writeEnd_get? (r : State × Nat) (src n addr w v : Nat) {a : Nat} (h : ¬ busLogReg a) :
    AMap.get? (State.writeEnd r src n addr w v).regs a = AMap.get? r.1.regs a := by
  unfold State.writeEnd
  dsimp only
  split
  · rw [State.journal_get? _ _ _ _ _ _ _ h, State.busError_get? _ _ _ _ _ h]
  · rw [State.journal_get? _ _ _ _ _ _ _ h, State.busError_get? _ _ _ _ _ h]

theorem State.writeEnd_fget (r : State × Nat) (src n addr w v : Nat) {f : Field} {i j k l : Nat} (h : ¬ busLogReg (f.reg.addr i j k l)) :
    (State.writeEnd r src n addr w v).fget f i j k l = r.1.fget f i j k l := State.fget_congr (State.writeEnd_get? r src n addr w v h)

@[simp] theorem State.writeEnd_lastAccess (r : State × Nat) (src n addr w v : Nat) :
    (State.writeEnd r src n addr w v).lastAccess = ⟨r.2, 0⟩ := rfl

@[simp] theorem State.busError_pending (s : State) (src addr st : Nat) (w : Bool) : (s.busError src addr st w).pending = s.pending := by
  unfold State.busError
  split
  · dsimp only
    split <;> rfl
  · rfl

@[simp] theorem State.busError_mem (s : State) (src addr st : Nat) (w : Bool) : (s.busError src addr st w).mem = s.mem := by
  unfold State.busError
  split
  · dsimp only
    split <;> rfl
  · rfl

@[simp] theorem State.busError_poison (s : State) (src addr st : Nat) (w : Bool) : (s.busError src addr st w).poison = s.poison := by
  unfold State.busError
  split
  · dsimp only
    split <;> rfl
  · rfl

@[simp] theorem State.busError_checkFlips (s : State) (src addr st : Nat) (w : Bool) : (s.busError src addr st w).checkFlips = s.checkFlips := by
  unfold State.busError
  split
  · dsimp only
    split <;> rfl
  · rfl

@[simp] theorem State.busError_stamps (s : State) (src addr st : Nat) (w : Bool) : (s.busError src addr st w).stamps = s.stamps := by
  unfold State.busError
  split
  · dsimp only
    split <;> rfl
  · rfl

@[simp] theorem State.busError_nor (s : State) (src addr st : Nat) (w : Bool) : (s.busError src addr st w).nor = s.nor := by
  unfold State.busError
  split
  · dsimp only
    split <;> rfl
  · rfl

@[simp] theorem State.busError_fuses (s : State) (src addr st : Nat) (w : Bool) : (s.busError src addr st w).fuses = s.fuses := by
  unfold State.busError
  split
  · dsimp only
    split <;> rfl
  · rfl

@[simp] theorem State.busError_nvm (s : State) (src addr st : Nat) (w : Bool) : (s.busError src addr st w).nvm = s.nvm := by
  unfold State.busError
  split
  · dsimp only
    split <;> rfl
  · rfl

@[simp] theorem State.busError_clk (s : State) (src addr st : Nat) (w : Bool) : (s.busError src addr st w).clk = s.clk := by
  unfold State.busError
  split
  · dsimp only
    split <;> rfl
  · rfl

@[simp] theorem State.busError_refTick (s : State) (src addr st : Nat) (w : Bool) : (s.busError src addr st w).refTick = s.refTick := by
  unfold State.busError
  split
  · dsimp only
    split <;> rfl
  · rfl

@[simp] theorem State.busError_ration (s : State) (src addr st : Nat) (w : Bool) : (s.busError src addr st w).ration = s.ration := by
  unfold State.busError
  split
  · dsimp only
    split <;> rfl
  · rfl

@[simp] theorem State.busError_wc (s : State) (src addr st : Nat) (w : Bool) : (s.busError src addr st w).wc = s.wc := by
  unfold State.busError
  split
  · dsimp only
    split <;> rfl
  · rfl

@[simp] theorem State.busError_drover (s : State) (src addr st : Nat) (w : Bool) : (s.busError src addr st w).drover = s.drover := by
  unfold State.busError
  split
  · dsimp only
    split <;> rfl
  · rfl

@[simp] theorem State.busError_cores (s : State) (src addr st : Nat) (w : Bool) : (s.busError src addr st w).cores = s.cores := by
  unfold State.busError
  split
  · dsimp only
    split <;> rfl
  · rfl

@[simp] theorem State.busError_fcu (s : State) (src addr st : Nat) (w : Bool) : (s.busError src addr st w).fcu = s.fcu := by
  unfold State.busError
  split
  · dsimp only
    split <;> rfl
  · rfl

@[simp] theorem State.busError_tim (s : State) (src addr st : Nat) (w : Bool) : (s.busError src addr st w).tim = s.tim := by
  unfold State.busError
  split
  · dsimp only
    split <;> rfl
  · rfl

@[simp] theorem State.busError_pins (s : State) (src addr st : Nat) (w : Bool) : (s.busError src addr st w).pins = s.pins := by
  unfold State.busError
  split
  · dsimp only
    split <;> rfl
  · rfl

@[simp] theorem State.busError_dbg (s : State) (src addr st : Nat) (w : Bool) : (s.busError src addr st w).dbg = s.dbg := by
  unfold State.busError
  split
  · dsimp only
    split <;> rfl
  · rfl

@[simp] theorem State.busError_cmb (s : State) (src addr st : Nat) (w : Bool) : (s.busError src addr st w).cmb = s.cmb := by
  unfold State.busError
  split
  · dsimp only
    split <;> rfl
  · rfl

@[simp] theorem State.busError_isp (s : State) (src addr st : Nat) (w : Bool) : (s.busError src addr st w).isp = s.isp := by
  unfold State.busError
  split
  · dsimp only
    split <;> rfl
  · rfl

@[simp] theorem State.busError_spx (s : State) (src addr st : Nat) (w : Bool) : (s.busError src addr st w).spx = s.spx := by
  unfold State.busError
  split
  · dsimp only
    split <;> rfl
  · rfl

@[simp] theorem State.busError_tdm (s : State) (src addr st : Nat) (w : Bool) : (s.busError src addr st w).tdm = s.tdm := by
  unfold State.busError
  split
  · dsimp only
    split <;> rfl
  · rfl

@[simp] theorem State.busError_vcd (s : State) (src addr st : Nat) (w : Bool) : (s.busError src addr st w).vcd = s.vcd := by
  unfold State.busError
  split
  · dsimp only
    split <;> rfl
  · rfl

@[simp] theorem State.busError_vcdLast (s : State) (src addr st : Nat) (w : Bool) : (s.busError src addr st w).vcdLast = s.vcdLast := by
  unfold State.busError
  split
  · dsimp only
    split <;> rfl
  · rfl

@[simp] theorem State.busError_eth (s : State) (src addr st : Nat) (w : Bool) : (s.busError src addr st w).eth = s.eth := by
  unfold State.busError
  split
  · dsimp only
    split <;> rfl
  · rfl

@[simp] theorem State.busError_hmp (s : State) (src addr st : Nat) (w : Bool) : (s.busError src addr st w).hmp = s.hmp := by
  unfold State.busError
  split
  · dsimp only
    split <;> rfl
  · rfl

@[simp] theorem State.busError_pwr (s : State) (src addr st : Nat) (w : Bool) : (s.busError src addr st w).pwr = s.pwr := by
  unfold State.busError
  split
  · dsimp only
    split <;> rfl
  · rfl

@[simp] theorem State.busError_boot (s : State) (src addr st : Nat) (w : Bool) : (s.busError src addr st w).boot = s.boot := by
  unfold State.busError
  split
  · dsimp only
    split <;> rfl
  · rfl

@[simp] theorem State.busError_adm (s : State) (src addr st : Nat) (w : Bool) : (s.busError src addr st w).adm = s.adm := by
  unfold State.busError
  split
  · dsimp only
    split <;> rfl
  · rfl

@[simp] theorem State.busError_freeIndex (s : State) (src addr st : Nat) (w : Bool) : (s.busError src addr st w).freeIndex = s.freeIndex := by
  unfold State.busError
  split
  · dsimp only
    split <;> rfl
  · rfl

@[simp] theorem State.busError_crc (s : State) (src addr st : Nat) (w : Bool) : (s.busError src addr st w).crc = s.crc := by
  unfold State.busError
  split
  · dsimp only
    split <;> rfl
  · rfl

@[simp] theorem State.busError_lastAccess (s : State) (src addr st : Nat) (w : Bool) : (s.busError src addr st w).lastAccess = s.lastAccess := by
  unfold State.busError
  split
  · dsimp only
    split <;> rfl
  · rfl

@[simp] theorem State.writeEnd_pending (r : State × Nat) (src n addr w v : Nat) : (State.writeEnd r src n addr w v).pending = r.1.pending := by
  unfold State.writeEnd
  dsimp only
  split <;> simp only [State.pending_journal, State.busError_pending]

@[simp] theorem State.writeEnd_mem (r : State × Nat) (src n addr w v : Nat) : (State.writeEnd r src n addr w v).mem = r.1.mem := by
  unfold State.writeEnd
  dsimp only
  split <;> simp only [State.mem_journal, State.busError_mem]

@[simp] theorem State.writeEnd_poison (r : State × Nat) (src n addr w v : Nat) : (State.writeEnd r src n addr w v).poison = r.1.poison := by
  unfold State.writeEnd
  dsimp only
  split <;> simp only [State.poison_journal, State.busError_poison]

@[simp] theorem State.writeEnd_checkFlips (r : State × Nat) (src n addr w v : Nat) : (State.writeEnd r src n addr w v).checkFlips = r.1.checkFlips := by
  unfold State.writeEnd
  dsimp only
  split <;> simp only [State.checkFlips_journal, State.busError_checkFlips]

@[simp] theorem State.writeEnd_stamps (r : State × Nat) (src n addr w v : Nat) : (State.writeEnd r src n addr w v).stamps = r.1.stamps := by
  unfold State.writeEnd
  dsimp only
  split <;> simp only [State.stamps_journal, State.busError_stamps]

@[simp] theorem State.writeEnd_nor (r : State × Nat) (src n addr w v : Nat) : (State.writeEnd r src n addr w v).nor = r.1.nor := by
  unfold State.writeEnd
  dsimp only
  split <;> simp only [State.nor_journal, State.busError_nor]

@[simp] theorem State.writeEnd_fuses (r : State × Nat) (src n addr w v : Nat) : (State.writeEnd r src n addr w v).fuses = r.1.fuses := by
  unfold State.writeEnd
  dsimp only
  split <;> simp only [State.fuses_journal, State.busError_fuses]

@[simp] theorem State.writeEnd_nvm (r : State × Nat) (src n addr w v : Nat) : (State.writeEnd r src n addr w v).nvm = r.1.nvm := by
  unfold State.writeEnd
  dsimp only
  split <;> simp only [State.nvm_journal, State.busError_nvm]

@[simp] theorem State.writeEnd_clk (r : State × Nat) (src n addr w v : Nat) : (State.writeEnd r src n addr w v).clk = r.1.clk := by
  unfold State.writeEnd
  dsimp only
  split <;> simp only [State.clk_journal, State.busError_clk]

@[simp] theorem State.writeEnd_refTick (r : State × Nat) (src n addr w v : Nat) : (State.writeEnd r src n addr w v).refTick = r.1.refTick := by
  unfold State.writeEnd
  dsimp only
  split <;> simp only [State.refTick_journal, State.busError_refTick]

@[simp] theorem State.writeEnd_ration (r : State × Nat) (src n addr w v : Nat) : (State.writeEnd r src n addr w v).ration = r.1.ration := by
  unfold State.writeEnd
  dsimp only
  split <;> simp only [State.ration_journal, State.busError_ration]

@[simp] theorem State.writeEnd_wc (r : State × Nat) (src n addr w v : Nat) : (State.writeEnd r src n addr w v).wc = r.1.wc := by
  unfold State.writeEnd
  dsimp only
  split <;> simp only [State.wc_journal, State.busError_wc]

@[simp] theorem State.writeEnd_drover (r : State × Nat) (src n addr w v : Nat) : (State.writeEnd r src n addr w v).drover = r.1.drover := by
  unfold State.writeEnd
  dsimp only
  split <;> simp only [State.drover_journal, State.busError_drover]

@[simp] theorem State.writeEnd_cores (r : State × Nat) (src n addr w v : Nat) : (State.writeEnd r src n addr w v).cores = r.1.cores := by
  unfold State.writeEnd
  dsimp only
  split <;> simp only [State.cores_journal, State.busError_cores]

@[simp] theorem State.writeEnd_fcu (r : State × Nat) (src n addr w v : Nat) : (State.writeEnd r src n addr w v).fcu = r.1.fcu := by
  unfold State.writeEnd
  dsimp only
  split <;> simp only [State.fcu_journal, State.busError_fcu]

@[simp] theorem State.writeEnd_tim (r : State × Nat) (src n addr w v : Nat) : (State.writeEnd r src n addr w v).tim = r.1.tim := by
  unfold State.writeEnd
  dsimp only
  split <;> simp only [State.tim_journal, State.busError_tim]

@[simp] theorem State.writeEnd_pins (r : State × Nat) (src n addr w v : Nat) : (State.writeEnd r src n addr w v).pins = r.1.pins := by
  unfold State.writeEnd
  dsimp only
  split <;> simp only [State.pins_journal, State.busError_pins]

@[simp] theorem State.writeEnd_dbg (r : State × Nat) (src n addr w v : Nat) : (State.writeEnd r src n addr w v).dbg = r.1.dbg := by
  unfold State.writeEnd
  dsimp only
  split <;> simp only [State.dbg_journal, State.busError_dbg]

@[simp] theorem State.writeEnd_cmb (r : State × Nat) (src n addr w v : Nat) : (State.writeEnd r src n addr w v).cmb = r.1.cmb := by
  unfold State.writeEnd
  dsimp only
  split <;> simp only [State.cmb_journal, State.busError_cmb]

@[simp] theorem State.writeEnd_isp (r : State × Nat) (src n addr w v : Nat) : (State.writeEnd r src n addr w v).isp = r.1.isp := by
  unfold State.writeEnd
  dsimp only
  split <;> simp only [State.isp_journal, State.busError_isp]

@[simp] theorem State.writeEnd_spx (r : State × Nat) (src n addr w v : Nat) : (State.writeEnd r src n addr w v).spx = r.1.spx := by
  unfold State.writeEnd
  dsimp only
  split <;> simp only [State.spx_journal, State.busError_spx]

@[simp] theorem State.writeEnd_tdm (r : State × Nat) (src n addr w v : Nat) : (State.writeEnd r src n addr w v).tdm = r.1.tdm := by
  unfold State.writeEnd
  dsimp only
  split <;> simp only [State.tdm_journal, State.busError_tdm]

@[simp] theorem State.writeEnd_vcd (r : State × Nat) (src n addr w v : Nat) : (State.writeEnd r src n addr w v).vcd = r.1.vcd := by
  unfold State.writeEnd
  dsimp only
  split <;> simp only [State.vcd_journal, State.busError_vcd]

@[simp] theorem State.writeEnd_vcdLast (r : State × Nat) (src n addr w v : Nat) : (State.writeEnd r src n addr w v).vcdLast = r.1.vcdLast := by
  unfold State.writeEnd
  dsimp only
  split <;> simp only [State.vcdLast_journal, State.busError_vcdLast]

@[simp] theorem State.writeEnd_eth (r : State × Nat) (src n addr w v : Nat) : (State.writeEnd r src n addr w v).eth = r.1.eth := by
  unfold State.writeEnd
  dsimp only
  split <;> simp only [State.eth_journal, State.busError_eth]

@[simp] theorem State.writeEnd_hmp (r : State × Nat) (src n addr w v : Nat) : (State.writeEnd r src n addr w v).hmp = r.1.hmp := by
  unfold State.writeEnd
  dsimp only
  split <;> simp only [State.hmp_journal, State.busError_hmp]

@[simp] theorem State.writeEnd_pwr (r : State × Nat) (src n addr w v : Nat) : (State.writeEnd r src n addr w v).pwr = r.1.pwr := by
  unfold State.writeEnd
  dsimp only
  split <;> simp only [State.pwr_journal, State.busError_pwr]

@[simp] theorem State.writeEnd_boot (r : State × Nat) (src n addr w v : Nat) : (State.writeEnd r src n addr w v).boot = r.1.boot := by
  unfold State.writeEnd
  dsimp only
  split <;> simp only [State.boot_journal, State.busError_boot]

@[simp] theorem State.writeEnd_adm (r : State × Nat) (src n addr w v : Nat) : (State.writeEnd r src n addr w v).adm = r.1.adm := by
  unfold State.writeEnd
  dsimp only
  split <;> simp only [State.adm_journal, State.busError_adm]

@[simp] theorem State.writeEnd_freeIndex (r : State × Nat) (src n addr w v : Nat) : (State.writeEnd r src n addr w v).freeIndex = r.1.freeIndex := by
  unfold State.writeEnd
  dsimp only
  split <;> simp only [State.freeIndex_journal, State.busError_freeIndex]

/-- A register write command on a unit that exists, in a block that answers, has its effect and the common end. -/
theorem regCmd_eq {ok : Bool} {s : State} {src a w v : Nat} {e : State → State × Nat} (hok : ok = true) (hs : isSource src = true)
    (hu : s.up = true) (hb : s.blocked a = false) : regCmd ok s src a w v e = .next (State.writeEnd (e s) src 0xFF a w v) := by
  simp only [regCmd, unit, due, State.regCommand, hok, hs, hu, hb, Bool.and_self, if_true, Bool.false_eq_true, if_false]

/-- The same for a read command. -/
theorem readCmd_eq {ok : Bool} {s : State} {src a : Nat} {e : State → State × Nat} (hok : ok = true) (hs : isSource src = true)
    (hu : s.up = true) (hb : s.blocked a = false) :
    readCmd ok s src a e = .next { (e s).1 with lastAccess := ⟨stOK, (e s).2⟩ } := by
  simp only [readCmd, unit, due, State.readCommand, hok, hs, hu, hb, Bool.and_self, if_true, Bool.false_eq_true, if_false]

end Sys2Proof.Machine
end

