-- ==== Sys2Proof/Tests/Slice0.lean ====
section
/-! SUPPORT. Tests: commands that are not well formed are refused; concrete states and operands that meet the hypotheses of each clause of the
statements, with the command that they say runs there; and values that the spec works out. -/

set_option maxRecDepth 100000
set_option exponentiation.threshold 5000
set_option maxHeartbeats 800000

namespace Sys2Proof.Tests

open Sys2Proof Sys2Proof.Machine

/-- A part whose clocks run, 8 us after release. -/
def live : State :=
  { State.reset with clk := { State.reset.clk with running := true, started := true }, refTick := 1000 }

/-- A test of the next state. -/
def nextIs (o : Host.Outcome State Fault Refusal) (f : State → Bool) : Bool := match o with | .next t => f t | _ => false

/-! ### Well-formed commands -/

def pkt : CsiPacket := ⟨0, 0, [], false, false, false⟩
def frm : EthFrame := ⟨0, 0, none, none, none, 0, [], true⟩

/-- Commands that name a unit or a writer that no part has, one or more for each check of unitOk and of source, part 1. -/
def ill0 : List Instr := [
  .linkReplay 3 0 true, .descriptorFetch 65536, .descriptorForward 8, .nop ⟨65536, 0, 0⟩, .caravanBegin 65536, .caravanEnd 8, .fence 65536,
  .groupOpen 8, .groupStart 8, .memberStart 8, .groupEnd 8, .mxaStream 8 0, .mxaStream 0 2, .mxaPacked 8 0, .mxaPacked 0 2, .mxaThrough 8 0,
  .mxaThrough 0 2, .mvpMatvec 8, .winFeed 8, .winRegroup 8, .add 8, .sub 8, .mul 8, .fma 8, .min 8, .max 8, .abs 8, .neg 8, .clamp 8,
  .select 8, .curve 8, .convert 8, .slotAdd 8, .slotToFp32 8, .reduceSum 8, .reduceMax 8, .curveLoad 8, .qntConvert 8, .qntAdapt 8,
  .windowPooling 8, .boxPooling 8, .cropAndResize 8, .movStream 8, .movWayInTake 8, .movWayOutPut 8, .descriptorComplete ⟨65536, 0, 0⟩,
  .completionRecordPost 65536, .stagePush 6 0 0, .stagePush 8 16 0, .stagePush 8 0 65536, .tailWrite 6 0 0, .tailWrite 8 65536 0,
  .headWrite 6 0 0, .headWrite 8 65536 0, .stop 6 0, .stop 8 65536, .resume 6 0, .resume 8 65536, .resetIndex 6 0, .resetIndex 8 65536]

/-- Commands that name a unit or a writer that no part has, one or more for each check of unitOk and of source, part 2. -/
def ill1 : List Instr := [
  .queueCfgWrite 6 0 true 0, .queueCfgWrite 8 65536 true 0, .tlyAdd 6 0 0, .tlyAdd 8 65536 0, .tlySet 6 0 0, .tlySet 8 65536 0,
  .wayPut 6 0 0 0, .wayPut 8 65536 0 0, .wayTake 6 0, .wayTake 8 65536, .kill 6 0, .runLimitExpiry 8, .mailboxCancel 6 0,
  .mailboxCancel 8 4096, .mailboxClaim 6 0 0 0, .mailboxClaim 8 8 0 0, .mailboxClaim 8 0 4096 0, .taskRelease 6 0 0, .taskRelease 8 8 0,
  .zeroingBegin 8 0, .zeroingBegin 0 16, .zeroingComplete 8 0, .zeroingComplete 0 16, .packhorseDrain 8 0, .correctionWriteBack 0 1,
  .correctionWriteBack 0 5, .correctionWriteBack 8 4, .scrubRead 0 1 0, .scrubRead 0 5 0, .scrubRead 0 4 (spBanks 4), .scrubRead 8 4 0,
  .eccInjectArm 6 0 0, .eccInjectArm 8 8 0, .scratchpadWindowAccess 8 ⟨false, windowBase - 1, 1, 0⟩,
  .scratchpadWindowAccess 8 ⟨false, windowBase + 0x2000_0000, 1, 0⟩, .scratchpadWindowAccess 6 ⟨false, windowBase, 1, 0⟩,
  .wcInvalidate 6 0 0, .wcInvalidate 8 2 0, .wcInvalidateDone 2, .csiFrameStart 4 0 ⟨0, false⟩, .csiLongPacket 4 pkt, .csiFrameEnd 4 0 ⟨0, false⟩,
  .frameTimeout 4 0, .frameTimeout 0 4, .byteClkMeasure 4 0, .ispStreamEnable 6 0 0 0, .ispStreamEnable 8 4 0 0, .ispStreamEnable 8 0 4 0,
  .ispStreamDisable 6 0 0 0, .ispStreamDisable 8 4 0 0, .ispStreamDisable 8 0 4 0, .ispParamPush 6 0 0 0, .ispParamPush 8 4 0 0,
  .ispParamCheckDone 4, .ispFrameDeliver 4 0, .ispFrameDeliver 0 4, .ispEntryPut 4 0, .ispEntryPut 0 4, .tdmFrameSync 2 0 ⟨true, 0, 0⟩,
  .tdmRateMeasure 2 0]

/-- Commands that name a unit or a writer that no part has, one or more for each check of unitOk and of source, part 3. -/
def ill2 : List Instr := [
  .spxStreamEnable 6 0 0, .spxStreamEnable 8 16 0, .spxStreamDisable 6 0 0, .spxStreamDisable 8 16 0, .featureFrameCompute 16,
  .spxBufferPut 16, .spxBudgetExpiry 16, .vcdSessionOpen 6 0 0, .vcdSessionOpen 8 16 0, .vcdSessionClose 6 0 0, .vcdSessionClose 8 16 0,
  .vcdPictureStart 16, .vcdPictureDone 16, .vcdPictureBudgetExpiry 16, .ethFrameReceive 3 frm, .ethLinkLoss 2, .sessionTimeout 64,
  .hmpSessionCloseWrite 6 0, .hmpSessionCloseWrite 8 64, .fwDone 6 0, .fwDone 8 64, .fwResponseTimeout 64, .macsecKeyWrite 8 0 0,
  .macsecKeyWrite 6 0 0, .ethFrameTransmit 3, .qbvCommit 6 0 0, .qbvCommit 8 2 0, .qbvCycleBoundary 2, .cbRecoveryReset 2 0,
  .cbRecoveryReset 0 64, .mdioAccess 6 0, .ptpTxGo 6 0, .ptpTxGo 8 16, .ptpTxDone 16, .timeSet 6 0, .timeStep 6 0, .timeRateWrite 6 0,
  .timeKick 6, .timLock 6, .timHold 6, .timRelease 6, .timeNowRead 6, .triggerArm 6 0 0, .triggerArm 8 8 0, .triggerDisarm 6 0 0,
  .triggerDisarm 8 8 0, .triggerFire 8, .triggerPulseEnd 8, .controlTimerArm 6 0 0, .controlTimerArm 8 16 0, .controlTimerFire 16,
  .captureEdge 4 true, .capturePop 6 0, .capturePop 8 4, .activityLevelChange 16, .powerModeWrite 6 0, .powerCapWrite 6 0, .phaseWrite 6 0 0,
  .phaseWrite 8 256 0, .faultReport 0x322 4]

/-- Commands that name a unit or a writer that no part has, one or more for each check of unitOk and of source, part 4. -/
def ill3 : List Instr := [
  .faultReport 4096 3, .wireFault 0x2D1 0 0, .wireFault 0x2D1 2 2, .levelFaultRereport 0x322 4, .levelFaultRereport 4096 1,
  .quietPeriodExpiry (some 8), .recoveryPhaseComplete (some 8) [], .fcuClearLatch 6 0, .fcuCoreClear 6 0, .faultForce 8 4096 0,
  .faultForce 6 0 0, .faultInjectArm 6 0, .wireTest 6 0, .bootRestart 6, .controlCoreRelease 6 0, .rollbackAdvance 6 0, .keyProgram 6 0,
  .keyProgram 8 8, .revoke 6 0, .nvmLock 6, .admitTimeout 4, .attestGo 6 0, .registerWrite 6 0 0 0, .crcCommit 6, .irqSet 6,
  .mvpSatRowsRead 6 0, .mvpSatRowsRead 8 8, .movOutstandingMaxRead 6 0, .movOutstandingMaxRead 8 8, .rationMaxHoldRead 6 0,
  .rationMaxHoldRead 8 16, .wbFillMaxRead 6 0, .wbFillMaxRead 8 4, .tempPeakRead 6, .ethLinkUp 2, .csiSkewCalibration 4 true,
  .csiClockLaneModeChange 4 true, .bootHardwareInitComplete [0, 8] true]

/-- Commands at the last unit of each kind, part 1. -/
def well0 : List Instr := [
  .linkReplay 2 0 true, .descriptorFetch 65535, .descriptorForward 7, .nop ⟨65535, 0, 0⟩, .caravanBegin 65535, .caravanEnd 7, .fence 65535,
  .groupOpen 7, .groupStart 7, .memberStart 7, .groupEnd 7, .mxaStream 7 0, .mxaStream 0 1, .mxaPacked 7 0, .mxaPacked 0 1, .mxaThrough 7 0,
  .mxaThrough 0 1, .mvpMatvec 7, .winFeed 7, .winRegroup 7, .add 7, .sub 7, .mul 7, .fma 7, .min 7, .max 7, .abs 7, .neg 7, .clamp 7,
  .select 7, .curve 7, .convert 7, .slotAdd 7, .slotToFp32 7, .reduceSum 7, .reduceMax 7, .curveLoad 7, .qntConvert 7, .qntAdapt 7,
  .windowPooling 7, .boxPooling 7, .cropAndResize 7, .movStream 7, .movWayInTake 7, .movWayOutPut 7, .descriptorComplete ⟨65535, 0, 0⟩,
  .completionRecordPost 65535, .stagePush 8 15 0, .stagePush 8 0 65535, .tailWrite 8 65535 0, .headWrite 8 65535 0, .stop 8 65535,
  .resume 8 65535, .resetIndex 8 65535, .queueCfgWrite 8 65535 true 0, .tlyAdd 8 65535 0, .tlySet 8 65535 0, .wayPut 8 65535 0 0,
  .wayTake 8 65535, .runLimitExpiry 7]

/-- Commands at the last unit of each kind, part 2. -/
def well1 : List Instr := [
  .mailboxCancel 8 4095, .mailboxClaim 8 7 0 0, .mailboxClaim 8 0 4095 0, .taskRelease 8 7 0, .zeroingBegin 7 0, .zeroingBegin 0 15,
  .zeroingComplete 7 0, .zeroingComplete 0 15, .packhorseDrain 7 0, .correctionWriteBack 0 2, .correctionWriteBack 0 4,
  .correctionWriteBack 7 4, .scrubRead 0 2 0, .scrubRead 0 4 0, .scrubRead 0 4 (spBanks 4 - 1), .scrubRead 7 4 0, .eccInjectArm 8 7 0,
  .scratchpadWindowAccess 8 ⟨false, windowBase, 1, 0⟩, .scratchpadWindowAccess 8 ⟨false, windowBase + 0x1FFF_FFFF, 1, 0⟩,
  .wcInvalidate 8 1 0, .wcInvalidateDone 1, .csiFrameStart 3 0 ⟨0, false⟩, .csiLongPacket 3 pkt, .csiFrameEnd 3 0 ⟨0, false⟩, .frameTimeout 3 0,
  .frameTimeout 0 3, .byteClkMeasure 3 0, .ispStreamEnable 8 3 0 0, .ispStreamEnable 8 0 3 0, .ispStreamDisable 8 3 0 0,
  .ispStreamDisable 8 0 3 0, .ispParamPush 8 3 0 0, .ispParamCheckDone 3, .ispFrameDeliver 3 0, .ispFrameDeliver 0 3, .ispEntryPut 3 0,
  .ispEntryPut 0 3, .tdmFrameSync 1 0 ⟨true, 0, 0⟩, .tdmRateMeasure 1 0, .spxStreamEnable 8 15 0, .spxStreamDisable 8 15 0, .featureFrameCompute 15,
  .spxBufferPut 15, .spxBudgetExpiry 15, .vcdSessionOpen 8 15 0, .vcdSessionClose 8 15 0, .vcdPictureStart 15, .vcdPictureDone 15,
  .vcdPictureBudgetExpiry 15, .ethFrameReceive 2 frm, .ethLinkLoss 1, .sessionTimeout 63, .hmpSessionCloseWrite 8 63, .fwDone 8 63,
  .fwResponseTimeout 63, .ethFrameTransmit 2, .qbvCommit 8 1 0, .qbvCycleBoundary 1, .cbRecoveryReset 1 0, .cbRecoveryReset 0 63]

/-- Commands at the last unit of each kind, part 3. -/
def well2 : List Instr := [
  .ptpTxGo 8 15, .ptpTxDone 15, .triggerArm 8 7 0, .triggerDisarm 8 7 0, .triggerFire 7, .triggerPulseEnd 7, .controlTimerArm 8 15 0,
  .controlTimerFire 15, .captureEdge 3 true, .capturePop 8 3, .activityLevelChange 15, .phaseWrite 8 255 0, .faultReport 0x322 3,
  .wireFault 0x2D1 2 0, .wireFault 0x2D1 2 1, .quietPeriodExpiry (some 7), .recoveryPhaseComplete none [], .faultForce 8 4095 0,
  .keyProgram 8 7, .admitTimeout 3, .mvpSatRowsRead 8 7, .movOutstandingMaxRead 8 7, .rationMaxHoldRead 8 15, .wbFillMaxRead 8 3,
  .ethLinkUp 1, .csiSkewCalibration 3 true, .csiClockLaneModeChange 3 true, .bootHardwareInitComplete [0, 7] true, .resetAssert,
  .sessionOpen, .busAccess 0, .railCheck [], .timLock 15, .irqSet 15]

theorem test_ill0_refused : ill0.all (fun i => !i.wf) = true := by decide
theorem test_ill1_refused : ill1.all (fun i => !i.wf) = true := by decide
theorem test_ill2_refused : ill2.all (fun i => !i.wf) = true := by decide
theorem test_ill3_refused : ill3.all (fun i => !i.wf) = true := by decide
theorem test_well0_accepted : well0.all Instr.wf = true := by decide
theorem test_well1_accepted : well1.all Instr.wf = true := by decide
theorem test_well2_accepted : well2.all Instr.wf = true := by decide

/-- What is refused stops by name. -/
theorem test_ill_formed_stops : exec (.winFeed 8) live = .fault .noSuchUnit ∧ exec (.timHold 6) live = .fault .noSuchUnit :=
  ⟨rfl, rfl⟩

/-! ### Values that the spec works out -/

/-- A column's slot: the terms of the given operands, and `zeros` zero terms. -/
def column (l : List (Opnd × Opnd)) (zeros : Nat) : Slot :=
  ((l.map (fun x => termSlot x.1 x.2 0 0)) ++ List.replicate zeros (termSlot (expandCode fmtQ8 0 (-3) 0) (expandCode fmtQ8 250 (-2) (-6)) 0 0)).foldl
    Slot.add Slot.empty

/-- Worked example of 02_arithmetic.md: column j. -/
theorem test_bale_column_j : column [(expandCode fmtQ8 25 (-3) 0, expandCode fmtQ8 40 (-2) (-6)),
    (expandCode fmtQ8 0xB3 (-3) 0, expandCode fmtQ8 250 (-2) (-6)), (expandCode fmtQ8 100 (-3) 0, expandCode fmtQ8 127 (-2) (-6)),
    (expandCode fmtQ8 0xFD (-1) 0, expandCode fmtQ8 0x80 (-2) (-6))] 28 = ⟨0x7_C540_0000_0000, 32, false, false, false, false⟩ := by decide

/-- Worked example of 02_arithmetic.md: column j+1. -/
theorem test_bale_column_j1 : column [(expandCode fmtQ8 236 (-3) 0, expandCode fmtQ8 40 (-2) (-6)),
    (expandCode fmtQ8 5 (-3) 0, expandCode fmtQ8 250 (-2) (-6)), (expandCode fmtQ8 184 (-3) 0, expandCode fmtQ8 127 (-2) (-6)),
    (expandCode fmtQ8 0 (-1) 0, expandCode fmtQ8 0x80 (-2) (-6))] 28 =
    ⟨0xFFFF_FFFF_FFFA_E000_0000_0000, 32, false, false, false, false⟩ := by decide

/-- The W12 patterns of that example's table. -/
theorem test_w12_patterns : [46, 0, 133, -122, 25, -77, 100, -3].map (fun (i : Int) => w12Encode (i * 8192)) =
    [0x638, 0x000, 0x705, 0xEF4, 0x5C8, 0xE9A, 0x6C8, 0xC40] := by decide

/-- Its conversion to codes: 31, a tie away from zero to -21, and 249 saturated to 127. -/
theorem test_codes : (toCode fmtQ8 ⟨3978, -7⟩ 0).1 = 31 ∧ (toCode fmtQ8 ⟨-41, -1⟩ 0).1 = -21 ∧ (toCode fmtQ8 ⟨7957, -5⟩ 0).1 = 127 := by decide

/-- Worked example of R54: 300.25 gives g = 1, H = 150 and L = 0.125. -/
theorem test_split_300_25 : groupExp [⟨1201, -2⟩] = 1 ∧ (split16 ⟨1201, -2⟩ false 1).parts = [150 * 8192, 1024] := by decide

/-- The guarantees of R413 for 16 arrays. -/
theorem test_guarantees : (List.range 4).map State.reset.guaranteeW = [177, 150, 133, 111] := by decide

/-- The worked example of R421: cores 6, 0, 1 and 4 step down for a budget of 86,000 mW. -/
theorem test_steps_of_r421 : chooseSteps [15800, 15800, 9200, 900, 15800, 13600, 16200, 9200] 86000 24 (List.replicate 8 0) =
    [1, 1, 0, 0, 1, 0, 1, 0] := by decide

/-- The check values of CRC-32C and of SHA-512 and SHA-256 that their standards publish. -/
theorem test_crc32c : crc32c ([49, 50, 51, 52, 53, 54, 55, 56, 57].map (BitVec.ofNat 8)) = 0xE306_9283 := by decide +kernel
theorem test_sha512_abc : (sha512 [0x61, 0x62, 0x63]).take 8 = [0xDD, 0xAF, 0x35, 0xA1, 0x93, 0x61, 0x7A, 0xBA] := by decide +kernel
theorem test_sha256_abc : (sha256 [0x61, 0x62, 0x63]).take 8 = [0xBA, 0x78, 0x16, 0xBF, 0x8F, 0x01, 0xCF, 0xEA] := by decide +kernel

/-- The products and the substitution that FIPS 197 works out, and the hash of test case 2 that the designers of GCM publish. -/
theorem test_gcm_parts : gfMul 0x57 0x83 = 0xC1 ∧ gfMul 0x57 0x13 = 0xFE ∧ subByte 0x53 = 0xED ∧
    ghash 0x66E94BD4EF8A2C3B884CFA59CA342B2E [] (beBytes 16 0x0388DACE60B6A392F328C2B971B2FE78) =
      0xF38CBB1AD69223DCC3457AE5B6B0F885 := by decide +kernel

/-- A tick of the idle block advances the clock by 8 ns (R390, R394). -/
theorem test_idle_tick : nextIs (step live) (fun t => t.tim.ns == 8 && t.tim.sec == 0 && t.refTick == 1001) = true := by decide +kernel

/-- The first entry of the journal of a write by control core 3 (R483). -/
theorem test_journal : nextIs (exec (.registerWrite 11 0x100_0000_4220 8 0x30) live) (fun t =>
    (t.rword CFG_JOURNAL_e_Ww 0 0).toNat == 0x100_0000_4220 + 8 * 2 ^ 48 + 11 * 2 ^ 56 && (t.rword CFG_JOURNAL_e_Ww 0 1).toNat == 0x30 &&
    t.fget CFG_JOURNAL_NEXT_INDEX == 1) = true := by decide +kernel

/-- No word of the table spells a command. -/
theorem test_table_words : decodeTableWord 0 0 = none ∧ decodeTableWord 32 0xFFFF_FFFF = none := by decide

/-- A boot manifest of one segment and one block, with keys and signatures of zeros. -/
def plainManifest : List Byte :=
  leBytes 4 0x3146_4D4B ++ [1, 1, 3, 0] ++ leBytes 4 7 ++ leBytes 4 4 ++ leBytes 4 1 ++ leBytes 2 1 ++ List.replicate 234 0 ++
  [3, 0, 0, 0] ++ leBytes 4 4 ++ List.replicate 24 0 ++ List.replicate 5389 0

/-- A part whose slot 3 holds the hash of that manifest's keys. -/
def trusting : State :=
  { live with nvm := { live.nvm with slots :=
      [⟨none, false⟩, ⟨none, false⟩, ⟨none, false⟩, ⟨some (leVal (sha512 (mfEdPk plainManifest ++ mfMlPk plainManifest))), false⟩] } }

/-- A manifest is accepted where both signatures verify: the verifiers are the opaque functions of Config. -/
theorem test_manifest_accepted (ed : Config.edVerify (mfEdPk plainManifest) (mfEdSig plainManifest) (mfBody plainManifest) = true)
    (ml : Config.mlVerify (mfMlPk plainManifest) (mfMlSig plainManifest) (mfBody plainManifest) = true) :
    trusting.manifestFails plainManifest 1 5677 = none := by
  have h1 : headerOk plainManifest 1 5677 = true := by decide +kernel
  have h2 : badSegment 1 (mfPayloadB plainManifest) (mfTable plainManifest) = none := by decide +kernel
  have h3 : mfSlot plainManifest = 3 := by decide +kernel
  have h4 : trusting.nvm.slots.getD 3 ⟨none, true⟩ =
      ⟨some (leVal (sha512 (mfEdPk plainManifest ++ mfMlPk plainManifest))), false⟩ := rfl
  simp only [State.manifestFails, h1, h2, h3, h4, ed, ml]
  simp

/-! ### States and operands that meet the hypotheses -/

/-- A command answers a next state. -/
def Runs (i : Instr) (s : State) : Prop := ∃ t, exec i s = .next t

theorem runs {i : Instr} {s : State} {P : State → Prop} (h : ∃ t, exec i s = .next t ∧ P t) : Runs i s := h.elim fun t h => ⟨t, h.1⟩

theorem runsE {i : Instr} {s t : State} (h : exec i s = .next t) : Runs i s := ⟨t, h⟩

theorem runs2 {α : Type} {i : Instr} {s : State} {P : State → α → Prop} (h : ∃ t a, exec i s = .next t ∧ P t a) : Runs i s :=
  h.elim fun t h => h.elim fun _ h => ⟨t, h.1⟩

theorem runs3 {α β : Type} {i : Instr} {s : State} {P : State → α → β → Prop} (h : ∃ t a b, exec i s = .next t ∧ P t a b) : Runs i s :=
  h.elim fun t h => h.elim fun _ h => h.elim fun _ h => ⟨t, h.1⟩

/-- An address that is none of the bus-error capture and the journal. -/
theorem not_busLogReg {a : Nat} (h : a ≠ SYS_BUS_ERRORS.addr 0 0 0 0 ∧ a ≠ SYS_BUS_ERR_LAST.addr 0 0 0 0 ∧ a ≠ CFG_JOURNAL_NEXT.addr 0 0 0 0 ∧
    (a < CFG_JOURNAL_e_Ww.base ∨ CFG_JOURNAL_e_Ww.base + 0x2_0000 ≤ a)) : ¬ busLogReg a := by
  obtain ⟨h1, h2, h3, h4⟩ := h
  rintro (h' | h' | h' | ⟨i, j, hi, hj, h'⟩)
  · exact h1 h'
  · exact h2 h'
  · exact h3 h'
  · simp only [CFG_JOURNAL_e_Ww, Reg.addr] at h' h4
    omega

/-- The pieces of a block in every segment lie apart from a range. -/
theorem pieces_apart {l : List Segment} {b a n : Nat} {block : List Byte}
    (h : l.all (fun g => (g.piece b block).elim true (fun p => decide (g.dest + p.1 + p.2.length ≤ a ∨ a + n ≤ g.dest + p.1))) = true) :
    ∀ g ∈ l, ∀ o bs, g.piece b block = some (o, bs) → rangesApart (g.dest + o) bs.length a n := by
  intro g hg o bs hp
  have := List.all_eq_true.1 h g hg
  simpa [hp, rangesApart] using this

/-- A ring with its base, size, TAIL and kind. -/
def ringAt (s : State) (q base size tail : Nat) (kind : Nat := 0) : State :=
  (((s.fset QM_Qq_BASE_BASE base q).fset QM_Qq_CFG_ENABLE 1 q).fset QM_Qq_CFG_SIZE_LOG2 size q |>.fset QM_Qq_CFG_KIND kind q).fset QM_Qq_TAIL_INDEX tail q
/-- Descriptors in flight and caravans. -/
def withWork (s : State) (fs : List Flight) (cs : List Caravan) : State :=
  { s with drover := { s.drover with flights := fs, caravans := cs } }
/-- A descriptor of an opcode for an engine, with the fields of its words 1 to 3 added. -/
def dsc (op eng : Nat) (ext : Nat := 0) : Nat := op + eng * 2 ^ 8 + 2 ^ 64 + ext
/-- A CARAVAN_BEGIN of model 3 that occupies core 7. -/
def cbD : Nat := dsc 1 0 (16 * 2 ^ 128 + 3 * 2 ^ 160 + 4095 * 2 ^ 192 + 7 * 2 ^ 208 + 5 * 2 ^ 216 + 2 * 2 ^ 288 + 400 * 2 ^ 256)
/-- Its caravan on core 7. -/
def cvn : Caravan := { caravanOfDesc 65535 0 cbD with core := some 7 }
/-- Bounds of task 5. -/
def lat : TaskLatch := ⟨5, true, [1, 1, 1], [1000, 1000, 1000]⟩
/-- A descriptor of ring 65535 in flight; position 0 is the ring slot itself. -/
def fl (pos d : Nat) (st : Stage) : Flight := { newFlight 65535 0 pos d (if pos = 0 then 0 else 7) false 0 with stage := st, latch := lat }
/-- A group member in flight. -/
def mfl (pos d : Nat) (st : Stage) : Flight := { fl pos d st with member := true, opener := 1 }
/-- One descriptor in the intake of core 7. -/
def job1 (d : Nat) : State := withWork live [fl 0 cbD .done, fl 1 d .intake] [{ cvn with begun := true, fetched := 1, len := 1000 }]
/-- Its job. -/
def jb (d : Nat) : Job := { c := 7, f := fl 1 d .intake, member := false, start := 0, length := 0 }
/-- A GROUP_OPEN of n members and a length. -/
def goD (n len : Nat) : Nat := dsc 8 1 (n * 2 ^ 128 + len * 2 ^ 136)
/-- Bytes at offsets. -/
def pk (l : List (Nat × Nat)) : Nat := (l.map (fun x => x.2 * 2 ^ (8 * x.1))).sum
/-- A handle. -/
def hnd (sp i : Nat) : Nat := sp * 2 ^ 29 + i
/-- Activity levels risen. -/
def levelled (s : State) : State := s.fset PWR_RAMP_LEVEL_LEVEL 0o4444444444444444
/-- Granule g of ASP, of the task. -/
def asp (g : Nat) : Nat := spAddr 7 spASP (128 + 32 * g)
/-- Granule g of WSP, of the task. -/
def wspA (g : Nat) : Nat := spAddr 7 spWSP (128 + 32 * g)
/-- Slot p of PSP, of the task. -/
def psp (p : Nat) : Nat := spAddr 7 spPSP (128 + 16 * p)
/-- The descriptor is a running member of a group of core 7. -/
def asMember (s : State) (links : List (List LinkWord)) : State :=
  ((s.modFlight ⟨65535, 0, 1⟩ (fun f => { f with member := true, opener := 1, stage := .running }))).modCore 7 (fun k => { k with group := some ⟨⟨65535, 0, 5⟩, 1000, true, [{ memberOf { fl 1 (dsc 0x20 5) .running with member := true } with offset := 40, started := true, ran := true }], links, [], [[], [], [], []], [], none, none, false, 0, 0⟩ })

/-- Outside a group no member has written. -/
theorem first {s : State} {j : Job} (h : j.member = false) : s.writesFirst j := fun hm => by rw [h] at hm; cases hm
/-- A message that moves nothing has nothing to wait for. -/
theorem pays0 {s : State} {r : HmpReq} {n : Nat} (h : r.charged = false) (h0 : n = 0) : s.pays r n := by simp [State.pays, h, h0]
/-- A message whose transactions the ration issues. -/
theorem paysNow {s : State} {r : HmpReq} {n : Nat} (h : r.charged = false) (h1 : s.heldTx 14 = 0) (h2 : (s.issueTx 14 n).2 = 0) :
    s.pays r n := by simp [State.pays, h, h1, h2]
/-- The path of a source whose class is 14 or 15. -/
theorem path {s : State} {src n : Nat} (h : (pathClass src).all (fun k => s.heldTx k == 0 && decide (s.usedTx k + n ≤ s.budgetOf k)) = true) :
    ∀ k, pathClass src = some k → s.grants k n := fun k hk => by
  rw [hk] at h; simp at h; exact h

/-! ### Reset, clocks, rations, links -/

namespace Gab

def two : State := { State.reset with pending := [.timeKick 4, .idcode] }
def held : State := { State.reset with clk := { State.reset.clk with inReset := true } }
def locked : State := (live.fset CLK_STATUS_PLL_LOCK 1).fset CLK_STATUS_REF_PRESENT 1
def stopped : State := { live with clk := { live.clk with running := false } }
def period : State :=
  { live with refTick := 1250, clk := { live.clk with pendingStep := [some 3, none, none, none, none, none, none, some 1] } }
def linkUp (fails : Nat) : State := { live.fset D2D_Ln_STATUS_UP 1 2 with clk := { live.clk with linkFails := [0, 0, fails] } }

theorem test_meets_StepRunsTheFrontCommand (h : Obligations.StepRunsTheFrontCommand) :
    step two = exec (.timeKick 4) { two with pending := [.idcode] } := h (.timeKick 4) [.idcode] two rfl

theorem test_meets_CommandsLeaveTheQueue (h : Obligations.CommandsLeaveTheQueue) : ∃ t, exec .idcode two = .next t ∧ t.pending = two.pending :=
  ⟨_, rfl, h .idcode two _ rfl⟩

theorem test_meets_StepKeepsSound (h : Obligations.StepKeepsSound) : ∃ t, step live = .next t ∧ t.Sound :=
  ⟨_, rfl, h live _ ⟨by decide, by decide, by decide⟩ rfl⟩

theorem test_meets_WellFormedQueuesNeverStop (h : Obligations.WellFormedQueuesNeverStop) : ∃ t, step two = .next t :=
  (h.1 two (by decide)).elim fun t h => ⟨t, h.1⟩

theorem test_meets_ResetPinsAct (h : Obligations.ResetPinsAct) :
    Runs .resetAssert live ∧
    Runs (.resetRelease 3) held :=
  ⟨runs (h.1 live),
    runs (h.2 held 3 (by decide))⟩

theorem test_meets_ClocksStartStopAndRestart (h : Obligations.ClocksStartStopAndRestart) :
    Runs .clocksStart State.reset ∧
    Runs .pllLockLoss locked ∧
    Runs .referenceLoss locked ∧
    Runs .clocksRestart stopped :=
  ⟨runs (h.1 State.reset (by decide) (by decide)),
    runs (h.2.1 locked (by decide) (by decide)),
    runs (h.2.2.1 locked (by decide) (by decide)),
    runs (h.2.2.2 stopped (by decide) (by decide) (by decide))⟩

theorem test_meets_RationPeriodBoundaryStartsAPeriod (h : Obligations.RationPeriodBoundaryStartsAPeriod) :
    Runs .rationPeriodBoundary period :=
  runs (h period (by decide) (by decide) (by decide) (by decide) (by decide) (by decide))

theorem test_meets_LinkReplayCountsAndReports (h : Obligations.LinkReplayCountsAndReports) :
    Runs (.linkReplay 2 64 true) (linkUp 15) ∧
    Runs (.linkReplay 2 64 false) (linkUp 15) ∧
    Runs (.linkReplay 2 64 false) (linkUp 14) :=
  ⟨runs (h 2 64 true (linkUp 15) (by decide) (by decide) (by decide) (by decide) (by decide)),
    runs (h 2 64 false (linkUp 15) (by decide) (by decide) (by decide) (by decide) (by decide)),
    runs (h 2 64 false (linkUp 14) (by decide) (by decide) (by decide) (by decide) (by decide))⟩

end Gab

/-! ### Descriptors and caravans -/

namespace Gc

def nopD : Nat := dsc 0 0 (2 ^ 42 + 7 * 2 ^ 480 + 2 ^ 496)
def ceD (n : Nat) : Nat := dsc 2 0 (8 * 2 ^ 128 + n * 2 ^ 160)
def fenceD (pause : Nat) : Nat := dsc 3 0 (pause * 2 ^ 128)
def movD : Nat := dsc 0x40 9
def ringWith (d : Nat) : State := (ringAt live 65535 1 4 1).writeLE 64 64 d
def fl (pos d : Nat) (st : Stage) : Flight := { newFlight 65535 0 pos d (if pos = 0 then 0 else 7) false 0 with stage := st }
def chainAt (d : Nat) : State := withWork (live.writeLE (32 * 400) 64 d) [fl 0 cbD .done] [cvn]
def nopSt : State := withWork live [fl 0 nopD .fetched] []
def endSt (st : Nat) : State := withWork live [{ fl 1 (movD + 2 ^ 42 + 7 * 2 ^ 480 + 2 ^ 496) .ended with status := st }] [cvn]
def meN : Nat := 3 + 2 ^ 32 + 2 ^ 9 * 2 ^ 48 + (0xFF * 2 ^ 64)
def beginSt : State := withWork ((live.fset QM_MBXm_CFG_ENABLE 1 4095).writeLE 384 128 meN) [fl 0 cbD .fetched] [caravanOfDesc 65535 0 cbD]
def readyCvn : Caravan := { caravanOfDesc 65535 0 cbD with readyAt := some 5, entry := meN, checked := true }
def readySt : State := withWork ((live.fset QM_CORE_AVAIL_AVAIL 255).fset CORE_TASKn_BOUND_ENABLE 1 7 5) [fl 0 cbD .fetched] [readyCvn]
def endingSt : State :=
  withWork (((live.fset QM_MBXm_CFG_ENABLE 1 4095).fset QM_MBXm_CFG_PART_STRIDE 1 4095).writeLE 256 4 0xDEADBEEF) [fl 0 cbD .done, fl 1 (ceD 32) .fetched] [{ cvn with begun := true, fetched := 1, len := 1 }]
def doneSt (ring : Nat) : State := withWork ((ringAt live ring 2 4 3 1).fset QM_Qq_CFG_COMPL_QUEUE 9 65535) [fl 0 nopD .done] []
def lastSt : State :=
  withWork (((ringAt live 9 2 4 3 1).fset QM_Qq_CFG_COMPL_QUEUE 9 65535).fset QM_MBXm_STATE_STATE 2 4095) [fl 1 (ceD 0) .done] [{ cvn with begun := true, fetched := 1, len := 1 }]

theorem test_meets_DescriptorFetchTakesTheNextOne (h : Obligations.DescriptorFetchTakesTheNextOne) :
    Runs (.descriptorFetch 65535) (ringWith nopD) ∧
    Runs (.descriptorFetch 65535) (chainAt movD) ∧
    Runs (.descriptorFetch 65535) (ringWith 0x3F) :=
  ⟨runs (h.1 65535 _ (ringWith nopD) (by decide) (by decide) (by decide) rfl (by decide) (by decide)),
    runs (h.2.1 65535 _ cvn (chainAt movD) (by decide) (by decide) (by decide) (by decide) rfl (by decide) (by decide) (by decide)),
    runs (h.2.2 65535 _ (ringWith 0x3F) (by decide) (by decide) (by decide) rfl (by decide))⟩

theorem test_meets_DescriptorForwardEntersTheIntake (h : Obligations.DescriptorForwardEntersTheIntake) :
    Runs (.descriptorForward 7) (withWork live [fl 1 movD .fetched] [cvn]) :=
  runs (h 7 (fl 1 movD .fetched) (withWork live [fl 1 movD .fetched] [cvn]) (by decide) (by decide) (by decide) (by decide))

theorem test_meets_CompletionDeliversOrWithholds (h : Obligations.CompletionDeliversOrWithholds) :
    Runs (.nop ⟨65535, 0, 0⟩) nopSt ∧
    Runs (.descriptorComplete ⟨65535,0,1⟩) (endSt stOK) :=
  ⟨runs (h.1 ⟨65535, 0, 0⟩ (fl 0 nopD .fetched) nopSt (by decide) (by decide) (by decide) (by decide) (by decide) (by decide) (by decide) (by decide)),
    runs (h.2 ⟨65535, 0, 1⟩ _ (endSt stOK) (by decide) (by decide) rfl (by decide) (by decide) (by decide) (by decide))⟩

theorem test_meets_FenceCompletesAndPauses (h : Obligations.FenceCompletesAndPauses) :
    Runs (.fence 65535) (withWork live [fl 0 (fenceD 1) .fetched] []) ∧
    Runs (.fence 65535) (withWork live [fl 0 (fenceD 0) .fetched] []) :=
  ⟨runs (h 65535 _ [] (withWork live [fl 0 (fenceD 1) .fetched] []) (by decide) (by decide) rfl (by decide) (by decide) (by decide) (by decide) (by decide)),
    runs (h 65535 _ [] (withWork live [fl 0 (fenceD 0) .fetched] []) (by decide) (by decide) rfl (by decide) (by decide) (by decide) (by decide) (by decide))⟩

theorem test_meets_CaravansBecomeReadyAndArePlaced (h : Obligations.CaravansBecomeReadyAndArePlaced) :
    Runs (.caravanBegin 65535) beginSt ∧
    Runs .caravanPlace readySt :=
  ⟨runs (h.1 65535 _ _ beginSt (by decide) (by decide) rfl rfl (by decide) (by decide) (by decide) (by decide) (by decide)),
    runs (h.2 7 readyCvn readySt (by decide) (by decide) (by decide) (by decide) (by decide) (by decide) (by decide) (by decide) (by decide))⟩

theorem test_meets_CaravanEndCopiesTheResult (h : Obligations.CaravanEndCopiesTheResult) :
    Runs (.caravanEnd 7) endingSt :=
  runs2 (h 7 _ _ endingSt ⟨by decide, by decide, by decide⟩ (by decide) (by decide) rfl rfl (by decide) (by decide) (by decide) (by decide) (by decide))

theorem test_meets_CompletionRecordsArePosted (h : Obligations.CompletionRecordsArePosted) :
    Runs (.completionRecordPost 65535) (doneSt 9) ∧
    Runs (.completionRecordPost 65535) (doneSt 8) :=
  ⟨runs2 ((h 65535 _ _ [] (doneSt 9) ⟨by decide, by decide, by decide⟩ (by decide) (by decide) rfl (by decide) (by decide) rfl).1 (by decide) (.inr (by decide) )),
    runs ((h 65535 _ _ [] (doneSt 8) ⟨by decide, by decide, by decide⟩ (by decide) (by decide) rfl (by decide) (by decide) rfl).2 (by decide))⟩

theorem test_meets_LastPartFlipsTheMailbox (h : Obligations.LastPartFlipsTheMailbox) :
    Runs (.completionRecordPost 65535) lastSt :=
  runs (h 65535 7 _ [] _ lastSt (by decide) (by decide) rfl (by decide) (by decide) (by decide) rfl (by decide) (by decide) (by decide) (by decide) (by decide) (by decide) (by decide) (by decide) (by decide))

end Gc

/-! ### Queues, tallies, waystations, mailboxes -/

namespace Gd

def rg : State := ringAt live 65535 1 4 0xFFFFFFFF |>.fset QM_Qq_HEAD_INDEX 0xFFFFFFFF 65535
def rgFull : State := ringAt live 65535 1 4 16
def movD : Nat := dsc 0x40 9
def fl (pos d : Nat) (st : Stage) : Flight := { newFlight 65535 0 pos d (if pos = 0 then 0 else 7) false 0 with stage := st }
def rgC : State := ringAt live 65535 1 4 3 1
def ctl : State := withWork ((rg.fset QM_Qq_STATUS_HALTED 1 65535).fset QM_Qq_STATUS_DRAINED 1 65535) [fl 0 cbD .broken] []
def tl : State := (live.fset TLY_t_COUNT_COUNT 0xFFFFFFFF 65535).fset TLY_SIGNALS_COUNT (2^64-1)
def wy : State := (ringAt live 65535 1 4 0xFFFFFFFF 2).fset QM_Qq_HEAD_INDEX 0xFFFFFFFE 65535
def wyFull : State := ringAt live 65535 1 4 16 2
def mb (seq : Nat) : State := ((live.fset QM_MBXm_CFG_ENABLE 1 4095).fset QM_MBXm_STATE_SEQ seq 4095).fset QM_MBXm_STATE_HALF 1 4095
def kl : State := withWork live [fl 0 cbD .done, fl 1 movD .fetched] [cvn]
def meN : Nat := 3 + 2 ^ 32 + 2 ^ 9 * 2 ^ 48 + (0xFF * 2 ^ 64) + 65535 * 2 ^ 160
def rl : State := { withWork live [fl 0 cbD .done, fl 1 movD .fetched] [{ cvn with entry := meN, begun := true }] with refTick := 2 ^ 40 }
def cx : State :=
  { withWork (((live.fset QM_MBXm_CFG_ENABLE 1 4095).fset QM_MBXm_STATE_STATE 2 4095).fset QM_MBXm_CFG_PARTS 2 4095 |>.fset QM_MBXm_STATE_BEGUN 1 4095) [] [{ cvn with begun := true, mailbox := 4095, part := 0 }] with refTick := 2 ^ 40 }

theorem test_meets_StagePushWritesTheSlotOrIsRefused (h : Obligations.StagePushWritesTheSlotOrIsRefused) :
    Runs (.stagePush 8 15 65535) rg ∧
    Runs (.stagePush 8 15 65535) rgFull :=
  ⟨runs2 ((h 8 15 65535 rg ⟨by decide, by decide, by decide⟩ (by decide) (by decide) ⟨by decide, by decide, by decide⟩).1 (by decide) (by decide)),
    runs ((h 8 15 65535 rgFull ⟨by decide, by decide, by decide⟩ (by decide) (by decide) ⟨by decide, by decide, by decide⟩).2 (.inl (by decide)))⟩

theorem test_meets_IndexWritesMoveOwnedIndicesOnly (h : Obligations.IndexWritesMoveOwnedIndicesOnly) :
    Runs (.tailWrite 8 65535 15) rg ∧
    Runs (.tailWrite 8 65535 0xFFFFFFFF) rg ∧
    Runs (.tailWrite 8 65535 16) rg ∧
    Runs (.tailWrite 8 65535 0x7FFFFFFF) rg ∧
    Runs (.tailWrite 8 65535 4) rgC ∧
    Runs (.headWrite 8 65535 3) rgC ∧
    Runs (.headWrite 8 65535 3) rg :=
  ⟨runs ((h.1 8 65535 15 _ rg (by decide) ⟨by decide, by decide, by decide⟩ rfl).1 (by decide) (by decide) (by decide) (by decide)),
    runs ((h.1 8 65535 0xFFFFFFFF _ rg (by decide) ⟨by decide, by decide, by decide⟩ rfl).2.1 (by decide) (by decide)),
    runs ((h.1 8 65535 16 _ rg (by decide) ⟨by decide, by decide, by decide⟩ rfl).2.2 (.inr (.inr (by decide)))),
    runs ((h.1 8 65535 0x7FFFFFFF _ rg (by decide) ⟨by decide, by decide, by decide⟩ rfl).2.2 (.inr (.inl (by decide)))),
    runs ((h.1 8 65535 4 _ rgC (by decide) ⟨by decide, by decide, by decide⟩ rfl).2.2 (.inl (by decide))),
    runs ((h.2 8 65535 3 rgC (by decide) ⟨by decide, by decide, by decide⟩).1 (by decide)),
    runs ((h.2 8 65535 3 rg (by decide) ⟨by decide, by decide, by decide⟩).2 (by decide))⟩

theorem test_meets_QueueControlBitsAct (h : Obligations.QueueControlBitsAct) :
    Runs (.stop 8 65535) ctl ∧
    Runs (.resume 8 65535) ctl ∧
    Runs (.resetIndex 8 65535) ctl ∧
    Runs (.resetIndex 8 65535) rg :=
  ⟨runs ((h 8 65535 ctl (by decide) ⟨by decide, by decide, by decide⟩).1),
    runs ((h 8 65535 ctl (by decide) ⟨by decide, by decide, by decide⟩).2.1),
    runs ((h 8 65535 ctl (by decide) ⟨by decide, by decide, by decide⟩).2.2),
    runs ((h 8 65535 rg (by decide) ⟨by decide, by decide, by decide⟩).2.2)⟩

theorem test_meets_QueueConfigurationIsGuarded (h : Obligations.QueueConfigurationIsGuarded) :
    Runs (.queueCfgWrite 8 65535 true (2 ^ 34)) live ∧
    Runs (.queueCfgWrite 8 65535 true (2 ^ 34)) rg ∧
    Runs (.queueCfgWrite 8 65535 false 0x84) live ∧
    Runs (.queueCfgWrite 8 65535 false 0x94) live ∧
    Runs (.queueCfgWrite 8 65535 false 0x24) rgC ∧
    Runs (.queueCfgWrite 8 65535 false 0x95) live ∧
    Runs (.queueCfgWrite 8 65535 false 0x04) rg :=
  ⟨runs (h.1 8 65535 (2 ^ 34) live (by decide) ⟨by decide, by decide, by decide⟩ (by decide) (.inl (by decide))),
    runs (h.2.1 8 65535 (2 ^ 34) rg (by decide) ⟨by decide, by decide, by decide⟩ (.inl (by decide))),
    runs ((h.2.2 8 65535 0x84 live (by decide) ⟨by decide, by decide, by decide⟩).1 (.inl (by decide)) (by decide) (by decide) (.inr (by decide))),
    runs ((h.2.2 8 65535 0x94 live (by decide) ⟨by decide, by decide, by decide⟩).1 (.inl (by decide)) (by decide) (by decide) (.inr (by decide))),
    runs ((h.2.2 8 65535 0x24 rgC (by decide) ⟨by decide, by decide, by decide⟩).1 (.inr (by decide)) (by decide) (by decide) (.inl (by decide))),
    runs ((h.2.2 8 65535 0x95 live (by decide) ⟨by decide, by decide, by decide⟩).2 (.inr (.inl (by decide)))),
    runs ((h.2.2 8 65535 0x04 rg (by decide) ⟨by decide, by decide, by decide⟩).2 (.inr (.inr (.inl (by decide)))))⟩

theorem test_meets_TallyWritesAddAndLoad (h : Obligations.TallyWritesAddAndLoad) :
    Runs (.tlyAdd 8 65535 65535) tl ∧
    Runs (.tlyAdd 8 65535 0) tl ∧
    Runs (.tlySet 8 65535 0x7FFFFFFF) tl :=
  ⟨runs (h.1 8 65535 65535 tl (by decide) ⟨by decide, by decide, by decide⟩),
    runs (h.1 8 65535 0 tl (by decide) ⟨by decide, by decide, by decide⟩),
    runs (h.2 8 65535 0x7FFFFFFF tl (by decide) ⟨by decide, by decide, by decide⟩)⟩

theorem test_meets_WaystationsPutAndTakeInOrder (h : Obligations.WaystationsPutAndTakeInOrder) :
    Runs (.wayPut 8 65535 0xFFFFFFFF 255) wy ∧
    Runs (.wayPut 8 65535 0xFFFFFFFF 255) wyFull ∧
    Runs (.wayTake 8 65535) wy ∧
    Runs (.wayTake 8 65535) rg :=
  ⟨runs2 ((h.1 8 65535 0xFFFFFFFF 255 wy ⟨by decide, by decide, by decide⟩ (by decide) ⟨by decide, by decide, by decide⟩).1 (by decide)),
    runs ((h.1 8 65535 0xFFFFFFFF 255 wyFull ⟨by decide, by decide, by decide⟩ (by decide) ⟨by decide, by decide, by decide⟩).2 (by decide)),
    runs2 ((h.2 8 65535 wy (by decide) ⟨by decide, by decide, by decide⟩).1 (by decide) (by decide) (by decide)),
    runs ((h.2 8 65535 rg (by decide) ⟨by decide, by decide, by decide⟩).2 (.inr (.inl (by decide))))⟩

theorem test_meets_MailboxClaimsReadTheResult (h : Obligations.MailboxClaimsReadTheResult) :
    Runs (.mailboxClaim 8 7 4095 5) (mb 5) ∧
    Runs (.mailboxClaim 8 7 4095 5) (mb 0) ∧
    Runs (.mailboxClaim 8 7 4095 6) (mb 5) :=
  ⟨runs ((h 8 7 4095 5 _ (mb 5) (by decide) (by decide) ⟨by decide, by decide, by decide⟩ rfl).1 (by decide) (.inr (.inl (by decide)))),
    runs ((h 8 7 4095 5 _ (mb 0) (by decide) (by decide) ⟨by decide, by decide, by decide⟩ rfl).2 (.inl (by decide))),
    runs ((h 8 7 4095 6 _ (mb 5) (by decide) (by decide) ⟨by decide, by decide, by decide⟩ rfl).2 (.inr (by decide)))⟩

theorem test_meets_KillsEndCaravans (h : Obligations.KillsEndCaravans) :
    Runs (.kill 8 cvn.id) kl ∧
    Runs (.kill 8 5) live ∧
    Runs (.runLimitExpiry 7) rl ∧
    Runs (.mailboxCancel 8 4095) cx :=
  ⟨runs ((h.1 8 cvn.id kl ⟨by decide, by decide, by decide⟩).1 (by decide)),
    runs ((h.1 8 5 live ⟨by decide, by decide, by decide⟩).2 (by decide)),
    runs (h.2.1 7 _ rl (by decide) rfl (by decide) (by decide) (by decide) (by decide)),
    runs (h.2.2 8 4095 1 cx (by decide) ⟨by decide, by decide, by decide⟩ (by decide) (by decide) (by decide) (by decide) (by decide))⟩

end Gd

/-! ### Lockstep groups -/

namespace Ge

def mvD (off : Nat) : Nat :=
  dsc 0x18 4 (off * 2 ^ 48 + (2 * 2 ^ 29) * 2 ^ 128 + (3 * 2 ^ 29) * 2 ^ 160 + 1 * 2 ^ 192 + 32 * 2 ^ 224 + 1 * 2 ^ 264 + 3 * 2 ^ 29 * 2 ^ 320 + 64 * 2 ^ 320)
def grp (n : Nat) (st : Stage) : State :=
  withWork live [fl 0 cbD .done, fl 1 (goD n 100) .intake, mfl 2 (mvD 5) st] [{ cvn with begun := true, fetched := 2, len := 1000 }]
def grp1 : State :=
  (grp 1 .intake).modCore 7 (fun k => { k with group := some ⟨⟨65535, 0, 1⟩, 100, false, [memberOf (mfl 2 (mvD 5) .intake)], [[], [], [], []], [], [[], [], [], []], [], none, none, false, 0, 0⟩ })
def grp2 (ran : Bool) : State :=
  (grp 1 .intake |>.modFlight ⟨65535, 0, 1⟩ (fun f => { f with stage := .running })).modCore 7 (fun k => { k with group := some ⟨⟨65535, 0, 1⟩, 100, true, [memberOf (mfl 2 (mvD 5) .intake), { memberOf (mfl 9 (mvD 4) .intake) with started := true, ran := ran, endCycle := 50 }], [[], [], [], []], [], [[], [], [], []], [], none, none, false, 0, 0⟩ })
def grp3 (st : Nat) : State :=
  ((grp 1 .ended).modFlight ⟨65535, 0, 2⟩ (fun f => { f with status := st }) |>.modFlight ⟨65535, 0, 1⟩ (fun f => { f with stage := .running })).modCore 7 (fun k => { k with group := some ⟨⟨65535, 0, 1⟩, 100, true, [{ memberOf (mfl 2 (mvD 5) .intake) with started := true }], [[], [], [], []], [], [[], [], [], []], [], none, none, false, 0, 0⟩ })

theorem test_meets_GroupsAreCheckedAndOpened (h : Obligations.GroupsAreCheckedAndOpened) :
    Runs (.groupOpen 7) (grp 1 .intake) ∧
    Runs (.groupOpen 7) (grp 0 .intake) :=
  ⟨runs ((h 7 _ (grp 1 .intake) (by decide) (by decide) (by decide) rfl (by decide) (by decide)).1 (by decide) (by decide)),
    runs ((h 7 _ (grp 0 .intake) (by decide) (by decide) (by decide) rfl (by decide) (by decide)).2 (.inl (by decide)))⟩

theorem test_meets_GroupsStartRunAndEnd (h : Obligations.GroupsStartRunAndEnd) :
    Runs (.groupStart 7) grp1 ∧
    Runs (.memberStart 7) (grp2 false) ∧
    Runs (.memberStart 7) (grp2 true) ∧
    Runs (.groupEnd 7) (grp3 stOK) ∧
    Runs (.groupEnd 7) (grp3 stTimingSkew) :=
  ⟨runs2 (h.1 7 _ grp1 (by decide) (by decide) rfl (by decide) (by decide)),
    runs2 ((h.2.1 7 _ _ _ (grp2 false) (by decide) (by decide) rfl rfl (by decide) (by decide) rfl (by decide)).1 (by decide)),
    runs ((h.2.1 7 _ _ _ (grp2 true) (by decide) (by decide) rfl rfl (by decide) (by decide) rfl (by decide)).2 (by decide)),
    runs (h.2.2 7 _ (grp3 stOK) (by decide) (by decide) rfl (by decide) (by decide) (by decide) (by decide)),
    runs (h.2.2 7 _ (grp3 stTimingSkew) (by decide) (by decide) rfl (by decide) (by decide) (by decide) (by decide))⟩

end Ge

/-! ### Engines -/

namespace Gf

def mvS : Nat := dsc 0x18 4 (pk [(2, 77), (4, 9), (16, hnd 2 0), (20, hnd 3 0), (24, 3), (28, 32), (40, 5)])
def mvQ : Nat :=
  dsc 0x18 4 (pk [(2, 77), (4, 9), (16, hnd 2 0), (20, hnd 3 0), (24, 8), (28, 32), (33, 1), (34, 3), (35, 250), (36, 2 ^ 30), (40, hnd 3 64)])
def mvBadD : Nat := dsc 0x18 4 (pk [(16, hnd 2 0), (20, hnd 3 0), (24, 3), (28, 33), (40, 5)])
def ones (s : State) : State :=
  { s with mem := (List.range 128).map (fun i => (wspA 0 + i, BitVec.ofNat 8 (i + 3))) ++ (List.range 128).map (fun i => (asp 0 + i, BitVec.ofNat 8 (200 - i))) ++ (List.range 63).map (fun i => (psp 8 + i + 1, BitVec.ofNat 8 (i + 1))) }
def strD : Nat := dsc 0x10 3 (pk [(16, hnd 2 0), (20, hnd 3 0), (28, 2), (32, 1), (34, 1), (35, 0x11), (36, 8), (40, 8), (46, 1)])
def thrD : Nat := dsc 0x12 3 (pk [(16, hnd 2 0), (20, hnd 3 0), (28, 1), (29, 0), (30, 0x11), (32, 1), (36, 8), (40, 32)])
def pakD : Nat := dsc 0x11 3 (pk [(16, hnd 2 64)])
def spanE : Nat := pk [(0, hnd 2 0), (4, hnd 3 0), (8, 1), (12, 1), (14, 1), (15, 1), (16, 8), (20, 8), (25, 0x11)]
def arr (d : Nat) : State := levelled ((ones (job1 d)).writeLE (wspA 64) 32 spanE)
def vecD (f tA mB mC tB tC tD e a b c d : Nat) : Nat :=
  dsc 0x28 6 (pk [(2, 77), (4, 9), (16, f), (17, mB * 16 + mC * 64), (18, tA + 16 * tB), (19, tC + 16 * tD), (20, e), (28, a), (32, b), (36, c), (40, d)])
def crvT : List Nat :=
  [0x3F800000, 0x40000000, 0x41800000, 5, 6, 0x00000400, 0, 0] ++ (List.range 16).flatMap (fun k => [0x3F800000 + k, 0x3F800000, 0, 0])
def crvS (d : Nat) (ok : Bool) : State :=
  ((job1 d).writeLE (asp 0) 288 (pk ((List.range 72).map (fun i => (4 * i, crvT.getD i 0))))).writeLE (asp 0 + 28) 4 (if ok then 0 else 1)
def withCurve (s : State) : State := s.modCore 7 (fun k => { k with curves := [none, none, none, some ⟨16, crvT⟩] })
def qnD (l : List (Nat × Nat)) : Nat := dsc 0x30 7 (pk ([(2, 77), (4, 9), (36, 0x3F800000)] ++ l))
def qnCode : Nat := qnD [(16, 8), (17, 3), (20, 8), (24, 32), (28, 32), (32, 32), (40, hnd 3 64), (48, hnd 3 200)]
def qnW12 : Nat := qnD [(16, 24), (20, 8), (24, 8), (28, 1), (32, 8), (40, hnd 3 64)]
def qnSt : Nat := qnD [(16, 8 + 64), (20, 8), (24, 32), (28, 32), (32, 32), (34, 1), (40, hnd 3 64), (44, hnd 3 0), (48, hnd 3 200)]
def slots8 (s : State) : State := s.writeLE (psp 8) 128 (pk ((List.range 8).map (fun i => (16 * i, (i + 1) * 2 ^ 42))))
def stSt : State := (slots8 (job1 qnSt)).writeLE (asp 0) 32 (pk [(0, 7), (4, 2), (16, 5), (24, 30)])
def adD : Nat := dsc 0x31 7 (pk [(2, 77), (16, hnd 3 0), (20, hnd 3 64), (24, hnd 3 128), (28, 2)])
def adS : State :=
  ((job1 adD).writeLE (asp 0) 40 (pk [(0, 0xFFFFFFFF), (4, 3), (16, 0x03), (24, 0x1), (32, 0x2)])).writeLE (asp 128) 32 (pk [(0, 2), (2, 500), (4, 1000), (10, 5), (16, 0), (18, 9), (20, 100)])
def fdD (chain : Nat) : Nat :=
  dsc 0x20 5 (pk ([(2, 77), (16, 4), (18, 4), (20, 32), (22, 0), (24, 0), (26, 8), (28, 0), (29, 1), (30, 1), (31, 0), (32, 1), (33, 1), (41, 1), (42, 3 + 4 * chain + 32 * chain), (44, 1), (48, 0), (50, 0), (52, 2), (54, 4)] ++ (if chain = 0 then [] else [(56, hnd 3 0)])))
def fdS (chain : Nat) : State :=
  (asMember (job1 (fdD chain)) [[], [], [], []]).writeLE (asp 0) 16 (pk [(0, 4), (2, 4), (4, 1), (5, 1), (6, 0), (7, 1), (8, 1)])
def rgD : Nat :=
  dsc 0x21 5 (pk [(2, 77), (16, hnd 3 0), (20, hnd 3 400), (24, 2), (26, 2), (28, 4), (34, 2), (42, 1), (44, 0x22), (45, 0), (47, 5), (48, 3)])
def rgS : State := ones (job1 rgD)
def roD : Nat := dsc 0x38 8 (pk [(2, 77), (16, hnd 3 0), (20, hnd 3 64), (24, hnd 3 900)])
def roB : Nat := dsc 0x38 8 (pk [(2, 77), (16, hnd 3 0), (20, hnd 3 64), (24, hnd 4 0), (28, hnd 3 8)])
def roW (same : Nat) : State :=
  (job1 roD).writeLE (asp 0) 64 (pk [(0, 1 + 4 + 32 * same), (1, 1), (12, 3), (14, 3), (16, 2), (22, 3), (30, 2), (31, 2), (38, 0), (42, 2)])
def roP (op : Nat) : State :=
  ((job1 roB).writeLE (asp 0) 64 (pk [(0, op), (1, 1), (12, 3), (14, 3), (16, 2), (22, 3), (26, 2), (28, 2), (29, 2)])).writeLE (asp 8) 48 (pk [(0, 3), (24, 512), (28, 512), (32, 256)])

theorem test_meets_W12ValuesFollowTheFormat (h : Obligations.W12ValuesFollowTheFormat) :
    w12Decode 0x07F = 127 ∧ w12Decode 0xFFF = -(2 ^ 14 * 255) ∧ w12Encode (w12Decode 0xFFF) = 0xFFF ∧ fpToW12 0x7FC0_0000 = 0 :=
  ⟨(h.1 0 0 127 (by decide) (by decide) (by decide)).1 rfl, (h.1 1 15 127 (by decide) (by decide) (by decide)).2 (by decide),
    h.2.2.2.1 0xFFF (by decide) (by decide), h.2.2.2.2.2.2.2 0x40_0000 (by decide) (by decide)⟩

theorem test_meets_EnginesRunTheirDescriptors (h : Obligations.EnginesRunTheirDescriptors) :
    Runs (.mvpMatvec 7) (ones (job1 mvS)) ∧
    Runs (.mxaStream 7 1) (arr strD) ∧
    Runs (.sub 7) (ones (job1 (vecD 1 0 2 0 0 0 0 3 (hnd 3 0) 0x3F800000 0 (hnd 3 64)))) :=
  ⟨runs (h (.mvpMatvec 7) 7 enMVP 1 (fun d => dOpcode d == opMVP_MATVEC) _ (ones (job1 mvS)) (by decide) (by decide) (by decide) rfl (by decide) (by simp)),
    runs (h (.mxaStream 7 1) 7 3 1 (fun d => dOpcode d == opMXA_STREAM && decide ((arr strD).arrayNeed (jb strD) ≤ (arr strD).level 7 1)) (jb strD) (arr strD) (by decide) (by decide) (by decide) rfl (by decide) (by simp [enMXA0])),
    runs (h (.sub 7) 7 enVEC 1 (fun d => dOpcode d == opVEC_OP && (vecOf d).func == fnSUB) _ (ones (job1 (vecD 1 0 2 0 0 0 0 3 (hnd 3 0) 0x3F800000 0 (hnd 3 64)))) (by decide) (by decide) (by decide) rfl (by decide) (by simp))⟩

theorem test_meets_ChecksStopDescriptorsBeforeTheyWrite (h : Obligations.ChecksStopDescriptorsBeforeTheyWrite) :
    Runs (.mvpMatvec 7) (ones (job1 mvBadD)) ∧
    Runs (.mxaStream 7 1) (ones (job1 (strD + pk [(32, 4096)]))) ∧
    Runs (.winFeed 7) (ones (job1 (dsc 0x20 5))) :=
  ⟨runs (h (.mvpMatvec 7) 7 1 enMVP opMVP_MATVEC (mvFieldBad mvBadD || Bool.not ((ones (job1 mvBadD)).jBounds (jb mvBadD) (mvRegions (jb mvBadD)))) _ (ones (job1 mvBadD)) (by decide) (by decide) (by decide) rfl (by decide) (by decide) (by simp; rfl)),
    runs (h (.mxaStream 7 1) 7 1 3 opMXA_STREAM ((ones (job1 (strD + pk [(32, 4096)]))).arrayStop (jb (strD + pk [(32, 4096)]))).isSome _ (ones (job1 (strD + pk [(32, 4096)]))) (by decide) (by decide) (by decide) rfl (by decide) (by decide) (by simp [enMXA0]; rfl)),
    runs (h (.winFeed 7) 7 1 enWIN opWIN_FEED (Bool.not false) _ (ones (job1 (dsc 0x20 5))) (by decide) (by decide) (by decide) rfl (by decide) (by decide) (by simp))⟩

theorem test_meets_ArraysAndMvpWriteTheirSums (h : Obligations.ArraysAndMvpWriteTheirSums) :
    Runs (.mxaStream 7 1) (arr strD) ∧
    Runs (.mxaThrough 7 1) (arr thrD) ∧
    Runs (.mxaPacked 7 1) (arr pakD) ∧
    Runs (.mvpMatvec 7) (ones (job1 mvS)) ∧
    Runs (.mvpMatvec 7) (ones (job1 mvQ)) :=
  ⟨runs (h.1 (.mxaStream 7 1) 7 1 opMXA_STREAM _ _ (arr strD) ⟨by decide, by decide, by decide⟩ (by decide) (by decide) (by decide) rfl (by decide) (by decide) (by simp) (by decide) (by decide) rfl (by decide) (by decide) (by decide)),
    runs (h.1 (.mxaThrough 7 1) 7 1 opMXA_THROUGH _ _ (arr thrD) ⟨by decide, by decide, by decide⟩ (by decide) (by decide) (by decide) rfl (by decide) (by decide) (by simp) (by decide) (by decide) rfl (by decide) (by decide) (by decide)),
    runs (h.1 (.mxaPacked 7 1) 7 1 opMXA_PACKED _ _ (arr pakD) ⟨by decide, by decide, by decide⟩ (by decide) (by decide) (by decide) rfl (by decide) (by decide) (by simp) (by decide) (by decide) rfl (by decide) (by decide) (by decide)),
    runs (h.2 7 _ _ _ (ones (job1 mvS)) ⟨by decide, by decide, by decide⟩ (by decide) (by decide) rfl rfl (by decide) (by decide) (by decide) (by decide) (by decide) (by decide) (by decide) (first rfl) rfl),
    runs (h.2 7 _ _ _ (ones (job1 mvQ)) ⟨by decide, by decide, by decide⟩ (by decide) (by decide) rfl rfl (by decide) (by decide) (by decide) (by decide) (by decide) (by decide) (by decide) (first rfl) rfl)⟩

theorem test_meets_VecWritesItsFunctions (h : Obligations.VecWritesItsFunctions) :
    Runs (.sub 7) (ones (job1 (vecD 1 0 2 0 0 0 0 4 (hnd 3 0) 0x3F800000 0 (hnd 3 64)))) ∧
    Runs (.fma 7) (ones (job1 (vecD 3 0 1 2 0 0 1 4 (hnd 3 0) (hnd 2 0) 0x3F800000 (hnd 3 64)  + pk [(24, 2)]))) ∧
    Runs (.slotAdd 7) (ones (job1 (vecD 12 2 0 0 2 0 2 2 (hnd 4 4) (hnd 4 5) 0 (hnd 4 64)))) ∧
    Runs (.reduceSum 7) (ones (job1 (vecD 14 0 0 0 0 0 0 8 (hnd 3 0) 0 0 (hnd 3 64)))) ∧
    Runs (.curveLoad 7) (crvS (vecD 16 0 0 0 0 0 0 0 (hnd 3 0) 0 0 0 + pk [(16, 96)]) true) ∧
    Runs (.curveLoad 7) (crvS (vecD 16 0 0 0 0 0 0 0 (hnd 3 0) 0 0 0 + pk [(16, 96)]) false) ∧
    Runs (.curve 7) (withCurve ((job1 (vecD 10 0 0 0 0 0 0 2 (hnd 3 0) 0 0 (hnd 3 64) + pk [(16, 96)])).writeLE (asp 0) 8 0x3FC000003F800000)) :=
  ⟨runs (h.1 (.sub 7) 7 fnSUB _ _ _ (ones (job1 (vecD 1 0 2 0 0 0 0 4 (hnd 3 0) 0x3F800000 0 (hnd 3 64)))) ⟨by decide, by decide, by decide⟩ (by decide) (by decide) rfl (by decide) rfl rfl (by simp) (by decide) (by decide) (by decide) (by decide) (by decide) (by decide) (first rfl) rfl),
    runs (h.1 (.fma 7) 7 fnFMA _ _ _ (ones (job1 (vecD 3 0 1 2 0 0 1 4 (hnd 3 0) (hnd 2 0) 0x3F800000 (hnd 3 64)  + pk [(24, 2)]))) ⟨by decide, by decide, by decide⟩ (by decide) (by decide) rfl (by decide) rfl rfl (by simp) (by decide) (by decide) (by decide) (by decide) (by decide) (by decide) (first rfl) rfl),
    runs (h.1 (.slotAdd 7) 7 fnSLOT_ADD _ _ _ (ones (job1 (vecD 12 2 0 0 2 0 2 2 (hnd 4 4) (hnd 4 5) 0 (hnd 4 64)))) ⟨by decide, by decide, by decide⟩ (by decide) (by decide) rfl (by decide) rfl rfl (by simp) (by decide) (by decide) (by decide) (by decide) (by decide) (by decide) (first rfl) rfl),
    runs (h.1 (.reduceSum 7) 7 fnREDUCE_SUM _ _ _ (ones (job1 (vecD 14 0 0 0 0 0 0 8 (hnd 3 0) 0 0 (hnd 3 64)))) ⟨by decide, by decide, by decide⟩ (by decide) (by decide) rfl (by decide) rfl rfl (by simp) (by decide) (by decide) (by decide) (by decide) (by decide) (by decide) (first rfl) rfl),
    runs ((h.2 7 4 _ _ _ _ _ (crvS (vecD 16 0 0 0 0 0 0 0 (hnd 3 0) 0 0 0 + pk [(16, 96)]) true) (by decide) (by decide) (by decide) rfl (by decide) rfl (by decide) (by decide) (by decide) rfl rfl (by decide) rfl (by decide) (by decide)).1 (by decide) (by decide) (by decide) (by decide) (by decide)),
    runs ((h.2 7 4 _ _ _ _ _ (crvS (vecD 16 0 0 0 0 0 0 0 (hnd 3 0) 0 0 0 + pk [(16, 96)]) false) (by decide) (by decide) (by decide) rfl (by decide) rfl (by decide) (by decide) (by decide) rfl rfl (by decide) rfl (by decide) (by decide)).2 (by decide)),
    runs (h.1 (.curve 7) 7 fnCURVE _ _ _ (withCurve ((job1 (vecD 10 0 0 0 0 0 0 2 (hnd 3 0) 0 0 (hnd 3 64) + pk [(16, 96)])).writeLE (asp 0) 8 0x3FC000003F800000)) ⟨by decide, by decide, by decide⟩ (by decide) (by decide) rfl (by decide) rfl rfl (by simp) (by decide) (by decide) (by decide) (by decide) (by decide) (by decide) (first rfl) rfl)⟩

theorem test_meets_QntConvertsAndAdapts (h : Obligations.QntConvertsAndAdapts) :
    Runs (.qntConvert 7) (slots8 (job1 qnW12)) ∧
    Runs (.qntConvert 7) (slots8 (job1 qnCode)) ∧
    Runs (.qntConvert 7) stSt ∧
    Runs (.qntAdapt 7) adS :=
  ⟨runs (h.1 7 2 _ _ 0 _ _ _ (slots8 (job1 qnW12)) ⟨by decide, by decide, by decide⟩ (by decide) (by decide) rfl (by decide) rfl (by decide) (by decide) (by decide) (by decide) (by decide) (by decide) (by decide) (by decide) (by decide) (first rfl) rfl rfl (by decide) (by decide) rfl),
    runs (h.1 7 4 _ _ 3 _ _ _ (slots8 (job1 qnCode)) ⟨by decide, by decide, by decide⟩ (by decide) (by decide) rfl (by decide) rfl (by decide) (by decide) (by decide) (by decide) (by decide) (by decide) (by decide) (by decide) (by decide) (first rfl) rfl rfl (by decide) (by decide) rfl),
    runs (h.1 7 4 _ _ (-2) _ _ _ stSt ⟨by decide, by decide, by decide⟩ (by decide) (by decide) rfl (by decide) rfl (by decide) (by decide) (by decide) (by decide) (by decide) (by decide) (by decide) (fun _ => ⟨(by decide), (by decide), false, (by decide)⟩) (by decide) (first rfl) rfl rfl (by decide) (by decide) rfl),
    runs (h.2 7 2 3 _ _ _ _ _ _ adS ⟨by decide, by decide, by decide⟩ (by decide) (by decide) rfl (by decide) (by decide) (by decide) rfl (by decide) (by decide) (by decide) (by decide) (by decide) (by decide) rfl rfl rfl rfl rfl (by decide) (by decide) (by decide) (by decide) rfl (by decide) (by decide) (by decide) (first rfl))⟩

theorem test_meets_WinFeedsAndRegroups (h : Obligations.WinFeedsAndRegroups) :
    Runs (.winFeed 7) (fdS 0) ∧
    Runs (.winFeed 7) (fdS 1) ∧
    Runs (.winRegroup 7) rgS :=
  ⟨runs2 (h.1 7 _ _ _ _ (fdS 0) (by decide) (by decide) rfl (by decide) (by decide) rfl (by decide) (.inl (by decide)) rfl rfl),
    runs2 (h.1 7 _ _ _ _ (fdS 1) (by decide) (by decide) rfl (by decide) (by decide) rfl (by decide) (.inr (by decide)) rfl rfl),
    runs (h.2 7 _ _ _ _ rgS ⟨by decide, by decide, by decide⟩ (by decide) (by decide) rfl (by decide) rfl rfl rfl (by decide) (by decide) (by decide) (by decide) (by decide) (.inl (by decide)) (by decide) (by decide) (first rfl))⟩

theorem test_meets_RoiWritesItsOutputs (h : Obligations.RoiWritesItsOutputs) :
    Runs (.windowPooling 7) (roW 0) ∧
    Runs (.windowPooling 7) (roW 1) ∧
    Runs (.boxPooling 7) (roP 2) ∧
    Runs (.cropAndResize 7) (roP 3) :=
  ⟨runs (h (.windowPooling 7) 7 roiWINDOW _ _ _ _ _ (roW 0) ⟨by decide, by decide, by decide⟩ (by decide) (by decide) (by decide) rfl (by decide) (by simp) (by decide) (by decide) rfl (by decide) (by decide) (by decide) (by decide) (by decide) (by decide) (by decide) (by decide) (by decide) (by decide) rfl rfl rfl),
    runs (h (.windowPooling 7) 7 roiWINDOW _ _ _ _ _ (roW 1) ⟨by decide, by decide, by decide⟩ (by decide) (by decide) (by decide) rfl (by decide) (by simp) (by decide) (by decide) rfl (by decide) (by decide) (by decide) (by decide) (by decide) (by decide) (by decide) (by decide) (by decide) (by decide) rfl rfl rfl),
    runs (h (.boxPooling 7) 7 roiBOX _ _ _ _ _ (roP 2) ⟨by decide, by decide, by decide⟩ (by decide) (by decide) (by decide) rfl (by decide) (by simp) (by decide) (by decide) rfl (by decide) (by decide) (by decide) (by decide) (by decide) (by decide) (by decide) (by decide) (by decide) (by decide) rfl rfl rfl),
    runs (h (.cropAndResize 7) 7 roiCROP _ _ _ _ _ (roP 3) ⟨by decide, by decide, by decide⟩ (by decide) (by decide) (by decide) rfl (by decide) (by simp) (by decide) (by decide) rfl (by decide) (by decide) (by decide) (by decide) (by decide) (by decide) (by decide) (by decide) (by decide) (by decide) rfl rfl rfl)⟩

end Gf

/-! ### Movers, scratchpads, windows -/

namespace Gg

def blk : Nat := pk [(0, hnd 3 100), (4, hnd 2 7), (8, 40), (16, 2), (18, 1), (20, 1), (24, 4), (36, 5)]
def mvD (wi wo : Nat) : Nat := dsc 0x40 9 (pk [(2, 77), (4, 9), (16, hnd 3 0), (20, 1), (24, wi), (28, wo)])
def mvSt : State := ((job1 (mvD 0 0)).writeLE (asp 0) 64 blk).writeLE (asp 100) 40 0xDEADBEEF12345
def wayH (w : Nat) : Nat := hnd 5 w
def blkW : Nat := pk [(4, hnd 2 7), (8, 40), (12, 2), (16, 1), (18, 1), (20, 1)]
def wayS : State :=
  ((ringAt (((job1 (mvD (wayH 65535) 0)).writeLE (asp 0) 64 blkW).modFlight ⟨65535, 0, 1⟩ (fun f => { f with stage := .running })) 65535 4 4 3 2).writeLE 256 8 0x0000_01_00_00000040).modCore 7 (fun k => { k with mover := some ⟨[blkW], 0, 0, false, [], false⟩ })
def outS : State :=
  ringAt ((job1 (mvD 0 (wayH 65535))).modFlight ⟨65535, 0, 1⟩ (fun f => { f with stage := .moved, entry := some ⟨0xFFFFFFFF, 9, 0⟩ })) 65535 4 4 3 2
def taskS : State := (live.fset CORE_TASKn_BOUND_ENABLE 1 7 15).fset CORE_TASKn_BASE_WSP_ROW 3 7 15 |>.fset CORE_TASKn_BOUND_WSP_ROW 5 7 15
def relS : State := taskS.modCore 7 (fun k => { k with release := [15] })
def zerS : State :=
  ((taskS.writeLE (spAddr 7 spWSP 384) 8 0xFFFF).fset CORE_TASK_ZEROING_ZEROING 0x8000 7).modCore 7 (fun k => { k with zeroing := [⟨15, [3, 0, 0], [5, 0, 0]⟩] })
def phS : State := live.modCore 7 (fun k => { k with packhorse := [⟨rowAddr 7 3 65535, List.replicate 128 7, 0xFF, 0, none, [], 0⟩] })
def coS : State := live.modCore 7 (fun k => { k with corrections := [[], [⟨spAddr 7 3 8, 77, true⟩], []] })
def scS : State := live.fset SP_SCRUB_CTRL_ENABLE 1 7
def wa (w : Nat) (wr : Bool) (o : Nat) : Access :=
  { width := w, write := wr, addr := windowBase + 0x400_0000 * 7 + o, value := 0x1122334455667788 }
def wcS : State := { live.fset SYS_WCk_CTRL_INVALIDATING 1 1 |>.fset SYS_WCk_CTRL_ENABLE 1 1 with wc := [[], [(0, [1])]] }

theorem test_meets_MoversCopyTakeAndPut (h : Obligations.MoversCopyTakeAndPut) :
    Runs (.movStream 7) mvSt ∧
    Runs (.movWayInTake 7) wayS ∧
    Runs (.movWayOutPut 7) outS :=
  ⟨runs (h.1 7 _ _ _ mvSt ⟨by decide, by decide, by decide⟩ (by decide) (by decide) (by decide) (by decide) rfl (by decide) (by decide) rfl (by decide) (by decide) (by decide) (by decide) rfl (by decide) ⟨by simp only [rangesApart]; decide, by simp only [rangesApart]; decide⟩ (by decide) (by decide) (by decide) (by decide) (by decide) (by decide)),
    runs (h.2.1 7 _ _ ⟨64, 0, 0⟩ wayS (by decide) (by decide) rfl (by decide) (by decide) (by decide) (by decide)),
    runs2 (h.2.2 7 _ _ _ outS ⟨by decide, by decide, by decide⟩ (by decide) (by decide) rfl rfl (by decide) (by decide) (by decide) (by decide) rfl)⟩

theorem test_meets_TasksAreReleasedAndZeroed (h : Obligations.TasksAreReleasedAndZeroed) :
    Runs (.taskRelease 8 7 0x8001) taskS ∧
    Runs (.zeroingBegin 7 15) relS ∧
    Runs (.zeroingComplete 7 15) zerS :=
  ⟨runs (h.1 8 7 0x8001 taskS (by decide) (by decide) ⟨by decide, by decide, by decide⟩),
    runs2 (h.2.1 7 15 relS (by decide) (by decide) (by decide) (by decide) (by decide) (by decide) (by decide) (by decide)),
    runs (h.2.2 7 15 _ zerS ⟨by decide, by decide, by decide⟩ (by decide) (by decide) (by decide) (by decide) rfl)⟩

theorem test_meets_ScratchpadServiceCommandsAct (h : Obligations.ScratchpadServiceCommandsAct) :
    Runs (.packhorseDrain 7 (rowAddr 7 3 65535)) phS ∧
    Runs (.correctionWriteBack 7 3) coS ∧
    Runs (.scrubRead 7 4 63) scS ∧
    Runs (.eccInjectArm 8 7 0xFFFF) live :=
  ⟨runs (h.1 7 3 65535 _ phS ⟨by decide, by decide, by decide⟩ (by decide) (by decide) (by decide) (by decide) (by decide) rfl (by decide) (by decide)),
    runs (h.2.1 7 3 1 _ _ coS ⟨by decide, by decide, by decide⟩ (by decide) (by decide) (by decide) (by decide) rfl (by decide) (by decide)),
    runs (h.2.2.1 7 4 63 _ scS (by decide) (by decide) (by decide) (by decide) (by decide) (by decide) (by decide) rfl (by decide)),
    runs (h.2.2.2 8 7 0xFFFF live (by decide) ⟨by decide, by decide, by decide⟩)⟩

theorem test_meets_WindowAndWeightCacheCommandsAct (h : Obligations.WindowAndWeightCacheCommandsAct) :
    Runs (.scratchpadWindowAccess 8 (wa 8 true 0x10003F8)) live ∧
    Runs (.scratchpadWindowAccess 8 (wa 2 false 0x10003F8)) live ∧
    Runs (.scratchpadWindowAccess 8 (wa 2 false 0x10003F9)) live ∧
    Runs (.scratchpadWindowAccess 8 (wa 8 false 0x3FFFFF8)) live ∧
    Runs (.wcInvalidate 8 1 2) wcS ∧
    Runs (.wcInvalidate 8 1 1) wcS ∧
    Runs (.wcInvalidateDone 1) wcS ∧
    Runs (.linkReplay 2 4096 true) (live.fset D2D_Ln_STATUS_UP 1 2) ∧
    Runs (.linkReplay 2 4096 false) (live.fset D2D_Ln_STATUS_UP 1 2) :=
  ⟨runs (((h.1 8 7 0x10003F8 3 0x3F8 (wa 8 true 0x10003F8) live ⟨by decide, by decide, by decide⟩ (by decide) (by decide) (by decide) (by decide) (by decide) rfl (by decide) (by decide) (path (by decide))).1 (by decide) (by decide) (by decide) (by decide)).1 (by decide)),
    runs (((h.1 8 7 0x10003F8 3 0x3F8 (wa 2 false 0x10003F8) live ⟨by decide, by decide, by decide⟩ (by decide) (by decide) (by decide) (by decide) (by decide) rfl (by decide) (by decide) (path (by decide))).1 (by decide) (by decide) (by decide) (by decide)).2 (by decide) (by decide)),
    runs ((h.1 8 7 0x10003F9 3 0x3F9 (wa 2 false 0x10003F9) live ⟨by decide, by decide, by decide⟩ (by decide) (by decide) (by decide) (by decide) (by decide) rfl (by decide) (by decide) (path (by decide))).2 (.inr (.inl (by decide)))),
    runs ((h.1 8 7 0x3FFFFF8 3 0 (wa 8 false 0x3FFFFF8) live ⟨by decide, by decide, by decide⟩ (by decide) (by decide) (by decide) (by decide) (by decide) rfl (by decide) (by decide) (path (by decide))).2 (.inr (.inr (by decide)))),
    runs (h.2.1 8 1 2 wcS (by decide) ⟨by decide, by decide, by decide⟩),
    runs (h.2.1 8 1 1 wcS (by decide) ⟨by decide, by decide, by decide⟩),
    runs (h.2.2.1 1 wcS (by decide) (by decide) (by decide)),
    runs (h.2.2.2 2 4096 true (live.fset D2D_Ln_STATUS_UP 1 2) (by decide) (by decide) (by decide) (by decide)),
    runs (h.2.2.2 2 4096 false (live.fset D2D_Ln_STATUS_UP 1 2) (by decide) (by decide) (by decide) (by decide))⟩

end Gg

/-! ### Cameras -/

namespace Gi

def cam (w h : Nat) : State :=
  ((((((live.fset CSIn_CTRL_ENABLE 1 3).fset ISPn_Sv_FORMAT_DT 0x2A 3 3).fset ISPn_Sv_FORMAT_MONO 1 3 3).fset ISPn_Sv_FORMAT_WIDTH w 3 3).fset ISPn_Sv_FORMAT_HEIGHT h 3 3).fset ISPn_Sv_OUT_OUT_W w 3 3).fset ISPn_Sv_OUT_OUT_H h 3 3
def camWays (w h : Nat) : State :=
  ringAt (ringAt (cam w h |>.fset ISPn_Sv_WAY_FREE_WAY 65535 3 3 |>.fset ISPn_Sv_WAY_OUT_WAY 65534 3 3) 65535 4 4 3 2) 65534 64 4 3 2
def camOn (w h : Nat) : State := (camWays w h).fset ISPn_Sv_STATUS_ENABLED 1 3 3 |>.rset CSIn_VC_MAP 0x1F030201 3
def frm (ls : List (List Byte)) : IspFrame := ⟨7, 9, 1, 2, 500, ls, List.replicate 7 none, false, true, some 1024, none⟩
def inFrame (s : State) (ls : List (List Byte)) : State := s.modStream 3 3 (fun x => { x with frame := some (frm ls) })
def pkt (bad : Bool) : CsiPacket := ⟨31, 0x2A, [1, 2, 3, 4], false, false, bad⟩
def skw : State := (live.fset CSIn_CTRL_ENABLE 1 3).fset CSIn_CTRL_DESKEW 1 3
def pushed (b : Nat) : State :=
  ((cam 32 2).writeLE 320 32 (pk [(0, 0), (1, b), (2, 55), (4, 16)])).modPort 3 (fun p => { p with push := some (10, 3, 77) })
def outQ (h : Option (List Byte)) : State :=
  (camOn 4 2).modStream 3 3 (fun x => { x with outQ := [⟨2048, 9, none, true⟩, ⟨1024, 9, h, true⟩] })

theorem test_meets_CameraPacketsBuildFrames (h : Obligations.CameraPacketsBuildFrames) :
    Runs (.csiFrameStart 3 30 ⟨9, true⟩) (camOn 4 2) ∧
    Runs (.csiFrameStart 3 31 ⟨9, false⟩) (camOn 4 2) ∧
    Runs (.csiLongPacket 3 (pkt false)) (inFrame (camOn 4 2) []) ∧
    Runs (.csiLongPacket 3 (pkt true)) (inFrame (camOn 4 2) []) ∧
    Runs (.csiFrameEnd 3 31 ⟨9, false⟩) (inFrame (camOn 4 2) [[1, 2, 3, 4]]) ∧
    Runs (.csiFrameEnd 3 31 ⟨9, false⟩) (inFrame (camOn 4 2) [[1, 2, 3, 4], [5, 6, 7, 8]]) ∧
    Runs (.frameTimeout 3 3) ({ (inFrame (camOn 4 2) []).fset ISPn_Sv_CTRL_MAX_FRAME_US 1 3 3 with refTick := 626 }) :=
  ⟨runs ((h.1 3 30 9 3 true (camOn 4 2) (by decide) (by decide) (by decide) (by decide) (by decide)).1 (by decide)),
    runs2 ((h.1 3 31 9 3 false (camOn 4 2) (by decide) (by decide) (by decide) (by decide) (by decide)).2 (by decide) (by decide) (by decide)),
    runs2 ((h.2.1 3 3 (pkt false) _ (inFrame (camOn 4 2) []) (by decide) (by decide) (by decide) (by decide) (by decide) rfl).1 (by decide) (by decide) (by decide) (by decide) (by decide)),
    runs ((h.2.1 3 3 (pkt true) _ (inFrame (camOn 4 2) []) (by decide) (by decide) (by decide) (by decide) (by decide) rfl).2 (by decide)),
    runs2 (h.2.2.1 3 31 9 3 1024 false _ (inFrame (camOn 4 2) [[1, 2, 3, 4]]) ⟨by decide, by decide, by decide⟩ (by decide) (by decide) (by decide) rfl (by decide) (by decide) (by decide)),
    runs2 (h.2.2.1 3 31 9 3 1024 false _ (inFrame (camOn 4 2) [[1, 2, 3, 4], [5, 6, 7, 8]]) ⟨by decide, by decide, by decide⟩ (by decide) (by decide) (by decide) rfl (by decide) (by decide) (by decide)),
    runs (h.2.2.2 3 3 _ _ { (inFrame (camOn 4 2) []).fset ISPn_Sv_CTRL_MAX_FRAME_US 1 3 3 with refTick := 626 } (by decide) (by decide) (by decide) rfl (by decide) rfl (by decide))⟩

theorem test_meets_CameraPortEventsShow (h : Obligations.CameraPortEventsShow) :
    Runs (.byteClkMeasure 3 0xFFFFFFFFFF) skw ∧
    Runs (.csiSkewCalibration 3 true) skw ∧
    Runs (.csiClockLaneModeChange 3 true) skw :=
  ⟨runs ((h 3 0xFFFFFFFFFF true skw (by decide) (by decide)).1),
    runs ((h 3 0 true skw (by decide) (by decide)).2.1 (by decide) (by decide)),
    runs ((h 3 0 true skw (by decide) (by decide)).2.2)⟩

theorem test_meets_ImageStreamsEnableAndDeliver (h : Obligations.ImageStreamsEnableAndDeliver) :
    Runs (.ispStreamEnable 8 3 3 0x1FFFFFFFFFFFFFF) (camWays 32 2) ∧
    Runs (.ispStreamEnable 8 3 3 1) (camWays 32 1) ∧
    Runs (.ispStreamDisable 8 3 3 1) (inFrame (camOn 4 2) []) ∧
    Runs (.ispParamPush 8 3 0xFFFFFFFF 3) live ∧
    Runs (.ispParamPush 8 3 0xFFFFFFFF 3) (pushed 0) ∧
    Runs (.ispParamCheckDone 3) (pushed 0) ∧
    Runs (.ispParamCheckDone 3) (pushed 1) ∧
    Runs (.ispFrameDeliver 3 3) (outQ (some [1, 2, 3])) ∧
    Runs (.ispEntryPut 3 3) (outQ none) :=
  ⟨runs ((h.1 8 3 3 0x1FFFFFFFFFFFFFF (camWays 32 2) (by decide) (by decide) ⟨by decide, by decide, by decide⟩ (by decide) (by decide)).1 (by decide)),
    runs ((h.1 8 3 3 1 (camWays 32 1) (by decide) (by decide) ⟨by decide, by decide, by decide⟩ (by decide) (by decide)).1 (by decide)),
    runs ((h.1 8 3 3 1 (inFrame (camOn 4 2) []) (by decide) (by decide) ⟨by decide, by decide, by decide⟩ (by decide) (by decide)).2 (by decide)),
    runs ((h.2.1 8 3 0xFFFFFFFF 3 live (by decide) ⟨by decide, by decide, by decide⟩ (by decide)).1 (by decide)),
    runs ((h.2.1 8 3 0xFFFFFFFF 3 (pushed 0) (by decide) ⟨by decide, by decide, by decide⟩ (by decide)).2 (by decide)),
    runs (h.2.2.1 3 10 3 77 _ _ (pushed 0) (by decide) (by decide) (by decide) (by decide) (by decide) (by decide) rfl rfl),
    runs (h.2.2.1 3 10 3 77 _ _ (pushed 1) (by decide) (by decide) (by decide) (by decide) (by decide) (by decide) rfl rfl),
    runs (h.2.2.2.1 3 3 _ _ (outQ (some [1, 2, 3])) ⟨by decide, by decide, by decide⟩ (by decide) (by decide) (by decide) (by decide) (by decide) rfl (by decide) (by decide) (by decide) ⟨by decide, by decide⟩),
    runs2 (h.2.2.2.2 3 3 _ _ _ (outQ none) ⟨by decide, by decide, by decide⟩ (by decide) (by decide) (by decide) rfl rfl (by decide) (by decide))⟩

end Gi

/-! ### Audio and codec -/

namespace Gj

def tdmS (synced : Bool) (good : Nat) : State :=
  { ((live.fset SPX_TDMp_CFG_ENABLE 1 1).fset SPX_TDMp_CFG_SLOTS 7 1).fset SPX_TDMp_CFG_RATE_HZ 48000 1 with tdm := [TdmPort.empty, ⟨synced, good, 5, 6⟩] }
def spxW (f v : Nat) : State :=
  (((tdmS true 1).rset SPX_Ff_CFG (BitVec.ofNat _ v) f).fset SPX_Ff_SCALE_LOG_SCALE 0x3F800000 f).fset SPX_Ff_SCALE_FLOOR 0x3F800000 f
def spxV : Nat := 1 + 2 + 28 + 192 + 64 * 2 ^ 24 + 1 * 2 ^ 46
def spxWay (f v : Nat) : State :=
  ringAt (ringAt ((spxW f v).fset SPX_Ff_WAY_FREE_WAY 65535 f |>.fset SPX_Ff_WAY_OUT_WAY 65534 f) 65535 4 4 3 2) 65534 64 4 3 2
def spxOn : State := (spxWay 15 spxV).fset SPX_Ff_STATUS_ENABLED 1 15
def spxTdm : State := { spxOn with tdm := [TdmPort.empty, ⟨true, 1, 5, 6⟩] }
def spxRun : State :=
  spxOn.modSpx 15 (fun x => { x with samples := List.replicate 64 ⟨0x3F800000, 0, 0, 0, 0⟩, window := List.replicate 64 0x3F800000, cur := some ⟨0, some 1024, [], 0, 0, 0, 0, 0, false⟩ })
def spxOut : State := spxOn.modSpx 15 (fun x => { x with outQ := [⟨0, some 1024, [[1]], 0, 0, 0, 0, 0, false⟩] })
def vcdW (k : Nat) : State :=
  ringAt (ringAt ((((live.fset VCD_Sn_WAY_IN_WAY 65535 15).fset VCD_Sn_WAY_IN_FREE_WAY 65534 15).fset VCD_Sn_WAY_FREE_WAY 65535 15).fset VCD_Sn_WAY_OUT_WAY 65534 15 |>.fset VCD_Sn_CTRL_KIND k 15) 65535 4 4 3 2) 65534 64 4 3 2
def vpar : List Byte := leBytes 32 (pk [(0, 1), (4, 64), (6, 64), (8, 1024), (12, 1), (16, 8)])
def vcdC (par : List Byte) (k : Nat) : State := ((vcdW k).fset VCD_Sn_PARAM_HANDLE 16 15).writeBytes 512 par
def vcdO (f : VcdSession → VcdSession) : State :=
  ((vcdC vpar 1).fset VCD_Sn_STATUS_IS_OPEN 1 15 |>.fset VCD_Sn_CTRL_OPEN 1 15).modVcd 15 (fun x => f { x with param := vpar })
def vpic : VcdPic := ⟨0, 5, 0, some 4096, 0, 300, 64, 64, 8, true, 0⟩

theorem test_meets_AudioFeaturesAreComputed (h : Obligations.AudioFeaturesAreComputed) :
    Runs (.tdmFrameSync 1 1 ⟨false, 2, 3⟩) spxTdm ∧
    Runs (.tdmFrameSync 1 256 ⟨true, 0x1_0002_FFFF, 7⟩) spxTdm ∧
    ((spxTdm.tdmPort 1).synced = true ∧ spxTdm.tdmSlots 1 * tdmBits (spxTdm.fget SPX_TDMp_CFG_SLOT_BITS 1) = 256 ∧
      spxTdm.fbit SPX_TDMp_STATUS_RATE_ERR 1 = false ∧ spxTdm.tdmSupported 1 = true ∧ spxTdm.tdmFull 1 = false) ∧
    Runs (.tdmFrameSync 1 127 ⟨true, 0, 0⟩) (tdmS true 1) ∧
    Runs (.tdmFrameSync 1 127 ⟨true, 0, 0⟩) (tdmS false 0) ∧
    Runs (.tdmRateMeasure 1 48188) (tdmS true 1) ∧
    Runs (.tdmRateMeasure 1 47812) (tdmS true 1) ∧
    Runs (.spxStreamEnable 8 15 spxV) (spxWay 15 0) ∧
    Runs (.spxStreamEnable 8 15 (spxV + 1024)) (spxWay 15 0) ∧
    Runs (.spxStreamEnable 8 15 1) live ∧
    Runs (.spxStreamDisable 8 15 (spxV - 1)) (spxOn.modSpx 15 (fun x => { x with cur := some ⟨0, some 1024, [], 0, 0, 0, 0, 0, false⟩ })) ∧
    Runs (.spxStreamDisable 8 15 (spxV - 1)) spxOn ∧
    Runs (.featureFrameCompute 15) spxRun ∧
    Runs (.spxBufferPut 15) spxOut ∧
    Runs (.spxBudgetExpiry 15) ({ spxOut.fset SPX_Ff_BUDGET_BUDGET_US 1 15 with refTick := 126 }) :=
  ⟨runsE (h.1 1 1 2 3 spxTdm (by decide)),
    runs (h.2.1 1 256 0x1_0002_FFFF 7 true spxTdm (by decide) (by decide) (by decide) (by decide) (by decide) (by decide)),
    ⟨by decide, by decide, by decide, by decide, by decide⟩,
    runs (h.2.1 1 127 0 0 true (tdmS true 1) (by decide) (by decide) (by decide) (by decide) (by decide) (by decide)),
    runs (h.2.1 1 127 0 0 true (tdmS false 0) (by decide) (by decide) (by decide) (by decide) (by decide) (by decide)),
    runs (h.2.2.1 1 48188 _ (tdmS true 1) (by decide) (by decide) (by decide) rfl),
    runs (h.2.2.1 1 47812 _ (tdmS true 1) (by decide) (by decide) (by decide) rfl),
    runs ((h.2.2.2.1 8 15 spxV _ (spxWay 15 0) (by decide) ⟨by decide, by decide, by decide⟩ (by decide) (by decide) rfl).1 (by decide) (by decide)),
    runs ((h.2.2.2.1 8 15 (spxV + 1024) _ (spxWay 15 0) (by decide) ⟨by decide, by decide, by decide⟩ (by decide) (by decide) rfl).1 (by decide) (by decide)),
    runs ((h.2.2.2.1 8 15 1 _ live (by decide) ⟨by decide, by decide, by decide⟩ (by decide) (by decide) rfl).2 (by decide)),
    runs (h.2.2.2.2.1 8 15 (spxV - 1) (spxOn.modSpx 15 (fun x => { x with cur := some ⟨0, some 1024, [], 0, 0, 0, 0, 0, false⟩ })) (by decide) ⟨by decide, by decide, by decide⟩ (by decide) (by decide)),
    runs (h.2.2.2.2.1 8 15 (spxV - 1) spxOn (by decide) ⟨by decide, by decide, by decide⟩ (by decide) (by decide)),
    runs2 (h.2.2.2.2.2.1 15 _ _ spxRun (by decide) (by decide) (by decide) (by decide) (by decide) (by decide) (by decide) rfl (by decide) rfl),
    runs2 (h.2.2.2.2.2.2.1 15 _ _ _ spxOut ⟨by decide, by decide, by decide⟩ (by decide) (by decide) rfl (by decide) rfl (by decide) (by decide) (by decide)),
    runs (h.2.2.2.2.2.2.2 15 _ _ _ { spxOut.fset SPX_Ff_BUDGET_BUDGET_US 1 15 with refTick := 126 } (by decide) (by decide) rfl (by decide) rfl (by decide) (by decide) (by decide) (by decide))⟩

theorem test_meets_CodecSessionsRunPictures (h : Obligations.CodecSessionsRunPictures) :
    Runs (.vcdSessionOpen 8 15 3) (vcdC vpar 0) ∧
    Runs (.vcdSessionOpen 8 15 5) (vcdC vpar 0) ∧
    Runs (.vcdSessionClose 8 15 2) (vcdO (fun x => x)) ∧
    Runs (.vcdSessionClose 8 15 2) (vcdO (fun x => { x with run := some vpic })) ∧
    Runs (.vcdPictureStart 15) (vcdO (fun x => x)) ∧
    Runs (.vcdPictureDone 15) (vcdO (fun x => { x with run := some vpic })) ∧
    Runs (.vcdPictureBudgetExpiry 15) ({ (vcdO (fun x => { x with run := some vpic })).fset VCD_Sn_VOID_BUDGET_US 1 15 with refTick := 1000 }) :=
  ⟨runs ((h.1 8 15 3 _ _ (vcdC vpar 0) (by decide) (by decide) ⟨by decide, by decide, by decide⟩ (by decide) (by decide) (by decide) rfl rfl).1 (by decide)),
    runs ((h.1 8 15 5 _ _ (vcdC vpar 0) (by decide) (by decide) ⟨by decide, by decide, by decide⟩ (by decide) (by decide) (by decide) rfl rfl).2 (by decide)),
    runs (h.2.1 8 15 2 (vcdO (fun x => x)) (by decide) ⟨by decide, by decide, by decide⟩ (by decide) (by decide) (by decide) (by decide)),
    runs (h.2.1 8 15 2 (vcdO (fun x => { x with run := some vpic })) (by decide) ⟨by decide, by decide, by decide⟩ (by decide) (by decide) (by decide) (by decide)),
    runs (h.2.2.1 15 _ _ _ _ _ (vcdO (fun x => x)) (by decide) (by decide) (by decide) (by decide) (by decide) rfl (by decide) (by decide) rfl rfl rfl rfl),
    runs ((h.2.2.2 15 _ (vcdO (fun x => { x with run := some vpic })) (by decide) (by decide) rfl).1 (by decide) (by decide)),
    runs ((h.2.2.2 15 _ { (vcdO (fun x => { x with run := some vpic })).fset VCD_Sn_VOID_BUDGET_US 1 15 with refTick := 1000 } (by decide) (by decide) rfl).2 _ rfl (by decide) (by decide))⟩

end Gj

/-! ### Ethernet -/

namespace Gk

def eth : State := (live.fset ETHn_CTRL_ENABLE 1 1).fset ETHn_STATUS_LINK_UP 1 1
def fr (ty : Nat) (pay : List Byte) (good : Bool) : EthFrame := ⟨live.fuses.mac, 5, none, none, none, ty, pay, good⟩
def hmpOn : State := (eth.fset ETHn_CTRL_HMP_EN 1 1).fset HMP_CFG_RAW_EN 1
def openPdu : List Byte := [1, 1, 0, 0, 0, 0, 0, 0, 0xFF, 0xFF, 0xFF, 0xFF, 8, 0, 0, 0] ++ List.replicate 30 0
def txF (sec : Bool) : TxFrame := ⟨7, none, none, 0x88B5, [], [1, 2, 3], 7, 1, sec, none⟩
def txS (sec : Bool) : State :=
  { eth with eth := [EthPort.empty, { EthPort.empty with txq := [{ txF sec with tc := 2 }, txF sec] }, EthPort.empty] }
def txSec : State :=
  ((txS true).fset ETHn_MACSEC_CTRL_TX_AN 3 1).fset ETHn_MACSEC_TXa_PN_IN_USE 1 1 3 |>.fset ETHn_MACSEC_TXa_PN_NEXT_PN 0xBFFFFFFF 1 3
def qbv : State :=
  { ((eth.fset ETHn_QBV_CYCLE_CYCLE_NS 1000 1).fset ETHn_QBV_GCLe_INTERVAL 125 1 0).fset ETHn_QBV_BASE_NS_NS 300 1 with tim := { live.tim with ns := 2000 } }
def cbS : State := { live with refTick := 12500001, hmp := { live.hmp with cb := [⟨1, 2, false, 3, 4, 1⟩] } }

theorem test_meets_EthernetReceivesAndSends (h : Obligations.EthernetReceivesAndSends) :
    Runs (.ethFrameReceive 1 (fr 0x1234 (List.replicate 46 0) false)) eth ∧
    Runs (.ethFrameReceive 1 (fr 0x1234 (List.replicate 45 0) true)) eth ∧
    Runs (.ethFrameReceive 1 (fr 0x1234 (List.replicate 46 0) true)) eth ∧
    Runs (.ethFrameReceive 1 (fr 0x88B5 openPdu true)) hmpOn ∧
    Runs (.ethLinkLoss 1) eth ∧
    Runs (.ethLinkUp 1) (live.fset ETHn_CTRL_ENABLE 1 1) ∧
    Runs (.ethFrameTransmit 1) (txS false) ∧
    Runs (.ethFrameTransmit 1) txSec ∧
    Runs (.ethFrameTransmit 1) (txSec.fset ETHn_MACSEC_TXa_PN_NEXT_PN 0 1 3) :=
  ⟨runs ((h.1 1 (fr 0x1234 (List.replicate 46 0) false) eth (by decide) (by decide) (by decide) (by decide)).1 (.inl (by decide))),
    runs ((h.1 1 (fr 0x1234 (List.replicate 45 0) true) eth (by decide) (by decide) (by decide) (by decide)).1 (.inr (.inl (by decide)))),
    runs (((h.1 1 (fr 0x1234 (List.replicate 46 0) true) eth (by decide) (by decide) (by decide) (by decide)).2 (by decide) (by decide) (by decide) (by decide) (by decide) (by decide) (by decide)).1 (by decide)),
    runs2 (((h.1 1 (fr 0x88B5 openPdu true) hmpOn (by decide) (by decide) (by decide) (by decide)).2 (by decide) (by decide) (by decide) (by decide) (by decide) (by decide) (by decide)).2 (by decide) (by decide) (by decide) (by decide) (by decide) (by decide) (by decide)),
    runs ((h.2.1 1 eth (by decide) (by decide)).1 (by decide) (by decide)),
    runs ((h.2.1 1 (live.fset ETHn_CTRL_ENABLE 1 1) (by decide) (by decide)).2 (by decide)),
    runs ((h.2.2 1 1 _ _ (txS false) (by decide) (by decide) (by decide) (by decide) (by decide) rfl rfl (by decide)).1 (by decide)),
    runs3 ((h.2.2 1 1 _ _ txSec (by decide) (by decide) (by decide) (by decide) (by decide) rfl rfl (by decide)).2.1 (by decide) (by decide)),
    runs ((h.2.2 1 1 _ _ (txSec.fset ETHn_MACSEC_TXa_PN_NEXT_PN 0 1 3) (by decide) (by decide) (by decide) (by decide) (by decide) rfl rfl (by decide)).2.2 (by decide) (by decide))⟩

theorem test_meets_EthernetPortCommandsAct (h : Obligations.EthernetPortCommandsAct) :
    Runs (.qbvCommit 8 1 1) qbv ∧
    Runs (.qbvCommit 8 1 2) (qbv.fset ETHn_QBV_GCLe_INTERVAL 1 1 1) ∧
    Runs (.qbvCycleBoundary 1) ({ qbv with eth := [EthPort.empty, { EthPort.empty with admin := some ⟨2000, 1000, [(255, 125)]⟩ }, EthPort.empty] }) ∧
    Runs (.cbRecoveryReset 1 0) cbS ∧
    Runs (.macsecKeyWrite 8 (ETHn_MACSEC_TXa_KEYw.addr 1 3 3 0) (2 ^ 64 + 5)) live ∧
    Runs (.macsecKeyWrite 8 (ETHn_MACSEC_TXa_KEYw.addr 1 3 3 0) 5) (live.fset ETHn_MACSEC_TXa_PN_IN_USE 1 1 3) ∧
    Runs (.macsecKeyWrite 8 (ETHn_MACSEC_RXc_Aa_KEYw.addr 1 7 3 3) 5) live ∧
    Runs (.macsecKeyWrite 8 (ETHn_MACSEC_RXc_Aa_KEYw.addr 1 7 3 3) 5) (live.fset ETHn_MACSEC_RXc_Aa_PN_IN_USE 1 1 7 3) ∧
    Runs (.mdioAccess 8 0xFFFFFFFF) live ∧
    Runs (.mdioDone 0x12345) ((live.fset MGT_MDIO_BUSY 1).fset MGT_MDIO_DATA 7) ∧
    Runs (.mdioDone 0x12345) ((live.fset MGT_MDIO_BUSY 1).fset MGT_MDIO_WRITE 1 |>.fset MGT_MDIO_DATA 7) :=
  ⟨runs2 ((h.1 8 1 1 _ _ _ _ qbv (by decide) (by decide) ⟨by decide, by decide, by decide⟩ rfl rfl (by decide) rfl rfl).1 (by decide) (by decide) (by decide) (by decide)),
    runs ((h.1 8 1 2 _ _ _ _ (qbv.fset ETHn_QBV_GCLe_INTERVAL 1 1 1) (by decide) (by decide) ⟨by decide, by decide, by decide⟩ rfl rfl (by decide) rfl rfl).2 (by decide)),
    runs (h.2.1 1 _ { qbv with eth := [EthPort.empty, { EthPort.empty with admin := some ⟨2000, 1000, [(255, 125)]⟩ }, EthPort.empty] } (by decide) (by decide) rfl (by decide)),
    runs (h.2.2.1 1 0 _ cbS (by decide) (by decide) (by decide) rfl (by decide) (by decide)),
    runs (h.2.2.2.1 8 1 3 3 (2 ^ 64 + 5) live (by decide) (by decide) (by decide) ⟨by decide, by decide, by decide⟩),
    runs (h.2.2.2.1 8 1 3 3 5 (live.fset ETHn_MACSEC_TXa_PN_IN_USE 1 1 3) (by decide) (by decide) (by decide) ⟨by decide, by decide, by decide⟩),
    runs (h.2.2.2.2.1 8 1 7 3 3 5 live (by decide) (by decide) (by decide) (by decide) ⟨by decide, by decide, by decide⟩),
    runs (h.2.2.2.2.1 8 1 7 3 3 5 (live.fset ETHn_MACSEC_RXc_Aa_PN_IN_USE 1 1 7 3) (by decide) (by decide) (by decide) (by decide) ⟨by decide, by decide, by decide⟩),
    runs (h.2.2.2.2.2.1 8 0xFFFFFFFF live ⟨by decide, by decide, by decide⟩),
    runs (h.2.2.2.2.2.2 0x12345 ((live.fset MGT_MDIO_BUSY 1).fset MGT_MDIO_DATA 7) (by decide) (by decide)),
    runs (h.2.2.2.2.2.2 0x12345 ((live.fset MGT_MDIO_BUSY 1).fset MGT_MDIO_WRITE 1 |>.fset MGT_MDIO_DATA 7) (by decide) (by decide))⟩

end Gk

/-! ### HMP -/

namespace Gl

def ptn : Partner := ⟨1, 5, 0, none⟩
def req (ty : Nat) (slot : Option Nat) (pay : List Byte) : HmpReq := ⟨slot, 127, ptn, ty, 0xFFFFFFFF, 0, false, pay, false, 0, 0, false⟩
def ethO : State := (live.fset ETHn_CTRL_ENABLE 1 1).fset ETHn_STATUS_LINK_UP 1 1
def hq (r : HmpReq) : State :=
  { ethO.fset HMP_SESSIONs_STATE_OPEN 1 63 with hmp := { live.hmp with queue := [r], sessions := live.hmp.sessions.set 63 { (live.hmpSession 63) with timeout := 1000 } } }
def hqFull (r : HmpReq) : State :=
  (List.range 64).foldl (fun s k => s.fset HMP_SESSIONs_STATE_OPEN 1 k) { hq r with hmp := { live.hmp with queue := [r], sessions := List.replicate 64 { (live.hmpSession 63) with timeout := 1000 } } }
def opn : HmpReq := { req 1 none (leBytes 8 500) with session := 0 }
def rq (ty : Nat) (pay : List Byte) : HmpReq := req ty (some 63) pay
def rrP : List Byte := leBytes 8 2 ++ leBytes 6 (SYS_UPTIME_US.addr 0 0 0 0) ++ [8, 0] ++ leBytes 6 1 ++ [8, 0]
def rwP : List Byte := leBytes 8 1 ++ leBytes 6 (QM_Qq_BASE.addr 65535 0 0 0) ++ [8, 0] ++ leBytes 8 0x40
def qpP : List Byte := [0xFF, 0xFF, 2, 0, 0, 0, 0, 0] ++ leBytes 64 7 ++ leBytes 64 8
def qpS (tail : Nat) : State := ringAt (hq (rq 0x20 qpP)) 65535 1 4 tail
def mgP : List Byte := [0xFF, 0x0F, 0, 0, 0, 0, 0, 0]
def mgS : State := ((hq (rq 0x30 mgP)).fset QM_MBXm_CFG_ENABLE 1 4095).fset QM_MBXm_STATE_SEQ 5 4095
def cgP : List Byte := [0, 0, 0, 0, 9, 0, 0, 0]
def cgS : State := ((hq (rq 0x31 cgP)).fset QM_COMMIT_NEXT_INDEX 2).fset QM_COMMIT_BASE_SIZE_LOG2 4
def jgS : State := (hq (rq 0x32 cgP)).fset CFG_JOURNAL_NEXT_INDEX 2
def fwS : State := { hq (rq 3 []) with refTick := 2 ^ 40, hmp := { (hq (rq 3 [])).hmp with queue := [], fw := [⟨63, rq 0x40 [], 5, false⟩] } }
def lwS : State :=
  { (ethO.fset CLK_STATUS_REF_PRESENT 1).fset HMP_LW_DA_DA 0xFFFFFFFFFFFF with refTick := 3751, hmp := { live.hmp with lastWord := some ⟨1250, 2, 0, 5, 6, 7, 8, 9⟩ } }
def lwF : State := lwS.fset FCU_STATUS_STATE 1
def ptpS : State := { ethO with tim := { live.tim with ns := 1000, ptpTx := [15] } }
def ptpM : State := ptpS.writeLE (ptpS.ptpSlot 79) 4 (1 + 40 * 2 ^ 16)

theorem test_meets_SessionsOpenAndClose (h : Obligations.SessionsOpenAndClose) :
    Runs .sessionOpen (hq opn) ∧
    Runs .sessionOpen (hqFull opn) ∧
    Runs .sessionClose (hq (rq 2 [])) ∧
    Runs .keepalive (hq (rq 3 [])) ∧
    Runs (.sessionTimeout 63) ({ hq (rq 3 []) with refTick := 125001000 + 1 }) ∧
    Runs (.hmpSessionCloseWrite 8 63) (hq (rq 3 [])) :=
  ⟨runs2 ((h.1 opn (hq opn) (by decide) (by decide) (by decide) (by decide) (by decide) (pays0 rfl (by decide)) (by decide) (by decide) (by decide) (by decide) (by decide) (by decide)).1 (by decide)),
    runs3 ((h.1 opn (hqFull opn) (by decide) (by decide) (by decide) (by decide) (by decide) (pays0 rfl (by decide)) (by decide) (by decide) (by decide) (by decide) (by decide) (by decide)).2 (by decide)),
    runs (h.2.1 (rq 2 []) 63 (hq (rq 2 [])) (by decide) (by decide) (by decide) (by decide) (by decide) (by decide) (pays0 rfl (by decide)) (by decide) (by decide)),
    runs (h.2.2.1 (rq 3 []) (hq (rq 3 [])) (by decide) (by decide) (by decide) (pays0 rfl (by decide)) (by decide) (by decide)),
    runs (h.2.2.2.1 63 { hq (rq 3 []) with refTick := 125001000 + 1 } (by decide) (by decide) (by decide)),
    runs (h.2.2.2.2 8 63 (hq (rq 3 [])) (by decide) ⟨by decide, by decide, by decide⟩)⟩

theorem test_meets_MessagesReadWriteAndPush (h : Obligations.MessagesReadWriteAndPush) :
    Runs .regRead (hq (rq 0x10 rrP)) ∧
    Runs .regWrite (hq (rq 0x11 rwP)) ∧
    Runs .queuePush (qpS 15) ∧
    Runs .mailboxGet mgS ∧
    Runs .commitGet cgS ∧
    Runs .journalGet jgS :=
  ⟨runs ((h (rq 0x10 rrP) (hq (rq 0x10 rrP)) (by decide) (by decide) (by decide) (by decide)).1 _ (by decide) (pays0 rfl (by decide)) rfl),
    runs ((h (rq 0x11 rwP) (hq (rq 0x11 rwP)) (by decide) (by decide) (by decide) (by decide)).2.1 _ (by decide) (pays0 rfl (by decide)) rfl),
    runs ((h (rq 0x20 qpP) (qpS 15) (by decide) (by decide) (by decide) (by decide)).2.2.1 _ _ _ (by decide) (paysNow rfl (by decide) (by decide)) rfl rfl),
    runs2 ((h (rq 0x30 mgP) mgS (by decide) (by decide) (by decide) (by decide)).2.2.2.1 4095 _ (by decide) (paysNow rfl (by decide) (by decide)) (by decide) (by decide) rfl),
    runs ((h (rq 0x31 cgP) cgS (by decide) (by decide) (by decide) (by decide)).2.2.2.2.1 _ _ _ _ _ (by decide) (paysNow rfl (by decide) (by decide)) rfl rfl rfl rfl rfl (by decide)),
    runs ((h (rq 0x32 cgP) jgS (by decide) (by decide) (by decide) (by decide)).2.2.2.2.2 _ _ (by decide) (pays0 rfl (by decide)) rfl rfl)⟩

theorem test_meets_FirmwareServesRequests (h : Obligations.FirmwareServesRequests) :
    Runs .modelAdmit (hq (rq 0x40 [1, 2, 3])) ∧
    Runs .firmware ((hq (rq 0x4F [1, 2, 3])).fset HMP_FW_CTRL_NEXT_SLOT 63) ∧
    Runs (.fwDone 8 63) fwS ∧
    Runs (.fwResponseTimeout 63) fwS :=
  ⟨runs (h.1 .modelAdmit (fun t => t == 0x40) (rq 0x40 [1, 2, 3]) _ (hq (rq 0x40 [1, 2, 3])) (by simp) ⟨by decide, by decide, by decide⟩ (by decide) (by decide) (by decide) (paysNow rfl (by decide) (by decide)) rfl),
    runs (h.1 .firmware (fun t => decide (0x41 ≤ t) && decide (t ≤ 0x4F)) (rq 0x4F [1, 2, 3]) _ ((hq (rq 0x4F [1, 2, 3])).fset HMP_FW_CTRL_NEXT_SLOT 63) (by simp) ⟨by decide, by decide, by decide⟩ (by decide) (by decide) (by decide) (paysNow rfl (by decide) (by decide)) rfl),
    runs (h.2.1 8 63 63 _ _ fwS (by decide) ⟨by decide, by decide, by decide⟩ rfl rfl rfl (by decide) (by decide) rfl ⟨by decide, by decide⟩),
    runs (h.2.2 63 63 _ fwS (by decide) (by decide) rfl rfl rfl (by decide) (by decide) (by decide))⟩

theorem test_meets_LastWordAndPtpFramesLeave (h : Obligations.LastWordAndPtpFramesLeave) :
    Runs (.lastWordCopy 3) lwF ∧
    Runs (.ptpTxGo 8 15) live ∧
    Runs (.ptpTxDone 15) ptpM :=
  ⟨runs (h.1 3 _ lwF (by decide) (by decide) rfl (by decide) (by decide) (by decide) (by decide)),
    runs (h.2.1 8 15 live (by decide) ⟨by decide, by decide, by decide⟩),
    runs2 (h.2.2 15 _ _ _ ptpM ⟨by decide, by decide, by decide⟩ (by decide) (by decide) (by decide) (by decide) rfl rfl (by decide) (by decide) (by decide) (by decide) rfl)⟩

end Gl

/-! ### Time -/

namespace Gm

def lk (st : Nat) : State := live.fset TIM_STATUS_STATE st
def holding : State := { lk 2 with tim := { live.tim with sec := 7, ns := 5, frac := 2 ^ 31 } }
def at7 : State := { live with tim := { live.tim with sec := 7, ns := 5, frac := 2 ^ 31 } }
def unheard : State := { lk 1 with refTick := 250000000 }
def trigOn : State := (live.fset TIM_TRIGn_CFG_PULSE_NS 200 7).fset TIM_TRIGn_PERIOD_PERIOD_NS 250000 7
def armed : State := { trigOn.fset TIM_TRIGn_CFG_ARM 1 7 with tim := { trigOn.tim with ns := 4 } }
def armedLate : State := { trigOn.fset TIM_TRIGn_CFG_ARM 1 7 with tim := { trigOn.tim with ns := 600000 } }
def pulsing : State := trigOn.modTrig 7 (fun g => { g with pulsing := true, level := true })
def timed : State := ((ringAt live 65535 1 4 3).fset TIM_CTk_CFG_ARM 1 15 |>.fset TIM_CTk_CFG_QUEUE 65535 15).fset TIM_CTk_CFG_TALLY_EN 1 15
def timedPush : State := timed.fset TIM_CTk_CFG_PUSH_EN 1 15
def timedMiss : State := timedPush.fset QM_Qq_CFG_ENABLE 0 65535
def capOn : State := (at7.fset TIM_CAPn_CFG_ENABLE 1 3).fset TIM_CAPn_CFG_EDGE 3 3 |>.fset TIM_CAPn_CFG_TALLY_EN 1 3
def capFull : State := { capOn with tim := { capOn.tim with caps := capOn.tim.caps.set 3 (List.replicate 16 ⟨1, 2, true⟩) } }

theorem test_meets_RateWritesAreLimited (h : Obligations.RateWritesAreLimited) :
    Runs (.timeRateWrite 4 0x7_FFF5_83B3) live ∧
    Runs (.timeRateWrite 8 0x8_1000_0001) live ∧
    Runs (.timeRateWrite 8 0x7_EFFF_FFFF) live ∧
    (at7.tick.tim.inc = at7.fget TIM_RATE_INCREMENT ∧
      at7.tick.tim.total * 2 ^ 32 + at7.tick.tim.frac = at7.tim.total * 2 ^ 32 + at7.tim.frac + at7.tim.inc) :=
  ⟨runs (h.2.2.2.1 4 0x7_FFF5_83B3 live ⟨by decide, by decide, by decide⟩ (by decide) (by decide)),
    runs (h.2.2.2.1 8 0x8_1000_0001 live ⟨by decide, by decide, by decide⟩ (by decide) (by decide)),
    runs (h.2.2.2.1 8 0x7_EFFF_FFFF live ⟨by decide, by decide, by decide⟩ (by decide) (by decide)),
    h.2.2.2.2 at7 (by decide) (by decide) (by decide) (by decide) (by decide) (by decide)⟩

theorem test_meets_TimeIsSetHeldAndRead (h : Obligations.TimeIsSetHeldAndRead) :
    (∃ t, step at7 = .next t) ∧
    Runs (.timeSet 4 999999999) live ∧
    Runs (.timeSet 4 1000000000) live ∧
    Runs (.timeSet 4 7) (lk 2) ∧
    Runs (.timeStep 8 (2 ^ 40 - 6000)) at7 ∧
    Runs (.timeStep 8 5) holding ∧
    Runs (.timeKick 8) live ∧
    Runs (.timeNowRead 8) at7 ∧
    Runs (.timLock 8) live ∧
    Runs (.timHold 8) (lk 1) ∧
    Runs (.timRelease 8) holding ∧
    Runs .syncTimeout unheard :=
  ⟨(h.1 at7 (by decide)).elim fun t h => ⟨t, h.1⟩,
    runs ((h.2.1 4 999999999 live ⟨by decide, by decide, by decide⟩ (by decide)).1 (by decide) (by decide)),
    runs ((h.2.1 4 1000000000 live ⟨by decide, by decide, by decide⟩ (by decide)).2 (by decide)),
    runs ((h.2.1 4 7 (lk 2) ⟨by decide, by decide, by decide⟩ (by decide)).2 (by decide)),
    runs ((h.2.2.1 8 (2 ^ 40 - 6000) at7 ⟨by decide, by decide, by decide⟩).1 (by decide)),
    runs ((h.2.2.1 8 5 holding ⟨by decide, by decide, by decide⟩).2 (by decide)),
    runs (h.2.2.2.1 8 live ⟨by decide, by decide, by decide⟩),
    runs (h.2.2.2.2.1 8 at7 ⟨by decide, by decide, by decide⟩),
    runs ((h.2.2.2.2.2.1 8 live ⟨by decide, by decide, by decide⟩).1),
    runs ((h.2.2.2.2.2.1 8 (lk 1) ⟨by decide, by decide, by decide⟩).2.1),
    runs ((h.2.2.2.2.2.1 8 holding ⟨by decide, by decide, by decide⟩).2.2),
    runs (h.2.2.2.2.2.2 unheard (by decide) (by decide) (by decide) (by decide))⟩

theorem test_meets_TriggersTimersAndCapturesAct (h : Obligations.TriggersTimersAndCapturesAct) :
    Runs (.triggerArm 8 7 0x32_0000_C802) trigOn ∧
    Runs (.triggerArm 8 7 0x0702) trigOn ∧
    Runs (.triggerDisarm 8 7 (armed.rword TIM_TRIGn_CFG 7).toNat) armed ∧
    Runs (.triggerFire 7) armed ∧
    Runs (.triggerFire 7) armedLate ∧
    Runs (.triggerPulseEnd 7) pulsing ∧
    Runs (.controlTimerArm 8 15 0x3_0000_0006) live ∧
    Runs (.controlTimerFire 15) timed ∧
    Runs (.controlTimerFire 15) timedMiss ∧
    Runs (.controlTimerFire 15) timedPush ∧
    Runs (.captureEdge 3 true) capOn ∧
    Runs (.captureEdge 3 false) capFull ∧
    Runs (.capturePop 8 3) capFull ∧
    Runs (.capturePop 8 3) capOn :=
  ⟨runs ((h.1 8 7 0x32_0000_C802 _ trigOn (by decide) (by decide) ⟨by decide, by decide, by decide⟩ (by decide) rfl).1 (by decide) (by decide) (by decide)),
    runs ((h.1 8 7 0x0702 _ trigOn (by decide) (by decide) ⟨by decide, by decide, by decide⟩ (by decide) rfl).2 (by decide)),
    runs (h.2.1 8 7 armed (by decide) (by decide) ⟨by decide, by decide, by decide⟩),
    runs (h.2.2.1 7 _ _ armed (by decide) (by decide) (by decide) (by decide) rfl rfl (by decide) (by decide) (by decide) (by decide) (by decide)),
    runs (h.2.2.1 7 _ _ armedLate (by decide) (by decide) (by decide) (by decide) rfl rfl (by decide) (by decide) (by decide) (by decide) (by decide)),
    runs (h.2.2.2.1 7 pulsing (by decide) (by decide) (by decide) (by decide) (by decide) (by decide)),
    runs (h.2.2.2.2.1 8 15 0x3_0000_0006 _ live (by decide) (by decide) ⟨by decide, by decide, by decide⟩ (by decide) rfl (by decide)),
    runs ((h.2.2.2.2.2.1 15 _ _ _ timed (by decide) (by decide) (by decide) ⟨by decide, by decide, by decide⟩ (by decide) rfl rfl (by decide) (by decide) (by decide) rfl).1 (by decide)),
    runs ((h.2.2.2.2.2.1 15 _ _ _ timedMiss (by decide) (by decide) (by decide) ⟨by decide, by decide, by decide⟩ (by decide) rfl rfl (by decide) (by decide) (by decide) rfl).2.1 (by decide) (by decide) (by decide)),
    runs2 ((h.2.2.2.2.2.1 15 _ _ _ timedPush (by decide) (by decide) (by decide) ⟨by decide, by decide, by decide⟩ (by decide) rfl rfl (by decide) (by decide) (by decide) rfl).2.2 (by decide) (by decide) (by decide) (by decide)),
    runs ((h.2.2.2.2.2.2.1 3 true _ capOn (by decide) (by decide) (by decide) (by decide) (by decide) rfl).1 (by decide)),
    runs ((h.2.2.2.2.2.2.1 3 false _ capFull (by decide) (by decide) (by decide) (by decide) (by decide) rfl).2 (by decide)),
    runs ((h.2.2.2.2.2.2.2 8 3 capFull (by decide) (by decide) ⟨by decide, by decide, by decide⟩).1 ⟨1, 2, true⟩ (List.replicate 15 ⟨1, 2, true⟩) rfl (by decide) (by decide)),
    runs ((h.2.2.2.2.2.2.2 8 3 capOn (by decide) (by decide) ⟨by decide, by decide, by decide⟩).2 rfl)⟩

end Gm

/-! ### Power -/

namespace Gn

def pw (n : Nat) : State := { live with refTick := 20000, clk := { live.clk with periodStart := 12500 + n } }
def pwS (n sum : Nat) : State := { pw n with pwr := { live.pwr with samples := 100, sum := sum, rest := 7 } }
def learn : State :=
  withWork ((pwS 0 5).fset PWR_CTRL_LEARN_EN 1 |>.fset PWR_CORE_c_PHASE 255 7) [fl 0 cbD .done] [{ cvn with begun := true }] |>.fset CLK_CORE_STEP_STEP 0xC000
def learnS : State := { learn with pwr := { learn.pwr with cores := learn.pwr.cores.set 7 ⟨0, 0, [], List.replicate 16 200000⟩ } }
def strD : Nat := dsc 0x10 3 (pk [(16, hnd 2 0), (20, hnd 3 0), (28, 2), (32, 1), (34, 64), (35, 0x11), (36, 8), (40, 512), (46, 1)])
def lvUp : State := { job1 strD with refTick := 1000 }
def thS : State := { live with refTick := 1250 }
def capS : State := live.fset PWR_CAP_CAP_MW 111000
def fixS : State := (live.fset PWR_CTRL_MODE 1).fset PWR_CTRL_FIXED_STEP 3

theorem test_meets_PowerIsMeasuredAndLimited (h : Obligations.PowerIsMeasuredAndLimited) :
    Runs (.powerSample [⟨800, 5000⟩, ⟨1100, 300⟩]) ({ live with refTick := 126 }) ∧
    Runs (.controlIntervalEnd [1000, 2, 3, 4, 5, 6, 7, 8]) (pwS 0 (40000 * 100000)) ∧
    Runs (.controlIntervalEnd [1000, 70000]) ((pwS 0 (180001 * 100000)).fset PWR_CTRL_MODE 1 |>.fset PWR_CTRL_FIXED_STEP 2) ∧
    Runs (.controlIntervalEnd [1000, 2]) ((pwS 0 (2000 * 100000)).fset FCU_STATUS_STATE 1) ∧
    Runs (.controlIntervalEnd [0, 0, 0, 0, 0, 0, 0, 9000]) learnS ∧
    Runs (.activityLevelChange 15) lvUp ∧
    Runs (.activityLevelChange 15) (live.fset PWR_RAMP_LEVEL_LEVEL (4 * 8 ^ 15 + 3)) ∧
    Runs (.thermalSample ((List.range 16).map (fun (i : Nat) => some (if i = 15 then 125000 else -40000)))) thS ∧
    Runs (.thermalSample ((List.range 16).map (fun (i : Nat) => some ((124999 : Int) - i)))) thS ∧
    Runs (.thermalSample ((List.range 16).map (fun (i : Nat) => some ((-20000 : Int) - i)))) thS ∧
    Runs (.thermalSample (List.replicate 15 (some 50000))) thS ∧
    Runs (.thermalSample (List.replicate 15 (some 50000) ++ [some 150001])) thS ∧
    Runs (.powerModeWrite 8 0xF00) live ∧
    Runs (.powerModeWrite 8 7) capS ∧
    Runs (.powerModeWrite 8 5) capS ∧
    Runs (.powerCapWrite 8 (2 ^ 18 - 1)) live ∧
    Runs (.powerCapWrite 8 111000) fixS ∧
    Runs (.powerCapWrite 8 110999) fixS ∧
    Runs (.phaseWrite 8 255 (2 ^ 64 - 1)) live :=
  ⟨runs (h.1 [⟨800, 5000⟩, ⟨1100, 300⟩] { live with refTick := 126 } (by decide) (by decide)),
    runs2 (h.2.1 [1000, 2, 3, 4, 5, 6, 7, 8] 40000 38965 (pwS 0 (40000 * 100000)) (by decide) (by decide) (by decide) (by decide) (by decide) (by decide)),
    runs2 (h.2.1 [1000, 70000] 180001 174537 ((pwS 0 (180001 * 100000)).fset PWR_CTRL_MODE 1 |>.fset PWR_CTRL_FIXED_STEP 2) (by decide) (by decide) (by decide) (by decide) (by decide) (by decide)),
    runs2 (h.2.1 [1000, 2] 2000 998 ((pwS 0 (2000 * 100000)).fset FCU_STATUS_STATE 1) (by decide) (by decide) (by decide) (by decide) (by decide) (by decide)),
    runs (h.2.2.1 [0, 0, 0, 0, 0, 0, 0, 9000] 7 _ _ _ learnS (by decide) (by decide) (by decide) (by decide) (by decide) rfl (by decide) (by decide) (by decide) (by decide) rfl (by decide) (by decide) (by decide) rfl (by decide)),
    runs (h.2.2.2.1 15 7 1 lvUp (by decide) rfl rfl (by decide) (by decide) (by decide) (by decide) (by decide)),
    runs (h.2.2.2.1 15 7 1 (live.fset PWR_RAMP_LEVEL_LEVEL (4 * 8 ^ 15 + 3)) (by decide) rfl rfl (by decide) (by decide) (by decide) (by decide) (by decide)),
    runs (h.2.2.2.2.1 (fun i => if i = 15 then 125000 else -40000) 125000 _ thS (by decide) (by decide) (by decide) (by decide) rfl),
    runs (h.2.2.2.2.1 (fun (i : Nat) => (124999 : Int) - i) 124999 _ thS (by decide) (by decide) (by decide) (by decide) rfl),
    runs (h.2.2.2.2.1 (fun (i : Nat) => (-20000 : Int) - i) (-20000) _ thS (by decide) (by decide) (by decide) (by decide) rfl),
    runs (h.2.2.2.2.2.1 (List.replicate 15 (some 50000)) 15 thS (by decide) (by decide) (by decide) (by decide) (by trivial)),
    runs (h.2.2.2.2.2.1 (List.replicate 15 (some 50000) ++ [some 150001]) 15 thS (by decide) (by decide) (by decide) (by decide) (by simp)),
    runs ((h.2.2.2.2.2.2.1 8 0xF00 _ live ⟨by decide, by decide, by decide⟩ rfl).1 (.inl (by decide))),
    runs ((h.2.2.2.2.2.2.1 8 7 _ capS ⟨by decide, by decide, by decide⟩ rfl).1 (.inr (by decide))),
    runs ((h.2.2.2.2.2.2.1 8 5 _ capS ⟨by decide, by decide, by decide⟩ rfl).2 (by decide) (by decide) (by decide)),
    runs ((h.2.2.2.2.2.2.2.1 8 (2 ^ 18 - 1) _ live ⟨by decide, by decide, by decide⟩ rfl).1 (.inl (by decide))),
    runs ((h.2.2.2.2.2.2.2.1 8 111000 _ fixS ⟨by decide, by decide, by decide⟩ rfl).1 (.inr (by decide))),
    runs ((h.2.2.2.2.2.2.2.1 8 110999 _ fixS ⟨by decide, by decide, by decide⟩ rfl).2 (by decide) (by decide)),
    runs (h.2.2.2.2.2.2.2.2 8 255 (2 ^ 64 - 1) _ live (by decide) ⟨by decide, by decide, by decide⟩ rfl)⟩

end Gn

/-! ### Faults -/

namespace Go

def rpt (id cls : Nat) : State := { live with fcu := { live.fcu with reports := [⟨id, cls, none, 0, none, false⟩] } }
def trg : State := (live.fset TIM_TRIGn_CFG_SAFE_HIGH 1 7).fset TIM_TRIGn_CFG_ARM 1 7 |>.fset FCU_LOG_NEXT_INDEX 0xFFFFFFFF
def lvl : State := { live.fset PWR_TEMP_s_BAD 1 15 with refTick := 125001, fcu := { live.fcu with levelAt := [(0x32 * 4 + 1, 1)] } }
def quiet (n : Nat) : State :=
  { live.fset FCU_STATUS_STATE 1 with refTick := 8000000000, fcu := { live.fcu with part := { FaultScope.empty with begun := (List.range n).map (fun i => 7999999999 - i), quietEnd := 8000000000 } } }
def quietC : State :=
  { live.fset FCU_CORE_STATE_STATE 0x4000 with refTick := 8000000000, fcu := { live.fcu with cores := live.fcu.cores.set 7 { FaultScope.empty with begun := [500000000, 1, 0], quietEnd := 8000000000 } } }
def rec (p : Nat) : State :=
  { (live.fset FCU_STATUS_STATE 2).fset FCU_SRC_id_WIRE 3 0x322 with refTick := 8000000000, fcu := { live.fcu with part := { FaultScope.empty with phase := p, seqStart := 1000 } } }
def recC (p : Nat) : State :=
  { (live.fset FCU_CORE_STATE_STATE 0x8000).writeLE (rowAddr 7 3 5) 8 77 with refTick := 8000000000, fcu := { live.fcu with cores := live.fcu.cores.set 7 { FaultScope.empty with phase := p } } }
def latched : State := live.fset FCU_STATUS_STATE 3

theorem test_meets_FaultsAreTakenAndFold (h : Obligations.FaultsAreTakenAndFold) :
    Runs (.faultReport 0x22 1) live ∧
    Runs (.faultReport 0x22 1) (rpt 0x22 1) ∧
    Runs (.faultReport 0x2D1 2) live ∧
    Runs (.faultReport 0x2DB 2) live ∧
    Runs (.faultReport 0x322 3) trg ∧
    Runs (.wireFault 0x2D1 2 1) live ∧
    Runs (.wireFault 0x2D1 2 1) (live.fset FCU_SRC_id_WIRE 2 0x2D1) ∧
    Runs (.levelFaultRereport 0x32 1) lvl ∧
    Runs (.faultForce 8 0x322 3) live ∧
    Runs (.faultForce 8 0x322 2) live ∧
    Runs (.faultForce 8 0xFFF 2) live ∧
    Runs (.faultInjectArm 8 0x7322) live ∧
    Runs (.faultInjectArm 8 0x4323) live ∧
    Runs (.wireTest 8 0xF322) live ∧
    Runs (.wireTest 8 0xA322) live :=
  ⟨runs ((h.1 0x22 1 _ live (by decide) (by decide) (by decide) (by decide) (by decide) (by decide) rfl).1 (by decide) (by decide) (by decide)),
    runs ((h.1 0x22 1 _ (rpt 0x22 1) (by decide) (by decide) (by decide) (by decide) (by decide) (by decide) rfl).2.1 _ (by decide) rfl),
    runs2 ((h.1 0x2D1 2 _ live (by decide) (by decide) (by decide) (by decide) (by decide) (by decide) rfl).2.2.1 (by decide) (by decide) (by decide)),
    runs ((h.1 0x2DB 2 _ live (by decide) (by decide) (by decide) (by decide) (by decide) (by decide) rfl).2.2.2.1 7 (by decide) (by decide) (by decide) (by decide) (by decide) (by decide) (by decide)),
    runs ((h.1 0x322 3 _ trg (by decide) (by decide) (by decide) (by decide) (by decide) (by decide) rfl).2.2.2.2 (by decide) (by decide) (by decide) (by decide)),
    runs ((h.2.1 0x2D1 2 1 live (by decide) (by decide) (by decide) (by decide) (by decide) (by decide)).1 (by decide) (by decide) (by decide)),
    runsE ((h.2.1 0x2D1 2 1 (live.fset FCU_SRC_id_WIRE 2 0x2D1) (by decide) (by decide) (by decide) (by decide) (by decide) (by decide)).2 (by decide)),
    runs (h.2.2.1 0x32 1 lvl (by decide) (by decide) (by decide) (by decide) rfl (by decide) (by decide) (by decide) (by decide) (by decide)),
    runs ((h.2.2.2.1 8 0x322 3 live (by decide) ⟨by decide, by decide, by decide⟩ (by decide)).1 (by decide)),
    runs ((h.2.2.2.1 8 0x322 2 live (by decide) ⟨by decide, by decide, by decide⟩ (by decide)).2 (.inr (by decide))),
    runs ((h.2.2.2.1 8 0xFFF 2 live (by decide) ⟨by decide, by decide, by decide⟩ (by decide)).2 (.inl (by decide))),
    runs ((h.2.2.2.2.1 8 0x7322 _ live ⟨by decide, by decide, by decide⟩ rfl).1 (.inr (by decide))),
    runs ((h.2.2.2.2.1 8 0x4323 _ live ⟨by decide, by decide, by decide⟩ rfl).2 (by decide) (by decide)),
    runs ((h.2.2.2.2.2 8 0xF322 _ live ⟨by decide, by decide, by decide⟩ rfl (by decide)).1 (by decide)),
    runs ((h.2.2.2.2.2 8 0xA322 _ live ⟨by decide, by decide, by decide⟩ rfl (by decide)).2 (by decide))⟩

theorem test_meets_RecoveriesRunAndLatch (h : Obligations.RecoveriesRunAndLatch) :
    Runs (.quietPeriodExpiry none) (quiet 2) ∧
    Runs (.quietPeriodExpiry (some 7)) quietC ∧
    Runs (.quietPeriodExpiry none) (quiet 3) ∧
    Runs (.recoveryPhaseComplete none []) (rec 1) ∧
    Runs (.recoveryPhaseComplete none []) (rec 2) ∧
    Runs (.recoveryPhaseComplete none []) (rec 3) ∧
    Runs (.recoveryPhaseComplete none []) (rec 4) ∧
    Runs (.recoveryPhaseComplete none []) (rec 5) ∧
    Runs (.recoveryPhaseComplete none []) (rec 6) ∧
    Runs (.recoveryPhaseComplete none [3, 8]) (rec 5) ∧
    Runs (.recoveryPhaseComplete none []) (rec 7) ∧
    Runs (.recoveryPhaseComplete (some 7) []) (recC 2) ∧
    Runs (.recoveryPhaseComplete (some 7) []) (recC 5) ∧
    Runs (.recoveryPhaseComplete (some 7) [7]) (recC 5) ∧
    Runs (.recoveryPhaseComplete (some 7) []) (recC 6) ∧
    Runs (.fcuClearLatch 8 0xFFFF0002) latched ∧
    Runs (.fcuClearLatch 8 2) latched ∧
    Runs (.fcuCoreClear 8 0xC0) (live.fset FCU_CORE_STATE_STATE 0xD000) :=
  ⟨runs ((h.1 none _ (quiet 2) (by trivial) (by decide) (by decide) rfl (by decide) (by decide)).1 (by decide)),
    runs ((h.1 (some 7) _ quietC (by simp) (by decide) (by decide) rfl (by decide) (by decide)).1 (by decide)),
    runs ((h.1 none _ (quiet 3) (by trivial) (by decide) (by decide) rfl (by decide) (by decide)).2 (by decide)),
    runs ((h.2.1 1 [] (rec 1) (by decide) (by decide) rfl).1 (by decide)),
    runs ((h.2.1 2 [] (rec 2) (by decide) (by decide) rfl).1 (by decide)),
    runs ((h.2.1 3 [] (rec 3) (by decide) (by decide) rfl).1 (by decide)),
    runs ((h.2.1 4 [] (rec 4) (by decide) (by decide) rfl).1 (by decide)),
    runs ((h.2.1 5 [] (rec 5) (by decide) (by decide) rfl).1 (by decide)),
    runs ((h.2.1 6 [] (rec 6) (by decide) (by decide) rfl).1 (by decide)),
    runs ((h.2.1 5 [3, 8] (rec 5) (by decide) (by decide) rfl).2.1 (by decide) ⟨8, (by decide), (by decide)⟩),
    runs ((h.2.1 7 [] (rec 7) (by decide) (by decide) rfl).2.2 (by decide)),
    runs ((h.2.2.1 7 [] (recC 2) (by decide) (by decide) (by decide) ⟨by decide, by decide, by decide⟩ (by decide) (by decide)).1 (by decide)),
    runs ((h.2.2.1 7 [] (recC 5) (by decide) (by decide) (by decide) ⟨by decide, by decide, by decide⟩ (by decide) (by decide)).2.1 (by decide) (by decide)),
    runs ((h.2.2.1 7 [7] (recC 5) (by decide) (by decide) (by decide) ⟨by decide, by decide, by decide⟩ (by decide) (by decide)).2.2.1 (by decide) (by decide)),
    runs ((h.2.2.1 7 [] (recC 6) (by decide) (by decide) (by decide) ⟨by decide, by decide, by decide⟩ (by decide) (by decide)).2.2.2 (by decide)),
    runs (h.2.2.2.1 8 0xFFFF0002 _ latched ⟨by decide, by decide, by decide⟩ rfl (by decide) (by decide)),
    runs (h.2.2.2.1 8 2 _ latched ⟨by decide, by decide, by decide⟩ rfl (by decide) (by decide)),
    runs (h.2.2.2.2 8 0xC0 (live.fset FCU_CORE_STATE_STATE 0xD000) ⟨by decide, by decide, by decide⟩ (by decide))⟩

end Go

/-! ### Boot and the one-time-programmable store -/

namespace Gp

def slots (m : List Nat) : List KeySlot := (List.range 8).map (fun k => ⟨if k ∈ m then some 12345 else none, false⟩)
def keyed : State := { live with nvm := { live.nvm with slots := slots [3] } }
def norHdr (at_ n pay crc : Nat) : List Host.Cell :=
  (leBytes 4 0x3148_4E4B ++ [0, 255, 255, 255] ++ leBytes 4 at_ ++ leBytes 4 n ++ leBytes 4 pay).zipIdx.filterMap (fun (x : Byte × Nat) => if x.1 = 255 then none else some (x.2, x.1)) ++ (leBytes 4 crc).zipIdx.map (fun (x : Byte × Nat) => (4092 + x.2, x.1))
def norS (at_ n pay crc : Nat) : State := { keyed with nor := norHdr at_ n pay crc }
def norA : State := norS 0x1FFF_FFF0 16 8192 3683590264
def blk : List Byte := [1, 2, 3, 4]
def mfst (segs : Nat) (len dest : Nat) (dig : List Byte) : List Byte :=
  leBytes 4 0x3146_4D4B ++ [1, 1, 3, 0] ++ leBytes 4 7 ++ leBytes 4 4 ++ leBytes 4 1 ++ leBytes 2 segs ++ List.replicate 234 0 ++ [3, 0, 0, 0] ++ leBytes 4 len ++ leBytes 4 0 ++ leBytes 4 0 ++ leBytes 8 dest ++ List.replicate 8 0 ++ dig
def bld (dig : List Byte) : State :=
  { live.fset BOOT_STATUS_STATE 3 with boot := { live.boot with manifest := mfst 1 4 (dramEnd - 4) dig, payloadAt := 0x1FFF_FFFC, hwDone := true }, nor := [(0x1FFF_FFFC, 1), (0x1FFF_FFFD, 2), (0x1FFF_FFFE, 3), (0x1FFF_FFFF, 4)] }
def ini : State := live.fset BOOT_STATUS_STATE 3
def cfgd (c : List Byte) : State :=
  { live.fset BOOT_STATUS_STATE 3 with boot := { live.boot with manifest := mfst 1 4 0 [], next := 1, hwDone := true, config := c } }
def failed : State := { live.fset BOOT_STATUS_STATE 6 with refTick := 125000000, boot := { live.boot with failTick := 0 } }
def seq9 : State := live.fset BOOT_IMAGE_SEQUENCE 0xFFFFFFFF
def busy (j : NvmJob) : State := { live with refTick := 250000, nvm := { live.nvm with job := some (j, 0) } }

theorem test_meets_BootAndProgrammingAct (h : Obligations.BootAndProgrammingAct) :
    Runs .bootAttempt live ∧
    Runs .bootAttempt keyed ∧
    Runs .bootAttempt norA ∧
    Runs .bootBlockLoad (bld (sha512 blk)) ∧
    Runs .bootBlockLoad (bld []) ∧
    Runs (.bootHardwareInitComplete [7] false) ini ∧
    Runs (.bootHardwareInitComplete [] false) ini ∧
    Runs (.bootHardwareInitComplete [] true) ini ∧
    Runs .bootComplete (cfgd []) ∧
    Runs .bootComplete (cfgd (List.replicate 16 0xFF)) ∧
    Runs .bootRetry failed ∧
    Runs (.bootRestart 8) (live.fset BOOT_STATUS_STATE 7) ∧
    Runs (.bootRestart 8) live ∧
    Runs (.controlCoreRelease 8 0xFFFFFF80) live ∧
    Runs (.rollbackAdvance 8 0xFFFFFFFF) seq9 ∧
    Runs (.rollbackAdvance 8 0) seq9 ∧
    Runs (.keyProgram 8 7) live ∧
    Runs (.keyProgram 8 3) keyed ∧
    Runs (.revoke 8 0xF7) keyed ∧
    Runs (.revoke 8 8) keyed ∧
    Runs (.nvmLock 8) live ∧
    Runs (.nvmLock 8) (busy .lock) ∧
    Runs (.nvmProgramDone true) (busy (.advance 0xFFFFFFFF)) ∧
    Runs (.nvmProgramDone true) (busy (.key 7 5)) ∧
    Runs (.nvmProgramDone true) (busy (.revoke 0x80)) ∧
    Runs (.nvmProgramDone false) (busy .lock) :=
  ⟨runs ((h.1 live _ ⟨by decide, by decide, by decide⟩ (by decide) (by decide) rfl).1 (by decide) (by decide)),
    runs ((h.1 keyed _ ⟨by decide, by decide, by decide⟩ (by decide) (by decide) rfl).2.1 (by decide) (by decide)),
    runs ((h.1 norA _ ⟨by decide, by decide, by decide⟩ (by decide) (by decide) rfl).2.2 _ _ _ _ rfl rfl rfl rfl (by decide) (by decide +kernel) (by decide +kernel) (by decide +kernel)),
    runs ((h.2.1 _ _ _ (bld (sha512 blk)) ⟨by decide, by decide, by decide⟩ (by decide) (by decide) (by decide) rfl rfl (by decide) rfl).1 (by decide)),
    runs ((h.2.1 _ _ _ (bld []) ⟨by decide, by decide, by decide⟩ (by decide) (by decide) (by decide) rfl rfl (by decide) rfl).2 (by decide)),
    runs ((h.2.2.1 [7] ini ⟨by decide, by decide, by decide⟩ (by decide) (by decide) (by decide) (by decide)).1),
    runs ((h.2.2.1 [] ini ⟨by decide, by decide, by decide⟩ (by decide) (by decide) (by decide) (by decide)).1),
    runs ((h.2.2.1 [] ini ⟨by decide, by decide, by decide⟩ (by decide) (by decide) (by decide) (by decide)).2),
    runs ((h.2.2.2.1 _ (cfgd []) ⟨by decide, by decide, by decide⟩ (by decide) (by decide) (by decide) rfl (by decide)).1 (by decide)),
    runs ((h.2.2.2.1 _ (cfgd (List.replicate 16 0xFF)) ⟨by decide, by decide, by decide⟩ (by decide) (by decide) (by decide) rfl (by decide)).2 0 (by decide)),
    runs (h.2.2.2.2.1 failed (by decide) (by decide) (by decide)),
    runs ((h.2.2.2.2.2.1 8 (live.fset BOOT_STATUS_STATE 7) ⟨by decide, by decide, by decide⟩).1 (by decide)),
    runs ((h.2.2.2.2.2.1 8 live ⟨by decide, by decide, by decide⟩).2 (by decide)),
    runs (h.2.2.2.2.2.2.1 8 0xFFFFFF80 live ⟨by decide, by decide, by decide⟩),
    runs ((h.2.2.2.2.2.2.2.1 8 0xFFFFFFFF seq9 ⟨by decide, by decide, by decide⟩ (by decide) (by decide)).1 (by decide) (by decide) (by decide)),
    runs ((h.2.2.2.2.2.2.2.1 8 0 seq9 ⟨by decide, by decide, by decide⟩ (by decide) (by decide)).2 (.inl (by decide))),
    runs ((h.2.2.2.2.2.2.2.2.1 8 7 live (by decide) ⟨by decide, by decide, by decide⟩ (by decide)).1 (by decide) (by decide)),
    runs ((h.2.2.2.2.2.2.2.2.1 8 3 keyed (by decide) ⟨by decide, by decide, by decide⟩ (by decide)).2 (.inl (by decide))),
    runs ((h.2.2.2.2.2.2.2.2.2.1 8 0xF7 keyed ⟨by decide, by decide, by decide⟩ (by decide)).1 (by decide)),
    runs ((h.2.2.2.2.2.2.2.2.2.1 8 8 keyed ⟨by decide, by decide, by decide⟩ (by decide)).2 (by decide)),
    runs ((h.2.2.2.2.2.2.2.2.2.2.1 8 live ⟨by decide, by decide, by decide⟩).1 (by decide)),
    runs ((h.2.2.2.2.2.2.2.2.2.2.1 8 (busy .lock) ⟨by decide, by decide, by decide⟩).2 (by decide)),
    runs ((h.2.2.2.2.2.2.2.2.2.2.2 _ _ (busy (.advance 0xFFFFFFFF)) (by decide) rfl (by decide)).1),
    runs ((h.2.2.2.2.2.2.2.2.2.2.2 _ _ (busy (.key 7 5)) (by decide) rfl (by decide)).1),
    runs ((h.2.2.2.2.2.2.2.2.2.2.2 _ _ (busy (.revoke 0x80)) (by decide) rfl (by decide)).1),
    runs2 ((h.2.2.2.2.2.2.2.2.2.2.2 _ _ (busy .lock) (by decide) rfl (by decide)).2)⟩

end Gp

/-! ### Admission and attestation -/

namespace Gq

def rqA : Nat := 0x10_0000
def adm0 (op id off : Nat) (d : List Byte) (cs : List (Option AdmCtx)) : State :=
  { live.writeBytes (rqA + 44) (leBytes 2 (16 + d.length) ++ [0, 0] ++ leBytes 4 op ++ leBytes 4 id ++ leBytes 4 off ++ leBytes 4 0 ++ d) with adm := { live.adm with ctxs := cs, req := some rqA } }
def opn (id : Nat) : Option AdmCtx := some ⟨id, 100, 0, none, [], 0, [], [], 0⟩
def three (c : AdmCtx) : List (Option AdmCtx) := [opn 4, opn 5, opn 6, some c]
def mc (n at_ : Nat) : AdmCtx := ⟨7, n, at_, none, [], 0, [], [], 0⟩
def mS (n at_ off : Nat) : State := adm0 2 7 off [9, 8, 7, 6] (three (mc n at_))
def mfst (segs len dest model : Nat) (pay : Nat) (dig : List Byte) : List Byte :=
  leBytes 4 0x3146_4D4B ++ [1, 2, 4, 0] ++ leBytes 4 7 ++ leBytes 4 pay ++ leBytes 4 1 ++ leBytes 2 segs ++ [0, 0] ++ leBytes 4 model ++ List.replicate 228 0 ++ [3, 0, 0, 0] ++ leBytes 4 len ++ leBytes 4 0 ++ leBytes 4 0 ++ leBytes 8 dest ++ List.replicate 8 0 ++ dig
def dc (dig : List Byte) : AdmCtx := ⟨7, 100, 2, some (mfst 1 4 (dramEnd - 4) 4095 4 dig), [1, 2], 0, [], [], 0⟩
def dS (off : Nat) (d dig : List Byte) : State := adm0 3 7 off d (three (dc dig))
def blk4 : List Byte := [1, 2, 3, 4]
def fc (done : Nat) : AdmCtx :=
  ⟨7, 100, 4, some (mfst 1 4 (dramEnd - 4) 4095 4 []), [], done, leBytes 4 4095 ++ [0xAA] ++ List.replicate 123 0, [], 0⟩
def rmS (x : Nat) : State :=
  { (adm0 6 x 0 [] [none, none, none, none]).modAdm (fun a => { a with records := [⟨3, 1, [], []⟩, ⟨4095, 7, [], []⟩] }) with drover := { live.drover with caravans := [] } }

theorem test_meets_ModelsAreAdmittedAndAttested (h : Obligations.ModelsAreAdmittedAndAttested) :
    Runs .begin_ (adm0 1 0 (2 ^ 21) [] [opn 4, opn 5, opn 6, none]) ∧
    Runs .begin_ (adm0 1 0 (2 ^ 21) [] [none, opn 4, opn 5, opn 6]) ∧
    Runs .begin_ (adm0 1 9 7 [] [opn 4, opn 5, opn 6, opn 7]) ∧
    Runs .manifest (mS 100 3 1) ∧
    Runs .manifest (mS 5 3 1) ∧
    Runs .manifest (mS 4 3 1) ∧
    Runs .data (adm0 3 7 1 [] (three (mc 4 3))) ∧
    Runs .data (dS 1 [2, 3] []) ∧
    Runs .data (dS 1 [2, 3, 4] (sha512 blk4)) ∧
    Runs .data (dS 1 [2, 3, 4] []) ∧
    Runs .finish (adm0 4 7 0 [] (three (fc 1))) ∧
    Runs .finish (adm0 4 7 0 [] (three (fc 0))) ∧
    Runs .abort (adm0 5 7 0 [] (three (fc 0))) ∧
    Runs .remove (rmS 4095) ∧
    Runs .remove (rmS 5) ∧
    Runs (.admitTimeout 3) ({ mS 4 3 1 with refTick := 125000 * 60000 }) ∧
    Runs (.attestGo 8 (32 * 256)) live ∧
    Runs (.attestGo 8 (33 * 256)) live ∧
    Runs .attestDone ((live.fset SEC_ATTEST_CTRL_BUSY 1).fset SEC_ATTEST_CTRL_COUNT 32) :=
  ⟨runs2 ((h.1 rqA 3 (adm0 1 0 (2 ^ 21) [] [opn 4, opn 5, opn 6, none]) ⟨by decide, by decide, by decide⟩ (by decide) rfl (by decide) (by decide) (by decide) ⟨by decide, by decide⟩).1 (by decide) (by decide)),
    runs2 ((h.1 rqA 0 (adm0 1 0 (2 ^ 21) [] [none, opn 4, opn 5, opn 6]) ⟨by decide, by decide, by decide⟩ (by decide) rfl (by decide) (by decide) (by decide) ⟨by decide, by decide⟩).1 (by decide) (by decide)),
    runs3 ((h.1 rqA 0 (adm0 1 9 7 [] [opn 4, opn 5, opn 6, opn 7]) ⟨by decide, by decide, by decide⟩ (by decide) rfl (by decide) (by decide) (by decide) ⟨by decide, by decide⟩).2 (by decide)),
    runs (((h.2.1 rqA 3 1 _ (mc 100 3) _ (mS 100 3 1) ⟨by decide, by decide, by decide⟩ (by decide) rfl (by decide) (by decide) (by decide) rfl ⟨by decide, by decide⟩).1 (by decide) (by decide) (by decide) rfl (by decide) (.inr (by decide))).1 (by decide) ⟨by decide, by decide⟩),
    runs (((h.2.1 rqA 3 1 _ (mc 5 3) _ (mS 5 3 1) ⟨by decide, by decide, by decide⟩ (by decide) rfl (by decide) (by decide) (by decide) rfl ⟨by decide, by decide⟩).1 (by decide) (by decide) (by decide) rfl (by decide) (.inr (by decide))).2.1 (by decide) (.inr (by decide)) rfl ⟨by decide, by decide⟩),
    runs (((h.2.1 rqA 3 1 _ (mc 4 3) _ (mS 4 3 1) ⟨by decide, by decide, by decide⟩ (by decide) rfl (by decide) (by decide) (by decide) rfl ⟨by decide, by decide⟩).1 (by decide) (by decide) (by decide) rfl (by decide) (.inr (by decide))).2.2 (by decide)),
    runs ((h.2.1 rqA 3 1 _ (mc 4 3) [] (adm0 3 7 1 [] (three (mc 4 3))) ⟨by decide, by decide, by decide⟩ (by decide) rfl (by decide) (by decide) (by decide) rfl ⟨by decide, by decide⟩).2.1 (by decide) (by decide)),
    runs (((h.2.1 rqA 3 1 _ (dc []) _ (dS 1 [2, 3] []) ⟨by decide, by decide, by decide⟩ (by decide) rfl (by decide) (by decide) (by decide) rfl ⟨by decide, by decide⟩).2.2.1 _ _ (by decide) rfl (by decide) rfl (by decide) rfl).1 (by decide)),
    runs2 (((h.2.1 rqA 3 1 _ (dc (sha512 blk4)) _ (dS 1 [2, 3, 4] (sha512 blk4)) ⟨by decide, by decide, by decide⟩ (by decide) rfl (by decide) (by decide) (by decide) rfl ⟨by decide, by decide⟩).2.2.1 _ _ (by decide) rfl (by decide) rfl (by decide) rfl).2.1 (by decide) (by decide) (by decide +kernel) (pieces_apart (by decide +kernel)) ⟨by decide, by decide +kernel⟩),
    runs (((h.2.1 rqA 3 1 _ (dc []) _ (dS 1 [2, 3, 4] []) ⟨by decide, by decide, by decide⟩ (by decide) rfl (by decide) (by decide) (by decide) rfl ⟨by decide, by decide⟩).2.2.1 _ _ (by decide) rfl (by decide) rfl (by decide) rfl).2.2 (by decide) (by decide) (by decide +kernel)),
    runs (((h.2.1 rqA 3 0 _ (fc 1) [] (adm0 4 7 0 [] (three (fc 1))) ⟨by decide, by decide, by decide⟩ (by decide) rfl (by decide) (by decide) (by decide) rfl ⟨by decide, by decide⟩).2.2.2.1 _ (by decide) rfl).1 (by decide) (by decide) (by decide) (.inl (by decide)) ⟨by decide, by decide⟩),
    runs (((h.2.1 rqA 3 0 _ (fc 0) [] (adm0 4 7 0 [] (three (fc 0))) ⟨by decide, by decide, by decide⟩ (by decide) rfl (by decide) (by decide) (by decide) rfl ⟨by decide, by decide⟩).2.2.2.1 _ (by decide) rfl).2 (by decide)),
    runs ((h.2.1 rqA 3 0 _ (fc 0) [] (adm0 5 7 0 [] (three (fc 0))) ⟨by decide, by decide, by decide⟩ (by decide) rfl (by decide) (by decide) (by decide) rfl ⟨by decide, by decide⟩).2.2.2.2 (by decide)),
    runs3 ((h.2.2.1 rqA _ (rmS 4095) ⟨by decide, by decide, by decide⟩ (by decide) rfl (by decide) (by decide) rfl ⟨by decide, by decide⟩).1 (by decide +kernel) (by decide) (.inl (by decide))),
    runs3 ((h.2.2.1 rqA _ (rmS 5) ⟨by decide, by decide, by decide⟩ (by decide) rfl (by decide) (by decide) rfl ⟨by decide, by decide⟩).2 (.inl (by decide +kernel))),
    runs (h.2.2.2.1 3 (mc 4 3) ({ mS 4 3 1 with refTick := 125000 * 60000 }) (by decide) (by decide) (by decide) rfl (by decide)),
    runs ((h.2.2.2.2.1 8 (32 * 256) live ⟨by decide, by decide, by decide⟩).1 (by decide) (by decide)),
    runs ((h.2.2.2.2.1 8 (33 * 256) live ⟨by decide, by decide, by decide⟩).2 (.inr (by decide))),
    runs (h.2.2.2.2.2 ((live.fset SEC_ATTEST_CTRL_BUSY 1).fset SEC_ATTEST_CTRL_COUNT 32) (by decide) (by decide) (by decide))⟩

end Gq

/-! ### Registers -/

namespace Gr

def jr : State := (live.fset CFG_JOURNAL_NEXT_INDEX 0xFFFFFFFF).fset SYS_BUS_ERR_LAST_VALID 1
def crc (cl co : Bool) : State := { live with crc := { live.crc with clean := cl, commit := co } }

theorem test_meets_RegistersAreWrittenReadAndChecked (h : Obligations.RegistersAreWrittenReadAndChecked) :
    Runs (.registerWrite 8 (FCU_REACT_id.addr 0x322 0 0 0) 4 0xFFFFFFFF) live ∧
    Runs (.registerWrite 2 (2 ^ 40 + 1) 8 5) live ∧
    Runs (.registerWrite 2 (2 ^ 40 + 1) 8 5) jr ∧
    Runs (.registerWrite 15 (dramEnd - 8) 8 (2 ^ 64 - 1)) live ∧
    Runs (.registerWrite 0 7 1 0xABC) live ∧
    Runs (.crcCommit 8) live ∧
    Runs .crcPassEnd (crc false true) ∧
    Runs .crcPassEnd (crc true true) ∧
    Runs .crcPassEnd (((crc true false).fset CFG_CRC_STATUS_REF_VALID 1).fset CFG_CRC_CTRL_CHECK_EN 1) ∧
    Runs (.irqSet 8) live ∧
    Runs (.mvpSatRowsRead 8 7) (live.fset MVP_SAT_ROWS_COUNT 99 7) ∧
    Runs (.movOutstandingMaxRead 8 7) (live.fset MOV_OUTSTANDING_MAX_MAX 9 7) ∧
    Runs (.rationMaxHoldRead 8 15) (live.fset SYS_RATION_c_MAX_HOLD_NS_HOLD_NS 9 15) ∧
    Runs (.wbFillMaxRead 8 3) (live.fset ISPn_WB_FILL_MAX_B_FILL_MAX_B 9 3) ∧
    Runs (.tempPeakRead 8) (live.fset PWR_TEMP_PEAK_PEAK_MC 105000) :=
  ⟨runs2 (h.1 8 (FCU_REACT_id.addr 0x322 0 0 0) 4 0xFFFFFFFF _ live (by decide) (by decide) (by decide) (by decide) rfl (by decide) (not_busLogReg (by decide))),
    runs (h.2.1 2 (2 ^ 40 + 1) 8 5 live (by decide) (by decide) (by decide) (by decide) (by decide)),
    runs (h.2.1 2 (2 ^ 40 + 1) 8 5 jr (by decide) (by decide) (by decide) (by decide) (by decide)),
    runs (h.2.2.1 15 (dramEnd - 8) 8 (2 ^ 64 - 1) live ⟨by decide, by decide, by decide⟩ (by decide) (by decide) (.inr (.inr (.inr rfl))) (by decide) (by decide) (by decide) (path (by decide))),
    runs (h.2.2.1 0 7 1 0xABC live ⟨by decide, by decide, by decide⟩ (by decide) (by decide) (.inl rfl) (by decide) (by decide) (by decide) (path (by decide))),
    runs (h.2.2.2.1 8 live ⟨by decide, by decide, by decide⟩),
    runs ((h.2.2.2.2.1 _ (crc false true) (by decide) rfl).1 (by decide)),
    runs ((h.2.2.2.2.1 _ (crc true true) (by decide) rfl).2.1 (by decide) (by decide)),
    runs ((h.2.2.2.2.1 _ (((crc true false).fset CFG_CRC_STATUS_REF_VALID 1).fset CFG_CRC_CTRL_CHECK_EN 1) (by decide) rfl).2.2 (by decide) (by decide) (by decide) (by decide)),
    runs (h.2.2.2.2.2.1 8 live ⟨by decide, by decide, by decide⟩),
    runs (h.2.2.2.2.2.2.1 8 7 (live.fset MVP_SAT_ROWS_COUNT 99 7) (by decide) ⟨by decide, by decide, by decide⟩),
    runs (h.2.2.2.2.2.2.2.1 8 7 (live.fset MOV_OUTSTANDING_MAX_MAX 9 7) (by decide) ⟨by decide, by decide, by decide⟩),
    runs (h.2.2.2.2.2.2.2.2.1 8 15 (live.fset SYS_RATION_c_MAX_HOLD_NS_HOLD_NS 9 15) (by decide) ⟨by decide, by decide, by decide⟩),
    runs (h.2.2.2.2.2.2.2.2.2.1 8 3 (live.fset ISPn_WB_FILL_MAX_B_FILL_MAX_B 9 3) (by decide) ⟨by decide, by decide, by decide⟩),
    runs (h.2.2.2.2.2.2.2.2.2.2 8 (live.fset PWR_TEMP_PEAK_PEAK_MC 105000) ⟨by decide, by decide, by decide⟩)⟩

end Gr

/-! ### Debug port and board interface -/

namespace Gs

def held : State := { live with clk := { live.clk with inReset := true } }
def ready : State := { live with refTick := 12500, cmb := { live.cmb with alert := 31 } }

theorem test_meets_DebugPortAndBoardInterfaceAct (h : Obligations.DebugPortAndBoardInterfaceAct) :
    Runs .idcode live ∧
    Runs .bypass live ∧
    Runs .extest live ∧
    Runs .extest held ∧
    Runs .samplePreload held ∧
    Runs .debugPortReset live ∧
    Runs (.busAccess (2 ^ 51 - 1)) live ∧
    Runs (.busAccess (2 ^ 51)) held ∧
    Runs (.busAccess (2 ^ 51 + 3 * 2 ^ 48 + PWR_TEMP_PEAK.addr 0 0 0 0)) live ∧
    Runs (.cmbWrite 0x58 4 [0xFF, 0, 0, 0x80]) ready ∧
    Runs (.cmbWrite 0x58 5 [0xFF, 0, 0, 0x80]) ready ∧
    Runs (.cmbRead 0x58 4) ready ∧
    Runs (.cmbRead 0x58 0x18) ready ∧
    Runs (.cmbRead 0x58 7) ready ∧
    Runs (.railCheck [0, 1, 2, 3, 4, 5, 6, 65536]) ready :=
  ⟨runsE ((h.1 live).1),
    runsE ((h.1 live).2.1),
    runsE ((h.1 live).2.2.1 (by decide)),
    runs ((h.1 held).2.2.2.1 (by decide)),
    runs ((h.1 held).2.2.2.2.1),
    runs ((h.1 live).2.2.2.2.2),
    runs ((h.2.1 (2 ^ 51 - 1) live).1 (by decide)),
    runs ((h.2.1 (2 ^ 51) held).2.1 (by decide) (.inl (by decide))),
    runs2 ((h.2.1 (2 ^ 51 + 3 * 2 ^ 48 + PWR_TEMP_PEAK.addr 0 0 0 0) live).2.2 (by decide) (by decide) (by decide)),
    runs (h.2.2.1 0x58 4 [0xFF, 0, 0, 0x80] _ ready (by decide) (by decide) rfl),
    runs (h.2.2.1 0x58 5 [0xFF, 0, 0, 0x80] _ ready (by decide) (by decide) rfl),
    runs (h.2.2.2.1 0x58 4 ready (by decide)),
    runs (h.2.2.2.1 0x58 0x18 ready (by decide)),
    runs (h.2.2.2.1 0x58 7 ready (by decide)),
    runs (h.2.2.2.2 [0, 1, 2, 3, 4, 5, 6, 65536] ready (by decide) (by decide) (by decide))⟩

end Gs

end Sys2Proof.Tests
end

section
/-! SUPPORT. Reading register fields after writes, and the frames of statements (`regsKept`, `memKept`), one rule per update. -/

namespace Sys2Proof.Machine

/-! ### Fields -/

theorem State.fget_lt (s : State) (f : Field) (i j k l : Nat) : s.fget f i j k l < 2 ^ f.len :=
  Nat.mod_lt _ (Nat.two_pow_pos _)

theorem State.fget_of_regs_eq {s t : State} (h : t.regs = s.regs) (f : Field) (i j k l : Nat) :
    t.fget f i j k l = s.fget f i j k l := State.fget_congr (by rw [h])

theorem State.fbit_of_fget_eq {s t : State} {f : Field} {i j k l : Nat} (h : t.fget f i j k l = s.fget f i j k l) :
    t.fbit f i j k l = s.fbit f i j k l := by simp only [State.fbit, h]

theorem State.fbit_eq_true {s : State} {f : Field} {i j k l : Nat} : s.fbit f i j k l = true ↔ s.fget f i j k l = 1 :=
  beq_iff_eq

/-- A one-bit field just set to 1. -/
theorem State.fbit_fset_one (s : State) {f : Field} (i j k l : Nat) (h : f.lo + f.len ≤ 64) (hl : f.len = 1) :
    (s.fset f 1 i j k l).fbit f i j k l = true := by
  have hset := State.fget_fset_self s 1 i j k l h
  rw [hl] at hset
  exact State.fbit_eq_true.2 hset

/-- A field just set to 0 is not 1. -/
theorem State.fbit_fset_zero (s : State) {f : Field} (i j k l : Nat) (h : f.lo + f.len ≤ 64) :
    (s.fset f 0 i j k l).fbit f i j k l = false := by
  simp only [State.fbit, State.fget_fset_self s 0 i j k l h, Nat.zero_mod]; rfl

theorem State.fbit_fset_ne (s : State) {f g : Field} (v : Nat) {i j k l i' j' k' l' : Nat}
    (h : g.reg.addr i' j' k' l' ≠ f.reg.addr i j k l) : (s.fset f v i j k l).fbit g i' j' k' l' = s.fbit g i' j' k' l' :=
  State.fbit_of_fget_eq (State.fget_fset_ne s v h)

theorem State.fbit_fset_other (s : State) {f g : Field} (v i j k l : Nat) (hr : g.reg = f.reg)
    (h : g.lo + g.len ≤ f.lo ∨ f.lo + f.len ≤ g.lo) : (s.fset f v i j k l).fbit g i j k l = s.fbit g i j k l :=
  State.fbit_of_fget_eq (State.fget_fset_other s v i j k l hr h)

/-- A counter wraps at its width. -/
theorem State.fget_fadd_self (s : State) {f : Field} (n i j k l : Nat) (h : f.lo + f.len ≤ 64) :
    (s.fadd f n i j k l).fget f i j k l = (s.fget f i j k l + n) % 2 ^ f.len := State.fget_fset_self s _ i j k l h

theorem State.fget_fadd_ne (s : State) {f g : Field} (n : Nat) {i j k l i' j' k' l' : Nat}
    (h : g.reg.addr i' j' k' l' ≠ f.reg.addr i j k l) : (s.fadd f n i j k l).fget g i' j' k' l' = s.fget g i' j' k' l' :=
  State.fget_fset_ne s _ h

theorem State.fbit_fadd_ne (s : State) {f g : Field} (n : Nat) {i j k l i' j' k' l' : Nat}
    (h : g.reg.addr i' j' k' l' ≠ f.reg.addr i j k l) : (s.fadd f n i j k l).fbit g i' j' k' l' = s.fbit g i' j' k' l' :=
  State.fbit_fset_ne s _ h

/-! ### Bits of a number with one part replaced -/

theorem putBits_testBit (x lo len v i : Nat) : (putBits x lo len v).testBit i =
    if lo ≤ i ∧ i < lo + len then v.testBit (i - lo) else x.testBit i := by
  have hlow : x % 2 ^ lo < 2 ^ lo := Nat.mod_lt _ (Nat.two_pow_pos _)
  have hx : x = 2 ^ lo * (x >>> lo) + x % 2 ^ lo := by rw [Nat.shiftRight_eq_div_pow, Nat.div_add_mod]
  have hmid : bits x lo len ≤ x >>> lo := Nat.mod_le _ _
  have hput : putBits x lo len v = 2 ^ lo * (2 ^ len * (x >>> lo / 2 ^ len) + v % 2 ^ len) + x % 2 ^ lo := by
    have hsplit : x >>> lo = 2 ^ len * (x >>> lo / 2 ^ len) + bits x lo len := (Nat.div_add_mod _ _).symm
    unfold putBits
    generalize hq : x >>> lo / 2 ^ len = q at *
    generalize hb : bits x lo len = b at *
    have hparts : x = 2 ^ lo * (2 ^ len * q) + b * 2 ^ lo + x % 2 ^ lo := by
      rwa [hsplit, Nat.mul_add, Nat.mul_comm (2 ^ lo) b] at hx
    rw [Nat.mul_add, Nat.mul_comm (2 ^ lo) (v % 2 ^ len)]
    omega
  have hv : v % 2 ^ len < 2 ^ len := Nat.mod_lt _ (Nat.two_pow_pos _)
  rw [hput, Nat.testBit_two_pow_mul_add _ hlow, Nat.testBit_two_pow_mul_add _ hv]
  by_cases h1 : i < lo
  · rw [if_pos h1, if_neg (by omega), Nat.testBit_mod_two_pow, decide_eq_true h1, Bool.true_and]
  · rw [if_neg h1]
    by_cases h2 : i < lo + len
    · rw [if_pos (by omega), if_pos (by omega), Nat.testBit_mod_two_pow, decide_eq_true (by omega), Bool.true_and]
    · rw [if_neg (by omega), if_neg (by omega), ← Nat.shiftRight_eq_div_pow, Nat.testBit_shiftRight, Nat.testBit_shiftRight]
      congr 1
      omega

theorem bits_putBits_self (x lo len v : Nat) : bits (putBits x lo len v) lo len = v % 2 ^ len := by
  refine Nat.eq_of_testBit_eq (fun i => ?_)
  rw [bits_testBit, putBits_testBit, Nat.testBit_mod_two_pow]
  by_cases hi : i < len <;> simp [hi]

theorem bits_putBits_ne (x v : Nat) {lo len lo' len' : Nat} (h : lo' + len' ≤ lo ∨ lo + len ≤ lo') :
    bits (putBits x lo len v) lo' len' = bits x lo' len' := by
  refine Nat.eq_of_testBit_eq (fun i => ?_)
  rw [bits_testBit, bits_testBit, putBits_testBit]
  by_cases hi : i < len'
  · rw [if_neg (by omega)]
  · simp only [hi, decide_false, Bool.false_and]

/-- Bits that a cut to a width keeps. -/
theorem bits_mod_two_pow (x : Nat) {lo len w : Nat} (h : lo + len ≤ w) : bits (x % 2 ^ w) lo len = bits x lo len := by
  refine Nat.eq_of_testBit_eq (fun i => ?_)
  rw [bits_testBit, bits_testBit, Nat.testBit_mod_two_pow]
  by_cases hi : i < len
  · rw [decide_eq_true (show lo + i < w by omega), Bool.true_and]
  · simp only [hi, decide_false, Bool.false_and]

/-! ### Frames -/

theorem regsKept.refl (s : State) (W : Nat → Prop) : regsKept s s W := fun _ _ => rfl

theorem regsKept.trans {s t u : State} {W : Nat → Prop} (h : regsKept s t W) (h' : regsKept t u W) : regsKept s u W :=
  fun a ha => (h' a ha).trans (h a ha)

theorem regsKept.mono {s t : State} {W V : Nat → Prop} (h : regsKept s t W) (hw : ∀ a, W a → V a) : regsKept s t V :=
  fun a ha => h a (fun hx => ha (hw a hx))

theorem regsKept.of_regs_eq {s t u : State} {W : Nat → Prop} (h : regsKept s t W) (hu : u.regs = t.regs) : regsKept s u W :=
  fun a ha => by rw [hu, h a ha]

theorem regsKept.fset {s t : State} {W : Nat → Prop} (h : regsKept s t W) {f : Field} {i j k l : Nat} (v : Nat)
    (hw : W (f.reg.addr i j k l)) : regsKept s (t.fset f v i j k l) W :=
  fun a ha => (State.get?_fset t f v i j k l (a := a) (fun e => ha (e ▸ hw))).trans (h a ha)

theorem regsKept.fadd {s t : State} {W : Nat → Prop} (h : regsKept s t W) {f : Field} {i j k l : Nat} (n : Nat)
    (hw : W (f.reg.addr i j k l)) : regsKept s (t.fadd f n i j k l) W := h.fset _ hw

/-- A field of a register copy that is kept. -/
theorem regsKept.fget {s t : State} {W : Nat → Prop} (h : regsKept s t W) {f : Field} {i j k l : Nat}
    (hw : ¬ W (f.reg.addr i j k l)) : t.fget f i j k l = s.fget f i j k l := State.fget_congr (h _ hw)

theorem regsKept.fbit {s t : State} {W : Nat → Prop} (h : regsKept s t W) {f : Field} {i j k l : Nat}
    (hw : ¬ W (f.reg.addr i j k l)) : t.fbit f i j k l = s.fbit f i j k l := State.fbit_of_fget_eq (h.fget hw)

theorem anyOf_of_mem {a : Nat} {l : List Nat} (h : a ∈ l) : anyOf l a := h

theorem not_anyOf {a : Nat} {l : List Nat} (h : a ∉ l) : ¬ anyOf l a := h

theorem memKept.of_mem_eq {s t : State} (h : t.mem = s.mem) (W : Nat → Prop) : memKept s t W :=
  fun a _ => by simp only [State.readByte, h]

/-- Equivalent conditions choose alike. -/
theorem ite_of_iff {α : Type} {b c : Prop} [Decidable b] [Decidable c] (h : b ↔ c) (x y : α) :
    (if b then x else y) = if c then x else y := ite_congr (propext h) (fun _ => rfl) (fun _ => rfl)

/-- The last number of a range comes last. -/
theorem foldl_range_succ {α : Type} (f : α → Nat → α) (x : α) (n : Nat) :
    (List.range (n + 1)).foldl f x = f ((List.range n).foldl f x) n := by
  rw [List.range_succ, List.foldl_append, List.foldl_cons, List.foldl_nil]

/-- An event command whose conditions hold has its effect. -/
theorem due_of_true {c : Bool} (h : c = true) (s t : State) : due c s t = .next t := by simp only [due, h, if_true]

/-- A command that names a unit the part has. -/
theorem unit_of_true {c : Bool} (h : c = true) (r : Result) : unit c r = r := by simp only [unit, h, if_true]

end Sys2Proof.Machine
end

section
/-! SUPPORT. The clock unit: what starting, stopping and restarting the divided clocks does, and O7. -/

namespace Sys2Proof.Machine

/-! ### The count of ARR cycles goes on -/

/-- Rebasing changes the base of the cores' cycle counts alone. -/
theorem State.rebaseArr_eq (s : State) (c t : Nat) :
    ∃ b, s.rebaseArr c t = { s with clk := { s.clk with arrBase := b } } := ⟨_, rfl⟩

theorem State.rebaseAll_eq (s : State) (t : Nat) : ∃ b, s.rebaseAll t = { s with clk := { s.clk with arrBase := b } } := by
  refine List.foldlRecOn (motive := fun u : State => ∃ b, u = { s with clk := { s.clk with arrBase := b } })
    (List.range 8) _ ⟨s.clk.arrBase, rfl⟩ ?_
  rintro u ⟨b, rfl⟩ c -
  exact State.rebaseArr_eq _ c t

@[simp] theorem State.regs_rebaseAll (s : State) (t : Nat) : (s.rebaseAll t).regs = s.regs := by
  obtain ⟨b, hb⟩ := s.rebaseAll_eq t; rw [hb]
@[simp] theorem State.mem_rebaseAll (s : State) (t : Nat) : (s.rebaseAll t).mem = s.mem := by
  obtain ⟨b, hb⟩ := s.rebaseAll_eq t; rw [hb]
@[simp] theorem State.refTick_rebaseAll (s : State) (t : Nat) : (s.rebaseAll t).refTick = s.refTick := by
  obtain ⟨b, hb⟩ := s.rebaseAll_eq t; rw [hb]
theorem State.clk_rebaseAll (s : State) (t : Nat) : ∃ b, (s.rebaseAll t).clk = { s.clk with arrBase := b } := by
  obtain ⟨b, hb⟩ := s.rebaseAll_eq t; exact ⟨b, by rw [hb]⟩

/-! ### Stop (R509) -/

/-- Stopped clocks: nothing but the clock unit's own state changes. -/
theorem State.stopClocks_eq (s : State) : ∃ b, s.stopClocks =
    { s with clk := { s.clk with arrBase := b, running := false, pendingStep := List.replicate 8 none } } := by
  obtain ⟨b, hb⟩ := s.rebaseAll_eq s.refTick
  exact ⟨b, by rw [State.stopClocks, hb]⟩

@[simp] theorem State.regs_stopClocks (s : State) : s.stopClocks.regs = s.regs := by
  obtain ⟨b, hb⟩ := s.stopClocks_eq; rw [hb]
@[simp] theorem State.mem_stopClocks (s : State) : s.stopClocks.mem = s.mem := by
  obtain ⟨b, hb⟩ := s.stopClocks_eq; rw [hb]
@[simp] theorem State.fcu_stopClocks (s : State) : s.stopClocks.fcu = s.fcu := by
  obtain ⟨b, hb⟩ := s.stopClocks_eq; rw [hb]
@[simp] theorem State.pins_stopClocks (s : State) : s.stopClocks.pins = s.pins := by
  obtain ⟨b, hb⟩ := s.stopClocks_eq; rw [hb]
@[simp] theorem State.running_stopClocks (s : State) : s.stopClocks.clk.running = false := by
  obtain ⟨b, hb⟩ := s.stopClocks_eq; rw [hb]
@[simp] theorem State.pendingStep_stopClocks (s : State) : s.stopClocks.clk.pendingStep = List.replicate 8 none := by
  obtain ⟨b, hb⟩ := s.stopClocks_eq; rw [hb]

/-! ### The time unit loses its clock (R395, R401, R402) -/

@[simp] theorem State.mem_enterHoldover (s : State) : s.enterHoldover.mem = s.mem := by
  unfold State.enterHoldover; split <;> rfl
@[simp] theorem State.clk_enterHoldover (s : State) : s.enterHoldover.clk = s.clk := by
  unfold State.enterHoldover; split <;> rfl
@[simp] theorem State.fcu_enterHoldover (s : State) : s.enterHoldover.fcu = s.fcu := by
  unfold State.enterHoldover; split <;> rfl
@[simp] theorem State.pins_enterHoldover (s : State) : s.enterHoldover.pins = s.pins := by
  unfold State.enterHoldover; split <;> rfl

/-- What TIM_STATUS shows of HOLDOVER. -/
def State.showHoldover (s : State) : State :=
  ((s.fset TIM_STATUS_STATE 2).fset TIM_STATUS_HOLDOVER 1).fset TIM_STATUS_HOLDOVER_SEEN 1

/-- A time unit in HOLDOVER stays as it is; any other shows it. -/
theorem State.regs_enterHoldover (s : State) :
    s.enterHoldover.regs = if s.fget TIM_STATUS_STATE = 2 then s.regs else s.showHoldover.regs := by
  unfold State.enterHoldover; split <;> rfl

theorem State.showHoldover_regsKept (s : State) : regsKept s s.showHoldover (anyOf [TIM_STATUS.addr 0 0 0 0]) :=
  (((regsKept.refl s _).fset (f := TIM_STATUS_STATE) _ (anyOf_of_mem (by decide))).fset (f := TIM_STATUS_HOLDOVER) _
    (anyOf_of_mem (by decide))).fset (f := TIM_STATUS_HOLDOVER_SEEN) _ (anyOf_of_mem (by decide))

theorem State.enterHoldover_regsKept (s : State) : regsKept s s.enterHoldover (anyOf [TIM_STATUS.addr 0 0 0 0]) := by
  have h := s.regs_enterHoldover
  split at h
  · exact (regsKept.refl s _).of_regs_eq h
  · exact s.showHoldover_regsKept.of_regs_eq h

/-- HOLDOVER is state 2 of the time unit. -/
theorem State.enterHoldover_state (s : State) : s.enterHoldover.fget TIM_STATUS_STATE = 2 := by
  have h := s.regs_enterHoldover
  split at h
  · rwa [State.fget_of_regs_eq h]
  · rw [State.fget_of_regs_eq h, State.showHoldover, State.fget_fset_other _ _ _ _ _ _ (by rfl) (by decide),
      State.fget_fset_other _ _ _ _ _ _ (by rfl) (by decide), State.fget_fset_self _ _ _ _ _ _ (by decide)]
    rfl

/-- HOLDOVER leaves TIME_LOST. -/
theorem State.enterHoldover_timeLost (s : State) : s.enterHoldover.fbit TIM_STATUS_TIME_LOST = s.fbit TIM_STATUS_TIME_LOST := by
  have h := s.regs_enterHoldover
  split at h
  · exact State.fbit_of_fget_eq (State.fget_of_regs_eq h _ _ _ _ _)
  · rw [State.fbit_of_fget_eq (State.fget_of_regs_eq h _ _ _ _ _), State.showHoldover,
      State.fbit_fset_other _ _ _ _ _ _ (by rfl) (by decide), State.fbit_fset_other _ _ _ _ _ _ (by rfl) (by decide),
      State.fbit_fset_other _ _ _ _ _ _ (by rfl) (by decide)]

theorem State.timeLost_regsKept (s : State) : regsKept s s.timeLost (anyOf [TIM_STATUS.addr 0 0 0 0]) :=
  ((regsKept.refl s _).fset (f := TIM_STATUS_TIME_LOST) 1 (anyOf_of_mem (by decide))).trans
    (State.enterHoldover_regsKept _)

theorem State.timeLost_state (s : State) : s.timeLost.fget TIM_STATUS_STATE = 2 := State.enterHoldover_state _

theorem State.timeLost_timeLost (s : State) : s.timeLost.fbit TIM_STATUS_TIME_LOST = true :=
  (State.enterHoldover_timeLost _).trans (State.fbit_fset_one s _ _ _ _ (by decide) rfl)

/-! ### The divided clocks are lost (R30, R509) -/

/-- What follows a loss seen by the clock unit: clocks stopped, time lost, and class F reported. -/
def State.clocksLost (s : State) : State := s.stopClocks.timeLost.report 0x030 clsF

@[simp] theorem State.mem_clocksLost (s : State) : s.clocksLost.mem = s.mem := by
  simp [State.clocksLost, State.timeLost]

@[simp] theorem State.pins_clocksLost (s : State) : s.clocksLost.pins = s.pins := by
  simp [State.clocksLost, State.timeLost]

theorem State.clocksLost_up (s : State) : s.clocksLost.up = false := by
  simp [State.clocksLost, State.timeLost, State.up]

theorem State.clocksLost_pendingStep (s : State) : ∀ x ∈ s.clocksLost.clk.pendingStep, x = none := by
  have h : s.clocksLost.clk.pendingStep = List.replicate 8 none := by simp [State.clocksLost, State.timeLost]
  intro x hx
  exact List.eq_of_mem_replicate (h ▸ hx)

theorem State.clocksLost_reports (s : State) :
    s.clocksLost.fcu.reports = s.fcu.reports ++ [⟨0x030, clsF, none, 0, none, false⟩] := by
  simp [State.clocksLost, State.timeLost, State.report]

theorem State.regs_clocksLost (s : State) : s.clocksLost.regs = s.stopClocks.timeLost.regs := by
  rw [State.clocksLost, State.regs_report]

theorem State.clocksLost_state (s : State) : s.clocksLost.fget TIM_STATUS_STATE = 2 := by
  rw [State.fget_of_regs_eq s.regs_clocksLost, State.timeLost_state]

theorem State.clocksLost_timeLost (s : State) : s.clocksLost.fbit TIM_STATUS_TIME_LOST = true := by
  rw [State.fbit_of_fget_eq (State.fget_of_regs_eq s.regs_clocksLost _ _ _ _ _), State.timeLost_timeLost]

theorem State.clocksLost_regsKept (s : State) : regsKept s s.clocksLost (anyOf [TIM_STATUS.addr 0 0 0 0]) :=
  (((regsKept.refl s _).of_regs_eq s.regs_stopClocks).trans s.stopClocks.timeLost_regsKept).of_regs_eq s.regs_clocksLost

/-- The part of the statement about both losses: CLK_STATUS as `t` has it stays, and the rest is as R30, R395 and R509 say. -/
theorem State.clocksLost_spec {s t : State} (hr : regsKept s t (anyOf [CLK_STATUS.addr 0 0 0 0, TIM_STATUS.addr 0 0 0 0]))
    (hm : t.mem = s.mem) (hf : t.fcu = s.fcu) : t.clocksLost.up = false ∧ (∀ x ∈ t.clocksLost.clk.pendingStep, x = none) ∧
      t.clocksLost.fget TIM_STATUS_STATE = 2 ∧ t.clocksLost.fbit TIM_STATUS_TIME_LOST = true ∧
      t.clocksLost.fcu.reports = s.fcu.reports ++ [⟨0x030, clsF, none, 0, none, false⟩] ∧
      regsKept s t.clocksLost (anyOf [CLK_STATUS.addr 0 0 0 0, TIM_STATUS.addr 0 0 0 0]) ∧ memKept s t.clocksLost nowhere :=
  ⟨t.clocksLost_up, t.clocksLost_pendingStep, t.clocksLost_state, t.clocksLost_timeLost, hf ▸ t.clocksLost_reports,
    hr.trans (t.clocksLost_regsKept.mono (by simp +contextual [anyOf])), .of_mem_eq (t.mem_clocksLost.trans hm) _⟩

theorem State.clocksLost_clkStatus (s : State) {f : Field} (hf : f.reg = CLK_STATUS) : s.clocksLost.fbit f = s.fbit f :=
  s.clocksLost_regsKept.fbit (by rw [hf]; exact not_anyOf (by decide))

/-! ### Start (R25, R411, R509) -/

/-- What CLK_STATUS shows once the clocks run. -/
def State.showLock (s : State) : State :=
  ((s.fset CLK_STATUS_PLL_LOCK 1).fset CLK_STATUS_REF_PRESENT 1).fset CLK_STATUS_LOCK_TIME_US (s.refTick / 125)

theorem State.showLock_regsKept (s : State) : regsKept s s.showLock (anyOf [CLK_STATUS.addr 0 0 0 0]) :=
  (((regsKept.refl s _).fset (f := CLK_STATUS_PLL_LOCK) _ (anyOf_of_mem (by decide))).fset (f := CLK_STATUS_REF_PRESENT) _
    (anyOf_of_mem (by decide))).fset (f := CLK_STATUS_LOCK_TIME_US) _ (anyOf_of_mem (by decide))

theorem State.showLock_pllLock (s : State) : s.showLock.fbit CLK_STATUS_PLL_LOCK = true := by
  rw [State.showLock, State.fbit_fset_other _ _ _ _ _ _ (by rfl) (by decide), State.fbit_fset_other _ _ _ _ _ _ (by rfl) (by decide),
    State.fbit_fset_one _ _ _ _ _ (by decide) (by rfl)]

theorem State.showLock_refPresent (s : State) : s.showLock.fbit CLK_STATUS_REF_PRESENT = true := by
  rw [State.showLock, State.fbit_fset_other _ _ _ _ _ _ (by rfl) (by decide), State.fbit_fset_one _ _ _ _ _ (by decide) (by rfl)]

/-- The new grid of ration periods and control intervals, counted from now. -/
def State.newGrid (s : State) : State :=
  let s := { s with clk := { s.clk with running := true, started := true, periodStart := s.refTick } }
  let core (c : Nat) : PwrCore := { PwrCore.empty with start := s.arrNow c, since := s.arrNow c }
  { s with pwr := { s.pwr with
    samples := 0, sum := 0, start := s.refTick, sampled := s.refTick, thermal := s.refTick, cores := (List.range 8).map core } }

@[simp] theorem State.regs_newGrid (s : State) : s.newGrid.regs = s.regs := rfl
@[simp] theorem State.mem_newGrid (s : State) : s.newGrid.mem = s.mem := rfl
@[simp] theorem State.clk_newGrid (s : State) :
    s.newGrid.clk = { s.clk with running := true, started := true, periodStart := s.refTick } := rfl

theorem State.startClocks_eq (s : State) : s.startClocks = (s.showLock.rebaseAll s.showLock.refTick).newGrid := rfl

/-- A start is shown in CLK_STATUS and in no other register. -/
theorem State.regs_startClocks (s : State) : s.startClocks.regs = s.showLock.regs := by
  rw [State.startClocks_eq, State.regs_newGrid, State.regs_rebaseAll]

@[simp] theorem State.mem_startClocks (s : State) : s.startClocks.mem = s.mem := by
  rw [State.startClocks_eq, State.mem_newGrid, State.mem_rebaseAll]; rfl

/-- The clock unit at a start: a new grid, and the requests for divider steps as they were. -/
theorem State.clk_startClocks (s : State) : ∃ b, s.startClocks.clk =
    { s.clk with arrBase := b, running := true, started := true, periodStart := s.refTick } := by
  obtain ⟨b, hb⟩ := s.showLock.clk_rebaseAll s.showLock.refTick
  exact ⟨b, by rw [State.startClocks_eq, State.clk_newGrid, State.refTick_rebaseAll, hb]; rfl⟩

theorem State.startClocks_regsKept (s : State) : regsKept s s.startClocks (anyOf [CLK_STATUS.addr 0 0 0 0]) :=
  s.showLock_regsKept.of_regs_eq s.regs_startClocks

/-! ### The four commands -/

/-- CLOCKS_START (R25, R395). -/
theorem clocksStart_spec {s : State} (hr : s.clk.inReset = false) (hs : s.clk.started = false) : ∃ t,
    exec .clocksStart s = .next t ∧ t.up = true ∧ t.clk.started = true ∧ t.clk.periodStart = s.refTick ∧
    (∀ c, c < 8 → t.coreStep c = 0) ∧ t.tim.sec = 0 ∧ t.tim.ns = 0 ∧ t.fbit CLK_STATUS_PLL_LOCK = true ∧
    t.fbit CLK_STATUS_REF_PRESENT = true ∧ regsKept s t (anyOf [CLK_STATUS.addr 0 0 0 0, CLK_CORE_STEP.addr 0 0 0 0]) ∧
    memKept s t nowhere := by
  obtain ⟨b, hb⟩ := s.clk_startClocks
  refine ⟨_, due_of_true (by rw [hr, hs]; rfl) _ _, ?_⟩
  generalize hv : s.startClocks.fset CLK_CORE_STEP_STEP 0 = v
  have hclk : v.clk = s.startClocks.clk := by rw [← hv]; rfl
  have hkept : regsKept s.startClocks v (anyOf [CLK_CORE_STEP.addr 0 0 0 0]) :=
    hv ▸ (regsKept.refl _ _).fset (f := CLK_CORE_STEP_STEP) 0 (anyOf_of_mem (by decide))
  have hstatus (f : Field) (hf : f.reg = CLK_STATUS) : v.fbit f = s.showLock.fbit f :=
    (hkept.fbit (by rw [hf]; exact not_anyOf (by decide))).trans
      (State.fbit_of_fget_eq (State.fget_of_regs_eq s.regs_startClocks _ _ _ _ _))
  refine ⟨?_, ?_, ?_, ?_, rfl, rfl, ?_, ?_, ?_, ?_⟩
  · change (v.clk.running && !v.clk.inReset) = true
    rw [hclk, hb]; simp [hr]
  · change v.clk.started = true
    rw [hclk, hb]
  · change v.clk.periodStart = s.refTick
    rw [hclk, hb]
  · intro c _
    change bits (v.fget CLK_CORE_STEP_STEP) (2 * c) 2 = 0
    rw [← hv, State.fget_fset_self _ _ _ _ _ _ (by decide)]
    simp [bits]
  · exact (hstatus _ rfl).trans s.showLock_pllLock
  · exact (hstatus _ rfl).trans s.showLock_refPresent
  · exact ((s.startClocks_regsKept.mono (by simp +contextual [anyOf])).trans
      (hkept.mono (by simp +contextual [anyOf]))).of_regs_eq rfl
  · have hm : v.mem = s.mem := by rw [← hv, State.mem_fset, State.mem_startClocks]
    exact .of_mem_eq (by exact hm) _

/-- CLOCKS_RESTART (R509): every core keeps its step. -/
theorem clocksRestart_spec {s : State} (hr : s.clk.inReset = false) (hs : s.clk.started = true) (hn : s.clk.running = false) :
    ∃ t, exec .clocksRestart s = .next t ∧ t.up = true ∧ t.clk.periodStart = s.refTick ∧
    (∀ c, t.coreStep c = s.coreStep c) ∧ t.clk.pendingStep = s.clk.pendingStep ∧
    regsKept s t (anyOf [CLK_STATUS.addr 0 0 0 0]) ∧ memKept s t nowhere := by
  obtain ⟨b, hb⟩ := s.clk_startClocks
  have hstep : s.startClocks.fget CLK_CORE_STEP_STEP = s.fget CLK_CORE_STEP_STEP :=
    s.startClocks_regsKept.fget (not_anyOf (by decide))
  refine ⟨s.startClocks, due_of_true (by rw [hr, hs, hn]; rfl) _ _, ?_, ?_, fun c => ?_, ?_, s.startClocks_regsKept,
    .of_mem_eq s.mem_startClocks _⟩
  · simp [State.up, hb, hr]
  · rw [hb]
  · rw [State.coreStep, hstep, State.coreStep]
  · rw [hb]

/-- PLL_LOCK_LOSS (R30, R509). -/
theorem pllLockLoss_spec {s : State} (hl : s.fbit CLK_STATUS_PLL_LOCK = true) (hs : s.clk.started = true) :
    exec .pllLockLoss s = .next ((s.fset CLK_STATUS_PLL_LOCK 0).fset CLK_STATUS_LOCK_LOST 1).clocksLost :=
  due_of_true (by rw [hl, hs]; rfl) _ _

/-- The state in which the reference has just been found missing (R30). -/
def State.refMissing (s : State) : State :=
  let t := (s.fset CLK_STATUS_REF_PRESENT 0).fset CLK_STATUS_REF_LOST 1
  { t with pins := { t.pins with faultN := true } }

/-- REFERENCE_LOSS (R30). -/
theorem referenceLoss_spec {s : State} (hl : s.fbit CLK_STATUS_REF_PRESENT = true) (hs : s.clk.started = true) :
    exec .referenceLoss s = .next s.refMissing.clocksLost := due_of_true (by rw [hl, hs]; rfl) _ _

/-- Settles O7: the two losses through what follows either of them (`State.clocksLost_spec`). -/
theorem clocksStartStopAndRestart : Obligations.ClocksStartStopAndRestart := by
  unfold Obligations.ClocksStartStopAndRestart
  refine ⟨fun s => clocksStart_spec, fun s hl hs => ?_, fun s hl hs => ?_, fun s => clocksRestart_spec⟩
  · generalize hv : (s.fset CLK_STATUS_PLL_LOCK 0).fset CLK_STATUS_LOCK_LOST 1 = v
    have hkept : regsKept s v (anyOf [CLK_STATUS.addr 0 0 0 0, TIM_STATUS.addr 0 0 0 0]) :=
      hv ▸ ((regsKept.refl s _).fset (f := CLK_STATUS_PLL_LOCK) 0 (anyOf_of_mem (by decide))).fset
        (f := CLK_STATUS_LOCK_LOST) 1 (anyOf_of_mem (by decide))
    have hlock : v.fbit CLK_STATUS_PLL_LOCK = false := by
      rw [← hv, State.fbit_fset_other _ _ _ _ _ _ (by rfl) (by decide), State.fbit_fset_zero _ _ _ _ _ (by decide)]
    have hlost : v.fbit CLK_STATUS_LOCK_LOST = true := by rw [← hv, State.fbit_fset_one _ _ _ _ _ (by decide) (by rfl)]
    obtain ⟨hup, hpend, hrest⟩ := State.clocksLost_spec hkept (by rw [← hv]; rfl) (by rw [← hv]; rfl)
    exact ⟨_, hv ▸ pllLockLoss_spec hl hs, hup, (v.clocksLost_clkStatus rfl).trans hlock,
      (v.clocksLost_clkStatus rfl).trans hlost, hpend, hrest⟩
  · have hregs : s.refMissing.regs = ((s.fset CLK_STATUS_REF_PRESENT 0).fset CLK_STATUS_REF_LOST 1).regs := rfl
    have hkept : regsKept s s.refMissing (anyOf [CLK_STATUS.addr 0 0 0 0, TIM_STATUS.addr 0 0 0 0]) :=
      (((regsKept.refl s _).fset (f := CLK_STATUS_REF_PRESENT) 0 (anyOf_of_mem (by decide))).fset
        (f := CLK_STATUS_REF_LOST) 1 (anyOf_of_mem (by decide))).of_regs_eq hregs
    have hpresent : s.refMissing.fbit CLK_STATUS_REF_PRESENT = false := by
      rw [State.fbit_of_fget_eq (State.fget_of_regs_eq hregs _ _ _ _ _), State.fbit_fset_other _ _ _ _ _ _ (by rfl) (by decide),
        State.fbit_fset_zero _ _ _ _ _ (by decide)]
    have hlost : s.refMissing.fbit CLK_STATUS_REF_LOST = true := by
      rw [State.fbit_of_fget_eq (State.fget_of_regs_eq hregs _ _ _ _ _), State.fbit_fset_one _ _ _ _ _ (by decide) (by rfl)]
    obtain ⟨hup, hpend, hrest⟩ := State.clocksLost_spec (t := s.refMissing) hkept rfl rfl
    exact ⟨_, referenceLoss_spec hl hs, hup, by rw [State.pins_clocksLost]; rfl,
      (State.clocksLost_clkStatus _ rfl).trans hpresent, (State.clocksLost_clkStatus _ rfl).trans hlost, hpend, hrest⟩

end Sys2Proof.Machine
end

section
/-! SUPPORT. The die-to-die links: what a replay counts and reports, and O9. -/

namespace Sys2Proof.Machine

/-! ### Transfers while no injection is armed (R510) -/

theorem State.injectCheck_of_unarmed {s : State} (h : s.fbit FCU_INJECT_ARM = false) (src two : Nat) (r : Option DescRef) (id : Nat)
    (c : Option Nat) : s.injectCheck src two r id c = (s, 0) := by
  simp only [State.injectCheck, h, Bool.false_and, Bool.false_eq_true, if_false]

theorem State.linkCheck_of_unarmed {s : State} (h : s.fbit FCU_INJECT_ARM = false) (l : Nat) : s.linkCheck l = s := by
  simp only [State.linkCheck, State.injectCheck_of_unarmed h, if_true]

/-- Bytes received count, and nothing else happens. -/
theorem State.linkRx_of_unarmed {s : State} (h : s.fbit FCU_INJECT_ARM = false) (l n : Nat) :
    s.linkRx l n = if n = 0 then s else s.fadd D2D_Ln_RX_B_BYTES_B n l := by
  rw [State.linkRx, State.linkCheck_of_unarmed h]

theorem State.linkRx_rxBytes_of_unarmed {s : State} (h : s.fbit FCU_INJECT_ARM = false) (l n : Nat) :
    (s.linkRx l n).fget D2D_Ln_RX_B_BYTES_B l = (s.fget D2D_Ln_RX_B_BYTES_B l + n) % 2 ^ 64 := by
  rw [State.linkRx_of_unarmed h]
  split
  · next hn => rw [hn]; exact (Nat.mod_eq_of_lt (s.fget_lt D2D_Ln_RX_B_BYTES_B l 0 0 0)).symm
  · exact State.fget_fadd_self _ _ _ _ _ _ (by decide)

/-- They count in D2D_Ln_RX_B alone. -/
theorem State.linkRx_regsKept_of_unarmed {s : State} (h : s.fbit FCU_INJECT_ARM = false) (l n : Nat) :
    regsKept s (s.linkRx l n) (anyOf [D2D_Ln_RX_B.addr l 0 0 0]) := by
  rw [State.linkRx_of_unarmed h]
  split
  · exact .refl _ _
  · exact (regsKept.refl s _).fadd (f := D2D_Ln_RX_B_BYTES_B) n (anyOf_of_mem (List.mem_singleton.2 rfl))

/-! ### A replay (R19) -/

/-- A replay as its link's registers show it: counted, and CRC_SEEN. -/
def State.replaySeen (s : State) (l : Nat) : State := (s.fadd D2D_Ln_REPLAYS_COUNT 1 l).fset D2D_Ln_STATUS_CRC_SEEN 1 l

/-- The run of failures of a link's transfer. -/
def State.setLinkFails (s : State) (l n : Nat) : State := { s with clk := { s.clk with linkFails := s.clk.linkFails.set l n } }

@[simp] theorem State.regs_setLinkFails (s : State) (l n : Nat) : (s.setLinkFails l n).regs = s.regs := rfl
@[simp] theorem State.clk_replaySeen (s : State) (l : Nat) : (s.replaySeen l).clk = s.clk := rfl

theorem State.linkFails_setLinkFails {s : State} {l : Nat} (n : Nat) (h : l < s.clk.linkFails.length) :
    (s.setLinkFails l n).clk.linkFails.getD l 0 = n := by
  simp [State.setLinkFails, List.getD_eq_getElem?_getD, h]

theorem State.replaySeen_regsKept (s : State) (l : Nat) :
    regsKept s (s.replaySeen l) (anyOf [D2D_Ln_REPLAYS.addr l 0 0 0, D2D_Ln_STATUS.addr l 0 0 0]) :=
  ((regsKept.refl s _).fadd (f := D2D_Ln_REPLAYS_COUNT) 1 (anyOf_of_mem (List.mem_cons_self ..))).fset
    (f := D2D_Ln_STATUS_CRC_SEEN) 1 (anyOf_of_mem (List.mem_cons_of_mem _ (List.mem_cons_self ..)))

theorem State.replaySeen_crcSeen (s : State) (l : Nat) : (s.replaySeen l).fbit D2D_Ln_STATUS_CRC_SEEN l = true :=
  State.fbit_fset_one _ _ _ _ _ (by decide) rfl

theorem State.replaySeen_up (s : State) (l : Nat) : (s.replaySeen l).fbit D2D_Ln_STATUS_UP l = s.fbit D2D_Ln_STATUS_UP l := by
  rw [State.replaySeen, State.fbit_fset_other _ _ _ _ _ _ (by rfl) (by decide),
    State.fbit_fadd_ne _ _ (by simp only [Reg.addr, D2D_Ln_STATUS_UP, D2D_Ln_REPLAYS_COUNT, D2D_Ln_STATUS, D2D_Ln_REPLAYS]; omega)]

theorem State.replaySeen_replays (s : State) (l : Nat) :
    (s.replaySeen l).fget D2D_Ln_REPLAYS_COUNT l = (s.fget D2D_Ln_REPLAYS_COUNT l + 1) % 2 ^ 32 := by
  rw [State.replaySeen, State.fget_fset_ne _ _
      (by simp only [Reg.addr, D2D_Ln_STATUS_CRC_SEEN, D2D_Ln_REPLAYS_COUNT, D2D_Ln_STATUS, D2D_Ln_REPLAYS]; omega),
    State.fget_fadd_self _ _ _ _ _ _ (by decide)]
  rfl

theorem State.replaySeen_rxBytes (s : State) (l : Nat) :
    (s.replaySeen l).fget D2D_Ln_RX_B_BYTES_B l = s.fget D2D_Ln_RX_B_BYTES_B l :=
  (s.replaySeen_regsKept l).fget (not_anyOf (by
    simp [Reg.addr, D2D_Ln_RX_B_BYTES_B, D2D_Ln_RX_B, D2D_Ln_REPLAYS, D2D_Ln_STATUS]))

theorem State.replaySeen_unarmed {s : State} (h : s.fbit FCU_INJECT_ARM = false) (l : Nat) :
    (s.replaySeen l).fbit FCU_INJECT_ARM = false := by
  rw [(s.replaySeen_regsKept l).fbit (not_anyOf (by
    simp only [Reg.addr, FCU_INJECT_ARM, FCU_INJECT, D2D_Ln_REPLAYS, D2D_Ln_STATUS, List.mem_cons, List.not_mem_nil,
      or_false]; omega)), h]

/-- A link after a replay that succeeded: the run of failures is over, and the bytes are in. -/
def State.replayDone (s : State) (l n : Nat) : State := ((s.replaySeen l).setLinkFails l 0).linkRx l n

/-- A link after the sixteenth failure of a transfer in a row. -/
def State.replayDown (s : State) (l : Nat) : State :=
  (((s.replaySeen l).setLinkFails l 0).fset D2D_Ln_STATUS_UP 0 l).fset D2D_Ln_STATUS_DOWN_LATCHED 1 l

/-- LINK_REPLAY on a link that is up, by its three outcomes (R19). -/
theorem exec_linkReplay {s : State} {l : Nat} (n : Nat) (ok : Bool) (hl : l < 3) (hu : s.up = true)
    (hup : s.fbit D2D_Ln_STATUS_UP l = true) : exec (.linkReplay l n ok) s = .next (
      if ok then (s.replayDone l n).report (0x320 + l) clsC
      else if s.clk.linkFails.getD l 0 = 15 then (s.replayDown l).report (0x320 + l) clsF
      else (s.replaySeen l).setLinkFails l (s.clk.linkFails.getD l 0 + 1)) := by
  change execLinkReplay l n ok s = _
  rw [execLinkReplay, unit_of_true (decide_eq_true hl), due_of_true (by rw [hu, hup]; rfl)]
  rfl

/-! ### The three outcomes in the link's registers -/

section
variable {s : State} {l : Nat}

theorem State.setLinkFails_unarmed (h : s.fbit FCU_INJECT_ARM = false) (n : Nat) :
    ((s.replaySeen l).setLinkFails l n).fbit FCU_INJECT_ARM = false := State.replaySeen_unarmed h l

theorem State.replayDone_regsKept (h : s.fbit FCU_INJECT_ARM = false) (n : Nat) :
    regsKept (s.replaySeen l) (s.replayDone l n) (anyOf [D2D_Ln_RX_B.addr l 0 0 0]) :=
  ((regsKept.refl _ _).of_regs_eq (State.regs_setLinkFails _ _ _)).trans
    (State.linkRx_regsKept_of_unarmed (State.setLinkFails_unarmed h 0) l n)

theorem State.replayDone_rxBytes (h : s.fbit FCU_INJECT_ARM = false) (n : Nat) :
    (s.replayDone l n).fget D2D_Ln_RX_B_BYTES_B l = (s.fget D2D_Ln_RX_B_BYTES_B l + n) % 2 ^ 64 := by
  rw [State.replayDone, State.linkRx_rxBytes_of_unarmed (State.setLinkFails_unarmed h 0),
    State.fget_of_regs_eq (State.regs_setLinkFails _ _ _), State.replaySeen_rxBytes]

/-- The registers of a link are no RX_B register. -/
theorem linkReg_ne_rx {r : Reg} (h : r.base = 0x10000600000 ∨ r.base = 0x10000600008) (hs : r.s1 = 0x100) :
    r.addr l 0 0 0 ∉ [D2D_Ln_RX_B.addr l 0 0 0] := by
  simp only [Reg.addr, hs, D2D_Ln_RX_B, List.mem_singleton]
  omega

theorem State.replayDown_regsKept (l : Nat) : regsKept (s.replaySeen l) (s.replayDown l) (anyOf [D2D_Ln_STATUS.addr l 0 0 0]) :=
  (((regsKept.refl _ _).of_regs_eq (State.regs_setLinkFails _ l 0)).fset (f := D2D_Ln_STATUS_UP) 0
    (anyOf_of_mem (List.mem_singleton.2 rfl))).fset (f := D2D_Ln_STATUS_DOWN_LATCHED) 1 (anyOf_of_mem (List.mem_singleton.2 rfl))

theorem State.replayDown_down (s : State) (l : Nat) : (s.replayDown l).fbit D2D_Ln_STATUS_UP l = false := by
  rw [State.replayDown, State.fbit_fset_other _ _ _ _ _ _ (by rfl) (by decide), State.fbit_fset_zero _ _ _ _ _ (by decide)]

theorem State.replayDown_latched (s : State) (l : Nat) : (s.replayDown l).fbit D2D_Ln_STATUS_DOWN_LATCHED l = true :=
  State.fbit_fset_one _ _ _ _ _ (by decide) rfl

theorem State.replayDown_crcSeen (s : State) (l : Nat) : (s.replayDown l).fbit D2D_Ln_STATUS_CRC_SEEN l = true := by
  rw [State.replayDown, State.fbit_fset_other _ _ _ _ _ _ (by rfl) (by decide), State.fbit_fset_other _ _ _ _ _ _ (by rfl) (by decide)]
  exact s.replaySeen_crcSeen l

end

/-- Nothing but a register changes. -/
theorem State.linkRx_frame_of_unarmed {s : State} (h : s.fbit FCU_INJECT_ARM = false) (l n : Nat) :
    (s.linkRx l n).mem = s.mem ∧ (s.linkRx l n).clk = s.clk ∧ (s.linkRx l n).fcu = s.fcu := by
  rw [State.linkRx_of_unarmed h]
  split <;> exact ⟨rfl, rfl, rfl⟩

/-- Settles O9: each of the three outcomes of `exec_linkReplay` meets its own clause. -/
theorem linkReplayCountsAndReports : Obligations.LinkReplayCountsAndReports := by
  unfold Obligations.LinkReplayCountsAndReports
  intro l n ok s hl hlen hu hup harm
  have hlen' : l < (s.replaySeen l).clk.linkFails.length := by rw [State.clk_replaySeen]; omega
  refine ⟨_, exec_linkReplay n ok hl hu hup, ?_⟩
  cases ok with
  | true =>
    have hkept := State.replayDone_regsKept (l := l) harm n
    obtain ⟨hmem, hclk, hfcu⟩ := State.linkRx_frame_of_unarmed (State.setLinkFails_unarmed (l := l) harm 0) l n
    simp only [if_true]
    refine ⟨?_, .of_mem_eq hmem _, fun _ => ⟨?_, ?_, ?_⟩, by simp, by simp⟩
    · exact (hkept.fbit (linkReg_ne_rx (.inl rfl) rfl)).trans (s.replaySeen_crcSeen l)
    · rw [State.clk_report, State.replayDone, hclk, State.linkFails_setLinkFails 0 hlen']
    · exact ((hkept.fbit (linkReg_ne_rx (.inl rfl) rfl)).trans (s.replaySeen_up l)).trans hup
    · simp only [State.report, State.replayDone, hfcu]; rfl
  | false =>
    simp only [Bool.false_eq_true, if_false]
    by_cases hf : s.clk.linkFails.getD l 0 = 15
    · rw [if_pos hf]
      exact ⟨s.replayDown_crcSeen l, .of_mem_eq rfl _, by simp,
        fun _ _ => ⟨s.replayDown_down l, s.replayDown_latched l, rfl⟩, fun _ h => absurd hf h⟩
    · rw [if_neg hf]
      exact ⟨s.replaySeen_crcSeen l, .of_mem_eq rfl _, by simp, fun _ h => absurd h hf,
        fun _ _ => ⟨State.linkFails_setLinkFails _ hlen', (s.replaySeen_up l).trans hup, rfl⟩⟩

/-- What every outcome of a replay counts (R19, R21). -/
theorem linkReplay_counts {s : State} {l : Nat} (n : Nat) (ok : Bool) (hl : l < 3) (hu : s.up = true)
    (hup : s.fbit D2D_Ln_STATUS_UP l = true) (harm : s.fbit FCU_INJECT_ARM = false) : ∃ t, exec (.linkReplay l n ok) s = .next t ∧
    t.fget D2D_Ln_REPLAYS_COUNT l = (s.fget D2D_Ln_REPLAYS_COUNT l + 1) % 2 ^ 32 ∧
    t.fget D2D_Ln_RX_B_BYTES_B l = (s.fget D2D_Ln_RX_B_BYTES_B l + (if ok then n else 0)) % 2 ^ 64 := by
  have hrx : s.fget D2D_Ln_RX_B_BYTES_B l = (s.fget D2D_Ln_RX_B_BYTES_B l + 0) % 2 ^ 64 :=
    (Nat.mod_eq_of_lt (s.fget_lt D2D_Ln_RX_B_BYTES_B l 0 0 0)).symm
  refine ⟨_, exec_linkReplay n ok hl hu hup, ?_⟩
  cases ok with
  | true =>
    have hkept := State.replayDone_regsKept (l := l) harm n
    exact ⟨(hkept.fget (linkReg_ne_rx (.inr rfl) rfl)).trans (s.replaySeen_replays l), State.replayDone_rxBytes harm n⟩
  | false =>
    simp only [Bool.false_eq_true, if_false]
    rw [← hrx]
    split
    · have hkept := State.replayDown_regsKept (s := s) l
      have hne {r : Reg} (h : r.base = 0x10000600008 ∨ r.base = 0x10000600018) (hs : r.s1 = 0x100) :
          r.addr l 0 0 0 ∉ [D2D_Ln_STATUS.addr l 0 0 0] := by
        simp only [Reg.addr, hs, D2D_Ln_STATUS, List.mem_singleton]
        omega
      exact ⟨(hkept.fget (hne (.inl rfl) rfl)).trans (s.replaySeen_replays l),
        (hkept.fget (hne (.inr rfl) rfl)).trans (s.replaySeen_rxBytes l)⟩
    · exact ⟨s.replaySeen_replays l, s.replaySeen_rxBytes l⟩

end Sys2Proof.Machine
end

section
/-! SUPPORT. The ration-period boundary: a new period of every class, and the divider steps taken at it. O8. -/

namespace Sys2Proof.Machine

/-! ### One class at the start of a period (R279) -/

/-- Classes have USED registers of their own. -/
theorem rationUsed_addr_ne {k c : Nat} (h : k ≠ c) : SYS_RATION_c_USED.addr k 0 0 0 ≠ SYS_RATION_c_USED.addr c 0 0 0 := by
  simp only [Reg.addr, SYS_RATION_c_USED]
  omega

/-- The addresses of the USED registers of the sixteen classes. -/
def rationUsed : Nat → Prop := fun a => ∃ c, c < 16 ∧ a = SYS_RATION_c_USED.addr c 0 0 0

theorem State.newPeriod_regsKept (s : State) {c : Nat} (W : Nat → Prop) (hw : W (SYS_RATION_c_USED.addr c 0 0 0)) :
    regsKept s (s.newPeriod c) W :=
  (((regsKept.refl s _).fset (f := SYS_RATION_c_USED_LAST_TX) _ hw).fset (f := SYS_RATION_c_USED_USED_TX) _ hw).fset
    (f := SYS_RATION_c_USED_BORROWED_TX) _ hw

theorem State.newPeriod_self (s : State) (c : Nat) : (s.newPeriod c).usedTx c = 0 ∧
    (s.newPeriod c).fget SYS_RATION_c_USED_LAST_TX c = s.usedTx c ∧ (s.newPeriod c).fget SYS_RATION_c_USED_BORROWED_TX c = 0 := by
  refine ⟨?_, ?_, ?_⟩
  · rw [State.usedTx, State.newPeriod, State.fget_fset_other _ _ _ _ _ _ (by rfl) (by decide),
      State.fget_fset_self _ _ _ _ _ _ (by decide), Nat.zero_mod]
  · rw [State.newPeriod, State.fget_fset_other _ _ _ _ _ _ (by rfl) (by decide), State.fget_fset_other _ _ _ _ _ _ (by rfl) (by decide),
      State.fget_fset_self _ _ _ _ _ _ (by decide)]
    exact Nat.mod_eq_of_lt (s.fget_lt SYS_RATION_c_USED_USED_TX c 0 0 0)
  · rw [State.newPeriod, State.fget_fset_self _ _ _ _ _ _ (by decide), Nat.zero_mod]

/-- The classes below `n` begin their period: USED_TX and BORROWED_TX at 0 and the past period's value in LAST_TX; the others stay. -/
theorem State.newPeriods_spec (s : State) (n : Nat) (hn : n ≤ 16) : ∃ r, (List.range n).foldl State.newPeriod s = { s with regs := r } ∧
    regsKept s { s with regs := r } rationUsed ∧
    (∀ k, k < n → State.usedTx { s with regs := r } k = 0 ∧
      State.fget { s with regs := r } SYS_RATION_c_USED_LAST_TX k = s.usedTx k ∧
      State.fget { s with regs := r } SYS_RATION_c_USED_BORROWED_TX k = 0) ∧
    (∀ k, n ≤ k → State.usedTx { s with regs := r } k = s.usedTx k) := by
  induction n with
  | zero => exact ⟨s.regs, rfl, .refl _ _, by simp, fun _ _ => rfl⟩
  | succ n ih =>
    obtain ⟨r, hr, hkept, hdone, hrest⟩ := ih (by omega)
    generalize hu : ({ s with regs := r } : State) = u at *
    have hnew : (List.range (n + 1)).foldl State.newPeriod s = u.newPeriod n := by rw [foldl_range_succ, hr]
    have hform : u.newPeriod n = { s with regs := (u.newPeriod n).regs } := by rw [← hu]; rfl
    have hother {k : Nat} (h : k ≠ n) : regsKept u (u.newPeriod n) (fun a => a ≠ SYS_RATION_c_USED.addr k 0 0 0) :=
      u.newPeriod_regsKept _ (rationUsed_addr_ne (Ne.symm h))
    refine ⟨(u.newPeriod n).regs, hnew.trans hform, ?_, fun k hk => ?_, fun k hk => ?_⟩
    · exact hform ▸ hkept.trans (u.newPeriod_regsKept _ ⟨n, by omega, rfl⟩)
    · rw [← hform]
      by_cases hkn : k = n
      · rw [hkn, ← hrest n (by omega)]
        exact u.newPeriod_self n
      · obtain ⟨h1, h2, h3⟩ := hdone k (by omega)
        exact ⟨((hother hkn).fget (f := SYS_RATION_c_USED_USED_TX) (by simp [SYS_RATION_c_USED_USED_TX])).trans h1,
          ((hother hkn).fget (f := SYS_RATION_c_USED_LAST_TX) (by simp [SYS_RATION_c_USED_LAST_TX])).trans h2,
          ((hother hkn).fget (f := SYS_RATION_c_USED_BORROWED_TX) (by simp [SYS_RATION_c_USED_BORROWED_TX])).trans h3⟩
    · rw [← hform]
      exact ((hother (show k ≠ n by omega)).fget (f := SYS_RATION_c_USED_USED_TX) (by simp [SYS_RATION_c_USED_USED_TX])).trans
        (hrest k (by omega))

/-! ### Budgets in force, EXHAUSTED, and what is let go -/

theorem State.budgetOf_takeRations (s : State) {k : Nat} (hk : k < 16) :
    s.takeRations.budgetOf k = s.fget SYS_RATION_c_CFG_BUDGET_TX k := by
  simp [State.takeRations, State.budgetOf, List.getD_eq_getElem?_getD, hk]

/-- EXHAUSTED and EXHAUSTED_SEEN of a class lie in SYS_RATION_STATUS; nothing else changes. -/
theorem State.markExhausted_eq (s : State) (c : Nat) : ∃ r, s.markExhausted c = { s with regs := r } ∧
    regsKept s { s with regs := r } (anyOf [SYS_RATION_STATUS.addr 0 0 0 0]) := by
  unfold State.markExhausted
  dsimp only
  split
  · exact ⟨_, rfl, ((regsKept.refl s _).fset (f := SYS_RATION_STATUS_EXHAUSTED) _ (anyOf_of_mem (by decide))).fset
      (f := SYS_RATION_STATUS_EXHAUSTED_SEEN) _ (anyOf_of_mem (by decide))⟩
  · exact ⟨_, rfl, (regsKept.refl s _).fset (f := SYS_RATION_STATUS_EXHAUSTED) _ (anyOf_of_mem (by decide))⟩

theorem State.markAllExhausted_eq (s : State) (l : List Nat) : ∃ r, l.foldl State.markExhausted s = { s with regs := r } ∧
    regsKept s { s with regs := r } (anyOf [SYS_RATION_STATUS.addr 0 0 0 0]) := by
  refine List.foldlRecOn (motive := fun u : State => ∃ r, u = { s with regs := r } ∧
    regsKept s { s with regs := r } (anyOf [SYS_RATION_STATUS.addr 0 0 0 0])) l _ ⟨s.regs, rfl, .refl _ _⟩ ?_
  rintro u ⟨r, rfl, hr⟩ c -
  obtain ⟨r', hr', hk⟩ := State.markExhausted_eq { s with regs := r } c
  exact ⟨r', hr', hr.trans hk⟩

/-- Where no class holds a transaction the boundary releases nothing (R280). -/
theorem State.releaseHeld_of_none {s : State} {c : Nat} (h : s.heldTx c = 0) : s.releaseHeld c = (s, []) := by
  simp only [State.releaseHeld, h, if_true]

/-- One class's part of what a boundary lets go, with what the classes before it let go. -/
def State.releaseNext (x : State × List HeldOp) (c : Nat) : State × List HeldOp :=
  let y := x.1.releaseHeld c
  (y.1, x.2 ++ y.2)

theorem State.releaseAll_of_none {s : State} {l : List Nat} (h : ∀ c ∈ l, s.heldTx c = 0) (ops : List HeldOp) :
    l.foldl State.releaseNext (s, ops) = (s, ops) := by
  induction l with
  | nil => rfl
  | cons c l ih =>
    have hc : State.releaseNext (s, ops) c = (s, ops) := by
      simp only [State.releaseNext, State.releaseHeld_of_none (h c (List.mem_cons_self ..)), List.append_nil]
    rw [List.foldl_cons, hc]
    exact ih (fun d hd => h d (List.mem_cons_of_mem _ hd))

/-- The end of the ration part of a boundary: the pushes of the period forgotten, the period counted. -/
def State.endRations (x : State × List HeldOp) : State × List HeldOp :=
  (({ x.1 with drover := { x.1.drover with pushes := [] } } : State).fadd SYS_RATION_PERIODS_COUNT 1, x.2)

theorem State.rationBoundary_eq (s : State) : s.rationBoundary = State.endRations ((List.range 16).foldl State.releaseNext
    ((List.range 16).foldl State.markExhausted ((List.range 16).foldl State.newPeriod s).takeRations, [])) := by
  unfold State.rationBoundary State.endRations State.releaseNext
  rfl

/-- The ration registers that a boundary where nothing is held, or a charge that is issued at once, may write. -/
def boundaryRegs : Nat → Prop := fun a => rationUsed a ∨ a ∈ [SYS_RATION_STATUS.addr 0 0 0 0, SYS_RATION_PERIODS.addr 0 0 0 0]

theorem not_boundaryRegs {r : Reg} (h : r.addr 0 0 0 0 < 0x10000004000 ∨ 0x10000004400 < r.addr 0 0 0 0) :
    ¬ boundaryRegs (r.addr 0 0 0 0) := by
  generalize r.addr 0 0 0 0 = a at *
  rintro (⟨c, hc, rfl⟩ | hm)
  · simp only [Reg.addr, SYS_RATION_c_USED] at h
    omega
  · simp only [Reg.addr, SYS_RATION_STATUS, SYS_RATION_PERIODS, List.mem_cons, List.not_mem_nil, or_false] at hm
    omega

/-- The ration part of a boundary where no class holds transactions (R279): nothing is let go. -/
theorem State.rationBoundary_of_none {s : State} (hheld : ∀ k, k < 16 → s.heldTx k = 0) : ∃ t, s.rationBoundary = (t, []) ∧
    t.mem = s.mem ∧ t.clk = s.clk ∧ regsKept s t boundaryRegs ∧
    (∀ k, k < 16 → t.usedTx k = 0 ∧ t.fget SYS_RATION_c_USED_LAST_TX k = s.usedTx k ∧ t.fget SYS_RATION_c_USED_BORROWED_TX k = 0 ∧
      t.budgetOf k = s.fget SYS_RATION_c_CFG_BUDGET_TX k ∧ t.heldTx k = 0) ∧
    (∀ q, t.pushesOf q = 0) ∧ t.fget SYS_RATION_PERIODS_COUNT = (s.fget SYS_RATION_PERIODS_COUNT + 1) % 2 ^ 64 := by
  obtain ⟨r, hnew, hkept, hdone, -⟩ := s.newPeriods_spec 16 (Nat.le_refl 16)
  generalize hu : ({ s with regs := r } : State) = u at *
  obtain ⟨r', hmark, hkept'⟩ := u.takeRations.markAllExhausted_eq (List.range 16)
  generalize hv : ({ u.takeRations with regs := r' } : State) = v at *
  have hvheld (k : Nat) : v.heldTx k = s.heldTx k := by rw [← hv, ← hu]; rfl
  have hrelease : (List.range 16).foldl State.releaseNext (v, []) = (v, []) :=
    State.releaseAll_of_none (fun c hc => (hvheld c).trans (hheld c (List.mem_range.1 hc))) []
  have hkept'' : regsKept u v (anyOf [SYS_RATION_STATUS.addr 0 0 0 0]) := ((regsKept.refl u _).of_regs_eq rfl).trans hkept'
  have hboundary : s.rationBoundary =
      (({ v with drover := { v.drover with pushes := [] } } : State).fadd SYS_RATION_PERIODS_COUNT 1, []) := by
    rw [State.rationBoundary_eq, hnew, hmark, hrelease]; rfl
  have hused {f : Field} (hf : f.reg = SYS_RATION_c_USED) (k : Nat) :
      (({ v with drover := { v.drover with pushes := [] } } : State).fadd SYS_RATION_PERIODS_COUNT 1).fget f k = u.fget f k := by
    rw [State.fget_fadd_ne _ _ (by rw [hf]; simp only [Reg.addr, SYS_RATION_c_USED, SYS_RATION_PERIODS_COUNT, SYS_RATION_PERIODS]; omega)]
    exact hkept''.fget (not_anyOf (by rw [hf]; simp only [Reg.addr, SYS_RATION_c_USED, SYS_RATION_STATUS, List.mem_singleton]; omega))
  refine ⟨_, hboundary, ?_, ?_, ?_, fun k hk => ?_, fun _ => rfl, ?_⟩
  · rw [State.mem_fadd, ← hv, ← hu]; rfl
  · rw [State.clk_fadd, ← hv, ← hu]; rfl
  · exact (((hkept.mono (fun a ha => .inl ha)).trans (hkept''.mono (fun a ha => .inr (List.mem_cons.2 (.inl (List.mem_singleton.1 ha)))))).of_regs_eq
      (u := { v with drover := { v.drover with pushes := [] } }) rfl).fadd (f := SYS_RATION_PERIODS_COUNT) 1 (.inr (by decide))
  · obtain ⟨h1, h2, h3⟩ := hdone k hk
    have hcfg : u.fget SYS_RATION_c_CFG_BUDGET_TX k = s.fget SYS_RATION_c_CFG_BUDGET_TX k := hkept.fget (by
      rintro ⟨c, -, hc⟩
      simp only [Reg.addr, SYS_RATION_c_CFG_BUDGET_TX, SYS_RATION_c_CFG, SYS_RATION_c_USED] at hc
      omega)
    refine ⟨(hused rfl k).trans h1, (hused rfl k).trans h2, (hused rfl k).trans h3, ?_, (hvheld k).trans (hheld k hk)⟩
    rw [← hcfg, ← u.budgetOf_takeRations hk, ← hv]; rfl
  · rw [State.fget_fadd_self _ _ _ _ _ _ (by decide)]
    have hperiods : v.fget SYS_RATION_PERIODS_COUNT = s.fget SYS_RATION_PERIODS_COUNT :=
      (hkept''.fget (not_anyOf (by decide))).trans (hkept.fget (by
        rintro ⟨c, -, hc⟩
        simp only [Reg.addr, SYS_RATION_PERIODS_COUNT, SYS_RATION_PERIODS, SYS_RATION_c_USED] at hc
        omega))
    rw [← hperiods]; rfl

/-! ### Divider steps (R27, R28) -/

/-- The registers that divider steps write. -/
def stepRegs : Nat → Prop := anyOf [CLK_CORE_STEP.addr 0 0 0 0, CLK_STEP_CHANGES.addr 0 0 0 0]

/-- One core's request taken: its step is the requested one, its request is gone, and the other cores' stay. -/
theorem State.applyStep_spec {s : State} {c : Nat} (hc : c < 8) (hlen : s.clk.pendingStep.length = 8)
    (hst : ∀ st, s.clk.pendingStep.getD c none = some st → st < 4) : ∃ r b p,
    s.applyStep c = { s with regs := r, clk := { s.clk with arrBase := b, pendingStep := p } } ∧
    regsKept s (s.applyStep c) stepRegs ∧ p.length = 8 ∧ p.getD c none = none ∧
    (∀ c', c' ≠ c → p.getD c' none = s.clk.pendingStep.getD c' none) ∧
    (s.applyStep c).coreStep c = (s.clk.pendingStep.getD c none).getD (s.coreStep c) ∧
    (∀ c', c' < 8 → c' ≠ c → (s.applyStep c).coreStep c' = s.coreStep c') := by
  unfold State.applyStep
  cases hreq : s.clk.pendingStep.getD c none with
  | none => exact ⟨s.regs, s.clk.arrBase, s.clk.pendingStep, rfl, .refl _ _, hlen, hreq, fun _ _ => rfl, rfl, fun _ _ _ => rfl⟩
  | some st =>
    have hgone : (s.clk.pendingStep.set c none).getD c none = none := by
      simp [List.getD_eq_getElem?_getD, hlen, hc]
    have hstay : ∀ c', c' ≠ c → (s.clk.pendingStep.set c none).getD c' none = s.clk.pendingStep.getD c' none := fun c' h => by
      simp [List.getD_eq_getElem?_getD, List.getElem?_set_ne (Ne.symm h)]
    dsimp only
    by_cases hsame : st = s.coreStep c
    · rw [if_pos hsame]
      exact ⟨s.regs, s.clk.arrBase, _, rfl, .refl _ _, by simp [hlen], hgone, hstay, hsame.symm, fun _ _ _ => rfl⟩
    · rw [if_neg hsame]
      generalize hu : ({ s with clk := { s.clk with pendingStep := s.clk.pendingStep.set c none } } : State).rebaseArr c
        (s.clk.periodStart + usTicks 10) = u
      have hregs : u.regs = s.regs := by rw [← hu]; rfl
      have hstep (c' : Nat) (h' : c' < 8) : (((u.fset CLK_CORE_STEP_STEP (putBits (s.fget CLK_CORE_STEP_STEP) (2 * c) 2 st)).fadd
          CLK_STEP_CHANGES_COUNT 1).coreStep c') = bits (putBits (s.fget CLK_CORE_STEP_STEP) (2 * c) 2 st) (2 * c') 2 := by
        rw [State.coreStep, State.fget_fadd_ne _ _ (by decide), State.fget_fset_self _ _ _ _ _ _ (by decide)]
        exact bits_mod_two_pow _ (show 2 * c' + 2 ≤ 16 by omega)
      refine ⟨_, u.clk.arrBase, _, by rw [← hu]; rfl, ?_, by simp [hlen], hgone, hstay, ?_, fun c' h' hne => ?_⟩
      · exact (((regsKept.refl s _).of_regs_eq hregs).fset (f := CLK_CORE_STEP_STEP) _ (anyOf_of_mem (by decide))).fadd
          (f := CLK_STEP_CHANGES_COUNT) 1 (anyOf_of_mem (by decide))
      · rw [hstep c hc, bits_putBits_self]
        exact Nat.mod_eq_of_lt (hst st hreq)
      · rw [hstep c' h', bits_putBits_ne _ _ (by omega)]
        rfl

/-- The requests of the cores below `n` taken. -/
theorem State.applySteps_spec {s : State} (hlen : s.clk.pendingStep.length = 8)
    (hst : ∀ c st, s.clk.pendingStep.getD c none = some st → st < 4) (n : Nat) (hn : n ≤ 8) : ∃ r b p,
    (List.range n).foldl State.applyStep s = { s with regs := r, clk := { s.clk with arrBase := b, pendingStep := p } } ∧
    regsKept s ((List.range n).foldl State.applyStep s) stepRegs ∧ p.length = 8 ∧
    (∀ c, p.getD c none = if c < n then none else s.clk.pendingStep.getD c none) ∧
    (∀ c, c < 8 → ((List.range n).foldl State.applyStep s).coreStep c =
      if c < n then (s.clk.pendingStep.getD c none).getD (s.coreStep c) else s.coreStep c) := by
  induction n with
  | zero => exact ⟨s.regs, s.clk.arrBase, s.clk.pendingStep, rfl, .refl _ _, hlen, fun _ => rfl, fun _ _ => rfl⟩
  | succ n ih =>
    obtain ⟨r, b, p, hu, hkept, hplen, hp, hstep⟩ := ih (by omega)
    rw [foldl_range_succ]
    generalize (List.range n).foldl State.applyStep s = u at *
    have hpend : u.clk.pendingStep = p := by rw [hu]
    have hreq : p.getD n none = s.clk.pendingStep.getD n none := by rw [hp, if_neg (by omega)]
    obtain ⟨r', b', p', hv, hkept', hplen', hgone, hstay, hnew, hold⟩ := u.applyStep_spec (c := n) (by omega) (by rw [hpend, hplen])
      (fun st h => hst n st (by rwa [hpend, hreq] at h))
    refine ⟨r', b', p', by rw [hv, hu], hkept.trans hkept', hplen', fun c => ?_, fun c hc => ?_⟩
    · by_cases hcn : c = n
      · rw [hcn, hgone, if_pos (by omega)]
      · rw [hstay c hcn, hpend, hp]
        exact ite_of_iff (by omega) _ _
    · by_cases hcn : c = n
      · rw [hcn, hnew, hpend, hreq, hstep n (by omega), if_neg (by omega), if_pos (by omega)]
      · rw [hold c hc hcn, hstep c hc]
        exact ite_of_iff (by omega) _ _

/-- Settles O8: the ration part, which lets nothing go, then the requested divider steps. -/
theorem rationPeriodBoundaryStartsAPeriod : Obligations.RationPeriodBoundaryStartsAPeriod := by
  unfold Obligations.RationPeriodBoundaryStartsAPeriod
  intro s hup hdue hheld _ hlen hsteps
  have hst (c st : Nat) (h : s.clk.pendingStep.getD c none = some st) : st < 4 := by
    rw [List.getD_eq_getElem?_getD] at h
    cases hx : s.clk.pendingStep[c]? with
    | none => rw [hx] at h; cases h
    | some x =>
      rw [hx, Option.getD_some] at h
      have := List.all_eq_true.1 hsteps x (List.mem_of_getElem? hx)
      rwa [h, Option.elim_some, decide_eq_true_eq] at this
  obtain ⟨u, hu, humem, huclk, hukept, huclass, hupush, hucount⟩ := State.rationBoundary_of_none hheld
  obtain ⟨r, b, p, hv, hvkept, -, hp, hvstep⟩ := u.applySteps_spec (by rw [huclk, hlen]) (by rw [huclk]; exact hst) 8 (Nat.le_refl 8)
  refine ⟨_, due_of_true (by rw [hup, hdue]; rfl) _ _, rfl, ?_⟩
  rw [hu]
  simp only [List.foldl_nil]
  generalize (List.range 8).foldl State.applyStep u = v at *
  have hration {f : Field} (h : f.reg.base < 0x10000005000) (h1 : f.reg.s1 = 0x20) {k : Nat} (hk : k < 16) : v.fget f k = u.fget f k :=
    hvkept.fget (not_anyOf (by
      simp only [Reg.addr, h1, CLK_CORE_STEP, CLK_STEP_CHANGES, List.mem_cons, List.not_mem_nil, or_false]
      omega))
  have hstepKept : u.fget CLK_CORE_STEP_STEP = s.fget CLK_CORE_STEP_STEP := hukept.fget (not_boundaryRegs (by decide))
  refine ⟨fun k hk => ?_, fun q => ?_, fun c hc => ?_, fun c hc => ?_, ?_, ?_⟩
  · obtain ⟨h1, h2, h3, h4, h5⟩ := huclass k hk
    refine ⟨(hration (by decide) rfl hk).trans h1, (hration (by decide) rfl hk).trans h2, (hration (by decide) rfl hk).trans h3, ?_, ?_⟩
    · rw [← h4, hv]; rfl
    · rw [← h5, hv]; rfl
  · rw [← hupush q, hv]; rfl
  · have h := hvstep c hc
    rw [if_pos hc, huclk, State.coreStep, State.coreStep, hstepKept] at h
    exact h
  · have hvp : v.clk.pendingStep = p := by rw [hv]
    exact (congrArg (fun l : List (Option Nat) => l.getD c none) hvp).trans ((hp c).trans (if_pos hc))
  · rw [← hucount]
    exact hvkept.fget (not_anyOf (by decide))
  · refine .of_mem_eq ?_ _
    rw [← humem, hv]

end Sys2Proof.Machine
end

section
/-! SUPPORT. What a transfer over a link and a charge of a ration touch: registers and fault reports. -/

namespace Sys2Proof.Machine

/-- `t` is `s` with other registers and other asserted reports. -/
def State.RegsReports (s t : State) : Prop := ∃ r f, t = { s with regs := r, fcu := { s.fcu with reports := f } }

namespace State.RegsReports

theorem refl (s : State) : s.RegsReports s := ⟨s.regs, s.fcu.reports, rfl⟩

theorem trans {s t u : State} (h : s.RegsReports t) (h' : t.RegsReports u) : s.RegsReports u := by
  obtain ⟨r, f, rfl⟩ := h
  obtain ⟨r', f', rfl⟩ := h'
  exact ⟨r', f', rfl⟩

theorem fset {s t : State} (h : s.RegsReports t) (f : Field) (v i j k l : Nat) : s.RegsReports (t.fset f v i j k l) :=
  h.trans ⟨_, t.fcu.reports, rfl⟩

theorem fadd {s t : State} (h : s.RegsReports t) (f : Field) (n i j k l : Nat) : s.RegsReports (t.fadd f n i j k l) :=
  h.fset f _ i j k l

variable {s t : State} (h : s.RegsReports t)
include h

theorem mem : t.mem = s.mem := by obtain ⟨r, f, rfl⟩ := h; rfl
theorem checkFlips : t.checkFlips = s.checkFlips := by obtain ⟨r, f, rfl⟩ := h; rfl
theorem cores : t.cores = s.cores := by obtain ⟨r, f, rfl⟩ := h; rfl
theorem windowPart (c o n : Nat) : t.windowPart c o n = s.windowPart c o n := by obtain ⟨r, f, rfl⟩ := h; rfl

theorem coreAt (c : Nat) : t.coreAt c = s.coreAt c := by simp only [State.coreAt, h.cores]

theorem rowZeroing (c sp r : Nat) (task : Option Nat) : t.rowZeroing c sp r task = s.rowZeroing c sp r task := by
  simp only [State.rowZeroing, h.coreAt]

theorem eccUncorrectable (c sp b n : Nat) : t.eccUncorrectable c sp b n = s.eccUncorrectable c sp b n := by
  simp only [State.eccUncorrectable, h.checkFlips]

end State.RegsReports

/-! ### Transfers over a link (R19, R21, R510) -/

theorem State.injectCheck_regsReports (s : State) (src two : Nat) (r : Option DescRef) (id : Nat) (c : Option Nat) :
    s.RegsReports (s.injectCheck src two r id c).1 := by
  unfold State.injectCheck
  split
  · exact ⟨_, _, rfl⟩
  · exact .refl s

/-- An armed injection that its check takes is disarmed. -/
theorem State.injectCheck_regsKept (s : State) (src two : Nat) (r : Option DescRef) (id : Nat) (c : Option Nat) {W : Nat → Prop}
    (hw : W (FCU_INJECT.addr 0 0 0 0)) : regsKept s (s.injectCheck src two r id c).1 W := by
  unfold State.injectCheck
  split
  · exact ((regsKept.refl s W).fset (f := FCU_INJECT_ARM) 0 hw).of_regs_eq rfl
  · exact .refl s W

/-- The registers that a transfer over a link may write. -/
def linkRegs (l : Nat) : Nat → Prop := anyOf [FCU_INJECT.addr 0 0 0 0, D2D_Ln_STATUS.addr l 0 0 0, D2D_Ln_REPLAYS.addr l 0 0 0,
  D2D_Ln_TX_B.addr l 0 0 0, D2D_Ln_RX_B.addr l 0 0 0]

theorem State.linkCheck_regsReports (s : State) (l : Nat) : s.RegsReports (s.linkCheck l) := by
  unfold State.linkCheck
  dsimp only
  split
  · exact .refl s
  · exact ((s.injectCheck_regsReports ..).fadd ..).fset ..

theorem State.linkCheck_regsKept (s : State) (l : Nat) : regsKept s (s.linkCheck l) (linkRegs l) := by
  unfold State.linkCheck
  dsimp only
  split
  · exact .refl s _
  · exact ((s.injectCheck_regsKept _ _ _ _ _ (.head _)).fadd (f := D2D_Ln_REPLAYS_COUNT) 1 (by
      simp [linkRegs, anyOf, D2D_Ln_REPLAYS_COUNT])).fset (f := D2D_Ln_STATUS_CRC_SEEN) 1 (by
      simp [linkRegs, anyOf, D2D_Ln_STATUS_CRC_SEEN])

theorem State.linkTx_regsReports (s : State) (l n : Nat) : s.RegsReports (s.linkTx l n) := by
  unfold State.linkTx
  split
  · exact .refl s
  · exact (s.linkCheck_regsReports l).fadd ..

theorem State.linkTx_regsKept (s : State) (l n : Nat) : regsKept s (s.linkTx l n) (linkRegs l) := by
  unfold State.linkTx
  split
  · exact .refl s _
  · exact (s.linkCheck_regsKept l).fadd (f := D2D_Ln_TX_B_BYTES_B) n (by simp [linkRegs, anyOf, D2D_Ln_TX_B_BYTES_B])

theorem State.linkRx_regsReports (s : State) (l n : Nat) : s.RegsReports (s.linkRx l n) := by
  unfold State.linkRx
  split
  · exact .refl s
  · exact (s.linkCheck_regsReports l).fadd ..

theorem State.linkRx_regsKept (s : State) (l n : Nat) : regsKept s (s.linkRx l n) (linkRegs l) := by
  unfold State.linkRx
  split
  · exact .refl s _
  · exact (s.linkCheck_regsKept l).fadd (f := D2D_Ln_RX_B_BYTES_B) n (by simp [linkRegs, anyOf, D2D_Ln_RX_B_BYTES_B])

/-! ### Charges that the ration issues at once (R278, R280) -/

/-- Transactions counted against a class's ration. -/
def State.charged (s : State) (c n : Nat) : State := (s.fadd SYS_RATION_c_USED_USED_TX n c).markExhausted c

theorem State.charged_eq (s : State) {c : Nat} (hc : c < 16) (n : Nat) : ∃ r, s.charged c n = { s with regs := r } ∧
    regsKept s { s with regs := r } boundaryRegs := by
  obtain ⟨r, hr, hk⟩ := (s.fadd SYS_RATION_c_USED_USED_TX n c).markExhausted_eq c
  exact ⟨r, hr, ((regsKept.refl s boundaryRegs).fadd (f := SYS_RATION_c_USED_USED_TX) n (.inl ⟨c, hc, rfl⟩)).trans
    (hk.mono (fun a ha => .inr (List.mem_cons.2 (.inl (List.mem_singleton.1 ha)))))⟩

/-- Nothing is borrowed for no transaction. -/
theorem State.borrow_zero (s : State) (c : Nat) : s.borrow c 0 = (s, 0) := by
  have hlend : (List.range 16).foldl (fun (r : State × Nat) l =>
      let k := min r.2 (r.1.lendable c l)
      if k = 0 then r
      else (((r.1.fadd SYS_RATION_c_USED_USED_TX k l).markExhausted l).fadd SYS_RATION_c_USED_BORROWED_TX k c, r.2 - k))
      (s, 0) = (s, 0) := by
    refine List.foldlRecOn (motive := fun x : State × Nat => x = (s, 0)) _ _ rfl ?_
    rintro x rfl l -
    simp only [Nat.zero_min, if_true]
  unfold State.borrow
  split
  · exact hlend
  · rfl

/-- A ration with room issues all of a charge. -/
theorem State.chargeTx_of_grants {s : State} {c n : Nat} (hg : s.grants c n) (op : HeldOp) : s.chargeTx c n op = s.charged c n := by
  obtain ⟨hheld, hroom⟩ := hg
  have hown : min n (s.budgetOf c - s.usedTx c) = n := by omega
  have hissue : s.issueTx c n = (s.charged c n, 0) := by
    simp only [State.issueTx, hown, Nat.sub_self, State.borrow_zero, State.charged]
  simp only [State.chargeTx, hheld, ne_eq, not_true, if_false, hissue, State.holdTx, if_true]

/-- What such a charge lets go is done at once. -/
theorem State.chargeFor_of_grants {s : State} {c n : Nat} (hc : c < 16) (hg : s.grants c n) (op : HeldOp) (act : State → State) :
    s.chargeFor c n op act = act (s.charged c n) := by
  obtain ⟨r, hr, -⟩ := s.charged_eq hc n
  have hheld : (s.charged c n).heldTx c = 0 := by rw [hr]; exact hg.1
  simp only [State.chargeFor, State.chargeTx_of_grants hg, hheld, or_true, if_true]

theorem pathClass_lt {src k : Nat} (h : pathClass src = some k) : k < 16 := by
  unfold pathClass at h
  split at h
  · cases h; decide
  · split at h
    · cases h; decide
    · cases h

/-- A memory access whose path's ration is not spent is made at once, in a state that differs in ration registers. -/
theorem State.memoryCommand_of_grants {s : State} {src : Nat} (hg : ∀ k, pathClass src = some k → s.grants k 1) (a : Access) :
    ∃ r, regsKept s { s with regs := r } boundaryRegs ∧ s.memoryCommand src a = (State.memorySide { s with regs := r } src a).1 := by
  unfold State.memoryCommand
  cases hp : pathClass src with
  | none => exact ⟨s.regs, .refl _ _, rfl⟩
  | some k =>
    obtain ⟨r, hr, hk⟩ := s.charged_eq (pathClass_lt hp) (b2n (isTx a))
    have hg' : s.grants k (b2n (isTx a)) := by
      obtain ⟨hheld, hroom⟩ := hg k hp
      refine ⟨hheld, ?_⟩
      unfold b2n
      split <;> omega
    refine ⟨r, hk, ?_⟩
    dsimp only
    rw [State.chargeFor_of_grants (pathClass_lt hp) hg', hr]

end Sys2Proof.Machine
end

section
/-! SUPPORT. What a bank write and a Packhorse drain leave in memory, byte by byte (R126, R134 to R136). -/

namespace Sys2Proof.Machine

/-! ### Little-endian bytes (R8) -/

@[simp] theorem length_leBytes (n v : Nat) : (leBytes n v).length = n := by
  induction n generalizing v with
  | zero => rfl
  | succ n ih => simp [leBytes, ih]

/-- The bytes of a number are those of the bytes' value. -/
theorem leBytes_leVal (bs : List Byte) : leBytes bs.length (leVal bs) = bs := by
  induction bs with
  | nil => rfl
  | cons b bs ih =>
    have hb : b.toNat < 256 := b.isLt
    have hdiv : (b.toNat + 256 * leVal bs) / 256 = leVal bs := by omega
    have hlow : BitVec.ofNat 8 (b.toNat + 256 * leVal bs) = b := by
      apply BitVec.eq_of_toNat_eq
      rw [BitVec.toNat_ofNat]
      omega
    rw [leVal, List.length_cons, leBytes, hdiv, ih, hlow]

/-- Bits past the last byte do not show. -/
theorem leBytes_mod (n v : Nat) : leBytes n (v % 2 ^ (8 * n)) = leBytes n v := by
  induction n generalizing v with
  | zero => rfl
  | succ n ih =>
    have hpow : 2 ^ (8 * (n + 1)) = 256 * 2 ^ (8 * n) := (Nat.pow_add 2 (8 * n) 8).trans (Nat.mul_comm ..)
    have hlow : BitVec.ofNat 8 (v % 2 ^ (8 * (n + 1))) = BitVec.ofNat 8 v := by
      apply BitVec.eq_of_toNat_eq
      rw [BitVec.toNat_ofNat, BitVec.toNat_ofNat, hpow]
      exact Nat.mod_mul_right_mod v 256 _
    rw [leBytes, leBytes, hlow, hpow, Nat.mod_mul_right_div_self, ih]

/-- Bytes read one after the other. -/
theorem State.readBytes_eq {s : State} {a : Nat} {bs : List Byte} (h : ∀ i, i < bs.length → s.readByte (a + i) = bs.getD i 0) :
    s.readBytes a bs.length = bs := by
  unfold State.readBytes
  induction bs generalizing a with
  | nil => rfl
  | cons b bs ih =>
    rw [List.length_cons, Memory.read]
    congr 1
    · exact h 0 (by simp)
    · refine ih (fun i hi => ?_)
      have := h (i + 1) (by simpa using hi)
      rwa [show a + (i + 1) = a + 1 + i by omega] at this

theorem State.readBytes_eq_map (s : State) (a n : Nat) : s.readBytes a n = (List.range n).map (fun i => s.readByte (a + i)) := by
  have h := State.readBytes_eq (s := s) (a := a) (bs := (List.range n).map (fun i => s.readByte (a + i)))
    (fun i hi => by
      rw [List.length_map, List.length_range] at hi
      simp [List.getD_eq_getElem?_getD, hi])
  rwa [List.length_map, List.length_range] at h

/-! ### The words of a row -/

/-- The first `n` words of a bank write, stored in a row: each new word's bytes. -/
def rowStored (row : Nat) (ws : List (Option (Nat × Bool))) (m : Memory) (n : Nat) : Memory :=
  (List.range n).foldl (fun m i => (ws.getD i none).elim m (fun w => Memory.write 0 m (row + 8 * i) (leBytes 8 w.1))) m

theorem rowStored_succ (row : Nat) (ws : List (Option (Nat × Bool))) (m : Memory) (n : Nat) : rowStored row ws m (n + 1) =
    (ws.getD n none).elim (rowStored row ws m n) (fun w => Memory.write 0 (rowStored row ws m n) (row + 8 * n) (leBytes 8 w.1)) := by
  rw [rowStored, foldl_range_succ]; rfl

theorem rowStored_wf {m : Memory} (h : Memory.wf 0 m = true) (row : Nat) (ws : List (Option (Nat × Bool))) (n : Nat) :
    Memory.wf 0 (rowStored row ws m n) = true := by
  induction n with
  | zero => exact h
  | succ n ih =>
    rw [rowStored_succ]
    cases ws.getD n none with
    | none => exact ih
    | some w => exact Memory.wf_write ih _ _

/-- Byte by byte: a new word's byte within the words stored, the old byte elsewhere. -/
theorem get_rowStored {m : Memory} (h : Memory.wf 0 m = true) (row : Nat) (ws : List (Option (Nat × Bool))) (n x : Nat) :
    Memory.get 0 (rowStored row ws m n) x = if row ≤ x ∧ x < row + 8 * n then
      (ws.getD ((x - row) / 8) none).elim (Memory.get 0 m x) (fun w => (leBytes 8 w.1).getD ((x - row) % 8) 0)
      else Memory.get 0 m x := by
  induction n with
  | zero => rw [if_neg (by omega)]; rfl
  | succ n ih =>
    rw [rowStored_succ]
    by_cases hx : row + 8 * n ≤ x ∧ x < row + 8 * (n + 1)
    · have hword : (x - row) / 8 = n := by omega
      rw [if_neg (by omega)] at ih
      rw [if_pos (by omega), hword]
      cases ws.getD n none with
      | none => exact ih
      | some w =>
        have hin := Memory.get_write_inside (rowStored_wf h row ws n) (row + 8 * n) (leBytes 8 w.1) (i := (x - row) % 8)
          (by rw [length_leBytes]; omega)
        rw [show row + 8 * n + (x - row) % 8 = x by omega] at hin
        rw [Option.elim_some, Option.elim_some, hin, List.getD_eq_getElem?_getD, List.getElem?_eq_getElem, Option.getD_some]
    · have hskip : Memory.get 0 ((ws.getD n none).elim (rowStored row ws m n)
          (fun w => Memory.write 0 (rowStored row ws m n) (row + 8 * n) (leBytes 8 w.1))) x = Memory.get 0 (rowStored row ws m n) x := by
        cases ws.getD n none with
        | none => rfl
        | some w => exact Memory.get_write_outside (rowStored_wf h row ws n) _ _ (by rw [length_leBytes]; omega)
      rw [hskip, ih]
      exact ite_of_iff (by omega) _ _

/-- One word of a bank write: its bytes, its mark, its check bits, and its corrections dropped. -/
def State.bankWord (c sp r x : Nat) (ws : List (Option (Nat × Bool))) (s : State) (i : Nat) : State :=
  match ws.getD i none with
  | none => s
  | some (v, p) =>
    let a := rowAddr c sp r + 8 * i
    let s := (s.writeLE a 8 v).setPoison a p
    let s := { s with checkFlips := if x = 0 then AMap.del s.checkFlips a else AMap.set s.checkFlips a x }
    s.modCore c (fun k => { k with corrections := modAt k.corrections (spIx sp) (·.filter (fun e => e.addr != a)) })

theorem State.mem_bankWord (s : State) (c sp r x : Nat) (ws : List (Option (Nat × Bool))) (i : Nat) :
    (s.bankWord c sp r x ws i).mem =
      (ws.getD i none).elim s.mem (fun w => Memory.write 0 s.mem (rowAddr c sp r + 8 * i) (leBytes 8 w.1)) := by
  unfold State.bankWord
  cases ws.getD i none <;> rfl

/-- A bank write stores its words in its row (R126). -/
theorem State.mem_bankWrite (s : State) (c sp r : Nat) (ws : List (Option (Nat × Bool))) (st : StampOp) :
    (s.bankWrite c sp r ws st).mem = rowStored (rowAddr c sp r) ws s.mem 16 := by
  have hwords (x : Nat) (u : State) : ((List.range 16).foldl (State.bankWord c sp r x ws) u).mem =
      rowStored (rowAddr c sp r) ws u.mem 16 :=
    (List.foldl_hom State.mem (g₁ := State.bankWord c sp r x ws) (fun v i => (v.mem_bankWord c sp r x ws i).symm)).symm
  have hinject (b : Prop) [Decidable b] : (if b then s.fset SP_ECC_INJECT_ARM 0 c else s).mem = s.mem := by split <;> rfl
  cases st <;> exact (hwords _ _).trans (by rw [hinject])

/-! ### What a drain does beside its bank write leaves memory -/

@[simp] theorem State.mem_reportFor (s : State) (r : DescRef) (src cls : Nat) (inj : Bool) :
    (s.reportFor r src cls inj).mem = s.mem := by
  unfold State.reportFor
  split <;> rfl

theorem State.mem_eccFound (s : State) (c sp a syn : Nat) (ref : Option DescRef) : (s.eccFound c sp a syn ref).mem = s.mem := by
  have hite (b : Prop) [Decidable b] {u v : State} (hu : u.mem = s.mem) (hv : v.mem = s.mem) : (if b then u else v).mem = s.mem := by
    split <;> assumption
  unfold State.eccFound
  cases ref with
  | none => exact hite _ (hite _ rfl rfl) (hite _ rfl rfl)
  | some r => exact (State.mem_reportFor ..).trans (hite _ (hite _ rfl rfl) (hite _ rfl rfl))

/-- Error checks of a bank read change no byte (R138, R139). -/
@[simp] theorem State.mem_eccRead (s : State) (c sp b n : Nat) (ref : Option DescRef) : (s.eccRead c sp b n ref).mem = s.mem := by
  unfold State.eccRead
  split
  · rfl
  · exact List.foldlRecOn (motive := fun u : State => u.mem = s.mem) _ _ rfl
      (fun u hu e _ => (u.mem_eccFound c sp e.1 e.2 ref).trans hu)

@[simp] theorem State.mem_phRetries (s : State) (c : Nat) : (s.phRetries c).mem = s.mem := by
  unfold State.phRetries
  split <;> rfl

@[simp] theorem State.mem_mayCollide (s : State) (c : Nat) : (s.mayCollide c).mem = s.mem := by
  unfold State.mayCollide
  split
  · rfl
  · dsimp only
    split <;> rfl

/-! ### A core's own state -/

theorem getD_modAt {α : Type} (l : List α) (i j : Nat) (f : α → α) (d : α) :
    (modAt l i f).getD j d = if j = i ∧ i < l.length then f (l.getD j d) else l.getD j d := by
  induction l generalizing i j with
  | nil => simp [modAt]
  | cons x l ih =>
    cases i with
    | zero => cases j <;> simp [modAt]
    | succ i =>
      cases j with
      | zero => simp [modAt]
      | succ j => simpa [modAt] using ih i j

theorem State.coreAt_modCore (s : State) (c c' : Nat) (f : CoreState → CoreState) :
    (s.modCore c f).coreAt c' = if c' = c ∧ c < s.cores.length then f (s.coreAt c') else s.coreAt c' :=
  getD_modAt s.cores c c' f CoreState.empty

/-- Changes of a core that leave the tasks being zeroed leave the rows being zeroed. -/
theorem State.rowZeroing_modCore (s : State) (c c' sp r : Nat) (task : Option Nat) {f : CoreState → CoreState}
    (hf : ∀ k, (f k).zeroing = k.zeroing) : (s.modCore c f).rowZeroing c' sp r task = s.rowZeroing c' sp r task := by
  simp only [State.rowZeroing, State.coreAt_modCore]
  split <;> simp only [hf]

/-! ### Draining an entry (R136) -/

/-- The debug window of scratchpads is where `spOf` looks for them. -/
theorem spOf_rowAddr {c sp r : Nat} (h2 : 2 ≤ sp) (h4 : sp ≤ 4) (hr : 128 * r < 0x100_0000) :
    spOf (rowAddr c sp r) = (c, sp, 128 * r) := by
  have hsp : sp = 2 ∨ sp = 3 ∨ sp = 4 := by omega
  rcases hsp with rfl | rfl | rfl <;>
  · simp only [spOf, rowAddr, spAddr, spWindow, spWSP, spASP, spPSP, windowBase, Nat.reduceEqDiff, if_true, if_false, Prod.mk.injEq]
    refine ⟨by omega, ?_, by omega⟩
    repeat' split
    all_goals omega

/-- The words that an entry writes into its row, its bytes over the memory's. -/
def PhEntry.rowWords (e : PhEntry) (m : Memory) (poison : Nat → Bool) : List (Option (Nat × Bool)) :=
  (List.range 16).map (fun i =>
    if e.wordMask i = 0 then none
    else some (leVal ((List.range 8).map (fun j =>
      if bitAt (e.wordMask i) j then e.data.getD (8 * i + j) 0 else Memory.get 0 m (e.row + 8 * i + j))), poison i))

theorem PhEntry.bitAt_wordMask (e : PhEntry) (i : Nat) {j : Nat} (hj : j < 8) : bitAt (e.wordMask i) j = bitAt e.mask (8 * i + j) := by
  simp only [bitAt, PhEntry.wordMask, bits_testBit, hj, decide_true, Bool.true_and]

/-- A word without a valid byte has no bit in the mask. -/
theorem PhEntry.bitAt_mask_of_wordMask_zero {e : PhEntry} {i : Nat} (h : e.wordMask i = 0) {j : Nat} (hj : j < 8) :
    bitAt e.mask (8 * i + j) = false := by
  rw [← e.bitAt_wordMask i hj, h]
  exact Nat.zero_testBit j

/-- An entry's words stored in its row are its valid bytes over what stood there. -/
theorem PhEntry.get_rowStored_rowWords (e : PhEntry) {m : Memory} (h : Memory.wf 0 m = true) (poison : Nat → Bool) (x : Nat) :
    Memory.get 0 (rowStored e.row (e.rowWords m poison) m 16) x =
      if (e.row ≤ x ∧ x < e.row + 128) ∧ bitAt e.mask (x - e.row) = true then e.data.getD (x - e.row) 0 else Memory.get 0 m x := by
  rw [get_rowStored h]
  by_cases hx : e.row ≤ x ∧ x < e.row + 128
  · have hi : (x - e.row) / 8 < 16 := by omega
    have hj : (x - e.row) % 8 < 8 := by omega
    have hsplit : 8 * ((x - e.row) / 8) + (x - e.row) % 8 = x - e.row := by omega
    have hat : e.row + 8 * ((x - e.row) / 8) + (x - e.row) % 8 = x := by omega
    rw [if_pos hx, PhEntry.rowWords, List.getD_eq_getElem?_getD, List.getElem?_map, List.getElem?_range hi]
    simp only [Option.map_some, Option.getD_some, hx, true_and]
    by_cases hz : e.wordMask ((x - e.row) / 8) = 0
    · have hno := e.bitAt_mask_of_wordMask_zero hz hj
      rw [hsplit] at hno
      rw [if_pos hz, Option.elim_none, hno, if_neg (by decide)]
    · have hbytes := leBytes_leVal ((List.range 8).map (fun j => if bitAt (e.wordMask ((x - e.row) / 8)) j then
        e.data.getD (8 * ((x - e.row) / 8) + j) 0 else Memory.get 0 m (e.row + 8 * ((x - e.row) / 8) + j)))
      rw [List.length_map, List.length_range] at hbytes
      rw [if_neg hz, Option.elim_some, hbytes, List.getD_eq_getElem?_getD, List.getElem?_map, List.getElem?_range hj]
      simp only [Option.map_some, Option.getD_some, e.bitAt_wordMask _ hj, hsplit, hat]
  · rw [if_neg hx, if_neg (fun hh => hx hh.1)]

/-- The bank write of a drain stores the entry's words (R136). -/
theorem State.mem_phDrain {s : State} {c sp r : Nat} {e : PhEntry} (h2 : 2 ≤ sp) (h4 : sp ≤ 4) (hr : 128 * r < 0x100_0000)
    (hrow : e.row = rowAddr c sp r) (hz : s.rowZeroing c sp r e.task = false) :
    ∃ poison, (s.phDrain c e).mem = rowStored e.row (e.rowWords s.mem poison) s.mem 16 := by
  have hz' : (s.phRemove c e.row).rowZeroing c sp r e.task = false := by
    rw [State.phRemove, State.rowZeroing_modCore _ _ _ _ _ _ (by intro k; rfl), hz]
  have hcounts (b b' : Prop) [Decidable b] [Decidable b'] (u : State) : (if b then u.fadd SP_PH_COUNTS_FULL 1 c
      else if b' then u.fadd SP_PH_COUNTS_MASKED 1 c else u.fadd SP_PH_COUNTS_RMW 1 c).mem = u.mem := by
    split
    · rfl
    · split <;> rfl
  unfold State.phDrain
  simp only [hrow, spOf_rowAddr h2 h4 hr, Nat.mul_div_cancel_left r (show 0 < 128 by decide)]
  rw [← hrow, hz', if_neg (by decide)]
  generalize hu : (if (e.mask == 2 ^ 128 - 1 || (List.range 16).all (fun i => e.wordMask i == 0 || e.wordMask i == 255)) = true then
    s.phRemove c e.row else ((s.phRemove c e.row).eccRead c sp (128 * r) 128 e.refs.head?).phRetries c) = u
  have hmem : u.mem = s.mem := by
    rw [← hu]
    split
    · rfl
    · rw [State.mem_phRetries, State.mem_eccRead]; rfl
  refine ⟨fun i => bitAt e.poison i || (e.wordMask i != 255 && u.wordPoison c sp (128 * r + 8 * i) e.task), ?_⟩
  rw [hcounts, State.mem_mayCollide, State.mem_bankWrite, ← hrow, hmem]
  simp only [PhEntry.rowWords, State.readByte, hmem]

/-- A drained entry's valid bytes are in its row, and no other byte changes. -/
theorem State.readByte_phDrain {s : State} (hs : Memory.wf 0 s.mem = true) {c sp r : Nat} {e : PhEntry} (h2 : 2 ≤ sp) (h4 : sp ≤ 4)
    (hr : 128 * r < 0x100_0000) (hrow : e.row = rowAddr c sp r) (hz : s.rowZeroing c sp r e.task = false) (x : Nat) :
    (s.phDrain c e).readByte x =
      if (e.row ≤ x ∧ x < e.row + 128) ∧ bitAt e.mask (x - e.row) = true then e.data.getD (x - e.row) 0 else s.readByte x := by
  obtain ⟨poison, hm⟩ := State.mem_phDrain h2 h4 hr hrow hz
  rw [State.readByte, hm, PhEntry.get_rowStored_rowWords e hs, State.readByte]

end Sys2Proof.Machine
end

section
/-! SUPPORT. The debug window of a core's scratchpads (R152, R153): accesses of its data view, through Packhorse to the bank. -/

namespace Sys2Proof.Machine

/-! ### Where the data view lies -/

theorem State.spRowCount_wsp (s : State) (c : Nat) : s.spRowCount c spWSP = 65536 := by
  simp [State.spRowCount, State.spRows, spBanks]
theorem State.spRowCount_asp (s : State) (c : Nat) : s.spRowCount c spASP = 65536 := by
  simp [State.spRowCount, State.spRows, spBanks, spASP, spWSP]

theorem State.spRowCount_psp_le (s : State) (c : Nat) : s.spRowCount c spPSP ≤ 32768 := by
  have hrows : s.spRows c spPSP ≤ 512 := by
    unfold State.spRows
    rw [if_neg (by decide), if_neg (by decide)]
    split <;> decide
  exact Nat.mul_le_mul (show spBanks spPSP ≤ 64 by decide) hrows

/-- What a choice answers, by its condition. -/
theorem of_ite_eq {α : Type} {p : Prop} [Decidable p] {x y z : α} (h : (if p then x else y) = z) : p ∧ x = z ∨ y = z := by
  split at h
  · next hp => exact .inl ⟨hp, h⟩
  · exact .inr h

/-- Every scratchpad's data view ends within 8 MiB of its start. -/
theorem State.spRowCount_le (s : State) (c : Nat) {sp : Nat} (h : sp ∈ [spWSP, spASP, spPSP]) : s.spRowCount c sp ≤ 65536 := by
  simp only [List.mem_cons, List.not_mem_nil, or_false] at h
  rcases h with rfl | rfl | rfl
  · exact Nat.le_of_eq (s.spRowCount_wsp c)
  · exact Nat.le_of_eq (s.spRowCount_asp c)
  · exact Nat.le_trans (s.spRowCount_psp_le c) (by decide)

/-- An access that lies in the data view lies in one of the three scratchpads. -/
theorem State.windowPart_data {s : State} {c o n sp b : Nat} (h : s.windowPart c o n = .data sp b) :
    2 ≤ sp ∧ sp ≤ 4 ∧ o = spWindow sp + b ∧ b + n ≤ 0x80_0000 := by
  have hview {sp : Nat} (hsp : sp ∈ [spWSP, spASP, spPSP])
      (hin : (decide (spWindow sp ≤ o) && decide (o + n ≤ spWindow sp + 128 * s.spRowCount c sp)) = true) :
      2 ≤ sp ∧ sp ≤ 4 ∧ o = spWindow sp + (o - spWindow sp) ∧ o - spWindow sp + n ≤ 0x80_0000 := by
    have hrows := s.spRowCount_le c hsp
    rw [Bool.and_eq_true, decide_eq_true_eq, decide_eq_true_eq] at hin
    have hcode : ∀ x ∈ [spWSP, spASP, spPSP], 2 ≤ x ∧ x ≤ 4 := by decide
    exact ⟨(hcode sp hsp).1, (hcode sp hsp).2, by omega, by omega⟩
  unfold State.windowPart at h
  rcases of_ite_eq h with ⟨hin, he⟩ | h
  · cases he; exact hview (sp := spWSP) (by decide) hin
  rcases of_ite_eq h with ⟨hin, he⟩ | h
  · cases he; exact hview (sp := spASP) (by decide) hin
  rcases of_ite_eq h with ⟨hin, he⟩ | h
  · cases he; exact hview (sp := spPSP) (by decide) hin
  iterate 6
    rcases of_ite_eq h with ⟨-, he⟩ | h
    · cases he
  cases h

theorem spWindow_mod_eight (sp : Nat) : spWindow sp % 8 = 0 := by
  unfold spWindow
  split
  · rfl
  · split <;> rfl

/-- A width of R153, and an aligned offset of the data view: the access lies within one row. -/
theorem aligned_in_row {n o sp b : Nat} (hn : n ∈ [1, 2, 4, 8]) (ho : o % n = 0) (hb : o = spWindow sp + b) : b % 128 + n ≤ 128 := by
  have h8 := spWindow_mod_eight sp
  generalize spWindow sp = w at *
  simp only [List.mem_cons, List.not_mem_nil, or_false] at hn
  rcases hn with rfl | rfl | rfl | rfl <;> omega

/-! ### A write through Packhorse (R134, R135) -/

/-- What a write of bytes into a row puts into an empty Packhorse: one entry that holds just those bytes. -/
theorem State.phWriteRow_of_empty {s : State} {c : Nat} (h : (s.coreAt c).packhorse = []) (row off poison : Nat) {bs : List Byte}
    (task : Option Nat) (ref : Option DescRef) (hlen : bs.length < 128) (hoff : off + bs.length ≤ 128) : ∃ e : PhEntry,
    s.phWriteRow c row off bs poison task ref = s.modCore c (fun k => { k with packhorse := k.packhorse ++ [e] }) ∧
    e.row = row ∧ e.task = task ∧ (∀ i, bitAt e.mask i = (decide (off ≤ i) && decide (i < off + bs.length))) ∧
    (∀ i, i < bs.length → e.data.getD (off + i) 0 = bs.getD i 0) := by
  have hnone : s.phEntry? c row = none := by rw [State.phEntry?, h]; rfl
  have hmask (i : Nat) : bitAt (0 ||| ((2 ^ bs.length - 1) <<< off)) i = (decide (off ≤ i) && decide (i < off + bs.length)) := by
    simp only [bitAt, Nat.zero_or, Nat.testBit_shiftLeft, Nat.testBit_two_pow_sub_one]
    by_cases hi : off ≤ i
    · simp only [hi, decide_true, Bool.true_and, decide_eq_decide]
      omega
    · simp [hi]
  have hpart : (0 ||| ((2 ^ bs.length - 1) <<< off)) ≠ 2 ^ 128 - 1 := by
    intro heq
    have hone (i : Nat) (hi : i < 128) : off ≤ i ∧ i < off + bs.length := by
      have hbit := hmask i
      rw [heq, bitAt, Nat.testBit_two_pow_sub_one, decide_eq_true hi] at hbit
      simpa using hbit.symm
    have := hone 0 (by decide)
    have := hone 127 (by decide)
    omega
  unfold State.phWriteRow
  simp only [hnone, h, Option.getD_none, Option.isSome_none, Bool.false_eq_true, if_false, if_neg hpart]
  refine ⟨_, rfl, rfl, rfl, hmask, fun i hi => ?_⟩
  have hat : off + i < 128 := by omega
  simp [List.getD_eq_getElem?_getD, hat, hi]

/-- The bytes of an aligned write of the data view are in the bank at once, and no other byte changes (R153). -/
theorem State.windowWrite_data {s : State} {c o n sp b : Nat} (hs : Memory.wf 0 s.mem = true) (hc : c < s.cores.length)
    (hph : (s.coreAt c).packhorse = []) (hn : n ∈ [1, 2, 4, 8]) (ho : o % n = 0) (hpart : s.windowPart c o n = .data sp b)
    (hz : s.rowZeroing c sp (b / 128) none = false) (v : Nat) : (s.windowWrite c o n v).2 = stOK ∧
    ∀ x, (s.windowWrite c o n v).1.readByte x =
      if spAddr c sp b ≤ x ∧ x < spAddr c sp b + n then (leBytes n v).getD (x - spAddr c sp b) 0 else s.readByte x := by
  obtain ⟨h2, h4, hob, hbn⟩ := State.windowPart_data hpart
  have hrow := aligned_in_row hn ho hob
  have hn8 : 1 ≤ n ∧ n ≤ 8 := by
    simp only [List.mem_cons, List.not_mem_nil, or_false] at hn
    omega
  obtain ⟨e, hwrite, herow, hetask, hemask, hedata⟩ := State.phWriteRow_of_empty hph (rowAddr c sp (b / 128)) (b % 128) 0
    (bs := leBytes n v) none none (by rw [length_leBytes]; omega) (by rw [length_leBytes]; exact hrow)
  rw [length_leBytes] at hemask hedata
  generalize hu : s.modCore c (fun k => { k with packhorse := k.packhorse ++ [e] }) = u at hwrite
  have hone : (u.coreAt c).packhorse = [e] := by rw [← hu, State.coreAt_modCore, if_pos ⟨rfl, hc⟩, hph]; rfl
  have hdrain : s.windowWrite c o n v = (u.phDrain c e, stOK) := by
    simp [State.windowWrite, hpart, hz, hwrite, State.phDrainAll, hone, herow]
  have hzu : u.rowZeroing c sp (b / 128) e.task = false := by
    rw [← hu, State.rowZeroing_modCore _ _ _ _ _ _ (by intro k; rfl), hetask, hz]
  have hat : spAddr c sp b = e.row + b % 128 := by
    rw [herow, rowAddr, spAddr, spAddr]
    omega
  refine ⟨by rw [hdrain], fun x => ?_⟩
  rw [hdrain, State.readByte_phDrain (by rw [← hu]; exact hs) h2 h4 (by omega) herow hzu, hat]
  by_cases hx : e.row + b % 128 ≤ x ∧ x < e.row + b % 128 + n
  · rw [if_pos hx, if_pos ⟨by omega, by rw [hemask]; simp; omega⟩, ← hedata _ (by omega)]
    congr 1
    omega
  · rw [if_neg hx, if_neg (by rw [hemask]; simp; omega), ← hu]
    rfl

/-! ### A read (R134, R138) -/

/-- With nothing in Packhorse a read finds the banks' bytes. -/
theorem State.phByte_of_empty {s : State} {c : Nat} (h : (s.coreAt c).packhorse = []) (a : Nat) : s.phByte c a = s.readByte a := by
  have hnone : s.phEntry? c (a / 128 * 128) = none := by rw [State.phEntry?, h]; rfl
  unfold State.phByte
  rw [hnone]

/-- A read of the data view whose words are correct or correctable answers the bank's bytes. -/
theorem State.windowRead_data {s : State} {c o n sp b : Nat} (hph : (s.coreAt c).packhorse = [])
    (hpart : s.windowPart c o n = .data sp b) (hz : s.rowZeroing c sp (b / 128) none = false)
    (hecc : s.eccUncorrectable c sp b n = false) :
    s.windowRead c o n = (s.eccRead c sp b n none, stOK, s.readLE (spAddr c sp b) n) := by
  have hbytes : (List.range n).map (fun i => s.phByte c (spAddr c sp (b + i))) = s.readBytes (spAddr c sp b) n := by
    rw [State.readBytes_eq_map]
    refine List.map_congr_left (fun i _ => ?_)
    rw [State.phByte_of_empty hph, spAddr, spAddr, Nat.add_assoc _ b i]
  simp [State.windowRead, hpart, hz, hecc, hbytes, State.readLE]

/-! ### An access at its absolute address -/

/-- The status of a core's domain lies in the fault unit. -/
theorem State.coreDown_congr {s t : State} (h1 : t.fget FCU_STATUS_STATE = s.fget FCU_STATUS_STATE)
    (h2 : t.fget FCU_CORE_STATE_STATE = s.fget FCU_CORE_STATE_STATE) (h3 : t.fcu = s.fcu) (c : Nat) :
    t.coreDown c = s.coreDown c := by
  simp only [State.coreDown, State.domainDown, State.coreState, h1, h2, h3]

/-- The data view of a scratchpad at its address. -/
theorem spAddr_of_offset {c o sp b : Nat} (h : o = spWindow sp + b) : spAddr c sp b = windowBase + 0x400_0000 * c + o := by
  rw [spAddr, h, Nat.add_assoc]

section
variable {s : State} {a : Access} {c o : Nat} (hc : c < 8) (ho : o < 0x400_0000)
  (ha : a.addr = windowBase + 0x400_0000 * c + o)
include hc ho ha

theorem inWindow_of_offset : inWindow a.addr = true := by
  simp only [inWindow, ha, Bool.and_eq_true, decide_eq_true_eq]
  omega

/-- An access of a window by core and offset: refused for its width, its alignment or the core's recovery, else over the core's link. -/
theorem State.windowAccess_eq : s.windowAccess a =
    if (a.width ∉ [1, 2, 4, 8] ∨ o % a.width ≠ 0) ∨ s.coreDown c = true then (s, stBusError, 0)
    else if a.write then (s.linkTx (coreLink c) a.width).windowPut c o a.width (wrap (8 * a.width) a.value)
    else (s.linkRx (coreLink c) a.width).windowRead c o a.width := by
  have hcore : (a.addr - windowBase) / 0x400_0000 = c := by rw [ha]; omega
  have hoff : (a.addr - windowBase) % 0x400_0000 = o := by rw [ha]; omega
  have halign (hw : a.width ∈ [1, 2, 4, 8]) : a.addr % a.width = o % a.width := by
    have hbase : windowBase % 8 = 0 := rfl
    rw [ha]
    generalize windowBase = w at *
    simp only [List.mem_cons, List.not_mem_nil, or_false] at hw
    rcases hw with hw | hw | hw | hw <;> rw [hw] <;> omega
  unfold State.windowAccess
  simp only [hcore, hoff]
  refine ite_of_iff ?_ _ _
  by_cases hw : a.width ∈ [1, 2, 4, 8]
  · simp only [List.contains_iff_mem.2 hw, Bool.not_true, Bool.false_or, Bool.or_eq_true, bne_iff_ne, ne_eq, decide_eq_true_eq, hw,
      not_true, false_or, halign hw, show ¬ 8 ≤ c by omega, or_false]
  · simp [hw]

/-- An access that is misaligned, of no width of R153 or outside the views answers BUS_ERROR (R153). -/
theorem State.windowAccess_refused (hbad : a.width ∉ [1, 2, 4, 8] ∨ o % a.width ≠ 0 ∨ s.windowPart c o a.width = .nothing) :
    ∃ t, s.windowAccess a = (t, stBusError, 0) ∧ t.mem = s.mem ∧ t.fget SYS_BUS_ERRORS_COUNT = s.fget SYS_BUS_ERRORS_COUNT := by
  have hlink : ¬ linkRegs (coreLink c) (SYS_BUS_ERRORS_COUNT.reg.addr 0 0 0 0) := not_anyOf (by
    simp only [Reg.addr, SYS_BUS_ERRORS_COUNT, SYS_BUS_ERRORS, FCU_INJECT, D2D_Ln_STATUS, D2D_Ln_REPLAYS, D2D_Ln_TX_B, D2D_Ln_RX_B,
      List.mem_cons, List.not_mem_nil, or_false]
    omega)
  rw [State.windowAccess_eq hc ho ha]
  by_cases hno : (a.width ∉ [1, 2, 4, 8] ∨ o % a.width ≠ 0) ∨ s.coreDown c = true
  · exact ⟨s, if_pos hno, rfl, rfl⟩
  · have hpart : s.windowPart c o a.width = .nothing := by
      rcases hbad with h | h | h
      · exact absurd (.inl (.inl h)) hno
      · exact absurd (.inl (.inr h)) hno
      · exact h
    rw [if_neg hno]
    cases a.write with
    | true =>
      have ht := s.linkTx_regsReports (coreLink c) a.width
      refine ⟨_, ?_, ht.mem, (s.linkTx_regsKept _ _).fget hlink⟩
      simp [State.windowPut, State.windowWrite, ht.windowPart, hpart]
    | false =>
      have ht := s.linkRx_regsReports (coreLink c) a.width
      refine ⟨_, ?_, ht.mem, (s.linkRx_regsKept _ _).fget hlink⟩
      simp [State.windowRead, ht.windowPart, hpart]

/-- A window access leaves its result with its path, and what the bus-error capture does changes no byte. -/
theorem State.memorySide_window (src : Nat) : (s.memorySide src a).1.mem = (s.windowAccess a).1.mem ∧
    (s.memorySide src a).1.lastAccess = ⟨(s.windowAccess a).2.1, (s.windowAccess a).2.2⟩ := by
  unfold State.memorySide
  simp only [inWindow_of_offset hc ho ha, if_true]
  exact ⟨State.busError_mem .., trivial⟩

end

/-- Every BUS_ERROR counts (R478). -/
theorem State.busError_count (s : State) (src addr : Nat) (w : Bool) :
    (s.busError src addr stBusError w).fget SYS_BUS_ERRORS_COUNT = (s.fget SYS_BUS_ERRORS_COUNT + 1) % 2 ^ 32 := by
  have hadd := s.fget_fadd_self (f := SYS_BUS_ERRORS_COUNT) 1 0 0 0 0 (by decide)
  unfold State.busError
  rw [if_pos (.inl rfl)]
  dsimp only
  split
  · exact hadd
  · exact (State.fget_congr (State.get?_rset _ _ _ _ _ _ _ (by decide))).trans hadd

/-- SCRATCHPAD_WINDOW_ACCESS by a writer of R475 whose path's ration is not spent is an access made at once. -/
theorem exec_scratchpadWindowAccess {s : State} {src : Nat} {a : Access} (hsrc : isSource src = true) (hu : s.up = true)
    (hin : inWindow a.addr = true) (hg : ∀ k, pathClass src = some k → s.grants k 1) :
    ∃ r, regsKept s { s with regs := r } boundaryRegs ∧
      exec (.scratchpadWindowAccess src a) s = .next (State.memorySide { s with regs := r } src a).1 := by
  obtain ⟨r, hk, hr⟩ := State.memoryCommand_of_grants hg a
  refine ⟨r, hk, ?_⟩
  rw [← hr]
  exact (unit_of_true (by rw [hsrc, hin]; rfl) _).trans (due_of_true hu _ _)

/-- The three accesses of the debug window in a state in which nothing waits in Packhorse (R152, R153). -/
theorem scratchpadWindowAccess_spec {s : State} {src c o sp b : Nat} {a : Access} (hs : s.Sound) (hsrc : isSource src = true)
    (hu : s.up = true) (hc : c < 8) (hcores : c < s.cores.length) (ho : o < 0x400_0000)
    (ha : a.addr = windowBase + 0x400_0000 * c + o) (hdown : s.coreDown c = false) (hph : (s.coreAt c).packhorse = [])
    (hg : ∀ k, pathClass src = some k → s.grants k 1) :
    (a.width ∈ [1, 2, 4, 8] → o % a.width = 0 → s.windowPart c o a.width = .data sp b → s.rowZeroing c sp (b / 128) none = false →
      (a.write = true → ∃ t, exec (.scratchpadWindowAccess src a) s = .next t ∧ t.lastAccess = ⟨stOK, 0⟩ ∧
        t.readBytes a.addr a.width = leBytes a.width a.value ∧ memKept s t (bytesAt a.addr a.width)) ∧
      (a.write = false → s.eccUncorrectable c sp b a.width = false → ∃ t, exec (.scratchpadWindowAccess src a) s = .next t ∧
        t.lastAccess = ⟨stOK, s.readLE a.addr a.width⟩ ∧ memKept s t nowhere)) ∧
    (a.width ∉ [1, 2, 4, 8] ∨ o % a.width ≠ 0 ∨ s.windowPart c o a.width = .nothing → ∃ t,
      exec (.scratchpadWindowAccess src a) s = .next t ∧ t.lastAccess = ⟨stBusError, 0⟩ ∧
      t.fget SYS_BUS_ERRORS_COUNT = (s.fget SYS_BUS_ERRORS_COUNT + 1) % 2 ^ 32 ∧ memKept s t nowhere) := by
  obtain ⟨r, hk, hexec⟩ := exec_scratchpadWindowAccess hsrc hu (inWindow_of_offset hc ho ha) hg
  generalize hv : ({ s with regs := r } : State) = v at *
  have hsv : s.RegsReports v := ⟨r, s.fcu.reports, hv.symm⟩
  have hvdown : v.coreDown c = false := by
    rw [← hdown]
    exact State.coreDown_congr (hk.fget (not_boundaryRegs (by decide))) (hk.fget (not_boundaryRegs (by decide))) (by rw [← hv]) c
  obtain ⟨hmem, hlast⟩ := State.memorySide_window (s := v) hc ho ha src
  refine ⟨fun hw hal hpart hz => ?_, fun hbad => ?_⟩
  · obtain ⟨-, -, hob, -⟩ := State.windowPart_data hpart
    have hat : a.addr = spAddr c sp b := ha.trans (spAddr_of_offset hob).symm
    have hacc := State.windowAccess_eq (s := v) hc ho ha
    rw [if_neg (by rw [hvdown]; simp [hw, hal])] at hacc
    refine ⟨fun hwr => ⟨_, hexec, ?_⟩, fun hrd hecc => ⟨_, hexec, ?_⟩⟩
    · rw [hwr, if_pos rfl] at hacc
      have ht := hsv.trans (v.linkTx_regsReports (coreLink c) a.width)
      generalize v.linkTx (coreLink c) a.width = t at hacc ht
      obtain ⟨hst, hbyte⟩ := State.windowWrite_data (s := t) (by rw [ht.mem]; exact hs.mem) (by rw [ht.cores]; exact hcores)
        (by rw [ht.coreAt]; exact hph) hw hal (by rw [ht.windowPart, hpart]) (by rw [ht.rowZeroing, hz]) (wrap (8 * a.width) a.value)
      rw [hacc, State.windowPut] at hmem hlast
      have hread (x : Nat) : (v.memorySide src a).1.readByte x = if a.addr ≤ x ∧ x < a.addr + a.width then
          (leBytes a.width a.value).getD (x - a.addr) 0 else s.readByte x := by
        rw [State.readByte, hmem, ← State.readByte, hbyte, hat, wrap, leBytes_mod, State.readByte, ht.mem, ← State.readByte]
      refine ⟨by rw [hlast, hst], ?_, fun x hx => (hread x).trans (if_neg hx)⟩
      have hall := State.readBytes_eq (s := (v.memorySide src a).1) (a := a.addr) (bs := leBytes a.width a.value) (fun i hi => by
        rw [length_leBytes] at hi
        rw [hread, if_pos (by omega), Nat.add_sub_cancel_left])
      rwa [length_leBytes] at hall
    · rw [hrd, if_neg (by decide)] at hacc
      have ht := hsv.trans (v.linkRx_regsReports (coreLink c) a.width)
      generalize v.linkRx (coreLink c) a.width = t at hacc ht
      rw [State.windowRead_data (by rw [ht.coreAt]; exact hph) (by rw [ht.windowPart, hpart]) (by rw [ht.rowZeroing, hz])
        (by rw [ht.eccUncorrectable, hecc])] at hacc
      rw [hacc] at hmem hlast
      refine ⟨?_, .of_mem_eq (by rw [hmem, State.mem_eccRead, ht.mem]) _⟩
      rw [hlast, hat, State.readLE, State.readBytes, ht.mem]
      rfl
  · obtain ⟨t, hacc, htmem, htcount⟩ := State.windowAccess_refused (s := v) hc ho ha
      (by rw [hsv.windowPart]; exact hbad)
    refine ⟨_, hexec, by rw [hlast, hacc], ?_, .of_mem_eq (by rw [hmem, hacc, htmem, hsv.mem]) _⟩
    have hcount : v.fget SYS_BUS_ERRORS_COUNT = s.fget SYS_BUS_ERRORS_COUNT := hk.fget (not_boundaryRegs (by decide))
    rw [← hcount, ← htcount, ← t.busError_count src a.addr a.write]
    refine State.fget_of_regs_eq ?_ _ _ _ _ _
    simp only [State.memorySide, inWindow_of_offset hc ho ha, if_true, hacc]

end Sys2Proof.Machine
end

section
/-! SUPPORT. The weight caches' control register (R275, R287), and O39. -/

namespace Sys2Proof.Machine

/-- A weight cache's registers are none that the common end of a register access writes. -/
theorem not_busLogReg_wc {k : Nat} (hk : k < 2) : ¬ busLogReg (SYS_WCk_CTRL.addr k 0 0 0) := by
  rintro (h | h | h | ⟨e, w, he, hw, h⟩) <;>
  · simp only [Reg.addr, SYS_WCk_CTRL, SYS_BUS_ERRORS, SYS_BUS_ERR_LAST, CFG_JOURNAL_NEXT, CFG_JOURNAL_e_Ww] at h
    omega

/-! ### A write of SYS_WCk_CTRL (R275) -/

section
variable (s : State) (k v : Nat)

/-- ENABLE taken from the value, ECC_SEEN cleared where the value's bit 3 says so. -/
def State.wcEnabled : State :=
  let s := s.fset SYS_WCk_CTRL_ENABLE (bits v 0 1) k
  if bitAt v 3 then s.fset SYS_WCk_CTRL_ECC_SEEN 0 k else s

/-- The value, or a clearing of ENABLE, starts an invalidation. -/
def State.wcStarts : Bool := bitAt v 1 || (s.fbit SYS_WCk_CTRL_ENABLE k && !bitAt v 0)

theorem wcCtrlEffect_eq : wcCtrlEffect k v s =
    (if s.wcStarts k v then (s.wcEnabled k v).fset SYS_WCk_CTRL_INVALIDATING 1 k else s.wcEnabled k v, stOK) := rfl

theorem State.wcEnabled_enable : (s.wcEnabled k v).fget SYS_WCk_CTRL_ENABLE k = bits v 0 1 := by
  have hset : (s.fset SYS_WCk_CTRL_ENABLE (bits v 0 1) k).fget SYS_WCk_CTRL_ENABLE k = bits v 0 1 :=
    (State.fget_fset_self _ _ _ _ _ _ (by decide)).trans (Nat.mod_mod _ _)
  unfold State.wcEnabled
  dsimp only
  split
  · rw [State.fget_fset_other _ _ _ _ _ _ (by rfl) (by decide), hset]
  · exact hset

theorem State.wcEnabled_invalidating : (s.wcEnabled k v).fget SYS_WCk_CTRL_INVALIDATING k = s.fget SYS_WCk_CTRL_INVALIDATING k := by
  unfold State.wcEnabled
  dsimp only
  split
  · rw [State.fget_fset_other _ _ _ _ _ _ (by rfl) (by decide), State.fget_fset_other _ _ _ _ _ _ (by rfl) (by decide)]
  · rw [State.fget_fset_other _ _ _ _ _ _ (by rfl) (by decide)]

theorem State.wcEnabled_regsKept : regsKept s (s.wcEnabled k v) (anyOf [SYS_WCk_CTRL.addr k 0 0 0]) := by
  have hset : regsKept s (s.fset SYS_WCk_CTRL_ENABLE (bits v 0 1) k) (anyOf [SYS_WCk_CTRL.addr k 0 0 0]) :=
    (regsKept.refl s _).fset _ (anyOf_of_mem (List.mem_singleton.2 rfl))
  unfold State.wcEnabled
  dsimp only
  split
  · exact hset.fset (f := SYS_WCk_CTRL_ECC_SEEN) 0 (anyOf_of_mem (List.mem_singleton.2 rfl))
  · exact hset

/-- ENABLE and ECC_SEEN are bits of a register: no memory and no line. -/
theorem State.wcEnabled_mem_wc : (s.wcEnabled k v).mem = s.mem ∧ (s.wcEnabled k v).wc = s.wc := by
  unfold State.wcEnabled
  dsimp only
  split <;> exact ⟨rfl, rfl⟩

/-- What a write of SYS_WCk_CTRL does. -/
theorem wcCtrlEffect_spec : (wcCtrlEffect k v s).1.fget SYS_WCk_CTRL_ENABLE k = bits v 0 1 ∧
    (s.wcStarts k v = true → (wcCtrlEffect k v s).1.fbit SYS_WCk_CTRL_INVALIDATING k = true) ∧
    (s.wcStarts k v = false →
      (wcCtrlEffect k v s).1.fget SYS_WCk_CTRL_INVALIDATING k = s.fget SYS_WCk_CTRL_INVALIDATING k) ∧
    (wcCtrlEffect k v s).1.wc = s.wc ∧ (wcCtrlEffect k v s).1.mem = s.mem ∧
    regsKept s (wcCtrlEffect k v s).1 (anyOf [SYS_WCk_CTRL.addr k 0 0 0]) := by
  obtain ⟨hmem, hwc⟩ := s.wcEnabled_mem_wc k v
  rw [wcCtrlEffect_eq]
  cases s.wcStarts k v with
  | true =>
    refine ⟨?_, fun _ => ?_, by simp, hwc, hmem, ?_⟩
    · rw [if_pos rfl, State.fget_fset_other _ _ _ _ _ _ (by rfl) (by decide), s.wcEnabled_enable k v]
    · exact State.fbit_fset_one _ _ _ _ _ (by decide) rfl
    · exact (s.wcEnabled_regsKept k v).fset (f := SYS_WCk_CTRL_INVALIDATING) 1 (anyOf_of_mem (List.mem_singleton.2 rfl))
  | false =>
    exact ⟨s.wcEnabled_enable k v, by simp, fun _ => s.wcEnabled_invalidating k v, hwc, hmem, s.wcEnabled_regsKept k v⟩

end

/-- WC_INVALIDATE (R275): a register write whose value's low 32 bits count. -/
theorem wcInvalidate_spec {s : State} {src k : Nat} (v : Nat) (hk : k < 2) (hr : reaches s src (SYS_WCk_CTRL.addr k 0 0 0)) : ∃ t,
    exec (.wcInvalidate src k v) s = .next t ∧ t.fget SYS_WCk_CTRL_ENABLE k = bits v 0 1 ∧
    (s.wcStarts k v = true → t.fbit SYS_WCk_CTRL_INVALIDATING k = true) ∧
    (s.wcStarts k v = false → t.fget SYS_WCk_CTRL_INVALIDATING k = s.fget SYS_WCk_CTRL_INVALIDATING k) ∧ t.wc = s.wc ∧
    regsKept s t (loggedAnd [SYS_WCk_CTRL.addr k 0 0 0]) ∧ memKept s t nowhere := by
  obtain ⟨hsrc, hup, hblk⟩ := hr
  obtain ⟨hen, hinv, hno, hwc, hmem, hkept⟩ := wcCtrlEffect_spec s k (wrap 32 v)
  have hbit (i : Nat) (hi : i < 32) : bitAt (wrap 32 v) i = bitAt v i := by
    rw [bitAt, wrap, Nat.testBit_mod_two_pow, decide_eq_true hi, Bool.true_and, bitAt]
  have hstarts : s.wcStarts k (wrap 32 v) = s.wcStarts k v := by
    rw [State.wcStarts, hbit 1 (by decide), hbit 0 (by decide), State.wcStarts]
  rw [wrap, bits_mod_two_pow _ (by decide), ← wrap] at hen
  rw [hstarts] at hinv hno
  refine ⟨_, regCmd_eq (decide_eq_true hk) hsrc hup hblk, ?_⟩
  generalize wcCtrlEffect k (wrap 32 v) s = r at *
  have hfield {f : Field} (hf : f.reg = SYS_WCk_CTRL) :
      (State.writeEnd r src 0xFF (regAddr SYS_WCk_CTRL k) 4 (wrap 32 v)).fget f k = r.1.fget f k :=
    State.writeEnd_fget r src 0xFF _ 4 _ (by rw [hf]; exact not_busLogReg_wc hk)
  refine ⟨(hfield rfl).trans hen, fun h => (State.fbit_of_fget_eq (hfield rfl)).trans (hinv h), fun h => (hfield rfl).trans (hno h),
    (State.writeEnd_wc ..).trans hwc, fun a ha => ?_, .of_mem_eq ((State.writeEnd_mem ..).trans hmem) _⟩
  exact (State.writeEnd_get? r src 0xFF _ 4 _ (fun h => ha (.inr h))).trans (hkept a (fun h => ha (.inl h)))

/-- WC_INVALIDATE_DONE (R275): no line is left, and those that went are counted. -/
theorem wcInvalidateDone_spec {s : State} {k : Nat} (hk : k < 2) (hw : s.works = true)
    (hinv : s.fbit SYS_WCk_CTRL_INVALIDATING k = true) : ∃ t, exec (.wcInvalidateDone k) s = .next t ∧ t.wc.getD k [] = [] ∧
    t.fbit SYS_WCk_CTRL_INVALIDATING k = false ∧
    t.fget SYS_WCk_INVALIDATIONS_COUNT k = (s.fget SYS_WCk_INVALIDATIONS_COUNT k + s.wcLines k) % 2 ^ 64 ∧
    regsKept s t (anyOf [SYS_WCk_CTRL.addr k 0 0 0, SYS_WCk_INVALIDATIONS.addr k 0 0 0]) ∧ memKept s t nowhere := by
  have hregs : (s.wcClear k).regs = (s.fadd SYS_WCk_INVALIDATIONS_COUNT (s.wcLines k) k).regs := rfl
  refine ⟨(s.wcClear k).fset SYS_WCk_CTRL_INVALIDATING 0 k, (unit_of_true (decide_eq_true hk) _).trans
    (due_of_true (by rw [hw, hinv]; rfl) _ _), ?_, State.fbit_fset_zero _ _ _ _ _ (by decide), ?_, ?_, .of_mem_eq rfl _⟩
  · rw [State.wc_fset, State.wcClear, List.getD_eq_getElem?_getD, List.getElem?_set_self']
    cases (s.fadd SYS_WCk_INVALIDATIONS_COUNT (s.wcLines k) k).wc[k]? <;> rfl
  · rw [State.fget_fset_ne _ _ (by
        simp only [Reg.addr, SYS_WCk_INVALIDATIONS_COUNT, SYS_WCk_CTRL_INVALIDATING, SYS_WCk_INVALIDATIONS, SYS_WCk_CTRL]; omega),
      State.fget_of_regs_eq hregs, State.fget_fadd_self _ _ _ _ _ _ (by decide)]
    rfl
  · exact (((regsKept.refl s _).fadd (f := SYS_WCk_INVALIDATIONS_COUNT) _ (anyOf_of_mem (List.mem_cons_of_mem _
      (List.mem_singleton.2 rfl)))).of_regs_eq hregs).fset (f := SYS_WCk_CTRL_INVALIDATING) 0 (anyOf_of_mem (List.mem_cons_self ..))

/-- Settles O39, from one lemma for each of its four commands. -/
theorem windowAndWeightCacheCommandsAct : Obligations.WindowAndWeightCacheCommandsAct := by
  unfold Obligations.WindowAndWeightCacheCommandsAct
  refine ⟨?_, fun src k v s hk hr => ?_, fun k s => wcInvalidateDone_spec,
    fun l n ok s hl hu hup harm => linkReplay_counts n ok hl hu hup harm⟩
  · intro src c o sp b a s hs hsrc hu hc hcores ho ha hdown hph hg
    exact scratchpadWindowAccess_spec hs hsrc hu hc hcores ho ha hdown hph hg
  · obtain ⟨t, hexec, hen, hinv, hno, hrest⟩ := wcInvalidate_spec v hk hr
    refine ⟨t, hexec, hen, fun h => hinv ?_, fun h1 h0 => hno ?_, hrest⟩
    · simpa [State.wcStarts] using h
    · rcases h0 with h0 | h0 <;> simp [State.wcStarts, h1, h0]

end Sys2Proof.Machine
end

section
/-! SUPPORT. What an engine leaves of the registers: an engine of a core writes registers of the cores' blocks, and the injection that one
of its checks takes, and no other. First the scratchpads and Packhorse (R133 to R143). -/

namespace Sys2Proof.Machine

/-- The registers that an engine may write: those of the cores' blocks (R471), and the injection that a check takes (R447). -/
def engineRegs (a : Nat) : Prop := 0x0102_0000_0000 ≤ a ∨ a = FCU_INJECT.addr 0 0 0 0

theorem engineRegs_of_core {r : Reg} (h : 0x0102_0000_0000 ≤ r.base) (i j k l : Nat) : engineRegs (r.addr i j k l) :=
  .inl (by unfold Reg.addr; omega)

/-- The power unit's register of a core is none of them. -/
theorem not_engineRegs_pwrCore {c : Nat} (hc : c < 8) : ¬ engineRegs (PWR_CORE_c.addr c 0 0 0) := by
  simp only [engineRegs, Reg.addr, PWR_CORE_c, FCU_INJECT]
  omega

/-- `t` is reached from `s` by what an engine does: it has the registers of `s` but for those that engines write. -/
def EngineKept (s t : State) : Prop := regsKept s t engineRegs

namespace EngineKept

theorem refl (s : State) : EngineKept s s := regsKept.refl s _

variable {s t u : State}

theorem trans (h : EngineKept s t) (h' : EngineKept t u) : EngineKept s u := regsKept.trans h h'

theorem of_regs (h : EngineKept s t) (hu : u.regs = t.regs) : EngineKept s u := regsKept.of_regs_eq h hu

theorem ite {p : Prop} [Decidable p] (ht : EngineKept s t) (hu : EngineKept s u) : EngineKept s (if p then t else u) := by
  split <;> assumption

theorem foldl {α : Type} {l : List α} {f : State → α → State} (h : EngineKept s t)
    (hf : ∀ u x, EngineKept s u → EngineKept s (f u x)) : EngineKept s (l.foldl f t) :=
  List.foldlRecOn (motive := EngineKept s) l f h (fun u hu x _ => hf u x hu)

section
variable (h : EngineKept s t)
include h

/-! ### Stores of registers, and changes of other fields -/

theorem rset {r : Reg} {w : Word} {i j k l : Nat} (hr : 0x0102_0000_0000 ≤ r.base := by decide) :
    EngineKept s (t.rset r w i j k l) :=
  fun a ha => (State.get?_rset t r w i j k l (a := a) (fun e => ha (e ▸ engineRegs_of_core hr i j k l))).trans (h a ha)

theorem fset {f : Field} {v i j k l : Nat} (hf : 0x0102_0000_0000 ≤ f.reg.base := by decide) :
    EngineKept s (t.fset f v i j k l) := rset h hf

theorem fadd {f : Field} {n i j k l : Nat} (hf : 0x0102_0000_0000 ≤ f.reg.base := by decide) :
    EngineKept s (t.fadd f n i j k l) := fset h hf

theorem modCore {c : Nat} {g : CoreState → CoreState} : EngineKept s (t.modCore c g) := h.of_regs rfl
theorem modFlight {r : DescRef} {g : Flight → Flight} : EngineKept s (t.modFlight r g) := h.of_regs rfl
theorem report {src cls id : Nat} {r : Option DescRef} {c : Option Nat} {inj : Bool} :
    EngineKept s (t.report src cls r id c inj) := h.of_regs rfl

theorem reportFor {r : DescRef} {src cls : Nat} {inj : Bool} : EngineKept s (t.reportFor r src cls inj) := by
  unfold State.reportFor
  split
  · exact h.report
  · exact .modFlight (.report h)

theorem injectCheck {src two id : Nat} {r : Option DescRef} {c : Option Nat} : EngineKept s (t.injectCheck src two r id c).1 :=
  h.trans (t.injectCheck_regsKept src two r id c (.inr rfl))

/-! ### Bank reads (R138, R139) -/

theorem eccFound {c sp a syn : Nat} {r : Option DescRef} : EngineKept s (t.eccFound c sp a syn r) := by
  unfold State.eccFound
  extract_lets un off t1 cap t2 t3 cls
  have h1 : EngineKept s t1 := .ite (.fset (.fadd h)) (.fset (.fadd h))
  have h2 : EngineKept s t2 := .ite h1 (.rset h1)
  have h3 : EngineKept s t3 := .modCore h2
  split
  · exact h3.reportFor
  · exact h3.report

theorem eccRead {c sp b n : Nat} {r : Option DescRef} : EngineKept s (t.eccRead c sp b n r) := by
  unfold State.eccRead
  exact .ite h (.foldl h (fun u x hu => hu.eccFound))

/-! ### Bank writes (R126, R138, R140, R143, R150) -/

theorem bankWrite {c sp r : Nat} {ws : List (Option (Nat × Bool))} {st : StampOp} : EngineKept s (t.bankWrite c sp r ws st) := by
  unfold State.bankWrite
  extract_lets inj x t1 t2
  have h1 : EngineKept s t1 := .ite (.fset h) h
  have h2 : EngineKept s t2 := .foldl h1 (fun u i hu => by
    split
    · exact hu
    · exact hu.of_regs rfl)
  cases st <;> exact h2.of_regs rfl

theorem discardFault {c : Nat} {r : DescRef} : EngineKept s (t.discardFault c r) := .modFlight (.ite h h.reportFor)

theorem zeroDiscard {c : Nat} {r : Option DescRef} : EngineKept s (t.zeroDiscard c r) := by
  have hcount : EngineKept s ((t.fadd SP_ZERO_DISCARDS_COUNT 1 c).fset SP_STATUS_ZERO_DISCARD_SEEN 1 c) := .fset (.fadd h)
  cases r
  · exact hcount.report
  · exact hcount.discardFault

theorem rowWrite {c sp r : Nat} {ws : List (Option (Nat × Bool))} {st : StampOp} {task : Option Nat} {ref : Option DescRef} :
    EngineKept s (t.rowWrite c sp r ws st task ref) := .ite h.zeroDiscard h.bankWrite

theorem spWriteWords {c sp b : Nat} {ws : List (Nat × Bool)} {st : StampOp} {task : Option Nat} {ref : Option DescRef} :
    EngineKept s (t.spWriteWords c sp b ws st task ref) := .foldl h (fun _ _ hu => hu.rowWrite)

/-! ### Packhorse (R133 to R136) -/

theorem mayCollide {c : Nat} : EngineKept s (t.mayCollide c) :=
  .ite h (.ite (h.of_regs rfl) (.fset (.fadd (h.of_regs rfl))))

theorem phRetries {c : Nat} : EngineKept s (t.phRetries c) := .ite h (.fadd (h.of_regs rfl))

theorem phDiscard {c : Nat} {e : PhEntry} : EngineKept s (t.phDiscard c e) := by
  unfold State.phDiscard
  split
  · exact h.zeroDiscard
  · exact .foldl h.zeroDiscard (fun _ _ hu => hu.discardFault)

theorem phDrain {c : Nat} {e : PhEntry} : EngineKept s (t.phDrain c e) := by
  unfold State.phDrain
  extract_lets o sp r full whole t1 t2 ws t3
  have h1 : EngineKept s t1 := h.modCore
  have h2 : EngineKept s t2 := .ite h1 h1.eccRead.phRetries
  have h3 : EngineKept s t3 := h2.bankWrite.mayCollide
  exact .ite h1.phDiscard (.ite h3.fadd (.ite h3.fadd h3.fadd))

theorem phWriteRow {c row off poison : Nat} {bs : List Byte} {task : Option Nat} {ref : Option DescRef} :
    EngineKept s (t.phWriteRow c row off bs poison task ref) := by
  unfold State.phWriteRow
  extract_lets t1 e covered e' t2
  have h1 : EngineKept s t1 := by
    dsimp only [t1]
    split
    · exact h
    · split
      · exact .ite h.phDrain h
      · exact h
  have h2 : EngineKept s t2 := .ite h1.modCore h1.modCore
  exact .ite h2.phDrain h2

theorem phBefore {c row : Nat} {ref : Option DescRef} : EngineKept s (t.phBefore c row ref) := by
  unfold State.phBefore
  split
  · exact .ite h.phDrain h
  · exact h

theorem narrowWrite {c sp b : Nat} {bs : List (Byte × Bool)} {task : Option Nat} {ref : Option DescRef} :
    EngineKept s (t.narrowWrite c sp b bs task ref) :=
  .ite h (.foldl h (fun _ _ hu => .ite hu.phBefore.rowWrite hu.phWriteRow))

end
end EngineKept

end Sys2Proof.Machine
end

section
/-! SUPPORT. What the steps common to all engines leave (R79, R108, R111 to R123): the registers that engines do not write, and the
descriptor they go on with; and that a descriptor which has run, or which a check stops, has ended. -/

namespace Sys2Proof.Machine

/-! ### Steps of a job -/

/-- A job's steps have reached the state and the job of `r`: what engines may not write is kept, and the job is still of `j`'s
descriptor. -/
structure JobKept (s : State) (j : Job) (r : State × Job) : Prop where
  kept : EngineKept s r.1
  flight : r.2.f = j.f

namespace EngineKept

variable {s t : State} (h : EngineKept s t)
include h

theorem modGroup {c : Nat} {g : Group → Group} : EngineKept s (t.modGroup c g) := h.modCore
theorem modMember {c : Nat} {r : DescRef} {g : Member → Member} : EngineKept s (t.modMember c r g) := h.modGroup

theorem skew {c d cycle : Nat} {r : DescRef} : EngineKept s (t.skew c r d cycle) := by
  unfold State.skew
  extract_lets t1 known t2
  have h2 : EngineKept s t2 := .modGroup (.modFlight h)
  exact .ite h2 h2.rset

theorem memberWrite {j : Job} {rank sp r cyc : Nat} {ws : List (Option (Nat × Bool))} :
    EngineKept s (t.memberWrite j rank sp r ws cyc) := .modGroup (.rowWrite h)

theorem jWrite {j : Job} {sp b rank : Nat} {ws : List (Nat × Bool)} {tc : Nat → Nat} : EngineKept s (t.jWrite j sp b ws tc rank) :=
  .ite h.spWriteWords (.foldl h (fun _ _ hu => hu.memberWrite))

theorem issueWord {j : Job} {l n cyc : Nat} {p : Bool} {ws : List Int} : EngineKept s (t.issueWord j l n cyc p ws) := h.modGroup

theorem countSkew {c : Nat} {r : DescRef} : EngineKept s (t.countSkew c r) := .ite (.fset (.fadd h)) h

theorem memberEnd {j : Job} {dur : Nat} : EngineKept s (t.memberEnd j dur) := by
  unfold State.memberEnd
  extract_lets e t1 t2
  have h1 : EngineKept s t1 := .ite h (.fset (.fadd h))
  have h2 : EngineKept s t2 := h1.modMember
  exact .ite h (.ite (.fset h2.skew) h2)

theorem endFlight {r : DescRef} {st : Nat} : EngineKept s (t.endFlight r st) := h.modFlight

theorem addBusy {c e n : Nat} : EngineKept s (t.addBusy c e n) := h.of_regs rfl

theorem endJob {j : Job} {dur st : Nat} : EngineKept s (t.endJob j dur st) :=
  have hend : EngineKept s (((t.memberEnd j dur).addBusy j.c (dEngine j.f.desc) dur).endFlight j.f.ref
      (if j.poison then worse st stContainedFault else st)) := .endFlight (.addBusy h.memberEnd)
  .ite hend.countSkew hend

theorem stopJob {j : Job} {st src : Nat} : EngineKept s (t.stopJob j st src) := by
  unfold State.stopJob
  extract_lets t1 t2
  have h1 : EngineKept s t1 := .ite h.modGroup h
  have h2 : EngineKept s t2 := .endFlight h1.reportFor
  exact .ite (.countSkew h2.modMember) h2

theorem injectJob {j : Job} {src two : Nat} : EngineKept s (t.injectJob j src two).1 := by
  unfold State.injectJob
  extract_lets id r
  have hr : EngineKept s r.1 := h.injectCheck
  split
  · exact hr
  · exact hr.modFlight

end EngineKept

namespace JobKept

variable {s : State} {j : Job} {r q : State × Job}

theorem refl (s : State) (j : Job) : JobKept s j (s, j) := ⟨.refl s, rfl⟩

theorem ite {p : Prop} [Decidable p] (hr : JobKept s j r) (hq : JobKept s j q) : JobKept s j (if p then r else q) := by
  split <;> assumption

theorem foldl {α : Type} {l : List α} {f : State × Job → α → State × Job} (h : JobKept s j r)
    (hf : ∀ q x, JobKept s j q → JobKept s j (f q x)) : JobKept s j (l.foldl f r) :=
  List.foldlRecOn (motive := JobKept s j) l f h (fun q hq x _ => hf q x hq)

/-- Producer checks (R118). -/
theorem checkReads {t : State} {k : Job} (h : EngineKept s t) (hk : k.f = j.f) {op sp : Nat} {l : List (Nat × Nat × Nat × Nat)} :
    JobKept s j (t.checkReads k op sp l) :=
  .ite ⟨h, hk⟩ (.foldl ⟨h, hk⟩ (fun _ _ hq => .foldl hq (fun _ _ hp => .ite hp ⟨hp.kept.skew, hp.flight⟩)))

/-- A failed link check (R116, R120). -/
theorem linkFail {t : State} {k : Job} (h : EngineKept s t) (hk : k.f = j.f) {cyc : Nat} : JobKept s j (t.linkFail k cyc) :=
  ⟨h.skew, hk⟩

end JobKept

/-! ### Ends -/

/-- A job of `j`'s descriptor is over in `t`, which engines have made of `s`: the descriptor has ended. -/
structure JobEnded (s : State) (j : Job) (t : State) : Prop where
  kept : EngineKept s t
  ended : flightHas t j.f.ref (fun f => f.stage = .ended)

theorem flightHas.of_drover {s t : State} {r : DescRef} {p : Flight → Prop} (h : flightHas s r p) (ht : t.drover = s.drover) :
    flightHas t r p := by
  unfold flightHas
  rwa [ht]

/-- A descriptor whose flights have been changed. -/
theorem State.flightHas_modFlight (s : State) (r : DescRef) {g : Flight → Flight} {p : Flight → Prop} (hg : ∀ f, p (g f)) :
    flightHas (s.modFlight r g) r p := by
  intro x hx hr
  obtain ⟨f, -, rfl⟩ := List.mem_map.1 hx
  split
  · exact hg f
  · next hf => rw [if_neg hf] at hr; exact absurd hr hf

@[simp] theorem State.drover_countSkew (s : State) (c : Nat) (r : DescRef) : (s.countSkew c r).drover = s.drover := by
  unfold State.countSkew
  split <;> rfl

/-- A job that has run: its descriptor has ended. -/
theorem State.endJob_flightHas (s : State) (j : Job) (dur st : Nat) :
    flightHas (s.endJob j dur st) j.f.ref (fun f => f.stage = .ended) := by
  have hend (u : State) (st : Nat) : flightHas (u.endFlight j.f.ref st) j.f.ref (fun f => f.stage = .ended) :=
    u.flightHas_modFlight _ (fun _ => rfl)
  unfold State.endJob
  extract_lets t
  split
  · exact (hend _ _).of_drover (State.drover_countSkew ..)
  · exact hend _ _

/-- A stopped job: its descriptor has ended, with the stop's status unless an earlier one precedes (R242). -/
theorem State.stopJob_flightHas (s : State) (j : Job) (st src : Nat) :
    flightHas (s.stopJob j st src) j.f.ref (fun f => f.stage = .ended ∧ ∃ x, f.status = worse x st) := by
  have hend (u : State) : flightHas (u.endFault j.f.ref st src) j.f.ref (fun f => f.stage = .ended ∧ ∃ x, f.status = worse x st) :=
    State.flightHas_modFlight _ _ (fun f => ⟨rfl, f.status, rfl⟩)
  unfold State.stopJob
  dsimp only
  split
  · exact (hend _).of_drover (State.drover_countSkew ..)
  · exact hend _

namespace JobEnded

variable {s t u : State} {j k : Job}

theorem ite {p : Prop} [Decidable p] (ht : JobEnded s j t) (hu : JobEnded s j u) : JobEnded s j (if p then t else u) := by
  split <;> assumption

theorem endJob (h : EngineKept s t) (hk : k.f = j.f) {p : Bool} {dur st : Nat} :
    JobEnded s j (t.endJob { k with poison := p } dur st) :=
  ⟨h.endJob, hk ▸ t.endJob_flightHas { k with poison := p } dur st⟩

theorem stopJob (h : EngineKept s t) (hk : k.f = j.f) {st src : Nat} : JobEnded s j (t.stopJob k st src) :=
  ⟨h.stopJob, fun f hf hr => (t.stopJob_flightHas k st src f hf (hk ▸ hr)).1⟩

/-- A stop of the job as it came. -/
theorem stop (s : State) (j : Job) {st src : Nat} : JobEnded s j (s.stopJob j st src) := stopJob (.refl s) rfl

end JobEnded

end Sys2Proof.Machine
end

section
/-! SUPPORT. Each engine ends the descriptor at hand: the arrays, MVP, WIN, VEC, QNT and ROI, each by the checks and the run of its job. -/

namespace Sys2Proof.Machine

/-! ### The arrays (R66 to R93, R164) -/

namespace EngineKept

variable {s t : State} (h : EngineKept s t)
include h

theorem eccProb {j : Job} {q : Prob} : EngineKept s (t.eccProb j q) := by
  unfold State.eccProb
  extract_lets ref t1 bales t2 t3
  have h1 : EngineKept s t1 := .ite h.eccRead (.foldl h (fun _ _ hu => hu.eccRead))
  have h2 : EngineKept s t2 := .ite h1.eccRead (.foldl h1 (fun _ _ hu => hu.eccRead))
  have h3 : EngineKept s t3 := .ite h2.eccRead h2
  exact .ite (.foldl h3 (fun _ _ hu => hu.eccRead)) h3

theorem runProb {j : Job} {q : Prob} {feed : Option Feed} {mk : Marks} : EngineKept s (t.runProb j q feed mk).1 :=
  List.foldlRecOn (motive := fun r : State × Bool => EngineKept s r.1) _ _ h (fun _ hr _ _ => hr.jWrite)

theorem loadCycles {j : Job} : EngineKept s (t.loadCycles j).2 := by
  unfold State.loadCycles
  split
  · exact h
  · split
    · exact h
    · split
      · exact h
      · exact h.of_regs rfl

end EngineKept

namespace JobKept

variable {s t : State} {j k : Job}

theorem readProb (h : EngineKept s t) (hk : k.f = j.f) {q : Prob} {packed : Bool} : JobKept s j (t.readProb k q packed) := by
  unfold State.readProb
  extract_lets t1 r1 bale r2
  have h1 : EngineKept s t1 := h.eccProb
  have hr1 : JobKept s j r1 := .checkReads h1 hk
  have hr2 : JobKept s j r2 := .checkReads hr1.kept hr1.flight
  exact .ite ⟨h1, hk⟩ (.ite (.checkReads hr2.kept hr2.flight) hr2)

theorem captureAll (h : EngineKept s t) (hk : k.f = j.f) {q : Prob} : JobKept s j (t.captureAll k q) :=
  .foldl ⟨h, hk⟩ (fun p e hp => by
    split
    · exact hp
    · exact .linkFail hp.kept hp.flight)

end JobKept

theorem State.runArray_ended (s : State) (j : Job) : JobEnded s j (s.runArray j) := by
  unfold State.runArray
  extract_lets qs packed t tab r tabPoison r1 r2 k cell acc s1 s2 corrupt first r3 s3 s4 b s5 s6 s7 s8
  have hr : JobKept s j r := .ite (.checkReads (EngineKept.refl s).eccRead rfl) (.refl s j)
  have hr1 : JobKept s j r1 := .foldl hr (fun _ _ hq => .readProb hq.kept hq.flight)
  have hr2 : JobKept s j r2 := .foldl hr1 (fun _ _ hq => .ite hq (.captureAll hq.kept hq.flight))
  have hacc : EngineKept s acc.1 := hr2.kept.injectJob.injectJob
  have hs1 : EngineKept s s1 := .ite hacc hacc.fset
  have hs2 : EngineKept s s2 := .ite hs1.fset (.ite hs1.fset hs1)
  have hs3 : EngineKept s s3 :=
    List.foldlRecOn (motive := fun x : State × Bool => EngineKept s x.1) _ _ hs2 (fun _ hx _ _ => hx.runProb)
  have hs4 : EngineKept s s4 := .ite (.fset hs3.reportFor) hs3
  have hs8 : EngineKept s s8 := .modCore (.fadd (.fadd (.fadd (.fadd hs4.loadCycles))))
  exact .endJob hs8 hr2.flight

theorem State.arrayJob_ended (s : State) (j : Job) : JobEnded s j (s.arrayJob j) := by
  have hcount : EngineKept s (s.fadd MXAn_INSTR_COUNT_COUNT 1 j.c j.arr) := .fadd (.refl s)
  unfold State.arrayJob
  split
  · exact .stopJob hcount rfl
  · exact .ite (.endJob hcount rfl) (s.runArray_ended j)

/-! ### MVP (R94 to R97) -/

theorem EngineKept.mvWrite {s t : State} (h : EngineKept s t) {j : Job} {rows : List MvpRow} : EngineKept s (t.mvWrite j rows) :=
  .ite h.jWrite h.jWrite

theorem State.mvpJob_ended (s : State) (j : Job) : JobEnded s j (s.mvpJob j) := by
  unfold State.mvpJob
  extract_lets d s1 s2 r r1 rows s3 sats s4 s5
  have hr : JobKept s j r := .checkReads (EngineKept.refl s).eccRead.eccRead rfl
  have hr1 : JobKept s j r1 := .checkReads hr.kept hr.flight
  have hs3 : EngineKept s s3 := hr1.kept.mvWrite
  have hs4 : EngineKept s s4 := .fadd (.fadd hs3)
  have hs5 : EngineKept s s5 := .ite hs4 hs4.fset
  exact .ite (.stop s j) (.ite (.stop s j) (.ite (.stop s j) (.endJob hs5 hr1.flight)))

/-! ### WIN (R163, R171) -/

theorem EngineKept.countWord {s t : State} (h : EngineKept s t) {c w : Nat} : EngineKept s (t.countWord c w) := by
  unfold State.countWord
  extract_lets t1 t2 t3
  have h1 : EngineKept s t1 := h.fadd
  have h2 : EngineKept s t2 := .ite h1.fadd h1
  have h3 : EngineKept s t3 := .ite h2.fadd h2
  exact .ite h3.fadd h3

theorem EngineKept.issueFeed {s t : State} (h : EngineKept s t) {j : Job} {f : Feed} {p : Bool} :
    EngineKept s (t.issueFeed j f p) :=
  .foldl h (fun u e hu => by
    extract_lets w p u1 u2
    have h1 : EngineKept s u1 := .ite hu.issueWord hu
    have h2 : EngineKept s u2 := .ite h1.issueWord h1
    exact h2.countWord)

theorem State.feedJob_ended (s : State) (j : Job) : JobEnded s j (s.feedJob j) := by
  unfold State.feedJob
  extract_lets f0 n r rd poison f
  have hr : JobKept s j r := .ite (.refl s j) (.checkReads (EngineKept.refl s).eccRead rfl)
  exact .ite (.stop s j) (.ite (.stop s j) (.endJob hr.kept.issueFeed hr.flight))

theorem State.regroupJob_ended (s : State) (j : Job) : JobEnded s j (s.regroupJob j) := by
  unfold State.regroupJob
  extract_lets g sm dm zn t s1 s2 r r1 k q s3 s4 s5 s6
  have hs1 : EngineKept s s1 := (EngineKept.refl s).eccRead
  have hr : JobKept s j r := .checkReads (.ite hs1.eccRead hs1) rfl
  have hr1 : JobKept s j r1 := .ite (.checkReads hr.kept hr.flight) hr
  have hq : EngineKept s q.1 :=
    List.foldlRecOn (motive := fun x : State × Nat × Bool × Bool => EngineKept s x.1) _ _ hr1.kept (fun _ hx _ _ => hx.jWrite)
  have hs3 : EngineKept s s3 := hq.fadd
  have hs4 : EngineKept s s4 := .ite hs3 hs3.fset
  have hs5 : EngineKept s s5 := .ite hs4.fset hs4
  have hs6 : EngineKept s s6 := .ite hs5.reportFor hs5
  exact .ite (.stop s j) (.ite (.stop s j) (.ite (.stop s j) (.endJob hs6 hr1.flight)))

/-! ### VEC (R189 to R197) -/

/-- Words captured from a vector link: a capture that fails is a cause of TIMING_SKEW (R116). -/
theorem JobKept.takeWords {s t : State} {j k : Job} (h : EngineKept s t) (hk : k.f = j.f) {l off n : Nat} :
    JobKept s j ((t.takeWords k l off n).1, (t.takeWords k l off n).2.1) :=
  List.foldlRecOn (motive := fun x : State × Job × List (List Int × Bool) => JobKept s j (x.1, x.2.1)) _ _ ⟨h, hk⟩
   (fun x hx i _ => by
    split
    · exact hx
    · extract_lets src r
      have hr : JobKept s j r := .ite (.linkFail hx.kept hx.flight) ⟨hx.kept, hx.flight⟩
      exact ⟨hr.kept, hr.flight⟩)

namespace EngineKept

variable {s t : State} (h : EngineKept s t)
include h

theorem putWords {j : Job} {l off : Nat} {vs : List (Nat × Bool)} : EngineKept s (t.putWords j l off vs) :=
  .ite h (.foldl h (fun _ _ hu => hu.issueWord))

theorem vecWrite {j : Job} {v : VecD} {out : List VOut} : EngineKept s (t.vecWrite j v out) :=
  .ite h.putWords (.ite h.jWrite h.jWrite)

theorem vecCount {c e : Nat} {l : List VOut} : EngineKept s (t.vecCount c e l) := by
  unfold State.vecCount
  extract_lets n k t1 t2 t3
  have h1 : EngineKept s t1 := h.fadd
  have h2 : EngineKept s t2 := .ite h1 (.fset h1.fadd)
  have h3 : EngineKept s t3 := .ite h2 (.fset h2.fadd)
  exact h3.fadd

theorem setCurve {c n : Nat} {x : Option CurveStore} : EngineKept s (t.setCurve c n x) := .fset h.modCore

end EngineKept

theorem State.vecJob_ended (s : State) (j : Job) : JobEnded s j (s.vecJob j) := by
  unfold State.vecJob
  extract_lets v st s1 r w s2 k ins elems out corrupt bad s3 s4 s5
  have hs1 : EngineKept s s1 := .foldl (.refl s) (fun _ _ hu => hu.eccRead)
  have hr : JobKept s j r := .foldl ⟨hs1, rfl⟩ (fun _ _ hq => .checkReads hq.kept hq.flight)
  have hw : JobKept s j (s2, k) := by
    dsimp only [s2, k, w]
    split
    · exact .takeWords hr.kept hr.flight
    · exact hr
  have hs3 : EngineKept s s3 := hw.kept.vecWrite.vecCount
  have hs4 : EngineKept s s4 := .ite hs3.fset hs3
  have hs5 : EngineKept s s5 := .ite hs4.reportFor hs4
  exact .ite (.stop s j) (.ite (.stop s j) (.ite (.stop s j) (.endJob hs5 hw.flight)))

/-- A rejected curve table empties its store (R195). -/
theorem State.curveReject_ended {s t : State} {j k : Job} (h : EngineKept s t) (hk : k.f = j.f) (n : Nat) :
    JobEnded s j (t.curveReject k n) := .stopJob (.fset h.setCurve) hk

theorem State.curveLoadJob_ended (s : State) (j : Job) : JobEnded s j (s.curveLoadJob j) := by
  unfold State.curveLoadJob
  extract_lets v at_ h l b t r w p s1
  have hr : JobKept s j r := .checkReads (EngineKept.refl s).eccRead rfl
  have hs1 : EngineKept s s1 := hr.kept.setCurve
  exact .ite (.stop s j) (.ite (.stop s j) (.ite (.stop s j) (.ite (curveReject_ended (.refl s) rfl _)
    (.ite (curveReject_ended hr.kept hr.flight _) (.endJob hs1 hr.flight)))))

/-! ### QNT (R199 to R207) -/

namespace EngineKept

variable {s t : State} (h : EngineKept s t)
include h

theorem qntWrite {j : Job} {q : QntD} {x : Int} {xp : Bool} {out : List (Nat × Bool)} : EngineKept s (t.qntWrite j q x xp out) :=
  .ite h.putWords (.ite h.jWrite h.jWrite)

theorem qntStats {j : Job} {q : QntD} {out : List QOut} : EngineKept s (t.qntStats j q out) := by
  unfold State.qntStats
  extract_lets good sats mag t1 t2 t3 t4 t5 t6 r p
  have h1 : EngineKept s t1 := h.fadd
  have h2 : EngineKept s t2 := .ite h1.fset h1
  have h3 : EngineKept s t3 := .ite h2.fset h2
  have h6 : EngineKept s t6 := .fset (.fset (.fset (.fadd (.fadd (.fadd h3)))))
  exact .ite h3 (.ite h6.jWrite h6)

end EngineKept

theorem State.qntRun_ended {s t : State} {j i : Job} (h : EngineKept s t) (hi : i.f = j.f) (q : QntD) (x : Int) (xp : Bool) :
    JobEnded s j (t.qntRun i q x xp) := by
  unfold State.qntRun
  extract_lets s1 r1 w s2 k out marked s3 s4
  have hw : JobKept s j (s2, k) := by
    dsimp only [s2, k, w]
    split
    · exact .takeWords h hi
    · have hr1 : JobKept s j r1 := .checkReads h.eccRead hi
      exact ⟨hr1.kept, hr1.flight⟩
  have hs3 : EngineKept s s3 := hw.kept.qntWrite.qntStats
  have hs4 : EngineKept s s4 := .ite hs3.fset hs3
  exact .endJob hs4 hw.flight

theorem State.qntJob_ended (s : State) (j : Job) : JobEnded s j (s.qntJob j) := by
  unfold State.qntJob
  extract_lets q s1 s2 r
  have hr : JobKept s j r := .checkReads (EngineKept.refl s).eccRead.eccRead rfl
  refine .ite (.stop s j) (.ite (.stopJob (.fset (.refl s)) rfl) (.ite (.stop s j) (.ite (.stop s j)
    (.ite (.ite (.stop s j) ?_) (qntRun_ended (.refl s) rfl _ _ _)))))
  split
  · exact .stopJob hr.kept hr.flight
  · exact qntRun_ended hr.kept hr.flight _ _ _

theorem State.adaptRun_ended {s t : State} {j i : Job} (h : EngineKept s t) (hi : i.f = j.f) (hdr : Nat) (ents recs : List Nat)
    (p : Bool) : JobEnded s j (t.adaptRun i hdr ents recs p) := by
  unfold State.adaptRun
  extract_lets dur next n p head ws s1 s2 s3 s4
  have h2 : EngineKept s s2 := .fadd (.fadd (.fadd h.jWrite))
  have h3 : EngineKept s s3 := .ite h2 h2.fset
  have h4 : EngineKept s s4 := .ite h3.fset h3
  exact .endJob h4 hi

theorem State.adaptJob_ended (s : State) (j : Job) : JobEnded s j (s.adaptJob j) := by
  unfold State.adaptJob
  extract_lets d n at_ list hdr k s1 s2 r r1 ents recs poison
  have hr : JobKept s j r := .checkReads (EngineKept.refl s).eccRead.eccRead rfl
  have hr1 : JobKept s j r1 := .checkReads hr.kept hr.flight
  exact .ite (.stop s j) (.ite (.stop s j) (.ite (.stop s j) (.ite (.stop s j) (.ite (.stop s j)
    (.ite (.stopJob hr1.kept hr1.flight) (adaptRun_ended hr1.kept hr1.flight ..))))))

/-! ### ROI (R177 to R186) -/

theorem EngineKept.roiWrite {s t v : State} (h : EngineKept s t) {j : Job} {p : RoiD} {n : Nat} {b : RBox} :
    EngineKept s (t.roiWrite v j p n b) :=
  .ite (.foldl h (fun _ _ hu => hu.narrowWrite)) (.foldl h (fun _ _ hu => .ite hu hu.narrowWrite))

theorem State.roiRun_ended {s t : State} {j : Job} (h : EngineKept s t) (p : RoiD) (rp : Bool) : JobEnded s j (t.roiRun j p rp) := by
  unfold State.roiRun
  extract_lets c s1 s2 s3 v count poison l s4 cn s5 outs ext pz cor s6 s7 s8 s9 s10 s11 st
  have h1 : EngineKept s s1 := h.eccRead
  have h2 : EngineKept s s2 := .ite h1.eccRead h1
  have h3 : EngineKept s s3 := .ite h2 h2.eccRead
  have h4 : EngineKept s s4 := .ite h3 h3.eccRead
  have h5 : EngineKept s s5 := .foldl h4 (fun _ _ hu => hu.roiWrite)
  have h6 : EngineKept s s6 := .fadd h5.fadd
  have h7 : EngineKept s s7 := .ite h6 h6.fset
  have h8 : EngineKept s s8 := .ite h7.fset h7
  have h9 : EngineKept s s9 := .ite h8 h8.fadd
  have h10 : EngineKept s s10 := .ite h9 (.fset h9.fadd)
  have h11 : EngineKept s s11 := .ite h10.reportFor h10
  exact .ite (.stopJob h3 rfl) (.endJob h11 rfl)

theorem State.roiJob_ended (s : State) (j : Job) : JobEnded s j (s.roiJob j) := by
  unfold State.roiJob
  extract_lets d at_ s1 v p
  have h1 : EngineKept s s1 := (EngineKept.refl s).eccRead
  exact .ite (.stop s j) (.ite (.stop s j) (.ite (.stopJob h1 rfl) (.ite (.stopJob h1 rfl) (.ite (.stopJob h1 rfl)
    (roiRun_ended h1 _ _)))))

end Sys2Proof.Machine
end

section
/-! SUPPORT. Every engine command ends the descriptor its engine has at hand, and the core takes its phase: O29. -/

namespace Sys2Proof.Machine

/-- A core has the phase it has just taken. -/
theorem State.fget_setPhase (s : State) (c d : Nat) : (s.setPhase c (dPhase d)).fget PWR_CORE_c_PHASE c = dPhase d :=
  (State.fget_fset_self _ _ _ _ _ _ (by decide)).trans (Nat.mod_eq_of_lt (Nat.mod_lt _ (by decide)))

/-- A command runs `j` to its end: a next state, in which the descriptor has ended and the core has its phase. -/
def State.EndsJob (s : State) (c : Nat) (j : Job) (i : Instr) : Prop :=
  ∃ t, exec i s = .next t ∧ flightHas t j.f.ref (fun f => f.stage = .ended) ∧ t.fget PWR_CORE_c_PHASE c = dPhase j.f.desc

/-- An engine command whose engine has a descriptor at hand that it picks and that may start. -/
theorem engineCmd_eq {c e : Nat} {sel : Nat → Bool} {ready : State → Job → Bool} {s : State} {j : Job} (hc : c < 8)
    (hw : s.coreWorks c = true) (hj : s.jobFor c e = some j) (hsel : sel j.f.desc = true) (hready : ready s j = true)
    (body : State → Job → State) :
    engineCmd c e sel ready s body = .next (body (s.setPhase c (dPhase j.f.desc)) j) := by
  unfold engineCmd
  rw [unit_of_true (decide_eq_true hc), hj]
  exact due_of_true (by rw [hw, hsel, hready]; rfl) _ _

section
variable {c : Nat} {s : State} {j : Job} (hc : c < 8) (hw : s.coreWorks c = true)
include hc hw

theorem endsJob_of_engineCmd {i : Instr} {e : Nat} {sel : Nat → Bool} {ready : State → Job → Bool} {body : State → Job → State}
    (hexec : exec i s = engineCmd c e sel ready s body) (hj : s.jobFor c e = some j) (hsel : sel j.f.desc = true)
    (hready : ready s j = true) (hbody : ∀ u, JobEnded u j (body u j)) : s.EndsJob c j i := by
  have hend := hbody (s.setPhase c (dPhase j.f.desc))
  exact ⟨_, hexec.trans (engineCmd_eq hc hw hj hsel hready body), hend.ended,
    (regsKept.fget hend.kept (not_engineRegs_pwrCore hc)).trans (s.fget_setPhase c j.f.desc)⟩

/-- VEC (R191): the command of a function runs a descriptor that names it. -/
theorem vecCommands_endJob (hj : s.jobFor c enVEC = some j) : ∀ x ∈ [(Instr.add c, fnADD), (.sub c, fnSUB), (.mul c, fnMUL),
    (.fma c, fnFMA), (.min c, fnMIN), (.max c, fnMAX), (.abs c, fnABS), (.neg c, fnNEG), (.clamp c, fnCLAMP), (.select c, fnSELECT),
    (.curve c, fnCURVE), (.convert c, fnCONVERT), (.slotAdd c, fnSLOT_ADD), (.slotToFp32 c, fnSLOT_TO_FP32),
    (.reduceSum c, fnREDUCE_SUM), (.reduceMax c, fnREDUCE_MAX), (.curveLoad c, fnCURVE_LOAD)],
    (dOpcode j.f.desc == opVEC_OP && (vecOf j.f.desc).func == x.2) = true → s.EndsJob c j x.1 := by
  have hadd (h : (dOpcode j.f.desc == opVEC_OP && (vecOf j.f.desc).func == fnADD) = true) : s.EndsJob c j (.add c) := by
    rw [Bool.and_eq_true] at h
    exact endsJob_of_engineCmd hc hw (.refl (execAdd c s)) hj (by rw [h.1, h.2]; rfl) rfl (fun u => u.vecJob_ended j)
  have hfn {i : Instr} {fn : Nat} {body : State → Job → State} (hexec : exec i s = vecCmd c fn s body)
      (hbody : ∀ u, JobEnded u j (body u j)) (h : (dOpcode j.f.desc == opVEC_OP && (vecOf j.f.desc).func == fn) = true) :
      s.EndsJob c j i := endsJob_of_engineCmd hc hw hexec hj h rfl hbody
  have hvec (u : State) : JobEnded u j (u.vecJob j) := u.vecJob_ended j
  simp only [List.forall_mem_cons]
  exact ⟨hadd, hfn rfl hvec, hfn rfl hvec, hfn rfl hvec, hfn rfl hvec, hfn rfl hvec, hfn rfl hvec, hfn rfl hvec, hfn rfl hvec,
    hfn rfl hvec, hfn rfl hvec, hfn rfl hvec, hfn rfl hvec, hfn rfl hvec, hfn rfl hvec, hfn rfl hvec,
    hfn rfl (fun u => u.curveLoadJob_ended j), by simp⟩

/-- The arrays (R78, R83, R87), once the activity level has reached the need (R423). -/
theorem arrayCommands_endJob {a : Nat} (ha : a < 2) (hj : s.jobFor c (enMXA0 + a) = some j) :
    ∀ x ∈ [(Instr.mxaStream c a, opMXA_STREAM), (.mxaPacked c a, opMXA_PACKED), (.mxaThrough c a, opMXA_THROUGH)],
    (dOpcode j.f.desc == x.2 && decide (s.arrayNeed j ≤ s.level c a)) = true → s.EndsJob c j x.1 := by
  have harr {i : Instr} {op : Nat} (hexec : exec i s = arrayCmd c a op s)
      (h : (dOpcode j.f.desc == op && decide (s.arrayNeed j ≤ s.level c a)) = true) : s.EndsJob c j i := by
    rw [Bool.and_eq_true] at h
    exact endsJob_of_engineCmd hc hw (hexec.trans (unit_of_true (decide_eq_true ha) _)) hj h.1 h.2 (fun u => u.arrayJob_ended j)
  simp only [List.forall_mem_cons]
  exact ⟨harr rfl, harr rfl, harr rfl, by simp⟩

/-- ROI (R180, R182, R183), by the OP of the parameter record. -/
theorem roiCommands_endJob (hj : s.jobFor c enROI = some j) :
    ∀ x ∈ [(Instr.windowPooling c, roiWINDOW), (.boxPooling c, roiBOX), (.cropAndResize c, roiCROP)],
    (dOpcode j.f.desc == opROI_OP && s.roiOp j == x.2) = true → s.EndsJob c j x.1 := by
  have hroi {i : Instr} {op : Nat} {ready : State → Job → Bool}
      (hexec : exec i s = engineCmd c enROI (fun d => dOpcode d == opROI_OP) ready s State.roiJob)
      (hready : (s.roiOp j == op) = true → ready s j = true)
      (h : (dOpcode j.f.desc == opROI_OP && s.roiOp j == op) = true) : s.EndsJob c j i := by
    rw [Bool.and_eq_true] at h
    exact endsJob_of_engineCmd hc hw hexec hj h.1 (hready h.2) (fun u => u.roiJob_ended j)
  simp only [List.forall_mem_cons]
  exact ⟨hroi (.refl (execWindowPooling c s)) (fun h => by rw [h]; rfl), hroi (.refl (execBoxPooling c s)) id,
    hroi (.refl (execCropAndResize c s)) id, by simp⟩

end

/-- Settles O29: each engine's job ends its descriptor and leaves the power unit's registers alone. -/
theorem enginesRunTheirDescriptors : Obligations.EnginesRunTheirDescriptors := by
  unfold Obligations.EnginesRunTheirDescriptors
  intro i c e a p j s hc ha hw hj hp hmem
  rw [List.mem_append, List.mem_append, List.mem_append] at hmem
  change s.EndsJob c j i
  rcases hmem with ((hmem | hmem) | hmem) | hmem
  · simp only [List.mem_cons, List.not_mem_nil, or_false, Prod.mk.injEq] at hmem
    rcases hmem with ⟨rfl, rfl, rfl⟩ | ⟨rfl, rfl, rfl⟩ | ⟨rfl, rfl, rfl⟩ | ⟨rfl, rfl, rfl⟩ | ⟨rfl, rfl, rfl⟩
    · exact endsJob_of_engineCmd hc hw (.refl (execWinFeed c s)) hj hp rfl (fun u => u.feedJob_ended j)
    · exact endsJob_of_engineCmd hc hw (.refl (execWinRegroup c s)) hj hp rfl (fun u => u.regroupJob_ended j)
    · exact endsJob_of_engineCmd hc hw (.refl (execMvpMatvec c s)) hj hp rfl (fun u => u.mvpJob_ended j)
    · exact endsJob_of_engineCmd hc hw (.refl (execQntConvert c s)) hj hp rfl (fun u => u.qntJob_ended j)
    · exact endsJob_of_engineCmd hc hw (.refl (execQntAdapt c s)) hj hp rfl (fun u => u.adaptJob_ended j)
  · obtain ⟨x, hx, he⟩ := List.mem_map.1 hmem
    cases he
    exact vecCommands_endJob hc hw hj x hx hp
  · obtain ⟨x, hx, he⟩ := List.mem_map.1 hmem
    cases he
    exact arrayCommands_endJob hc hw ha hj x hx hp
  · obtain ⟨x, hx, he⟩ := List.mem_map.1 hmem
    cases he
    exact roiCommands_endJob hc hw hj x hx hp

end Sys2Proof.Machine
end

section
/-! SUPPORT. A descriptor that its engine's checks stop (R82, R92, R147, R163, R190, R195, R200, R511): O30. -/

namespace Sys2Proof.Machine

/-! ### A stopped job -/

/-- A job was stopped: its descriptor has ended with a status that does not deliver, its fault is reported in class U, and no byte has
changed. -/
structure JobStopped (s : State) (j : Job) (t : State) : Prop where
  ended : flightHas t j.f.ref (fun f => f.stage = .ended ∧ delivers f.status = false)
  reported : ∃ r ∈ t.fcu.reports, r.cls = clsU ∧ r.ref = some j.f.ref
  mem : t.mem = s.mem

/-- The statuses with which a check stops a descriptor. -/
def isStop (st : Nat) : Prop := st = stContainedFault ∨ st = stBoundViolation

/-- A status that precedes a stop's does not deliver either (R241, R242). -/
theorem worse_not_delivers {st : Nat} (h : isStop st) (x : Nat) : delivers (worse x st) = false := by
  have hrank : ∀ y ∈ [stOK, stVoidInput, stBudgetExpired, stSat], ∀ z ∈ [stContainedFault, stBoundViolation],
      ¬ statusRank y ≤ statusRank z := by decide
  have hst : st ∈ [stContainedFault, stBoundViolation] := by simpa [isStop] using h
  unfold worse
  split
  · next hle =>
    refine Bool.eq_false_iff.2 (fun hd => hrank x ?_ st hst hle)
    simpa [delivers, or_assoc] using hd
  · rcases h with rfl | rfl <;> rfl

/-- The report of a descriptor in flight is attributed to it (R433). -/
theorem State.mem_reports_reportFor {s : State} {r : DescRef} (h : (s.flight? r).isSome = true) (src cls : Nat) (inj : Bool) :
    ∃ x ∈ (s.reportFor r src cls inj).fcu.reports, x.cls = cls ∧ x.ref = some r := by
  obtain ⟨f, hf⟩ := Option.isSome_iff_exists.1 h
  rw [State.reportFor, hf]
  exact ⟨_, List.mem_append_right _ (List.mem_singleton.2 rfl), rfl, rfl⟩

@[simp] theorem State.fcu_countSkew (s : State) (c : Nat) (r : DescRef) : (s.countSkew c r).fcu = s.fcu := by
  unfold State.countSkew
  split <;> rfl

@[simp] theorem State.mem_countSkew (s : State) (c : Nat) (r : DescRef) : (s.countSkew c r).mem = s.mem := by
  unfold State.countSkew
  split <;> rfl

/-- What a stop asserts is its descriptor's fault of class U. -/
theorem State.stopJob_reported {s : State} {j : Job} (h : (s.flight? j.f.ref).isSome = true) (st src : Nat) :
    ∃ r ∈ (s.stopJob j st src).fcu.reports, r.cls = clsU ∧ r.ref = some j.f.ref := by
  have hfault {u : State} (hu : u.drover = s.drover) :
      ∃ r ∈ (u.endFault j.f.ref st src).fcu.reports, r.cls = clsU ∧ r.ref = some j.f.ref :=
    u.mem_reports_reportFor (by rwa [State.flight?, hu]) src clsU false
  unfold State.stopJob
  extract_lets u t
  have hu : u.drover = s.drover := by
    dsimp only [u]
    split <;> rfl
  split
  · rw [State.fcu_countSkew]
    exact hfault hu
  · exact hfault hu

/-- A stop writes nothing (R92, R147, R511). -/
@[simp] theorem State.mem_stopJob (s : State) (j : Job) (st src : Nat) : (s.stopJob j st src).mem = s.mem := by
  unfold State.stopJob
  extract_lets u t
  have hu : u.mem = s.mem := by
    dsimp only [u]
    split <;> rfl
  have ht : t.mem = s.mem := (State.mem_reportFor ..).trans hu
  split
  · rw [State.mem_countSkew]
    exact ht
  · exact ht

namespace JobStopped

variable {s t u : State} {j : Job}

/-- A stop, after what touches registers alone. -/
theorem stopJob (hf : (s.flight? j.f.ref).isSome = true) (hd : t.drover = s.drover) (hm : t.mem = s.mem) {st src : Nat}
    (hst : isStop st) : JobStopped s j (t.stopJob j st src) where
  ended f h hr := by
    obtain ⟨hend, x, hx⟩ := t.stopJob_flightHas j st src f h hr
    exact ⟨hend, hx ▸ worse_not_delivers hst x⟩
  reported := State.stopJob_reported (by rwa [State.flight?, hd]) st src
  mem := (State.mem_stopJob ..).trans hm

theorem ite {p : Prop} [Decidable p] (ht : p → JobStopped s j t) (hu : ¬ p → JobStopped s j u) :
    JobStopped s j (if p then t else u) := by
  split
  · exact ht ‹_›
  · exact hu ‹_›

section
variable (hf : (s.flight? j.f.ref).isSome = true)
include hf

theorem fieldStop : JobStopped s j (s.fieldStop j) := stopJob hf rfl rfl (.inl rfl)
theorem handleStop : JobStopped s j (s.handleStop j) := stopJob hf rfl rfl (.inl rfl)
theorem boundStop : JobStopped s j (s.boundStop j) := stopJob hf rfl rfl (.inr rfl)

/-! ### The engines' checks -/

/-- WIN: a feed outside a group (R165). -/
theorem feedJob (h : j.member = false) : JobStopped s j (s.feedJob j) :=
  .ite (fun _ => stopJob hf rfl rfl (.inl rfl)) (fun hm => absurd (by rw [h]; rfl) hm)

/-- MVP: field block, handle spaces, bounds (R147, R511). -/
theorem mvpJob (h : (mvFieldBad j.f.desc || !s.jBounds j (mvRegions j)) = true) : JobStopped s j (s.mvpJob j) := by
  rw [Bool.or_eq_true] at h
  exact .ite (fun _ => fieldStop hf) (fun hfield => .ite (fun _ => handleStop hf) (fun _ => .ite (fun _ => boundStop hf)
    (fun hbound => absurd h (not_or.2 ⟨hfield, hbound⟩))))

/-- VEC: field block, an empty curve store, handle spaces, bounds (R190, R195, R227). -/
theorem vecJob {v : VecD} (hv : v = vecOf j.f.desc)
    (h : (v.bad || (v.func == fnCURVE && (s.vecStore j v).isNone)) = true ∨ (!s.jBounds j (v.regions j)) = true) :
    JobStopped s j (s.vecJob j) := by
  subst hv
  exact .ite (fun _ => fieldStop hf) (fun hfield => .ite (fun _ => handleStop hf) (fun _ => .ite (fun _ => boundStop hf)
    (fun hbound => absurd h (not_or.2 ⟨hfield, hbound⟩))))

/-- QNT_CONVERT: field block, a multiplier that is not finite, handle spaces, bounds (R63, R200). -/
theorem qntJob {q : QntD} (hq : q = qntOf j.f.desc) (h : (q.bad || !isFinite32 q.mult || !s.jBounds j (q.regions j)) = true) :
    JobStopped s j (s.qntJob j) := by
  subst hq
  rw [Bool.or_eq_true, Bool.or_eq_true] at h
  have hmultStop : JobStopped s j ((s.fset QNT_STATUS_MULT_FAULT_SEEN 1 j.c).fieldStop j) :=
    stopJob hf (State.drover_fset ..) (State.mem_fset ..) (.inl rfl)
  exact .ite (fun _ => fieldStop hf) (fun hfield => .ite (fun _ => hmultStop) (fun hmult =>
    .ite (fun _ => handleStop hf) (fun _ => .ite (fun _ => boundStop hf)
      (fun hbound => absurd h (not_or.2 ⟨not_or.2 ⟨hfield, hmult⟩, hbound⟩)))))

end
end JobStopped

/-- The arrays' stops (R82, R92, R99, R165, R219, R511): a contained fault, or a violated bound. -/
theorem State.isStop_arrayStop {s : State} {j : Job} : ∀ x ∈ s.arrayStop j, isStop x.status := by
  have hfault (src : Nat) : ∀ x ∈ some (Stop.mk stContainedFault src), isStop x.status := by
    rintro x ⟨⟩
    exact .inl rfl
  have hbound (src : Nat) : ∀ x ∈ some (Stop.mk stBoundViolation src), isStop x.status := by
    rintro x ⟨⟩
    exact .inr rfl
  have hite {p : Prop} [Decidable p] {o o' : Option Stop} (ho : ∀ x ∈ o, isStop x.status) (ho' : ∀ x ∈ o', isStop x.status) :
      ∀ x ∈ (if p then o else o'), isStop x.status := by
    split <;> assumption
  exact hite (hfault _) (hite (hfault _) (hite (hfault _) (hite (hbound _) (hite (hfault _) (hite (hfault _)
    (hite (by rintro x ⟨⟩) (hbound _)))))))

theorem JobStopped.arrayJob {s : State} {j : Job} (hf : (s.flight? j.f.ref).isSome = true) (h : (s.arrayStop j).isSome = true) :
    JobStopped s j (s.arrayJob j) := by
  obtain ⟨x, hx⟩ := Option.isSome_iff_exists.1 h
  rw [State.arrayJob, hx]
  exact .stopJob hf (State.drover_fadd ..) (State.mem_fadd ..) (State.isStop_arrayStop x hx)

/-! ### The commands -/

/-- The descriptor that an engine has at hand is in flight. -/
theorem State.flight?_of_jobFor {s : State} {c e : Nat} {j : Job} (h : s.jobFor c e = some j) : (s.flight? j.f.ref).isSome = true := by
  have hmem : j.f ∈ s.drover.flights := by
    unfold State.jobFor at h
    split at h
    · next f hfind =>
      obtain ⟨g, -, rfl⟩ := Option.map_eq_some_iff.1 h
      exact List.mem_of_find?_eq_some hfind
    · obtain ⟨f, hhead, rfl⟩ := Option.map_eq_some_iff.1 h
      exact List.mem_of_find?_eq_some hhead
  exact List.find?_isSome.2 ⟨j.f, hmem, beq_self_eq_true _⟩

/-- An array that is to be stopped needs no activity level (R423). -/
theorem State.arrayNeed_of_stop {s : State} {j : Job} (h : (s.arrayStop j).isSome = true) : s.arrayNeed j = 0 := by
  simp [State.arrayNeed, h]

theorem State.arrayStop_setPhase (s : State) (c p : Nat) (j : Job) : (s.setPhase c p).arrayStop j = s.arrayStop j := rfl

/-- A command stops `j`: a next state, in which that has been stopped as the statement has it. -/
def State.StopsJob (s : State) (j : Job) (i : Instr) : Prop :=
  ∃ t, exec i s = .next t ∧ flightHas t j.f.ref (fun f => f.stage = .ended ∧ delivers f.status = false) ∧
    (∃ r ∈ t.fcu.reports, r.cls = clsU ∧ r.ref = some j.f.ref) ∧ memKept s t nowhere

section
variable {c : Nat} {s : State} {j : Job} (hc : c < 8) (hw : s.coreWorks c = true)
include hc hw

/-- A check reads nothing of the core's phase, so its condition on `s` is, by definition, that on the state in which the engine runs. -/
theorem stopsJob_of_engineCmd {i : Instr} {e : Nat} {sel : Nat → Bool} {ready : State → Job → Bool} {body : State → Job → State}
    (hexec : exec i s = engineCmd c e sel ready s body) (hj : s.jobFor c e = some j) (hsel : sel j.f.desc = true)
    (hready : ready s j = true)
    (hbody : (s.flight? j.f.ref).isSome = true →
      JobStopped (s.setPhase c (dPhase j.f.desc)) j (body (s.setPhase c (dPhase j.f.desc)) j)) : s.StopsJob j i := by
  have hstop := hbody (State.flight?_of_jobFor hj)
  exact ⟨_, hexec.trans (engineCmd_eq hc hw hj hsel hready body), hstop.ended, hstop.reported, .of_mem_eq hstop.mem _⟩

theorem arrayCommand_stopsJob {i : Instr} {a op : Nat} (ha : a < 2) (hexec : exec i s = arrayCmd c a op s)
    (hj : s.jobFor c (enMXA0 + a) = some j) (hop : dOpcode j.f.desc = op) (h : (s.arrayStop j).isSome = true) : s.StopsJob j i :=
  stopsJob_of_engineCmd hc hw (hexec.trans (unit_of_true (decide_eq_true ha) _)) hj (beq_iff_eq.2 hop)
    (decide_eq_true (by rw [State.arrayNeed_of_stop h]; exact Nat.zero_le _))
    (fun hf => .arrayJob hf (by rwa [State.arrayStop_setPhase]))

/-- VEC, by the command of the function that the descriptor names. -/
theorem vecCommand_stopsJob {i : Instr} {fn : Nat} {v : VecD} (hexec : exec i s = vecCmd c fn s State.vecJob)
    (hj : s.jobFor c enVEC = some j) (hop : dOpcode j.f.desc = opVEC_OP) (hv : v = vecOf j.f.desc) (hfn : v.func = fn)
    (h : (v.bad || (v.func == fnCURVE && (s.vecStore j v).isNone)) = true ∨ (!s.jBounds j (v.regions j)) = true) : s.StopsJob j i :=
  stopsJob_of_engineCmd hc hw hexec hj (Bool.and_eq_true_iff.2 ⟨beq_iff_eq.2 hop, beq_iff_eq.2 (hv ▸ hfn)⟩) rfl
    (fun hf => .vecJob hf hv h)

end

/-- A reserved FUNC is no field block that R191 admits. -/
theorem VecD.bad_of_reserved {v : VecD} (h : fnCURVE_LOAD < v.func) : v.bad = true := by
  simp [VecD.bad, h]

/-- Settles O30: what an engine's checks stop goes to `stopJob`, which writes no byte. -/
theorem checksStopDescriptorsBeforeTheyWrite : Obligations.ChecksStopDescriptorsBeforeTheyWrite := by
  unfold Obligations.ChecksStopDescriptorsBeforeTheyWrite
  intro i c a e op stops j s hc ha hw hj hop hstops hmem
  change s.StopsJob j i
  simp only [List.mem_cons, List.not_mem_nil, or_false, Prod.mk.injEq] at hmem
  rcases hmem with ⟨rfl, rfl, rfl, rfl⟩ | ⟨rfl, rfl, rfl, rfl⟩ | ⟨rfl, rfl, rfl, rfl⟩ | ⟨rfl, rfl, rfl, rfl⟩ | ⟨rfl, rfl, rfl, rfl⟩ |
    ⟨rfl, rfl, rfl, rfl⟩ | ⟨rfl, rfl, rfl, rfl⟩ | ⟨rfl, rfl, rfl, rfl⟩ | ⟨rfl, rfl, rfl, rfl⟩
  · exact arrayCommand_stopsJob hc hw ha rfl hj hop hstops
  · exact arrayCommand_stopsJob hc hw ha rfl hj hop hstops
  · exact arrayCommand_stopsJob hc hw ha rfl hj hop hstops
  · exact stopsJob_of_engineCmd hc hw (.refl (execMvpMatvec c s)) hj (beq_iff_eq.2 hop) rfl (fun hf => .mvpJob hf hstops)
  · have hfunc : fnCURVE_LOAD < (vecOf j.f.desc).func := of_decide_eq_true hstops
    refine stopsJob_of_engineCmd hc hw (.refl (execAdd c s)) hj ?_ rfl
      (fun hf => .vecJob hf rfl (.inl (by rw [VecD.bad_of_reserved hfunc]; rfl)))
    rw [hop, decide_eq_true hfunc, Bool.or_true]
    rfl
  · obtain ⟨hfn, hbad⟩ := Bool.and_eq_true_iff.1 hstops
    refine vecCommand_stopsJob hc hw (i := .mul c) rfl hj hop rfl (beq_iff_eq.1 hfn) ?_
    exact (Bool.or_eq_true_iff.1 hbad).imp_left (fun h => by rw [h]; rfl)
  · obtain ⟨hfn, hnone⟩ := Bool.and_eq_true_iff.1 hstops
    refine vecCommand_stopsJob hc hw (i := .curve c) rfl hj hop rfl (beq_iff_eq.1 hfn) (.inl ?_)
    rw [hfn, hnone, Bool.and_true, Bool.or_true]
  · exact stopsJob_of_engineCmd hc hw (.refl (execQntConvert c s)) hj (beq_iff_eq.2 hop) rfl (fun hf => .qntJob hf rfl hstops)
  · exact stopsJob_of_engineCmd hc hw (.refl (execWinFeed c s)) hj (beq_iff_eq.2 hop) rfl (fun hf => .feedJob hf (by simpa using hstops))

end Sys2Proof.Machine
end

section
/-! SUPPORT. The lockstep group of a core, and what changes of flights leave of a descriptor; the group sequencer's checks: O26. -/

namespace Sys2Proof.Machine

/-! ### Steps over a list -/

/-- What no step of a run over a list changes, the run does not change. -/
theorem State.foldl_keeps {α β : Type} {f : State → α → State} {π : State → β} (h : ∀ s a, π (f s a) = π s)
    {l : List α} {s : State} : π (l.foldl f s) = π s :=
  List.foldlRecOn (motive := fun t => π t = π s) l f rfl (fun t ht a _ => (h t a).trans ht)

/-- What the step of one element brings about, and every step keeps, holds after a run over a list with that element. -/
theorem State.foldl_reaches {α : Type} {f : State → α → State} {P : State → Prop} {x : α} (hdo : ∀ s, P (f s x))
    (hkeep : ∀ s a, P s → P (f s a)) {l : List α} (hx : x ∈ l) {s : State} : P (l.foldl f s) := by
  obtain ⟨before, after, rfl⟩ := List.append_of_mem hx
  rw [List.foldl_append, List.foldl_cons]
  exact List.foldlRecOn (motive := P) after f (hdo _) (fun t ht a _ => hkeep t a ht)

/-! ### The group in progress on a core -/

theorem State.groupOf_of_cores_eq {s t : State} (h : t.cores = s.cores) (c : Nat) : t.groupOf c = s.groupOf c := by
  simp only [State.groupOf, State.coreAt, h]

theorem State.groupOf_modCore_self {s : State} {c : Nat} (h : c < s.cores.length) (f : CoreState → CoreState) :
    (s.modCore c f).groupOf c = (f (s.coreAt c)).group := by
  rw [State.groupOf, State.coreAt_modCore, if_pos ⟨rfl, h⟩]

/-- Only a core of the part has a group. -/
theorem State.lt_of_groupOf {s : State} {c : Nat} {g : Group} (h : s.groupOf c = some g) : c < s.cores.length := by
  refine Nat.lt_of_not_le (fun hc => ?_)
  have hempty : s.coreAt c = CoreState.empty := by
    rw [State.coreAt, List.getD_eq_getElem?_getD, List.getElem?_eq_none hc, Option.getD_none]
  rw [State.groupOf, hempty] at h
  exact absurd h nofun

theorem State.groupOf_modGroup_self {s : State} {c : Nat} {g : Group} (h : s.groupOf c = some g) (f : Group → Group) :
    (s.modGroup c f).groupOf c = some (f g) := by
  rw [State.modGroup, State.groupOf_modCore_self (State.lt_of_groupOf h)]
  exact congrArg (Option.map f) h

/-! ### Changes of flights -/

/-- A change of some descriptor that keeps names keeps what it keeps of each. -/
theorem flightHas.modFlight {s : State} {r r' : DescRef} {p : Flight → Prop} (h : flightHas s r p) {g : Flight → Flight}
    (href : ∀ f, (g f).ref = f.ref) (hg : ∀ f, p f → p (g f)) : flightHas (s.modFlight r' g) r p := by
  intro x hx hr
  obtain ⟨f, hf, rfl⟩ := List.mem_map.1 hx
  split at hr
  · next he => rw [if_pos he]; exact hg f (h f hf ((href f).symm.trans hr))
  · next he => rw [if_neg he]; exact h f hf hr

/-- A report attributed to some descriptor leaves of each all but the class and source of its record. -/
theorem flightHas.reportFor {s : State} {r r' : DescRef} {p : Flight → Prop} (h : flightHas s r p) {src cls : Nat} {inj : Bool}
    (hp : ∀ f c x, p f → p { f with fclass := c, fsource := x }) : flightHas (s.reportFor r' src cls inj) r p := by
  unfold State.reportFor
  split
  · exact h
  · exact flightHas.modFlight (h.of_drover rfl) (fun _ => rfl) (fun f => hp f _ _)

@[simp] theorem State.regs_reportFor (s : State) (r : DescRef) (src cls : Nat) (inj : Bool) :
    (s.reportFor r src cls inj).regs = s.regs := by
  unfold State.reportFor
  split <;> rfl

@[simp] theorem State.cores_reportFor (s : State) (r : DescRef) (src cls : Nat) (inj : Bool) :
    (s.reportFor r src cls inj).cores = s.cores := by
  unfold State.reportFor
  split <;> rfl

/-! ### Statuses that withhold -/

/-- The statuses before BUDGET_EXPIRED in the order of R242 do not deliver (R241), and none that precedes one of them does. -/
theorem worse_withholds {st : Nat} (h : statusRank st < statusRank stBudgetExpired) (x : Nat) : delivers (worse x st) = false := by
  have hrank {y : Nat} (hy : statusRank y < statusRank stBudgetExpired) : delivers y = false := by
    refine Bool.eq_false_iff.2 (fun hd => ?_)
    simp only [delivers, Bool.or_eq_true, beq_iff_eq, or_assoc] at hd
    rcases hd with rfl | rfl | rfl | rfl <;> exact absurd hy (by decide)
  unfold worse
  split
  · next hle => exact hrank (Nat.lt_of_le_of_lt hle h)
  · exact hrank h

/-! ### A rejected group (R105, R165) -/

/-- A field of another register copy than the one stored. -/
theorem State.fbit_rset_ne (s : State) {r : Reg} (w : Word) {f : Field} {i j k l i' j' k' l' : Nat}
    (h : f.reg.addr i' j' k' l' ≠ r.addr i j k l) : (s.rset r w i j k l).fbit f i' j' k' l' = s.fbit f i' j' k' l' := by
  simp only [State.fbit, State.fget, State.rword_rset_ne s w h]

/-- What WIN records of a rejection that R165 causes. -/
def State.winRejected (s : State) (c : Nat) (w : Nat × Nat) : State :=
  let s := s.fset WIN_STATUS_REJECT_SEEN 1 c
  if s.fbit WIN_LAST_REJECT_VALID c then s else s.rset WIN_LAST_REJECT (BitVec.ofNat 64 (w.1 + w.2 * 2 ^ 16 + 2 ^ 63)) c

/-- The registers of a core that show a rejection. -/
def State.rejectShown (s : State) (c : Nat) (why : Option (Nat × Nat)) : State :=
  why.elim (s.fset CORE_LOCK_STATUS_REJECT_SEEN 1 c) ((s.fset CORE_LOCK_STATUS_REJECT_SEEN 1 c).winRejected c)

/-- A member of a rejected group ends. -/
def State.endMember (s : State) (f : Flight) : State := s.endFlight f.ref stContainedFault

/-- The members of a rejected group end, one after the other. -/
def State.endMembers (s : State) (l : List Flight) : State := l.foldl State.endMember s

theorem State.rejectGroup_eq (s : State) (c : Nat) (o : Flight) (l : List Flight) (why : Option (Nat × Nat)) :
    s.rejectGroup c o l why =
      ((s.rejectShown c why).endFault o.ref stContainedFault (coreSrc c 0x10)).endMembers (l.filter (fun f => !f.completed)) := by
  cases why <;> rfl

section
variable (s : State) (c : Nat)

theorem State.rejectShown_frame (why : Option (Nat × Nat)) :
    (s.rejectShown c why).drover = s.drover ∧ (s.rejectShown c why).mem = s.mem := by
  cases why with
  | none => exact ⟨rfl, rfl⟩
  | some w =>
    simp only [State.rejectShown, Option.elim_some, State.winRejected]
    split <;> exact ⟨rfl, rfl⟩

theorem State.rejectShown_rejectSeen (why : Option (Nat × Nat)) :
    (s.rejectShown c why).fbit CORE_LOCK_STATUS_REJECT_SEEN c = true := by
  have hseen : (s.fset CORE_LOCK_STATUS_REJECT_SEEN 1 c).fbit CORE_LOCK_STATUS_REJECT_SEEN c = true :=
    State.fbit_fset_one _ _ _ _ _ (by decide) rfl
  cases why with
  | none => exact hseen
  | some w =>
    have hwin : CORE_LOCK_STATUS.addr c 0 0 0 ≠ WIN_STATUS.addr c 0 0 0 ∧
        CORE_LOCK_STATUS.addr c 0 0 0 ≠ WIN_LAST_REJECT.addr c 0 0 0 := by
      simp only [Reg.addr, CORE_LOCK_STATUS, WIN_STATUS, WIN_LAST_REJECT]
      omega
    have hstatus := (State.fbit_fset_ne (f := WIN_STATUS_REJECT_SEEN) (g := CORE_LOCK_STATUS_REJECT_SEEN)
      (s.fset CORE_LOCK_STATUS_REJECT_SEEN 1 c) 1 hwin.1).trans hseen
    simp only [State.rejectShown, Option.elim_some, State.winRejected]
    split
    · exact hstatus
    · exact (State.fbit_rset_ne _ _ hwin.2).trans hstatus

end

section
variable (s : State) (l : List Flight)

theorem State.endMembers_frame : (s.endMembers l).mem = s.mem ∧ (s.endMembers l).regs = s.regs ∧ (s.endMembers l).fcu = s.fcu :=
  ⟨State.foldl_keeps (f := State.endMember) (π := State.mem) (fun _ _ => rfl),
    State.foldl_keeps (f := State.endMember) (π := State.regs) (fun _ _ => rfl),
    State.foldl_keeps (f := State.endMember) (π := State.fcu) (fun _ _ => rfl)⟩

theorem flightHas.endMembers {s : State} {r : DescRef} {p : Flight → Prop} (h : flightHas s r p)
    (hp : ∀ f, p f → p { f with stage := .ended, status := worse f.status stContainedFault }) : flightHas (s.endMembers l) r p :=
  List.foldlRecOn (motive := fun t => flightHas t r p) l _ h (fun _ ht _ _ => ht.modFlight (fun _ => rfl) hp)

theorem State.endMembers_completed {f : Flight} (hf : f ∈ l) : flightHas (s.endMembers l) f.ref (fun g => g.completed = true) :=
  State.foldl_reaches (f := State.endMember) (P := fun t => flightHas t f.ref (fun g => g.completed = true))
    (fun t => t.flightHas_modFlight _ (fun _ => rfl)) (fun _ _ h => h.modFlight (fun _ => rfl) (fun _ _ => rfl)) hf

end

/-- The followers of an opener are told by their names. -/
theorem State.mem_followers_of_ref {s : State} {o f g : Flight} (hf : f ∈ s.followers o) (hg : g ∈ s.drover.flights)
    (h : g.ref = f.ref) : g ∈ s.followers o := by
  obtain ⟨hq, hi, hp⟩ := (DescRef.mk.injEq ..).mp h
  simpa only [State.followers, List.mem_filter, hg, true_and, hq, hi, hp] using (List.mem_filter.1 hf).2

/-- A descriptor at hand is in flight. -/
theorem State.flight?_of_mem {s : State} {f : Flight} (h : f ∈ s.drover.flights) : (s.flight? f.ref).isSome = true :=
  List.find?_isSome.2 ⟨f, h, beq_self_eq_true _⟩

theorem State.mem_of_opener {s : State} {c : Nat} {o : Flight} (h : s.opener c = some o) : o ∈ s.drover.flights :=
  List.mem_of_find?_eq_some h

/-- The fault with which a descriptor in flight ends, as the collector finds it (R433). -/
theorem State.mem_reports_endFault {s : State} {r : DescRef} (h : (s.flight? r).isSome = true) (st src : Nat) :
    ∃ x ∈ (s.endFault r st src).fcu.reports, x.source = src ∧ x.cls = clsU ∧ x.ref = some r := by
  obtain ⟨f, hf⟩ := Option.isSome_iff_exists.1 h
  rw [State.endFault, State.reportFor, hf]
  exact ⟨_, List.mem_append_right _ (List.mem_singleton.2 rfl), rfl, rfl, rfl⟩

/-- A rejected group: opener and members have completed, and no signal of the opener is delivered (R105). -/
theorem State.rejectGroup_spec {s : State} {c : Nat} {o : Flight} (why : Option (Nat × Nat)) (ho : o ∈ s.drover.flights) {t : State}
    (ht : t = s.rejectGroup c o (s.followers o) why) : t.fbit CORE_LOCK_STATUS_REJECT_SEEN c = true ∧
    flightHas t o.ref (fun g => g.stage = .ended ∧ delivers g.status = false) ∧
    (∀ f ∈ s.followers o, flightHas t f.ref (fun g => g.completed = true)) ∧
    (∃ r ∈ t.fcu.reports, r.source = coreSrc c 0x10 ∧ r.cls = clsU ∧ r.ref = some o.ref) ∧ t.mem = s.mem := by
  rw [State.rejectGroup_eq] at ht
  obtain ⟨hdrover, hmem⟩ := s.rejectShown_frame c why
  have hseen := s.rejectShown_rejectSeen c why
  generalize s.rejectShown c why = v at *
  generalize hl : (s.followers o).filter (fun f => !f.completed) = l at *
  obtain ⟨hmem', hregs, hfcu⟩ := (v.endFault o.ref stContainedFault (coreSrc c 0x10)).endMembers_frame l
  subst ht
  refine ⟨?_, ?_, fun f hf => ?_, ?_, ?_⟩
  · exact (State.fbit_of_fget_eq (State.fget_of_regs_eq (hregs.trans (State.regs_reportFor ..)) ..)).trans hseen
  · exact flightHas.endMembers l (State.flightHas_modFlight _ _ (fun f => ⟨rfl, worse_withholds (by decide) _⟩))
      (fun f _ => ⟨rfl, worse_withholds (by decide) _⟩)
  · by_cases hopen : ∃ g ∈ l, g.ref = f.ref
    · obtain ⟨g, hg, hr⟩ := hopen
      exact hr ▸ State.endMembers_completed _ l hg
    · have hdone : flightHas v f.ref (fun g => g.completed = true) := by
        intro g hg hr
        have hg' : g ∈ s.drover.flights := hdrover ▸ hg
        cases hc : g.completed with
        | true => rfl
        | false => exact absurd ⟨g, hl ▸ List.mem_filter.2 ⟨State.mem_followers_of_ref hf hg' hr, by rw [hc]; rfl⟩, hr⟩ hopen
      exact flightHas.endMembers l ((hdone.reportFor (fun _ _ _ => id)).modFlight (fun _ => rfl) (fun _ _ => rfl)) (fun _ _ => rfl)
  · rw [hfcu]
    exact State.mem_reports_endFault (by rw [State.flight?, hdrover]; exact State.flight?_of_mem ho) _ _
  · exact hmem'.trans ((State.mem_reportFor ..).trans hmem)

/-! ### GROUP_OPEN -/

/-- GROUP_OPEN with an opener at hand whose members have been fetched (R105). -/
theorem exec_groupOpen {s : State} {c : Nat} {o : Flight} (hc : c < 8) (hw : s.coreWorks c = true) (ho : s.opener c = some o)
    (hfetched : s.membersFetched o = true) (hopened : s.groupOpened c o = false) :
    exec (.groupOpen c) s = .next (s.openGroup c o) := by
  change execGroupOpen c s = _
  rw [execGroupOpen, unit_of_true (decide_eq_true hc), ho]
  exact due_of_true (by rw [hw, hfetched, hopened]; rfl) _ _

/-- A group as its opener and members give it, waiting for its start. -/
def State.waitingGroup (s : State) (o : Flight) : Group :=
  { opener := o.ref, length := goLength o.desc, started := false, members := (s.followers o).map memberOf }

theorem State.openGroup_of_good {s : State} {c : Nat} {o : Flight} (hb : s.groupBad c o (s.followers o) = false)
    (hr : s.feedReject c (s.followers o) = none) :
    s.openGroup c o = s.modCore c (fun k => { k with group := some (s.waitingGroup o) }) := by
  simp only [State.openGroup, hb, hr, Bool.false_eq_true, if_false, State.waitingGroup]

theorem State.openGroup_of_bad {s : State} {c : Nat} {o : Flight}
    (h : s.groupBad c o (s.followers o) = true ∨ (s.feedReject c (s.followers o)).isSome = true) :
    ∃ why, s.openGroup c o = s.rejectGroup c o (s.followers o) why := by
  unfold State.openGroup
  dsimp only
  split
  · exact ⟨none, rfl⟩
  · next hb =>
    obtain ⟨w, hw⟩ := Option.isSome_iff_exists.1 (h.resolve_left hb)
    exact ⟨some w, by rw [hw]⟩

/-- Settles O26: a group that passes waits in its core, any other goes to `rejectGroup`. -/
theorem groupsAreCheckedAndOpened : Obligations.GroupsAreCheckedAndOpened := by
  unfold Obligations.GroupsAreCheckedAndOpened
  intro c o s hc hcore hw ho hfetched hopened
  have hexec := exec_groupOpen hc hw ho hfetched hopened
  refine ⟨fun hb hr => ?_, fun h => ?_⟩
  · rw [State.openGroup_of_good hb hr] at hexec
    exact ⟨_, hexec, State.groupOf_modCore_self hcore _, rfl, .refl _ _, .of_mem_eq rfl _⟩
  · obtain ⟨why, hopen⟩ := State.openGroup_of_bad h
    obtain ⟨hseen, hopener, hmembers, hreport, hmem⟩ := State.rejectGroup_spec why (State.mem_of_opener ho) rfl
    exact ⟨_, hopen ▸ hexec, hseen, hopener, hmembers, hreport, .of_mem_eq hmem _⟩

end Sys2Proof.Machine
end

section
/-! SUPPORT. The start of a lockstep group and of its members (R106, R107, R112, R118, R120). -/

namespace Sys2Proof.Machine

/-! ### GROUP_START -/

/-- The count of ARR cycles is the clock unit's, from the core's step and the time. -/
theorem State.arrNow_congr {s t : State} {c : Nat} (hclk : t.clk = s.clk) (htick : t.refTick = s.refTick)
    (hstep : t.fget CLK_CORE_STEP_STEP = s.fget CLK_CORE_STEP_STEP) : t.arrNow c = s.arrNow c := by
  simp only [State.arrNow, State.arrAt, State.coreStep, hclk, htick, hstep]

/-- Group cycle 0 as it stands before the group's own state shows it: stamps cleared, IN_GROUP set, the opener running. -/
def State.groupEntered (s : State) (c : Nat) (o : Flight) : State :=
  ((s.latchWaits.clearStamps c).fset CORE_LOCK_STATUS_IN_GROUP 1 c).modFlight o.ref (fun f => { f with stage := .running })

section
variable (s : State) (c : Nat) (o : Flight)

theorem State.groupEntered_regsKept : regsKept s (s.groupEntered c o) (anyOf [CORE_LOCK_STATUS.addr c 0 0 0]) :=
  (((regsKept.refl s _).of_regs_eq (u := s.latchWaits.clearStamps c) rfl).fset (f := CORE_LOCK_STATUS_IN_GROUP) 1
    (anyOf_of_mem (List.mem_singleton.2 rfl))).of_regs_eq rfl

theorem State.groupEntered_running : flightHas (s.groupEntered c o) o.ref (fun f => f.stage = .running) :=
  State.flightHas_modFlight _ _ (fun _ => rfl)

theorem State.groupEntered_arrNow : (s.groupEntered c o).arrNow c = s.arrNow c :=
  State.arrNow_congr rfl rfl ((s.groupEntered_regsKept c o).fget (not_anyOf (by
    simp only [Reg.addr, CLK_CORE_STEP_STEP, CLK_CORE_STEP, CORE_LOCK_STATUS, List.mem_singleton]
    omega)))

theorem State.groupEntered_groups : (s.groupEntered c o).fget CORE_LOCK_GROUPS_COUNT c = s.fget CORE_LOCK_GROUPS_COUNT c :=
  (s.groupEntered_regsKept c o).fget (not_anyOf (by
    simp only [Reg.addr, CORE_LOCK_GROUPS_COUNT, CORE_LOCK_GROUPS, CORE_LOCK_STATUS, List.mem_singleton]
    omega))

end

/-- The group of an opener that has been checked. -/
theorem State.groupOf_of_groupOpened {s : State} {c : Nat} {o : Flight} (h : s.groupOpened c o = true) : ∃ g, s.groupOf c = some g := by
  cases hg : s.groupOf c with
  | none => rw [State.groupOpened, hg] at h; exact absurd h nofun
  | some g => exact ⟨g, rfl⟩

/-- GROUP_START with every condition of R106 holding. -/
theorem groupStart_spec {s : State} {c : Nat} {o : Flight} (hc : c < 8) (hw : s.coreWorks c = true) (ho : s.opener c = some o)
    (hopened : s.groupOpened c o = true) (hready : s.groupReady c o (s.followers o) = true) : ∃ t g, exec (.groupStart c) s = .next t ∧
    s.groupOf c = some g ∧
    t.groupOf c = some { g with started := true, since := s.arrNow c, seed := s.fget CORE_LOCK_GROUPS_COUNT c } ∧
    t.fbit CORE_LOCK_STATUS_IN_GROUP c = true ∧ flightHas t o.ref (fun f => f.stage = .running) ∧
    (∀ e ∈ t.stamps, (spOf e.1).1 ≠ c) ∧ regsKept s t (anyOf [CORE_LOCK_STATUS.addr c 0 0 0]) ∧ memKept s t nowhere := by
  obtain ⟨g, hg⟩ := State.groupOf_of_groupOpened hopened
  have hexec : exec (.groupStart c) s = .next (s.startGroup c o) := by
    change execGroupStart c s = _
    rw [execGroupStart, unit_of_true (decide_eq_true hc), ho]
    exact due_of_true (by rw [hw, hopened, hready]; rfl) _ _
  have hgroup : (s.startGroup c o).groupOf c =
      some { g with started := true, since := s.arrNow c, seed := s.fget CORE_LOCK_GROUPS_COUNT c } := by
    rw [← s.groupEntered_arrNow c o, ← s.groupEntered_groups c o]
    exact State.groupOf_modGroup_self (s := s.groupEntered c o) ((State.groupOf_of_cores_eq (s := s) rfl c).trans hg) _
  exact ⟨_, g, hexec, hg, hgroup, State.fbit_fset_one _ _ _ _ _ (by decide) rfl, (s.groupEntered_running c o).of_drover rfl,
    fun e he => of_decide_eq_true (List.mem_filter.1 he).2, (s.groupEntered_regsKept c o).of_regs_eq rfl, .of_mem_eq rfl _⟩

/-! ### MEMBER_START -/

section
variable (s : State) (c : Nat) (g : Group) (m : Member)

/-- A core's group once a member has started: STARTED and its slips are the member's, and what was expected of it is no longer so. -/
def State.memberEntered : State :=
  let x := s.slips c g m
  (s.modMember c m.ref (fun m => { m with started := true, slipAt := x.1, slip := x.2 })).modGroup c (fun g => { g with
    ahead := g.ahead.filter (fun w => w.ref != m.ref), aheadLinks := g.aheadLinks.map (fun l => l.filter (fun w => w.ref != m.ref)) })

/-- The member named has started. -/
def Group.hasStarted (g : Group) (r : DescRef) : Prop := ∀ x ∈ g.members, x.ref = r → x.started = true

theorem State.memberEntered_groupOf (h : s.groupOf c = some g) :
    ∃ g', (s.memberEntered c g m).groupOf c = some g' ∧ g'.hasStarted m.ref := by
  refine ⟨_, State.groupOf_modGroup_self (State.groupOf_modGroup_self h _) _, ?_⟩
  intro x hx hr
  obtain ⟨y, -, rfl⟩ := List.mem_map.1 hx
  split
  · rfl
  · next hy => rw [if_neg hy] at hr; exact absurd hr hy

/-- A free engine runs the member. -/
theorem State.launchMember_of_free {f : Flight} (hf : s.flight? m.ref = some f) (hd : f.completed = false)
    (hb : engineBusy g m = false) :
    s.launchMember c g m = (s.memberEntered c g m).modFlight m.ref (fun f => { f with stage := .running }) := by
  have hf' : (s.memberEntered c g m).flight? m.ref = some f := hf
  unfold State.launchMember
  dsimp only
  rw [← State.memberEntered, hf']
  simp only [hd, hb, Bool.false_eq_true, if_false]

/-- A busy engine's member ends without having run (R107). -/
theorem State.launchMember_of_busy {f : Flight} (hf : s.flight? m.ref = some f) (hd : f.completed = false)
    (hb : engineBusy g m = true) : s.launchMember c g m =
      (((s.memberEntered c g m).skew c m.ref f.desc m.offset).endFlight m.ref stTimingSkew).countSkew c m.ref := by
  have hf' : (s.memberEntered c g m).flight? m.ref = some f := hf
  unfold State.launchMember
  dsimp only
  rw [← State.memberEntered, hf']
  simp only [hd, hb, Bool.false_eq_true, if_false, if_true]

/-- What later members will do goes into the group's expectations alone. -/
theorem State.foresee_frame (r : DescRef) : (s.foresee c r).drover = s.drover ∧ (s.foresee c r).regs = s.regs ∧
    (s.foresee c r).mem = s.mem := by
  unfold State.foresee
  split <;> exact ⟨rfl, rfl, rfl⟩

theorem State.foresee_groupOf (r : DescRef) {g : Group} (h : s.groupOf c = some g) :
    ∃ g', (s.foresee c r).groupOf c = some g' ∧ g'.members = g.members := by
  unfold State.foresee
  split
  · exact ⟨g, h, rfl⟩
  · exact ⟨_, State.groupOf_modGroup_self h _, rfl⟩

end

/-- VALID is bit 63 of the record of a TIMING_SKEW (R125). -/
theorem firstSkew_valid (d cycle : Nat) :
    bits (BitVec.ofNat 64 (dTag d + cycle % 2 ^ 32 * 2 ^ 16 + dEngine d * 2 ^ 48 + 2 ^ 63)).toNat 63 1 = 1 := by
  have htag : dTag d < 2 ^ 16 := Nat.mod_lt _ (by decide)
  have hengine : dEngine d < 2 ^ 5 := Nat.mod_lt _ (by decide)
  rw [bits, BitVec.toNat_ofNat, Nat.shiftRight_eq_div_pow]
  omega

/-- A cause of TIMING_SKEW leaves a record (R125). -/
theorem State.skew_firstSkew (s : State) (c : Nat) (r : DescRef) (d cycle : Nat) :
    (s.skew c r d cycle).fbit CORE_LOCK_FIRST_SKEW_VALID c = true := by
  unfold State.skew
  extract_lets u known v
  split
  · next h => exact (Bool.and_eq_true_iff.1 h).1
  · rw [State.fbit_eq_true, State.fget, show CORE_LOCK_FIRST_SKEW_VALID.reg = CORE_LOCK_FIRST_SKEW from rfl, State.rword_rset_self]
    exact firstSkew_valid d cycle

theorem State.mem_skew (s : State) (c : Nat) (r : DescRef) (d cycle : Nat) : (s.skew c r d cycle).mem = s.mem := by
  unfold State.skew
  extract_lets u known v
  split <;> rfl

theorem State.countSkew_firstSkew (s : State) (c : Nat) (r : DescRef) :
    (s.countSkew c r).fbit CORE_LOCK_FIRST_SKEW_VALID c = s.fbit CORE_LOCK_FIRST_SKEW_VALID c := by
  unfold State.countSkew
  split
  · rw [State.fbit_fset_ne _ _ (by
        simp only [Reg.addr, CORE_LOCK_FIRST_SKEW_VALID, CORE_LOCK_STATUS_SKEW_SEEN, CORE_LOCK_FIRST_SKEW, CORE_LOCK_STATUS]; omega),
      State.fbit_fadd_ne _ _ (by
        simp only [Reg.addr, CORE_LOCK_FIRST_SKEW_VALID, CORE_LOCK_SKEWS_COUNT, CORE_LOCK_FIRST_SKEW, CORE_LOCK_SKEWS]; omega)]
  · rfl

section
variable {s : State} {c : Nat} {g : Group} {m : Member} {f : Flight}

/-- MEMBER_START once the member before it has run (R107). -/
theorem exec_memberStart (hc : c < 8) (hw : s.coreWorks c = true) (hg : s.groupOf c = some g) (hm : nextMember g.members = some m)
    (hs : g.started = true) (hr : (s.memberFlights g).all (fun f => f.stage != .running) = true) :
    exec (.memberStart c) s = .next (s.startMember c g m) := by
  have hidle : (s.memberFlights g).any (fun f => f.stage == .running) = false := by
    rw [List.any_eq_not_all_not, Bool.not_eq_false', ← hr]
    rfl
  change execMemberStart c s = _
  rw [execMemberStart, unit_of_true (decide_eq_true hc), hg]
  dsimp only
  rw [hm]
  exact due_of_true (by rw [hw, hs, hidle]; rfl) _ _

/-- A member whose engine is free has started and runs (R107). -/
theorem State.startMember_of_free (hg : s.groupOf c = some g) (hf : s.flight? m.ref = some f) (hd : f.completed = false)
    (hb : engineBusy g m = false) : ∃ g', (s.startMember c g m).groupOf c = some g' ∧ g'.hasStarted m.ref ∧
    flightHas (s.startMember c g m) m.ref (fun f => f.stage = .running) ∧ (s.startMember c g m).mem = s.mem := by
  obtain ⟨g₁, hg₁, hstarted⟩ := s.memberEntered_groupOf c g m hg
  rw [State.startMember, State.launchMember_of_free s c g m hf hd hb]
  generalize hu : (s.memberEntered c g m).modFlight m.ref (fun f => { f with stage := .running }) = u
  have hrun : flightHas u m.ref (fun f => f.stage = .running) := hu ▸ State.flightHas_modFlight _ _ (fun _ => rfl)
  have hg₂ : u.groupOf c = some g₁ := hu ▸ hg₁
  obtain ⟨hdrover, -, hmem⟩ := u.foresee_frame c m.ref
  obtain ⟨g', hg', hmembers⟩ := u.foresee_groupOf c m.ref hg₂
  refine ⟨g', hg', ?_, hrun.of_drover hdrover, hmem.trans (hu ▸ rfl)⟩
  rwa [Group.hasStarted, hmembers]

/-- A member whose engine is still busy does not run: it ends with TIMING_SKEW, and a record tells of one (R107, R120). -/
theorem State.startMember_of_busy (hf : s.flight? m.ref = some f) (hd : f.completed = false) (hb : engineBusy g m = true) :
    flightHas (s.startMember c g m) m.ref (fun f => f.stage = .ended ∧ delivers f.status = false) ∧
    (s.startMember c g m).fbit CORE_LOCK_FIRST_SKEW_VALID c = true ∧ (s.startMember c g m).mem = s.mem := by
  rw [State.startMember, State.launchMember_of_busy s c g m hf hd hb]
  generalize hv : (s.memberEntered c g m).skew c m.ref f.desc m.offset = v
  generalize hu : (v.endFlight m.ref stTimingSkew).countSkew c m.ref = u
  obtain ⟨hdrover, hregs, hmem⟩ := u.foresee_frame c m.ref
  refine ⟨flightHas.of_drover ?_ hdrover, ?_, ?_⟩
  · rw [← hu]
    exact (State.flightHas_modFlight _ _ (fun f => ⟨rfl, worse_withholds (by decide) _⟩)).of_drover (State.drover_countSkew ..)
  · rw [State.fbit_of_fget_eq (State.fget_of_regs_eq hregs ..), ← hu, State.countSkew_firstSkew]
    exact hv ▸ State.skew_firstSkew ..
  · rw [hmem, ← hu, State.mem_countSkew]
    exact hv ▸ State.mem_skew ..

end

end Sys2Proof.Machine
end

section
/-! SUPPORT. The end of a lockstep group: what completing descriptors leaves (R109, R232 to R236), and O27. -/

namespace Sys2Proof.Machine

/-! ### Descriptors that complete -/

/-- What completing descriptors leaves of a flight `f`: name, work and status, and a completion that was there. -/
structure Flight.Became (f g : Flight) : Prop where
  ref : g.ref = f.ref
  desc : g.desc = f.desc
  member : g.member = f.member
  status : g.status = f.status
  done : f.stage = .done → g.stage = .done

/-- The tally ranges of the caravans in flight, by ring slot (R231). -/
def State.tallyRanges (s : State) : List ((Nat × Nat) × (Nat × Nat)) :=
  s.drover.caravans.map (fun k => ((k.queue, k.index), (k.tallyBase, k.tallyCount)))

/-- Every tally that a descriptor in flight signals is one of the part's (R231). -/
def State.TalliesExist (s : State) : Prop := ∀ f ∈ s.drover.flights, ∀ x ∈ s.signalsOf f, x.1 < 65536

/-- `t` has the descriptors of `s`, some of them further on, and their caravans' tally ranges. -/
structure FlightsKept (s t : State) : Prop where
  flights : ∀ g ∈ t.drover.flights, ∃ f ∈ s.drover.flights, f.Became g
  ranges : t.tallyRanges = s.tallyRanges

theorem Flight.Became.refl (f : Flight) : f.Became f := ⟨rfl, rfl, rfl, rfl, id⟩

theorem Flight.Became.trans {f g h : Flight} (hg : f.Became g) (hh : g.Became h) : f.Became h :=
  ⟨hh.ref.trans hg.ref, hh.desc.trans hg.desc, hh.member.trans hg.member, hh.status.trans hg.status, hh.done ∘ hg.done⟩

/-- The tally range of a descriptor, by its caravan's ring slot. -/
theorem State.ownRange_eq (s : State) (f : Flight) : s.ownRange f =
    if f.pos = 0 then none else (s.tallyRanges.find? (fun x => x.1.1 == f.queue && x.1.2 == f.index)).map (·.2) := by
  unfold State.ownRange State.caravanOf State.caravan? State.tallyRanges
  rw [List.find?_map, Option.map_map]
  rfl

/-- What a descriptor signals depends on its name and its work. -/
theorem State.signalsOf_became {s t : State} {f g : Flight} (h : f.Became g) (hr : t.tallyRanges = s.tallyRanges) :
    t.signalsOf g = s.signalsOf f := by
  obtain ⟨hq, hi, hp⟩ := (DescRef.mk.injEq ..).mp h.ref
  have hown : t.ownRange g = s.ownRange f := by rw [State.ownRange_eq, State.ownRange_eq, hr, hq, hi, hp]
  simp only [State.signalsOf, h.member, h.desc, hown]

namespace FlightsKept

variable {s t u : State}

theorem of_drover (h : t.drover = s.drover) : FlightsKept s t where
  flights g hg := ⟨g, h ▸ hg, .refl g⟩
  ranges := by rw [State.tallyRanges, h, State.tallyRanges]

theorem trans (h : FlightsKept s t) (h' : FlightsKept t u) : FlightsKept s u where
  flights x hx :=
    have ⟨g, hg, hgx⟩ := h'.flights x hx
    have ⟨f, hf, hfg⟩ := h.flights g hg
    ⟨f, hf, hfg.trans hgx⟩
  ranges := h'.ranges.trans h.ranges

/-- A change of flights, each by itself. -/
theorem map (s : State) {h : Flight → Flight} (hh : ∀ f : Flight, f.Became (h f)) :
    FlightsKept s (s.setFlights (s.drover.flights.map h)) where
  flights _ hg :=
    have ⟨f, hf, he⟩ := List.mem_map.1 hg
    ⟨f, hf, he ▸ hh f⟩
  ranges := rfl

theorem modFlight (s : State) (r : DescRef) {g : Flight → Flight} (hg : ∀ f : Flight, f.Became (g f)) :
    FlightsKept s (s.modFlight r g) :=
  map s (fun f => by
    split
    · exact hg f
    · exact .refl f)

theorem latchWaits (s : State) : FlightsKept s s.latchWaits :=
  map s (fun f => by
    split
    · exact ⟨rfl, rfl, rfl, rfl, id⟩
    · exact .refl f)

theorem modCaravan (s : State) (q idx : Nat) {g : Caravan → Caravan}
    (hg : ∀ k, ((g k).queue, (g k).index, (g k).tallyBase, (g k).tallyCount) = (k.queue, k.index, k.tallyBase, k.tallyCount)) :
    FlightsKept s (s.modCaravan q idx g) where
  flights f hf := ⟨f, hf, .refl f⟩
  ranges := by
    rw [State.tallyRanges, State.tallyRanges]
    refine (List.map_map ..).trans (List.map_congr_left (fun k _ => ?_))
    have hk := hg k
    simp only [Prod.mk.injEq] at hk
    obtain ⟨hq, hi, hb, hn⟩ := hk
    simp only [Function.comp_apply]
    split
    · rw [hq, hi, hb, hn]
    · rfl

theorem reportFor (s : State) (r : DescRef) (src cls : Nat) (inj : Bool) : FlightsKept s (s.reportFor r src cls inj) := by
  unfold State.reportFor
  split
  · exact of_drover rfl
  · refine .trans (of_drover ?_) (modFlight _ r ?_)
    · rfl
    · exact fun _ => ⟨rfl, rfl, rfl, rfl, id⟩

theorem talliesExist (h : FlightsKept s t) (hs : s.TalliesExist) : t.TalliesExist := by
  intro g hg x hx
  obtain ⟨f, hf, hfg⟩ := h.flights g hg
  exact hs f hf x (State.signalsOf_became hfg h.ranges ▸ hx)

/-- What a descriptor's flights have, and keep on their way to completion. -/
theorem flightHas {r : DescRef} {p : Flight → Prop} (h : FlightsKept s t) (hs : flightHas s r p)
    (hp : ∀ f g, f.Became g → p f → p g) : flightHas t r p := by
  intro g hg hr
  obtain ⟨f, hf, hfg⟩ := h.flights g hg
  exact hp f g hfg (hs f hf (hfg.ref.symm.trans hr))

end FlightsKept

/-! ### Signals and completions -/

/-- The registers outside the cores' blocks (R471). -/
def hubRegs : Nat → Prop := fun a => a < 0x0102_0000_0000

theorem not_hubRegs_of_core {r : Reg} (h : 0x0102_0000_0000 ≤ r.base) (i j k l : Nat) : ¬ hubRegs (r.addr i j k l) := by
  unfold hubRegs Reg.addr
  omega

/-- `t` is reached from `s` by completing descriptors: of the cores, their registers and the memories it has what `s` has. -/
structure Completing (s t : State) : Prop where
  kept : FlightsKept s t
  regs : regsKept s t hubRegs
  cores : t.cores = s.cores
  mem : t.mem = s.mem

namespace Completing

variable {s t u : State}

theorem refl (s : State) : Completing s s := ⟨.of_drover rfl, .refl s _, rfl, rfl⟩

theorem trans (h : Completing s t) (h' : Completing t u) : Completing s u :=
  ⟨h.kept.trans h'.kept, h.regs.trans h'.regs, h'.cores.trans h.cores, h'.mem.trans h.mem⟩

theorem fset (s : State) {f : Field} {v i j k l : Nat} (hf : hubRegs (f.reg.addr i j k l)) : Completing s (s.fset f v i j k l) :=
  ⟨.of_drover rfl, (regsKept.refl s _).fset v hf, rfl, rfl⟩

theorem of_kept (h : FlightsKept s t) (hr : t.regs = s.regs) (hc : t.cores = s.cores) (hm : t.mem = s.mem) : Completing s t :=
  ⟨h, (regsKept.refl s _).of_regs_eq hr, hc, hm⟩

/-- A signal of a tally of the part (R232). -/
theorem signal (s : State) {n : Nat} (hn : n < 65536) (inc : Nat) : Completing s (s.signal n inc) := by
  have hcount : hubRegs (TLY_t_COUNT.addr n 0 0 0) := by
    simp only [hubRegs, Reg.addr, TLY_t_COUNT]
    omega
  have hlatch : Completing s s.latchWaits := of_kept (.latchWaits s) rfl rfl rfl
  exact (hlatch.trans (fset (f := TLY_t_COUNT_COUNT) _ hcount)).trans (fset (f := TLY_SIGNALS_COUNT) _ (by unfold hubRegs; decide))

theorem deliver (s : State) {l : List (Nat × Nat)} (hl : ∀ x ∈ l, x.1 < 65536) : Completing s (s.deliver l) :=
  List.foldlRecOn (motive := Completing s) l _ (refl s) (fun t ht x hx => ht.trans (signal t (hl x hx) x.2))

theorem settle (s : State) {f : Flight} (hf : ∀ x ∈ s.signalsOf f, x.1 < 65536) : Completing s (s.settle f) := by
  unfold State.settle
  dsimp only
  split
  · exact deliver s hf
  · split
    · exact refl s
    · exact of_kept ⟨fun g hg => ⟨g, hg, .refl g⟩, rfl⟩ rfl rfl rfl

/-- A descriptor's completion (R235). -/
theorem completeFlight (hs : s.TalliesExist) (r : DescRef) : Completing s (s.completeFlight r) := by
  unfold State.completeFlight
  split
  · exact refl s
  · next f hf =>
    have hsettle : Completing s (s.settle f) := settle s (hs f (List.mem_of_find?_eq_some hf))
    have hdone : Completing (s.settle f) ((s.settle f).modFlight r (fun f => { f with stage := .done })) :=
      of_kept (.modFlight _ _ (fun _ => ⟨rfl, rfl, rfl, rfl, fun _ => rfl⟩)) rfl rfl rfl
    exact (hsettle.trans hdone).trans (of_kept (.modCaravan _ _ _ (fun _ => rfl)) rfl rfl rfl)

end Completing

/-- A descriptor that has completed is done. -/
theorem State.completeFlight_done (s : State) (r : DescRef) : flightHas (s.completeFlight r) r (fun f => f.stage = .done) := by
  unfold State.completeFlight
  split
  · next h => exact fun f hf hr => absurd (beq_iff_eq.2 hr) (List.find?_eq_none.1 h f hf)
  · next f hf => exact State.flightHas_modFlight (s.settle f) r (g := fun f => { f with stage := .done }) (fun _ => rfl)

/-- Descriptors that complete one after the other: each of them is done. -/
theorem State.completeAll_spec {s : State} (hs : s.TalliesExist) (l : List DescRef) :
    Completing s (l.foldl State.completeFlight s) ∧
      ∀ r ∈ l, flightHas (l.foldl State.completeFlight s) r (fun f => f.stage = .done) := by
  induction l generalizing s with
  | nil => exact ⟨.refl s, nofun⟩
  | cons r l ih =>
    have hone := Completing.completeFlight hs r
    obtain ⟨hrest, hdone⟩ := ih (hone.kept.talliesExist hs)
    refine ⟨hone.trans hrest, List.forall_mem_cons.2 ⟨?_, hdone⟩⟩
    exact hrest.kept.flightHas (s.completeFlight_done r) (fun _ _ h => h.done)

/-! ### The group is over (R109, R125) -/

/-- The status of a member that had TIMING_SKEW is its opener's (R109). -/
theorem openerStatus_of_skew {l : List Nat} (h : stTimingSkew ∈ l) : openerStatus l = stTimingSkew := by
  unfold openerStatus
  rw [if_pos (List.contains_iff_mem.2 h)]

section
variable (s : State) (c : Nat)

/-- A group that had started is counted. -/
def State.groupCounted : State := s.fadd CORE_LOCK_GROUPS_COUNT 1 c

/-- The report of a group's first TIMING_SKEW, for its opener, unless a member was out of bounds (R120, R123). -/
def State.skewReported (g : Group) : State :=
  if g.skew.isSome && !g.bound then s.reportFor g.opener (coreSrc c 0x11) clsU else s

theorem State.dropGroup_eq {g : Group} (hg : s.groupOf c = some g) (hs : g.started = true) : s.dropGroup c =
    (((s.groupCounted c).skewReported c g).fset CORE_LOCK_STATUS_IN_GROUP 0 c).modCore c (fun k => { k with group := none }) := by
  rw [State.groupOf] at hg
  unfold State.dropGroup
  rw [hg]
  dsimp only
  rw [if_pos hs]
  rfl

/-- A report is a change of the collector's list and of a descriptor's record. -/
theorem State.skewReported_frame (g : Group) : FlightsKept s (s.skewReported c g) ∧ (s.skewReported c g).regs = s.regs ∧
    (s.skewReported c g).cores = s.cores ∧ (s.skewReported c g).mem = s.mem := by
  unfold State.skewReported
  split
  · exact ⟨.reportFor .., State.regs_reportFor .., State.cores_reportFor .., State.mem_reportFor ..⟩
  · exact ⟨.of_drover rfl, rfl, rfl, rfl⟩

theorem State.dropGroup_spec {g : Group} (hg : s.groupOf c = some g) (hs : g.started = true) :
    (s.dropGroup c).groupOf c = none ∧ (s.dropGroup c).fbit CORE_LOCK_STATUS_IN_GROUP c = false ∧
    (s.dropGroup c).fget CORE_LOCK_GROUPS_COUNT c = (s.fget CORE_LOCK_GROUPS_COUNT c + 1) % 2 ^ 32 ∧
    FlightsKept s (s.dropGroup c) ∧ (s.dropGroup c).mem = s.mem := by
  rw [State.dropGroup_eq s c hg hs]
  obtain ⟨hkept, hregs, hcores, hmem⟩ := (s.groupCounted c).skewReported_frame c g
  refine ⟨?_, State.fbit_fset_zero _ _ _ _ _ (by decide), ?_, ⟨hkept.flights, hkept.ranges⟩, hmem⟩
  · refine State.groupOf_modCore_self ?_ _
    rw [State.cores_fset, hcores]
    exact State.lt_of_groupOf hg
  · refine (State.fget_of_regs_eq (State.regs_modCore ..) ..).trans ?_
    rw [State.fget_fset_ne _ _ (by
        simp only [Reg.addr, CORE_LOCK_GROUPS_COUNT, CORE_LOCK_STATUS_IN_GROUP, CORE_LOCK_GROUPS, CORE_LOCK_STATUS]; omega),
      State.fget_of_regs_eq hregs]
    exact State.fget_fadd_self _ _ _ _ _ _ (by decide)

end

/-- What a descriptor signals does not depend on how it ends. -/
theorem State.TalliesExist.endFlight {s : State} (h : s.TalliesExist) (r : DescRef) (st : Nat) : (s.endFlight r st).TalliesExist := by
  intro g hg
  obtain ⟨f, hf, rfl⟩ := List.mem_map.1 hg
  have hsignals := h f hf
  split <;> exact hsignals

/-- The opener of a group has the status that its members give it (R109). -/
def State.openerEnded (s : State) (g : Group) : State := s.endFlight g.opener (openerStatus ((s.memberFlights g).map (·.status)))

/-- An opener with a TIMING_SKEW member does not deliver (R109, R120). -/
theorem State.openerEnded_withholds {s : State} {g : Group} (h : ∃ f ∈ s.memberFlights g, f.status = stTimingSkew) :
    flightHas (s.openerEnded g) g.opener (fun f => delivers f.status = false) := by
  rw [State.openerEnded, openerStatus_of_skew (List.mem_map.2 h)]
  exact State.flightHas_modFlight _ _ (fun f => worse_withholds (by decide) _)

/-- The end of a group: it is dropped, then its opener and its members complete. -/
theorem State.endGroup_eq (s : State) (c : Nat) (g : Group) : s.endGroup c g =
    (g.opener :: (s.memberFlights g).map Flight.ref).foldl State.completeFlight ((s.openerEnded g).dropGroup c) := by
  rw [List.foldl_cons, List.foldl_map]
  rfl

/-- GROUP_END (R109). -/
theorem groupEnd_spec {s : State} {c : Nat} {g : Group} (hc : c < 8) (hw : s.coreWorks c = true) (hg : s.groupOf c = some g)
    (hs : g.started = true) (hstarted : g.members.all (·.started) = true) (hended : (s.memberFlights g).all (·.completed) = true)
    (htallies : s.TalliesExist) : ∃ t, exec (.groupEnd c) s = .next t ∧ t.groupOf c = none ∧
      t.fbit CORE_LOCK_STATUS_IN_GROUP c = false ∧
      t.fget CORE_LOCK_GROUPS_COUNT c = (s.fget CORE_LOCK_GROUPS_COUNT c + 1) % 2 ^ 32 ∧
      flightHas t g.opener (fun f => f.stage = .done) ∧
      (∀ f ∈ s.memberFlights g, flightHas t f.ref (fun f => f.stage = .done)) ∧
      ((∃ f ∈ s.memberFlights g, f.status = stTimingSkew) → flightHas t g.opener (fun f => delivers f.status = false)) ∧
      memKept s t nowhere := by
  have hexec : exec (.groupEnd c) s = .next (s.endGroup c g) := by
    change execGroupEnd c s = _
    rw [execGroupEnd, unit_of_true (decide_eq_true hc), hg]
    exact due_of_true (by rw [hw, hs, hstarted, hended]; rfl) _ _
  rw [State.endGroup_eq] at hexec
  obtain ⟨hnone, hin, hcount, hkept, hmem⟩ := State.dropGroup_spec (s.openerEnded g) c hg hs
  have hexist : ((s.openerEnded g).dropGroup c).TalliesExist := hkept.talliesExist (htallies.endFlight _ _)
  obtain ⟨hcompl, hdone⟩ := State.completeAll_spec hexist (g.opener :: (s.memberFlights g).map Flight.ref)
  obtain ⟨hopenerDone, hmembersDone⟩ := List.forall_mem_cons.1 hdone
  refine ⟨_, hexec, (State.groupOf_of_cores_eq hcompl.cores c).trans hnone, ?_, ?_, hopenerDone,
    fun f hf => hmembersDone f.ref (List.mem_map_of_mem hf), fun h => ?_, .of_mem_eq (hcompl.mem.trans hmem) _⟩
  · exact (hcompl.regs.fbit (not_hubRegs_of_core (r := CORE_LOCK_STATUS) (by decide) _ _ _ _)).trans hin
  · exact (hcompl.regs.fget (not_hubRegs_of_core (r := CORE_LOCK_GROUPS) (by decide) _ _ _ _)).trans hcount
  · exact (hkept.trans hcompl.kept).flightHas (State.openerEnded_withholds h) (fun _ _ hfg hf => hfg.status ▸ hf)

/-- Settles O27: `groupStart_spec`, the two ways in which `launchMember` goes, and `groupEnd_spec`. -/
theorem groupsStartRunAndEnd : Obligations.GroupsStartRunAndEnd := by
  unfold Obligations.GroupsStartRunAndEnd
  refine ⟨fun c o s => groupStart_spec, fun c g m f s hc hw hg hm hs hr hf hd => ?_, fun c g s => groupEnd_spec⟩
  have hexec := exec_memberStart hc hw hg hm hs hr
  refine ⟨fun hb => ?_, fun hb => ?_⟩
  · obtain ⟨g', hg', hstarted, hrun, hmem⟩ := State.startMember_of_free hg hf hd hb
    exact ⟨_, g', hexec, hg', hstarted, hrun, .of_mem_eq hmem _⟩
  · obtain ⟨hended, hvalid, hmem⟩ := State.startMember_of_busy (c := c) hf hd hb
    exact ⟨_, hexec, hended, hvalid, .of_mem_eq hmem _⟩

end Sys2Proof.Machine
end

section
/-! SUPPORT. What a transfer to a core over its hub link leaves, and O11: the next chain descriptor enters its engine's intake (R146, R238). -/

namespace Sys2Proof.Machine

/-! ### A transfer over a link (R19, R21) -/

/-- The registers that a check of a link's word may write. -/
def linkCheckRegs (l : Nat) : Nat → Prop :=
  anyOf [D2D_Ln_REPLAYS.addr l 0 0 0, D2D_Ln_STATUS.addr l 0 0 0, FCU_INJECT.addr 0 0 0 0]

theorem State.linkCheck_regsKept_check (s : State) (l : Nat) : regsKept s (s.linkCheck l) (linkCheckRegs l) := by
  unfold State.linkCheck
  dsimp only
  split
  · exact .refl s _
  · have hinject := s.injectCheck_regsKept (0x320 + l) clsC none 0 none (W := linkCheckRegs l) (anyOf_of_mem (by simp))
    exact (hinject.fadd (f := D2D_Ln_REPLAYS_COUNT) 1 (.head _)).fset (f := D2D_Ln_STATUS_CRC_SEEN) 1 (.tail _ (.head _))

/-- Bytes sent count (R21). -/
theorem State.linkTx_txBytes (s : State) (l n : Nat) :
    (s.linkTx l n).fget D2D_Ln_TX_B_BYTES_B l = (s.fget D2D_Ln_TX_B_BYTES_B l + n) % 2 ^ 64 := by
  unfold State.linkTx
  split
  · next hn => rw [hn]; exact (Nat.mod_eq_of_lt (s.fget_lt D2D_Ln_TX_B_BYTES_B l 0 0 0)).symm
  · have hcheck : ¬ linkCheckRegs l (D2D_Ln_TX_B_BYTES_B.reg.addr l 0 0 0) := not_anyOf (by
      simp only [Reg.addr, D2D_Ln_TX_B_BYTES_B, D2D_Ln_TX_B, D2D_Ln_REPLAYS, D2D_Ln_STATUS, FCU_INJECT, List.mem_cons,
        List.not_mem_nil, or_false]
      omega)
    rw [State.fget_fadd_self _ _ _ _ _ _ (by decide), (s.linkCheck_regsKept_check l).fget hcheck]
    rfl

/-- Beside its bytes a transfer counts what its check finds. -/
theorem State.linkTx_regsKept_tx (s : State) (l n : Nat) : regsKept s (s.linkTx l n)
    (anyOf [D2D_Ln_TX_B.addr l 0 0 0, D2D_Ln_REPLAYS.addr l 0 0 0, D2D_Ln_STATUS.addr l 0 0 0, FCU_INJECT.addr 0 0 0 0]) := by
  unfold State.linkTx
  split
  · exact .refl s _
  · exact ((s.linkCheck_regsKept_check l).mono (fun _ ha => .tail _ ha)).fadd (f := D2D_Ln_TX_B_BYTES_B) n (.head _)

theorem State.RegsReports.drover {s t : State} (h : s.RegsReports t) : t.drover = s.drover := by
  obtain ⟨r, f, rfl⟩ := h
  rfl

/-! ### DESCRIPTOR_FORWARD -/

/-- A core that works forwards its next descriptor into an intake with a free place (R238). -/
theorem exec_descriptorForward {s : State} {c : Nat} {f : Flight} (hc : c < 8) (hw : s.coreWorks c = true)
    (hf : s.nextForward c = some f) (hfill : s.intakeFill c (dEngine f.desc) < 16) :
    exec (.descriptorForward c) s = .next (((s.markFence f.queue c).linkTx (coreLink c) 64).modFlight f.ref
      (fun g => { g with stage := .intake, latch := s.taskLatch c (s.fget CORE_TASK_CURRENT_TASK c) })) := by
  change execDescriptorForward c s = _
  rw [execDescriptorForward, unit_of_true (decide_eq_true hc), hf]
  exact due_of_true (by rw [hw, decide_eq_true hfill]; rfl) _ _

/-- Settles O11: the descriptor's flight alone changes, and the transfer that carries it counts in the registers of the core's link. -/
theorem descriptorForwardEntersTheIntake : Obligations.DescriptorForwardEntersTheIntake := by
  unfold Obligations.DescriptorForwardEntersTheIntake
  intro c f s hc hw hf hfill
  have hsent := (s.markFence f.queue c).linkTx_regsReports (coreLink c) 64
  refine ⟨_, exec_descriptorForward hc hw hf hfill, ?_, State.linkTx_txBytes (s.markFence f.queue c) _ _,
    State.linkTx_regsKept_tx (s.markFence f.queue c) _ _, .of_mem_eq hsent.mem _⟩
  have hflights : ((s.markFence f.queue c).linkTx (coreLink c) 64).drover.flights =
      (s.markFence f.queue c).drover.flights :=
    congrArg Drover.flights hsent.drover
  exact congrArg (List.map _) hflights

end Sys2Proof.Machine
end

section
/-! SUPPORT. What discards leave (R150), and what bank reads, bank writes and drains leave of the cores' own state: all but the words that
wait for a write-back (R139). -/

namespace Sys2Proof.Machine

/-! ### Discards (R150) -/

@[simp] theorem State.fuses_reportFor (s : State) (r : DescRef) (src cls : Nat) (inj : Bool) :
    (s.reportFor r src cls inj).fuses = s.fuses := by
  unfold State.reportFor
  split <;> rfl

/-- `t` is reached from `s` by discards on core `c`: writes that are counted and reported, and reach no memory. -/
structure Discards (c : Nat) (s t : State) : Prop where
  mem : t.mem = s.mem
  cores : t.cores = s.cores
  fuses : t.fuses = s.fuses
  regs : regsKept s t (anyOf [SP_ZERO_DISCARDS.addr c 0 0 0, SP_STATUS.addr c 0 0 0])

namespace Discards

variable {c : Nat} {s t : State}

theorem refl (c : Nat) (s : State) : Discards c s s := ⟨rfl, rfl, rfl, .refl s _⟩

theorem foldl {α : Type} {l : List α} {f : State → α → State} (h : Discards c s t)
    (hf : ∀ u x, Discards c s u → Discards c s (f u x)) : Discards c s (l.foldl f t) :=
  List.foldlRecOn (motive := Discards c s) l f h (fun u hu x _ => hf u x hu)

variable (h : Discards c s t)
include h

theorem discardFault {r : DescRef} : Discards c s (t.discardFault c r) := by
  have hreport : Discards c s (t.reportFor r (coreSrc c 0x15) clsU) :=
    ⟨(t.mem_reportFor ..).trans h.mem, (t.cores_reportFor ..).trans h.cores, (t.fuses_reportFor ..).trans h.fuses,
      h.regs.of_regs_eq (t.regs_reportFor ..)⟩
  unfold State.discardFault
  extract_lets on
  split
  · exact ⟨h.mem, h.cores, h.fuses, h.regs⟩
  · exact ⟨hreport.mem, hreport.cores, hreport.fuses, hreport.regs⟩

theorem zeroDiscard {r : Option DescRef} : Discards c s (t.zeroDiscard c r) := by
  have hcount : Discards c s ((t.fadd SP_ZERO_DISCARDS_COUNT 1 c).fset SP_STATUS_ZERO_DISCARD_SEEN 1 c) :=
    ⟨h.mem, h.cores, h.fuses,
      (h.regs.fadd (f := SP_ZERO_DISCARDS_COUNT) 1 (.head _)).fset (f := SP_STATUS_ZERO_DISCARD_SEEN) 1 (.tail _ (.head _))⟩
  cases r
  · exact ⟨hcount.mem, hcount.cores, hcount.fuses, hcount.regs⟩
  · exact hcount.discardFault

theorem phDiscard {e : PhEntry} : Discards c s (t.phDiscard c e) := by
  unfold State.phDiscard
  split
  · exact h.zeroDiscard
  · exact foldl h.zeroDiscard (fun _ _ hu => hu.discardFault)

end Discards

/-! ### Accesses of the banks (R136, R138, R139) -/

/-- `t` is reached from `s` by accesses of scratchpad banks: the part has the same arrays, and the state of each core is as it was but for
the words that wait for a write-back. -/
structure BankAccess (s t : State) : Prop where
  fuses : t.fuses = s.fuses
  length : t.cores.length = s.cores.length
  coreAt : ∀ c, ∃ x, t.coreAt c = { s.coreAt c with corrections := x }

/-- A word's value, mark and check bits. -/
def State.putWord (s : State) (a x v : Nat) (p : Bool) : State :=
  { (s.writeLE a 8 v).setPoison a p with checkFlips := if x = 0 then AMap.del s.checkFlips a else AMap.set s.checkFlips a x }

/-- A word written to its bank: what waited to be written back to it is dropped (R139). -/
def State.storeWord (s : State) (c sp a x v : Nat) (p : Bool) : State :=
  (s.putWord a x v p).modCore c (fun k => { k with corrections := modAt k.corrections (spIx sp) (·.filter (fun e => e.addr != a)) })

theorem State.bankWord_eq (s : State) (c sp r x : Nat) (ws : List (Option (Nat × Bool))) (i : Nat) : s.bankWord c sp r x ws i =
    (ws.getD i none).elim s (fun w => s.storeWord c sp (rowAddr c sp r + 8 * i) x w.1 w.2) := by
  unfold State.bankWord
  cases ws.getD i none <;> rfl

theorem length_modAt {α : Type} (l : List α) (i : Nat) (f : α → α) : (modAt l i f).length = l.length := by
  induction l generalizing i with
  | nil => rfl
  | cons x l ih =>
    cases i with
    | zero => rfl
    | succ i => exact congrArg (· + 1) (ih i)

namespace BankAccess

variable {s t u : State}

theorem refl (s : State) : BankAccess s s := ⟨rfl, rfl, fun _ => ⟨_, rfl⟩⟩

theorem ite {p : Prop} [Decidable p] (ht : BankAccess s t) (hu : BankAccess s u) : BankAccess s (if p then t else u) := by
  split <;> assumption

theorem foldl {α : Type} {l : List α} {f : State → α → State} (h : BankAccess s t)
    (hf : ∀ u x, BankAccess s u → BankAccess s (f u x)) : BankAccess s (l.foldl f t) :=
  List.foldlRecOn (motive := BankAccess s) l f h (fun u hu x _ => hf u x hu)

section
variable (h : BankAccess s t)
include h

/-- Changes of anything but fuses and cores. -/
theorem of_cores (hc : u.cores = t.cores) (hf : u.fuses = t.fuses) : BankAccess s u where
  fuses := hf.trans h.fuses
  length := (congrArg List.length hc).trans h.length
  coreAt c := by simpa only [State.coreAt, hc] using h.coreAt c

theorem modCore {c : Nat} {g : CoreState → CoreState} (hg : ∀ k, ∃ x, g k = { k with corrections := x }) :
    BankAccess s (t.modCore c g) where
  fuses := h.fuses
  length := (length_modAt ..).trans h.length
  coreAt c' := by
    obtain ⟨x, hx⟩ := h.coreAt c'
    rw [State.coreAt_modCore]
    split
    · obtain ⟨y, hy⟩ := hg (t.coreAt c')
      exact ⟨y, by rw [hy, hx]⟩
    · exact ⟨x, hx⟩

theorem reportFor {r : DescRef} {src cls : Nat} {inj : Bool} : BankAccess s (t.reportFor r src cls inj) :=
  h.of_cores (t.cores_reportFor ..) (t.fuses_reportFor ..)

theorem eccFound {c sp a syn : Nat} {r : Option DescRef} : BankAccess s (t.eccFound c sp a syn r) := by
  unfold State.eccFound
  extract_lets un off t1 cap t2 t3 cls
  have h1 : BankAccess s t1 := .ite (h.of_cores rfl rfl) (h.of_cores rfl rfl)
  have h2 : BankAccess s t2 := .ite h1 (h1.of_cores rfl rfl)
  have h3 : BankAccess s t3 := h2.modCore (fun _ => ⟨_, rfl⟩)
  split
  · exact h3.reportFor
  · exact h3.of_cores rfl rfl

theorem eccRead {c sp b n : Nat} {r : Option DescRef} : BankAccess s (t.eccRead c sp b n r) :=
  .ite h (.foldl h (fun _ _ hu => hu.eccFound))

theorem bankWord {c sp r x i : Nat} {ws : List (Option (Nat × Bool))} : BankAccess s (t.bankWord c sp r x ws i) := by
  rw [State.bankWord_eq]
  cases ws.getD i none with
  | none => exact h
  | some w =>
    have hput : BankAccess s (t.putWord (rowAddr c sp r + 8 * i) x w.1 w.2) := h.of_cores rfl rfl
    exact hput.modCore (fun _ => ⟨_, rfl⟩)

theorem bankWrite {c sp r : Nat} {ws : List (Option (Nat × Bool))} {st : StampOp} : BankAccess s (t.bankWrite c sp r ws st) := by
  unfold State.bankWrite
  extract_lets inj x t1 t2
  have h1 : BankAccess s t1 := .ite (h.of_cores rfl rfl) h
  have h2 : BankAccess s t2 := .foldl h1 (fun u i hu => hu.bankWord (c := c) (sp := sp) (r := r) (x := x) (i := i) (ws := ws))
  cases st <;> exact h2.of_cores rfl rfl

theorem mayCollide {c : Nat} : BankAccess s (t.mayCollide c) :=
  .ite h (.ite (h.of_cores rfl rfl) (h.of_cores rfl rfl))

theorem phRetries {c : Nat} : BankAccess s (t.phRetries c) := .ite h (h.of_cores rfl rfl)

end

/-- A drain takes its entry off Packhorse; the rest of it is accesses of the bank (R136). -/
theorem phDrain (s : State) (c : Nat) (e : PhEntry) : BankAccess (s.phRemove c e.row) (s.phDrain c e) := by
  have h1 := refl (s.phRemove c e.row)
  unfold State.phDrain
  extract_lets o sp r full whole t1 t2 ws t3
  have h2 : BankAccess t1 t2 := .ite h1 h1.eccRead.phRetries
  have h3 : BankAccess t1 t3 := h2.bankWrite.mayCollide
  have hdiscard : Discards c t1 (t1.phDiscard c e) := .phDiscard (.refl c t1)
  exact .ite (h1.of_cores hdiscard.cores hdiscard.fuses) (.ite (h3.of_cores rfl rfl) (.ite (h3.of_cores rfl rfl) (h3.of_cores rfl rfl)))

variable (h : BankAccess s t)
include h

theorem phEntry? (c row : Nat) : t.phEntry? c row = s.phEntry? c row := by
  obtain ⟨x, hx⟩ := h.coreAt c
  rw [State.phEntry?, hx, State.phEntry?]

theorem spRows (c sp : Nat) : t.spRows c sp = s.spRows c sp := by
  rw [State.spRows, State.arraysOf, h.fuses]
  rfl

end BankAccess

/-- Beyond the part's cores there is nothing. -/
theorem State.coreAt_of_le {s : State} {c : Nat} (h : s.cores.length ≤ c) : s.coreAt c = CoreState.empty := by
  rw [State.coreAt, List.getD_eq_getElem?_getD, List.getElem?_eq_none h, Option.getD_none]

end Sys2Proof.Machine
end

section
/-! SUPPORT. Release and zeroing of tasks (R148, R149), and O37. -/

namespace Sys2Proof.Machine

/-! ### What is left of a store without some of its keys -/

/-- Leaving entries out by their keys leaves those of the other keys. -/
theorem AMap.get?_filter {α : Type} {lo a : Nat} {m : List (Nat × α)} (h : AMap.sortedFrom lo m = true) {p : Nat → Bool}
    (hp : p a = true) : AMap.get? (m.filter (fun e => p e.1)) a = AMap.get? m a := by
  induction m generalizing lo with
  | nil => rfl
  | cons e m ih =>
    obtain ⟨k, v⟩ := e
    simp only [AMap.sortedFrom, Bool.and_eq_true, decide_eq_true_eq] at h
    rw [List.filter_cons, AMap.get?]
    by_cases hak : a = k
    · rw [if_pos hak, if_pos (hak ▸ hp), AMap.get?, if_pos hak]
    · rw [if_neg hak]
      by_cases hlt : a < k
      · rw [if_pos hlt]
        split
        · rw [AMap.get?, if_neg hak, if_pos hlt]
        · exact AMap.get?_below (AMap.sortedFrom_filter h.2 _) (by omega)
      · rw [if_neg hlt, ← ih h.2]
        split
        · rw [AMap.get?, if_neg hak, if_neg hlt]
        · rfl

/-- A key that no entry has is not found. -/
theorem AMap.get?_of_not_key {α : Type} {a : Nat} {m : List (Nat × α)} (h : ∀ e ∈ m, e.1 ≠ a) : AMap.get? m a = none := by
  induction m with
  | nil => rfl
  | cons e m ih =>
    obtain ⟨hk, hm⟩ := List.forall_mem_cons.1 h
    rw [AMap.get?, if_neg (Ne.symm hk), ih hm, ite_self]

/-- A number that is not in its list is not in a set. -/
theorem NSet.mem_eq_false {a : Nat} {m : List Nat} (h : a ∉ m) : NSet.mem m a = false := by
  induction m with
  | nil => rfl
  | cons k m ih =>
    obtain ⟨hk, hm⟩ := not_or.1 (mt List.mem_cons.2 h)
    rw [NSet.mem, if_neg hk, ih hm, ite_self]

/-! ### Zeroed rows (R149) -/

/-- `t` is `s` with the memory at some addresses zeroed, and its marks, check bits and stamps there cleared. -/
structure Zeroed (s t : State) (at_ : Nat → Bool) : Prop where
  mem : t.mem = s.mem.filter (fun e => !at_ e.1)
  poison : t.poison = s.poison.filter (fun a => !at_ a)
  stamps : t.stamps = s.stamps.filter (fun e => !at_ e.1)
  regs : t.regs = s.regs

namespace Zeroed

variable {s t u : State} {p q : Nat → Bool} {a : Nat}

theorem refl (s : State) : Zeroed s s (fun _ => false) where
  mem := (List.filter_eq_self.2 (fun _ _ => rfl)).symm
  poison := (List.filter_eq_self.2 (fun _ _ => rfl)).symm
  stamps := (List.filter_eq_self.2 (fun _ _ => rfl)).symm
  regs := rfl

theorem trans (h : Zeroed s t p) (h' : Zeroed t u q) : Zeroed s u (fun a => p a || q a) where
  mem := by simp only [h'.mem, h.mem, List.filter_filter, Bool.not_or, Bool.and_comm]
  poison := by simp only [h'.poison, h.poison, List.filter_filter, Bool.not_or, Bool.and_comm]
  stamps := by simp only [h'.stamps, h.stamps, List.filter_filter, Bool.not_or, Bool.and_comm]
  regs := h'.regs.trans h.regs

theorem readByte (h : Zeroed s t p) (hp : p a = true) : t.readByte a = 0 := by
  rw [State.readByte, h.mem, Memory.get, AMap.get?_of_not_key, Option.getD_none]
  rintro e he rfl
  simp [hp] at he

theorem poisoned (h : Zeroed s t p) (hp : p a = true) : t.poisoned a = false := by
  rw [State.poisoned, h.poison]
  exact NSet.mem_eq_false (by simp [hp])

theorem stamp (h : Zeroed s t p) (hp : p a = true) : AMap.get? t.stamps a = none := by
  rw [h.stamps]
  refine AMap.get?_of_not_key ?_
  rintro e he rfl
  simp [hp] at he

/-- The bytes elsewhere stand. -/
theorem readByte_outside (h : Zeroed s t p) (hs : s.Sound) (hp : p a = false) : t.readByte a = s.readByte a := by
  rw [State.readByte, h.mem, Memory.get, AMap.get?_filter (Memory.wf_sorted hs.mem) (p := fun a => !p a) (by simp [hp])]
  rfl

end Zeroed

/-- An address lies in the rows `lo` to `hi - 1` of a scratchpad. -/
def inRows (c sp lo hi a : Nat) : Bool := decide (rowAddr c sp lo ≤ a) && decide (a < rowAddr c sp hi)

theorem inRows_iff {c sp lo hi a : Nat} :
    inRows c sp lo hi a = true ↔ ∃ r i, lo ≤ r ∧ r < hi ∧ i < 128 ∧ a = rowAddr c sp r + i := by
  unfold inRows rowAddr spAddr
  rw [Bool.and_eq_true, decide_eq_true_eq, decide_eq_true_eq]
  generalize windowBase + 0x400_0000 * c + spWindow sp = w
  refine ⟨fun h => ⟨(a - w) / 128, (a - w) % 128, by omega, by omega, by omega, by omega⟩, ?_⟩
  rintro ⟨r, i, hlo, hhi, hi, rfl⟩
  omega

theorem State.zeroRows_zeroed (s : State) (c sp lo hi : Nat) : Zeroed s (s.zeroRows c sp lo hi) (inRows c sp lo hi) := by
  unfold State.zeroRows
  dsimp only
  split
  · next hle =>
    have hnone : inRows c sp lo hi = fun _ => false := by
      funext a
      refine Bool.eq_false_iff.2 (fun h => ?_)
      obtain ⟨r, i, hlo, hhi, -⟩ := inRows_iff.1 h
      omega
    exact hnone ▸ .refl s
  · exact ⟨rfl, rfl, rfl, rfl⟩

/-- An address lies in the regions latched for a task of core `c`. -/
def ZeroTask.covers (z : ZeroTask) (c a : Nat) : Bool :=
  [spWSP, spASP, spPSP].any (fun sp => inRows c sp (z.lo.getD (spIx sp) 0) (z.hi.getD (spIx sp) 0) a)

theorem ZeroTask.covers_iff {z : ZeroTask} {c a : Nat} : z.covers c a = true ↔ ∃ sp r i, sp ∈ [spWSP, spASP, spPSP] ∧
    z.lo.getD (spIx sp) 0 ≤ r ∧ r < z.hi.getD (spIx sp) 0 ∧ i < 128 ∧ a = rowAddr c sp r + i := by
  rw [ZeroTask.covers, List.any_eq_true]
  refine ⟨fun ⟨sp, hsp, h⟩ => ?_, fun ⟨sp, r, i, hsp, h⟩ => ⟨sp, hsp, inRows_iff.2 ⟨r, i, h⟩⟩⟩
  obtain ⟨r, i, h⟩ := inRows_iff.1 h
  exact ⟨sp, r, i, hsp, h⟩

/-- The three regions of a task, zeroed one after another. -/
def State.zeroRegions (s : State) (c : Nat) (z : ZeroTask) : State :=
  [spWSP, spASP, spPSP].foldl (fun t sp => t.zeroRows c sp (z.lo.getD (spIx sp) 0) (z.hi.getD (spIx sp) 0)) s

theorem State.zeroRegions_zeroed (s : State) (c : Nat) (z : ZeroTask) : Zeroed s (s.zeroRegions c z) (z.covers c) := by
  unfold State.zeroRegions ZeroTask.covers
  generalize [spWSP, spASP, spPSP] = l
  induction l generalizing s with
  | nil => exact .refl s
  | cons sp l ih => exact (s.zeroRows_zeroed c sp _ _).trans (ih _)

/-! ### TASK_RELEASE (R148) -/

/-- The common end of a register write adds the capture and the journal to the registers its effect writes. -/
theorem State.writeEnd_regsKept {s : State} {r : State × Nat} {l : List Nat} (h : regsKept s r.1 (anyOf l)) (src n addr w v : Nat) :
    regsKept s (State.writeEnd r src n addr w v) (loggedAnd l) :=
  fun a ha => (State.writeEnd_get? r src n addr w v (fun hb => ha (.inr hb))).trans (h a (fun hl => ha (.inl hl)))

theorem mem_taskReleaseEffect {s : State} {c : Nat} (hc : c < s.cores.length) (mask n : Nat) :
    n ∈ ((taskReleaseEffect c mask s).1.coreAt c).release ↔
      n ∈ (s.coreAt c).release ∨ (n < 16 ∧ bitAt mask n = true ∧ s.fbit CORE_TASKn_BOUND_ENABLE c n = true) := by
  rw [taskReleaseEffect, State.coreAt_modCore, if_pos ⟨rfl, hc⟩]
  by_cases hn : n ∈ (s.coreAt c).release <;> simp [whichBelow, hn]

theorem taskRelease_spec {s : State} {src c : Nat} (mask : Nat) (hc : c < 8) (hcores : c < s.cores.length)
    (hr : reaches s src (CORE_TASK_RELEASE.addr c 0 0 0)) : ∃ t, exec (.taskRelease src c mask) s = .next t ∧ t.lastAccess = ⟨stOK, 0⟩ ∧
    (∀ n, n ∈ (t.coreAt c).release ↔ n ∈ (s.coreAt c).release ∨
      (n < 16 ∧ bitAt mask n = true ∧ s.fbit CORE_TASKn_BOUND_ENABLE c n = true)) ∧
    regsKept s t (loggedAnd []) ∧ memKept s t nowhere := by
  obtain ⟨hsrc, hup, hblk⟩ := hr
  refine ⟨_, regCmd_eq (decide_eq_true hc) hsrc hup hblk, State.writeEnd_lastAccess .., fun n => ?_,
    State.writeEnd_regsKept (r := taskReleaseEffect c (wrap 16 mask) s) (.refl s _) src 0xFF _ 4 _, .of_mem_eq (State.writeEnd_mem ..) _⟩
  rw [State.coreAt, State.writeEnd_cores, ← State.coreAt, mem_taskReleaseEffect hcores]
  refine or_congr_right (and_congr_right (fun hn => ?_))
  rw [bitAt, wrap, Nat.testBit_mod_two_pow, decide_eq_true hn, Bool.true_and, bitAt]

/-! ### ZEROING_BEGIN (R148, R150) -/

/-- A bit of a field that has had it replaced. -/
theorem bitAt_putBits_mod {x n w v : Nat} (hn : n < w) : bitAt (putBits x n 1 v % 2 ^ w) n = v.testBit 0 := by
  rw [bitAt, Nat.testBit_mod_two_pow, decide_eq_true hn, Bool.true_and, putBits_testBit, if_pos (by omega), Nat.sub_self]

section
variable (s : State) (c n : Nat)

/-- What is latched for a task when its zeroing begins. -/
def State.zeroTask : ZeroTask where
  task := n
  lo := (s.taskLatch c n).base
  hi := [spWSP, spASP, spPSP].map (fun sp => min ((s.taskLatch c n).bound.getD (spIx sp) 0) (s.spRowCount c sp))

/-- The task's ENABLE cleared and its ZEROING bit set. -/
def State.zeroMarked : State :=
  let s := s.fset CORE_TASKn_BOUND_ENABLE 0 c n
  s.fset CORE_TASK_ZEROING_ZEROING (putBits (s.fget CORE_TASK_ZEROING_ZEROING c) n 1 1) c

/-- The Packhorse entries within the regions latched. -/
def State.zeroGone : List PhEntry :=
  (s.coreAt c).packhorse.filter (fun e =>
    let o := spOf e.row
    decide ((s.zeroTask c n).lo.getD (spIx o.2.1) 0 ≤ o.2.2 / 128) && decide (o.2.2 / 128 < (s.zeroTask c n).hi.getD (spIx o.2.1) 0))

/-- The state in which a task's zeroing has begun, before the discards are reported. -/
def State.zeroLatched : State :=
  (s.zeroMarked c n).modCore c (fun k => { k with
    zeroing := k.zeroing ++ [s.zeroTask c n]
    release := k.release.filter (· != n)
    packhorse := k.packhorse.filter (fun e => !(s.zeroGone c n).contains e) })

theorem State.zeroBegin_eq : s.zeroBegin c n =
    (s.zeroGone c n).foldl (fun s e => if e.task = some n then s else s.phDiscard c e) (s.zeroLatched c n) := rfl

theorem State.zeroBegin_discards : Discards c (s.zeroLatched c n) (s.zeroBegin c n) := by
  rw [State.zeroBegin_eq]
  refine .foldl (.refl c _) (fun u e hu => ?_)
  split
  · exact hu
  · exact hu.phDiscard

theorem State.zeroMarked_enable : (s.zeroMarked c n).fbit CORE_TASKn_BOUND_ENABLE c n = false :=
  (State.fbit_fset_ne _ _ (by
    simp only [Reg.addr, CORE_TASKn_BOUND_ENABLE, CORE_TASKn_BOUND, CORE_TASK_ZEROING_ZEROING, CORE_TASK_ZEROING]
    omega)).trans (State.fbit_fset_zero s c n 0 0 (by decide))

theorem State.zeroMarked_zeroing (hn : n < 16) : bitAt ((s.zeroMarked c n).fget CORE_TASK_ZEROING_ZEROING c) n = true := by
  rw [State.zeroMarked, State.fget_fset_self _ _ _ _ _ _ (by decide)]
  exact bitAt_putBits_mod hn

theorem State.zeroMarked_cores : (s.zeroMarked c n).cores = s.cores := rfl

theorem State.zeroLatched_regs : (s.zeroLatched c n).regs = (s.zeroMarked c n).regs := rfl

theorem State.zeroLatched_coreAt (hcores : c < s.cores.length) : (s.zeroLatched c n).coreAt c = { s.coreAt c with
    zeroing := (s.coreAt c).zeroing ++ [s.zeroTask c n]
    release := (s.coreAt c).release.filter (· != n)
    packhorse := (s.coreAt c).packhorse.filter (fun e => !(s.zeroGone c n).contains e) } := by
  rw [State.zeroLatched, State.coreAt_modCore, if_pos ⟨rfl, hcores⟩, State.coreAt, State.zeroMarked_cores, ← State.coreAt]

end

/-- The registers of a task's bounds and of the tasks being zeroed are none that a discard counts in. -/
theorem not_discardRegs {c a : Nat} (h : a < 0x102_0009_0000 + 0x100_0000 * c) :
    ¬ anyOf [SP_ZERO_DISCARDS.addr c 0 0 0, SP_STATUS.addr c 0 0 0] a := not_anyOf (by
  simp only [Reg.addr, SP_ZERO_DISCARDS, SP_STATUS, List.mem_cons, List.not_mem_nil, or_false]
  omega)

theorem zeroingBegin_spec {s : State} {c n : Nat} (hc : c < 8) (hn : n < 16) (hcores : c < s.cores.length) (hup : s.up = true)
    (hdown : s.coreDown c = false) (hrel : n ∈ (s.coreAt c).release) (hbusy : s.taskBusy c n = false)
    (hfree : (s.coreAt c).zeroing.all (fun z => z.task != n) = true) : ∃ t z, exec (.zeroingBegin c n) s = .next t ∧
    z ∈ (t.coreAt c).zeroing ∧ z.task = n ∧ z.lo = (s.taskLatch c n).base ∧ t.fbit CORE_TASKn_BOUND_ENABLE c n = false ∧
    bitAt (t.fget CORE_TASK_ZEROING_ZEROING c) n = true ∧ n ∉ (t.coreAt c).release ∧ memKept s t nowhere := by
  have hexec : exec (.zeroingBegin c n) s = .next (s.zeroBegin c n) := by
    change execZeroingBegin c n s = _
    rw [execZeroingBegin, unit_of_true (by simp [hc, hn])]
    have hnone : (s.coreAt c).zeroing.any (fun z => z.task == n) = false := by
      rw [← Bool.not_eq_true', List.not_any_eq_all_not, ← hfree]
      rfl
    exact due_of_true (by rw [hup, hdown, List.contains_iff_mem.2 hrel, hbusy, hnone]; rfl) _ _
  have hgone := s.zeroBegin_discards c n
  have hcore : ((s.zeroBegin c n).coreAt c) = _ := (congrArg (·.getD c CoreState.empty) hgone.cores).trans (s.zeroLatched_coreAt c n hcores)
  have henable : (s.zeroBegin c n).fbit CORE_TASKn_BOUND_ENABLE c n = (s.zeroMarked c n).fbit CORE_TASKn_BOUND_ENABLE c n :=
    (hgone.regs.fbit (not_discardRegs (by simp only [Reg.addr, CORE_TASKn_BOUND_ENABLE, CORE_TASKn_BOUND]; omega))).trans
      (State.fbit_of_fget_eq (State.fget_of_regs_eq (s.zeroLatched_regs c n) ..))
  have hbit : (s.zeroBegin c n).fget CORE_TASK_ZEROING_ZEROING c = (s.zeroMarked c n).fget CORE_TASK_ZEROING_ZEROING c :=
    (hgone.regs.fget (not_discardRegs (by simp only [Reg.addr, CORE_TASK_ZEROING_ZEROING, CORE_TASK_ZEROING]; omega))).trans
      (State.fget_of_regs_eq (s.zeroLatched_regs c n) ..)
  exact ⟨_, s.zeroTask c n, hexec, by simp [hcore], rfl, rfl, henable.trans (s.zeroMarked_enable c n),
    hbit ▸ s.zeroMarked_zeroing c n hn, by simp [hcore], .of_mem_eq hgone.mem _⟩

/-! ### ZEROING_COMPLETE (R149) -/

/-- The state in which a task's regions have been zeroed: its bit is clear, and it is no longer being zeroed. -/
def State.zeroingDone (s : State) (c n : Nat) (z : ZeroTask) : State :=
  ((s.zeroRegions c z).fset CORE_TASK_ZEROING_ZEROING (putBits (s.fget CORE_TASK_ZEROING_ZEROING c) n 1 0) c).modCore c
    (fun k => { k with zeroing := k.zeroing.filter (fun x => x.task != n) })

theorem exec_zeroingComplete {s : State} {c n : Nat} {z : ZeroTask} (hc : c < 8) (hn : n < 16) (hup : s.up = true)
    (hdown : s.coreDown c = false) (hz : (s.coreAt c).zeroing.find? (fun z => z.task == n) = some z) :
    exec (.zeroingComplete c n) s = .next (s.zeroingDone c n z) := by
  change execZeroingComplete c n s = _
  rw [execZeroingComplete, unit_of_true (by simp [hc, hn]), hz]
  exact due_of_true (by rw [hup, hdown]; rfl) _ _

/-- No task `n` is being zeroed any more. -/
theorem State.zeroingDone_zeroing (s : State) (c n : Nat) (z : ZeroTask) :
    ∀ x ∈ ((s.zeroingDone c n z).coreAt c).zeroing, x.task ≠ n := by
  unfold State.zeroingDone
  rw [State.coreAt_modCore]
  split
  · intro x hx
    simpa using (List.mem_filter.1 hx).2
  · next hout =>
    rw [State.coreAt_of_le (Nat.le_of_not_lt (fun h => hout ⟨rfl, h⟩))]
    exact nofun

theorem zeroingComplete_spec {s : State} {c n : Nat} {z : ZeroTask} (hs : s.Sound) (hc : c < 8) (hn : n < 16) (hup : s.up = true)
    (hdown : s.coreDown c = false) (hz : (s.coreAt c).zeroing.find? (fun z => z.task == n) = some z) :
    ∃ t, exec (.zeroingComplete c n) s = .next t ∧
      (∀ sp r i, sp ∈ [spWSP, spASP, spPSP] → z.lo.getD (spIx sp) 0 ≤ r → r < z.hi.getD (spIx sp) 0 → i < 128 →
        t.readByte (rowAddr c sp r + i) = 0 ∧ t.poisoned (rowAddr c sp r + i) = false ∧ AMap.get? t.stamps (rowAddr c sp r) = none) ∧
      bitAt (t.fget CORE_TASK_ZEROING_ZEROING c) n = false ∧ (∀ x ∈ (t.coreAt c).zeroing, x.task ≠ n) ∧
      regsKept s t (anyOf [CORE_TASK_ZEROING.addr c 0 0 0]) ∧
      memKept s t (fun x => ∃ sp r i, sp ∈ [spWSP, spASP, spPSP] ∧ z.lo.getD (spIx sp) 0 ≤ r ∧ r < z.hi.getD (spIx sp) 0 ∧ i < 128 ∧
        x = rowAddr c sp r + i) := by
  have hrows := s.zeroRegions_zeroed c z
  have hbit : (s.zeroingDone c n z).fget CORE_TASK_ZEROING_ZEROING c =
      putBits (s.fget CORE_TASK_ZEROING_ZEROING c) n 1 0 % 2 ^ 16 := State.fget_fset_self _ _ _ _ _ _ (by decide)
  refine ⟨_, exec_zeroingComplete hc hn hup hdown hz, fun sp r i hsp hlo hhi hi => ?_, ?_, s.zeroingDone_zeroing c n z, ?_, fun x hx => ?_⟩
  · have hbyte : z.covers c (rowAddr c sp r + i) = true := ZeroTask.covers_iff.2 ⟨sp, r, i, hsp, hlo, hhi, hi, rfl⟩
    have hrow : z.covers c (rowAddr c sp r) = true := ZeroTask.covers_iff.2 ⟨sp, r, 0, hsp, hlo, hhi, by decide, rfl⟩
    exact ⟨hrows.readByte hbyte, hrows.poisoned hbyte, hrows.stamp hrow⟩
  · rw [hbit, bitAt_putBits_mod hn]
    rfl
  · exact ((regsKept.refl s _).of_regs_eq hrows.regs).fset (f := CORE_TASK_ZEROING_ZEROING) _ (.head _)
  · exact hrows.readByte_outside hs (Bool.eq_false_iff.2 (fun h => hx (ZeroTask.covers_iff.1 h)))

/-- Settles O37, from one lemma for each of its three commands. -/
theorem tasksAreReleasedAndZeroed : Obligations.TasksAreReleasedAndZeroed := by
  unfold Obligations.TasksAreReleasedAndZeroed
  exact ⟨fun _ _ mask _ hc hcores hr => taskRelease_spec mask hc hcores hr,
    fun _ _ _ hc hn hcores hup hdown hrel hbusy hfree => zeroingBegin_spec hc hn hcores hup hdown hrel hbusy hfree,
    fun _ _ _ _ hs hc hn hup hdown hz => zeroingComplete_spec hs hc hn hup hdown hz⟩

end Sys2Proof.Machine
end

section
/-! SUPPORT. Packhorse drains, write-backs, scrub steps and injections (R135, R136, R139 to R143), and O38. -/

namespace Sys2Proof.Machine

/-- The three scratchpads by their space codes. -/
theorem mem_scratchpads {sp : Nat} (h2 : 2 ≤ sp) (h4 : sp ≤ 4) : sp ∈ [spWSP, spASP, spPSP] := by
  have hsp : sp = 2 ∨ sp = 3 ∨ sp = 4 := by omega
  rcases hsp with rfl | rfl | rfl <;> decide

/-! ### PACKHORSE_DRAIN (R135, R136) -/

theorem State.row_of_phEntry? {s : State} {c row : Nat} {e : PhEntry} (h : s.phEntry? c row = some e) : e.row = row :=
  beq_iff_eq.1 (List.find?_some (p := fun e : PhEntry => e.row == row) h)

/-- An entry taken off Packhorse is not there. -/
theorem State.phEntry?_phRemove (s : State) (c row : Nat) : (s.phRemove c row).phEntry? c row = none := by
  rw [State.phEntry?, State.phRemove, State.coreAt_modCore]
  split
  · exact List.find?_eq_none.2 (fun x hx => by simpa using (List.mem_filter.1 hx).2)
  · next hout =>
    rw [State.coreAt_of_le (Nat.le_of_not_lt (fun h => hout ⟨rfl, h⟩))]
    rfl

theorem packhorseDrain_spec {s : State} {c sp r : Nat} {e : PhEntry} (hs : s.Sound) (hc : c < 8) (hup : s.up = true) (h2 : 2 ≤ sp)
    (h4 : sp ≤ 4) (hr : r < s.spRowCount c sp) (he : s.phEntry? c (rowAddr c sp r) = some e) (hdue : s.phDue c e = true)
    (hz : s.rowZeroing c sp r e.task = false) : ∃ t, exec (.packhorseDrain c (rowAddr c sp r)) s = .next t ∧
    t.phEntry? c (rowAddr c sp r) = none ∧
    (∀ i, i < 128 → bitAt e.mask i = true → t.readByte (rowAddr c sp r + i) = e.data.getD i 0) ∧
    memKept s t (fun x => ∃ i, i < 128 ∧ bitAt e.mask i = true ∧ x = rowAddr c sp r + i) := by
  have hrow := State.row_of_phEntry? he
  have hrows := s.spRowCount_le c (mem_scratchpads h2 h4)
  have hexec : exec (.packhorseDrain c (rowAddr c sp r)) s = .next (s.phDrain c e) := by
    change execPackhorseDrain c _ s = _
    rw [execPackhorseDrain, unit_of_true (decide_eq_true hc), he]
    exact due_of_true (by rw [hup, hdue]; rfl) _ _
  have hbyte := State.readByte_phDrain hs.mem h2 h4 (by omega) hrow hz
  refine ⟨_, hexec, ?_, fun i hi hmask => ?_, fun x hx => ?_⟩
  · rw [(BankAccess.phDrain s c e).phEntry?, hrow, State.phEntry?_phRemove]
  · rw [hbyte, hrow, Nat.add_sub_cancel_left, if_pos ⟨by omega, hmask⟩]
  · rw [hbyte, if_neg]
    rintro ⟨hin, hmask⟩
    exact hx ⟨x - e.row, by omega, hmask, by omega⟩

/-! ### A single word written to its bank (R139) -/

/-- Of a run over a range in which all steps but one do nothing, that one remains. -/
theorem foldl_range_single {α : Type} {f : α → Nat → α} {i n : Nat} (hi : i < n) (h : ∀ j, j ≠ i → ∀ x, f x j = x) (x : α) :
    (List.range n).foldl f x = f x i := by
  induction n with
  | zero => omega
  | succ n ih =>
    rw [foldl_range_succ]
    by_cases hin : i = n
    · subst hin
      congr 1
      exact List.foldlRecOn (motive := (· = x)) _ f rfl (fun y hy j hj => by
        rw [h j (Nat.ne_of_lt (List.mem_range.1 hj)), hy])
    · rw [ih (by omega), h n (Ne.symm hin)]

/-- The words of a bank write of word `i` alone. -/
def onlyWord (i v : Nat) (p : Bool) : List (Option (Nat × Bool)) := (List.range 16).map (fun j => if j = i then some (v, p) else none)

theorem getD_onlyWord {i v : Nat} {p : Bool} (hi : i < 16) (j : Nat) :
    (onlyWord i v p).getD j none = if j = i then some (v, p) else none := by
  rw [onlyWord, List.getD_eq_getElem?_getD, List.getElem?_map]
  by_cases hj : j < 16
  · rw [List.getElem?_range hj]
    rfl
  · rw [List.getElem?_eq_none (by rw [List.length_range]; omega), if_neg (by omega)]
    rfl

/-- An armed injection for a scratchpad is taken by its next bank write (R143). -/
def State.injectTaken (s : State) (c sp : Nat) : State :=
  if s.fbit SP_ECC_INJECT_ARM c && s.fget SP_ECC_INJECT_SPACE c == spIx sp then s.fset SP_ECC_INJECT_ARM 0 c else s

/-- A bank write of one word which leaves the stamp stores that word, with some check bits. -/
theorem State.bankWrite_onlyWord (s : State) (c sp r : Nat) {i : Nat} (v : Nat) (p : Bool) (hi : i < 16) :
    ∃ x, s.bankWrite c sp r (onlyWord i v p) .keep = (s.injectTaken c sp).storeWord c sp (rowAddr c sp r + 8 * i) x v p := by
  have hword (x j : Nat) (u : State) : u.bankWord c sp r x (onlyWord i v p) j =
      (if j = i then some (v, p) else none).elim u (fun w => u.storeWord c sp (rowAddr c sp r + 8 * j) x w.1 w.2) := by
    rw [State.bankWord_eq, getD_onlyWord hi]
  have hone (x : Nat) (u : State) : (List.range 16).foldl (State.bankWord c sp r x (onlyWord i v p)) u =
      u.storeWord c sp (rowAddr c sp r + 8 * i) x v p := by
    rw [foldl_range_single hi (fun j hj u => by rw [hword, if_neg hj]; rfl), hword, if_pos rfl]
    rfl
  exact ⟨_, hone _ _⟩

theorem State.injectTaken_fields (s : State) (c sp : Nat) : (s.injectTaken c sp).mem = s.mem ∧
    (s.injectTaken c sp).stamps = s.stamps := by
  unfold State.injectTaken
  split <;> exact ⟨rfl, rfl⟩

/-- An element just added to a rising set. -/
theorem NSet.mem_add_self (m : List Nat) (a : Nat) : NSet.mem (NSet.add m a) a = true := by
  induction m with
  | nil => rw [NSet.add, NSet.mem, if_pos rfl]
  | cons k m ih =>
    rw [NSet.add]
    split
    · next hk => rw [NSet.mem, if_pos hk]
    · next hk =>
      split
      · rw [NSet.mem, if_pos rfl]
      · next hlt => rw [NSet.mem, if_neg hk, if_neg hlt, ih]

/-- The words that wait for a write-back, after a change of one queue which leaves an empty one. -/
theorem State.corrections_modCore (s : State) (c i : Nat) {f : List CorrEntry → List CorrEntry} (hf : f [] = []) :
    ((s.modCore c (fun k => { k with corrections := modAt k.corrections i f })).coreAt c).corrections.getD i [] =
      f ((s.coreAt c).corrections.getD i []) := by
  rw [State.coreAt_modCore]
  split
  · dsimp only
    rw [getD_modAt]
    split
    · rfl
    · next hi =>
      rw [List.getD_eq_getElem?_getD, List.getElem?_eq_none (Nat.le_of_not_lt (fun h => hi ⟨rfl, h⟩)), Option.getD_none, hf]
  · next hout =>
    rw [State.coreAt_of_le (Nat.le_of_not_lt (fun h => hout ⟨rfl, h⟩))]
    have hnone : CoreState.empty.corrections.getD i [] = [] := by
      match i with
      | 0 | 1 | 2 | _ + 3 => rfl
    rw [hnone, hf]

theorem leVal_leBytes (n v : Nat) : leVal (leBytes n v) = v % 2 ^ (8 * n) := by
  induction n generalizing v with
  | zero => exact (Nat.mod_one v).symm
  | succ n ih =>
    have hpow : 2 ^ (8 * (n + 1)) = 256 * 2 ^ (8 * n) := (Nat.pow_add 2 (8 * n) 8).trans (Nat.mul_comm ..)
    rw [leBytes, leVal, ih, hpow, Nat.mod_mul, BitVec.toNat_ofNat]

section
variable {s : State} {c sp a x v : Nat} {p : Bool}

theorem State.readLE_storeWord (hs : Memory.wf 0 s.mem = true) : (s.storeWord c sp a x v p).readLE a 8 = v % 2 ^ 64 := by
  have hbytes : (s.storeWord c sp a x v p).readBytes a (leBytes 8 v).length = leBytes 8 v := State.readBytes_eq (fun i hi =>
    (Memory.get_write_inside hs a (leBytes 8 v) hi).trans (by
      rw [List.getD_eq_getElem?_getD, List.getElem?_eq_getElem hi, Option.getD_some]))
  rw [length_leBytes] at hbytes
  rw [State.readLE, hbytes, leVal_leBytes]

theorem State.memKept_storeWord (hs : Memory.wf 0 s.mem = true) : memKept s (s.storeWord c sp a x v p) (bytesAt a 8) :=
  fun y hy => Memory.get_write_outside hs a (leBytes 8 v) (by
    rw [length_leBytes]
    simp only [bytesAt] at hy
    omega)

theorem State.poisoned_storeWord : (s.storeWord c sp a x v true).poisoned a = true := NSet.mem_add_self s.poison a

/-- Nothing waits to be written back to a word just written (R139). -/
theorem State.corrections_storeWord (s : State) (c sp a x v : Nat) (p : Bool) :
    ∀ e ∈ ((s.storeWord c sp a x v p).coreAt c).corrections.getD (spIx sp) [], e.addr ≠ a := by
  intro e he
  rw [State.storeWord, State.corrections_modCore _ _ _ rfl] at he
  simpa using (List.mem_filter.1 he).2

end

/-! ### CORRECTION_WRITE_BACK (R139) -/

/-- The byte offset of an address of the data view. -/
theorem spOf_spAddr_offset (c sp : Nat) {b : Nat} (hb : b < 0x100_0000) : (spOf (spAddr c sp b)).2.2 = b := by
  have hwindow : spWindow sp % 0x100_0000 = 0 := by
    unfold spWindow
    split
    · rfl
    · split <;> rfl
  change (spAddr c sp b - windowBase) % 0x400_0000 % 0x100_0000 = b
  rw [spAddr]
  omega

theorem correctionWriteBack_spec {s : State} {c sp w : Nat} {e : CorrEntry} {l : List CorrEntry} (hs : s.Sound) (hc : c < 8)
    (hup : s.up = true) (h2 : 2 ≤ sp) (h4 : sp ≤ 4) (hq : (s.coreAt c).corrections.getD (spIx sp) [] = e :: l)
    (ha : e.addr = spAddr c sp (8 * w)) (hw : 8 * w < 128 * s.spRowCount c sp) : ∃ t, exec (.correctionWriteBack c sp) s = .next t ∧
    t.readLE e.addr 8 = e.value % 2 ^ 64 ∧ t.stamps = s.stamps ∧ (e.poison = true → t.poisoned e.addr = true) ∧
    (∀ x ∈ (t.coreAt c).corrections.getD (spIx sp) [], x.addr ≠ e.addr) ∧ memKept s t (bytesAt e.addr 8) := by
  have hrows := s.spRowCount_le c (mem_scratchpads h2 h4)
  have hat : rowAddr c sp (8 * w / 128) + 8 * (8 * w % 128 / 8) = e.addr := by
    rw [ha, rowAddr, spAddr, spAddr]
    omega
  obtain ⟨x, hwrite⟩ := s.bankWrite_onlyWord c sp (8 * w / 128) (i := 8 * w % 128 / 8) e.value e.poison (by omega)
  have hexec : exec (.correctionWriteBack c sp) s = .next ((s.injectTaken c sp).storeWord c sp e.addr x e.value e.poison) := by
    rw [← hat, ← hwrite]
    change execCorrectionWriteBack c sp s = _
    rw [execCorrectionWriteBack, unit_of_true (by simp [hc, h2, h4]), hq]
    dsimp only
    rw [ha, spOf_spAddr_offset c sp (by omega)]
    exact due_of_true hup _ _
  obtain ⟨hmem, hstamps⟩ := s.injectTaken_fields c sp
  have hwf : Memory.wf 0 (s.injectTaken c sp).mem = true := by rw [hmem]; exact hs.mem
  refine ⟨_, hexec, State.readLE_storeWord hwf, hstamps, fun hp => ?_, State.corrections_storeWord _ _ _ _ _ _ _, fun y hy => ?_⟩
  · rw [hp]
    exact State.poisoned_storeWord
  · rw [State.memKept_storeWord hwf y hy, State.readByte, hmem, State.readByte]

/-! ### SCRUB_READ (R141) -/

/-- A bank read finds nothing where no check bit is wrong. -/
theorem State.eccRead_of_no_flips {s : State} (h : s.checkFlips = []) (c sp b n : Nat) (r : Option DescRef) : s.eccRead c sp b n r = s := by
  simp only [State.eccRead, h, List.filter_nil, List.foldl_nil, ite_self]

/-- A bank with rows left keeps the pass going. -/
theorem State.scrubDone_eq_false {s : State} {c sp bank : Nat} (hsp : sp ∈ [spWSP, spASP, spPSP]) (hb : bank < spBanks sp)
    (h : (AMap.get? (s.coreAt c).scrubRow (bankKey sp bank)).getD 0 < s.spRows c sp) : s.scrubDone c = false := by
  refine Bool.eq_false_iff.2 (fun hall => ?_)
  have hbank := List.all_eq_true.1 (List.all_eq_true.1 hall sp hsp) bank (List.mem_range.2 hb)
  rw [decide_eq_true_eq] at hbank
  omega

/-- The state after the scrubber's read of row `row` of a bank: what it found, and the bank's pointer and time. -/
def State.scrubbed (s : State) (c sp bank row : Nat) : State :=
  (s.eccRead c sp (128 * (row * spBanks sp + bank)) 128 none).modCore c (fun k => { k with
    scrubRow := AMap.set k.scrubRow (bankKey sp bank) (row + 1)
    scrubTick := AMap.set k.scrubTick (bankKey sp bank) (s.arrNow c) })

theorem State.scrubbed_coreAt {s : State} {c : Nat} (hcores : c < s.cores.length) (sp bank row : Nat) :
    ∃ x, (s.scrubbed c sp bank row).coreAt c = { s.coreAt c with
      corrections := x
      scrubRow := AMap.set (s.coreAt c).scrubRow (bankKey sp bank) (row + 1)
      scrubTick := AMap.set (s.coreAt c).scrubTick (bankKey sp bank) (s.arrNow c) } := by
  have hread := (BankAccess.refl s).eccRead (c := c) (sp := sp) (b := 128 * (row * spBanks sp + bank)) (n := 128) (r := none)
  obtain ⟨x, hx⟩ := hread.coreAt c
  exact ⟨x, by rw [State.scrubbed, State.coreAt_modCore, if_pos ⟨rfl, hread.length ▸ hcores⟩, hx]⟩

theorem scrubRead_spec {s : State} {c sp bank row : Nat} (hc : c < 8) (hcores : c < s.cores.length) (h2 : 2 ≤ sp) (h4 : sp ≤ 4)
    (hb : bank < spBanks sp) (hw : s.coreWorks c = true) (hdue : s.scrubDue c sp bank = true)
    (hrow : row = (AMap.get? (s.coreAt c).scrubRow (bankKey sp bank)).getD 0) (hleft : row + 1 < s.spRows c sp) :
    ∃ t, exec (.scrubRead c sp bank) s = .next t ∧ AMap.get? (t.coreAt c).scrubRow (bankKey sp bank) = some (row + 1) ∧
      AMap.get? (t.coreAt c).scrubTick (bankKey sp bank) = some (s.arrNow c) ∧ (s.checkFlips = [] → regsKept s t nowhere) ∧
      memKept s t nowhere := by
  obtain ⟨x, hcore⟩ := State.scrubbed_coreAt hcores sp bank row
  have hrows : (s.scrubbed c sp bank row).spRows c sp = s.spRows c sp := (BankAccess.refl s).eccRead.spRows c sp
  have hgoes : (s.scrubbed c sp bank row).scrubDone c = false := State.scrubDone_eq_false (mem_scratchpads h2 h4) hb (by
    rw [hcore, hrows, AMap.get?_set_self]
    exact hleft)
  have hexec : exec (.scrubRead c sp bank) s = .next (s.scrubbed c sp bank row) := by
    have hstep : (if (s.scrubbed c sp bank row).scrubDone c then (s.scrubbed c sp bank row).scrubPassEnd c
        else s.scrubbed c sp bank row) = s.scrubbed c sp bank row := by rw [hgoes, if_neg (by decide)]
    refine Eq.trans ?_ (congrArg _ hstep)
    subst hrow
    exact (unit_of_true (by simp [hc, h2, h4, hb]) _).trans (due_of_true (by rw [hw, hdue]; rfl) _ _)
  refine ⟨_, hexec, by rw [hcore, AMap.get?_set_self], by rw [hcore, AMap.get?_set_self], fun hflips => ?_,
    .of_mem_eq (State.mem_eccRead ..) _⟩
  rw [State.scrubbed, State.eccRead_of_no_flips hflips]
  exact .refl s _

/-! ### ECC_INJECT_ARM (R143) -/

/-- SP_ECC_INJECT is none of the registers that the common end of a register access writes. -/
theorem not_busLogReg_eccInject {c : Nat} : ¬ busLogReg (SP_ECC_INJECT.addr c 0 0 0) := by
  rintro (h | h | h | ⟨e, w, he, hw, h⟩) <;>
  · simp only [Reg.addr, SP_ECC_INJECT, SYS_BUS_ERRORS, SYS_BUS_ERR_LAST, CFG_JOURNAL_NEXT, CFG_JOURNAL_e_Ww] at h
    omega

theorem eccInjectArm_spec {s : State} {src c : Nat} (v : Nat) (hc : c < 8) (hr : reaches s src (SP_ECC_INJECT.addr c 0 0 0)) :
    ∃ t, exec (.eccInjectArm src c v) s = .next t ∧ (t.rword SP_ECC_INJECT c).toNat = v % 2 ^ 11 ∧ t.lastAccess = ⟨stOK, 0⟩ ∧
      regsKept s t (loggedAnd [SP_ECC_INJECT.addr c 0 0 0]) ∧ memKept s t nowhere := by
  obtain ⟨hsrc, hup, hblk⟩ := hr
  have hkept : regsKept s (eccInjectEffect c (wrap 32 v) s).1 (anyOf [SP_ECC_INJECT.addr c 0 0 0]) :=
    fun a ha => State.get?_rset s _ _ _ _ _ _ (fun h => ha (List.mem_singleton.2 h))
  refine ⟨_, regCmd_eq (decide_eq_true hc) hsrc hup hblk, ?_, State.writeEnd_lastAccess .., State.writeEnd_regsKept hkept src 0xFF _ 4 _,
    .of_mem_eq (State.writeEnd_mem ..) _⟩
  have hword := State.rword_rset_self s SP_ECC_INJECT (BitVec.ofNat 64 (wrap 32 v % 2 ^ 11)) c 0 0 0
  rw [State.rword_congr (State.writeEnd_get? _ src 0xFF _ 4 _ not_busLogReg_eccInject), eccInjectEffect, hword, BitVec.toNat_ofNat, wrap]
  omega

/-- Settles O38, from one lemma for each of its four commands. -/
theorem scratchpadServiceCommandsAct : Obligations.ScratchpadServiceCommandsAct := by
  unfold Obligations.ScratchpadServiceCommandsAct
  exact ⟨fun _ _ _ _ _ hs hc hup h2 h4 hr he hdue hz => packhorseDrain_spec hs hc hup h2 h4 hr he hdue hz,
    fun _ _ _ _ _ _ hs hc hup h2 h4 hq ha hw => correctionWriteBack_spec hs hc hup h2 h4 hq ha hw,
    fun _ _ _ _ _ hc hcores h2 h4 hb hw hdue hrow hleft => scrubRead_spec hc hcores h2 h4 hb hw hdue hrow hleft,
    fun _ _ v _ hc hr => eccInjectArm_spec v hc hr⟩

end Sys2Proof.Machine
end

section
/-! SUPPORT. Mailbox claims: what a read of a mailbox answers and marks, and O24. -/

namespace Sys2Proof.Machine

/-! ### A read of a mailbox (R308) -/

/-- The current result is later than the number wanted, or is it, or none is wanted: it is answered, and marked SEEN. -/
theorem State.mbxRead_of_ready {s : State} {m w : Nat} (hq : s.fget QM_MBXm_STATE_SEQ m ≠ 0)
    (hw : ¬ (w ≠ 0 ∧ sub32 w (s.fget QM_MBXm_STATE_SEQ m) ≠ 0 ∧ sub32 w (s.fget QM_MBXm_STATE_SEQ m) < 2 ^ 31)) :
    s.mbxRead m w = (s.fset QM_MBXm_STATE_SEEN 1 m,
      ⟨s.readLE (s.mbxHeader m (s.fget QM_MBXm_STATE_HALF m) + 4) 1, s.fget QM_MBXm_STATE_SEQ m, true, s.fbit QM_MBXm_STATE_SEEN m,
        w ≠ 0 && sub32 w (s.fget QM_MBXm_STATE_SEQ m) ≠ 0, s.mbxPending m, s.fget QM_MBXm_STATE_HALF m⟩) := by
  unfold State.mbxRead
  dsimp only
  rw [if_neg hq, if_neg hw]

/-- With no result yet, or none as late as the one wanted, nothing is marked. -/
theorem State.mbxRead_of_notReady {s : State} {m w : Nat} (h : s.fget QM_MBXm_STATE_SEQ m = 0 ∨
      w ≠ 0 ∧ sub32 w (s.fget QM_MBXm_STATE_SEQ m) ≠ 0 ∧ sub32 w (s.fget QM_MBXm_STATE_SEQ m) < 2 ^ 31) :
    s.mbxRead m w = (s, ⟨stNotReady, s.fget QM_MBXm_STATE_SEQ m, false, false, false, s.mbxPending m, 0⟩) := by
  unfold State.mbxRead
  dsimp only
  split
  · next hq => rw [hq]
  · next hq => rw [if_pos (h.resolve_left hq)]

/-- Two sequence numbers differ by nothing where they are the same (R232). -/
theorem sub32_eq_zero_iff {a b : Nat} (ha : a < 2 ^ 32) (hb : b < 2 ^ 32) : sub32 a b = 0 ↔ a = b := by
  unfold sub32
  omega

/-! ### The claim's registers (R317) -/

/-- The word that a claim register shows for an answer. -/
def MbxRead.word (r : MbxRead) : Word := BitVec.ofNat 64 (r.seq + r.status * 2 ^ 32 + b2n r.seen * 2 ^ 40 +
  b2n r.overtaken * 2 ^ 41 + b2n r.pending * 2 ^ 42 + r.half * 2 ^ 43)

theorem b2n_lt (b : Bool) : b2n b < 2 := by cases b <;> decide

/-- Every part of an answer stands in its field. -/
theorem MbxRead.bits_word {r : MbxRead} (hseq : r.seq < 2 ^ 32) (hst : r.status < 2 ^ 8) (hhalf : r.half < 2) :
    bits r.word.toNat 0 32 = r.seq ∧ bits r.word.toNat 32 8 = r.status ∧ bits r.word.toNat 40 1 = b2n r.seen ∧
    bits r.word.toNat 43 1 = r.half := by
  have hseen := b2n_lt r.seen
  have hover := b2n_lt r.overtaken
  have hpend := b2n_lt r.pending
  simp only [MbxRead.word, bits, BitVec.toNat_ofNat, Nat.shiftRight_eq_div_pow]
  omega

/-- The registers of the queue unit are none that the common end of a register access writes. -/
theorem not_busLogReg_queueUnit {a : Nat} (h : 0x0100_0180_0000 ≤ a) : ¬ busLogReg a := by
  rintro (h' | h' | h' | ⟨e, w, he, hw, h'⟩) <;>
  · simp only [Reg.addr, SYS_BUS_ERRORS, SYS_BUS_ERR_LAST, CFG_JOURNAL_NEXT, CFG_JOURNAL_e_Ww] at h'
    omega

/-- A claim shows the answer of its read in the claim's register, and writes no register beside those that the read has written. -/
theorem mailboxClaim_shows {s u : State} {src k m w : Nat} {r : MbxRead} (hk : k < 8) (hm : m < 4096)
    (hr : reaches s src (QM_MBX_CLAIMk.addr k 0 0 0)) (hread : s.mbxRead m (w % 2 ^ 32) = (u, r)) (hseq : r.seq < 2 ^ 32)
    (hst : r.status < 2 ^ 8) (hhalf : r.half < 2) : ∃ t, exec (.mailboxClaim src k m w) s = .next t ∧
      t.fget QM_MBX_CLAIMk_RESULT_SEQ k = r.seq ∧ t.fget QM_MBX_CLAIMk_RESULT_STATUS k = r.status ∧
      t.fget QM_MBX_CLAIMk_RESULT_SEEN k = b2n r.seen ∧ t.fget QM_MBX_CLAIMk_RESULT_HALF k = r.half ∧
      t.fget QM_MBXm_STATE_SEEN m = u.fget QM_MBXm_STATE_SEEN m ∧ t.mem = u.mem := by
  obtain ⟨hsrc, hup, hblk⟩ := hr
  have heffect : mbxClaimEffect k m (wrap 32 w) s = (u.rset QM_MBX_CLAIMk_RESULT r.word k, stOK) := by
    rw [mbxClaimEffect, wrap, hread]
    rfl
  refine ⟨_, (regCmd_eq (by simp [hk, hm, mailboxCount]) hsrc hup hblk).trans (by rw [heffect]), ?_⟩
  generalize hv : u.rset QM_MBX_CLAIMk_RESULT r.word k = v
  have hkept {f : Field} (i : Nat) (hf : 0x0100_0180_0000 ≤ f.reg.base) :
      (State.writeEnd (v, stOK) src 0xFF (regAddr QM_MBX_CLAIMk k) 8 (m + wrap 32 w * 2 ^ 32)).fget f i = v.fget f i :=
    State.writeEnd_fget _ _ _ _ _ _ (not_busLogReg_queueUnit (Nat.le_trans hf (by unfold Reg.addr; omega)))
  have hword : v.rword QM_MBX_CLAIMk_RESULT k = r.word := hv ▸ State.rword_rset_self ..
  obtain ⟨hbseq, hbst, hbseen, hbhalf⟩ := MbxRead.bits_word hseq hst hhalf
  refine ⟨(hkept k (by decide)).trans ?_, (hkept k (by decide)).trans ?_, (hkept k (by decide)).trans ?_,
    (hkept k (by decide)).trans ?_, (hkept m (by decide)).trans ?_, (State.writeEnd_mem ..).trans (hv ▸ rfl)⟩
  · rw [State.fget, QM_MBX_CLAIMk_RESULT_SEQ, hword, hbseq]
  · rw [State.fget, QM_MBX_CLAIMk_RESULT_STATUS, hword, hbst]
  · rw [State.fget, QM_MBX_CLAIMk_RESULT_SEEN, hword, hbseen]
  · rw [State.fget, QM_MBX_CLAIMk_RESULT_HALF, hword, hbhalf]
  · have hne : QM_MBXm_STATE.addr m 0 0 0 ≠ QM_MBX_CLAIMk_RESULT.addr k 0 0 0 := by
      simp only [Reg.addr, QM_MBXm_STATE, QM_MBX_CLAIMk_RESULT]
      omega
    rw [← hv, State.fget, State.fget, QM_MBXm_STATE_SEEN, State.rword_rset_ne u r.word hne]

theorem readLE_one_lt (s : State) (a : Nat) : s.readLE a 1 < 2 ^ 8 := by
  have hbyte := (s.readByte a).isLt
  change leVal [s.readByte a] < _
  simp only [leVal]
  omega

theorem b2n_fbit (s : State) {f : Field} (hf : f.len = 1) (i : Nat) : b2n (s.fbit f i) = s.fget f i := by
  have hlt := s.fget_lt f i 0 0 0
  rw [hf] at hlt
  unfold State.fbit b2n
  split
  · next h => exact (beq_iff_eq.1 h).symm
  · next h => have := mt beq_iff_eq.2 h; omega

/-- Settles O24: the claim shows what `State.mbxRead` answers, ready or not. -/
theorem mailboxClaimsReadTheResult : Obligations.MailboxClaimsReadTheResult := by
  unfold Obligations.MailboxClaimsReadTheResult
  intro src k m w q s hk hm hr hq
  have hseq : q < 2 ^ 32 := hq ▸ s.fget_lt QM_MBXm_STATE_SEQ m 0 0 0
  have hsame := sub32_eq_zero_iff (Nat.mod_lt w (Nat.two_pow_pos 32)) hseq
  refine ⟨fun hq0 hw => ?_, fun hw => ?_⟩
  · have hread := State.mbxRead_of_ready (s := s) (m := m) (w := w % 2 ^ 32) (hq ▸ hq0) (by rw [← hq, ne_eq, ne_eq, hsame]; omega)
    obtain ⟨t, ht, hshown, hst, hseen, hhalf, hmark, hmem⟩ := mailboxClaim_shows hk hm hr hread (hq ▸ hseq) (readLE_one_lt s _)
      (s.fget_lt QM_MBXm_STATE_HALF m 0 0 0)
    refine ⟨t, ht, hshown.trans hq.symm, hst, hseen.trans (b2n_fbit s rfl m), hhalf, ?_, .of_mem_eq hmem _⟩
    exact (State.fbit_of_fget_eq hmark).trans (State.fbit_fset_one _ _ _ _ _ (by decide) rfl)
  · have hread := State.mbxRead_of_notReady (s := s) (m := m) (w := w % 2 ^ 32) (by rw [← hq, ne_eq, ne_eq, hsame]; exact hw)
    obtain ⟨t, ht, -, hst, -, -, hmark, hmem⟩ := mailboxClaim_shows hk hm hr hread (hq ▸ hseq)
      (by change stNotReady < 2 ^ 8; decide) Nat.two_pos
    exact ⟨t, ht, hst, hmark, .of_mem_eq hmem _⟩

end Sys2Proof.Machine
end

section
/-! SUPPORT. A mailbox's cancel and the parts that have ended: O25 fails, as no hypothesis of its third clause ties an ended part to a caravan
that is over. -/

namespace Sys2Proof.Machine

/-- A placed caravan that runs part 0 of mailbox 0, with its one chain descriptor still to be fetched. -/
def cancelCaravan : Caravan := { caravanOfDesc 0 0 0 with core := some 0, begun := true, len := 1 }

/-- The end of part 2, kept under the ring slot of that caravan. -/
def cancelPartEnd : PartEnd := ⟨2, stOK, true, 0, some cancelCaravan⟩

/-- A request of three parts is pending at mailbox 0: part 0 runs, part 1 has not begun, and part 2 has ended. -/
def cancelState : State :=
  let s := { State.reset with
    clk := { State.reset.clk with running := true, started := true }
    drover := { State.reset.drover with caravans := [cancelCaravan], parts := [(0, [cancelPartEnd])] } }
  ((s.fset QM_MBXm_CFG_PARTS 2).fset QM_MBXm_STATE_STATE 2).fset QM_MBXm_STATE_BEGUN 1

/-- Before the cancel part 2 has ended with OK. -/
theorem cancelState_partEnds : cancelState.partEnds 0 = [cancelPartEnd] := by decide

/-- The cancel kills the caravan that runs, and `State.failPart` then fails every ended part that is kept under its ring slot: part 2 too,
beside part 1, which ends unbegun. -/
theorem cancelState_cancelled (src : Nat) (hs : isSource src = true) : ∃ u, exec (.mailboxCancel src 0) cancelState = .next u ∧
    (u.partEnds 0).map (·.status) = [stKilled, stKilled] := by
  refine ⟨_, regCmd_eq (by decide) hs (by decide) (by decide), ?_⟩
  rw [State.partEnds, State.writeEnd_drover]
  decide

/-- Refutes O25: a cancel does not leave the parts that have ended as they were where one of them is kept under the ring slot of a caravan
that is killed (`cancelState`). `State.slotDone` keeps a part's end under the name `slotFree`, which no caravan at work has; the statement
has no hypothesis that says so. -/
theorem not_killsEndCaravans : ¬ Obligations.KillsEndCaravans := by
  unfold Obligations.KillsEndCaravans
  rintro ⟨-, -, hcancel⟩
  obtain ⟨t, ht, hends, -⟩ := hcancel 8 0 1 cancelState (by decide) ⟨by decide, by decide, by decide⟩ (by decide) (by decide) (by decide)
    (by decide) ⟨0, by decide, by decide, by decide⟩
  obtain ⟨u, hu, hkilled⟩ := cancelState_cancelled 8 (by decide)
  obtain rfl : t = u := by rw [hu] at ht; injection ht with h; exact h.symm
  rw [hends, cancelState_partEnds] at hkilled
  exact absurd hkilled (by decide)

end Sys2Proof.Machine
end

section
/-! SUPPORT. What the memory traffic of the serving loop leaves: saves, restores, copies and charges move bytes, count in the registers of
links, rations and banks, and touch no descriptor, no caravan and no mailbox. -/

namespace Sys2Proof.Machine

/-- The registers in which that traffic counts: those of the hub's blocks below the queue unit's, the queue unit's own counts of switches and
commits, and those of the engines and scratchpads of the cores, not of a core's tasks. -/
def trafficRegs (a : Nat) : Prop := a < 0x0100_0180_0000 ∨
  anyOf [QM_SWITCH_B.addr 0 0 0 0, QM_SWITCH_LAST.addr 0 0 0 0, QM_COMMIT_NEXT.addr 0 0 0 0] a ∨
  0x0102_0000_0000 ≤ a ∧ 0x1_0000 ≤ a % 0x100_0000

/-- A register of an engine or of the scratchpads of a core. -/
theorem trafficRegs_engine {r : Reg} (h : 0x0102_0000_0000 ≤ r.base ∧ r.s1 = 0x100_0000 ∧ 0x1_0000 ≤ r.base % 0x100_0000) (c : Nat) :
    trafficRegs (r.addr c 0 0 0) := by
  obtain ⟨hbase, hs, hoff⟩ := h
  refine .inr (.inr ?_)
  unfold Reg.addr
  rw [hs]
  omega

theorem trafficRegs_link {l a : Nat} (hl : l < 3) (h : linkRegs l a) : trafficRegs a := by
  left
  simp only [linkRegs, anyOf, Reg.addr, FCU_INJECT, D2D_Ln_STATUS, D2D_Ln_REPLAYS, D2D_Ln_TX_B, D2D_Ln_RX_B, List.mem_cons,
    List.not_mem_nil, or_false] at h
  omega

theorem trafficRegs_rationUsed {c : Nat} (hc : c < 16) : trafficRegs (SYS_RATION_c_USED.addr c 0 0 0) := .inl (by
  simp only [Reg.addr, SYS_RATION_c_USED]
  omega)

/-- `t` is reached from `s` by such traffic. -/
structure Traffic (s t : State) : Prop where
  drover : t.drover = s.drover
  refTick : t.refTick = s.refTick
  length : t.cores.length = s.cores.length
  curves : ∀ c, (t.coreAt c).curves = (s.coreAt c).curves
  regs : regsKept s t trafficRegs

theorem State.RegsReports.refTick {s t : State} (h : s.RegsReports t) : t.refTick = s.refTick := by
  obtain ⟨r, f, rfl⟩ := h
  rfl

theorem hubLinkOf_lt (a : Nat) : hubLinkOf a < 3 := by
  unfold hubLinkOf
  split <;> decide

namespace Traffic

variable {s t u : State}

theorem refl (s : State) : Traffic s s := ⟨rfl, rfl, rfl, fun _ => rfl, .refl s _⟩

theorem ite {p : Prop} [Decidable p] (ht : Traffic s t) (hu : Traffic s u) : Traffic s (if p then t else u) := by
  split <;> assumption

theorem foldl {α : Type} {l : List α} {f : State → α → State} (h : Traffic s t) (hf : ∀ u x, Traffic s u → Traffic s (f u x)) :
    Traffic s (l.foldl f t) :=
  List.foldlRecOn (motive := Traffic s) l f h (fun u hu x _ => hf u x hu)

/-- A run over a list whose steps carry something beside the state. -/
theorem foldl_fst {α β : Type} {l : List α} {f : State × β → α → State × β} {q : State × β} (h : Traffic s q.1)
    (hf : ∀ p x, x ∈ l → Traffic s p.1 → Traffic s (f p x).1) : Traffic s (l.foldl f q).1 :=
  List.foldlRecOn (motive := fun p => Traffic s p.1) l f h (fun p hp x hx => hf p x hx hp)

section
variable (h : Traffic s t)
include h

/-! ### Changes of one field of the state -/

/-- Changes of memories, marks, rations, reports and whatever else is not named. -/
theorem of_rest (hd : u.drover = t.drover := by rfl) (hr : u.refTick = t.refTick := by rfl) (hc : u.cores = t.cores := by rfl)
    (hg : u.regs = t.regs := by rfl) : Traffic s u where
  drover := hd.trans h.drover
  refTick := hr.trans h.refTick
  length := (congrArg List.length hc).trans h.length
  curves c := by simpa only [State.coreAt, hc] using h.curves c
  regs := h.regs.of_regs_eq hg

theorem of_regsReports (hu : t.RegsReports u) (hr : regsKept t u trafficRegs) : Traffic s u where
  drover := hu.drover.trans h.drover
  refTick := hu.refTick.trans h.refTick
  length := (congrArg List.length hu.cores).trans h.length
  curves c := by rw [hu.coreAt, h.curves]
  regs := h.regs.trans hr

theorem rset {r : Reg} {w : Word} {i j k l : Nat} (hr : trafficRegs (r.addr i j k l)) : Traffic s (t.rset r w i j k l) :=
  ⟨h.drover, h.refTick, h.length, h.curves,
    fun a ha => (State.get?_rset t r w i j k l (a := a) (fun e => ha (e ▸ hr))).trans (h.regs a ha)⟩

theorem fset {f : Field} {v i j k l : Nat} (hf : trafficRegs (f.reg.addr i j k l)) : Traffic s (t.fset f v i j k l) := rset h hf

theorem fadd {f : Field} {n i j k l : Nat} (hf : trafficRegs (f.reg.addr i j k l)) : Traffic s (t.fadd f n i j k l) := fset h hf

/-- A count of an engine or of the scratchpads of a core. -/
theorem fsetEngine {f : Field} {v c : Nat}
    (hf : 0x0102_0000_0000 ≤ f.reg.base ∧ f.reg.s1 = 0x100_0000 ∧ 0x1_0000 ≤ f.reg.base % 0x100_0000 := by decide) :
    Traffic s (t.fset f v c) := fset h (trafficRegs_engine hf c)

theorem modCore {c : Nat} {g : CoreState → CoreState} (hg : ∀ k, (g k).curves = k.curves) : Traffic s (t.modCore c g) where
  drover := h.drover
  refTick := h.refTick
  length := (length_modAt ..).trans h.length
  curves c' := by
    rw [State.coreAt_modCore]
    split
    · rw [hg, h.curves]
    · exact h.curves c'
  regs := h.regs

/-! ### Links and memories (R15, R21, R261, R274) -/

theorem linkTx {l n : Nat} (hl : l < 3) : Traffic s (t.linkTx l n) :=
  h.of_regsReports (t.linkTx_regsReports l n) ((t.linkTx_regsKept l n).mono (fun _ => trafficRegs_link hl))

theorem linkRx {l n : Nat} (hl : l < 3) : Traffic s (t.linkRx l n) :=
  h.of_regsReports (t.linkRx_regsReports l n) ((t.linkRx_regsKept l n).mono (fun _ => trafficRegs_link hl))

theorem crossLink {c a n : Nat} {write : Bool} : Traffic s (t.crossLink c a n write) :=
  .ite h (.ite (h.linkTx (by decide)) (h.linkRx (by decide)))

theorem hubRead {a n : Nat} : Traffic s (t.hubRead a n) := by
  have hrx : Traffic s (t.linkRx (hubLinkOf a) n) := h.linkRx (hubLinkOf_lt a)
  exact .ite h (hrx.of_regsReports (State.injectCheck_regsReports ..) (State.injectCheck_regsKept _ _ _ _ _ _ (.inl (by decide))))

theorem wcWrite {a n : Nat} : Traffic s (t.wcWrite a n) := by
  have hk : trafficRegs (SYS_WCk_INVALIDATIONS.addr (if a < dram0End then 0 else 1) 0 0 0) := .inl (by split <;> decide)
  exact .ite h (.foldl h (fun _ _ hu => .ite (.fadd hu.of_rest hk) hu))

theorem dramWrite {a : Nat} {bs : List Byte} : Traffic s (t.dramWrite a bs) :=
  .wcWrite (.foldl h.of_rest (fun _ _ hu => .ite hu.of_rest hu))

theorem dramWriteMarked {a : Nat} {bs : List Byte} {marks : List Nat} : Traffic s (t.dramWriteMarked a bs marks) :=
  .foldl h.dramWrite (fun _ _ hu => hu.of_rest)

theorem hubWrite {a : Nat} {bs : List Byte} : Traffic s (t.hubWrite a bs) := h.dramWrite.linkTx (hubLinkOf_lt a)

/-! ### Banks (R126, R138, R139, R150) -/

theorem eccFound {c sp a syn : Nat} : Traffic s (t.eccFound c sp a syn none) := by
  unfold State.eccFound
  extract_lets un off t1 cap t2 t3 cls
  have h1 : Traffic s t1 := .ite (.fsetEngine (.fsetEngine h)) (.fsetEngine (.fsetEngine h))
  have h2 : Traffic s t2 := .ite h1 (.rset h1 (trafficRegs_engine (by decide) c))
  have h3 : Traffic s t3 := .modCore h2 (fun _ => rfl)
  exact h3.of_rest

theorem eccRead {c sp b n : Nat} : Traffic s (t.eccRead c sp b n none) := .ite h (.foldl h (fun _ _ hu => hu.eccFound))

theorem bankWord {c sp r x i : Nat} {ws : List (Option (Nat × Bool))} : Traffic s (t.bankWord c sp r x ws i) := by
  rw [State.bankWord_eq]
  cases ws.getD i none with
  | none => exact h
  | some w =>
    have hput : Traffic s (t.putWord (rowAddr c sp r + 8 * i) x w.1 w.2) := h.of_rest
    exact hput.modCore (fun _ => rfl)

theorem bankWrite {c sp r : Nat} {ws : List (Option (Nat × Bool))} {st : StampOp} : Traffic s (t.bankWrite c sp r ws st) := by
  unfold State.bankWrite
  extract_lets inj x t1 t2
  have h1 : Traffic s t1 := .ite (.fsetEngine h) h
  have h2 : Traffic s t2 := .foldl h1 (fun u i hu => hu.bankWord (c := c) (sp := sp) (r := r) (x := x) (i := i) (ws := ws))
  cases st <;> exact h2.of_rest

theorem rowWrite {c sp r : Nat} {ws : List (Option (Nat × Bool))} {st : StampOp} {task : Option Nat} :
    Traffic s (t.rowWrite c sp r ws st task none) :=
  .ite (.of_rest (.fsetEngine (.fsetEngine h (f := SP_ZERO_DISCARDS_COUNT)) (f := SP_STATUS_ZERO_DISCARD_SEEN))) h.bankWrite

theorem spWriteWords {c sp b : Nat} {ws : List (Nat × Bool)} {st : StampOp} {task : Option Nat} :
    Traffic s (t.spWriteWords c sp b ws st task none) := .foldl h (fun _ _ hu => hu.rowWrite)

/-! ### Charges (R278 to R281) -/

theorem markExhausted {c : Nat} : Traffic s (t.markExhausted c) := by
  have hst : trafficRegs (SYS_RATION_STATUS.addr 0 0 0 0) := .inl (by decide)
  exact .ite (.fset (.fset h hst) hst) (.fset h hst)

theorem borrow {c n : Nat} (hc : c < 16) : Traffic s (t.borrow c n).1 := by
  unfold State.borrow
  split
  · refine .foldl_fst h (fun q l hl hq => ?_)
    dsimp only
    split
    · exact hq
    · exact .fadd (.markExhausted (.fadd hq (trafficRegs_rationUsed (List.mem_range.1 hl)))) (trafficRegs_rationUsed hc)
  · exact h

theorem holdTx {c n : Nat} {op : HeldOp} (hc : c < 16) : Traffic s (t.holdTx c n op) := by
  have hw : trafficRegs (SYS_RATION_c_WAITS.addr c 0 0 0) := .inl (by
    simp only [Reg.addr, SYS_RATION_c_WAITS]
    omega)
  exact .ite h (.of_rest (.ite h (.fadd h hw)))

theorem chargeTx {c n : Nat} {op : HeldOp} (hc : c < 16) : Traffic s (t.chargeTx c n op) :=
  .ite (h.holdTx hc) (.holdTx (.borrow (.markExhausted (.fadd h (trafficRegs_rationUsed hc))) hc) hc)

theorem outstandingMax {c n : Nat} : Traffic s (t.outstandingMax c n) := .ite h (.ite (.fsetEngine h.of_rest) h.of_rest)

/-! ### Live state (R295 to R298) -/

theorem dramWritePoison {a : Nat} {bs : List (Byte × Bool)} : Traffic s (t.dramWritePoison a bs) := h.dramWriteMarked

theorem eccLive {c e : Nat} {base : List Nat} : Traffic s (t.eccLive c e base) := .foldl h (fun _ _ hu => hu.eccRead)

theorem switchBytes {n : Nat} : Traffic s (t.fadd QM_SWITCH_B_COUNT n) := .fadd h (.inr (.inl (.head _)))

theorem saveLive {c e : Nat} {base : List Nat} : Traffic s (t.saveLive c e base) := h.eccLive.dramWrite.dramWritePoison.crossLink.switchBytes

theorem setResident {c : Nat} {r : Option Resident} : Traffic s (t.setResident c r) := h.modCore (fun _ => rfl)

theorem rebaseLive {c : Nat} {base : List Nat} : Traffic s (t.rebaseLive c base) := h.modCore (fun _ => rfl)

theorem restoreLive {c e : Nat} {base : List Nat} : Traffic s (t.restoreLive c e base) := by
  unfold State.restoreLive
  extract_lets a r ctx t'
  have hregions : Traffic s r.1 := .foldl_fst h (fun _ _ _ hq => hq.spWriteWords)
  exact (hregions.modCore (g := fun k => { k with ctx := ctx }) (fun _ => rfl)).crossLink.switchBytes

theorem saveDirty {c : Nat} : Traffic s (t.saveDirty c).1 := by
  unfold State.saveDirty
  split
  · split
    · exact h.saveLive.setResident
    · exact h
  · exact h

theorem switchTime {own cross : Nat} : Traffic s (t.switchTime own cross).1 := by
  unfold State.switchTime
  split
  · exact h
  · exact h.of_rest

theorem switchCore {c e : Nat} {l : TaskLatch} : Traffic s (t.switchCore c e l) := by
  unfold State.switchCore
  extract_lets x here other q1 t1 q2 need t2 far back own cross r
  have hq1 : Traffic s q1.1 := by
    dsimp only [q1]
    split
    · exact h.saveDirty
    · exact h
  have h1 : Traffic s t1 := .ite hq1.rebaseLive hq1.setResident
  have hq2 : Traffic s q2.1 := .foldl_fst h1 (fun q d _ hq => by
    dsimp only
    split <;> exact hq.saveDirty.setResident)
  have h2 : Traffic s t2 := .ite hq2.restoreLive.setResident hq2
  have hlast : trafficRegs (QM_SWITCH_LAST.addr 0 0 0 0) := .inr (.inl (.tail _ (.head _)))
  exact .fset (.fset h2.switchTime hlast) hlast

/-! ### The digest's reads, and a core's phase (R302, R416) -/

theorem digestTraffic {k : Caravan} {c : Nat} (hc : c < 16) : Traffic s (t.digestTraffic k c) := by
  unfold State.digestTraffic
  extract_lets m sheet n rd q
  have hrd {p : State × Nat} (a len : Nat) (hp : Traffic s p.1) : Traffic s (rd p a len).1 := hp.crossLink.chargeTx hc
  have hq : Traffic s q.1 := .foldl_fst (hrd _ _ h) (fun _ _ _ hp => hrd _ _ hp)
  exact hq.outstandingMax

theorem setPhase {c p : Nat} (hc : c < 8) : Traffic s (t.setPhase c p) := by
  have hphase : trafficRegs (PWR_CORE_c.addr c 0 0 0) := .inl (by
    simp only [Reg.addr, PWR_CORE_c]
    omega)
  exact .fset h.of_rest hphase

/-! ### The commit sequence (R208, R310, R312) -/

theorem stateCopy {k : Caravan} {hd : Nat} : Traffic s (t.stateCopy k hd) := by
  unfold State.stateCopy
  extract_lets a entries n marks
  exact .ite (h.hubRead.dramWriteMarked.linkTx (hubLinkOf_lt a)) h.of_rest

theorem commitPart {k : Caravan} {c : Nat} : Traffic s (t.commitPart k c).1 := by
  unfold State.commitPart
  extract_lets e dg t1 base base'
  have h1 : Traffic s t1 := by
    dsimp only [t1]
    split
    · exact h.stateCopy
    · exact h
  split
  · exact h1
  · split
    · exact h1.saveLive.setResident
    · exact h1.setResident

theorem publish {rec_ : List Byte} : Traffic s (t.publish rec_) := by
  unfold State.publish
  extract_lets i t1
  have h1 : Traffic s t1 := .ite h.hubWrite h
  exact .fset h1 (.inr (.inl (.tail _ (.tail _ (.head _)))))

end
end Traffic

end Sys2Proof.Machine
end

section
/-! SUPPORT. The last part of a request: its completion record is posted, its slot is free, and the request is committed. O17. -/

namespace Sys2Proof.Machine

/-! ### What leaves the mailboxes -/

/-- The registers beside CFG and STATE of the mailboxes (R318). -/
def offMailboxes (a : Nat) : Prop := a < 0x0100_0181_0000 ∨ 0x0100_0182_0000 ≤ a

theorem offMailboxes_of_traffic {a : Nat} (h : trafficRegs a) : offMailboxes a := by
  unfold offMailboxes
  rcases h with h | h | h
  · omega
  · simp only [anyOf, Reg.addr, QM_SWITCH_B, QM_SWITCH_LAST, QM_COMMIT_NEXT, List.mem_cons, List.not_mem_nil, or_false] at h
    omega
  · omega

theorem offMailboxes_of_base {r : Reg} (h : 0x0100_0182_0000 ≤ r.base) (i j k l : Nat) : offMailboxes (r.addr i j k l) :=
  .inr (Nat.le_trans h (by unfold Reg.addr; omega))

theorem not_offMailboxes {m : Nat} (hm : m < 4096) :
    ¬ offMailboxes (QM_MBXm_CFG.addr m 0 0 0) ∧ ¬ offMailboxes (QM_MBXm_STATE.addr m 0 0 0) := by
  simp only [offMailboxes, Reg.addr, QM_MBXm_CFG, QM_MBXm_STATE]
  omega

/-- `t` has the mailboxes, the caravans and the ended parts of `s`. -/
structure MailboxesKept (s t : State) : Prop where
  caravans : t.drover.caravans = s.drover.caravans
  parts : t.drover.parts = s.drover.parts
  regs : regsKept s t offMailboxes

namespace MailboxesKept

variable {s t u : State}

theorem refl (s : State) : MailboxesKept s s := ⟨rfl, rfl, .refl s _⟩

theorem ite {p : Prop} [Decidable p] (ht : MailboxesKept s t) (hu : MailboxesKept s u) : MailboxesKept s (if p then t else u) := by
  split <;> assumption

section
variable (h : MailboxesKept s t)
include h

theorem traffic (hu : Traffic t u) : MailboxesKept s u where
  caravans := (congrArg Drover.caravans hu.drover).trans h.caravans
  parts := (congrArg Drover.parts hu.drover).trans h.parts
  regs := h.regs.trans (hu.regs.mono (fun _ => offMailboxes_of_traffic))

theorem fset {f : Field} {v i j k l : Nat} (hf : offMailboxes (f.reg.addr i j k l)) : MailboxesKept s (t.fset f v i j k l) :=
  ⟨h.caravans, h.parts, h.regs.fset v hf⟩

/-- A field of a queue's registers. -/
theorem fsetQueue {f : Field} {v q : Nat} (hf : 0x0100_0182_0000 ≤ f.reg.base := by decide) : MailboxesKept s (t.fset f v q) :=
  h.fset (offMailboxes_of_base hf ..)

/-- A status or a count of the queue unit, or an interrupt. -/
theorem fsetUnit {f : Field} {v : Nat} (hf : f.reg.addr 0 0 0 0 < 0x0100_0181_0000 := by decide) : MailboxesKept s (t.fset f v) :=
  h.fset (.inl hf)

theorem haltQueue {q cause : Nat} : MailboxesKept s (t.haltQueue q cause) := .ite h (.fsetQueue (.fsetQueue h))

theorem updateDrained {q : Nat} : MailboxesKept s (t.updateDrained q) := .ite (.fsetQueue h) h

theorem postRecord {ring : Nat} {f : Flight} : MailboxesKept s (t.postRecord ring f) := by
  unfold State.postRecord
  extract_lets i n t1 t2 t3
  have h2 : MailboxesKept s t2 := .fsetQueue (h.traffic (.hubWrite (.refl t)))
  have h3 : MailboxesKept s t3 := .ite (.fsetUnit (.fsetQueue h2)) (.fsetQueue h2)
  exact .ite (.fsetUnit (.fsetUnit (.fsetQueue h3) (f := QM_STATUS_NOTIFY_PENDING)) (f := SYS_IRQ_PENDING_QM_NOTIFY)) h3

theorem retire {f : Flight} : MailboxesKept s (t.retire f) := by
  unfold State.retire
  extract_lets q last t1 t2 t3 t4
  have h1 : MailboxesKept s t1 := ⟨h.caravans, h.parts, h.regs⟩
  have h2 : MailboxesKept s t2 := .fsetQueue (.fsetUnit h1)
  have h3 : MailboxesKept s t3 := .ite (.fsetQueue h2) h2
  have h4 : MailboxesKept s t4 := .ite (.fsetQueue (.fsetQueue h3.haltQueue)) h3
  exact .ite h4.haltQueue h4

theorem fget {f : Field} {m : Nat} (hm : m < 4096)
    (hf : f.reg = QM_MBXm_STATE ∨ f.reg = QM_MBXm_CFG := by decide) : t.fget f m = s.fget f m := by
  obtain ⟨hcfg, hstate⟩ := not_offMailboxes hm
  refine h.regs.fget ?_
  rcases hf with hf | hf <;> rw [hf] <;> assumption

end
end MailboxesKept

/-! ### The flip (R306, R307) -/

/-- The fields of a mailbox that the flip sets. -/
def State.flipFields (s : State) (m seq half : Nat) : State :=
  ((((s.fset QM_MBXm_STATE_SEQ seq m).fset QM_MBXm_STATE_STATE 1 m).fset QM_MBXm_STATE_SEEN 0 m).fset QM_MBXm_STATE_HALF half m).fset
    QM_MBXm_STATE_BEGUN 0 m

theorem State.flip_eq (s : State) (m : Nat) (l : List PartEnd) (v : Bool) : ∃ u, Traffic s u ∧ s.flip m l v =
    (u.flipFields m (nextSeq (s.fget QM_MBXm_STATE_SEQ m)) (1 - s.fget QM_MBXm_STATE_HALF m)).setPartEnds m [] :=
  ⟨_, Traffic.hubWrite (.refl s), rfl⟩

theorem State.flipFields_spec (s : State) (m : Nat) {seq half : Nat} (hseq : seq < 2 ^ 32) (hhalf : half < 2) {t : State}
    (ht : t = s.flipFields m seq half) : t.fget QM_MBXm_STATE_SEQ m = seq ∧ t.fget QM_MBXm_STATE_STATE m = 1 ∧
    t.fget QM_MBXm_STATE_SEEN m = 0 ∧ t.fget QM_MBXm_STATE_HALF m = half := by
  subst ht
  have hother {f g : Field} (u : State) (v : Nat) (hr : g.reg = f.reg) (h : g.lo + g.len ≤ f.lo ∨ f.lo + f.len ≤ g.lo) :
      (u.fset f v m).fget g m = u.fget g m := State.fget_fset_other u v m 0 0 0 hr h
  have hself {f : Field} (u : State) (v : Nat) (h : f.lo + f.len ≤ 64) : (u.fset f v m).fget f m = v % 2 ^ f.len :=
    State.fget_fset_self u v m 0 0 0 h
  unfold State.flipFields
  refine ⟨?_, ?_, ?_, ?_⟩
  · rw [hother _ _ (by rfl) (by decide), hother _ _ (by rfl) (by decide), hother _ _ (by rfl) (by decide),
      hother _ _ (by rfl) (by decide), hself _ _ (by decide)]
    exact Nat.mod_eq_of_lt hseq
  · rw [hother _ _ (by rfl) (by decide), hother _ _ (by rfl) (by decide), hother _ _ (by rfl) (by decide), hself _ _ (by decide)]
    rfl
  · rw [hother _ _ (by rfl) (by decide), hother _ _ (by rfl) (by decide), hself _ _ (by decide)]
    rfl
  · rw [hother _ _ (by rfl) (by decide), hself _ _ (by decide)]
    exact Nat.mod_eq_of_lt hhalf

theorem nextSeq_lt {q : Nat} (h : q < 2 ^ 32) : nextSeq q < 2 ^ 32 := by
  unfold nextSeq
  split <;> omega

/-- The next sequence number, READY and not SEEN, and the half that was not current. -/
def State.FlippedFrom (t s : State) (m : Nat) : Prop :=
  t.fget QM_MBXm_STATE_SEQ m = nextSeq (s.fget QM_MBXm_STATE_SEQ m) ∧ t.fget QM_MBXm_STATE_STATE m = 1 ∧
    t.fget QM_MBXm_STATE_SEEN m = 0 ∧ t.fget QM_MBXm_STATE_HALF m = 1 - s.fget QM_MBXm_STATE_HALF m

/-- Whoever has the mailbox's STATE as a flipped state has it has it flipped. -/
theorem State.FlippedFrom.congr {s t u : State} {m : Nat} (h : t.FlippedFrom s m)
    (hu : ∀ f : Field, f.reg = QM_MBXm_STATE → u.fget f m = t.fget f m) : u.FlippedFrom s m := by
  obtain ⟨h1, h2, h3, h4⟩ := h
  exact ⟨(hu _ rfl).trans h1, (hu _ rfl).trans h2, (hu _ rfl).trans h3, (hu _ rfl).trans h4⟩

theorem State.flipFields_drover (s : State) (m seq half : Nat) : (s.flipFields m seq half).drover = s.drover := by
  simp only [State.flipFields, State.drover_fset]

theorem State.setPartEnds_frame (s : State) (m : Nat) (l : List PartEnd) : (s.setPartEnds m l).regs = s.regs ∧
    (s.setPartEnds m l).drover.caravans = s.drover.caravans := ⟨rfl, rfl⟩

theorem State.flip_spec (s : State) (m : Nat) (l : List PartEnd) (v : Bool) :
    (s.flip m l v).FlippedFrom s m ∧ (s.flip m l v).drover.caravans = s.drover.caravans := by
  obtain ⟨u, hu, hflip⟩ := s.flip_eq m l v
  have hseq : nextSeq (s.fget QM_MBXm_STATE_SEQ m) < 2 ^ 32 := nextSeq_lt (s.fget_lt QM_MBXm_STATE_SEQ m 0 0 0)
  have hhalf : 1 - s.fget QM_MBXm_STATE_HALF m < 2 := by omega
  generalize hw : u.flipFields m (nextSeq (s.fget QM_MBXm_STATE_SEQ m)) (1 - s.fget QM_MBXm_STATE_HALF m) = w at hflip
  have hflipped : w.FlippedFrom s m := u.flipFields_spec m hseq hhalf hw.symm
  have hdrover : w.drover = s.drover := hw ▸ (u.flipFields_drover ..).trans hu.drover
  obtain ⟨hregs, hcaravans⟩ := w.setPartEnds_frame m []
  rw [hflip]
  exact ⟨hflipped.congr (fun f _ => State.fget_of_regs_eq hregs ..), hcaravans.trans (congrArg Drover.caravans hdrover)⟩

/-! ### The commit (R310) -/

/-- After its flip a commit is traffic and, at its end, the release of the request's caravans. -/
theorem State.commit_eq (s : State) (m : Nat) (l : List PartEnd) : ∃ u, Traffic (s.flip m l true) u ∧
    s.commit m l = u.releaseRequest l := by
  unfold State.commit
  extract_lets t runs t' q
  have ht' : Traffic t t' := .foldl (.refl t) (fun _ _ hu => hu.hubWrite)
  have hq : Traffic t q.1 := .foldl_fst ht' (fun _ _ _ hp => hp.commitPart)
  exact ⟨_, .foldl hq (fun _ _ hu => hu.publish), rfl⟩

/-- What a commit shows of its mailbox, and which caravans it leaves. -/
theorem State.commit_spec (s : State) {m : Nat} (hm : m < 4096) (l : List PartEnd) : (s.commit m l).FlippedFrom s m ∧
    (s.commit m l).drover.caravans = s.drover.caravans.filter (fun k =>
      !l.any (fun x => x.run.elim false (fun r => r.queue == k.queue && r.index == k.index))) := by
  obtain ⟨u, hu, hcommit⟩ := s.commit_eq m l
  obtain ⟨hflipped, hcaravans⟩ := s.flip_spec m l true
  have hkept := (MailboxesKept.refl _).traffic hu
  rw [hcommit]
  refine ⟨(hflipped.congr (fun f hf => hkept.fget hm (.inl hf))).congr (fun f _ => State.fget_of_regs_eq rfl ..), ?_⟩
  exact congrArg (List.filter _) (hkept.caravans.trans hcaravans)

/-- A pending request of one part resolves with the end of that part, and is committed where the part has succeeded (R307). -/
theorem State.resolve_of_onePart {s : State} {m : Nat} {x : PartEnd} (hpend : s.mbxPending m = true) (hparts : s.mbxParts m = 1)
    (hends : s.partEnds m = [x]) (hpart : x.part = 0) (hok : x.ok = true) : s.resolve m = s.commit m [x] := by
  unfold State.resolve
  simp [hpend, hparts, hends, hpart, hok, List.range_one]

/-! ### The slot of a caravan's last descriptor (R288) -/

/-- A caravan whose slot is free. -/
def Caravan.freed (x : Caravan) (k : Caravan) : Caravan := { x with posted := true, index := slotFree k }

/-- The end of a part that has succeeded: what R288 keeps of it. -/
def Caravan.partEnd (k : Caravan) : PartEnd :=
  ⟨k.part, k.statuses.foldl worse stOK, true, k.lenB, some { k with statuses := [], ended := true }⟩

theorem State.endPart_of_ok {s : State} {k : Caravan} (hc : k.core.isSome = true) (hst : k.statuses.all delivers = true) :
    s.endPart k = (s.setPartEnds k.mailbox (s.partEnds k.mailbox ++ [k.partEnd])).resolve k.mailbox := by
  simp only [State.endPart, Caravan.partEnd, hc, hst, Bool.and_self, if_true]

/-- The last descriptor of a begun caravan retires: its slot is free, and its part has ended. -/
def State.partOver (s : State) (f : Flight) (k : Caravan) : State :=
  (s.modCaravan f.queue f.index (fun x => x.freed k)).setPartEnds k.mailbox (s.partEnds k.mailbox ++ [{ k with index := slotFree k }.partEnd])

theorem State.slotDone_of_last {s : State} {f : Flight} {k : Caravan} {c : Nat} (hk : s.caravanOf f = some k) (hc : k.core = some c)
    (hlast : f.pos = k.len) (hbegun : k.begun = true) (hst : k.statuses.all delivers = true) :
    s.slotDone f = (s.partOver f k).resolve k.mailbox := by
  unfold State.slotDone
  rw [hk]
  dsimp only
  rw [hlast, beq_self_eq_true, Bool.or_true, if_pos rfl, if_pos hbegun]
  exact State.endPart_of_ok (k := { k with index := slotFree k }) (congrArg Option.isSome hc) hst

theorem State.partOver_frame (s : State) (f : Flight) (k : Caravan) : (s.partOver f k).regs = s.regs ∧
    (s.partOver f k).drover.caravans = s.drover.caravans.map (fun x => if x.queue = f.queue ∧ x.index = f.index then x.freed k else x) :=
  ⟨rfl, rfl⟩

theorem State.partEnds_setPartEnds_self (s : State) (m : Nat) {l : List PartEnd} (h : l ≠ []) : (s.setPartEnds m l).partEnds m = l := by
  rw [State.partEnds, State.setPartEnds, if_neg h, AMap.get?_set_self, Option.getD_some]

/-- A caravan of a descriptor's slot has its queue and its index. -/
theorem State.slot_of_caravanOf {s : State} {f : Flight} {k : Caravan} (h : s.caravanOf f = some k) :
    k.queue = f.queue ∧ k.index = f.index := by
  simpa using List.find?_some h

/-- Where the only part of a request ends, no caravan is left in the slot of the caravan that ran it: each is freed, and its name released. -/
theorem slot_left {l : List Caravan} {f : Flight} {k : Caravan} {x : Caravan}
    (hx : x ∈ (l.map (fun x => if x.queue = f.queue ∧ x.index = f.index then x.freed k else x)).filter (fun x =>
      !List.any [{ k with index := slotFree k }.partEnd] (fun e => e.run.elim false (fun r => r.queue == x.queue && r.index == x.index))))
    (hk : k.queue = f.queue ∧ k.index = f.index) (hq : x.queue = k.queue) : x.index ≠ k.index := by
  intro hi
  obtain ⟨hmem, hnot⟩ := List.mem_filter.1 hx
  obtain ⟨y, -, rfl⟩ := List.mem_map.1 hmem
  split at hq
  · next h => simp [Caravan.partEnd, Caravan.freed, hk.1, h] at hnot
  · next h => rw [if_neg h] at hi; exact h ⟨hq.trans hk.1, hi.trans hk.2⟩

/-- COMPLETION_RECORD_POST of a queue whose oldest descriptor has completed, into a ring that takes the record (R244). -/
theorem exec_completionRecordPost {s : State} {q : Nat} {f : Flight} {l : List Flight} (hq : q < 65536) (hw : s.works = true)
    (hf : s.flightsOf q = f :: l) (hdone : f.stage = .done) (hrep : s.fcu.reports.any (fun r => r.ref == some f.ref) = false)
    (htakes : s.ringTakes (s.fget QM_Qq_CFG_COMPL_QUEUE q) = true) : exec (.completionRecordPost q) s =
      .next ((((s.postRecord (s.fget QM_Qq_CFG_COMPL_QUEUE q) f).retire f).slotDone f).updateDrained q) := by
  change execCompletionRecordPost q s = _
  rw [execCompletionRecordPost, unit_of_true (decide_eq_true hq), hf]
  dsimp only
  rw [if_pos htakes]
  exact due_of_true (by rw [hw, hdone, hrep]; rfl) _ _

/-- Settles O17: the record's posting and retirement leave the mailbox, and the part that then ends resolves its request. -/
theorem lastPartFlipsTheMailbox : Obligations.LastPartFlipsTheMailbox := by
  unfold Obligations.LastPartFlipsTheMailbox
  intro q c f l k s hq hw hf hdone hrep htakes hk hc hlast hbegun hst hm hpart hpend hparts hends
  refine ⟨_, exec_completionRecordPost hq hw hf hdone hrep htakes, ?_⟩
  have hret : MailboxesKept s ((s.postRecord (s.fget QM_Qq_CFG_COMPL_QUEUE q) f).retire f) := (MailboxesKept.refl s).postRecord.retire
  generalize (s.postRecord (s.fget QM_Qq_CFG_COMPL_QUEUE q) f).retire f = u at *
  have hku : u.caravanOf f = some k := by rw [State.caravanOf, State.caravan?, hret.caravans]; exact hk
  have hendsu : u.partEnds k.mailbox = [] := by rw [State.partEnds, hret.parts]; exact hends
  obtain ⟨hregs, hcaravans⟩ := u.partOver_frame f k
  have hkept {g : Field} (hg : g.reg = QM_MBXm_STATE ∨ g.reg = QM_MBXm_CFG) : (u.partOver f k).fget g k.mailbox = s.fget g k.mailbox :=
    (State.fget_of_regs_eq hregs ..).trans (hret.fget hm hg)
  have hover : (u.partOver f k).resolve k.mailbox = (u.partOver f k).commit k.mailbox [{ k with index := slotFree k }.partEnd] := by
    refine State.resolve_of_onePart ?_ ?_ ?_ hpart rfl
    · rw [State.mbxPending, hkept (.inl rfl)]
      exact hpend
    · rw [State.mbxParts, hkept (.inr rfl)]
      exact hparts
    · rw [State.partOver, hendsu]
      exact State.partEnds_setPartEnds_self _ _ (List.cons_ne_nil _ _)
  obtain ⟨hflipped, hleft⟩ := (u.partOver f k).commit_spec hm [{ k with index := slotFree k }.partEnd]
  rw [State.slotDone_of_last hku hc hlast hbegun hst, hover]
  have hdrained : MailboxesKept _ (((u.partOver f k).commit k.mailbox [{ k with index := slotFree k }.partEnd]).updateDrained q) :=
    (MailboxesKept.refl _).updateDrained
  obtain ⟨hseq, hstate, hseen, hhalf⟩ := hflipped.congr (fun g hg => hdrained.fget hm (.inl hg))
  refine ⟨hseq.trans (congrArg nextSeq (hkept (.inl rfl))), hstate, ?_, hhalf.trans (congrArg (1 - ·) (hkept (.inl rfl))), fun x hx hxq => ?_⟩
  · rw [State.fbit, hseen]
    rfl
  · rw [hdrained.caravans, hleft, hcaravans, hret.caravans] at hx
    exact slot_left hx (State.slot_of_caravanOf hk) hxq

end Sys2Proof.Machine
end

section
/-! SUPPORT. A caravan's start: CARAVAN_BEGIN makes it ready, CARAVAN_PLACE puts it on its core. O14. -/

namespace Sys2Proof.Machine

/-! ### The caravans of a ring slot -/

theorem State.caravanHas_modCaravan (s : State) (q idx : Nat) {g : Caravan → Caravan} {p : Caravan → Prop} (hg : ∀ x, p (g x)) :
    caravanHas (s.modCaravan q idx g) q idx p := by
  intro x hx hq hi
  obtain ⟨y, -, rfl⟩ := List.mem_map.1 hx
  split at hq
  · next h => rw [if_pos h]; exact hg y
  · next h => rw [if_neg h] at hi; exact absurd ⟨hq, hi⟩ h

/-- A change that keeps names keeps which caravan is found. -/
theorem State.caravan?_modCaravan (s : State) (q idx : Nat) {g : Caravan → Caravan}
    (hg : ∀ x, (g x).queue = x.queue ∧ (g x).index = x.index) :
    (s.modCaravan q idx g).caravan? q idx = (s.caravan? q idx).map g := by
  have hname (x : Caravan) : ((if x.queue = q ∧ x.index = idx then g x else x).queue == q &&
      (if x.queue = q ∧ x.index = idx then g x else x).index == idx) = (x.queue == q && x.index == idx) := by
    split
    · rw [(hg x).1, (hg x).2]
    · rfl
  refine (List.find?_map ..).trans ?_
  rw [show ((fun c : Caravan => c.queue == q && c.index == idx) ∘ fun x => if x.queue = q ∧ x.index = idx then g x else x) =
    fun x => x.queue == q && x.index == idx from funext hname]
  change (s.caravan? q idx).map _ = _
  cases h : s.caravan? q idx with
  | none => rfl
  | some x => exact congrArg some (if_pos (by simpa using List.find?_some h))

/-! ### CARAVAN_BEGIN (R289, R291, R293) -/

/-- The caravan's time of readiness is set, its entry read, and what it says kept. -/
def State.caravanReady (s : State) (q idx : Nat) (k : Caravan) : State :=
  ((s.latchWaits.modCaravan q idx (fun x => { x with readyAt := some (x.readyAt.getD s.refTick) })).hubRead
    (s.entryAddr k.model) 128).modCaravan q idx (fun x => { x with checked := true, entry := s.modelEntry k.model })

theorem exec_caravanBegin {s : State} {q : Nat} {f : Flight} {k : Caravan} (hq : q < 65536) (hw : s.works = true)
    (hf : s.drover.flights.find? (fun f => f.queue == q && f.pos == 0 && dOpcode f.desc == opCARAVAN_BEGIN && s.mayStart f && s.waitsMet f) =
      some f)
    (hk : s.caravanOf f = some k) (hchecked : k.checked = false) (hcore : k.core = none) (hm : s.mbxAccepts k.mailbox k.part = true)
    (hfree : s.partTaken k.mailbox k.part = false) (he : s.entryFails k (s.modelEntry k.model) = false) :
    exec (.caravanBegin q) s = .next (s.caravanReady q f.index k) := by
  change execCaravanBegin q s = _
  rw [execCaravanBegin, unit_of_true (decide_eq_true hq), hf]
  dsimp only
  rw [hk]
  dsimp only
  rw [hm, hfree, he]
  exact due_of_true (by rw [hw, hchecked, hcore]; rfl) _ _

theorem State.mem_hubRead (s : State) (a n : Nat) : (s.hubRead a n).mem = s.mem := by
  unfold State.hubRead
  split
  · rfl
  · exact (State.injectCheck_regsReports ..).mem.trans (s.linkRx_regsReports ..).mem

theorem State.caravanReady_spec (s : State) {q idx : Nat} {k : Caravan} (hk : s.caravan? q idx = some k) :
    caravanHas (s.caravanReady q idx k) q idx (fun x => x.checked = true ∧ x.entry = s.modelEntry k.model) ∧
    (∃ x, (s.caravanReady q idx k).caravan? q idx = some x ∧ x.readyAt = some (k.readyAt.getD s.refTick)) ∧
    (s.caravanReady q idx k).mem = s.mem := by
  refine ⟨State.caravanHas_modCaravan _ _ _ (fun _ => ⟨rfl, rfl⟩), ?_, ?_⟩
  · have hread := (Traffic.refl (s.latchWaits.modCaravan q idx (fun x => { x with readyAt := some (x.readyAt.getD s.refTick) }))).hubRead
      (a := s.entryAddr k.model) (n := 128)
    have hslot := State.caravan?_modCaravan s.latchWaits q idx (g := fun x => { x with readyAt := some (x.readyAt.getD s.refTick) })
      (fun _ => ⟨rfl, rfl⟩)
    have hlatch : s.latchWaits.caravan? q idx = some k := hk
    rw [State.caravanReady, State.caravan?_modCaravan, State.caravan?, hread.drover, ← State.caravan?, hslot, hlatch]
    · exact ⟨_, rfl, rfl⟩
    · exact fun _ => ⟨rfl, rfl⟩
  · exact State.mem_hubRead ..

/-! ### What a placement sets, and what leaves it alone -/

/-- The registers in which a placement on core `c` for mailbox `m` shows. -/
def placementRegs (c m : Nat) : Nat → Prop :=
  anyOf [CORE_TASK_CURRENT.addr c 0 0 0, QM_PLACEMENTS.addr 0 0 0 0, QM_MBXm_STATE.addr m 0 0 0]

/-- What a placement sets of a caravan, with the name of its ring slot. -/
def Caravan.placement (k : Caravan) : (Nat × Nat) × Option Nat × Bool × Nat := ((k.queue, k.index), k.core, k.begun, k.placedAt)

/-- `t` has of `s` all that a placement on core `c` for mailbox `m` sets. -/
structure PlacementKept (c m : Nat) (s t : State) : Prop where
  placements : t.drover.caravans.map Caravan.placement = s.drover.caravans.map Caravan.placement
  refTick : t.refTick = s.refTick
  length : t.cores.length = s.cores.length
  curves : (t.coreAt c).curves = (s.coreAt c).curves
  regs : regsKept s t (fun a => ¬ placementRegs c m a)

theorem not_placementRegs_of_traffic {c m a : Nat} (hc : c < 8) (hm : m < 4096) (h : trafficRegs a) : ¬ placementRegs c m a := by
  simp only [trafficRegs, placementRegs, anyOf, Reg.addr, QM_SWITCH_B, QM_SWITCH_LAST, QM_COMMIT_NEXT, CORE_TASK_CURRENT, QM_PLACEMENTS,
    QM_MBXm_STATE, List.mem_cons, List.not_mem_nil, or_false] at h ⊢
  omega

theorem not_placementRegs_of_tally {c m a : Nat} (hm : m < 4096) (h : 0x0100_01D0_0000 ≤ a ∧ a < 0x0100_0200_0000) :
    ¬ placementRegs c m a := by
  simp only [placementRegs, anyOf, Reg.addr, CORE_TASK_CURRENT, QM_PLACEMENTS, QM_MBXm_STATE, List.mem_cons, List.not_mem_nil, or_false]
  omega

namespace PlacementKept

variable {c m : Nat} {s t u : State}

theorem refl (c m : Nat) (s : State) : PlacementKept c m s s := ⟨rfl, rfl, rfl, rfl, .refl s _⟩

theorem trans (h : PlacementKept c m s t) (h' : PlacementKept c m t u) : PlacementKept c m s u :=
  ⟨h'.placements.trans h.placements, h'.refTick.trans h.refTick, h'.length.trans h.length, h'.curves.trans h.curves, h.regs.trans h'.regs⟩

theorem of_traffic (hc : c < 8) (hm : m < 4096) (h : Traffic s t) : PlacementKept c m s t :=
  ⟨congrArg (List.map _ ∘ Drover.caravans) h.drover, h.refTick, h.length, h.curves c,
    h.regs.mono (fun _ => not_placementRegs_of_traffic hc hm)⟩

theorem fget (h : PlacementKept c m s t) {f : Field} {i : Nat} (hf : placementRegs c m (f.reg.addr i 0 0 0)) : t.fget f i = s.fget f i :=
  h.regs.fget (not_not_intro hf)

/-- What a placement has set of a slot's caravan stands. -/
theorem caravanHas (h : PlacementKept c m s t) {q idx : Nat} {p : Option Nat × Bool × Nat → Prop}
    (hs : caravanHas s q idx (fun x => p x.placement.2)) : caravanHas t q idx (fun x => p x.placement.2) := by
  intro x hx hq hi
  have hmem : x.placement ∈ s.drover.caravans.map Caravan.placement := h.placements ▸ List.mem_map_of_mem hx
  obtain ⟨y, hy, he⟩ := List.mem_map.1 hmem
  obtain ⟨hname, -⟩ := (Prod.mk.injEq ..).mp he
  obtain ⟨hyq, hyi⟩ := (Prod.mk.injEq ..).mp hname
  exact he ▸ hs y hy (hyq.trans hq) (hyi.trans hi)

/-! ### Tallies and completions (R232 to R236) -/

theorem tallyPut (s : State) {n : Nat} (hm : m < 4096) (hn : n < 65536) (v : Nat) : PlacementKept c m s (s.tallyPut n v) := by
  refine ⟨rfl, rfl, rfl, rfl, (regsKept.refl s _).fset (t := s.latchWaits) (f := TLY_t_COUNT_COUNT) v (not_placementRegs_of_tally hm ?_)⟩
  simp only [Reg.addr, TLY_t_COUNT_COUNT, TLY_t_COUNT]
  omega

theorem signal (s : State) {n : Nat} (hm : m < 4096) (hn : n < 65536) (inc : Nat) : PlacementKept c m s (s.signal n inc) :=
  (tallyPut s hm hn _).trans ⟨rfl, rfl, rfl, rfl,
    (regsKept.refl _ _).fadd (f := TLY_SIGNALS_COUNT) 1 (not_placementRegs_of_tally hm (by decide))⟩

theorem deliver (s : State) {l : List (Nat × Nat)} (hm : m < 4096) (hl : ∀ x ∈ l, x.1 < 65536) : PlacementKept c m s (s.deliver l) :=
  List.foldlRecOn (motive := PlacementKept c m s) l _ (refl c m s) (fun t ht x hx => ht.trans (signal t hm (hl x hx) x.2))

theorem settle (s : State) {f : Flight} (hm : m < 4096) (hf : ∀ x ∈ s.signalsOf f, x.1 < 65536) : PlacementKept c m s (s.settle f) := by
  unfold State.settle
  dsimp only
  split
  · exact deliver s hm hf
  · split
    · exact refl c m s
    · exact ⟨rfl, rfl, rfl, rfl, .refl s _⟩

theorem modFlight (s : State) (r : DescRef) (g : Flight → Flight) : PlacementKept c m s (s.modFlight r g) :=
  ⟨rfl, rfl, rfl, rfl, .refl s _⟩

theorem modCaravan (s : State) (q idx : Nat) {g : Caravan → Caravan} (hg : ∀ k, (g k).placement = k.placement) :
    PlacementKept c m s (s.modCaravan q idx g) := by
  refine ⟨(List.map_map ..).trans (List.map_congr_left (fun k _ => ?_)), rfl, rfl, rfl, .refl s _⟩
  simp only [Function.comp_apply]
  split
  · exact hg k
  · rfl

/-- A ring descriptor signals tallies by their own numbers (R231). -/
theorem signalsOf_lt {f : Flight} (hpos : f.pos = 0) : ∀ x ∈ s.signalsOf f, x.1 < 65536 := by
  intro x hx
  have hfield (d i : Nat) : tallyNum (dSignal d i).1 none < 65536 := by
    have hlt : (dSignal d i).1 < 65536 := Nat.mod_lt _ (by decide)
    unfold tallyNum
    split <;> exact hlt
  unfold State.signalsOf at hx
  split at hx
  · cases hx
  · obtain ⟨i, -, rfl⟩ := List.mem_map.1 hx
    simpa only [State.ownRange, if_pos hpos] using hfield f.desc i

/-- The completion of a ring descriptor. -/
theorem completeFlight (s : State) {q idx : Nat} (hm : m < 4096) : PlacementKept c m s (s.completeFlight ⟨q, idx, 0⟩) := by
  unfold State.completeFlight
  split
  · exact refl c m s
  · next f hf =>
    have hpos : f.pos = 0 := congrArg DescRef.pos (by simpa using List.find?_some hf : f.ref = ⟨q, idx, 0⟩)
    exact ((settle s hm (signalsOf_lt hpos)).trans (modFlight _ _ _)).trans (modCaravan _ _ _ (fun _ => rfl))

end PlacementKept

/-! ### CARAVAN_PLACE (R293, R297) -/

/-- A core takes a task, its curve stores empty. -/
def State.takeTask (s : State) (c task : Nat) : State :=
  ((s.fset CORE_TASK_CURRENT_TASK task c).modCore c (fun x => { x with curves := [none, none, none, none] })).fset
    VEC_STATUS_CURVES_LOADED 0 c

/-- A range of tallies at 0. -/
def State.clearTallies (s : State) (base n : Nat) : State := (List.range n).foldl (fun s i => s.tallyPut (base + i) 0) s

/-- A part begins with its placement, which counts. -/
def State.placePart (s : State) (m p : Nat) : State := (s.beginPart m p).fadd QM_PLACEMENTS_COUNT 1

/-- A caravan is on its core. -/
def State.placeCaravan (s : State) (k : Caravan) (c dg step : Nat) : State :=
  s.modCaravan k.queue k.index (fun x => { x with
    core := some c, placedAt := s.refTick, begun := true, digest := dg, stateStep := step })

theorem State.placeCaravan_frame (s : State) (k : Caravan) (c dg step : Nat) :
    (s.placeCaravan k c dg step).regs = s.regs ∧ ∀ d, (s.placeCaravan k c dg step).coreAt d = s.coreAt d := ⟨rfl, fun _ => rfl⟩

/-- The part of a placement before its part begins: the switch, the task, the tallies, and the digest's reads. -/
def State.placeCore (s : State) (k : Caravan) (c : Nat) : State :=
  ((((s.switchCore c k.entry (s.taskLatch c k.task)).takeTask c k.task).clearTallies k.tallyBase k.tallyCount).eccLive c k.entry
    (s.taskLatch c k.task).base).digestTraffic k c

theorem State.placeOn_eq {s : State} {k : Caravan} {c : Nat} (hlive : s.liveBounded c k.entry (s.taskLatch c k.task) = true)
    (hsheet : s.sheetBad k.mailbox k.part = false) : ∃ ph dg step, s.placeOn k c =
      (((((s.placeCore k c).placePart k.mailbox k.part).setPhase c ph).placeCaravan k c dg step).endFlight ⟨k.queue, k.index, 0⟩
        stOK).completeFlight ⟨k.queue, k.index, 0⟩ := by
  unfold State.placeOn
  extract_lets l r
  rw [if_neg (by rw [hlive, hsheet]; decide)]
  exact ⟨_, _, _, rfl⟩

/-- A caravan is placed on a core of the part only. -/
theorem State.coreFor_lt {s : State} {k : Caravan} {c : Nat} (h : s.coreFor k = some c) : c < 8 := by
  have hmem : c ∈ placeList k.pin k.entry := List.mem_of_find?_eq_some h
  unfold placeList at hmem
  split at hmem
  · rw [List.mem_singleton.1 hmem]
    omega
  · simpa using (List.mem_filter.1 hmem).2

theorem exec_caravanPlace {s : State} {k : Caravan} {c : Nat} (hw : s.works = true) (hk : s.nextPlaced = some k) (hc : s.coreFor k = some c) :
    exec .caravanPlace s = .next (s.placeOn k c) := by
  change execCaravanPlace s = _
  rw [execCaravanPlace, hk]
  dsimp only
  rw [hc]
  exact due_of_true hw _ _

theorem State.takeTask_spec {s : State} {c : Nat} (task : Nat) (hc : c < s.cores.length) {t : State}
    (ht : t = s.takeTask c task) : t.fget CORE_TASK_CURRENT_TASK c = task % 16 ∧ (t.coreAt c).curves = [none, none, none, none] ∧
      t.fget QM_PLACEMENTS_COUNT = s.fget QM_PLACEMENTS_COUNT ∧ t.refTick = s.refTick := by
  have hvec : CORE_TASK_CURRENT.addr c 0 0 0 ≠ VEC_STATUS.addr c 0 0 0 ∧ QM_PLACEMENTS.addr 0 0 0 0 ≠ VEC_STATUS.addr c 0 0 0 ∧
      QM_PLACEMENTS.addr 0 0 0 0 ≠ CORE_TASK_CURRENT.addr c 0 0 0 := by
    simp only [Reg.addr, CORE_TASK_CURRENT, VEC_STATUS, QM_PLACEMENTS]
    omega
  obtain ⟨hcur, hpv, hpc⟩ := hvec
  subst ht
  refine ⟨?_, ?_, ?_, rfl⟩
  · exact (State.fget_fset_ne _ _ hcur).trans ((State.fget_of_regs_eq (State.regs_modCore ..) ..).trans
      (State.fget_fset_self _ _ _ _ _ _ (by decide)))
  · rw [State.takeTask, State.coreAt, State.cores_fset, ← State.coreAt, State.coreAt_modCore, if_pos ⟨rfl, hc⟩]
  · exact (State.fget_fset_ne _ _ hpv).trans ((State.fget_of_regs_eq (State.regs_modCore ..) ..).trans (State.fget_fset_ne _ _ hpc))

theorem PlacementKept.clearTallies {c m base n : Nat} (s : State) (hm : m < 4096) (hn : base + n ≤ 65536) :
    PlacementKept c m s (s.clearTallies base n) :=
  List.foldlRecOn (motive := PlacementKept c m s) _ _ (.refl c m s)
    (fun t ht i hi => ht.trans (.tallyPut t hm (by have := List.mem_range.1 hi; omega) 0))

theorem State.placeCore_spec {s : State} {k : Caravan} {c : Nat} (hc : c < 8) (hcores : c < s.cores.length) (hm : k.mailbox < 4096)
    (htally : k.tallyBase + k.tallyCount ≤ 65536) : (s.placeCore k c).fget CORE_TASK_CURRENT_TASK c = k.task % 16 ∧
      ((s.placeCore k c).coreAt c).curves = [none, none, none, none] ∧
      (s.placeCore k c).fget QM_PLACEMENTS_COUNT = s.fget QM_PLACEMENTS_COUNT ∧ (s.placeCore k c).refTick = s.refTick := by
  have hswitch : PlacementKept c k.mailbox s (s.switchCore c k.entry (s.taskLatch c k.task)) :=
    .of_traffic hc hm (Traffic.switchCore (.refl s))
  unfold State.placeCore
  generalize s.switchCore c k.entry (s.taskLatch c k.task) = u at *
  obtain ⟨htask, hcurves, hcount, htick⟩ := u.takeTask_spec k.task (hswitch.length ▸ hcores) rfl
  generalize u.takeTask c k.task = v at *
  have hrest : PlacementKept c k.mailbox v
      (((v.clearTallies k.tallyBase k.tallyCount).eccLive c k.entry (s.taskLatch c k.task).base).digestTraffic k c) :=
    (PlacementKept.clearTallies v hm htally).trans (.of_traffic hc hm ((Traffic.refl _).eccLive.digestTraffic (by omega)))
  exact ⟨(hrest.fget (f := CORE_TASK_CURRENT_TASK) (.head _)).trans htask, hrest.curves.trans hcurves,
    (hrest.fget (f := QM_PLACEMENTS_COUNT) (.tail _ (.head _))).trans
      (hcount.trans (hswitch.fget (f := QM_PLACEMENTS_COUNT) (.tail _ (.head _)))),
    hrest.refTick.trans (htick.trans hswitch.refTick)⟩

theorem State.placePart_spec (s : State) {c m p : Nat} (hm : m < 4096) (hp : p < 16) {t : State} (ht : t = s.placePart m p) :
    t.mbxPending m = true ∧ bitAt (t.fget QM_MBXm_STATE_BEGUN m) p = true ∧
      t.fget QM_PLACEMENTS_COUNT = (s.fget QM_PLACEMENTS_COUNT + 1) % 2 ^ 64 ∧
      t.fget CORE_TASK_CURRENT_TASK c = s.fget CORE_TASK_CURRENT_TASK c ∧ t.cores = s.cores ∧ t.refTick = s.refTick := by
  have hmbx : QM_MBXm_STATE.addr m 0 0 0 ≠ QM_PLACEMENTS.addr 0 0 0 0 ∧ CORE_TASK_CURRENT.addr c 0 0 0 ≠ QM_PLACEMENTS.addr 0 0 0 0 ∧
      CORE_TASK_CURRENT.addr c 0 0 0 ≠ QM_MBXm_STATE.addr m 0 0 0 := by
    simp only [Reg.addr, CORE_TASK_CURRENT, QM_MBXm_STATE, QM_PLACEMENTS]
    omega
  obtain ⟨hmp, hcp, hcm⟩ := hmbx
  subst ht
  refine ⟨?_, ?_, ?_, ?_, rfl, rfl⟩
  · have hstate : (s.placePart m p).fget QM_MBXm_STATE_STATE m = 2 := (State.fget_fadd_ne _ _ hmp).trans
      ((State.fget_fset_other _ _ _ _ _ _ (by rfl) (by decide)).trans (State.fget_fset_self _ _ _ _ _ _ (by decide)))
    rw [State.mbxPending, hstate]
    rfl
  · have hbegun : (s.placePart m p).fget QM_MBXm_STATE_BEGUN m = putBits (s.fget QM_MBXm_STATE_BEGUN m) p 1 1 % 2 ^ 16 :=
      (State.fget_fadd_ne _ _ hmp).trans (State.fget_fset_self _ _ _ _ _ _ (by decide))
    rw [hbegun, bitAt_putBits_mod hp]
    rfl
  · have hcount : (s.beginPart m p).fget QM_PLACEMENTS_COUNT = s.fget QM_PLACEMENTS_COUNT :=
      (State.fget_fset_ne _ _ hmp.symm).trans (State.fget_fset_ne _ _ hmp.symm)
    rw [State.placePart, State.fget_fadd_self _ _ _ _ _ _ (by decide), hcount]
    rfl
  · exact (State.fget_fadd_ne _ _ hcp).trans ((State.fget_fset_ne _ _ hcm).trans (State.fget_fset_ne _ _ hcm))

/-- A placement on a core of the part (R293). -/
theorem caravanPlace_spec {s : State} {k : Caravan} {c : Nat} (hw : s.works = true) (hk : s.nextPlaced = some k) (hc : s.coreFor k = some c)
    (hcores : c < s.cores.length) (htally : k.tallyBase + k.tallyCount ≤ 65536)
    (hlive : s.liveBounded c k.entry (s.taskLatch c k.task) = true) (hsheet : s.sheetBad k.mailbox k.part = false) (hm : k.mailbox < 4096)
    (hp : k.part < 16) : ∃ t, exec .caravanPlace s = .next t ∧
      caravanHas t k.queue k.index (fun x => x.core = some c ∧ x.begun = true ∧ x.placedAt = s.refTick) ∧
      t.fget CORE_TASK_CURRENT_TASK c = k.task % 16 ∧ (t.coreAt c).curves = [none, none, none, none] ∧ t.mbxPending k.mailbox = true ∧
      bitAt (t.fget QM_MBXm_STATE_BEGUN k.mailbox) k.part = true ∧
      t.fget QM_PLACEMENTS_COUNT = (s.fget QM_PLACEMENTS_COUNT + 1) % 2 ^ 64 := by
  have hc8 := State.coreFor_lt hc
  obtain ⟨ph, dg, step, hplace⟩ := State.placeOn_eq hlive hsheet
  have hexec := exec_caravanPlace hw hk hc
  rw [hplace] at hexec
  refine ⟨_, hexec, ?_⟩
  clear hplace hexec
  obtain ⟨htask, hcurves, hcount, htick⟩ := State.placeCore_spec hc8 hcores hm htally
  generalize s.placeCore k c = u at *
  obtain ⟨hpend, hbegun, hcounted, htask', hcores', htick'⟩ := u.placePart_spec (c := c) hm hp rfl
  generalize u.placePart k.mailbox k.part = v at *
  have hphase : PlacementKept c k.mailbox v (v.setPhase c ph) := .of_traffic hc8 hm ((Traffic.refl v).setPhase hc8)
  generalize v.setPhase c ph = w at *
  obtain ⟨hregs, hcore⟩ := w.placeCaravan_frame k c dg step
  have hplaced : caravanHas (w.placeCaravan k c dg step) k.queue k.index (fun x => x.core = some c ∧ x.begun = true ∧ x.placedAt = w.refTick) :=
    State.caravanHas_modCaravan _ _ _ (fun _ => ⟨rfl, rfl, rfl⟩)
  have hend : PlacementKept c k.mailbox (w.placeCaravan k c dg step)
      (((w.placeCaravan k c dg step).endFlight ⟨k.queue, k.index, 0⟩ stOK).completeFlight ⟨k.queue, k.index, 0⟩) :=
    (PlacementKept.modFlight _ _ _).trans (.completeFlight _ hm)
  have hkept (f : Field) (i : Nat) (hf : placementRegs c k.mailbox (f.reg.addr i 0 0 0)) :
      State.fget _ f i = v.fget f i := (hend.fget hf).trans ((State.fget_of_regs_eq hregs ..).trans (hphase.fget hf))
  have hmbx : placementRegs c k.mailbox (QM_MBXm_STATE.addr k.mailbox 0 0 0) := .tail _ (.tail _ (.head _))
  refine ⟨?_, (hkept CORE_TASK_CURRENT_TASK c (.head _)).trans (htask'.trans htask), ?_, ?_, ?_,
    (hkept QM_PLACEMENTS_COUNT 0 (.tail _ (.head _))).trans ?_⟩
  · rw [← htick, ← htick', ← hphase.refTick]
    exact hend.caravanHas (p := fun x => x.1 = some c ∧ x.2.1 = true ∧ x.2.2 = w.refTick) hplaced
  · rw [hend.curves, hcore, hphase.curves, State.coreAt, hcores', ← State.coreAt, hcurves]
  · rw [State.mbxPending, hkept QM_MBXm_STATE_STATE _ hmbx]
    exact hpend
  · rw [hkept QM_MBXm_STATE_BEGUN _ hmbx]
    exact hbegun
  · rw [hcounted, hcount]

/-- Settles O14, from one lemma for each of its two commands. -/
theorem caravansBecomeReadyAndArePlaced : Obligations.CaravansBecomeReadyAndArePlaced := by
  unfold Obligations.CaravansBecomeReadyAndArePlaced
  refine ⟨fun q f k s hq hw hf hk hchecked hcore hm hfree he => ?_,
    fun c k s hw hk hc hcores htally hlive hsheet hm hp => caravanPlace_spec hw hk hc hcores htally hlive hsheet hm hp⟩
  have hqueue : f.queue = q := by
    have hfound := List.find?_some hf
    simp only [Bool.and_eq_true, beq_iff_eq] at hfound
    exact hfound.1.1.1.1
  obtain ⟨hready, hat, hmem⟩ := s.caravanReady_spec (hqueue ▸ hk : s.caravan? q f.index = some k)
  exact ⟨_, exec_caravanBegin hq hw hf hk hchecked hcore hm hfree he, hready, hat, .of_mem_eq hmem _⟩

end Sys2Proof.Machine
end
